-- ==== Sys2Proof/Word.lean ====
section
/-! DEFINITION. The word types of the model and the shape of its sparse tables.
Bit vectors stand only where the manual itself treats a value as bits (bytes of a memory row, an IEEE
pattern, an accumulator, a digest); counts, indices, times and identifiers are natural numbers. -/

namespace Sys2Proof

/-- One byte of a memory, a record or a descriptor. -/
abbrev Byte := BitVec 8

/-- A binary32 pattern (R72). -/
abbrev Fp32 := BitVec 32

/-- A SHA-384 value (R194, R354). -/
abbrev Digest := BitVec 384

/-- A sparse table: key and value pairs in one canonical form (keys strictly rising, and no entry that
equals what an unlisted key reads as); the form is `Table.wf` of Machine/Table.lean. -/
abbrev Table (α : Type) := List (Nat × α)

/-- A memory of bytes, as the host's cells: address and byte. -/
abbrev Memory := List (Nat × BitVec 8)

/-- An exact non-negative fraction, not normalised: the times that admission adds up (R248). -/
structure Frac where
  num : Nat
  den : Nat
  deriving DecidableEq, Repr

end Sys2Proof
end

