-- ==== Sys2Proof/Syntax.lean ====
section
/-! DEFINITION. The commands of the block: one constructor of `Instr` for each row of the table of
operations and events, and the operand shapes they carry.

The table gives its rows no operand fields; an operand here is what the row's rules say the command names
(an opcode's operands of "Command Reference"), or what the outside world supplies with the event (a time,
a sensor value, the outcome of a check on outside data). Log entry 1 says so. -/

namespace Sys2Proof

/-! ## The mailbox header (R304) -/

/-- The header of a fetched command: the queue it came from, the fields of R304, and what the module found
when it read the descriptor and its data. `time` is the host time at which the scribe handles it. -/
structure Hdr where
  time : Nat
  /-- 0 is the physical function, n is virtual function n (R279) -/
  func : Nat
  qp : Nat
  cid : Nat
  fence : Bool := false
  timeoutMs : Nat := 0
  dataLen : Nat := 0
  /-- the reserved bytes and bits of the descriptor and its data, or-ed together (R9) -/
  rsvd : Nat := 0
  /-- DATA_ADDR, DATA_LEN or the range list breaks R304 or R305 -/
  dataBad : Bool := false
  /-- a read or write of the command's data failed on the link (DATA_FAULT, R307) -/
  dataFault : Bool := false
  deriving DecidableEq, Repr

/-! ## Numbers and tensors -/

/-- Element formats of chapter 4 (R98 to R102); the order is FORMAT of R109. -/
inductive Fmt where
  | n4 | n3 | t2 | e4m3 | e5m2 | bf16
  deriving DecidableEq, Repr, Inhabited

/-- Sparsity of an N4 weight tensor (R105, R106). -/
inductive Sparsity where
  | dense | twoOfFour | oneOfFour
  deriving DecidableEq, Repr

/-- Source formats of a host tensor (R338). -/
inductive SrcFmt where
  | fp32 | mxfp4 | mxfp6e2m3 | mxfp6e3m2 | mxfp8e4m3 | mxfp8e5m2 | mxint8
  deriving DecidableEq, Repr

/-- One tensor of host data (R338, R452). -/
structure TensorIn where
  tensor : Nat
  layer : Nat := 0
  src : SrcFmt
  target : Fmt
  count : Nat
  bytes : List Byte
  deriving DecidableEq, Repr

/-- An adapter image of R338. -/
structure AdapterImage where
  magicOk : Bool := true
  /-- every reserved byte of the header and of the tensor heads is zero, and every code is a listed one -/
  headsOk : Bool := true
  modelId : Nat
  tensors : List TensorIn
  deriving DecidableEq, Repr

/-- The functions of VXCEND (R72). -/
inductive XcendFn where
  | exp | log | recip | rsqrt | tanh
  deriving DecidableEq, Repr, Inhabited

/-- The functions of VALU: the two reductions that R72 names, and every other function by its OPC code. -/
inductive ValuFn where
  | sum | max | other (code : Nat)
  deriving DecidableEq, Repr, Inhabited

/-- An operand of a row, and what the environment brings with it (log entry 15): for a time, the level of REFCLK, the damage
that stop records have taken by SEQ, the feeds' voltages or an acknowledgement; for a read, what the error correction finds; for an access or a run, how often it wins or stalls by force. -/
structure Met (α β : Type) where
  val : α
  met : β
  deriving DecidableEq, Repr

/-- The bits that read wrong in one row of a read (R87 to R89): the environment supplies them. -/
structure RowEcc where
  /-- the row's place among the rows of the read -/
  place : Nat := 0
  /-- wrong bits, each once: 0 to 511 of the row's 64 bytes, 512 + 9 w and the 8 after it of word w's SEC-DED code, 548 to 579 of the
  symbol code -/
  bits : List Nat := []
  /-- a row correction shares the stall of another of the same cycle (R88) -/
  shared : Bool := false
  /-- the refilled row reads back clean (R89) -/
  refillClean : Bool := false
  deriving DecidableEq, Repr

/-- What the error correction of a read found: an entry for each row that is not clean. -/
abbrev Ecc := List RowEcc

/-- A finding of a stroke that reads in several places: the row's byte address in the own cluster's slices, or in the tile's
scratchpad. -/
structure Found where
  inSlice : Bool := false
  addr : Nat
  row : RowEcc
  deriving DecidableEq, Repr

/-- What a DMA transfer met at the arbiters on its way (R51, R81, R82): writes that lost to a read of the same row,
grants after three losses, of these the ones that took a cycle from a stroke; and the grants of each arbiter on its way since the last
completion. -/
structure DmaLoad where
  yields : Nat := 0
  forced : Nat := 0
  stalls : Nat := 0
  grants : Nat := 0
  /-- local cycles that the island was gated for this completion (R43) -/
  gated : Nat := 0
  deriving DecidableEq, Repr

/-! ## Strokes (R73, R74) -/

/-- The fields that every stroke carries: the tile that issues it, its predicate and its DELTA. -/
structure StrokeHdr where
  /-- unit identifier of the tile (R4) -/
  tile : Nat
  pred : Nat := 0
  predNeg : Bool := false
  delta : Nat := 0
  deriving DecidableEq, Repr

/-- Source of PRED_LOAD (R74). -/
inductive PredSrc where
  | scratchBit (addr bit : Nat)
  | descBit (word bit : Nat)
  | topkBit (index : Nat)
  deriving DecidableEq, Repr, Inhabited

/-- Weight source of MAC (R74): "latched", or an element row of a slice or scratchpad. -/
inductive WeightSrc where
  | latched
  | scratch (addr : Nat)
  | slice (addr : Nat)
  deriving DecidableEq, Repr, Inhabited

/-- The operations of a tile with the operands the sequencer has decoded. -/
inductive StrokeOp where
  | nop
  | loopBegin (ctr count : Nat) (fromDesc : Bool)
  | loopEnd (ctr : Nat)
  | stepBegin
  | stepEnd (energyMj : Nat)
  | predLoad (p : Nat) (src : PredSrc) (ecc : Ecc)
  | mac (act : Nat) (w : WeightSrc) (acc : Nat) (found : List Found)
  | drain (dst acc : Nat) (scale : Option Fp32)
  | valu (dst : Nat) (srcs : List Nat) (fn : ValuFn)
  | vxcend (dst src : Nat) (fn : XcendFn)
  | narrow (dst src : Nat) (opc : BitVec 32)
  | widen (dst src scaleAddr : Nat) (fmt : Fmt) (found : List Found)
  | load (vreg addr : Nat) (ecc : Ecc)
  | store (vreg addr : Nat)
  | sliceRead (dst addr unit rows crossing : Nat) (merge : Bool) (ecc : Ecc)
  | sliceWrite (src addr unit rows crossing : Nat) (bufferFull : Bool) (ecc : Ecc)
  | send (src unit addr rows crossing : Nat) (bufferFull : Bool) (ecc : Ecc)
  | recv (dst crossing : Nat)
  | ligSend (src unit addr tag rows : Nat) (ecc : Ecc)
  | ligRecv (dst tag : Nat) (scale : Option Fp32)
  | dmaPost (index : Nat)
  | dmaWait (ctr count : Nat)
  deriving DecidableEq, Repr

/-! ## Prompts and requests -/

/-- A prompt segment of R259. -/
inductive Segment where
  | text (bytes : List Byte)
  | ids (ids : List Nat)
  deriving DecidableEq, Repr

/-- A prompt: segments, or a Sealed prompt of R273. For a Sealed prompt the environment supplies what the
cryptographic engine finds: the counter of its IV, whether prefix and tag authenticate, and the plaintext. -/
inductive Prompt where
  | plain (segs : List Segment)
  | sealedText (n : Nat) (authOk : Bool) (cipherLen ivSession : Nat) (segs : List Segment)
  deriving DecidableEq, Repr

/-- Operands and request block of REQ_SUBMIT (R334, R335). -/
structure ReqOps where
  session : Nat
  tenant : Nat
  usePrefix : Bool := false
  lateSet : Bool := false
  lateStop : Bool := false
  text : Bool := false
  d : Nat := 0
  maxTokens : Nat
  temperature : Fp32 := 0#32
  topP : Fp32 := 0x3F800000#32
  topK : Nat := 0
  stencil : Nat := 0xFFFF
  deadline : Nat := 0
  ttftLimit : Nat := 0
  itbLimit : Nat := 0
  handle : Nat := 0
  pagesP : Nat := 0
  stopTokens : List Nat := []
  stopSeqs : List (List Byte) := []
  prompt : Prompt
  deriving DecidableEq, Repr

/-! ## Folio files -/

/-- A state of a stencil as its record says it (R184). -/
structure StencilState where
  mask : Nat
  accept : Bool
  /-- first token, last token, next state -/
  trans : List (Nat × Nat × Nat)
  deriving DecidableEq, Repr

/-- A stencil of R184: its 16-byte state records, its masks, each a bitmap as a number with bit v for token v, and its table of 12-byte
transition entries. -/
structure Stencil where
  states : List (BitVec 128)
  masks : List Nat
  trans : List (BitVec 96) := []
  deriving DecidableEq, Repr

/-- Header, colophon and tree of a Folio as its source presents them (R191 to R194, R360). The outcome of a
signature and of the key unwrap is supplied (log entry 5). -/
structure FolioHead where
  magic : Nat := 0x4F464847
  version : Nat := 0x0100
  flags : Nat := 0
  chunkCount : Nat
  treeNodes : Nat
  chunkBase : Nat
  modelId : Nat := 0
  buildId : Nat := 0
  shapeId : Nat := 0
  root : Digest := 0
  sramBytes : Nat := 0
  minFirmware : Nat := 0
  publisher : Nat
  rsvdZero : Bool := true
  colMagic : Nat := 0x4F434847
  colPublisher : Nat
  colRsvdZero : Bool := true
  rsaOk : Bool := true
  slhOk : Bool := true
  wrapTarget : Nat := 0
  wrapOk : Bool := true
  /-- the rest of the wrap block (R360): MAGIC, VERSION, reserved fields, the ML-KEM-1024 ciphertext, the publisher's ephemeral P-384 key,
  and the wrapped content key -/
  wrapMagic : Nat := 0x52574847
  wrapVersion : Nat := 0x0100
  wrapRsvdZero : Bool := true
  kemCt : List Byte := []
  ecEph : List Byte := []
  wrappedKey : List Byte := []
  /-- the chunk tree area: level 0, then each further level, the root last (R194) -/
  tree : List Digest := []
  /-- GENERATION of a PEER source's export when the load began (R205) -/
  generation : Nat := 0
  /-- bytes of the source (the HOST range list's total), and whether a read of it failed -/
  sourceBytes : Nat
  readFailed : Bool := false
  deriving DecidableEq, Repr

/-- A section table entry (R195). -/
structure Section where
  type : Nat
  flags : Nat := 0
  offset : Nat
  length : Nat
  /-- its two RSVD fields, as one number -/
  rsvd : Nat := 0
  deriving DecidableEq, Repr

/-- One stroke list of a placement: the tile, the form, the 128-bit strokes (R73), and the tile's DMA descriptors by table
index (R69, R91). -/
structure TileList where
  tile : Nat
  streaming : Bool
  reference : Bool := false
  strokes : List (BitVec 128)
  dma : List (Nat × BitVec 256) := []
  deriving DecidableEq, Repr

/-- An entry of the placement's tensor table (R104, R114). -/
structure TensorEntry where
  tensor : Nat
  fmt : Fmt
  sparsity : Sparsity := .dense
  elemBase : Nat
  scaleBase : Nat := 0
  metaBase : Nat := 0
  blocks : Nat
  /-- the tensor lies in a slice of the tile's own cluster, not in its scratchpad -/
  inSlice : Bool := false
  deriving DecidableEq, Repr

/-- A ligature operation (R57). -/
inductive LigOp where
  | sum | topk (k : Nat)
  deriving DecidableEq, Repr

/-- An expected input of a ligature node (R57): a tile of the local cluster, or a neighbouring direction. -/
inductive LigIn where
  | tile (n : Nat)
  | dir (d : Nat)
  deriving DecidableEq, Repr

/-- A ligature table entry (R57). -/
structure LigEntry where
  tag : Nat
  /-- the expected inputs in operand order -/
  inputs : List LigIn
  op : LigOp
  /-- the cluster that takes the result: the next node, or the destination when `final` -/
  dest : Nat
  final : Bool
  /-- as which input the result enters the next node -/
  into : LigIn := .dir 0
  /-- q of R124 is 2^-quantum, for a reduction in reference mode -/
  quantum : Nat := 20
  tensor : Nat := 0
  /-- bytes of the router's 64 KiB ligature buffer that the placement allocates to the tag (R60) -/
  alloc : Nat := 4096
  /-- the layer whose route words a final TOPK writes, if any (R163) -/
  layer : Option Nat := none
  deriving DecidableEq, Repr

/-- The role of a placed cluster (R149). -/
inductive Role where
  | layer (l : Nat) | common | headroom | prefill
  deriving DecidableEq, Repr

/-- What a placement says of one cluster. -/
structure ClusterPlan where
  unit : Nat
  role : Role
  tensors : List TensorEntry := []
  ligs : List LigEntry := []
  /-- destination die to direction 0 to 3 (R46) -/
  routes : List (Nat × Nat) := []
  /-- frames and regions of type SHARED (R84): tile 0 to 15, or 16 for the slices, and the frame or region number -/
  shared : List (Nat × Nat) := []
  /-- slice regions of type ADAPTER (R84, R170); every frame and region in neither list is WORK -/
  adapters : List Nat := []
  /-- steps that the cluster's boundary frames hold: more than 0 for the first island of a die's layer run, and for the tail
  input of COMMON (R438) -/
  boundary : Nat := 0
  deriving DecidableEq, Repr

/-- A repair variant (R435): the units it covers, the headroom it claims. -/
structure Variant where
  covers : List Nat
  claims : List Nat
  deriving DecidableEq, Repr

/-- One line of the STEP_TIMES tables at the guarantee bin (R244): exact times over one denominator, in ns. S and T_dec follow from
the layers' times and what the cold misses of a layer cost. -/
structure StepTimes where
  streaming : Bool := false
  reference : Bool := false
  /-- the lost units that the variants in force cover, for the tables of a composed set (R436) -/
  covers : List Nat := []
  rowsT : Nat
  pagesT : Nat
  missT : Nat
  den : Nat
  /-- each layer at the regime shape, in the worst routing among hot seats, and one cold miss -/
  layers : List Nat
  tMiss : Nat
  head : Nat
  tail : Nat
  tDraft : Nat
  tPre : Nat
  deriving DecidableEq, Repr, Inhabited

/-- A vocabulary entry of the LETTERING section (R261). -/
structure VocabEntry where
  bytes : List Byte
  special : Bool := false
  eos : Bool := false
  deriving DecidableEq, Repr

/-- The LETTERING tables (R261); a merge is (first, second, third, rank). -/
structure Lettering where
  vocab : List VocabEntry
  merges : List (Nat × Nat × Nat × Nat)
  splitStates : Nat
  deriving DecidableEq, Repr

/-- A part of a seat: the bytes of an expert from `start` on that lie in a cluster's slices at `addr` (R150). -/
structure SeatPart where
  seat : Nat
  cluster : Nat
  addr : Nat
  start : Nat
  bytes : Nat
  deriving DecidableEq, Repr

/-- A layer's initial residency (R150, R166): the hot experts with their seats, in the initial ranking. -/
structure LayerPlan where
  layer : Nat
  experts : Nat
  seats : List (Nat × Nat)
  groups : Nat
  seatsPerGroup : Nat
  coldSlots : Nat
  /-- length of one cold copy, in 64 B units (R154) -/
  coldUnits : Nat := 101088
  /-- base unit address of the cold-copy area that the placement tables record (R154) -/
  coldBase : Nat := 0
  /-- byte of the chunk area at which expert 0's copy begins in the master image; the others follow in index order -/
  imageAt : Nat := 0
  seatParts : List SeatPart := []
  deriving DecidableEq, Repr

/-- A lookahead router of the placement (R149, R165): its layer, the cluster that holds it, and the tensor of its weights. -/
structure LookRouter where
  layer : Nat
  cluster : Nat
  tensor : Nat
  deriving DecidableEq, Repr

/-- The verified content of a Folio (R196): what the module takes out of its sections. -/
structure FolioBody where
  sections : List Section
  /-- the head of the section table: "GHSE", and its 10 reserved bytes as one number (R195) -/
  secMagic : Nat := 0x45534847
  secRsvd : Nat := 0
  /-- the placement has weights that only stream (R196) -/
  streamsOnly : Bool := false
  lists : List TileList := []
  /-- the SRAM-resident share (R196): the key in `Fabric.sram` of the first byte, and the bytes -/
  sram : List (Nat × List Byte) := []
  clusters : List ClusterPlan := []
  /-- the S-die's route table: destination die to direction (R46) -/
  sdieRoutes : List (Nat × Nat) := []
  layers : List LayerPlan := []
  lookahead : List LookRouter := []
  /-- the selector layer of page-selected attention, and the tensor id of its page-summary scores (R174) -/
  selectorLayer : Nat := 0
  scoresTensor : Nat := 0
  /-- weight format, sparsity, activation format and reference mode of each pairing (R107) -/
  pairings : List (Fmt × Sparsity × Fmt × Bool) := []
  /-- contributions of the largest reference-mode reduction (R125) -/
  contributions : Nat := 0
  stencils : List (Nat × Stencil) := []
  lettering : Lettering
  times : List StepTimes := []
  /-- the 14 points of the power table, resident and streaming (R386) -/
  power : List Nat := []
  powerStreaming : List Nat := []
  variants : List Variant := []
  /-- compiled load in GB/s on an edge link, by die × 4 + direction (R48) -/
  linkLoads : List (Nat × Nat) := []
  pagesP : Nat := 0
  /-- GENERATION of a PEER source's export after the last chunk (R205) -/
  generation : Nat := 0
  deriving DecidableEq, Repr

/-! ## Firmware, keys, boards -/

/-- A firmware image as its verifier finds it (R352, R353). -/
structure FwImage where
  version : Nat
  svn : Nat
  rsaOk : Bool := true
  slhOk : Bool := true
  raiseFloor : Bool := false
  digest : Digest := 0
  deriving DecidableEq, Repr

/-- The four images of one flash bank (R352). -/
structure FlashBank where
  stage1 : FwImage
  scribe : FwImage
  governor : FwImage
  housekeeping : FwImage
  deriving DecidableEq, Repr

/-- A client's reply (R365) as KEY_EXCHANGE_FINISH finds it. -/
structure KxReply where
  magicOk : Bool := true
  session : Nat
  kxSeq : Nat
  pointOk : Bool := true
  /-- the client's ephemeral P-384 key, the ML-KEM-1024 ciphertext, and the key confirmation -/
  ecPub : List Byte := []
  kemCt : List Byte := []
  confirm : List Byte := []
  deriving DecidableEq, Repr

/-- What the root is derived from (R345): the raw contents of the SRAM PUF block, and the mesh pattern, 4 bits a segment. -/
structure RootIn where
  puf : List Byte := []
  mesh : BitVec 256 := 0
  deriving DecidableEq, Repr

/-- A re-provisioning package of R374. -/
structure Package where
  stage : Nat
  sigsOk : Bool := true
  serial : Nat
  counter : Nat
  meshWhole : Bool := true
  leafKeysOk : Bool := true
  /-- the two new chains of stage 2, in DER: of the RSA-3072 key and of the SLH-DSA key -/
  chains : List Byte × List Byte := ([], [])
  /-- the PUF response and the mesh that stage 1 enrols a new root from -/
  enrol : RootIn := {}
  deriving DecidableEq, Repr

/-- The layout data of VELLUM_LAYOUT (R331). -/
structure Layout where
  kvPages : Nat := 524288
  slotA : Nat := 2935
  slotB : Nat := 2935
  adapterGib : Nat := 128
  letteringGib : Nat := 16
  bdieSystem : Nat := 2332
  deriving DecidableEq, Repr

/-- A threshold entry of R116. -/
structure Threshold where
  tensor : Nat
  satPpm : Nat := 0xFFFFFF
  flushPpm : Nat := 0xFFFFFF
  nanMax : Nat := 0xFFFFFFFF
  invalidMax : Nat := 0xFFFFFFFF
  deriving DecidableEq, Repr

/-- Operands of PARTITION_CONFIG (R332). -/
structure PartitionOps where
  partition : Nat
  timed : Bool := false
  isSealed : Bool := false
  lateStop : Bool := false
  drain : Bool := false
  share : Nat := 16
  timedSequences : Nat := 0
  sessionsMax : Nat := 16384
  drainTimeout : Nat := 0
  deriving DecidableEq, Repr

/-- A report to the blotter (R430 to R432). -/
structure Report where
  code : Nat
  cls : Nat
  source : Nat := 0xFFFF
  step : Option Nat := none
  session : Option Nat := none
  tenant : Nat := 0
  partition : Option Nat := none
  address : Nat := 0
  aux : Nat := 0
  deriving DecidableEq, Repr

/-- Events of one 10 µs housekeeping sample beside the row's own event (R36). -/
structure SameSample where
  bothFeeds : Bool := false
  modEnFell : Bool := false
  flowLoss : Bool := false
  thermal : Bool := false
  cartridge : Option Nat := none
  feedA : Bool := false
  feedB : Bool := false
  deriving DecidableEq, Repr

/-- What self-test found (R420). -/
structure SelfTestResult where
  failedClusters : List Nat := []
  failedBlocks : List Nat := []
  /-- (die × 4 + direction, mask of failing sublinks) -/
  badSublinks : List (Nat × Nat) := []
  /-- (cluster, failed segments found) -/
  badSegments : List (Nat × Nat) := []
  ms : Nat := 0
  deriving DecidableEq, Repr

/-- Which wake trigger of R393 arrived. -/
inductive WakeTrigger where
  | doorbell | tolerance | adminNeed
  deriving DecidableEq, Repr

/-- A row that the scribe puts into a step: the session, or a prefix table index for a registration's
prefill (R240). -/
inductive RowRef where
  | session (id : Nat)
  | pfx (index : Nat)
  deriving DecidableEq, Repr

/-- The kinds of step (R152). -/
inductive StepKind where
  | decode | prefill | draft
  deriving DecidableEq, Repr

/-- Regions of the vellum, in the row order of R132. -/
inductive Region where
  | master | adapter | kv | cold | lettering | history | system
  deriving DecidableEq, Repr

/-- A read of the vellum by a fetch agent or block (R131, R140, R143). -/
structure VellumRef where
  site : Nat
  unit : Nat
  region : Region
  tenant : Nat := 0
  session : Nat := 0
  slot : Nat := 0
  /-- an attention read of a KV page (R140) -/
  page : Option Nat := none
  attention : Bool := false
  /-- the scribe holds an SRAM copy of the system record in the unit (R132) -/
  copyHeld : Bool := true
  /-- the cluster whose fetch agent reads, and whether a refill after poisoned data reads back clean (R89, R132) -/
  reader : Option Nat := none
  refillClean : Bool := true
  deriving DecidableEq, Repr

/-- What a site controller found in a unit (R131 to R135). -/
inductive VellumEcc where
  | clean
  /-- bits corrected inside arrays, symbols corrected, the arrays involved -/
  | corrected (arrayBits symbols : Nat) (arrays : List Nat)
  | uncorrectable
  deriving DecidableEq, Repr

/-- A vellum read that a posted descriptor names: a run of units from the reference's on, and what the site controller found in
it, by unit of the run (R142). -/
structure FetchRead where
  ref : VellumRef
  units : Nat
  found : List (Nat × VellumEcc) := []
  /-- grants that the arbiters on its way made while it waited (R51) -/
  grants : Nat := 0
  deriving DecidableEq, Repr

/-- What a layer's lookahead router gives for a step: the rows that it predicts for each expert, and what the site controller found
in the units that are fetched for them (R165). -/
structure Lookahead where
  rows : List (Nat × Nat) := []
  found : List (Nat × VellumEcc) := []
  refillClean : Bool := true
  deriving DecidableEq, Repr

/-- A BAR0 read: its byte offset and its size in bytes (R282). -/
structure BarRead where
  offset : Nat
  size : Nat
  deriving DecidableEq, Repr

/-- MSI-X Enable and Function Mask of a function when a message falls due (R283). -/
structure MsixCtl where
  enable : Bool
  maskAll : Bool
  deriving DecidableEq, Repr

/-- What the host has in a function's configuration space when it accesses the function: where its BARs stand (R288), and on the physical
function the Max Read Request Size and the completion timeout in ms (R278). -/
structure HostSet where
  place : Nat
  maxRead : Nat := 512
  cplTimeoutMs : Nat := 50
  deriving DecidableEq, Repr

/-- What an SPDM request asks for (R296). -/
inductive SpdmAsk where
  /-- the certificate chain of a slot -/
  | chain (slot : Nat)
  | measurements
  | other
  deriving DecidableEq, Repr

/-- Which non-posted request of the module ran into the completion timeout (R278). -/
inductive ReadKind where
  | folio (slot : Nat)
  | park (session : Nat)
  | descriptor (func qp : Nat)
  deriving DecidableEq, Repr

/-- Result of a page's check on unpark (R238), numbered as AUX of PARK_CORRUPT (R430). -/
inductive PageCheck where
  | ok | header | version | check
  deriving DecidableEq, Repr

/-! ## The commands -/

/-- The commands of the block, one constructor for each row of the table and in its order. `t` is the host
time of an event (R12). -/
inductive Instr where
  -- admin family (R329)
  | identify (h : Hdr)
  | adminReset (h : Hdr) (halt : Bool)
  | vellumLayout (h : Hdr) (dflt : Bool) (l : Layout)
  | fwStage (h : Hdr) (image : FwImage)
  | fwHandover (h : Hdr)
  | handoverExecute (t : Nat)
  | handoverTimeout (t : Nat)
  | faultAck (h : Hdr)
  -- partition family (R332)
  | partitionConfig (h : Hdr) (o : PartitionOps)
  | parkAreaSet (h : Hdr) (partition : Nat) (ranges : List (Nat × Nat))
  | timedRegimeSet (h : Hdr) (rowsT missT pagesT : Nat)
  | parkThresholdsSet (h : Hdr) (low high : Nat)
  -- tenant and session family (R333)
  | tenantRegister (h : Hdr) (tenant rate depth : Nat)
  | tenantDeregister (h : Hdr) (tenant : Nat)
  | reservoirSet (h : Hdr) (tenant : Nat) (setRate setDepth setWeight : Bool) (rate depth weight : Nat)
  | sessionOpen (h : Hdr) (tenant : Nat) (seed : BitVec 256)
  | sessionClose (h : Hdr) (session : Nat)
  | sessionPark (h : Hdr) (session : Nat)
  | sessionUnpark (h : Hdr) (session : Nat)
  | prefixRegister (h : Hdr) (tenant : Nat) (alwaysRead : Bool) (handle : Nat) (prompt : Prompt)
  | prefixRelease (h : Hdr) (tenant handle : Nat)
  -- request family (R334 to R336)
  | reqSubmit (h : Hdr) (o : ReqOps)
  | reqCancel (h : Hdr) (session : Nat)
  -- Folio and adapter family (R337)
  | folioLoad (h : Hdr) (slot source peerBar4 : Nat) (f : FolioHead)
  | folioUnload (h : Hdr) (slot : Nat)
  | imageSwitch (h : Hdr) (slot : Nat)
  | folioExport (h : Hdr) (slot peer : Nat)
  | folioExportEnd (h : Hdr)
  | adapterLoad (h : Hdr) (tenant : Nat) (image : AdapterImage)
  | adapterSwap (h : Hdr) (tenant version : Nat)
  | compatSwap (h : Hdr) (f : Met FolioHead (List (List Byte))) (body : Met FolioBody (Nat × Nat))
  | arithModeSet (h : Hdr) (slot mode : Nat)
  | expertPin (h : Hdr) (slot layer expert pin : Nat)
  | refetchSource (h : Hdr) (slot kind peerBar4 : Nat)
  | stencilLoad (h : Hdr) (slot id : Nat) (stencil : Option Stencil)
  | adapterPin (h : Hdr) (tenant : Nat) (pin : Bool)
  | adapterUnload (h : Hdr) (tenant version : Nat)
  -- power and thermal family (R339)
  | powerCapSet (h : Hdr) (capW : Nat)
  | capBind (t : Nat)
  | capFloorSet (h : Hdr) (floorW : Nat)
  | latencyToleranceSet (h : Hdr) (toleranceNs : Nat)
  | powerRead (h : Hdr)
  | thermalAck (h : Hdr)
  | cartridgePrepare (h : Hdr) (cartridge : Nat)
  | cartridgeRestore (h : Hdr) (cartridge : Nat)
  -- trust family (R340)
  | attest (h : Hdr) (nonce : BitVec 256)
  | publisherRegister (h : Hdr) (publisher : Nat) (keyDigest : Digest)
  | publisherRevoke (h : Hdr) (publisher : Nat)
  | keyExchangeStart (h : Hdr) (session : Nat)
  | keyExchangeFinish (h : Hdr) (session : Nat) (reply : KxReply)
  | measurementLogRead (h : Hdr)
  | certRead (h : Hdr) (key : Nat)
  | reprovision (h : Hdr) (pkg : Package)
  -- diagnostics family (R341)
  | recordRead (h : Hdr) (kind unit index count : Nat)
  | thresholdSet (h : Hdr) (entries : List Threshold)
  | blotterRead (h : Hdr) (first count : Nat)
  | tensorUpload (h : Hdr) (unit space address : Nat) (tensor : TensorIn)
  | strokeLoad (h : Hdr) (half unit : Nat) (strokes : List (BitVec 128))
  | diagRun (h : Hdr) (half unit : Nat) (producer : Met Nat Nat)
  -- the mailbox and the host link (chapters 10 and 11)
  | sqTail (t func qp value : Nat)
  | cqHead (t func qp value : Nat)
  | tsHead (t func qp value : Nat)
  | queueEnable (t func qp : Nat)
  | queueDisable (t func qp : Nat)
  | queueDrained (t func qp : Nat)
  | eventCauseClear (t bits : Nat)
  | exportEnable (t : Nat) (value : Bool)
  | hostTimeRead (t : Nat) (func : Met Nat BarRead)
  | registerWrite (t : Met Nat HostSet) (func offset size value : Nat)
  | bankWrite (requester offset size value : Nat)
  | exportWindowRead (t requester offset : Nat)
  | descriptorFetch (t func qp : Nat) (desc : List Byte) (readOk : Bool)
  | commandTimeout (t func qp cid : Nat) (sameCycle : Bool)
  | eventBacklogPost (t func : Nat)
  | msixSend (t : Met Nat MsixCtl) (func vector : Nat)
  | tsRecordWrite (t session : Nat)
  | holdingBufferDrain (t func qp : Nat)
  | bindingExpiry (t func : Nat)
  | perstNAssert (t : Nat)
  | perstNDeassert (t : Met Nat Bool)
  | linkDown (t : Nat)
  | linkRetrain (t width rate : Nat)
  | vfFlr (t vf : Nat)
  | pfFlr (t : Nat)
  | vfEnableClear (t : Nat)
  | d3hotEntry (t func : Nat)
  | d0Return (t func : Nat)
  | ptmEnable (t : Nat)
  | ptmDisable (t : Nat)
  | ptmExchange (t : Nat) (offset : Int) (success : Bool)
  | ptmLapse (t : Nat)
  | ideKm (stream : Nat) (secured : Bool)
  | ideIntegrityFailure (t stream : Nat)
  | lockInterface (vf : Met Nat Nat)
  | stopInterface (vf : Nat)
  | spdmRequest (overDoe : Met Bool SpdmAsk) (needsSignature : Bool)
  | setEndpointId (eid : Nat)
  | coolantFlowWrite (t flow : Nat)
  | flowReadingStale (t : Nat)
  | powerCapEffecter (t capW : Nat)
  | setEventReceiver (receiver : Nat)
  | pollEvent (t : Met Nat Bool)
  | pldmEventSend (t : Nat)
  | pldmFirmwareUpdate (t : Nat) (image : FwImage)
  | alertResponseAddress (t : Nat)
  -- the board, start-up and power (chapters 1, 14 and 16)
  | modEnRise (t : Met Nat (Nat × Nat))
  | modEnFall (t : Nat) (also : SameSample)
  | strapSample (t s4 s5 s6 : Nat)
  | railWaves (t : Nat)
  | boot (t : Met Nat (Bool × List (Nat × Nat))) (root : RootIn) (rom : Digest) (primary recovery : FlashBank)
  | selfTest (t : Nat) (r : SelfTestResult)
  | vellumTraining (t : Nat) (failedSites : List Nat)
  | flowLoss (t : Nat) (also : SameSample)
  | flowRestored (t : Nat)
  | feedInUse (t feed volts : Nat)
  | feedLost (t feed volts : Nat) (also : SameSample)
  | feedWarning (t feed volts : Nat)
  | feedWaitTimeout (t : Nat)
  | cartridgeInserted (t cartridge : Nat)
  | cartridgeRemoved (t cartridge : Nat)
  | phaseLost (t cartridge : Nat)
  | dieShort (t die : Nat)
  | dieCurrentCheck (t die amps : Nat)
  | ldoSegmentFail (t unit : Nat)
  | ceilingCheck (t unit neededCode : Nat)
  | droopTrip (unit cycles : Nat)
  | droopReport (t unit : Nat)
  | droopThrottleEnd (t unit : Nat)
  | inrushSlot (t die amps : Nat)
  | inrushWaitExpiry (t die : Nat)
  | allowanceRamp (t mean1ms mean10ms : Nat)
  | powerStateEntry (t : Nat)
  | powerStateDescentMove (t : Nat)
  | wake (t : Nat) (trigger : WakeTrigger)
  | baseEnergySplit (t mj : Nat)
  | sensorSample (t : Nat) (readings : List (Nat × Int × Int)) (also : SameSample)
  | backupComparatorTrip (t unit : Nat) (sensorB : Bool) (a : Int) (b : Met Int SameSample)
  | throttleDeepen (t unit : Nat)
  | throttleRelease (t unit : Nat)
  | sensorEnvelopeCheck (t : Nat)
  | sensorFlagClear (t unit : Nat)
  | coolantJudge (t : Nat) (inlet outlet : Int) (power : Nat)
  | coolingCapRevise (t : Nat) (inlet outlet : Int) (power : Nat) (steady : Bool)
  | sealBreak (t : Nat)
  | keyExchangeExpiry (t session : Nat)
  -- strokes (R74)
  | nop (h : StrokeHdr)
  | loopBegin (h : StrokeHdr) (ctr count : Nat) (fromDesc : Bool)
  | loopEnd (h : StrokeHdr) (ctr : Nat)
  | stepBegin (h : StrokeHdr)
  | stepEnd (h : StrokeHdr) (energyMj : Nat)
  | predLoad (h : StrokeHdr) (p : Nat) (src : Met PredSrc Ecc)
  | mac (h : StrokeHdr) (act : Nat) (w : WeightSrc) (acc : Met Nat (List Found))
  | drain (h : StrokeHdr) (dst acc : Nat) (scale : Option Fp32)
  | valu (h : StrokeHdr) (dst : Nat) (srcs : List Nat) (fn : ValuFn)
  | vxcend (h : StrokeHdr) (dst src : Nat) (fn : XcendFn)
  | narrow (h : StrokeHdr) (dst src : Nat) (opc : BitVec 32)
  | widen (h : StrokeHdr) (dst src scaleAddr : Nat) (fmt : Met Fmt (List Found))
  | load (h : StrokeHdr) (vreg addr : Nat) (ecc : Ecc)
  | store (h : StrokeHdr) (vreg addr : Nat)
  | sliceRead (h : StrokeHdr) (dst addr unit rows crossing : Nat) (merge : Bool) (ecc : Ecc)
  | sliceWrite (h : StrokeHdr) (src addr unit rows : Nat) (crossing : Met Nat (Bool × Ecc))
  | send (h : StrokeHdr) (src unit addr rows crossing : Nat) (bufferFull : Met Bool Ecc)
  | recv (h : StrokeHdr) (dst crossing : Nat)
  | ligSend (h : StrokeHdr) (src unit addr tag : Nat) (rows : Met Nat Ecc)
  | ligRecv (h : StrokeHdr) (dst tag : Nat) (scale : Option Fp32)
  | dmaPost (h : StrokeHdr) (index : Nat)
  | dmaWait (h : StrokeHdr) (ctr count : Nat)
  -- the network, SRAM and DMA (chapters 2 and 3)
  | tokenArrival (consumer crossing gatedCycles : Nat)
  | sendAck (producer : Nat) (crossing : Met Nat Nat)
  | watchdog (t consumer producer crossing : Nat) (tokenSameCycle : Bool)
  | flitRetry (t die dir sublink : Nat)
  | sublinkOut (t die dir sublink : Nat)
  | mergeWindowClose (unit row : Nat)
  | ligatureCombine (unit tag gatedCycles : Nat)
  | dmaComplete (t cluster tile : Nat) (ecc : Met Ecc (List (Nat × VellumEcc))) (load : DmaLoad)
  | correctedWriteBack (unit : Nat) (row : Met Nat Nat)
  | scrubRead (unit row : Nat) (ecc : Met Ecc Nat)
  | clearComplete (t index : Nat) (error : Met (Option Nat) Nat)
  -- the vellum (chapter 5)
  | refresh (site channel bank : Nat) (accessWaits : Nat)
  | patrolScrub (t site unit : Nat) (ecc : Met VellumEcc Bool)
  | vellumRead (t : Nat) (r : VellumRef) (ecc : VellumEcc)
  | vellumWriteBack (site unit : Nat)
  | granuleCopyDone (t site granule : Nat)
  -- steps and serving (chapters 6 to 9)
  | prefetchIssue (t cluster : Nat) (reads : Met (List FetchRead) Lookahead)
  | stepIssue (t : Nat) (kind : StepKind) (rows : List (RowRef × Nat))
  | sampleRow (t step : Nat) (row : Met Nat Nat) (logits : List (List Fp32))
  | prefillHandoff (t step : Nat)
  | healthTest (t step : Nat)
  | stepReplay (t step die : Nat)
  | residencyRevise (t : Nat)
  | seatRelease (t layer : Nat)
  | adapterLineLoad (t tenant : Nat)
  | admissionRound (t : Nat)
  | autoPark (t : Nat)
  | parkPageConfirm (t session : Nat) (ok : Bool)
  | unparkPageCheck (t session : Nat) (result : PageCheck)
  | drainTimeout (t partition : Nat)
  | chunkArrival (t slot chunk : Nat) (data : Met (List Byte) (Nat × Nat))
  | folioLoadComplete (t slot : Nat) (body : FolioBody)
  | firstActivationFill (t : Nat) (sourceFailed : Bool)
  | migrationStart (t : Nat)
  | migrationPartDone (t unit : Nat) (load : DmaLoad)
  | slotDrained (t slot : Nat)
  | compatLayerRewrite (t layer : Nat) (sourceFailed : Bool)
  | chunkRefetch (t slot chunk : Nat) (data : List Byte)
  | refetchTimeout (t slot : Nat)
  -- faults, repair and the rest (chapters 10 and 17)
  | blotterReport (t : Nat) (r : Report)
  | coalesceFlush (t : Nat)
  | cartridgePrepareDone (t cartridge : Nat)
  | dischargeDelayEnd (t : Nat)
  | completionTimeout (t : Nat) (kind : ReadKind)
  | startInterface (vf : Nat)
  | linkUp (t : Met Nat Bool)
  | vfEnableSet (numVfs : Nat)
  | adapterLoadDone (t tenant : Nat)
  | fwStageDone (t : Nat)
  | cartridgeRestoreDone (t cartridge : Nat) (r : SelfTestResult)
  deriving DecidableEq, Repr

end Sys2Proof
end

