-- ==== Sys2Proof/Decode.lean ====
section
/-! DEFINITION. The command that a word spells. The table of operations and events gives its rows no bits, so no
word spells any command (log entry 1). -/

namespace Sys2Proof

/-- The command that `nbits` bits with value `w` spell under the table's bits: none of the rows has any. -/
def decodeTableWord (_nbits _w : Nat) : Option Instr := none

end Sys2Proof
end

