-- ==== Sys2Proof/Config.lean ====
section
/-! DEFINITION. What an implementation fixes and the manual leaves open, as uninterpreted constants.

Every `opaque` here has no body, so nothing in Lean can evaluate it or prove a value of it. Each is named in
a log entry of notes/assumptions. -/

namespace Sys2Proof

/-- A fresh free value: applied to the counter `State.free`, which the step reads and advances (log entry 3). -/
opaque Config.freeValue : Nat → BitVec 64

/-- SHA-384 (R194, R354): its algorithm stands outside the manual (log entry 4). -/
opaque Config.sha384 : List Byte → Digest

/-- CRC-32 of a stop record (R412): the manual names no polynomial (log entry 4). -/
opaque Config.crc32 : Nat → BitVec 32

/-- The PUF response (R345): raw contents of the SRAM block, helper data (log entry 4). -/
opaque Config.pufResponse : List Byte → List Byte → List Byte

/-- The helper data that an enrolment writes (R345, R374): raw contents of the SRAM block (log entry 4). -/
opaque Config.pufHelper : List Byte → List Byte

/-- The check value of a root (R345, log entry 4). -/
opaque Config.rootCheck : BitVec 256 → BitVec 128

/-- The two shared secrets of a wrap block (R361): a wrap key, and the publisher's ephemeral P-384 key (the x-coordinate) or the ML-KEM-1024
ciphertext (log entry 4). -/
opaque Config.wrapEc : BitVec 256 → List Byte → List Byte
opaque Config.wrapKem : BitVec 256 → List Byte → List Byte

/-- AES Key Wrap of RFC 3394, the unwrap (R361): key encryption key and wrapped key (log entry 4). -/
opaque Config.keyUnwrap : BitVec 256 → List Byte → BitVec 256

/-- AES-256 (R361): key, the 16 bytes of a block, byte of the result (log entry 4). -/
opaque Config.aesByte : BitVec 256 → List Byte → Nat → Byte

/-- The secrets of a key exchange (R366): the making of the device's ephemeral keys, and the client's P-384 key or ML-KEM-1024 ciphertext
(log entry 4). -/
opaque Config.sharedEc : Nat → List Byte → List Byte
opaque Config.sharedKem : Nat → List Byte → List Byte

/-- AES-256-GCM (R238, R272, R369): key, the 12 bytes of the IV, the additional authenticated data, the plaintext, and the byte of the
ciphertext that is asked for; the 16 bytes behind the last are the tag (log entry 4). -/
opaque Config.gcmByte : BitVec 256 → List Byte → List Byte → List Byte → Nat → Byte

/-- Results of EXP, LOG, RECIP, RSQRT and TANH (R72): fixed for an input, within 2 ulp, not stated
(log entry 6). -/
opaque Config.vxcend : XcendFn → Fp32 → Fp32

/-- MAX in a reduction where a NaN meets a value, or two zeros of opposite sign meet (R72, log entry 6). -/
opaque Config.maxCorner : Fp32 → Fp32 → Fp32

/-- Result in one lane of a VALU function that R74 does not list, from its OPC code and its inputs
(log entry 6). -/
opaque Config.valuLane : Nat → List Fp32 → Fp32

/-- The piece lengths that the split table of an image marks in a text segment (R262): image root, bytes
(log entry 7). -/
opaque Config.split : Digest → List Byte → List Nat

/-- The step-time line of a Folio for a shape of which its loaded body lists none (R244): image root, ROWS_T,
PAGES_T, MISS_T, streaming, reference, units covered by the variants in force (log entry 7). -/
opaque Config.stepTimes : Digest → Nat → Nat → Nat → Bool → Bool → List Nat → StepTimes

/-- The fused voltage code of a cluster for a bin (R381): cluster, bin (log entry 8). -/
opaque Config.fusedVoltage : Nat → Nat → Nat

/-- Bytes made with keys that the manual does not give (R356, R357, R364): kind, index (log entry 4). -/
opaque Config.signedByte : Nat → Nat → Byte

/-- Length in bytes of a certificate chain in DER (R356), or of a self-signed certificate (R374): kind and generation (log entry
4). -/
opaque Config.chainLength : Nat → Nat

/-- How a sequencer decodes the operands that R74 names without giving their bits (log entry 9). -/
opaque Config.predSrc : BitVec 32 → PredSrc

/-- The weight source in OPB of a MAC stroke (log entry 9). -/
opaque Config.weightSrc : BitVec 32 → WeightSrc

/-- The source registers in OPB of a vector stroke (log entry 9). -/
opaque Config.vectorSrcs : BitVec 32 → List Nat

/-- The function in OPC of a VALU stroke (log entry 9). -/
opaque Config.valuFn : BitVec 32 → ValuFn

/-- The function in OPC of a VXCEND stroke (log entry 9). -/
opaque Config.xcendFn : BitVec 32 → XcendFn

/-- Rows of a LIG_SEND stroke (log entry 9). -/
opaque Config.ligRows : BitVec 128 → Nat

/-- The crossing number of a SLICE_READ, SLICE_WRITE or SEND to another cluster (log entry 9). -/
opaque Config.sliceCrossing : BitVec 128 → Nat

/-- The tensor scale of the stroke that ends a reduction, which the placement records (R120): tile, stroke; `none`
for a partial (log entry 9). -/
opaque Config.strokeScale : Nat → BitVec 128 → Option Fp32

/-- Destination address in OPB of a SEND stroke (log entry 9). -/
opaque Config.sendAddr : BitVec 32 → Nat

/-- Destination unit in OPB of a SEND or LIG_SEND stroke (log entry 9). -/
opaque Config.sendUnit : BitVec 32 → Nat

/-- Scale address of a WIDEN stroke (log entry 9). -/
opaque Config.widenScale : BitVec 32 → Nat

/-- Whether a SLICE_READ stroke carries the merge flag of R53 (log entry 9). -/
opaque Config.sliceMerge : BitVec 128 → Bool

/-- The format in OPC of a WIDEN stroke (log entry 9). -/
opaque Config.widenFmt : BitVec 32 → Fmt

/-- Bytes of a Folio file's chunk area that no command carries: image root, byte of the chunk area (log entry 4). -/
opaque Config.storedByte : Nat → Nat → Byte

/-- Bytes of the key summary of a KV page (R139, R173): page, its generation, byte (log entry 43). -/
opaque Config.summaryByte : Nat → Nat → Nat → Byte

/-- AES-256-XTS (R370): history key, tweak, the 16 bytes of the data unit, byte of the result (log entry 4). -/
opaque Config.xtsByte : BitVec 256 → Nat → List Byte → Nat → Byte

/-- The routing weights that a Folio defines (R163): image root, layer, and the chosen scores in order (log entry 43). -/
opaque Config.routeWeights : Digest → Nat → List Fp32 → List Fp32

/-- The score of a page's summary against the selector layer's query (R174), whose reduction the placement fixes: step, row, logical
page (log entry 43). -/
opaque Config.pageScore : Nat → Nat → Nat → Fp32

/-- Loop words of a step descriptor, under the placement's loop table (R153): image root, kind of step, positions of its
rows, pages, word (log entry 7). -/
opaque Config.loopWord : Digest → Nat → List Nat → Nat → Nat → Nat

/-- The tensor id of the logits of the target, or of the draft model (R114): image root, draft (log entry 7). -/
opaque Config.logitsTensor : Digest → Bool → Nat

/-- The weight of a candidate when z_max is −∞, which step 6 of R181 leaves open: token id (log entry 33). -/
opaque Config.sunkWeight : Nat → Fp32

/-- The estimate E of a unit none of whose neighbours is good (R400): unit, the partner's value, in 0.25 °C (log entry 8). -/
opaque Config.noEstimate : Nat → Int → Int

/-- The share of the input power that feed A carries while both feeds are in use, within the limits of R29, by host time (log entry 8). -/
opaque Config.feedShare : Nat → BitVec 64

/-- The cluster that holds an edge-link port (R67): die, direction (log entry 8). -/
opaque Config.portCluster : Nat → Nat → Nat

end Sys2Proof
end

