-- ==== Sys2Proof/Machine/State.lean ====
section
/-! DEFINITION. The state of the module as plain data, its faults and refusals, and the state after reset.

Everything the manual gives the module stands here: board and pins, non-volatile records, host link, mailbox
rings, serving tables, image slots, vellum, islands and tiles, power, heat, trust, the blotter, firmware.
Large regular arrays (1,872 clusters, 27,264 tiles, 524,288 pages, the SRAM and vellum bytes) are sparse
tables: an unlisted key reads as its default, which is the value the manual gives after reset. -/

namespace Sys2Proof.Machine

/-- Why a command ends the run. There is none: every row of the table has an effect in the manual. The
constructor is kept so that the outcome type is closed and named; no meaning raises it. Safe. -/
inductive Fault where
  /-- a command that fails its own well-formedness (a queue pair or a function that does not exist): raised by
  nobody, since every meaning answers such operands as the manual says. Safe. -/
  | illFormed
  deriving DecidableEq, Repr

/-- Why a command has no meaning. -/
inductive Refusal where
  /-- raised by an arm of `exec` whose command has no meaning yet. Safe. -/
  | notModelled (mnemonic : String)
  deriving DecidableEq, Repr

/-! ## The board (chapters 1 and 16) -/

/-- Where the module stands between MOD_EN and service (R417, R424). -/
inductive Phase where
  /-- MOD_EN low, or no power (R16) -/
  | dark
  /-- MOD_EN rose less than 1 s after it fell (R20) -/
  | discharge
  /-- steps 1 and 2 of R417 before the straps are sampled -/
  | straps
  /-- step 2: waiting for flow and for a feed (R25, R418) -/
  | waiting
  /-- step 3 done: the rails are up -/
  | rails
  /-- steps 4 and 5 done: the scribe, governor and housekeeping firmware run -/
  | booted
  /-- step 6 done -/
  | tested
  /-- MOD_READY is high -/
  | serving
  /-- an admin reset is under way (R426) -/
  | resetting
  /-- a start refused by self-test (R420) -/
  | refused
  /-- a start refused by a thermal shutdown (R415), a total shutdown, a flow loss in service, or the S-die's
  loss: service does not resume while MOD_EN stays high -/
  | stopped
  /-- a strap fault (R21) -/
  | strapFault
  /-- the recovery hold of BOOT_SEL 10 (R22, R352) -/
  | recoveryHold
  /-- a partial thermal shutdown (R406) -/
  | partialShutdown
  /-- ADMIN_RESET with HALT = 1 (R426) -/
  | halted
  deriving DecidableEq, Repr

/-- A feed (R27, R28); the voltage is in 10 mV units. -/
structure Feed where
  volts : Nat := 0
  inUse : Bool := false
  /-- it was in use and stopped being so (R29) -/
  lost : Bool := false
  deriving DecidableEq, Repr

/-- The status lamp of a cartridge bay (R31). -/
inductive Lamp where
  | off | green | amber | amberFlash
  deriving DecidableEq, Repr

/-- A converter cartridge (R31 to R34, R377, R378). -/
structure Cartridge where
  present : Bool := true
  lamp : Lamp := .off
  phasesLost : Nat := 0
  /-- its dies' rails are on -/
  powered : Bool := false
  deriving DecidableEq, Repr

/-- The board: enables, straps, inputs, feeds and cartridges. -/
structure Board where
  modEn : Bool := false
  phase : Phase := .dark
  /-- host time at which MOD_EN last fell and last rose (R20, R412) -/
  fellAt : Option Nat := none
  roseAt : Nat := 0
  /-- the housekeeping controller holds the outputs (R16, R19) -/
  outputsHeld : Bool := false
  /-- latched straps as STRAPS of R330: [1:0] BOOT_SEL, [4:2] MGMT_ADDR, [5] LINK_SEL -/
  straps : BitVec 6 := 0
  modReady : Bool := false
  /-- FAULT_N held by the housekeeping controller itself: a wait, a refused start, a stop -/
  faultHold : Bool := false
  thermtrip : Bool := false
  smbAlert : Bool := false
  /-- the filtered level of FLOW_LOSS_N: true is high -/
  flowOk : Bool := false
  /-- the level of PERST_N: true is high -/
  perstHigh : Bool := false
  /-- REFCLK runs (R18) -/
  refclk : Bool := false
  feedA : Feed := {}
  feedB : Feed := {}
  cartridges : Table Cartridge := []
  /-- vellum training completed since the cold start (R428) -/
  trained : Bool := false
  /-- converter enables of the dies -/
  railsUp : Bool := false
  computeRails : Bool := false
  /-- the 10 s of R418 have passed with no feed in use -/
  feedWaited : Bool := false
  /-- host time of the housekeeping sample that wrote the last stop record (R36) -/
  stopAt : Option Nat := none
  /-- cartridges whose dies are being emptied (R378, R447) -/
  preparing : List Nat := []
  deriving DecidableEq, Repr

/-! ## Non-volatile records -/

/-- A stop record of R412, with the reported mark of R413. -/
structure StopRecord where
  seq : Nat
  hostTime : Nat
  uptimeMs : Nat
  type : Nat
  also : Nat
  unit : Nat
  temp : Int
  tempA : Int
  tempB : Int
  sensors : Nat
  inlet : Int
  outlet : Int
  flow : Nat
  flowStale : Bool
  power : Nat
  allowance : Nat
  coolingCap : Nat
  feedAV : Nat
  feedBV : Nat
  reported : Bool := false
  /-- bits that read wrong since it was written; its CRC fails then -/
  flip : Nat := 0
  deriving DecidableEq, Repr

/-- The control board's NVM and the S-die fuses. -/
structure Nvm where
  layout : Option Layout := none
  /-- retired granules of a site (R134) -/
  remaps : Table (List Nat) := []
  /-- failed arrays of a site, as channel × 8 + array (R135) -/
  failedArrays : Table (List Nat) := []
  /-- KV pages given up to a retirement (R134) -/
  retiredPages : List Nat := []
  /-- failed LDO segments of a cluster (R380) -/
  segments : Table Nat := []
  /-- ceiling bin of a cluster, 0 for 3.0 GHz to 5 for 1.0 GHz (R381) -/
  ceilings : Table Nat := []
  /-- failed sensors: unit × 2, plus 1 for sensor B (R400) -/
  failedSensors : List Nat := []
  stopRecords : List StopRecord := []
  stopSeq : Nat := 0
  strapWarning : Bool := false
  strapFaults : Nat := 0
  /-- registered publishers and the digests of their keys (R340) -/
  publishers : List (Nat × Digest) := []
  openings : Nat := 0
  /-- provisioning counter (R374) -/
  provCounter : Nat := 0
  /-- the certificate chains in DER of the RSA-3072 and the SLH-DSA key (R356), once re-provisioning has replaced those that the module was
  made with -/
  chains : Option (List Byte × List Byte) := none
  /-- the generation of the root, the identity keys and the wrap keys: raised by stage 1 of re-provisioning (R374) -/
  identity : Nat := 0
  /-- helper data of the PUF, and the check value of the enrolled root (R345) -/
  helper : List Byte := []
  rootCheck : BitVec 128 := 0
  /-- fuses: SVN floor (R353) and serial number (R330) -/
  svnFloor : Nat := 0
  serial : Nat := 0
  deriving DecidableEq, Repr

/-! ## The host link (chapter 10) -/

/-- States of a TDI (R288). -/
inductive Tdi where
  | unlocked | locked | run | error
  deriving DecidableEq, Repr

/-- A PCIe function. -/
structure Fn where
  d3hot : Bool := false
  tdi : Tdi := .unlocked
  /-- the function's selective IDE stream is Secure, and how often its keys were set (R287) -/
  ideSecure : Bool := false
  ideKeys : Nat := 0
  /-- answers configuration requests with RRS (R291, R292) -/
  rrs : Bool := false
  /-- STOP_INTERFACE waits for the clearing of R292 (R288) -/
  stopPending : Bool := false
  /-- RESUME_TOKEN register (R280, R281, R320) -/
  tokenReg : Nat := 0
  /-- MSI-X Enable and Function Mask of its configuration space, as last seen (R283) -/
  msixEnable : Bool := false
  msixMaskAll : Bool := false
  /-- where its BARs stood when LOCK_INTERFACE locked them (R288) -/
  barPlace : Nat := 0
  /-- latched high half of HOST_TIME (R280) -/
  timeHigh : Nat := 0
  /-- low halves held by 4-byte writes, by register offset (R282) -/
  held : Table Nat := []
  /-- MSI-X table words by dword index, pending bits, and the messages sent (vector, host time) -/
  msixTable : Table Nat := []
  msixPending : List Nat := []
  msixWanted : List Nat := []
  msixSentAt : Table Nat := []
  deriving DecidableEq, Repr

/-- What the last read of the export window returned (R203, R204, R289). -/
inductive WindowRead where
  | none
  /-- 4 bytes of the control frame -/
  | control (value : Nat)
  /-- file data: slot and byte offset in the file -/
  | file (slot offset : Nat)
  | zero
  | unsupportedRequest
  deriving DecidableEq, Repr

/-- PTM and host time (R284 to R286). -/
structure Ptm where
  enabled : Bool := false
  lock : Bool := false
  lapsed : Bool := false
  /-- consecutive exchanges whose offsets agree within 200 ns, and the last two offsets -/
  agree : Nat := 0
  lastOffset : Int := 0
  priorOffset : Int := 0
  lastGood : Nat := 0
  /-- correction still to be slewed in, ns -/
  slew : Int := 0
  deriving DecidableEq, Repr

/-- The PCIe port. -/
structure Link where
  up : Bool := false
  width : Nat := 16
  /-- RATE of R280: 1 to 7 for 2.5 to 128 GT/s -/
  rate : Nat := 7
  rrs : Bool := true
  numVfs : Nat := 0
  vfEnable : Bool := false
  memSpace : Bool := true
  ideSecure : Bool := false
  ideKeys : Nat := 0
  exportEnable : Bool := false
  /-- EVENT_CAUSE of R280 -/
  eventCause : BitVec 5 := 0
  fns : Table Fn := []
  ptm : Ptm := {}
  windowRead : WindowRead := .none
  /-- Max Read Request Size and completion timeout in ms, as the host last set them, and the AER error status (R278) -/
  maxRead : Nat := 512
  cplTimeoutMs : Nat := 50
  aer : BitVec 32 := 0
  /-- the value that the last BAR0 read returned (R282) -/
  timeRead : Nat := 0
  deriving DecidableEq, Repr

/-! ## The mailbox (chapter 11) -/

/-- A completion or event entry (R306, R315), with the data the command wrote to host memory ahead of it. -/
structure CqEntry where
  cid : Nat
  sqHead : Nat
  status : Nat
  phase : Bool
  event : Bool := false
  late : Bool := false
  time : Nat
  /-- the 16 RESULT bytes as one little-endian number -/
  result : Nat := 0
  data : List Byte := []
  deriving DecidableEq, Repr

/-- A token stream record (R268 to R272). `lateAny` is the LATE bit. -/
inductive Rec where
  | token (time session seq token : Nat) (special late : Bool)
  | text (time session seq tokens : Nat) (bytes : List Byte) (late : Bool)
  | fin (time session delivered reason outcome forfeit : Nat) (late : Bool)
  /-- `n` is the counter of its IV; `body` is every byte behind the head: the IV unit, the ciphertext, the tag and the padding -/
  | sealedRec (time session seq tokens length : Nat) (final : Bool) (n : Nat) (late : Bool) (body : List Byte)
  deriving DecidableEq, Repr

/-- What a ring unit sequence holds: a record, or the PAD that fills a ring's end (R268). -/
inductive RingItem where
  | rcd (r : Rec) (phase : Bool) (units : Nat)
  | pad (phase : Bool) (units : Nat)
  deriving DecidableEq, Repr

/-- What a due record holds before its delivery fixes TIME and LATE. -/
inductive Due where
  | token (token : Nat) (special : Bool)
  | text (tokens : Nat) (bytes : List Byte)
  | sealedText (tokens : Nat) (text : List Byte) (reason : Option Nat)
  | fin (reason : Nat)
  deriving DecidableEq, Repr

/-- A queue pair: its registers and its rings (R280, R281, R299 to R303). -/
structure Queue where
  sqBase : Nat := 0
  cqBase : Nat := 0
  tsBase : Nat := 0
  sqLog2 : Nat := 0
  cqLog2 : Nat := 0
  tsLog2 : Nat := 0
  tsVecBase : Nat := 0
  tsVecCount : Nat := 1
  enable : Bool := false
  active : Bool := false
  /-- fetching stopped by a doorbell error (R303) -/
  stopped : Bool := false
  /-- host time of the last write of ENABLE = 0 (R314) -/
  disabledAt : Nat := 0
  sqTail : Nat := 0
  sqHead : Nat := 0
  cqIndex : Nat := 0
  cqHead : Nat := 0
  cqPhase : Bool := true
  /-- entries written and not yet consumed, oldest first -/
  cq : List CqEntry := []
  tsIndex : Nat := 0
  tsHead : Nat := 0
  tsPhase : Bool := true
  ts : List RingItem := []
  /-- records in the 4 KiB holding buffer, each with its session (R268) -/
  holding : List (Nat × Due) := []
  /-- completions held for a waiting binding (R321, R323) -/
  heldCq : List CqEntry := []
  /-- the pair was ACTIVE at the reset that its binding waits since, and its SQ head there (R321) -/
  resume : Bool := false
  resumeHead : Nat := 0
  deriving DecidableEq, Repr

/-- A command fetched from an SQ and not yet completed (R308), or one that runs on in the background. -/
structure Fetched where
  func : Nat
  qp : Nat
  cid : Nat
  opcode : Nat
  fence : Bool
  /-- host time at which its device time-out fires, 0 for none (R312) -/
  deadline : Nat := 0
  /-- its checks have passed, and it completes later -/
  started : Bool := false
  background : Bool := false
  /-- its effect point is a step boundary still ahead (R328) -/
  waits : Bool := false
  /-- the object it works on: a slot, session, tenant or cartridge -/
  arg : Nat := 0
  startedAt : Nat := 0
  /-- its time-out fires in the cycle of its completion (R312) -/
  lateFlag : Bool := false
  /-- its pair has been disabled since: it runs on, and no completion is written for it (R314) -/
  muted : Bool := false
  /-- its status, RESULT and data, which wait for an earlier command of the SQ on the same session (R310) -/
  answer : Option (Nat × Nat × List Byte) := none
  deriving DecidableEq, Repr

/-- An event on its way to a CQ (R315 to R317). -/
structure Event where
  code : Nat
  count : Nat := 1
  /-- the 12 DETAIL bytes as one little-endian number -/
  detail : Nat := 0
  /-- the queue pair whose CQ it goes to (R315) -/
  qp : Nat := 0
  deriving DecidableEq, Repr

/-- A function's binding (R320 to R322). -/
structure Binding where
  bound : Bool := false
  token : Nat := 0
  /-- it waits to be reclaimed since a reset of the link -/
  waiting : Bool := false
  /-- host time at which it is dropped, once the RRS period has ended -/
  dropAt : Option Nat := none
  deriving DecidableEq, Repr

/-- The mailbox: queue pairs by func × 8 + qp, commands under way, backlogs and bindings by function. -/
structure Mailbox where
  queues : Table Queue := []
  fetched : List Fetched := []
  backlog : Table (List Event) := []
  overflow : Table Nat := []
  bindings : Table Binding := []
  deriving DecidableEq, Repr

/-! ## Serving (chapters 8 and 9) -/

/-- A partition (R226 to R228, R236). -/
structure Partition where
  configured : Bool := false
  timed : Bool := false
  isSealed : Bool := false
  lateStop : Bool := false
  drain : Bool := false
  share : Nat := 16
  timedSequences : Nat := 0
  sessionsMax : Nat := 16384
  drainTimeout : Nat := 0
  deficit : Nat := 0
  /-- last tenant served by the round (R232) -/
  lastTenant : Nat := 0
  /-- park area ranges: bus address and bytes (R236) -/
  parkArea : List (Nat × Nat) := []
  /-- park slots in use -/
  parkUsed : List Nat := []
  /-- an automatic park skips the session until the free pages next fall below PARK_LOW (R237) -/
  energyMj : Nat := 0
  /-- generation of the park and history keys, and the keys themselves; zero while the partition is not Sealed (R346, R369) -/
  keyGen : Nat := 0
  parkKey : BitVec 256 := 0
  historyKey : BitVec 256 := 0
  /-- sessions still under a DRAIN policy's time-out: host time at which it expires -/
  drainUntil : Option Nat := none
  deriving DecidableEq, Repr

/-- An adapter version (R217). -/
structure AdapterVer where
  index : Nat
  modelId : Nat
  bytes : Nat
  site : Nat
  present : Bool := true
  /-- ADAPTER_LOAD still writes it -/
  loading : Bool := false
  /-- where its site's store holds it: first unit and units of each run -/
  extents : List (Nat × Nat) := []
  /-- its layers in the order in which they lie there: the layer and its units -/
  layers : List (Nat × Nat) := []
  /-- adapter epochs at which it was made current, oldest first -/
  epochs : List Nat := []
  deriving DecidableEq, Repr

/-- A piece of work in a tenant's queue (R232): a session's turn, or a prefix registration. -/
inductive Queued where
  | turn (session : Nat)
  | pfx (index : Nat)
  deriving DecidableEq, Repr

/-- A tenant and its reservoir (R229 to R232, R394). -/
structure Tenant where
  registered : Bool := false
  partition : Nat := 0
  /-- signed level in 1/256 of a token, and the host time of its last update (R231) -/
  level : Int := 0
  levelAt : Nat := 0
  rate : Nat := 0
  depth : Nat := 0
  weight : Nat := 32
  charged : Nat := 0
  queue : List Queued := []
  versions : List AdapterVer := []
  current : Option Nat := none
  adapterEpoch : Nat := 0
  /-- host time at which a DRAIN policy lets go of older adapter epochs (R217) -/
  adapterDrain : Option Nat := none
  /-- the host has pinned its cache line (R171) -/
  pinned : Bool := false
  energyMj : Nat := 0
  /-- step energy charged in the current second (R394) -/
  energySecond : Nat := 0
  deriving DecidableEq, Repr

/-- A proposal of a speculative round with the draft's distribution (R176 to R178). -/
structure Proposal where
  token : Nat
  /-- kept candidates in candidate order with their FP32 values q(v) -/
  q : List (Nat × Fp32)
  deriving DecidableEq, Repr

/-- The parts of an unfinished turn's life. -/
inductive TurnPhase where
  | queued | prefill | decode
  deriving DecidableEq, Repr

/-- An unfinished turn (R233, R242 to R256). -/
structure Turn where
  ops : ReqOps
  func : Nat
  qp : Nat
  timed : Bool
  phase : TurnPhase
  /-- epoch and slot it carries, adapter epoch (R207, R217) -/
  epoch : Nat
  slot : Nat
  adapterEpoch : Nat
  lateStop : Bool
  tAcc : Nat := 0
  /-- link width and RATE that U was priced at (R246, R254) -/
  pricedWidth : Nat := 0
  pricedRate : Nat := 0
  /-- promise in µs (R248) -/
  ttft : Nat := 0
  itb : Nat := 0
  /-- pages reserved and not yet used (R249) -/
  reserved : Nat := 0
  /-- its share of the prefill ledger (R246) -/
  ledger : Nat := 0
  /-- leading positions of `prompt` that are a re-prefill and cost nothing (R231) -/
  rePrefill : Nat := 0
  /-- the tokens still to be prefilled, in order: re-prefill, pending token, prompt but its last token (R233) -/
  prompt : List Nat := []
  /-- pages of the old image, freed once the new ones are committed (R215) -/
  oldPages : List Nat := []
  /-- first decode input still to run -/
  input : Nat := 0
  sampled : Nat := 0
  delivered : Nat := 0
  lateAny : Bool := false
  forfeit : Option (Nat × Nat) := none
  /-- host time and token index k - 1 of the first guarantee fault (R254, R255) -/
  guaranteeAt : Option (Nat × Nat) := none
  crossedHandover : Bool := false
  /-- step that holds a row of it, if any -/
  step : Option Nat := none
  proposals : List Proposal := []
  draftEnded : Bool := false
  stencilState : Nat := 0
  draftStencilState : Nat := 0
  due : List Due := []
  /-- bytes under the UTF-8 hold-back (R264), and text held as a possible stop sequence (R266) -/
  held : List Byte := []
  stopHeld : List Byte := []
  /-- reason it ends with, once known -/
  ending : Option Nat := none
  /-- key set of a Sealed turn -/
  keySet : Nat := 0
  /-- the prefix entry whose reader place a turn that has not started holds (R256) -/
  place : Option Nat := none
  /-- for each step whose tokens are not all delivered: the tokens sampled by its end, and the text held back then (R253, R264, R266) -/
  cuts : List (Nat × List Byte × List Byte) := []
  /-- tokens after which the late policy STOP ends it, once one was late (R253) -/
  stopAfter : Option Nat := none
  deriving DecidableEq, Repr

/-- The keys and IV prefixes of an exchange, for either direction (R366). -/
structure KeySet where
  c2d : BitVec 256 := 0
  d2c : BitVec 256 := 0
  ivC2d : BitVec 32 := 0
  ivD2c : BitVec 32 := 0
  deriving DecidableEq, Repr

/-- States of a session (R234). -/
inductive SessState where
  | free | idle | turn | parking | parked | unparking | closing
  deriving DecidableEq, Repr

/-- A parked page as the scribe remembers it (R238). -/
structure ParkedPage where
  logical : Nat
  slot : Nat
  version : Nat
  check : BitVec 128
  committed : Nat
  /-- the bytes of its committed positions, by byte of the page (R108, R238) -/
  data : Memory := []
  /-- the park header that the host's slot was given (R238) -/
  header : BitVec 512 := 0
  deriving DecidableEq, Repr

/-- A session (R234, R235). -/
structure Session where
  state : SessState := .free
  lastUse : Nat := 0
  epoch : Nat := 0
  slot : Nat := 0
  tenant : Nat := 0
  adapterEpoch : Nat := 0
  partition : Nat := 0
  isSealed : Bool := false
  positions : Nat := 0
  pending : Bool := false
  /-- token history: committed positions, then the pending token (R235) -/
  history : List Nat := []
  pfx : Option Nat := none
  /-- pool pages in logical order: (logical, page) -/
  pages : List (Nat × Nat) := []
  parked : List ParkedPage := []
  /-- pages whose park is still to be confirmed, in order -/
  outbound : List Nat := []
  /-- extents of 512 positions that its history takes in the token-history region, in order (R235) -/
  extents : List Nat := []
  turns : Nat := 0
  forfeits : Nat := 0
  guaranteeFaults : Nat := 0
  lateTokens : Nat := 0
  seed : BitVec 256 := 0
  turn : Option Turn := none
  /-- first logical page lost with a site, to be re-prefilled (R444) -/
  lostFrom : Option Nat := none
  /-- an automatic park failed and skips it (R237) -/
  parkSkip : Bool := false
  /-- exchanges started, key sets installed, IV counters (R363 to R368) -/
  kxSeq : Nat := 0
  keySets : Nat := 0
  recIv : Nat := 0
  promptIv : Option Nat := none
  /-- the key set of its last exchange; the set that an unfinished turn still uses, its record counter and its highest prompt counter
  (R344, R368) -/
  keys : KeySet := {}
  oldKeys : KeySet := {}
  oldRecIv : Nat := 0
  oldPromptIv : Option Nat := none
  deriving DecidableEq, Repr

/-- States of a prefix entry (R240). -/
inductive PfxState where
  | free | prefilling | ready | releasing
  deriving DecidableEq, Repr

/-- A prefix table entry (R240, R241). -/
structure Pfx where
  state : PfxState := .free
  handle : Nat := 0
  tenant : Nat := 0
  length : Nat := 0
  partition : Nat := 0
  isSealed : Bool := false
  alwaysRead : Bool := false
  slot : Nat := 0
  epoch : Nat := 0
  readers : Nat := 0
  lastUse : Nat := 0
  tokens : List Nat := []
  prefilled : Nat := 0
  pages : List Nat := []
  /-- pages of the old image that old-epoch sessions still read (R216) -/
  oldPages : List Nat := []
  /-- admitted in the round, and the step that holds its row -/
  admitted : Bool := false
  /-- a switch has it prefilled anew (R216) -/
  rePrefill : Bool := false
  /-- leading positions that have been prefilled before, and cost nothing (R231) -/
  free : Nat := 0
  step : Option Nat := none
  deriving DecidableEq, Repr

/-- A row of a step (R152, R153). -/
structure StepRow where
  ref : RowRef
  line : Nat
  partition : Nat
  tenant : Nat
  adapterEpoch : Nat
  verify : Bool
  position : Nat
  count : Nat
  /-- the sampler cluster that takes its logits: block 4 + (r mod 16) of the S-die for row r (R38, R180) -/
  sampler : Nat := 0
  sampled : Bool := false
  /-- its token and outputs are discarded (R157) -/
  discarded : Bool := false
  /-- what its start was charged, in 1/256 of a token (R231) -/
  charged : Nat := 0
  /-- pages that it reads (R174) -/
  pages : Nat := 0
  deriving DecidableEq, Repr

/-- A step in flight (R152 to R157, R439). -/
structure Step where
  num : Nat
  kind : StepKind
  epoch : Nat
  slot : Nat
  reference : Bool
  residencyEpoch : Nat
  pages : Nat
  rows : List StepRow
  attempts : Nat := 1
  faulty : Bool := false
  /-- the fault is confined to pages of sessions, whose turns alone it affects (R254) -/
  confined : Bool := false
  energyMj : Nat := 0
  /-- islands whose STEP_END has arrived -/
  ended : List Nat := []
  /-- of a PREFILL step: each B-die's first position among the step's, and its count (R159) -/
  split : List (Nat × Nat × Nat) := []
  /-- the cold expert whose fetch the lookahead started, by layer (R165) -/
  predicted : Table Nat := []
  /-- the logical pages that each row reads, once the selector layer has chosen them (R174) -/
  selected : Table (List Nat) := []
  deriving DecidableEq, Repr

/-- The regime shape (R243). -/
structure Regime where
  rowsT : Nat := 8
  pagesT : Nat := 32
  missT : Nat := 1
  deriving DecidableEq, Repr

/-- Counts of one tensor in one step (R114). -/
structure Counts where
  elements : Nat := 0
  saturated : Nat := 0
  flushed : Nat := 0
  nanIn : Nat := 0
  infIn : Nat := 0
  invalid : Nat := 0
  clamped : Nat := 0
  topkNan : Nat := 0
  refRange : Nat := 0
  deriving DecidableEq, Repr

/-- A health record (R115) and the window of R117. -/
structure Health where
  step : Nat := 0
  counts : Counts := {}
  events : Nat := 0
  suppressed : Nat := 0
  /-- the thresholds that the posted event exceeded, one bit each in the order of R116 (R117) -/
  exceeded : BitVec 8 := 0
  postedAt : Option Nat := none
  deriving DecidableEq, Repr

/-- The lettering engine's counters (R275). -/
structure LetteringCounters where
  bytesIn : Nat := 0
  bytesOut : Nat := 0
  tokensIn : Nat := 0
  tokensOut : Nat := 0
  replacements : Nat := 0
  heldBytes : Nat := 0
  stopMatches : Nat := 0
  ringWaits : Nat := 0
  authFailures : Nat := 0
  badTokens : Nat := 0
  deriving DecidableEq, Repr

/-- Memory that is being cleared before it may be given out (R94, R95). -/
inductive ClearKind where
  | page (page : Nat)
  | adapterLine (line : Nat)
  | adapterStore (tenant : Nat)
  | slot (slot : Nat)
  | scratch (cluster : Nat)
  | partition (partition : Nat)
  deriving DecidableEq, Repr

/-- A draft page: 2 MiB of a B-die site's reserve, its session, and the page's index and committed positions (R176). -/
structure DraftPage where
  site : Nat
  granule : Nat
  session : Nat
  logical : Nat
  committed : Nat := 0
  deriving DecidableEq, Repr

/-- The serving engine. -/
structure Serving where
  partitions : Table Partition := []
  tenants : Table Tenant := []
  sessions : Table Session := []
  prefixes : Table Pfx := []
  regime : Regime := {}
  parkLow : Nat := 8192
  parkHigh : Nat := 16384
  parkVersion : Nat := 0
  /-- next step number (R153, R190) -/
  nextStep : Nat := 0
  steps : List Step := []
  /-- host time at which the last DECODE step issued (R243) -/
  lastDecode : Option Nat := none
  lastPartition : Nat := 15
  /-- step-wise counts that are not yet in a record: (step, tensor, counts) -/
  counting : List (Nat × Nat × Counts) := []
  health : Table Health := []
  thresholds : Table Threshold := []
  lettering : LetteringCounters := {}
  clears : List ClearKind := []
  /-- pages held in draft KV (R176): session and positions -/
  drafts : Table Nat := []
  /-- draft pages that sessions hold in the reserves of the B-die sites (R176) -/
  draftPages : List DraftPage := []
  deriving DecidableEq, Repr

/-! ## Image slots (chapter 7) -/

/-- States of a slot (R198). -/
inductive SlotState where
  | empty | loading | ready | active | draining | compat
  deriving DecidableEq, Repr

/-- State of one expert of a layer (R166, R167). -/
structure Expert where
  hot : Bool
  pin : Nat := 0
  /-- seat number when hot, cold-copy slot when cold -/
  place : Nat
  count : Nat := 0
  current : Nat := 0
  deriving DecidableEq, Repr

/-- Residency of a layer and its routing record (R166, R167). -/
structure LayerRes where
  layer : Nat
  experts : List Expert
  groups : Nat
  seatsPerGroup : Nat
  freeSeats : List Nat
  spare : Nat
  window : Nat := 0
  missesPredicted : Nat := 0
  missesLate : Nat := 0
  coldUnits : Nat := 101088
  /-- exchanges that the last decision may still make (R167) -/
  left : Nat := 0
  /-- seat maps of older versions that steps in flight may still use, each with the last residency epoch that uses it,
  oldest first (R163) -/
  older : List (Nat × List Expert) := []
  /-- seats to be freed when steps with an older residency epoch have left: (seat, spare slot, epoch) -/
  releasing : List (Nat × Nat × Nat) := []
  deriving DecidableEq, Repr

/-- A layer's cold-copy area (R154): its site, its base unit address and its slots; not ready while it is being rebuilt (R443). -/
structure ColdArea where
  layer : Nat
  site : Nat
  base : Nat
  slots : Nat
  ready : Bool := true
  deriving DecidableEq, Repr

/-- An image slot (R197 to R199). -/
structure Slot where
  state : SlotState := .empty
  head : Option FolioHead := none
  body : Option FolioBody := none
  epoch : Nat := 0
  verified : List Nat := []
  /-- failed fetches of a chunk: 1 to 4 from the first source, 5 to 8 from the host ranges after a peer (R201, R220) -/
  tries : Table Nat := []
  retries : Nat := 0
  refetched : Nat := 0
  permille : Nat := 0
  /-- the slot is resident, and is filled again after a wake (R190, R212) -/
  filled : Bool := false
  /-- the content key of a DEVICE_WRAPPED Folio, until the slot is EMPTY (R346) -/
  contentKey : Option (BitVec 256) := none
  refuse : Nat := 0
  degraded : Bool := false
  reference : Bool := false
  /-- an arithmetic mode that binds from a step (R122) -/
  modeFrom : Option (Nat × Bool) := none
  streaming : Bool := false
  missing : List Nat := []
  /-- host time since which chunks are missing (R222) -/
  missingAt : Nat := 0
  /-- relocated chunks: chunk to site, and the first of the two reserve granules there (R221) -/
  relocated : Table (Nat × Nat) := []
  /-- B-die sites that hold a copy of the header, the colophon and the tree (R197) -/
  copies : List Nat := []
  /-- a refill after a wake waits for missing chunks, and variants whose headroom is still to be filled (R222) -/
  reloadDue : Bool := false
  owed : List Variant := []
  /-- the streaming lists wait for missing chunks (R222) -/
  streamDue : Bool := false
  peer : Option Nat := none
  hostConfirmed : Bool := false
  fromPeer : Option Nat := none
  /-- a load from a peer: the GENERATION and the BANK that the puller keeps (R205) -/
  pull : Option (Nat × Nat) := none
  stencils : Table Stencil := []
  residencyEpoch : Nat := 0
  layers : List LayerRes := []
  /-- the cold-copy areas of the layers (R154) -/
  areas : List ColdArea := []
  inForce : List Variant := []
  noVariant : Bool := false
  deriving DecidableEq, Repr

/-- An adapter cache line (R170, R171). -/
structure Line where
  tenant : Nat := 0
  version : Nat := 0
  lastUse : Nat := 0
  deriving DecidableEq, Repr

/-- The export of a slot (R203 to R206). -/
structure Export where
  slot : Option Nat := none
  peer : Nat := 0
  generation : Nat := 0
  /-- generations given so far -/
  count : Nat := 0
  bank : Nat := 0
  deriving DecidableEq, Repr

/-- A compat swap under way (R219). -/
structure Compat where
  head : FolioHead
  body : FolioBody
  oldHead : FolioHead
  oldBody : FolioBody
  /-- the repair variants of the new image's placement -/
  inForce : List Variant := []
  /-- the range list of the old Folio: bus address and bytes (R337) -/
  oldList : Nat × Nat := (0, 0)
  layersDone : List Nat := []
  /-- the content key of a DEVICE_WRAPPED new Folio (R346, R361) -/
  contentKey : Option (BitVec 256) := none
  deriving DecidableEq, Repr

/-- The images. -/
structure Images where
  a : Slot := {}
  b : Slot := {}
  /-- last image epoch assigned (R207) -/
  epoch : Nat := 0
  lines : Table Line := []
  exported : Export := {}
  /-- a switch whose migration is not complete: the old and the new slot -/
  switching : Option (Nat × Nat) := none
  migrating : Bool := false
  migrated : List Nat := []
  compat : Option Compat := none
  activating : Option Nat := none
  deriving DecidableEq, Repr

/-! ## The vellum (chapter 5) -/

/-- States of a page (R139). -/
inductive PageState where
  | free | clearing | live | pinned | retired | outbound
  deriving DecidableEq, Repr

/-- A page map entry (R139). -/
structure Page where
  session : Nat := 0
  tenant : Nat := 0
  logical : Nat := 0
  committed : Nat := 0
  written : Nat := 0
  state : PageState := .free
  alwaysRead : Bool := false
  isSealed : Bool := false
  partition : Nat := 0
  slot : Nat := 0
  generation : Nat := 0
  /-- its key summary has been written (R173) -/
  summary : Bool := false
  deriving DecidableEq, Repr

/-- A memory site (R128 to R146). -/
structure Site where
  lost : Bool := false
  untrained : Bool := false
  /-- emptied for a cartridge exchange (R447) -/
  emptied : Bool := false
  selfRefresh : Bool := false
  /-- its controller is off, in VELLUM-ONLY with no Sealed granule (R350, R390) -/
  controllerOff : Bool := false
  readUnits : Nat := 0
  writeUnits : Nat := 0
  arrayCorrections : Nat := 0
  symbolCorrections : Nat := 0
  uncorrectable : Nat := 0
  scrubPasses : Nat := 0
  scrubPosition : Nat := 0
  /-- the unit that the scrubber reads next (R133) -/
  scrubUnit : Nat := 0
  specClamped : Nat := 0
  prefetchHits : Nat := 0
  prefetchDiscarded : Nat := 0
  demandFetches : Nat := 0
  refreshWaits : Nat := 0
  /-- units whose corrected data is still to be written back -/
  writeBacks : List Nat := []
  /-- granules being copied to a spare -/
  copying : List Nat := []
  /-- units that needed more than 4 symbols corrected, with the host time (R134) -/
  heavy : List (Nat × Nat) := []
  /-- (array, unit, host time) of corrections (R135) -/
  arrayUnits : List (Nat × Nat × Nat) := []
  deriving DecidableEq, Repr

/-- A prefetch buffer entry (R142): the step and read that it is tagged with, the data, its poison mark, and the generations of the
KV pages that it names (R139). -/
structure Prefetch where
  step : Nat
  ref : VellumRef
  units : Nat := 1
  data : List Byte := []
  poisoned : Bool := false
  generations : List (Nat × Nat) := []
  deriving DecidableEq, Repr

/-- The vellum. `mem` holds bytes at site × 48 GiB + byte. -/
structure Vellum where
  layout : Layout := {}
  pages : Table Page := []
  sites : Table Site := []
  mem : Memory := []
  prefetch : Table (List Prefetch) := []
  /-- round-robin pointer of page allocation (R138) -/
  nextSite : Nat := 0
  /-- pages that are to be freed once no step in flight names them (R141) -/
  waiting : List Nat := []
  /-- store space of released adapter versions that is still to be cleared: tenant, site, first unit and units (R94) -/
  clearing : List (Nat × Nat × Nat × Nat) := []
  /-- units that hold data marked poisoned, by site × 805,306,368 + unit (R89) -/
  poisoned : Table Bool := []
  deriving DecidableEq, Repr

/-! ## Islands and tiles (chapters 2 and 3) -/

/-- Network counters of a cluster (R67). -/
structure NetCounters where
  lateStall : Nat := 0
  lateArrivals : Nat := 0
  nearMisses : Nat := 0
  watchdogFires : Nat := 0
  droopStretches : Nat := 0
  mergedReads : Nat := 0
  mergeDeclined : Nat := 0
  arbMaxWait : Nat := 0
  arbSaturated : Nat := 0
  flitsOut : Nat := 0
  flitsIn : Nat := 0
  linkRetries : Nat := 0
  deriving DecidableEq, Repr

/-- Memory counters of a cluster (R96). -/
structure MemCounters where
  secded : Nat := 0
  rowCorrections : Nat := 0
  uncorrectable : Nat := 0
  scrubCorrections : Nat := 0
  sameRowYields : Nat := 0
  forcedWins : Nat := 0
  unwrittenReads : Nat := 0
  zeroScaleSkips : Nat := 0
  isolationFaults : Nat := 0
  clearsDone : Nat := 0
  dmaErrors : Nat := 0
  forcedStalls : Nat := 0
  deriving DecidableEq, Repr

/-- A transfer's data: rows of bytes, or the EMPTY flit of a failing predicate (R77). -/
structure Flits where
  empty : Bool := false
  poisoned : Bool := false
  /-- pieces that make up the transfer: a read that merges row by row comes in one piece a row (R53) -/
  total : Nat := 1
  parts : Table (List Byte) := []
  /-- NaN scores met on the way to a TOPK's destination (R59) -/
  nans : Nat := 0
  /-- q of R124 is 2^-quantum, for 64-bit partials of reference mode (R125) -/
  quantum : Option Nat := none
  /-- the step that it belongs to -/
  step : Option Nat := none
  /-- the token of a layer's route words: each piece holds W251 to W255 of one cold pass (R154) -/
  route : Bool := false
  deriving DecidableEq, Repr

/-- What a gated island waits for (R43, R76). -/
inductive Waiting where
  | descriptor
  | crossing (tile dst crossing : Nat)
  | ligature (tile dst tag : Nat) (scale : Option Fp32)
  | dma (tile ctr count : Nat)
  deriving DecidableEq, Repr

/-- A transfer in the network (R41). -/
structure Transfer where
  consumer : Nat
  crossing : Nat
  flits : Flits
  /-- a remote SLICE_WRITE or a DMA write: the address it writes at its arrival, in the slices, or in a scratchpad -/
  writeAt : Option Nat := none
  toScratch : Bool := false
  /-- it is a DMA engine's, whose checks are made (R92) -/
  engine : Bool := false
  /-- destination address that a SEND or LIG_SEND names (R74) -/
  addr : Nat := 0
  /-- the tile or cluster that sent it, and the step it belongs to -/
  producer : Nat := 0xFFFF
  step : Option Nat := none
  /-- edge links it takes, as die × 4 + direction (R46) -/
  path : List Nat := []
  /-- a row that a DMA engine's flagged read waits for: the engine's cluster, and its queue, 16 for the scribe's (R53, R92) -/
  forDma : Option (Nat × Nat) := none
  /-- a ligature node's output: the input of the next node that it is, `none` at the destination, and the slot (R57) -/
  node : Option (Option LigIn × Nat) := none
  deriving DecidableEq, Repr

/-- A requester in a merge window: its tile, where the row goes there, the crossing that takes it, and its place
among the rows of its read. -/
structure Member where
  tile : Nat
  dst : Nat
  crossing : Nat
  place : Nat
  total : Nat
  deriving DecidableEq, Repr

/-- A merge window (R53): its row, the tiles and the DMA engines that joined, and the row as it was read. -/
structure Window where
  row : Nat
  members : List Member
  /-- DMA engines that joined with a flagged read: the response that each row waits for, but for its data (R92) -/
  engines : List Transfer := []
  data : List Byte
  poisoned : Bool := false
  deriving DecidableEq, Repr

/-- A step descriptor (R153) as an island holds it: its words as one number per word. -/
structure Desc where
  step : Nat
  words : Table Nat
  /-- the half of the stroke memories that the step runs here (R210) -/
  half : Nat := 0
  /-- on a B-die, the first of the step's positions that the die takes and their count (R159) -/
  share : Nat × Nat := (0, 0)
  deriving DecidableEq, Repr

/-- A partial result that waits at a ligature node (R57, R60): its reduction tag, its operand-order input, and the slot of the
placement whose table it belongs to. -/
structure Partial where
  tag : Nat
  input : LigIn
  flits : Flits
  slot : Nat := 0
  /-- the destination that its LIG_SEND names (R74) -/
  unit : Nat := 0xFFFF
  addr : Nat := 0
  deriving DecidableEq, Repr

/-- The placement tables of a cluster for one image slot: tensors, ligature entries and role (R57, R104, R149), and the steps that
its boundary frames hold (R438). -/
structure SlotTables where
  ligs : List LigEntry := []
  tensors : List TensorEntry := []
  role : Role := .headroom
  boundary : Nat := 0
  deriving DecidableEq, Repr

/-- A boundary frame: the input activations of one step, by crossing (R438). -/
structure Frame where
  step : Nat
  inputs : List Transfer
  deriving DecidableEq, Repr

/-- A compute cluster: an island of the network. -/
structure Island where
  running : Bool := false
  fenced : Bool := false
  /-- its LDO is off: dark after three failed segments, or parked under R387 -/
  dark : Bool := false
  parked : Bool := false
  gate : Option Waiting := none
  /-- a producer stalled at its send stroke: the crossing (R42) -/
  stalled : Option Nat := none
  desc : Option Desc := none
  /-- descriptors posted and not yet begun, in ascending step order (R155) -/
  posted : List Desc := []
  inbox : Table Flits := []
  /-- the placement's tables, by image slot (R208) -/
  tables : Table SlotTables := []
  partials : List Partial := []
  /-- the partial whose acknowledgement the router withholds (R60) -/
  heldPartial : Option Partial := none
  ligResults : Table Flits := []
  /-- routing weights that a router cluster has computed for the current step, by row position: expert and weight (R163) -/
  routing : Table (List (Nat × Fp32)) := []
  /-- writes that arrived while the island was gated, oldest first (R43) -/
  deferred : List Transfer := []
  /-- boundary frames (R438) -/
  frames : List Frame := []
  /-- flagged DMA reads whose rows are still to come: the queue, its done counter and the rows (R53, R91, R92) -/
  merging : List (Nat × Nat × Nat) := []
  windows : List Window := []
  net : NetCounters := {}
  mem : MemCounters := {}
  /-- rows corrected and still to be written back (R88) -/
  writeBacks : List Nat := []
  /-- the scribe's own queue at the cluster's DMA engine (R91) -/
  scribeDma : List (BitVec 256) := []
  /-- what each half of stroke memory holds: slot and streaming form (R210) -/
  half0 : Option (Nat × Bool) := none
  half1 : Option (Nat × Bool) := none
  /-- counts of the current step by tensor (R114) -/
  counts : List (Nat × Counts) := []
  /-- a droop of more than 64 consecutive cycles is still to be reported (R40) -/
  droopDue : Bool := false
  /-- droop reports of the last hour (R382), and its present response -/
  droops : List Nat := []
  droopSkip : Bool := false
  droopBin : Bool := false
  /-- LDO segments enabled, and the host time since which the next enable waits (R383) -/
  enabledSegments : Nat := 0
  enableSince : Option Nat := none
  /-- energy of the open step (R394) -/
  energyMj : Nat := 0
  deriving DecidableEq, Repr

/-- A loop counter of a tile's sequencer. -/
structure LoopCtr where
  total : Nat := 0
  left : Nat := 0
  deriving DecidableEq, Repr

/-- A lane accumulator: the FP32 pattern in normal mode, the 96-bit sum in reference mode (R120, R123). -/
structure Acc where
  bits : BitVec 96 := 0
  /-- a contribution broke the limit of R124 -/
  poisoned : Bool := false
  /-- a contribution came from data marked poisoned (R89) -/
  tainted : Bool := false
  deriving DecidableEq, Repr

/-- A weight block in a lane's operand latch (R71): where it lies. -/
structure Latch where
  tensor : Nat := 0
  block : Nat := 0
  inSlice : Bool := false
  fmt : Fmt := .n4
  sparsity : Sparsity := .dense
  scale : BitVec 8 := 0
  /-- the block's element bytes and its metadata word -/
  bytes : List Byte := []
  metaWord : Nat := 0
  /-- the block was read as poisoned data (R89) -/
  tainted : Bool := false
  deriving DecidableEq, Repr

/-- A tile (R69). Keys of `accs` are accumulator × 128 + lane, of `vregs` register × 64 + lane. -/
structure Tile where
  preds : BitVec 16 := 0
  loops : Table LoopCtr := []
  accs : Table Acc := []
  latches : Table Latch := []
  vregs : Table Fp32 := []
  /-- values of `vregs` that come from data marked poisoned, by the same keys (R89) -/
  vtaint : Table Bool := []
  done : Table Nat := []
  /-- descriptors of both halves' list sets, by half × 64 + index (R91, R208) -/
  dmaTable : Table (BitVec 256) := []
  /-- descriptors posted, each with its place in the tile's table (R91) -/
  dmaQueue : List (Nat × BitVec 256) := []
  strokes : Table (BitVec 128) := []
  /-- local cycle of the last issue, since STEP_BEGIN -/
  cycle : Nat := 0
  topk : List (Fp32 × Nat) := []
  deriving DecidableEq, Repr

/-- Region types of SRAM (R84). -/
inductive RegionType where
  | shared | work | adapter
  deriving DecidableEq, Repr

/-- A frame or region: its type and owner. -/
structure RegionInfo where
  type : RegionType := .work
  owner : Nat := 0
  retired : Bool := false
  deriving DecidableEq, Repr

/-- An edge link seen from one end, by die × 4 + direction (R45, R49). -/
structure Edge where
  /-- sublinks mapped out -/
  bad : BitVec 16 := 0
  retries : Nat := 0
  /-- host times of the retries within the last 1 ms, with their sublink -/
  recent : List (Nat × Nat) := []
  /-- sublinks that the next step boundary maps out (R49) -/
  outDue : List Nat := []
  /-- flits that left the die over the link: a multicast counts once on each link of its tree (R46, R56) -/
  carried : Nat := 0
  deriving DecidableEq, Repr

/-- The dies, the network and the SRAM. `sram` holds bytes: scratchpad byte a of tile u at u × 2^20 + a, slice
byte a of cluster c at 2^40 + c × 2^25 + a. -/
structure Fabric where
  islands : Table Island := []
  tiles : Table Tile := []
  edges : Table Edge := []
  /-- the route tables of the placements: slot × 65,536 + die × 64 + destination to direction (R46, R208) -/
  routes : Table Nat := []
  regions : Table RegionInfo := []
  sram : Memory := []
  /-- rows (byte key div 64) whose live bit is set (R85), and rows of adapter lines written since the line's load -/
  live : Table Bool := []
  poisoned : Table Bool := []
  inFlight : List Transfer := []
  /-- transfers that a fenced cluster refused, held at their die boundary for replay (R64) -/
  refused : List Transfer := []
  /-- wait counts of the dynamic requests that wait, and the round-robin pointers of the arbiters that they pass (R51) -/
  waits : Table Nat := []
  arbNext : Table Nat := []
  deriving DecidableEq, Repr

/-! ## Power (chapter 14) -/

/-- The power states (R390). -/
inductive PowerState where
  | active | trim | hold | retain | shed | vellumOnly
  deriving DecidableEq, Repr

/-- The rails of a die and its memory site (R379). -/
inductive Rail where
  | logicIn | sramArrays | links | vellumInterface | dramCore | dramPump
  deriving DecidableEq, Repr

/-- The governor's power side. -/
structure Power where
  /-- allowance A, in W (R384) -/
  allowance : Nat := 0
  rampedAt : Nat := 0
  /-- host cap in force for checks, and the one that is bound (R385); 18,500 when none is set -/
  hostCap : Nat := 18500
  boundCap : Nat := 18500
  capPending : Bool := false
  /-- the host cap that the waiting POWER_CAP_SET replaced (R312, R385) -/
  capBefore : Option Nat := none
  floor : Nat := 0
  tolerance : Nat := 0
  /-- a tolerance that takes effect at the next step boundary (R339) -/
  tolDue : Option Nat := none
  state : PowerState := .active
  selected : PowerState := .active
  descending : Bool := false
  /-- host time since which the module is idle -/
  idleSince : Option Nat := none
  /-- point of the ladder, 1 to 14 (R386): the 1.0 GHz bin until the first choice (R68) -/
  point : Nat := 6
  /-- units moved so far in a descent move (R392) -/
  moved : Nat := 0
  mean1ms : Nat := 0
  mean10ms : Nat := 0
  /-- skipping in eighths applied to a die by R377, and the host time of its last change -/
  dieSkip : Table Nat := []
  dieChanged : Table Nat := []
  /-- host time, plus 1, since which a die's current has stayed below 95% of its limit -/
  dieQuiet : Table Nat := []
  /-- dies whose running islands skip 1 in 8 for an inrush wait (R383) -/
  inrushSkip : List Nat := []
  unreachable : Bool := false
  /-- clusters that leave service at the next step boundary: the cluster, and whether it is fenced (R440) rather than
  parked (R441) -/
  retiring : List (Nat × Bool) := []
  deriving DecidableEq, Repr

/-! ## Heat (chapter 15) -/

/-- A sensor pair and its unit's thresholds (R397 to R403); temperatures in 0.25 °C. -/
structure Pair where
  a : Int := 100
  b : Int := 100
  failedA : Bool := false
  failedB : Bool := false
  flagged : Bool := false
  /-- host time since which the pair lies within 4 °C -/
  closeSince : Option Nat := none
  warning : Bool := false
  stage : Nat := 0
  stageAt : Nat := 0
  /-- consecutive samples at 115 °C -/
  hot : Nat := 0
  /-- host time since which a throttled unit's reading has stayed below 100 °C (R403) -/
  coolSince : Option Nat := none
  /-- each sensor's own value in the previous sample -/
  rawA : Int := 100
  rawB : Int := 100
  /-- consecutive envelope misses of each sensor (R399) -/
  missA : Nat := 0
  missB : Nat := 0
  /-- host times of jumps above 3 °C in one sample while the partner moved less than 1 °C -/
  jumpA : Option Nat := none
  jumpB : Option Nat := none
  deriving DecidableEq, Repr

/-- The thermal side of the governor. -/
structure Thermal where
  pairs : Table Pair := []
  flow : Nat := 0
  flowAt : Nat := 0
  flowStale : Bool := false
  inlet : Int := 100
  outlet : Int := 100
  power : Nat := 0
  coolingCap : Nat := 18500
  outside : Bool := false
  /-- a partial shutdown is recorded and not yet acknowledged -/
  shutdown : Bool := false
  deriving DecidableEq, Repr

/-! ## The blotter and the sideband (chapters 10 and 17) -/

/-- A blotter entry (R432). -/
structure Entry where
  index : Nat
  firstTime : Nat
  lastTime : Nat
  count : Nat := 1
  report : Report
  coalesced : Bool := false
  uptime : Bool := false
  active : Bool := false
  /-- the stop record that follows it, verbatim (R413) -/
  stop : Option StopRecord := none
  deriving DecidableEq, Repr

/-- A governor warning (R19): its cause (R316), its unit, and what it still waits for. -/
structure Warning where
  cause : Nat
  unit : Nat
  acked : Bool := false
  ended : Bool := false
  deriving DecidableEq, Repr

/-- The blotter. -/
structure Blotter where
  ring : List Entry := []
  reserve : List Entry := []
  next : Nat := 0
  /-- host time at which the reports of the intake are all written: one entry takes 250 ns (R431) -/
  busyUntil : Nat := 0
  keys : List Entry := []
  coalescing : Bool := false
  overflow : Nat := 0
  warnings : List Warning := []
  deriving DecidableEq, Repr

/-- The management endpoint (R294 to R296, R449). -/
structure Mgmt where
  eid : Nat := 0
  receiver : Option Nat := none
  /-- entries to be sent as PLDM events, and entries held for polling -/
  toSend : List Entry := []
  poll : List Entry := []
  /-- events sent, and how many in the second that began at `secondAt` -/
  sent : List Entry := []
  secondAt : Nat := 0
  inSecond : Nat := 0
  /-- entries counted per code beyond the rate, and of the classes that are only counted (R448, R449) -/
  counted : Table Nat := []
  /-- the events of counts sent, one a second, and the host time of the last, plus 1 -/
  countEvents : List (Table Nat) := []
  countAt : Nat := 0
  /-- last SPDM answer: false for an ERROR -/
  spdmOk : Option Bool := none
  spdmAnswers : Nat := 0
  /-- what the last SPDM answer carried: a certificate chain or the measurement blocks (R296) -/
  spdmBytes : List Byte := []
  /-- the address given at the last read of the Alert Response Address, and how many were answered (R19, R22) -/
  arpAnswer : Option Nat := none
  arpAnswers : Nat := 0
  polled : Option Entry := none
  deriving DecidableEq, Repr

/-! ## Trust and firmware (chapters 13 and 17) -/

/-- A measurement log entry (R355). -/
structure LogEntry where
  index : Nat
  register : Nat
  kind : Nat
  version : Nat
  svn : Nat
  digest : Digest
  deriving DecidableEq, Repr

/-- An open key exchange (R363). -/
structure Exchange where
  session : Nat
  partition : Nat
  seq : Nat
  startedAt : Nat
  /-- the body of the offer, and which making its ephemeral keys are (R364, R366) -/
  offer : List Byte := []
  eph : Nat := 0
  deriving DecidableEq, Repr

/-- Keys of the key store that belong to the module (R346): the ML-KEM-1024 and the P-384 wrap keys, derived from the root. The other
secrets of the store stand with what they belong to: session keys and seeds, park and history keys, content keys. -/
structure KeyStore where
  wrapKem : BitVec 256 := 0
  wrapEc : BitVec 256 := 0
  deriving DecidableEq, Repr

/-- The trust side. -/
structure Trust where
  /-- the root in its key register, and the key-store wrap key (R345, R346); `none` when they are not derived, or zeroised -/
  root : Option (BitVec 256) := none
  storeKey : Option (BitVec 256) := none
  isUnsealed : Bool := false
  keyStore : Option KeyStore := none
  /-- the key store wrapped into the S-die system region before SHED or VELLUM-ONLY (R376, R392) -/
  storeCopy : Option KeyStore := none
  registers : List Digest := [0, 0, 0, 0, 0, 0, 0, 0]
  log : List LogEntry := []
  logFull : Bool := false
  /-- SHA-384 of the boot ROM, as the last boot found it (R354) -/
  rom : Digest := 0
  exchanges : List Exchange := []
  /-- between the two stages of re-provisioning (R374) -/
  stageOne : Bool := false
  meshArmed : Bool := false
  recoveryBank : Bool := false
  deriving DecidableEq, Repr

/-- Firmware (R445, R446). -/
structure Fw where
  running : Nat := 0
  primary : Nat := 0
  recovery : Nat := 0
  staged : Option FwImage := none
  staging : Option FwImage := none
  /-- a handover waits for its boundary -/
  handover : Bool := false
  /-- an accepted PLDM update -/
  pldm : Bool := false
  deriving DecidableEq, Repr

/-- The good-unit map's own fields (R421); the rest is read from the units. -/
structure GoodMap where
  goodClusters : Nat := 0
  goodSites : Nat := 0
  refused : Bool := false
  cause : Nat := 0
  ms : Nat := 0
  usableLinks : Nat := 0
  changes : Nat := 0
  mapTime : Nat := 0
  /-- S-die blocks that failed (R420) -/
  badBlocks : List Nat := []
  /-- dies with STATUS 2, dark (R422) -/
  darkDies : List Nat := []
  deriving DecidableEq, Repr

/-! ## The state -/

/-- The module. -/
structure State where
  /-- commands that wait, first in, first out -/
  pending : List Instr := []
  /-- host time, in ns, as the module stamps it (R12, R284) -/
  now : Nat := 0
  /-- the model's own: how many free values the step has drawn -/
  free : Nat := 0
  board : Board := {}
  nvm : Nvm := {}
  link : Link := {}
  mailbox : Mailbox := {}
  serving : Serving := {}
  images : Images := {}
  vellum : Vellum := {}
  fabric : Fabric := {}
  power : Power := {}
  thermal : Thermal := {}
  blotter : Blotter := {}
  mgmt : Mgmt := {}
  trust : Trust := {}
  fw : Fw := {}
  map : GoodMap := {}
  deriving DecidableEq, Repr

/-- The module right after reset: MOD_EN is low (R20), nothing is powered, every table is empty, and every
register reads its reset value. -/
def State.reset : State := {}

end Sys2Proof.Machine
end

