-- ==== Sys2Proof/Machine/Table.lean ====
section
/-! DEFINITION. Operations on the sparse tables and byte memories, and small list helpers.
A table keeps one canonical form (`twf`): keys strictly rising, and no entry equal to the default. -/

namespace Sys2Proof.Machine

/-- The value of key `k`, or the default. -/
def tget {α : Type} (d : α) : Table α → Nat → α
  | [], _ => d
  | (k', v) :: t, k => if k' = k then v else tget d t k

/-- The table without key `k`. -/
def terase {α : Type} : Table α → Nat → Table α
  | [], _ => []
  | (k', v) :: t, k => if k' = k then terase t k else (k', v) :: terase t k

/-- The table with `v` at key `k`, whatever `v` is: keys stay in rising order. -/
def tins {α : Type} : Table α → Nat → α → Table α
  | [], k, v => [(k, v)]
  | (k', v') :: t, k, v =>
    if k' < k then (k', v') :: tins t k v
    else if k' = k then (k, v) :: t
    else (k, v) :: (k', v') :: t

/-- Writing: the default removes the entry, so that equal tables are equal data. -/
def tput {α : Type} [DecidableEq α] (d : α) (t : Table α) (k : Nat) (v : α) : Table α :=
  if v = d then terase t k else tins t k v

/-- Update of one key. -/
def tmod {α : Type} [DecidableEq α] (d : α) (t : Table α) (k : Nat) (f : α → α) : Table α :=
  tput d t k (f (tget d t k))

/-- Keys rise strictly from `lo`, and no entry is the default. -/
def twfFrom {α : Type} [DecidableEq α] (d : α) : Nat → Table α → Bool
  | _, [] => true
  | lo, (k, v) :: t => decide (lo ≤ k) && decide (v ≠ d) && twfFrom d (k + 1) t

/-- The canonical form. -/
def twf {α : Type} [DecidableEq α] (d : α) (t : Table α) : Bool := twfFrom d 0 t

/-- Every listed value updated; defaults drop out. -/
def tmap {α : Type} [DecidableEq α] (d : α) (f : Nat → α → α) (t : Table α) : Table α :=
  t.foldl (fun acc kv => tput d acc kv.1 (f kv.1 kv.2)) t

/-- The entries whose key passes `p`. -/
def tfilter {α : Type} (p : Nat → Bool) (t : Table α) : Table α := t.filter (fun kv => p kv.1)

/-! ## Byte memories -/

/-- One byte; an unlisted byte reads as zero (R97, R147). -/
def mget (m : Memory) (a : Nat) : Byte := tget 0#8 m a

/-- Writing one byte. -/
def mput (m : Memory) (a : Nat) (b : Byte) : Memory := tput 0#8 m a b

/-- The canonical form of a memory. -/
def mwf (m : Memory) : Bool := twf 0#8 m

/-- `n` bytes from `a` on. -/
def mread (m : Memory) (a : Nat) : Nat → List Byte
  | 0 => []
  | n + 1 => mget m a :: mread m (a + 1) n

/-- Bytes written from `a` on. -/
def mwrite (m : Memory) (a : Nat) : List Byte → Memory
  | [] => m
  | b :: bs => mwrite (mput m a b) (a + 1) bs

/-- Every byte from `a` to `a + n - 1` cleared to zero. -/
def mclear (m : Memory) (a n : Nat) : Memory := m.filter (fun kv => !(decide (a ≤ kv.1) && decide (kv.1 < a + n)))

/-- The `n` bytes from `a` on, as a memory of their own. -/
def mcut (m : Memory) (a n : Nat) : Memory :=
  (m.filter (fun kv => decide (a ≤ kv.1) && decide (kv.1 < a + n))).map (fun kv => (kv.1 - a, kv.2))

/-- `n` bytes from `a` on replaced by those of a memory that begins at 0. -/
def mpaste (m : Memory) (a n : Nat) (c : Memory) : Memory :=
  (c.filter (fun kv => decide (kv.1 < n))).foldl (fun m kv => mput m (a + kv.1) kv.2) (mclear m a n)

/-! ## Runs of a share -/

/-- What lies free between `lo` and `hi` beside the runs of a rising list, as starts and lengths. -/
def gapsIn (hi : Nat) : List (Nat × Nat) → Nat → List (Nat × Nat)
  | [], lo => if lo < hi then [(lo, hi - lo)] else []
  | u :: us, lo => (if lo < u.1 then [(lo, u.1 - lo)] else []) ++ gapsIn hi us (max lo (u.1 + u.2))

/-- The first `n` items of the free runs, in order. -/
def takeRuns : List (Nat × Nat) → Nat → Option (List (Nat × Nat))
  | [], n => if n = 0 then some [] else none
  | g :: gs, n => if n = 0 then some [] else if n ≤ g.2 then some [(g.1, n)] else (takeRuns gs (n - g.2)).map (fun l => g :: l)

/-- An item put into a list before the first one that it does not come after, and a list put in order: equal items keep theirs. -/
def insertBy {α : Type} (le : α → α → Bool) (x : α) : List α → List α
  | [] => [x]
  | y :: ys => if le x y then x :: y :: ys else y :: insertBy le x ys
def sortBy {α : Type} (le : α → α → Bool) (l : List α) : List α := l.foldr (insertBy le) []

/-- Runs in rising order. -/
def sortRuns (l : List (Nat × Nat)) : List (Nat × Nat) := sortBy (fun a b => decide (a.1 ≤ b.1)) l

/-! ## Little-endian numbers (R8) -/

/-- The value of bytes, the lowest first. -/
def leNat : List Byte → Nat
  | [] => 0
  | b :: bs => b.toNat + 256 * leNat bs

/-- The `n` lowest bytes of a number, the lowest first. -/
def leBytes : Nat → Nat → List Byte
  | 0, _ => []
  | n + 1, v => BitVec.ofNat 8 (v % 256) :: leBytes n (v / 256)

/-- A record given as (width, value) fields from its highest bit down, as its table lists them. -/
def packFields (fs : List (Nat × Nat)) : Nat := fs.foldl (fun acc f => acc * 2 ^ f.1 + f.2 % 2 ^ f.1) 0

/-- Saturation at `2 ^ w - 1` (R67, R115). -/
def sat (w n : Nat) : Nat := min n (2 ^ w - 1)

/-- A flag as a bit. -/
def bit (b : Bool) : Nat := if b then 1 else 0

/-- The first element that passes a test, removed from its list. -/
def takeFirst {α : Type} (p : α → Bool) : List α → Option (α × List α)
  | [] => none
  | x :: xs => if p x then some (x, xs) else (takeFirst p xs).map (fun r => (r.1, x :: r.2))

/-- The first element that passes a test, updated. -/
def modFirst {α : Type} (p : α → Bool) (f : α → α) : List α → List α
  | [] => []
  | x :: xs => if p x then f x :: xs else x :: modFirst p f xs

/-- Every element that passes a test, updated. -/
def modWhere {α : Type} (p : α → Bool) (f : α → α) (l : List α) : List α :=
  l.map (fun x => if p x then f x else x)

/-- The last `n` elements. -/
def keepLast {α : Type} (n : Nat) (l : List α) : List α := l.drop (l.length - n)

/-- The least number in a range that a test accepts, searched upwards. -/
def leastBelow (p : Nat → Bool) : Nat → Nat → Option Nat
  | 0, _ => none
  | n + 1, k => if p k then some k else leastBelow p n (k + 1)

end Sys2Proof.Machine
end

