-- ==== Sys2Proof/Machine/Units.lean ====
section
/-! DEFINITION. Dies, unit identifiers and distances on the wafer (R1 to R4, R46, R47, R136, R138). -/

namespace Sys2Proof.Machine

/-- The S-die (R2). -/
def sDie : Nat := 16

/-- B-dies are 17 to 23 (R2). -/
def isBDie (d : Nat) : Bool := decide (17 ≤ d) && decide (d ≤ 23)

/-- Q-dies are 0 to 15 and 24 to 39 (R2). -/
def isQDie (d : Nat) : Bool := decide (d < 16) || (decide (24 ≤ d) && decide (d < 40))

/-- A compute die. -/
def isComputeDie (d : Nat) : Bool := isQDie d || isBDie d

/-- Die index of R1 from column and row. -/
def dieIndex (col row : Nat) : Nat := row * 8 + col

/-- The fields of a unit identifier (R4). -/
def unitDie (u : Nat) : Nat := u / 1024
def unitCluster (u : Nat) : Nat := u / 16 % 64
def unitTile (u : Nat) : Nat := u % 16

/-- The identifier with given fields. -/
def mkUnit (die cluster tile : Nat) : Nat := die * 1024 + cluster * 16 + tile

/-- The cluster of a tile. -/
def clusterOf (u : Nat) : Nat := u / 16 * 16

/-- Names a compute cluster. -/
def isCluster (u : Nat) : Bool :=
  isComputeDie (unitDie u) && decide (unitCluster u < 48) && decide (unitTile u = 0)

/-- Names a tile (R3, R4: a B-cluster has tiles 0 to 7). -/
def isTile (u : Nat) : Bool :=
  decide (unitCluster u < 48) &&
    (isQDie (unitDie u) || (isBDie (unitDie u) && decide (unitTile u < 8)))

/-- Names a memory site (R129). -/
def isSite (u : Nat) : Bool :=
  decide (unitDie u < 40) && decide (unitCluster u = 63) && decide (unitTile u = 0)

/-- Names an S-die block, or an application core in block 0 (R38). -/
def isBlock (u : Nat) : Bool :=
  decide (unitDie u = sDie) && decide (unitCluster u < 24) &&
    (decide (unitTile u = 0) || (decide (unitCluster u = 0) && decide (unitTile u < 8)))

/-- The identifier of a site (R129). -/
def siteUnit (die : Nat) : Nat := mkUnit die 63 0

/-- A valid identifier that names one unit (R4). -/
def isUnit (u : Nat) : Bool := isCluster u || isTile u || isSite u || isBlock u

/-- All compute clusters, in ascending identifier. -/
def allClusters : List Nat :=
  ((List.range 40).filter isComputeDie).flatMap (fun d => (List.range 48).map (fun c => mkUnit d c 0))

/-- Clusters of a die. -/
def dieClusters (d : Nat) : List Nat := (List.range 48).map (fun c => mkUnit d c 0)

/-- The Q-die sites in the order of R138. -/
def qSites : List Nat := List.range 16 ++ (List.range 16).map (· + 24)

/-- Sites under the B-dies. -/
def bSites : List Nat := (List.range 7).map (· + 17)

/-- The compute sites in the order of R136. -/
def computeSites : List Nat := (List.range 40).filter (· ≠ sDie)

/-- Site of KV pool page `p` (R138). -/
def pageSite (p : Nat) : Nat := qSites.getD (p % 32) 0

/-- Site of chunk `c` in its slot's stripe (R136, R197). -/
def chunkSite (c : Nat) : Nat := computeSites.getD (c % 39) 0

/-- Slices of a cluster, in bytes (R78). -/
def sliceBytes (cluster : Nat) : Nat := if isQDie (unitDie cluster) then 33554432 else 8388608

/-- Scratchpad bytes of a tile (R69). -/
def scratchBytes (tile : Nat) : Nat := if isQDie (unitDie tile) then 262144 else 1048576

/-- Lanes of a tile, vector lanes, strokes of its stroke memory (R69). -/
def lanesOf (tile : Nat) : Nat := if isQDie (unitDie tile) then 16 else 128
def vectorLanes (tile : Nat) : Nat := if isQDie (unitDie tile) then 32 else 64
def strokesOf (tile : Nat) : Nat := if isQDie (unitDie tile) then 4096 else 8192

/-- Tiles of a cluster. -/
def clusterTiles (c : Nat) : List Nat :=
  (List.range (if isQDie (unitDie c) then 16 else 8)).map (fun i => c + i)

/-- Bytes of SRAM in the S-die's control complex (R37). What it holds is the scribe's own state, the serving, image and mailbox tables of
`State` (log entry 41). -/
def controlSramBytes : Nat := 536870912

/-- Key of scratchpad byte `a` of a tile in `Fabric.sram`. -/
def scratchKey (tile a : Nat) : Nat := tile * 1048576 + a

/-- Key of slice byte `a` of a cluster in `Fabric.sram`. -/
def sliceKey (cluster a : Nat) : Nat := 1099511627776 + cluster * 33554432 + a

/-- Bytes of a site: 24,576 granules of 2 MiB (R128). -/
def siteBytes : Nat := 51539607552

/-- Key of byte `a` of a site in `Vellum.mem`. -/
def vellumKey (site a : Nat) : Nat := site * siteBytes + a

/-- Bank of an address (R79). -/
def scratchBank (tile a : Nat) : Nat := if isQDie (unitDie tile) then a / 64 % 8 else a / 64 % 16
def sliceBank (a : Nat) : Nat := a / 64 % 4

/-- Directions of R316 and R430: 0 N, 1 E, 2 S, 3 W. The neighbour of a die, if it has one (R1). -/
def neighbour (die dir : Nat) : Option Nat :=
  let col := die % 8
  let row := die / 8
  match dir with
  | 0 => if 0 < row then some (die - 8) else none
  | 1 => if col < 7 then some (die + 1) else none
  | 2 => if row < 4 then some (die + 8) else none
  | _ => if 0 < col then some (die - 1) else none

/-- The default route of R46: north or south until the row matches, then east or west. -/
def defaultRoute (die dest : Nat) : Nat :=
  if dest / 8 < die / 8 then 0
  else if die / 8 < dest / 8 then 2
  else if die % 8 < dest % 8 then 1
  else 3

/-- Edge links between two dies under the default routes (R47). -/
def hops (a b : Nat) : Nat :=
  (max (a % 8) (b % 8) - min (a % 8) (b % 8)) + (max (a / 8) (b / 8) - min (a / 8) (b / 8))

/-- The unloaded latency bound of R47, in 0.1 ns. -/
def latencyBound (h : Nat) : Nat := 60 + 27 * h

/-- Frequency of a bin index in MHz (R5). -/
def binMhz (b : Nat) : Nat :=
  match b with
  | 0 => 3000 | 1 => 2600 | 2 => 2200 | 3 => 1800 | 4 => 1400 | _ => 1000

/-- Neighbouring clusters of the same die that share an edge (R399). -/
def clusterNeighbours (u : Nat) : List Nat :=
  let c := unitCluster u
  let mk := fun n => mkUnit (unitDie u) n 0
  (if 8 ≤ c then [mk (c - 8)] else []) ++ (if c % 8 < 7 then [mk (c + 1)] else []) ++
    (if c < 40 then [mk (c + 8)] else []) ++ (if 0 < c % 8 then [mk (c - 1)] else [])

/-- The model's own keys of the two cold-plate pairs, which have no unit identifier (R397). -/
def coldInlet : Nat := 40 * 1024
def coldOutlet : Nat := coldInlet + 1

/-- A unit with a sensor pair and thresholds (R397, R402). -/
def isSensed (u : Nat) : Bool := isCluster u || isSite u || (isBlock u && decide (unitTile u = 0))

/-- The neighbours of a sensor's unit (R399); a cold-plate pair has none. -/
def sensorNeighbours (u : Nat) : List Nat :=
  if coldInlet ≤ u then []
  else if isSite u then
    ([0, 1, 2, 3].filterMap (neighbour (unitDie u))).map siteUnit
  else if unitDie u = sDie then
    ((List.range 24).map (fun b => mkUnit sDie b 0)).filter (· ≠ u)
  else clusterNeighbours u

/-! ## Regions of a site (R136) -/

/-- 64 B units of a granule, units of a site, and granules of a site (R128). -/
def granuleUnits : Nat := 32768
def siteUnits : Nat := 805306368
def siteGranules : Nat := 24576

/-- What one stretch of granules of a site holds; the slot of a master image. -/
structure Share where
  region : Region
  slot : Nat := 0
  granules : Nat
  deriving DecidableEq, Repr

/-- The shares of a site, in the row order of R136. The reserve holds cold copies and relocated chunks. -/
def siteShares (l : Layout) (d : Nat) : List Share :=
  if d = sDie then
    [{ region := .lettering, granules := l.letteringGib * 512 },
     { region := .history, granules := siteGranules - l.letteringGib * 512 - 4096 },
     { region := .system, granules := 4096 }]
  else if isBDie d then
    [{ region := .master, granules := l.slotA }, { region := .master, slot := 1, granules := l.slotB },
     { region := .system, granules := l.bdieSystem }]
  else
    [{ region := .kv, granules := l.kvPages / 32 }, { region := .adapter, granules := l.adapterGib * 16 },
     { region := .master, granules := l.slotA }, { region := .master, slot := 1, granules := l.slotB },
     { region := .system, granules := 2 }]

/-- Granules of the named shares, and of the reserve that is the remainder. -/
def sharesSum (l : List Share) : Nat := (l.map (·.granules)).sum
def reserveGranules (l : Layout) (d : Nat) : Nat := siteGranules - sharesSum (siteShares l d)

/-- The share in which a granule lies, and its place there. -/
def findShare : List Share → Nat → Share × Nat
  | [], g => ({ region := .cold, granules := 0 }, g)
  | x :: xs, g => if g < x.granules then (x, g) else findShare xs (g - x.granules)

/-- The share of a unit address, and the granule's place in it. -/
def shareAt (s : State) (d unit : Nat) : Share × Nat := findShare (siteShares s.vellum.layout d) (unit / granuleUnits)

/-- The code of a region in the row order of R132. -/
def regionRow (r : Region) : Nat :=
  match r with
  | .master => 0 | .adapter => 1 | .kv => 2 | .cold => 3 | .lettering => 4 | .history => 5 | .system => 6

/-- The place of a site in the order of R136, and of R138. -/
def computeIndex (d : Nat) : Nat := if d < 16 then d else d - 1
def qIndex (d : Nat) : Nat := if d < 16 then d else d - 8

/-- The chunk of a slot that a granule of its share holds (R197). -/
def chunkOf (d place : Nat) : Nat := place / 2 * 39 + computeIndex d

/-- The KV page that a granule of the KV area holds (R138). -/
def pageOf (d place : Nat) : Nat := place * 32 + qIndex d

/-- First granule and granules of a region's share on a site; the reserve comes last. -/
def spanFrom (r : Region) : List Share → Nat → Nat × Nat
  | [], g => (g, siteGranules - g)
  | x :: xs, g => if x.region = r then (g, x.granules) else spanFrom r xs (g + x.granules)

/-- The stretch of granules that a region takes on a site. -/
def regionSpan (s : State) (d : Nat) (r : Region) : Nat × Nat := spanFrom r (siteShares s.vellum.layout d) 0

/-- The channel of a unit: bits [5:2] of its address (R128). -/
def unitChannel (unit : Nat) : Nat := unit / 4 % 16

/-! ## Places in SRAM (R78, R79, R84) -/

/-- A byte address in a scratchpad or in a cluster's slices. -/
inductive Place where
  | scratch (tile addr : Nat)
  | slice (cluster addr : Nat)
  deriving DecidableEq, Repr

/-- The cluster whose memory it is. -/
def Place.cluster (p : Place) : Nat :=
  match p with
  | .scratch t _ => clusterOf t
  | .slice c _ => c

/-- The row's byte address: within the memory's address width (R79), aligned to 64 B (R73). An address beyond a B-cluster's
8 MiB of slices wraps (DESIGN CHOICE, log entry 40). -/
def Place.row (p : Place) : Nat :=
  match p with
  | .scratch t a => a % scratchBytes t / 64 * 64
  | .slice c a => a % sliceBytes c / 64 * 64

/-- The row `n` rows further on. -/
def Place.next (p : Place) (n : Nat) : Place :=
  match p with
  | .scratch t a => .scratch t (a + 64 * n)
  | .slice c a => .slice c (a + 64 * n)

/-- Key of the row's first byte in `Fabric.sram`. -/
def Place.key (p : Place) : Nat :=
  match p with
  | .scratch t _ => scratchKey t p.row
  | .slice c _ => sliceKey c p.row

/-- Key of the frame or region in `Fabric.regions`, in units of 8 KiB. -/
def Place.region (p : Place) : Nat :=
  match p with
  | .scratch t _ => scratchKey t (if isQDie (unitDie t) then p.row / 8192 * 8192 else p.row / 32768 * 32768) / 8192
  | .slice c _ => sliceKey c (p.row / 65536 * 65536) / 8192

end Sys2Proof.Machine
end

