-- ==== Sys2Proof/Machine/Ops.lean ====
section
/-! DEFINITION. The named operations that every command shares: access to the tables of the state, time,
reports, events and warnings, pins, stop records, and the completion of a command. -/

namespace Sys2Proof.Machine

/-- What a command answers. -/
abbrev Out := Host.Outcome State Fault Refusal

/-! ## Access to the tables -/

/-- A queue pair at its reset values (R280, R281): TS_VEC_BASE resets to 9 + q on a virtual function. -/
def queueReset (key : Nat) : Queue := { tsVecBase := if 8 ≤ key then 9 + key % 8 else 0 }

/-- The key of a queue pair. -/
def qkey (func qp : Nat) : Nat := func * 8 + qp

def getQueue (s : State) (func qp : Nat) : Queue :=
  tget (queueReset (qkey func qp)) s.mailbox.queues (qkey func qp)

def putQueue (s : State) (func qp : Nat) (q : Queue) : State :=
  { s with mailbox := { s.mailbox with
      queues := tput (queueReset (qkey func qp)) s.mailbox.queues (qkey func qp) q } }

def getFn (s : State) (f : Nat) : Fn := tget {} s.link.fns f
def putFn (s : State) (f : Nat) (v : Fn) : State :=
  { s with link := { s.link with fns := tput {} s.link.fns f v } }

def getPartition (s : State) (p : Nat) : Partition := tget {} s.serving.partitions p
def putPartition (s : State) (p : Nat) (v : Partition) : State :=
  { s with serving := { s.serving with partitions := tput {} s.serving.partitions p v } }

def getTenant (s : State) (t : Nat) : Tenant := tget {} s.serving.tenants t
def putTenant (s : State) (t : Nat) (v : Tenant) : State :=
  { s with serving := { s.serving with tenants := tput {} s.serving.tenants t v } }

def getSession (s : State) (i : Nat) : Session := tget {} s.serving.sessions i
def putSession (s : State) (i : Nat) (v : Session) : State :=
  { s with serving := { s.serving with sessions := tput {} s.serving.sessions i v } }

def getPfx (s : State) (i : Nat) : Pfx := tget {} s.serving.prefixes i
def putPfx (s : State) (i : Nat) (v : Pfx) : State :=
  { s with serving := { s.serving with prefixes := tput {} s.serving.prefixes i v } }

/-- The prefix is still being prefilled: PREFILLING, or released while turns wait for it (R241). -/
def Pfx.unwritten (p : Pfx) : Bool :=
  decide (p.state = .prefilling) || (decide (p.state = .releasing) && decide (p.prefilled < p.length))

def getPage (s : State) (p : Nat) : Page := tget {} s.vellum.pages p
def putPage (s : State) (p : Nat) (v : Page) : State :=
  { s with vellum := { s.vellum with pages := tput {} s.vellum.pages p v } }

def getSite (s : State) (d : Nat) : Site := tget {} s.vellum.sites d
def putSite (s : State) (d : Nat) (v : Site) : State :=
  { s with vellum := { s.vellum with sites := tput {} s.vellum.sites d v } }

def getIsland (s : State) (u : Nat) : Island := tget {} s.fabric.islands u
def putIsland (s : State) (u : Nat) (v : Island) : State :=
  { s with fabric := { s.fabric with islands := tput {} s.fabric.islands u v } }

def getTile (s : State) (u : Nat) : Tile := tget {} s.fabric.tiles u
def putTile (s : State) (u : Nat) (v : Tile) : State :=
  { s with fabric := { s.fabric with tiles := tput {} s.fabric.tiles u v } }

def getCart (s : State) (c : Nat) : Cartridge := tget {} s.board.cartridges c
def putCart (s : State) (c : Nat) (v : Cartridge) : State :=
  { s with board := { s.board with cartridges := tput {} s.board.cartridges c v } }

def getPair (s : State) (u : Nat) : Pair := tget {} s.thermal.pairs u
def putPair (s : State) (u : Nat) (v : Pair) : State :=
  { s with thermal := { s.thermal with pairs := tput {} s.thermal.pairs u v } }

def getSlot (s : State) (n : Nat) : Slot := if n = 0 then s.images.a else s.images.b
def putSlot (s : State) (n : Nat) (v : Slot) : State :=
  { s with images := if n = 0 then { s.images with a := v } else { s.images with b := v } }

/-- The slot that new admissions bind to, if any (R198). -/
def activeSlot (s : State) : Option Nat :=
  if s.images.a.state = .active ∨ s.images.a.state = .compat then some 0
  else if s.images.b.state = .active ∨ s.images.b.state = .compat then some 1
  else none

/-! ## Time and free values -/

/-- The host time of a command: stamps never decrease (R284). -/
def advance (s : State) (t : Nat) : State := { s with now := max s.now t }

/-- A stamp is a multiple of 4 ns (R285). -/
def stamp (s : State) : Nat := s.now / 4 * 4

/-- The free value that the next draw gives, and the state after the draw. -/
def freeNow (s : State) : BitVec 64 := Config.freeValue s.free
def drewFree (s : State) : State := { s with free := s.free + 1 }

/-- The `k`-th 256-bit value that the random generator gives next: four free values (R346, log entry 3). -/
def drawKey (s : State) (k : Nat) : BitVec 256 :=
  let n := s.free + 4 * k
  Config.freeValue n ++ Config.freeValue (n + 1) ++ Config.freeValue (n + 2) ++ Config.freeValue (n + 3)

/-- The state after `n` such draws. -/
def drewKeys (s : State) (n : Nat) : State := { s with free := s.free + 4 * n }

/-! ## Events (R315 to R318) -/

/-- The EVENT_CAUSE bit of an admin event (R280, R318). -/
def causeBit (code : Nat) : BitVec 5 :=
  match code with
  | 1 => 1#5 | 2 => 2#5 | 3 => 4#5 | 4 => 8#5 | 7 => 16#5 | _ => 0#5

/-- A vector to be signalled (R283, R311). -/
def wantVector (s : State) (func vec : Nat) : State :=
  let f := getFn s func
  if f.msixWanted.contains vec then s else putFn s func { f with msixWanted := f.msixWanted ++ [vec] }

/-- The queue pair that carries an event of a function: the admin pair, or queue pair 0. -/
def backlogLimit (func : Nat) : Nat := if func = 0 then 255 else 63

/-- A CQ has room for one more entry (R301). -/
def cqRoom (q : Queue) : Bool := decide ((q.cqIndex + 1) % 2 ^ q.cqLog2 ≠ q.cqHead)

/-- Slots of a queue pair's CQ owed to commands: those fetched and not completed, and completions held (R308). -/
def owedSlots (s : State) (func qp : Nat) : Nat :=
  (s.mailbox.fetched.filter (fun f => f.func == func && f.qp == qp && !f.muted)).length + (getQueue s func qp).heldCq.length

/-- The CQ of a queue pair takes an event: no completion is held ahead of it (R321), and every command keeps its slot (R308). -/
def eventRoom (s : State) (func qp : Nat) : Bool :=
  let q := getQueue s func qp
  q.active && q.enable && q.heldCq.isEmpty && cqRoom q && decide (owedSlots s func qp + q.cq.length + 2 ≤ 2 ^ q.cqLog2)

/-- One entry written at the module's index of a CQ, with the phase of its pass (R302, R306). -/
def pushCq (q : Queue) (e : CqEntry) : Queue :=
  let next := (q.cqIndex + 1) % 2 ^ q.cqLog2
  { q with cq := q.cq ++ [{ e with phase := q.cqPhase }], cqIndex := next,
           cqPhase := if next = 0 then !q.cqPhase else q.cqPhase }

/-- An event entry (R315). -/
def eventEntry (q : Queue) (time : Nat) (e : Event) : CqEntry :=
  { cid := 0xFFFF, sqHead := q.sqHead, status := 0, phase := q.cqPhase, event := true, time := time,
    result := e.code + 65536 * e.count + 4294967296 * e.detail }

/-- The backlog with one more event (R317): a full backlog raises the COUNT of a waiting entry of the same
code, and FATAL keeps its first index; otherwise the event is counted for the overflow entry. -/
def backlogAdd (s : State) (func : Nat) (e : Event) : State :=
  let b := tget [] s.mailbox.backlog func
  let put (l : List Event) (m : Mailbox) : Mailbox := { m with backlog := tput [] m.backlog func l }
  if b.length < backlogLimit func then
    { s with mailbox := put (b ++ [e]) s.mailbox }
  else if b.any (fun x => x.code == e.code && x.qp == e.qp) then
    { s with mailbox := put (modFirst (fun x => x.code == e.code && x.qp == e.qp)
        (fun x => { x with count := min 0xFFFF (x.count + e.count),
                           detail := if e.code = 4 then x.detail else e.detail }) b) s.mailbox }
  else
    { s with mailbox := { s.mailbox with
        overflow := tput 0 s.mailbox.overflow func (tget 0 s.mailbox.overflow func + e.count) } }

/-- The vector of an event: 1 on the physical function, 0 on a virtual function (R283, R315). -/
def eventVector (func : Nat) : Nat := if func = 0 then 1 else 0

/-- The EVENT_CAUSE bit of an event is set; its rise signals vector 1 (R283, R318). -/
def raiseCause (s : State) (code : Nat) : State :=
  let rises := causeBit code &&& ~~~ s.link.eventCause
  let s := { s with link := { s.link with eventCause := s.link.eventCause ||| causeBit code } }
  if rises = 0#5 then s else wantVector s 0 1

/-- An event posted on the admin queue (function 0) or a partition's queue pair 0. -/
def postEvent (s : State) (func code detail : Nat) : State :=
  let s := if func = 0 then raiseCause s code else s
  let q := getQueue s func 0
  let e : Event := { code := code, detail := detail }
  if eventRoom s func 0 && !((tget [] s.mailbox.backlog func).any (fun e => e.qp == 0)) then
    wantVector (putQueue s func 0 (pushCq q (eventEntry q (stamp s) e))) func (eventVector func)
  else backlogAdd s func e

/-! ## The blotter (R429 to R434) -/

/-- Reports that wait in the intake: one entry takes 250 ns. -/
def intakeHeld (b : Blotter) (now : Nat) : Nat := (b.busyUntil - now + 249) / 250

/-- Whether a report's time counts from MOD_EN, because PTM_LOCK is 0 (R432). -/
def entryTime (s : State) : Nat := if s.link.ptm.lock then stamp s else s.now - s.board.roseAt

/-- A new entry for a report. -/
def mkEntry (s : State) (r : Report) (active : Bool) : Entry :=
  { index := s.blotter.next, firstTime := entryTime s, lastTime := entryTime s, report := r,
    uptime := !s.link.ptm.lock, active := active }

/-- The classes that the sideband sends as events with the entry: WARNING, DEGRADE, GUARANTEE and FATAL (R448). -/
def sentWhole (cls : Nat) : Bool := cls == 2 || decide (4 ≤ cls)

/-- An entry handed to the sideband: as an event, or as a count of its code. -/
def tellMgmt (m : Mgmt) (e : Entry) : Mgmt :=
  if sentWhole e.report.cls then { m with toSend := m.toSend ++ [e] }
  else { m with counted := tput 0 m.counted e.report.code (tget 0 m.counted e.report.code + e.count) }

/-- Entries of the ring that a report takes: its own, and the stop record that follows it (R432). -/
def entrySize (e : Entry) : Nat := if e.stop.isSome then 2 else 1

/-- The general ring: the oldest make room until at most 8,128 entries are left. -/
def keepRing : List Entry → List Entry
  | [] => []
  | e :: l => if ((e :: l).map entrySize).sum ≤ 8128 then e :: l else keepRing l

/-- An entry written to the general ring, and handed to the sideband. -/
def writeEntry (s : State) (e : Entry) : State :=
  { s with blotter := { s.blotter with ring := keepRing (s.blotter.ring ++ [e]), next := s.blotter.next + 1 },
           mgmt := tellMgmt s.mgmt e }

/-- A fatal-class entry that reports a stop record (R413, R432): it goes to the general ring, ACTIVE 0, followed
by the record, which takes the next INDEX. -/
def writeStopEntry (s : State) (r : StopRecord) : State :=
  let bad := 0xFFFFFFFFFFFFFFFF
  let rep : Report := { code := 0x0405, cls := 6, address := if r.flip = 0 then r.seq else bad,
                        aux := if r.flip = 0 then r.type else bad }
  let e : Entry := { mkEntry s rep false with stop := some r }
  let s := { s with blotter := { s.blotter with ring := keepRing (s.blotter.ring ++ [e]), next := s.blotter.next + 2 },
                    mgmt := { s.mgmt with toSend := s.mgmt.toSend ++ [e] } }
  wantVector (postEvent s 0 4 e.index) 0 3

/-- A non-fatal report (R431, R433). -/
def reportPlain (s : State) (r : Report) : State :=
  let held := intakeHeld s.blotter s.now
  let lostOne := { s with blotter := { s.blotter with overflow := sat 32 (s.blotter.overflow + 1) } }
  if 1024 ≤ held then lostOne
  else if 768 ≤ held ∨ (s.blotter.coalescing ∧ 256 < held) then
    let s := { s with blotter := { s.blotter with coalescing := true } }
    let isKey (k : Entry) : Bool := k.report.source == r.source && k.report.cls == r.cls
    if s.blotter.keys.any isKey then
      let bump (k : Entry) : Entry := { k with count := min 0xFFFF (k.count + 1), lastTime := entryTime s }
      { s with blotter := { s.blotter with keys := modWhere isKey bump s.blotter.keys } }
    else if s.blotter.keys.length < 256 then
      { s with blotter := { s.blotter with keys := s.blotter.keys ++ [{ mkEntry s r false with coalesced := true }] } }
    else { s with blotter := { s.blotter with overflow := sat 32 (s.blotter.overflow + 1) } }
  else
    let s := { s with blotter := { s.blotter with busyUntil := max s.now s.blotter.busyUntil + 250 } }
    writeEntry s (mkEntry s r false)

/-- A fatal-class report has reached the blotter: EVENT_CAUSE.FATAL, and vector 3 (R280, R283). -/
def fatalReached (s : State) : State := wantVector (raiseCause s 4) 0 3

/-- A fatal report (R431, R433): straight to the reserve. A new entry has its event; one that merges sets the cause bit and signals
vector 3 all the same. -/
def reportFatal (s : State) (r : Report) (active : Bool) : State :=
  let same (k : Entry) : Bool := k.report.source == r.source && k.report.code == r.code
  let bump (k : Entry) : Entry :=
    { k with count := min 0xFFFF (k.count + 1), lastTime := entryTime s, active := k.active || active }
  if s.blotter.reserve.any same then
    fatalReached { s with blotter := { s.blotter with reserve := modWhere same bump s.blotter.reserve } }
  else if 64 ≤ s.blotter.reserve.length then
    fatalReached { s with blotter := { s.blotter with
        reserve := (s.blotter.reserve.take 63) ++ ((s.blotter.reserve.drop 63).map bump) } }
  else
    let r := if s.blotter.reserve.length = 63 then { r with source := 0xFFFF } else r
    let e := mkEntry s r active
    let s := { s with blotter := { s.blotter with reserve := s.blotter.reserve ++ [e], next := s.blotter.next + 1 },
                      mgmt := { s.mgmt with toSend := s.mgmt.toSend ++ [e] } }
    wantVector (postEvent s 0 4 e.index) 0 3

/-- Any report. A fatal report's condition persists (ACTIVE) unless `reportFatal` is called otherwise. -/
def report (s : State) (r : Report) : State :=
  if r.cls = 6 then reportFatal s r true else reportPlain s r

/-- A report with the fields most rows need. -/
def note (s : State) (code cls source address aux : Nat) : State :=
  report s { code := code, cls := cls, source := source, address := address, aux := aux }

/-! ## Governor warnings (R19, R316, R318) -/

/-- A warning becomes pending: the event, vector 2, and an SMBus alert. One that is pending already stays. -/
def warn (s : State) (cause unit : Nat) : State :=
  if s.blotter.warnings.any (fun w => w.cause == cause && w.unit == unit && !w.ended) then s
  else
    let ws := s.blotter.warnings.filter (fun w => !(w.cause == cause && w.unit == unit))
    let s := { s with blotter := { s.blotter with warnings := ws ++ [{ cause := cause, unit := unit }] },
                      board := { s.board with smbAlert := s.board.outputsHeld || s.board.smbAlert } }
    wantVector (postEvent s 0 3 (cause + 65536 * unit)) 0 2

/-- A warning's condition ends; it stays pending until it is acknowledged as well. -/
def endWarning (s : State) (cause unit : Nat) : State :=
  let ws := modWhere (fun w => w.cause == cause && w.unit == unit) (fun w => { w with ended := true })
    s.blotter.warnings
  { s with blotter := { s.blotter with warnings := ws.filter (fun w => !(w.acked && w.ended)) } }

/-- Every warning posted so far is acknowledged (R318). -/
def ackWarnings (s : State) : State :=
  let ws := s.blotter.warnings.map (fun w => { w with acked := true })
  { s with blotter := { s.blotter with warnings := ws.filter (fun w => !(w.acked && w.ended)) } }

/-! ## Pins (R19, R424): asserted means driven low for the names that end in N -/

def pinFaultN (s : State) : Bool :=
  s.board.outputsHeld && (s.board.faultHold || !s.blotter.reserve.isEmpty)

def pinAlertN (s : State) : Bool := s.board.outputsHeld && !s.blotter.warnings.isEmpty

/-- A person is needed: a cartridge is safe to remove or failed, a feed is lost, or the module is Unsealed. In the halt of R426 the
output stands high whatever the state (R424). -/
def pinAttnN (s : State) : Bool :=
  s.board.outputsHeld && decide (s.board.phase ≠ .halted) &&
    (s.board.cartridges.any (fun kv => kv.2.lamp == .amber || decide (8 ≤ kv.2.phasesLost)) ||
      s.board.feedA.lost || s.board.feedB.lost || s.trust.isUnsealed)

def pinModReady (s : State) : Bool := s.board.outputsHeld && s.board.modReady
def pinFeedAOk (s : State) : Bool := s.board.outputsHeld && s.board.feedA.inUse
def pinFeedBOk (s : State) : Bool := s.board.outputsHeld && s.board.feedB.inUse
def pinClkreqN (s : State) : Bool := s.board.outputsHeld && s.board.modEn

/-- The governor runs (R415, R417 step 5). -/
def governorRuns (s : State) : Bool :=
  match s.board.phase with
  | .booted | .tested | .serving | .resetting | .partialShutdown | .refused => true
  | _ => false

/-! ## Sensor readings (R398, R400), in 0.25 °C -/

/-- The reading of a pair whose two values stand: the mean within 4 °C, else the higher. -/
def meanReading (a b : Int) : Int :=
  if (a - b).natAbs ≤ 16 then (a + b) / 2 else max a b

/-- The protection reading without estimates. -/
def rawReading (p : Pair) : Int := meanReading p.a p.b

/-- A unit that is good as a neighbour: neither of its sensors is failed. -/
def goodPair (p : Pair) : Bool := !p.failedA && !p.failedB

/-- POWER_STATE of R280. -/
def powerCode (p : PowerState) : Nat :=
  match p with
  | .active => 0 | .trim => 1 | .hold => 2 | .retain => 3 | .shed => 4 | .vellumOnly => 5

/-- A cluster's place in a descent: ascending unit identifiers (R392). -/
def descentPlace (u : Nat) : Nat := computeSites.idxOf (unitDie u) * 48 + unitCluster u

/-- A compute cluster whose domain is off: parked, or in RETAIN or deeper, one by one in the descent to RETAIN (R387, R390, R392). A
partial shutdown keeps the sensors powered (R406). -/
def domainOff (s : State) (u : Nat) : Bool :=
  let i := getIsland s u
  isCluster u && i.enableSince.isNone && decide (s.board.phase ≠ .partialShutdown) &&
    (i.parked || decide (3 ≤ powerCode s.power.state) ||
      (decide (s.power.state = .hold) && s.power.descending && decide (descentPlace u < s.power.moved)))

/-- The unit's domain is powered, so that its sensors are read (R397). -/
def sensorsRead (s : State) (u : Nat) : Bool :=
  decide (coldInlet ≤ u) || (!(s.map.darkDies.contains (unitDie u)) && !(getIsland s u).dark && !(domainOff s u))

/-- The good neighbours of a unit. -/
def goodNeighbours (s : State) (u : Nat) : List Pair :=
  (((sensorNeighbours u).filter (sensorsRead s)).map (getPair s)).filter goodPair

/-- The estimate E, with the partner's value for a unit that has no good neighbour (R400). -/
def estimate (s : State) (u : Nat) (partner : Int) : Int :=
  match goodNeighbours s u with
  | [] => Config.noEstimate u partner
  | ns => (ns.map rawReading).foldl (· + ·) 0 / ns.length

/-- The value of a unit whose sensors have both failed: none, far below every threshold, without a good neighbour. -/
def bothFailed (s : State) (u : Nat) : Int :=
  match goodNeighbours s u with
  | [] => if isSensed u then -1000 else Config.noEstimate u 0
  | ns => (ns.map rawReading).foldl max (-1000) + 20

/-- The values of both sensors, with those of R400 in place of a failed one's. -/
def sensorA (s : State) (u : Nat) : Int :=
  let p := getPair s u
  if p.failedA then (if p.failedB then bothFailed s u else estimate s u p.b) else p.a

def sensorB (s : State) (u : Nat) : Int :=
  let p := getPair s u
  if p.failedB then (if p.failedA then bothFailed s u else estimate s u p.a) else p.b

/-- The protection reading of a unit. -/
def protReading (s : State) (u : Nat) : Int := meanReading (sensorA s u) (sensorB s u)

/-! ## Stop records (R36, R412, R453) -/

/-- The bits of ALSO: every other event of the sample. -/
def alsoBits (a : SameSample) : Nat :=
  bit a.flowLoss + 2 * bit a.thermal + 4 * bit a.cartridge.isSome + 8 * bit a.feedA + 16 * bit a.feedB +
    32 * bit a.modEnFell

/-- The unit with the highest protection reading, the lower identifier first (R453). -/
def hottest (s : State) : Option Nat :=
  s.thermal.pairs.foldl (fun best kv =>
    if isSensed kv.1 = false ∨ sensorsRead s kv.1 = false then best else
    match best with
    | none => some kv.1
    | some u => if protReading s u < protReading s kv.1 then some kv.1 else best) none

/-- The stop record of a type, for a unit where R453 names one. -/
def mkStop (s : State) (type also : Nat) (unit : Option Nat) (trip : Bool) : StopRecord :=
  let u := unit.getD 0xFFFF
  let p := getPair s u
  let on := unit.isSome
  { seq := s.nvm.stopSeq + 1, hostTime := if s.link.ptm.lock then stamp s else 0,
    uptimeMs := (s.now - s.board.roseAt) / 1000000, type := type, also := also, unit := u,
    temp := if on then protReading s u else 0,
    tempA := if on then sensorA s u else 0,
    tempB := if on then sensorB s u else 0,
    sensors := if on then bit p.flagged + 2 * bit p.failedA + 4 * bit p.failedB + 8 * bit trip else 0,
    inlet := s.thermal.inlet, outlet := s.thermal.outlet, flow := s.thermal.flow,
    flowStale := s.thermal.flowStale, power := s.power.mean1ms, allowance := s.power.allowance,
    coolingCap := s.thermal.coolingCap, feedAV := s.board.feedA.volts, feedBV := s.board.feedB.volts }

/-- The NVM holds the latest 1,024 records (R413). -/
def addStop (s : State) (r : StopRecord) : State :=
  { s with nvm := { s.nvm with stopRecords := keepLast 1024 (s.nvm.stopRecords ++ [r]), stopSeq := r.seq } }

/-- The record of an event of the housekeeping sample: types 3, 4 and 6 take the hottest unit while the
governor runs, and type 5 none. -/
def writeStop (s : State) (type also : Nat) : State :=
  addStop s (mkStop s type also (if governorRuns s ∧ type ≠ 5 then hottest s else none) false)

/-! ## Completions (R306 to R310, R327) -/

/-- An opcode of "Command Reference": its code, the queues that accept it, whether it needs MOD_READY
(R326), and whether it is a background command. -/
structure Opcode where
  code : Nat
  admin : Bool := true
  vf : Bool := false
  ready : Bool := true
  bg : Bool := false
  /-- it takes effect at a step boundary ahead, and until then its time-out withdraws it (R312, R328) -/
  boundary : Bool := false
  deriving DecidableEq, Repr

/-- Status values (R307, R343). -/
def stSuccess : Nat := 0x0000
def stInvalidOpcode : Nat := 0x0001
def stWrongQueue : Nat := 0x0002
def stReservedNonzero : Nat := 0x0003
def stCidInvalid : Nat := 0x0004
def stBadData : Nat := 0x0005
def stDataFault : Nat := 0x0006
def stTimedOut : Nat := 0x0007
def stNotReady : Nat := 0x0008
def stInvalidField : Nat := 0x0010
def stInvalidUnit : Nat := 0x0011
def stWrongState : Nat := 0x0012
def stBusy : Nat := 0x0013
def stTableFull : Nat := 0x0014

/-- A completion goes to the CQ of its queue pair and signals its vector (R306, R283). It is held while the CQ has no room, behind those
that are held already, and while a reset of the link keeps the pair from being active (R321, R323). A pair that is disabled gets none
(R314). -/
def deliverCq (s : State) (func qp : Nat) (e : CqEntry) : State :=
  let q := getQueue s func qp
  if q.active && !q.enable then s
  else if q.active && q.heldCq.isEmpty && cqRoom q then
    wantVector (putQueue s func qp (pushCq q e)) func (if func = 0 then 0 else 1 + qp)
  else if q.active || q.resume || (tget {} s.mailbox.bindings func).waiting then putQueue s func qp { q with heldCq := q.heldCq ++ [e] }
  else s

/-- The command is no longer unfinished. -/
def dropFetched (s : State) (func qp cid : Nat) : State :=
  { s with mailbox := { s.mailbox with
      fetched := s.mailbox.fetched.eraseP (fun f => f.func == func && f.qp == qp && f.cid == cid) } }

/-- The pair of the command has been disabled since it was fetched (R314). -/
def isMuted (o : Option Fetched) : Bool :=
  match o with
  | some f => f.muted
  | none => false

/-- The time-out of the command fell in the cycle of its completion. -/
def isLate (o : Option Fetched) : Bool :=
  match o with
  | some f => f.lateFlag
  | none => false

/-- A completion with its status, RESULT and data out. One that is reached in the cycle of its time-out counts,
with LATE_COMPLETION and a report (R312). -/
def completeAt (s : State) (func qp cid status result : Nat) (data : List Byte) : State :=
  let mine := fun (f : Fetched) => f.func == func && f.qp == qp && f.cid == cid
  let late := isLate (s.mailbox.fetched.find? mine)
  let muted := isMuted (s.mailbox.fetched.find? mine)
  let opcode := ((s.mailbox.fetched.find? mine).map (·.opcode)).getD 0
  let s := if late then note s 0x0503 0 0x4010 cid opcode else s
  let q := getQueue s func qp
  if muted then dropFetched s func qp cid
  else deliverCq (dropFetched s func qp cid) func qp
    { cid := cid, sqHead := q.sqHead, status := status, phase := q.cqPhase, late := late, time := stamp s,
      result := result, data := data }

def complete (s : State) (h : Hdr) (status result : Nat) (data : List Byte) : State :=
  completeAt s h.func h.qp h.cid status result data

/-- A status for a descriptor whose CID names no command of its own (R307): nothing becomes finished. -/
def answerCid (s : State) (func qp cid status : Nat) : State :=
  let q := getQueue s func qp
  deliverCq s func qp { cid := cid, sqHead := q.sqHead, status := status, phase := q.cqPhase, time := stamp s }

/-- Success with a RESULT and no data. -/
def done (s : State) (h : Hdr) (result : Nat) : State := complete s h stSuccess result []

/-- Refused with a status: no other effect (R327). -/
def refuse (s : State) (h : Hdr) (status : Nat) : State := complete s h status 0 []

/-- A data-out command writes the whole entries that fit in DATA_LEN (R325). -/
def fitEntries (entry len : Nat) (bytes : List Byte) : List Byte := bytes.take (len / entry * entry)

/-- The command takes effect, or waits for the step boundary at which it does, and completes later: it stays
unfinished, with the object it works on. One whose virtual-function pair has been disabled leaves its place in the SQ to the pair's next
use (R314): it is kept under `qp + 8`. -/
def startLater (s : State) (h : Hdr) (op : Opcode) (arg : Nat) : State :=
  let own := s.mailbox.fetched.find? (fun f => f.func == h.func && f.qp == h.qp && f.cid == h.cid)
  let muted := isMuted own
  let s := dropFetched s h.func h.qp h.cid
  { s with mailbox := { s.mailbox with fetched := s.mailbox.fetched ++
      [{ func := h.func, qp := if muted && h.func != 0 then h.qp + 8 else h.qp, cid := h.cid, opcode := op.code, fence := h.fence,
         started := true, background := op.bg, arg := arg, startedAt := s.now, waits := op.boundary, muted := muted,
         deadline := if op.boundary then (own.map (·.deadline)).getD 0 else 0 }] } }

/-- The unfinished command of an opcode that works on an object; one whose answer is ready is finished but for its completion. -/
def findStarted (s : State) (opcode arg : Nat) : Option Fetched :=
  s.mailbox.fetched.find? (fun f => f.started && f.answer.isNone && f.opcode == opcode && f.arg == arg)

/-- Idleness is counted anew (R391). -/
def notIdle (s : State) : State := { s with power := { s.power with idleSince := none } }

/-- An unfinished park or unpark of a session from a queue pair: what `answerFor` completes behind (R310). -/
def parksFrom (func qp session : Nat) (f : Fetched) : Bool :=
  f.started && f.answer.isNone && f.func == func && f.qp == qp && f.arg == session && (f.opcode == 0x0306 || f.opcode == 0x0307)

/-- The completion of a command that names a session: behind an unfinished park or unpark of that session from the same SQ it waits for
that one's (R310). -/
def answerWith (s : State) (h : Hdr) (op : Opcode) (session status result : Nat) (data : List Byte) : State :=
  if s.mailbox.fetched.any (parksFrom h.func h.qp session) then
    let s := startLater s h op session
    let mine := fun (f : Fetched) => f.started && f.func == h.func && f.qp == h.qp && f.cid == h.cid
    let l := modWhere mine (fun f => { f with answer := some (status, result, data) }) s.mailbox.fetched
    { s with mailbox := { s.mailbox with fetched := l } }
  else complete s h status result data

/-- The same for a command without data out. -/
def answerFor (s : State) (h : Hdr) (op : Opcode) (session status result : Nat) : State :=
  answerWith s h op session status result []

/-- The completions that waited for a park or unpark of a session, in SQ order (R310). -/
def releaseAnswers (s : State) (func qp session : Nat) : State :=
  (s.mailbox.fetched.filter (fun f => f.func == func && f.qp == qp && f.arg == session && f.answer.isSome)).foldl (fun s f =>
    match f.answer with
    | some a => completeAt s f.func f.qp f.cid a.1 a.2.1 a.2.2
    | none => s) s

/-- Its completion, if there is one; those that wait behind a park or unpark follow it. -/
def completeStarted (s : State) (opcode arg status result : Nat) : State :=
  match findStarted s opcode arg with
  | some f =>
    let s := notIdle (completeAt s f.func f.qp f.cid status result [])
    if opcode = 0x0306 ∨ opcode = 0x0307 then releaseAnswers s f.func f.qp arg else s
  | none => s

/-- The mailbox-layer statuses of R307 and NOT_READY of R326, in their order. -/
def mailboxStatus (s : State) (h : Hdr) (op : Opcode) : Option Nat :=
  if (h.func = 0 ∧ op.admin = false) ∨ (h.func ≠ 0 ∧ op.vf = false) then some stWrongQueue
  else if h.rsvd ≠ 0 then some stReservedNonzero
  else if h.cid = 0xFFFF ∨ s.mailbox.fetched.any (fun f => f.started && f.func == h.func && f.qp == h.qp && f.cid == h.cid && !f.muted) = true then
    some stCidInvalid
  else if h.dataBad then some stBadData
  else if h.dataFault then some stDataFault
  else if op.ready ∧ s.board.modReady = false then some stNotReady
  else none

/-- Whether the command may start (R309, R319): the commands of one SQ take effect in their order; a FENCE waits for
every earlier command of its SQ; a command with an earlier one that has not started waits; the admin queue runs one command at a time,
and at most 4 in the background. Nothing starts while the scribe does not run (R417, R420), nor from a virtual function that is not enabled, unless the
command was fetched while it was (R279). Earlier means ahead of it in `fetched`, or started; a virtual-function pair that has been
enabled anew has no earlier commands from before (R314). -/
def canStart (s : State) (h : Hdr) (op : Opcode) : Bool :=
  let own := s.mailbox.fetched.find? (fun f => f.func == h.func && f.qp == h.qp && f.cid == h.cid && !f.started)
  let mine (f : Fetched) : Bool := f.func == h.func && f.qp % 8 == h.qp && (h.func == 0 || f.muted == isMuted own)
  let ahead (f : Fetched) : Bool := !(f.cid == h.cid && !f.started)
  let fs := s.mailbox.fetched.filter mine
  let earlier := fs.takeWhile ahead ++ (fs.dropWhile ahead).filter (·.started)
  governorRuns s && (h.func == 0 || own.isSome || (s.link.vfEnable && decide (h.func ≤ s.link.numVfs))) &&
    !(h.fence && !earlier.isEmpty) && !(earlier.any (fun f => !f.started)) &&
    !(h.func == 0 && earlier.any (fun f => !f.background)) &&
    !(op.bg && decide (4 ≤ (s.mailbox.fetched.filter (fun f => f.background)).length))

/-- The common frame of a command: it waits, is refused, or runs its own effect. `invalid` is the range check
of its operands (INVALID_FIELD, R327). -/
def runCommand (s : State) (h : Hdr) (op : Opcode) (invalid : Bool) (body : State → State) : State :=
  let s := advance s h.time
  if canStart s h op then
    match mailboxStatus s h op with
    | some st => if st = stCidInvalid then answerCid s h.func h.qp h.cid st else refuse s h st
    | none => if invalid then refuse s h stInvalidField else body s
  else s

/-- The frame for a virtual-function command, which acts on its function's partition (R326, R333): the
partition must be configured, and a Sealed partition of an Unsealed module answers UNSEALED (R351). -/
def runVf (s : State) (h : Hdr) (op : Opcode) (invalid : Bool) (body : State → State) : State :=
  runCommand s h op invalid (fun s =>
    let p := getPartition s (h.func - 1)
    if p.configured = false then refuse s h 0x0201
    else if p.isSealed ∧ s.trust.isUnsealed then refuse s h 0x0701
    else body s)

/-- A session of the function's partition whose turn is ending: its END is not written yet, or a REQ_CANCEL or SESSION_CLOSE waits for
it. A later command that names the session waits (R310). -/
def turnEnds (s : State) (h : Hdr) (session : Nat) : Bool :=
  let v := getSession s session
  v.partition + 1 == h.func && ((findStarted s 0x0402 session).isSome || (findStarted s 0x0305 session).isSome ||
    (match v.turn with | some t => t.ending.isSome | none => false))

/-- The frame for a command that names a session: it starts behind the END of the session's turn, and completes in SQ order with the
other commands of the session (R310). -/
def runNamed (s : State) (h : Hdr) (op : Opcode) (session : Nat) (invalid : Bool) (body : State → State) : State :=
  let s := advance s h.time
  if canStart s h op && !turnEnds s h session then
    match mailboxStatus s h op with
    | some st => if st = stCidInvalid then answerCid s h.func h.qp h.cid st else answerFor s h op session st 0
    | none => if invalid then answerFor s h op session stInvalidField 0 else body s
  else s

/-- The same for a command that acts on its function's partition, as `runVf`. -/
def runSession (s : State) (h : Hdr) (op : Opcode) (session : Nat) (invalid : Bool) (body : State → State) : State :=
  runNamed s h op session invalid (fun s =>
    let p := getPartition s (h.func - 1)
    if p.configured = false then answerFor s h op session 0x0201 0
    else if p.isSealed ∧ s.trust.isUnsealed then answerFor s h op session 0x0701 0
    else body s)

/-! ## Key derivation -/

/-- HMAC-SHA-384 over 128-byte blocks. -/
def hmac384 (key m : List Byte) : List Byte :=
  let k := key ++ List.replicate (128 - key.length) 0#8
  let inner := leBytes 48 (Config.sha384 (k.map (· ^^^ 0x36#8) ++ m)).toNat
  leBytes 48 (Config.sha384 (k.map (· ^^^ 0x5C#8) ++ inner)).toNat

/-- ASCII bytes. -/
def ascii (x : String) : List Byte := x.toList.map (fun c => BitVec.ofNat 8 c.toNat)

/-- HKDF-Expand with SHA-384, of at most 48 bytes. -/
def hkdfExpand (prk : List Byte) (info : String) (n : Nat) : List Byte := (hmac384 prk (ascii info ++ [1#8])).take n

/-- HKDF-SHA-384, truncated to 32 bytes. -/
def hkdf32 (salt ikm : List Byte) (info : String) : BitVec 256 :=
  BitVec.ofNat 256 (leNat (hkdfExpand (hmac384 salt ikm) info 32))

end Sys2Proof.Machine
end

