-- ==== Sys2Proof/Machine/Records.lean ====
section
/-! DEFINITION. The bit layouts of the records the module writes or returns, from their highest bit down as
the manual's tables list them, and the little-endian bytes of each (R8). -/

namespace Sys2Proof.Machine

/-- A signed value as an unsigned field of `w` bits. -/
def signedField (w : Nat) (v : Int) : Nat := (v % (2 ^ w : Nat)).toNat

/-- All ones of `w` bits. -/
def ones (w : Nat) : Nat := 2 ^ w - 1

/-! ## Rings -/

/-- A completion or event entry (R306). -/
def cqBytes (e : CqEntry) : List Byte :=
  leBytes 32 (packFields [(128, e.result), (64, e.time), (8, 0), (5, 0), (1, bit e.late), (1, bit e.event),
    (1, bit e.phase), (16, e.status), (16, e.sqHead), (16, e.cid)])

/-- Units of a record (R269 to R272). -/
def recUnits (r : Rec) : Nat :=
  match r with
  | .token .. => 1
  | .text _ _ _ _ bytes _ => 1 + (bytes.length + 15) / 16
  | .fin .. => 1
  | .sealedRec _ _ _ _ length _ _ _ _ => 2 + (length + 16 + 15) / 16

/-- The session of a record. -/
def recSession (r : Rec) : Nat :=
  match r with
  | .token _ s .. => s
  | .text _ s .. => s
  | .fin _ s .. => s
  | .sealedRec _ s .. => s

/-- The head unit of a record (R269 to R272). -/
def recHead (r : Rec) (phase : Bool) : Nat :=
  match r with
  | .token time session seq token special late =>
    packFields [(64, time), (18, session), (4, 1), (1, bit late), (1, bit phase), (16, seq), (18, token),
      (1, bit special), (5, 0)]
  | .text time session seq tokens bytes late =>
    packFields [(64, time), (18, session), (4, 2), (1, bit late), (1, bit phase), (16, seq), (4, tokens),
      (12, bytes.length), (8, 0)]
  | .fin time session delivered reason outcome forfeit late =>
    packFields [(64, time), (18, session), (4, 3), (1, bit late), (1, bit phase), (17, delivered), (8, reason),
      (2, outcome), (3, forfeit), (10, 0)]
  | .sealedRec time session seq tokens length final _ late _ =>
    packFields [(64, time), (18, session), (4, 5), (1, bit late), (1, bit phase), (16, seq), (4, tokens),
      (12, length), (1, bit final), (7, 0)]

/-- A PAD head (R269). -/
def padHead (phase : Bool) : Nat := packFields [(64, 0), (18, 0), (4, 4), (1, 0), (1, bit phase), (40, 0)]

/-! ## The blotter and stop records -/

/-- A stop record (R412). Its CRC is the uninterpreted CRC-32 of bits 511 to 32. A damaged record is read as it stands
(R413). -/
def stopNat (r : StopRecord) : Nat :=
  let body := packFields [(32, r.seq), (64, r.hostTime), (32, r.uptimeMs), (8, r.type), (8, r.also), (16, r.unit),
    (16, signedField 16 r.temp), (16, signedField 16 r.tempA), (16, signedField 16 r.tempB), (8, r.sensors), (8, 0),
    (16, signedField 16 r.inlet), (16, signedField 16 r.outlet), (16, r.flow), (1, bit r.flowStale), (15, 0),
    (16, r.power), (16, r.allowance), (16, r.coolingCap), (16, r.feedAV), (16, r.feedBV), (112, 0)]
  (body * 2 ^ 32 + (Config.crc32 body).toNat) ^^^ (r.flip % 2 ^ 512)

/-- A blotter entry (R432). -/
def entryNat (e : Entry) : Nat :=
  let r := e.report
  packFields [(32, e.index), (64, e.firstTime), (64, e.lastTime), (16, e.count), (16, r.code), (16, r.source),
    (4, r.cls), (1, bit e.coalesced), (1, bit e.uptime), (1, bit e.active), (1, bit e.stop.isSome), (40, 0),
    (64, r.step.getD (ones 64)), (32, r.session.getD (ones 32)), (16, r.tenant), (8, r.partition.getD 0xFF), (8, 0),
    (64, r.address), (64, r.aux)]

/-- An entry's bytes, with the stop record that follows it (R432). -/
def entryBytes (e : Entry) : List Byte :=
  leBytes 64 (entryNat e) ++ (match e.stop with | some r => leBytes 64 (stopNat r) | none => [])

/-! ## Counters -/

/-- Network counters (R67). -/
def netBytes (u : Nat) (c : NetCounters) : List Byte :=
  leBytes 64 (packFields [(64, c.lateStall), (32, c.lateArrivals), (32, c.nearMisses), (32, c.watchdogFires),
    (32, c.droopStretches), (32, c.mergedReads), (32, c.mergeDeclined), (24, 0), (8, c.arbMaxWait),
    (32, c.arbSaturated), (64, c.flitsOut), (64, c.flitsIn), (16, c.linkRetries), (32, 0), (16, u)])

/-- Memory counters (R96). -/
def memBytes (u : Nat) (c : MemCounters) : List Byte :=
  leBytes 64 (packFields [(64, c.secded), (32, c.rowCorrections), (32, c.uncorrectable), (32, c.scrubCorrections),
    (32, c.sameRowYields), (32, c.forcedWins), (32, c.unwrittenReads), (64, c.zeroScaleSkips), (32, c.isolationFaults),
    (32, c.clearsDone), (32, c.dmaErrors), (32, c.forcedStalls), (48, 0), (16, u)])

/-- A health record (R115). -/
def healthBytes (id : Nat) (h : Health) : List Byte :=
  let c := h.counts
  leBytes 64 (packFields [(64, h.step), (32, c.elements), (32, c.saturated), (32, c.flushed), (32, c.nanIn),
    (32, c.infIn), (32, c.invalid), (32, c.clamped), (32, c.topkNan), (32, c.refRange), (32, h.events),
    (32, h.suppressed), (86, 0), (10, id)])

/-- A threshold entry (R116); the entry's own id stands in TENSOR. -/
def thresholdBytes (id : Nat) (t : Threshold) : List Byte :=
  leBytes 16 (packFields [(24, t.satPpm), (24, t.flushPpm), (32, t.nanMax), (32, t.invalidMax), (6, 0), (10, id)])

/-- Site counters (R146). RETIRED_GRANULES and FAILED_ARRAYS come from the NVM. -/
def siteBytesRec (s : State) (d : Nat) : List Byte :=
  let c := getSite s d
  leBytes 64 (packFields [(64, c.readUnits), (64, c.writeUnits), (32, c.arrayCorrections), (32, c.symbolCorrections),
    (32, c.uncorrectable), (16, (tget [] s.nvm.remaps d).length), (8, (tget [] s.nvm.failedArrays d).length), (8, 0),
    (32, c.scrubPasses), (32, c.scrubPosition), (32, c.specClamped), (32, c.prefetchHits), (32, c.prefetchDiscarded),
    (32, c.demandFetches), (32, c.refreshWaits), (16, 0), (16, siteUnit d)])

/-- Two bits of an expert's state in a routing record (R166). A cold expert whose hot pin has not been applied yet, or a hot one whose
cold pin has not, reads as unpinned (DESIGN CHOICE: the code of R166 has no value for it, log entry 43). -/
def expertState (e : Expert) : Nat :=
  match e.hot, e.pin with
  | true, 1 => 2
  | false, 2 => 3
  | true, _ => 0
  | false, _ => 1

/-- A routing record (R166), 560 bytes. -/
def routingBytes (r : LayerRes) : List Byte :=
  let slots := r.experts.take 128
  leBytes 560 (packFields [(32, r.window), (16, r.layer), (8, (r.experts.filter (·.hot)).length), (8, 0),
    (32, r.missesPredicted), (32, r.missesLate),
    (256, (slots.foldr (fun e n => expertState e + 4 * n) 0)),
    (4096, (slots.foldr (fun e n => sat 32 e.count + 4294967296 * n) 0))])

/-- Lettering counters (R275). -/
def letteringBytes (c : LetteringCounters) : List Byte :=
  leBytes 64 (packFields [(64, c.bytesIn), (64, c.bytesOut), (64, c.tokensIn), (64, c.tokensOut), (32, c.replacements),
    (32, c.heldBytes), (32, c.stopMatches), (32, c.ringWaits), (32, c.authFailures), (32, c.badTokens), (48, 0),
    (16, 0x4030)])

/-! ## Slots, tenants, sessions, prefixes, pages -/

/-- The code of a slot's state (R198). -/
def slotStateCode (st : SlotState) : Nat :=
  match st with
  | .empty => 0 | .loading => 1 | .ready => 2 | .active => 3 | .draining => 4 | .compat => 5

/-- Unfinished turns that carry a slot's epoch, and sessions bound to it (R199). -/
def turnsOn (s : State) (n : Nat) : Nat :=
  (s.serving.sessions.filter (fun kv => match kv.2.turn with
    | some t => t.slot == n && t.phase != .queued | none => false)).length

def sessionsOn (s : State) (n : Nat) : Nat :=
  (s.serving.sessions.filter (fun kv => kv.2.state != .free && kv.2.slot == n)).length

/-- Current export generation of a slot (R204). -/
def exportGen (s : State) (n : Nat) : Nat :=
  if s.images.exported.slot = some n then s.images.exported.generation else 0

/-- A slot record (R199): zero while EMPTY, but for SLOT and REFUSE_REASON. -/
def slotBytes (s : State) (n : Nat) : List Byte :=
  let v := getSlot s n
  let on := v.state ≠ .empty
  let h := v.head.getD { chunkCount := 0, treeNodes := 0, chunkBase := 0, publisher := 0, colPublisher := 0, sourceBytes := 0 }
  let z := fun (x : Nat) => if on then x else 0
  leBytes 64 (packFields [(32, z v.epoch), (32, z h.chunkCount), (32, z v.verified.length), (32, z v.retries),
    (32, z v.refetched), (32, z (turnsOn s n)), (32, z (sessionsOn s n)), (16, z v.permille), (8, v.refuse), (8, 0),
    (64, z h.modelId), (64, z h.buildId), (64, z (h.root.toNat % 2 ^ 64)), (32, z (exportGen s n)), (16, z h.flags),
    (4, slotStateCode v.state), (1, z (bit v.degraded)), (1, z (bit v.reference)), (1, z (bit v.streaming)), (8, 0),
    (1, n)])

/-- A reservoir record (R230); an id that is not registered reads zeros (R342). -/
def reservoirBytes (s : State) (id : Nat) : List Byte :=
  let t := getTenant s id
  if t.registered then
    let waiting := t.queue.length
    leBytes 32 (packFields [(64, signedField 64 t.level), (32, t.rate), (32, t.depth), (8, t.weight), (4, t.partition),
      (4, 0), (16, id), (32, waiting), (64, t.charged)])
  else leBytes 32 0

/-- The code of a session's state (R234). -/
def sessCode (st : SessState) : Nat :=
  match st with
  | .free => 0 | .idle => 1 | .turn => 2 | .parking => 3 | .parked => 4 | .unparking => 5 | .closing => 6

/-- A session record (R234). -/
def sessionBytes (id : Nat) (v : Session) : List Byte :=
  leBytes 64 (packFields [(64, v.lastUse), (32, v.epoch), (16, v.tenant), (16, v.adapterEpoch), (21, v.positions),
    (1, bit v.pending), (3, sessCode v.state), (4, v.partition), (1, bit v.isSealed), (1, bit v.pfx.isSome), (1, 0),
    (16, v.pfx.getD 0), (15, v.pages.length), (15, v.parked.length), (18, id), (32, v.turns), (32, v.forfeits),
    (32, v.guaranteeFaults), (32, v.lateTokens), (160, 0)])

/-- The code of a prefix entry's state (R240). -/
def pfxCode (st : PfxState) : Nat :=
  match st with
  | .free => 0 | .prefilling => 1 | .ready => 2 | .releasing => 3

/-- A prefix entry (R240). -/
def pfxBytes (v : Pfx) : List Byte :=
  leBytes 32 (packFields [(64, v.handle), (16, v.tenant), (21, v.length), (3, pfxCode v.state), (4, v.partition),
    (1, bit v.isSealed), (1, bit v.alwaysRead), (1, v.slot), (17, 0), (32, v.epoch), (32, v.readers), (64, v.lastUse)])

/-- The code of a page's state (R139). -/
def pageCode (st : PageState) : Nat :=
  match st with
  | .free => 0 | .clearing => 1 | .live => 2 | .pinned => 3 | .retired => 4 | .outbound => 5

/-- A page map entry (R139). -/
def pageBytes (v : Page) : List Byte :=
  leBytes 16 (packFields [(18, v.session), (16, v.tenant), (14, v.logical), (8, v.committed), (8, v.written),
    (3, pageCode v.state), (1, bit v.alwaysRead), (1, bit v.isSealed), (4, v.partition), (1, v.slot), (22, 0),
    (32, v.generation)])

/-! ## The good-unit map (R421, R422) -/

/-- Edge link identifier die × 4 + direction. -/
def linkKey (die dir : Nat) : Nat := die * 4 + dir

/-- The sublinks of a link that are usable (R422): zero with no neighbour, or with fewer than 4 good (R45). -/
def goodSublinks (s : State) (die dir : Nat) : BitVec 16 :=
  match neighbour die dir with
  | none => 0
  | some other =>
    let back := (dir + 2) % 4
    let bad := (tget ({} : Edge) s.fabric.edges (linkKey die dir)).bad |||
      (tget ({} : Edge) s.fabric.edges (linkKey other back)).bad
    let good := ~~~ bad
    if ((List.range 16).filter (fun i => good.getLsbD i)).length < 4 then 0 else good

/-- A compute cluster in use: its die is not dark, it is neither fenced nor dark, and fewer than two of its LDO segments
have failed (R441). -/
def clusterGood (s : State) (u : Nat) : Bool :=
  let i := getIsland s u
  !i.fenced && !i.dark && !(s.map.darkDies.contains (unitDie u)) && decide (tget 0 s.nvm.segments u < 2)

/-- Compute clusters in use, and sites in use (R421, R330). -/
def countGoodClusters (s : State) : Nat := (allClusters.filter (clusterGood s)).length
def countGoodSites (s : State) : Nat :=
  ((List.range 40).filter (fun d => !(getSite s d).lost && !(getSite s d).untrained)).length

/-- The good-unit map is updated (R423). -/
def mapChanged (s : State) : State :=
  { s with map := { s.map with changes := s.map.changes + 1, goodClusters := countGoodClusters s,
                               goodSites := countGoodSites s,
                               mapTime := if s.link.ptm.lock then stamp s else 0 } }

/-- State of a site (R422). -/
def siteStateCode (v : Site) : Nat := if v.lost then 1 else if v.untrained then 2 else 0

/-- STATUS of a die (R422). -/
def dieStatus (s : State) (d : Nat) : Nat :=
  if s.map.darkDies.contains d then 2
  else if d = sDie then 0
  else if (dieClusters d).all (fun u => !clusterGood s u) then 1 else 0

/-- Failed sensors of a die's units (R400). -/
def dieFailedSensors (s : State) (d : Nat) : Nat := (s.nvm.failedSensors.filter (fun k => unitDie (k / 2) == d)).length

/-- A die entry (R422). -/
def dieNat (s : State) (d : Nat) : Nat :=
  let isS := d = sDie
  let goodBits := if isS then
      (List.range 24).foldr (fun b n => bit (!(s.map.badBlocks.contains b)) + 2 * n) 0
    else (dieClusters d).foldr (fun u n => bit (clusterGood s u) + 2 * n) 0
  let segs := if isS then 0 else
    (dieClusters d).foldr (fun u n => (if (getIsland s u).dark then 3 else tget 0 s.nvm.segments u % 4) + 4 * n) 0
  let ceils := if isS then 0 else (dieClusters d).foldr (fun u n => tget 0 s.nvm.ceilings u % 8 + 8 * n) 0
  packFields [(48, goodBits), (96, segs), (144, ceils), (16, (goodSublinks s d 0).toNat),
    (16, (goodSublinks s d 1).toNat), (16, (goodSublinks s d 2).toNat), (16, (goodSublinks s d 3).toNat),
    (8, siteStateCode (getSite s d)), (8, (tget [] s.nvm.failedArrays d).length), (16, (tget [] s.nvm.remaps d).length),
    (8, (getCart s (d / 2)).phasesLost), (8, dieFailedSensors s d), (8, if isS then 2 else if isBDie d then 1 else 0),
    (8, dieStatus s d), (90, 0), (6, d)]

/-- The good-unit map (R421): a header and 40 die entries. -/
def mapBytes (s : State) : List Byte :=
  let m := s.map
  leBytes 64 (packFields [(32, 0x55474847), (16, 0x0100), (16, m.goodClusters), (8, m.goodSites), (8, bit m.refused),
    (8, m.cause), (8, 0), (32, m.ms), (32, m.usableLinks), (32, m.changes), (64, m.mapTime), (256, 0)]) ++
  (List.range 40).flatMap (fun d => leBytes 64 (dieNat s d))

/-! ## Identity, measurement, export -/

/-- The STRAPS byte (R330). -/
def strapsByte (s : State) : Nat := s.board.straps.toNat

/-- The identity page (R330), 256 bytes. -/
def identityPage (s : State) : List Byte :=
  [0x47#8, 0x4D#8, 0x2D#8, 0x34#8, 0x38#8, 0x30#8, 0x30#8] ++ List.replicate 9 0#8 ++
  leBytes 8 s.nvm.serial ++ leBytes 4 s.fw.running ++ leBytes 4 s.fw.primary ++ leBytes 4 s.fw.recovery ++
  leBytes 4 ((s.fw.staged.map (·.version)).getD 0) ++ leBytes 2 s.map.goodClusters ++ leBytes 2 s.map.goodSites ++
  leBytes 1 (strapsByte s) ++ leBytes 1 (bit s.trust.isUnsealed) ++ List.replicate 210 0#8

/-- A measurement log entry (R355). -/
def logBytes (e : LogEntry) : List Byte :=
  leBytes 4 e.index ++ leBytes 1 e.register ++ leBytes 1 e.kind ++ leBytes 2 0 ++ leBytes 4 e.version ++
  leBytes 4 e.svn ++ leBytes 48 e.digest.toNat

/-- File length of a slot in 4 MiB frames (R204): its prefix frames and its chunks. -/
def fileFrames (f : FolioHead) : Nat := f.chunkBase / 4194304 + f.chunkCount

/-- Banks of a file (R204). -/
def fileBanks (f : FolioHead) : Nat := (fileFrames f + 16382) / 16383

/-- The export descriptor (R204). -/
def exportBytes (s : State) : List Byte :=
  let e := s.images.exported
  match e.slot.bind (fun n => (getSlot s n).head) with
  | none => leBytes 64 (packFields [(32, 0x58454847), (32, 0), (32, 0), (16, 0), (8, 0), (8, 0), (384, 0)])
  | some h => leBytes 64 (packFields [(32, 0x58454847), (32, e.generation), (32, fileFrames h), (16, e.bank),
      (8, fileBanks h), (8, 0), (384, h.root.toNat)])

end Sys2Proof.Machine
end

