-- ==== Sys2Proof/Machine/Flags.lean ====
section
/-! DEFINITION. The registers and flags that the module computes from its state: the read-only fields of BAR0
(R280, R281), the usable rate of the link (R277) and the health thresholds (R116). -/

namespace Sys2Proof.Machine

/-- The highest RATE that LINK_SEL allows (R277): 64 GT/s while LINK_SEL is 1. -/
def topRate (s : State) : Nat := if s.board.straps.getLsbD 5 then 6 else 7

/-- Ten times the GT/s of a RATE code (R280). -/
def rateTenths (r : Nat) : Nat :=
  match r with
  | 1 => 25 | 2 => 50 | 3 => 80 | 4 => 160 | 5 => 320 | 6 => 640 | _ => 1280

/-- B of R246 and R277 in bytes per ns, exactly: 224 × w / 16 × r / 128. -/
def linkRate (s : State) : Frac :=
  { num := 224 * s.link.width * rateTenths s.link.rate, den := 16 * 1280 }

/-- STATUS (R280, offset 0x0010). -/
def statusReg (s : State) : Nat :=
  packFields [(24, 0), (3, powerCode s.power.state), (1, bit s.trust.isUnsealed),
    (1, bit s.images.exported.slot.isSome), (1, bit s.link.ptm.lock), (1, bit (pinFaultN s)), (1, bit (pinModReady s))]

/-- LINK (R280, offset 0x0014). -/
def linkReg (s : State) : Nat :=
  packFields [(20, 0), (4, s.link.rate), (5, s.link.width), (1, bit s.link.ideSecure), (1, bit (s.board.straps.getLsbD 5)),
    (1, bit (decide (s.link.width < 16) || decide (s.link.rate < topRate s)))]

/-- A queue pair's SIZES register (R280, R281). -/
def sizesReg (s : State) (func qp : Nat) : Nat :=
  let q := getQueue s func qp
  if func = 0 then packFields [(16, 0), (8, q.cqLog2), (8, q.sqLog2)]
  else packFields [(8, 0), (8, q.tsLog2), (8, q.cqLog2), (8, q.sqLog2)]

/-- A queue pair's control register (R280, R281). -/
def ctrlReg (s : State) (func qp : Nat) : Nat :=
  let q := getQueue s func qp
  if func = 0 then packFields [(30, 0), (1, bit q.active), (1, bit q.enable)]
  else packFields [(8, q.tsVecCount), (8, q.tsVecBase), (14, 0), (1, bit q.active), (1, bit q.enable)]

/-- A virtual function's status register (R281, offset 0x0004). -/
def vfStatusReg (s : State) (func : Nat) : Nat :=
  let p := getPartition s (func - 1)
  packFields [(27, 0), (1, bit (decide ((getFn s func).tdi = .run))), (1, bit s.link.ptm.lock), (1, bit p.isSealed),
    (1, bit p.timed), (1, bit p.configured)]

/-- MSI-X table (R280, R281): its first byte and its dwords; the default vector control is masked. -/
def msixBase (func : Nat) : Nat := if func = 0 then 0x8000 else 0x2000
def msixDwords (func : Nat) : Nat := if func = 0 then 512 else 480
def msixDefault (i : Nat) : Nat := if i % 4 = 3 then 1 else 0
def msixGet (f : Fn) (i : Nat) : Nat := tget (msixDefault i) f.msixTable i
def msixMasked (f : Fn) (vec : Nat) : Bool := decide (msixGet f (4 * vec + 3) % 2 = 1)

/-- A 4-byte word of the pending bit array. -/
def msixPba (f : Fn) (i : Nat) : Nat := ((f.msixPending.filter (fun v => v / 32 == i)).map (fun v => 2 ^ (v % 32))).sum

/-- The words of a function's MSI-X table and pending bit array; the offsets that are reserved read 0. -/
def readMsix (s : State) (func offset : Nat) : Nat :=
  let f := getFn s func
  let pba := if func = 0 then 0xC000 else 0x3000
  if msixBase func ≤ offset ∧ offset < msixBase func + 4 * msixDwords func then msixGet f ((offset - msixBase func) / 4)
  else if pba ≤ offset ∧ offset < pba + 16 then msixPba f ((offset - pba) / 4)
  else 0

/-- The configuration space's ids (R279): device, subsystem and class code. -/
def deviceId (func : Nat) : Nat := if func = 0 then 0x4800 else 0x4801
def subsystemId : Nat := 0x4800
def classCode : Nat := 0x120000

/-- The 4-byte word that a read of the physical function's BAR0 returns (R280): doorbells and reserved offsets
read 0. -/
def readPf (s : State) (offset : Nat) : Nat :=
  let q := getQueue s 0 0
  match offset with
  | 0x00 => packFields [(16, deviceId 0), (8, 1), (8, 1)]
  | 0x04 => s.fw.running
  | 0x10 => statusReg s
  | 0x14 => linkReg s
  | 0x18 => stamp s % 2 ^ 32
  | 0x1C => (getFn s 0).timeHigh
  | 0x20 => q.sqBase % 2 ^ 32
  | 0x24 => q.sqBase / 2 ^ 32
  | 0x28 => q.cqBase % 2 ^ 32
  | 0x2C => q.cqBase / 2 ^ 32
  | 0x30 => sizesReg s 0 0
  | 0x34 => ctrlReg s 0 0
  | 0x38 => (getFn s 0).tokenReg % 2 ^ 32
  | 0x3C => (getFn s 0).tokenReg / 2 ^ 32
  | 0x40 => bit s.link.exportEnable
  | 0x44 => s.link.eventCause.toNat
  | _ => readMsix s 0 offset

/-- The 4-byte word that a read of a virtual function's BAR0 returns (R281). -/
def readVf (s : State) (func offset : Nat) : Nat :=
  if 0x100 ≤ offset ∧ offset < 0x300 then
    let qp := (offset - 0x100) / 0x40
    let q := getQueue s func qp
    match (offset - 0x100) % 0x40 with
    | 0x00 => q.sqBase % 2 ^ 32
    | 0x04 => q.sqBase / 2 ^ 32
    | 0x08 => q.cqBase % 2 ^ 32
    | 0x0C => q.cqBase / 2 ^ 32
    | 0x10 => q.tsBase % 2 ^ 32
    | 0x14 => q.tsBase / 2 ^ 32
    | 0x18 => sizesReg s func qp
    | 0x1C => ctrlReg s func qp
    | _ => 0
  else match offset with
    | 0x00 => packFields [(16, deviceId func), (12, 0), (4, func - 1)]
    | 0x04 => vfStatusReg s func
    | 0x08 => stamp s % 2 ^ 32
    | 0x0C => (getFn s func).timeHigh
    | 0x10 => (getFn s func).tokenReg % 2 ^ 32
    | 0x14 => (getFn s func).tokenReg / 2 ^ 32
    | _ => readMsix s func offset

/-- The 4-byte word that a read of a function's BAR0 returns. -/
def readBar0 (s : State) (func offset : Nat) : Nat := if func = 0 then readPf s offset else readVf s func offset

/-- The offset of HOST_TIME (R280, R281). -/
def timeOffset (func : Nat) : Nat := if func = 0 then 0x18 else 0x08

/-- The counts of a step exceed a threshold entry (R116). -/
def exceededMask (t : Threshold) (c : Counts) : BitVec 8 :=
  BitVec.ofNat 8 (bit (decide (c.saturated * 1000000 > t.satPpm * c.elements)) +
    2 * bit (decide (c.flushed * 1000000 > t.flushPpm * c.elements)) + 4 * bit (decide (sat 32 (c.nanIn + c.infIn) > t.nanMax)) +
    8 * bit (decide (sat 32 (c.invalid + c.refRange + c.topkNan) > t.invalidMax)))

/-- Some threshold is exceeded. -/
def exceeds (t : Threshold) (c : Counts) : Bool := exceededMask t c != 0#8

end Sys2Proof.Machine
end

