-- ==== Sys2Proof/Machine/Lettering.lean ====
section
/-! DEFINITION. The lettering engine (chapter 9): tokenising, detokenising, UTF-8 hold-back and replacement,
and stop sequences. -/

namespace Sys2Proof.Machine

/-! ## Tokenising (R261, R262) -/

/-- The merge of a pair: its rank and its result, if there is one. -/
def mergeOf (ms : List (Nat × Nat × Nat × Nat)) (a b : Nat) : Option (Nat × Nat) :=
  (ms.find? (fun m => m.1 == a && m.2.1 == b)).map (fun m => (m.2.2.2, m.2.2.1))

/-- The lowest rank among adjacent pairs. -/
def lowestRank (ms : List (Nat × Nat × Nat × Nat)) : List Nat → Option Nat
  | a :: b :: t =>
    match mergeOf ms a b, lowestRank ms (b :: t) with
    | some (r, _), some r' => some (min r r')
    | some (r, _), none => some r
    | none, o => o
  | _ => none

/-- The leftmost pair of a rank, merged. -/
def mergeFirst (ms : List (Nat × Nat × Nat × Nat)) (rank : Nat) : List Nat → List Nat
  | a :: b :: t =>
    match mergeOf ms a b with
    | some (r, c) => if r = rank then c :: t else a :: mergeFirst ms rank (b :: t)
    | none => a :: mergeFirst ms rank (b :: t)
  | l => l

/-- A piece, finished when no adjacent pair has a merge; each merge shortens it, so its length is fuel enough. -/
def bpe (ms : List (Nat × Nat × Nat × Nat)) : Nat → List Nat → List Nat
  | 0, l => l
  | n + 1, l =>
    match lowestRank ms l with
    | some r => bpe ms n (mergeFirst ms r l)
    | none => l

/-- The pieces of a text segment, by the lengths that the split table marks; what they leave over is one more
piece. -/
def pieces : List Nat → List Byte → List (List Byte)
  | _, [] => []
  | [], bs => [bs]
  | n :: ns, bs => bs.take n :: pieces ns (bs.drop n)

/-- The tokens of a text segment on a slot's tables (R262). -/
def tokenise (root : Digest) (l : Lettering) (bs : List Byte) : List Nat :=
  (pieces (Config.split root bs) bs).flatMap (fun p => bpe l.merges p.length (p.map (·.toNat)))

/-- The tokens of segments, each on its own (R259). -/
def segTokens (root : Digest) (l : Lettering) (segs : List Segment) : List Nat :=
  segs.flatMap (fun g => match g with | .text bs => tokenise root l bs | .ids ids => ids)

/-- Text bytes of segments (R275 BYTES_IN), and what they yield. -/
def segTextBytes (segs : List Segment) : Nat :=
  (segs.map (fun g => match g with | .text bs => bs.length | .ids _ => 0)).sum

/-- Positions of a prompt's shape: a byte or an id is one position (R260). -/
def segShape (segs : List Segment) : Nat :=
  (segs.map (fun g => match g with | .text bs => bs.length | .ids ids => ids.length)).sum

/-- Bytes of segments in host memory (R259): a head, then the padded contents. -/
def segBytes (segs : List Segment) : Nat :=
  (segs.map (fun g => match g with
    | .text bs => 4 + (bs.length + 3) / 4 * 4
    | .ids ids => 4 + 4 * ids.length)).sum

/-- The shape of a prompt (R260, R273): a Sealed prompt's length in clear sets it. -/
def promptShape (p : Prompt) : Nat :=
  match p with
  | .plain segs => segShape segs
  | .sealedText _ _ len _ _ => len

/-- An id that the vocabulary does not hold (R259). -/
def badToken (l : Lettering) (ids : List Nat) : Bool := ids.any (fun i => decide (l.vocab.length ≤ i))

/-! ## UTF-8 (R264) -/

/-- A UTF-8 decoder between bytes: the bytes of the sequence begun, and the ranges its next bytes must lie in. -/
structure Utf8 where
  acc : List Byte := []
  need : List (Nat × Nat) := []
  deriving DecidableEq, Repr

/-- The bytes of U+FFFD. -/
def fffd : List Byte := [0xEF#8, 0xBF#8, 0xBD#8]

/-- The ranges that follow a lead byte; `none` for a byte that can lead nothing. -/
def leadNeeds (b : Nat) : Option (List (Nat × Nat)) :=
  if b < 0x80 then some []
  else if 0xC2 ≤ b ∧ b ≤ 0xDF then some [(0x80, 0xBF)]
  else if b = 0xE0 then some [(0xA0, 0xBF), (0x80, 0xBF)]
  else if b = 0xED then some [(0x80, 0x9F), (0x80, 0xBF)]
  else if 0xE1 ≤ b ∧ b ≤ 0xEF then some [(0x80, 0xBF), (0x80, 0xBF)]
  else if b = 0xF0 then some [(0x90, 0xBF), (0x80, 0xBF), (0x80, 0xBF)]
  else if 0xF1 ≤ b ∧ b ≤ 0xF3 then some [(0x80, 0xBF), (0x80, 0xBF), (0x80, 0xBF)]
  else if b = 0xF4 then some [(0x80, 0x8F), (0x80, 0xBF), (0x80, 0xBF)]
  else none

/-- A byte at the start of a character: the decoder after it, the bytes emitted, the replacements. -/
def utf8Lead (b : Byte) : Utf8 × List Byte × Nat :=
  match leadNeeds b.toNat with
  | some [] => ({}, [b], 0)
  | some need => ({ acc := [b], need := need }, [], 0)
  | none => ({}, fffd, 1)

/-- One byte: a maximal ill-formed subpart becomes U+FFFD, and the byte that broke it starts anew. -/
def utf8Byte (d : Utf8) (b : Byte) : Utf8 × List Byte × Nat :=
  match d.need with
  | [] => utf8Lead b
  | (lo, hi) :: rest =>
    if lo ≤ b.toNat ∧ b.toNat ≤ hi then
      match rest with
      | [] => ({}, d.acc ++ [b], 0)
      | _ => ({ acc := d.acc ++ [b], need := rest }, [], 0)
    else
      let r := utf8Lead b
      (r.1, fffd ++ r.2.1, r.2.2 + 1)

/-- Bytes from a decoder's state on. -/
def utf8Run (d : Utf8) : List Byte → Utf8 × List Byte × Nat
  | [] => (d, [], 0)
  | b :: bs =>
    let r := utf8Byte d b
    let r' := utf8Run r.1 bs
    (r'.1, r.2.1 ++ r'.2.1, r.2.2 + r'.2.2)

/-- The decoder that held bytes stand for. -/
def utf8Of (held : List Byte) : Utf8 := (utf8Run {} held).1

/-! ## Stop sequences (R266) -/

/-- `p` starts `l`. -/
def startsWith : List Byte → List Byte → Bool
  | [], _ => true
  | _ :: _, [] => false
  | a :: p, b :: l => a == b && startsWith p l

/-- A stop sequence ends just before place `e` of the text. -/
def stopEnds (l : List Byte) (e : Nat) (q : List Byte) : Bool :=
  !q.isEmpty && decide (q.length ≤ e) && startsWith q (l.drop (e - q.length))

/-- The rest of the text is a proper beginning of some stop sequence. -/
def stopBegins (seqs : List (List Byte)) (l : List Byte) : Bool :=
  !l.isEmpty && seqs.any (fun q => decide (l.length < q.length) && startsWith l q)

/-- Where the stop sequence starts that is the first to be complete (the longest of those that end there). -/
def stopMatch (seqs : List (List Byte)) (l : List Byte) : Option Nat :=
  (leastBelow (fun e => seqs.any (stopEnds l e)) l.length 1).map
    (fun e => (seqs.filter (stopEnds l e)).foldl (fun m q => min m (e - q.length)) e)

/-- A continuation byte. -/
def isCont (b : Byte) : Bool := decide (0x80 ≤ b.toNat) && decide (b.toNat < 0xC0)

/-- The start of the character that place `j` lies in: emitted text is always well-formed (R264). -/
def charStart (l : List Byte) : Nat → Nat
  | 0 => 0
  | j + 1 => if isCont (l.getD (j + 1) 0#8) then charStart l j else j + 1

/-- Text cut before the first complete stop sequence, or before what may be the beginning of one: what is
emitted, what stays held, and whether a sequence is complete. -/
def stopCut (seqs : List (List Byte)) (l : List Byte) : List Byte × List Byte × Bool :=
  match stopMatch seqs l with
  | some i => (l.take (charStart l i), [], true)
  | none =>
    let j := charStart l ((leastBelow (fun k => stopBegins seqs (l.drop k)) l.length 0).getD l.length)
    (l.take j, l.drop j, false)

/-! ## Detokenising (R264, R265) -/

/-- The text of a token: EOS and SPECIAL entries add no bytes. -/
def tokenBytes (l : Lettering) (v : Nat) : List Byte :=
  match l.vocab[v]? with
  | some e => if e.special || e.eos then [] else e.bytes
  | none => []

def isEos (l : Lettering) (v : Nat) : Bool := (l.vocab[v]?.map (·.eos)).getD false
def isSpecial (l : Lettering) (v : Nat) : Bool := (l.vocab[v]?.map (fun e => e.special || e.eos)).getD false

/-- What one more piece of raw output does: text emitted, bytes under the UTF-8 hold-back, text held for a stop
sequence, whether one is complete, and the replacements made. -/
structure Emitted where
  text : List Byte
  held : List Byte
  stopHeld : List Byte
  matched : Bool
  replacements : Nat
  deriving DecidableEq, Repr

/-- The detokeniser on one token's bytes. -/
def emitBytes (seqs : List (List Byte)) (held stopHeld raw : List Byte) : Emitted :=
  let r := utf8Run (utf8Of held) raw
  let c := stopCut seqs (stopHeld ++ r.2.1)
  if c.2.2 then { text := c.1, held := [], stopHeld := [], matched := true, replacements := r.2.2 }
  else { text := c.1, held := r.1.acc, stopHeld := c.2.1, matched := false, replacements := r.2.2 }

/-- What is emitted when the turn ends (R265). -/
def flushText (held stopHeld : List Byte) : List Byte := stopHeld ++ (if held.isEmpty then [] else fffd)

/-- The bytes of a token history on a slot's tables (R274). -/
def detokenise (l : Lettering) (ids : List Nat) : List Byte := ids.flatMap (tokenBytes l)

end Sys2Proof.Machine
end

