-- ==== Sys2Proof/Machine/Fp.lean ====
section
/-! DEFINITION. IEEE 754 binary32 as the vector unit, the lanes and the samplers compute it (R72, R120, R181): exact
integers, one rounding to nearest with ties to even, subnormals kept, and the quiet NaN 0x7FC0_0000 for every NaN. -/

namespace Sys2Proof.Machine

/-- The quiet NaN of R72. -/
def fpNan : Fp32 := 0x7FC00000#32

/-- Fields of a pattern. -/
def fpExp (x : Fp32) : Nat := x.toNat / 8388608 % 256
def fpFrac (x : Fp32) : Nat := x.toNat % 8388608
def fpNeg (x : Fp32) : Bool := decide (2147483648 ≤ x.toNat)
def fpIsNan (x : Fp32) : Bool := decide (fpExp x = 255) && decide (fpFrac x ≠ 0)
def fpIsInf (x : Fp32) : Bool := decide (fpExp x = 255) && decide (fpFrac x = 0)
def fpFinite (x : Fp32) : Bool := decide (fpExp x ≠ 255)

/-- The magnitude of a finite value, in units of 2^-149. -/
def fpMag (x : Fp32) : Nat := if fpExp x = 0 then fpFrac x else (8388608 + fpFrac x) * 2 ^ (fpExp x - 1)

/-- A finite value, in units of 2^-149. -/
def fpInt (x : Fp32) : Int := if fpNeg x then -(fpMag x : Int) else fpMag x

/-- A value that lies between two integers: rounded to the nearest, a tie to the even one. -/
def roundDiv (num den : Nat) : Nat :=
  let q := num / den
  let r := num % den
  if 2 * r < den then q else if den < 2 * r then q + 1 else q + q % 2

/-- An infinity or zero of a sign. -/
def fpInf (neg : Bool) : Fp32 := if neg then 0xFF800000#32 else 0x7F800000#32
def fpZero (neg : Bool) : Fp32 := if neg then 0x80000000#32 else 0#32

/-- The binary32 value nearest to ± num / den, overflowing to an infinity. The exponent is fixed from the whole
part of the value in units of 2^-149; a mantissa that rounds up to 2^24 carries into the exponent by itself. -/
def roundRat (neg : Bool) (num den : Nat) : Fp32 :=
  let units := num * 2 ^ 149
  let shift := Nat.log2 (units / den) - 23
  let m := roundDiv units (den * 2 ^ shift)
  let bits := shift * 8388608 + m
  if 0x7F800000 ≤ bits then fpInf neg else BitVec.ofNat 32 (bits + (if neg then 2147483648 else 0))

/-- An exact integer over a power of two, rounded. A zero is +0. -/
def roundInt (v : Int) (den : Nat) : Fp32 :=
  if v = 0 then fpZero false else roundRat (decide (v < 0)) v.natAbs den

/-- An exact value that may be infinite or NaN: what a sum or product is before its rounding. -/
inductive Exact where
  | nan
  | inf (neg : Bool)
  /-- v × 2^-298 -/
  | fin (v : Int)
  deriving DecidableEq, Repr

/-- The unit of an exact value. -/
def unit298 : Nat := 2 ^ 298

def exactOf (x : Fp32) : Exact :=
  if fpIsNan x then .nan else if fpIsInf x then .inf (fpNeg x) else .fin (fpInt x * 2 ^ 149)

/-- Exact sum. -/
def exactAdd (a b : Exact) : Exact :=
  match a, b with
  | .nan, _ => .nan
  | _, .nan => .nan
  | .inf s, .inf t => if s = t then .inf s else .nan
  | .inf s, .fin _ => .inf s
  | .fin _, .inf t => .inf t
  | .fin x, .fin y => .fin (x + y)

/-- One rounding of an exact value; a zero is +0. -/
def exactRound (a : Exact) : Fp32 :=
  match a with
  | .nan => fpNan
  | .inf s => fpInf s
  | .fin v => roundInt v unit298

/-- Addition: two zeros of one sign keep it. -/
def fpAdd (x y : Fp32) : Fp32 :=
  if x = fpZero true ∧ y = fpZero true then fpZero true else exactRound (exactAdd (exactOf x) (exactOf y))

def fpNegate (x : Fp32) : Fp32 := x ^^^ 0x80000000#32

def fpSub (x y : Fp32) : Fp32 := if fpIsNan y then fpNan else fpAdd x (fpNegate y)

/-- Multiplication. -/
def fpMul (x y : Fp32) : Fp32 :=
  let neg := fpNeg x != fpNeg y
  if fpIsNan x || fpIsNan y then fpNan
  else if fpIsInf x || fpIsInf y then
    if (fpFinite x && fpMag x == 0) || (fpFinite y && fpMag y == 0) then fpNan else fpInf neg
  else if fpMag x = 0 ∨ fpMag y = 0 then fpZero neg
  else roundRat neg (fpMag x * fpMag y) unit298

/-- Division. -/
def fpDiv (x y : Fp32) : Fp32 :=
  let neg := fpNeg x != fpNeg y
  if fpIsNan x || fpIsNan y then fpNan
  else if fpIsInf x then (if fpIsInf y then fpNan else fpInf neg)
  else if fpIsInf y then fpZero neg
  else if fpMag y = 0 then (if fpMag x = 0 then fpNan else fpInf neg)
  else if fpMag x = 0 then fpZero neg
  else roundRat neg (fpMag x) (fpMag y)

/-- Order of two values that are not NaN: an infinity lies beyond every finite value, and the zeros are equal. -/
def fpLt (x y : Fp32) : Bool :=
  if fpIsNan x || fpIsNan y then false
  else match fpIsInf x, fpIsInf y with
    | true, true => fpNeg x && !fpNeg y
    | true, false => fpNeg x
    | false, true => !fpNeg y
    | false, false => decide (fpInt x < fpInt y)

/-- The larger of two values of a reduction (R72). What MAX gives for a NaN, or for zeros of opposite sign, the
manual does not say: that value is free (log entry 6). -/
def fpMax (x y : Fp32) : Fp32 :=
  if fpIsNan x || fpIsNan y || (decide (x ≠ y) && fpFinite x && fpFinite y && decide (fpInt x = fpInt y)) then
    Config.maxCorner x y
  else if fpLt x y then y else x

/-- NaN results are the quiet NaN (R72). -/
def fpCanon (x : Fp32) : Fp32 := if fpIsNan x then fpNan else x

/-! ## EXP, LOG, RECIP, RSQRT and TANH (R72)

The exact result is a real number; it is worked out in fixed point, in units of 2^-256, with an error below 2^-90 of its size (log
entry 6). -/

/-- One, in units of 2^-256. -/
def fixOne : Nat := 2 ^ 256

/-- 1 - y + y²/2! - …, for y ≤ 1/8: e^-y, term by term. -/
def expSeries (y : Nat) : Nat → Nat → Int → Int → Int
  | 0, _, _, acc => acc
  | n + 1, i, term, acc =>
    let t := -(term * (y : Int)) / ((i : Int) * (fixOne : Int))
    expSeries y n (i + 1) t (acc + t)

/-- A fixed-point value squared again and again. -/
def squareFix : Nat → Nat → Nat
  | 0, v => v
  | n + 1, v => squareFix n (v * v / fixOne)

/-- e^-y for y in units of 2^-256, at most 256: the 2,048th part of y, and eleven squarings. -/
def expFix (y : Nat) : Nat := squareFix 11 (expSeries (y / 2048) 40 1 fixOne fixOne).toNat

/-- z + z³/3 + z⁵/5 + …, for |z| ≤ 1/3. -/
def atanhSeries (z : Int) : Nat → Nat → Int → Int → Int
  | 0, _, _, acc => acc
  | n + 1, i, power, acc =>
    let p := power * z / (fixOne : Int) * z / (fixOne : Int)
    atanhSeries z n (i + 2) p (acc + p / (i : Int))

/-- The natural logarithm of num / den for a value from 1/2 to 2, in units of 2^-256. -/
def logFix (num den : Nat) : Int :=
  let z := ((num : Int) - den) * (fixOne : Int) / (num + den : Nat)
  2 * atanhSeries z 100 3 z z

/-- The results that IEEE 754 gives at the infinities, at zero, and outside the domain (R72). -/
def xcendCorner (f : XcendFn) (x : Fp32) : Option Fp32 :=
  let n := fpNeg x
  let zero := fpFinite x && fpMag x == 0
  match f with
  | .exp => if fpIsInf x then some (if n then fpZero false else fpInf false) else none
  | .log => if zero then some (fpInf true) else if n then some fpNan else if fpIsInf x then some (fpInf false) else none
  | .recip => if fpIsInf x then some (fpZero n) else if zero then some (fpInf n) else none
  | .rsqrt => if zero then some (fpInf n) else if n then some fpNan else if fpIsInf x then some (fpZero false) else none
  | .tanh => if fpIsInf x then some (if n then 0xBF800000#32 else 0x3F800000#32) else none

/-- The exact result for any other input, as a numerator over a denominator; `none` when it lies beyond every finite value. -/
def xcendExact (f : XcendFn) (x : Fp32) : Option (Int × Nat) :=
  let m := fpMag x
  let y := m * 2 ^ 107
  match f with
  | .exp =>
    if 256 * fixOne < y then (if fpNeg x then some (0, 1) else none)
    else if fpNeg x then some (expFix y, fixOne) else some (fixOne, expFix y)
  | .log =>
    if fpNeg x ∨ m = 0 then none
    else
      let k := Nat.log2 m
      some (logFix m (2 ^ k) + ((k : Int) - 149) * logFix 2 1, fixOne)
  | .recip => if m = 0 then none else some ((if fpNeg x then -1 else 1) * 2 ^ 149, m)
  | .rsqrt => if fpNeg x ∨ m = 0 then none else some (Nat.sqrt (2 ^ 149 * 2 ^ 512 / m), fixOne)
  | .tanh =>
    let e := if 128 * fixOne < y then 0 else expFix (2 * y)
    some ((if fpNeg x then -1 else 1) * ((fixOne : Int) - e), fixOne + e)

/-- A value within 2 ulp of num / den; an ulp is the spacing of binary32 at the exact result, and an infinity stands at 2^128, where
the value after the largest finite one would. -/
def within2 (c : Fp32) (num : Int) (den : Nat) : Bool :=
  let units := num.natAbs * 2 ^ 149
  let shift := Nat.log2 (units / den) - 23
  let v : Int := if fpIsInf c then (if fpNeg c then -(2 ^ 277) else 2 ^ 277) else fpInt c
  !fpIsNan c && decide ((v * den - num * 2 ^ 149).natAbs ≤ 2 * 2 ^ shift * den)

/-- EXP, LOG, RECIP, RSQRT and TANH: a value that is free within 2 ulp of the exact result, and the same for the same input (R72, log
entry 6). A result beyond the finite values is the infinity that rounding to nearest gives. -/
def fpTrans (f : XcendFn) (x : Fp32) : Fp32 :=
  let c := Config.vxcend f x
  if fpIsNan x then fpNan
  else match xcendCorner f x with
    | some r => r
    | none => match xcendExact f x with
      | none => fpInf false
      | some (num, den) => if within2 c num den then c else roundInt num den

/-- Pairwise levels of the reduction tree: place 2i meets place 2i + 1 (R72). -/
def pairwise (f : Fp32 → Fp32 → Fp32) : List Fp32 → List Fp32
  | a :: b :: l => f a b :: pairwise f l
  | l => l

/-- The tree over the lanes, `n` levels deep. -/
def reduceTree (f : Fp32 → Fp32 → Fp32) : Nat → List Fp32 → Fp32
  | 0, l => l.headD 0#32
  | n + 1, l => reduceTree f n (pairwise f l)

/-- The four little-endian bytes of a value, and back. -/
def fpBytes (x : Fp32) : List Byte := leBytes 4 x.toNat
def fpOf (l : List Byte) : Fp32 := BitVec.ofNat 32 (leNat (l.take 4))

/-- Values in consecutive bytes. -/
def fpList : Nat → List Byte → List Fp32
  | 0, _ => []
  | n + 1, l => fpOf l :: fpList n (l.drop 4)

end Sys2Proof.Machine
end

