-- ==== Sys2Proof/Machine/Narrow.lean ====
section
/-! DEFINITION. The narrow formats (R98 to R106), the converters at the edge of the lane array (R108 to R113, R452) and
the exact block contribution (R118, R119, R126). -/

namespace Sys2Proof.Machine

/-! ## Elements and scales (R98 to R103) -/

/-- Magnitude of a code in units of 2^-16, the sign bit left out; `none` for an infinity or a NaN. -/
def e4m3Mag (c : Nat) : Option Nat :=
  if c = 127 then none else some ((if c / 8 = 0 then c % 8 else (8 + c % 8) * 2 ^ (c / 8 - 1)) * 128)

def e5m2Mag (c : Nat) : Option Nat :=
  if 124 ≤ c then none else some (if c / 4 = 0 then c % 4 else (4 + c % 4) * 2 ^ (c / 4 - 1))

def n4Mag (c : Nat) : Nat := [0, 1, 2, 3, 4, 6, 8, 12].getD c 0 * 32768
def n3Mag (c : Nat) : Nat := [0, 1, 2, 4].getD c 0 * 32768

/-- Bits of an element. -/
def fmtBits (f : Fmt) : Nat :=
  match f with
  | .n4 => 4 | .n3 => 3 | .t2 => 2 | .e4m3 => 8 | .e5m2 => 8 | .bf16 => 16

/-- FORMAT of R109. -/
def fmtOf (n : Nat) : Option Fmt :=
  match n with
  | 0 => some .n4 | 1 => some .n3 | 2 => some .t2 | 3 => some .e4m3 | 4 => some .e5m2 | 5 => some .bf16 | _ => none

/-- The magnitude code of a target that is largest, and the magnitude of a magnitude code, in units of 2^-16. -/
def topCode (f : Fmt) : Nat :=
  match f with
  | .n4 => 7 | .n3 => 3 | .t2 => 1 | .e4m3 => 126 | .e5m2 => 123 | .bf16 => 0

def codeMag (f : Fmt) (c : Nat) : Nat :=
  match f with
  | .n4 => n4Mag c | .n3 => n3Mag c | .t2 => c * 65536 | .e4m3 => (e4m3Mag c).getD 0 | .e5m2 => (e5m2Mag c).getD 0
  | .bf16 => 0

/-- A signed code from its magnitude code: zero is written as +0 (R111). -/
def signCode (f : Fmt) (neg : Bool) (c : Nat) : Nat :=
  if neg && c != 0 then
    match f with
    | .n4 => 8 + c | .n3 => 4 + c | .t2 => 3 | .e4m3 => 128 + c | .e5m2 => 128 + c | .bf16 => c
  else c

/-- What a lane reads from a code (R98 to R101): its value in units of 2^-16, or `none` for an invalid code. -/
def elemVal (f : Fmt) (c : Nat) : Option Int :=
  let sg := fun (neg : Bool) (m : Nat) => if neg then -(m : Int) else (m : Int)
  match f with
  | .n4 => some (sg (decide (8 ≤ c)) (n4Mag (c % 8)))
  | .n3 => some (sg (decide (4 ≤ c)) (n3Mag (c % 4)))
  | .t2 => match c with | 0 => some 0 | 1 => some 65536 | 3 => some (-65536) | _ => none
  | .e4m3 => (e4m3Mag (c % 128)).map (sg (decide (128 ≤ c)))
  | .e5m2 => (e5m2Mag (c % 128)).map (sg (decide (128 ≤ c)))
  | .bf16 => some 0

/-- A scale byte in units of 2^-9 (R103); `none` for an invalid one. -/
def scaleVal (b : Nat) : Option Nat :=
  if 127 ≤ b then none else some (if b / 8 = 0 then b % 8 else (8 + b % 8) * 2 ^ (b / 8 - 1))

/-! ## Blocks in memory (R104) -/

def blockBytes (f : Fmt) : Nat :=
  match f with
  | .n4 => 8 | .n3 => 6 | .t2 => 4 | .e4m3 => 16 | .e5m2 => 16 | .bf16 => 32

def blocksPerRow (f : Fmt) : Nat :=
  match f with
  | .n4 => 8 | .n3 => 10 | .t2 => 16 | .e4m3 => 4 | .e5m2 => 4 | .bf16 => 2

/-- Byte address of block `k` of an element plane. -/
def blockAddr (f : Fmt) (base k : Nat) : Nat := base + k / blocksPerRow f * 64 + k % blocksPerRow f * blockBytes f

/-- The block that an address of an element plane lies in. -/
def blockIndex (f : Fmt) (base a : Nat) : Nat :=
  (a - base) / 64 * blocksPerRow f + (a - base) % 64 / blockBytes f

/-- Element `j` of a block. -/
def elemCode (f : Fmt) (block : List Byte) (j : Nat) : Nat := leNat block / 2 ^ (fmtBits f * j) % 2 ^ fmtBits f

/-- Codes packed as a little-endian bit string. -/
def packCodes (w : Nat) : List Nat → Nat
  | [] => 0
  | c :: l => c % 2 ^ w + 2 ^ w * packCodes w l

/-- The bytes of a block. -/
def blockOf (f : Fmt) (codes : List Nat) : List Byte := leBytes (blockBytes f) (packCodes (fmtBits f) codes)

/-- One 64 B element row of blocks. -/
def rowOf (f : Fmt) (blocks : List (List Nat)) : List Byte :=
  let b := blocks.flatMap (blockOf f)
  b ++ List.replicate (64 - b.length) 0#8

/-! ## Counting (R114) -/

/-- The sum of two counts, each saturating. -/
def addCounts (a b : Counts) : Counts :=
  { elements := sat 32 (a.elements + b.elements), saturated := sat 32 (a.saturated + b.saturated),
    flushed := sat 32 (a.flushed + b.flushed), nanIn := sat 32 (a.nanIn + b.nanIn), infIn := sat 32 (a.infIn + b.infIn),
    invalid := sat 32 (a.invalid + b.invalid), clamped := sat 32 (a.clamped + b.clamped),
    topkNan := sat 32 (a.topkNan + b.topkNan), refRange := sat 32 (a.refRange + b.refRange) }

def sumCounts (l : List Counts) : Counts := l.foldl addCounts {}

/-! ## Narrowing (R110, R111) -/

/-- An input of a converter: its magnitude over a denominator that the block shares. -/
inductive Src where
  | nan
  | inf (neg : Bool)
  | fin (neg : Bool) (num : Nat)
  deriving DecidableEq, Repr

def srcOf (x : Fp32) : Src :=
  if fpIsNan x then .nan else if fpIsInf x then .inf (fpNeg x) else .fin (fpNeg x) (fpMag x)

def srcMag (x : Src) : Nat :=
  match x with
  | .fin _ n => n
  | _ => 0

/-- The scale byte of a block (R110), and whether it was clamped: the smallest E4M3 value not less than amax / M. -/
def chooseScale (f : Fmt) (den : Nat) (xs : List Src) : Nat × Bool :=
  let amax := (xs.map srcMag).foldl max 0
  if amax = 0 then (0, false)
  else
    match leastBelow (fun c => decide (amax * 33554432 ≤ (scaleVal c).getD 0 * codeMag f (topCode f) * den)) 126 1 with
    | some c => (c, false)
    | none => (126, true)

/-- The magnitude code nearest to a quotient: ties go to the even code. -/
def nearest (f : Fmt) (den scale num : Nat) : Nat :=
  let d := den * scale
  let n := num * 33554432
  match leastBelow (fun c => decide (n ≤ codeMag f c * d)) (topCode f + 1) 0 with
  | none => topCode f
  | some 0 => 0
  | some (c + 1) =>
    let up := codeMag f (c + 1) * d - n
    let down := n - codeMag f c * d
    if up < down then c + 1 else if down < up then c else if c % 2 = 0 then c else c + 1

/-- One element: its code and its counts. `scale` is in units of 2^-9; with scale 0 every code is +0. -/
def narrowElem (f : Fmt) (den scale : Nat) (x : Src) : Nat × Counts :=
  match x with
  | .nan => (0, { elements := 1, nanIn := 1 })
  | .inf neg => (if scale = 0 then 0 else signCode f neg (topCode f), { elements := 1, infIn := 1 })
  | .fin neg num =>
    if scale = 0 ∨ num = 0 then (0, { elements := 1 })
    else if codeMag f (topCode f) * (den * scale) < num * 33554432 then
      (signCode f neg (topCode f), { elements := 1, saturated := 1 })
    else
      let c := nearest f den scale num
      (signCode f neg c, { elements := 1, flushed := bit (c == 0) })

/-- A block: its scale byte, its codes, its counts. With FIXED_SCALE the scale is 1 whatever the elements are, so a block of zeros and an
infinity writes the infinity as the largest magnitude (DESIGN CHOICE: R111 does not say whether a block with amax 0 is all zeros under
FIXED_SCALE too, log entry 26). -/
def narrowBlock (f : Fmt) (fixed : Bool) (den : Nat) (xs : List Src) : Nat × List Nat × Counts :=
  let s := if fixed then (56, false) else chooseScale f den xs
  let es := xs.map (narrowElem f den ((scaleVal s.1).getD 0))
  (s.1, es.map (·.1), addCounts (sumCounts (es.map (·.2))) { clamped := bit s.2 })

/-- One BF16 element. -/
def narrowBf16 (x : Fp32) : Nat × Counts :=
  let sg := if fpNeg x then 32768 else 0
  if fpIsNan x then (0x7FC0, { elements := 1, nanIn := 1 })
  else if fpIsInf x then (sg + 0x7F80, { elements := 1, infIn := 1 })
  else
    let m := roundDiv (x.toNat % 2147483648) 65536
    if m = 0 then (0, { elements := 1, flushed := bit (fpMag x != 0) })
    else (sg + m, { elements := 1, saturated := bit (m == 0x7F80) })

/-- Sixteen at a time. -/
def chunks16 {α : Type} : Nat → List α → List (List α)
  | 0, _ => []
  | n + 1, l => l.take 16 :: chunks16 n (l.drop 16)

/-- A block of FP32 values in a target: scale byte, codes, counts. -/
def narrowFp (f : Fmt) (fixed : Bool) (xs : List Fp32) : Nat × List Nat × Counts :=
  if f = .bf16 then
    let es := xs.map narrowBf16
    (0, es.map (·.1), sumCounts (es.map (·.2)))
  else narrowBlock f fixed (2 ^ 149) (xs.map srcOf)

/-- NARROW on the values of one element row: the row, the scale bytes, the counts (R109). -/
def narrowRow (f : Fmt) (fixed : Bool) (xs : List Fp32) : List Byte × List Byte × Counts :=
  let bs := (chunks16 (blocksPerRow f) xs).map (narrowFp f fixed)
  (rowOf f (bs.map (·.2.1)), if f = .bf16 then [] else bs.map (fun b => BitVec.ofNat 8 b.1), sumCounts (bs.map (·.2.2)))

/-- WIDEN of one element: the element times its scale, exactly; an invalid code or scale gives 0 and is counted
(R108). -/
def widenElem (f : Fmt) (scale c : Nat) : Fp32 × Counts :=
  if f = .bf16 then (fpCanon (BitVec.ofNat 32 (c * 65536)), {})
  else
    let s := (scaleVal scale).getD 0
    match elemVal f c with
    | some v => (if s = 0 then 0#32 else roundInt (v * s) (2 ^ 25), {})
    | none => (0#32, { invalid := 1 })

/-- WIDEN of one element row: an invalid scale is counted once for its block. -/
def widenRow (f : Fmt) (row scales : List Byte) : List Fp32 × Counts :=
  let bs := (List.range (blocksPerRow f)).map (fun k =>
    let block := (row.drop (k * blockBytes f)).take (blockBytes f)
    let sb := (scales.getD k 0#8).toNat
    let es := (List.range 16).map (fun j => widenElem f sb (elemCode f block j))
    let bad : Counts := { invalid := bit (f != .bf16 && (scaleVal sb).isNone) }
    (es.map (·.1), addCounts bad (sumCounts (es.map (·.2)))))
  (bs.flatMap (·.1), sumCounts (bs.map (·.2)))

/-! ## Host tensors (R112, R113, R452) -/

/-- The pairs of source and target that the host port converts. -/
def mxTarget (s : SrcFmt) (f : Fmt) : Bool :=
  match s, f with
  | .fp32, _ => true
  | .mxfp4, .n4 => true
  | .mxfp6e2m3, .e4m3 => true
  | .mxfp6e3m2, .e4m3 => true
  | .mxfp8e4m3, .e4m3 => true
  | .mxfp8e5m2, .e5m2 => true
  | .mxint8, .e4m3 => true
  | _, _ => false

/-- Bits of a source element. -/
def srcBits (s : SrcFmt) : Nat :=
  match s with
  | .fp32 => 32 | .mxfp4 => 4 | .mxfp6e2m3 => 6 | .mxfp6e3m2 => 6 | .mxfp8e4m3 => 8 | .mxfp8e5m2 => 8 | .mxint8 => 8

/-- Bytes that `n` elements take: an MX block always takes its whole length. -/
def srcBytes (s : SrcFmt) (n : Nat) : Nat :=
  if s = .fp32 then 4 * n else (n + 31) / 32 * (1 + 4 * srcBits s)

/-- A source element without its block scale, in units of 2^-16. -/
def mxElem (s : SrcFmt) (c : Nat) : Src :=
  match s with
  | .fp32 => .fin false 0
  | .mxfp4 => .fin (decide (8 ≤ c)) (n4Mag (c % 8))
  | .mxfp6e2m3 =>
    let m := c % 32
    .fin (decide (32 ≤ c)) ((if m / 8 = 0 then m % 8 else (8 + m % 8) * 2 ^ (m / 8 - 1)) * 8192)
  | .mxfp6e3m2 =>
    let m := c % 32
    .fin (decide (32 ≤ c)) ((if m / 4 = 0 then m % 4 else (4 + m % 4) * 2 ^ (m / 4 - 1)) * 4096)
  | .mxfp8e4m3 =>
    match e4m3Mag (c % 128) with
    | some m => .fin (decide (128 ≤ c)) m
    | none => .nan
  | .mxfp8e5m2 =>
    match e5m2Mag (c % 128) with
    | some m => .fin (decide (128 ≤ c)) m
    | none => if c % 128 = 124 then .inf (decide (128 ≤ c)) else .nan
  | .mxint8 => .fin (decide (128 ≤ c)) ((if 128 ≤ c then 256 - c else c) * 1024)

/-- An element on the lossless path: copied where source and target code alike, otherwise the equal code; NaN and
infinity as under R111. A -0 of MXFP6 becomes the code of +0, as R110 writes a zero, and a -0 that is copied stays (DESIGN CHOICE: R113
does not say what -0 becomes, log entry 26). -/
def mxCopy (s : SrcFmt) (f : Fmt) (c : Nat) : Nat × Counts :=
  let r := narrowElem f 65536 512 (mxElem s c)
  match mxElem s c with
  | .fin _ _ =>
    (match s with
      | .mxfp4 => c
      | .mxfp8e4m3 => c
      | .mxfp8e5m2 => c
      | _ => r.1, { elements := 1 })
  | _ => r

/-- A half of an MX block with scale byte `e`: its target scale byte, its codes, its counts (R113). -/
def mxHalf (s : SrcFmt) (f : Fmt) (e : Nat) (codes : List Nat) : Nat × List Nat × Counts :=
  if e = 255 then (0, codes.map (fun _ => 0), { elements := codes.length, nanIn := codes.length })
  else if 118 ≤ e ∧ e ≤ 135 ∧ s ≠ .mxint8 then
    let es := codes.map (mxCopy s f)
    ((leastBelow (fun c => decide (scaleVal c = some (2 ^ (e - 118)))) 126 0).getD 0, es.map (·.1),
      sumCounts (es.map (·.2)))
  else
    let lift := fun (x : Src) => match x with
      | .fin neg n => .fin neg (n * 2 ^ e)
      | y => y
    narrowBlock f false (2 ^ 143) (codes.map (fun c => lift (mxElem s c)))

/-- The target blocks of an MX tensor of `n` elements: no block is made of filler alone. -/
def mxBlocks (s : SrcFmt) (f : Fmt) : Nat → Nat → List Byte → List (Nat × List Nat × Counts)
  | 0, _, _ => []
  | fuel + 1, n, l =>
    if n = 0 then []
    else
      let e := (l.headD 0#8).toNat
      let bits := leNat ((l.drop 1).take (4 * srcBits s))
      let code := fun (j : Nat) => bits / 2 ^ (srcBits s * j) % 2 ^ srcBits s
      let lo := (List.range (min n 16)).map code
      let hi := (List.range (min (n - 16) 16)).map (fun j => code (16 + j))
      let rest := mxBlocks s f fuel (n - 32) (l.drop (1 + 4 * srcBits s))
      if hi.isEmpty then mxHalf s f e lo :: rest else mxHalf s f e lo :: mxHalf s f e hi :: rest

/-- The target blocks of an FP32 tensor of `n` elements. -/
def fpBlocks (f : Fmt) : Nat → Nat → List Byte → List (Nat × List Nat × Counts)
  | 0, _, _ => []
  | fuel + 1, n, l =>
    if n = 0 then []
    else narrowFp f false (fpList (min n 16) l) :: fpBlocks f fuel (n - 16) (l.drop 64)

/-- A host tensor in its target: the bytes of its element plane, its scale plane, and the counts. -/
def convertTensor (t : TensorIn) : List Byte × List Byte × Counts :=
  let bs := if t.src = .fp32 then fpBlocks t.target (t.count + 1) t.count t.bytes
    else mxBlocks t.src t.target (t.count + 1) t.count t.bytes
  let per := blocksPerRow t.target
  let rows := (List.range ((bs.length + per - 1) / per)).flatMap (fun r =>
    rowOf t.target (((bs.drop (r * per)).take per).map (fun b => b.2.1)))
  (rows, if t.target = .bf16 then [] else bs.map (fun b => BitVec.ofNat 8 b.1), sumCounts (bs.map (·.2.2)))

/-- Filler beyond the element count of an MX source is zero (R452). -/
def fillerZero (t : TensorIn) : Bool :=
  t.src == .fp32 || t.count % 32 == 0 ||
    (let last := t.bytes.drop (t.count / 32 * (1 + 4 * srcBits t.src))
     decide (leNat ((last.drop 1).take (4 * srcBits t.src)) / 2 ^ (srcBits t.src * (t.count % 32)) = 0))

/-! ## Exact block sums (R105, R106, R118, R119) -/

/-- Activation blocks that a weight block meets. -/
def spanOf (sp : Sparsity) : Nat :=
  match sp with
  | .dense => 1 | .twoOfFour => 2 | .oneOfFour => 4

/-- A group of a 2:4 block whose positions are not in order. -/
def badGroup (metaWord g : Nat) : Bool :=
  let nib := metaWord / 16 ^ g % 16
  decide (nib / 4 ≤ nib % 4)

def badGroups (sp : Sparsity) (metaWord : Nat) : Nat :=
  if sp = .twoOfFour then ((List.range 8).filter (badGroup metaWord)).length else 0

/-- The stored element that lies at a position of a weight block's span. -/
def storedAt (sp : Sparsity) (metaWord pos : Nat) : Option Nat :=
  let g := pos / 4
  match sp with
  | .dense => some pos
  | .twoOfFour =>
    let nib := metaWord / 16 ^ g % 16
    if badGroup metaWord g then none
    else if pos % 4 = nib % 4 then some (2 * g)
    else if pos % 4 = nib / 4 then some (2 * g + 1)
    else none
  | .oneOfFour => if metaWord / 4 ^ g % 4 = pos % 4 then some g else none

/-- One position of a narrow block: the product in units of 2^-32, and the invalid codes read. -/
def product (wf : Fmt) (wb : List Byte) (w : Option Nat) (af : Fmt) (ab : List Byte) (j : Nat) : Int × Nat :=
  let a := elemVal af (elemCode af ab j)
  match w with
  | none => (0, bit a.isNone)
  | some k =>
    let v := elemVal wf (elemCode wf wb k)
    (v.getD 0 * a.getD 0, bit a.isNone + bit v.isNone)

/-- b_i of a narrow pairing: exact, with the invalid codes read. A zero or invalid scale contributes 0, and its
block's codes are not counted. -/
def contribution (wf : Fmt) (sp : Sparsity) (wb : List Byte) (metaWord ws : Nat) (af : Fmt) (ab : List Byte) (as i : Nat) :
    Exact × Nat :=
  if wf = .bf16 then
    let ps := (List.range 16).map (fun j =>
      let w := BitVec.ofNat 32 (elemCode .bf16 wb j * 65536)
      let a := BitVec.ofNat 32 (elemCode .bf16 ab j * 65536)
      if fpFinite w && fpFinite a then Exact.fin (fpInt w * fpInt a) else exactOf (fpMul w a))
    (ps.foldl exactAdd (.fin 0), 0)
  else
    let s := (scaleVal ws).getD 0 * (scaleVal as).getD 0
    if s = 0 then (.fin 0, 0)
    else
      let ps := (List.range 16).map (fun j => product wf wb (storedAt sp metaWord (16 * i + j)) af ab j)
      (.fin ((ps.map (·.1)).sum * s * 2 ^ 248), (ps.map (·.2)).sum)

/-! ## Reference mode (R123 to R126) -/

/-- q of a pairing is 2 to minus this (R124). -/
def quantumOf (wf af : Fmt) : Nat :=
  if wf = .e4m3 then 36 else if af = .e4m3 then 28 else 20

/-- A contribution out of range: |b_i| at least 2^47 × q. -/
def refOut (quantum : Nat) (b : Int) : Bool := decide (2 ^ (345 - quantum) ≤ b.natAbs)

/-- A contribution as the integer b_i × 2^36. -/
def refInt (b : Int) : Int := b / 2 ^ 262

/-- The result of a reference-mode reduction (R126). -/
def refResult (a : BitVec 96) (poisoned : Bool) (t : Fp32) : Fp32 :=
  let v := a.toInt
  if poisoned || fpIsNan t then fpNan
  else if fpIsInf t then (if v = 0 then fpNan else fpInf (decide (v < 0) != fpNeg t))
  else roundInt (v * fpInt t) (2 ^ 185)

/-- A score with its index (R59). -/
abbrev Ranked := Fp32 × Nat

/-- `a` ranks before `b`: the higher score, the lower index between equal scores, a NaN below every number. -/
def ranksBefore (a b : Ranked) : Bool :=
  match fpIsNan a.1, fpIsNan b.1 with
  | true, true => decide (a.2 < b.2)
  | true, false => false
  | false, true => true
  | false, false => fpLt b.1 a.1 || (!(fpLt a.1 b.1) && decide (a.2 < b.2))

/-- Insertion in rank order. -/
def rankIn (x : Ranked) : List Ranked → List Ranked
  | [] => [x]
  | y :: l => if ranksBefore x y then x :: y :: l else y :: rankIn x l

/-- The k highest of some lists. -/
def rankMerge (k : Nat) (ls : List (List Ranked)) : List Ranked := ((ls.flatten).foldr rankIn []).take k

end Sys2Proof.Machine
end

