-- ==== Sys2Proof/Machine/Turns.lean ====
section
/-! DEFINITION. The shared operations on pages, sessions, prefixes and turns: page allocation and freeing (R138,
R141), reservoirs (R231), forfeits and outcomes (R254, R255), the delivery of records (R251, R268) and the end
of a turn (R256, R265, R271). -/

namespace Sys2Proof.Machine

/-! ## Sessions -/

def modSession (s : State) (id : Nat) (f : Session → Session) : State := putSession s id (f (getSession s id))

def modTurn (s : State) (id : Nat) (f : Turn → Turn) : State :=
  modSession s id (fun v => { v with turn := v.turn.map f })

/-- Every session updated. -/
def mapSessions (s : State) (f : Nat → Session → Session) : State :=
  { s with serving := { s.serving with sessions := tmap {} f s.serving.sessions } }

/-- Ids of the sessions that pass a test, ascending. -/
def sessionIds (s : State) (p : Session → Bool) : List Nat :=
  (s.serving.sessions.filter (fun kv => p kv.2)).map (·.1)

/-- A session is open: neither FREE nor CLOSING. -/
def isOpen (v : Session) : Bool := decide (v.state ≠ .free) && decide (v.state ≠ .closing)

/-- A command may name the session: it is open and in the partition. -/
def openIn (s : State) (id partition : Nat) : Bool :=
  let v := getSession s id
  isOpen v && v.partition == partition

/-- Some step in flight carries a row of the session. -/
def inStep (s : State) (id : Nat) : Bool :=
  s.serving.steps.any (fun st => st.rows.any (fun r => decide (r.ref = .session id)))

/-- An unfinished turn that admission has accepted (R242): not one that waits in a queue. -/
def admitted (t : Turn) : Bool := decide (t.phase ≠ .queued)

/-- An admitted turn has reserved the session (R237, R256). -/
def engaged (v : Session) : Bool := match v.turn with | some t => admitted t | none => false

/-- Some Timed turn is unfinished (R243). -/
def timedUnfinished (s : State) : Bool :=
  s.serving.sessions.any (fun kv => match kv.2.turn with | some t => t.timed | none => false)

/-! ## Reservoirs (R231) and discarded rows -/

/-- The refill since the last update, rounded down, capped at DEPTH × 256. -/
def refill (now : Nat) (t : Tenant) : Tenant :=
  { t with level := min (t.depth * 256 : Nat) (t.level + (t.rate * 256 * (now - t.levelAt) / 1000000000 : Nat)),
           levelAt := now }

/-- A charge in 1/256 of a token. -/
def charge (s : State) (tenant units : Nat) : State :=
  let t := refill s.now (getTenant s tenant)
  putTenant s tenant { t with level := t.level - units, charged := t.charged + units }

/-- What a row's start was charged is taken back (R231, log entry 43). -/
def uncharge (s : State) (tenant units : Nat) : State :=
  let t := refill s.now (getTenant s tenant)
  if units = 0 then s
  else putTenant s tenant { t with level := min (t.depth * 256 : Nat) (t.level + units), charged := t.charged - units }

/-- The row of a step is one that a discard of `ref` takes. -/
def takenBy (ref : RowRef) (r : StepRow) : Bool := decide (r.ref = ref) && !r.discarded

/-- The rows of a session, or of a prefix, in steps in flight are discarded (R157): they are not charged (R231). -/
def discardRows (s : State) (ref : RowRef) : State :=
  let f := fun (st : Step) => { st with
    rows := modWhere (takenBy ref) (fun r => { r with discarded := true, charged := 0 }) st.rows }
  let gone := s.serving.steps.flatMap (fun st => st.rows.filter (takenBy ref))
  gone.foldl (fun s r => uncharge s r.tenant r.charged) { s with serving := { s.serving with steps := s.serving.steps.map f } }

/-! ## Pages (R138, R139, R141) -/

/-- The site of a page serves the pool. -/
def pageUsable (s : State) (p : Nat) : Bool :=
  let v := getSite s (pageSite p)
  !v.lost && !v.untrained && !v.emptied

/-- Pages of the pool on one of the 32 Q-die sites. -/
def pagesPerSite (s : State) : Nat := s.vellum.layout.kvPages / 32

/-- Free pages of the pool. -/
def freePages (s : State) : Nat :=
  let sites := (List.range 32).filter (fun i => pageUsable s i)
  let used := (s.vellum.pages.filter (fun kv => decide (kv.2.state ≠ .free) && pageUsable s kv.1 &&
    decide (kv.1 < s.vellum.layout.kvPages))).length
  sites.length * pagesPerSite s - used

/-- The lowest free page on the site of pool index `i`. -/
def lowestFree (s : State) (i : Nat) : Option Nat :=
  if pageUsable s i then
    (leastBelow (fun j => decide ((getPage s (i + 32 * j)).state = .free)) (pagesPerSite s) 0).map (fun j => i + 32 * j)
  else none

/-- The next page in the round robin over the sites, from a site on. -/
def pickPage (s : State) : Nat → Nat → Option Nat
  | 0, _ => none
  | n + 1, i =>
    match lowestFree s (i % 32) with
    | some p => some p
    | none => pickPage s n (i + 1)

/-- A page leaves FREE for an owner: its generation rises by 1 (R139). It lies on the site after that of the owner's last page
`last`; the first page of an owner follows the page that the scribe gave last (R138). -/
def takePage (s : State) (last : Option Nat) (f : Page → Page) : Option (Nat × State) :=
  (pickPage s 32 (match last with | some q => q + 1 | none => s.vellum.nextSite)).map (fun p =>
    let v := getPage s p
    let fresh : Page := f { generation := (v.generation + 1) % 2 ^ 32 }
    let s := putPage s p fresh
    (p, { s with vellum := { s.vellum with nextSite := (p + 1) % 32 } }))

/-- A step names a page: it carries a row of the session that holds it, or, for a PINNED page, of its prefix or of a reader. -/
def stepNames (s : State) (st : Step) (p : Nat) : Bool :=
  let v := getPage s p
  st.rows.any (fun r => match r.ref with
    | .session id =>
      if v.state = .pinned then decide ((getSession s id).pfx = some v.session) else id == v.session
    | .pfx x => decide (v.state = .pinned) && x == v.session)

/-- A page freed: it passes through CLEARING, and a second release joins the clear under way (R95, R141). A page that a step in
flight names waits until that step has ended. -/
def freePage (s : State) (p : Nat) : State :=
  if (getPage s p).state = .free ∨ (getPage s p).state = .clearing ∨ (getPage s p).state = .retired then s
  else if s.serving.steps.any (fun st => stepNames s st p) then
    { s with vellum := { s.vellum with waiting := if s.vellum.waiting.contains p then s.vellum.waiting else s.vellum.waiting ++ [p] } }
  else
    let s := putPage s p { getPage s p with state := .clearing }
    { s with serving := { s.serving with clears := s.serving.clears ++ [.page p] } }

/-- The pages that waited for a step are freed, those that another step names still wait. -/
def freeWaiting (s : State) : State :=
  s.vellum.waiting.foldl freePage { s with vellum := { s.vellum with waiting := [] } }

/-- The place in the vellum where a page begins. -/
def pageBase (p : Nat) : Nat := vellumKey (pageSite p) (p / 32 * 2097152)

/-- Units of a KV page that one token position takes: 2 MiB over 128 positions (R139), and its bytes. -/
def positionUnits : Nat := 256
def positionBytes : Nat := 16384

/-- Units of a site have been read: counted (R146). -/
def countReads (s : State) (d n : Nat) : State :=
  let v := getSite s d
  putSite s d { v with readUnits := sat 64 (v.readUnits + n) }

/-- Units of a site have been written: they are counted (R146), a write-back that they waited for is cancelled (R131, R144), and they
are marked poisoned, or no longer so, with what was written (R89). -/
def wroteUnits (s : State) (d unit n : Nat) (poisoned : Bool) : State :=
  let v := getSite s d
  let k := d * siteUnits + unit
  let kept := s.vellum.poisoned.filter (fun kv => !(decide (k ≤ kv.1) && decide (kv.1 < k + n)))
  let marks := if poisoned then (List.range n).foldl (fun t j => tput false t (k + j) true) kept else kept
  let s := { s with vellum := { s.vellum with poisoned := marks } }
  putSite s d { v with
    writeUnits := sat 64 (v.writeUnits + n), writeBacks := v.writeBacks.filter (fun u => !(decide (unit ≤ u) && decide (u < unit + n))) }

/-- Units of a site are written by the scribe or a controller. -/
def writeUnits (s : State) (d unit : Nat) (b : List Byte) : State :=
  wroteUnits { s with vellum := { s.vellum with mem := mwrite s.vellum.mem (vellumKey d (unit * 64)) b } } d unit
    ((b.length + 63) / 64) false

/-- Units of a site become zero (R94). -/
def clearUnits (s : State) (d unit n : Nat) : State :=
  wroteUnits { s with vellum := { s.vellum with mem := mclear s.vellum.mem (vellumKey d (unit * 64)) (n * 64) } } d unit n false

/-- A page becomes zero. -/
def clearPage (s : State) (p : Nat) : State := clearUnits s (pageSite p) (p / 32 * granuleUnits) granuleUnits

/-- Units are copied from one place in the vellum to another, poison marks with them. -/
def moveUnits (s : State) (d unit e unit' n : Nat) : State :=
  let bad := s.vellum.poisoned.filter (fun kv => decide (d * siteUnits + unit ≤ kv.1) && decide (kv.1 < d * siteUnits + unit + n))
  let mem := mpaste s.vellum.mem (vellumKey e (unit' * 64)) (n * 64) (mcut s.vellum.mem (vellumKey d (unit * 64)) (n * 64))
  let s := wroteUnits (countReads { s with vellum := { s.vellum with mem := mem } } d n) e unit' n false
  { s with vellum := { s.vellum with
      poisoned := bad.foldl (fun t kv => tput false t (kv.1 + (e * siteUnits + unit') - (d * siteUnits + unit)) true) s.vellum.poisoned } }

/-- The key summary of a page that became full: 256 bytes in the system region of its site (R139, R173). What a summary holds is
open (log entry 43). -/
def writeSummary (s : State) (p : Nat) : State :=
  let d := pageSite p
  writeUnits s d ((regionSpan s d .system).1 * granuleUnits + p / 32 * 4)
    ((List.range 256).map (Config.summaryByte p (getPage s p).generation))

def freePagesOf (s : State) (l : List Nat) : State := l.foldl freePage s

/-- One page for a session's logical page. -/
def giveSessionPage (s : State) (id logical : Nat) : State :=
  let v := getSession s id
  let mk := fun (p : Page) => { p with
    session := id, tenant := v.tenant, logical := logical, state := .live, isSealed := v.isSealed,
    partition := v.partition, slot := v.slot }
  let before := match v.pages.getLast?, v.pfx with
    | some q, _ => some q.2
    | none, some x => (getPfx s x).pages.getLast?
    | none, none => none
  match takePage s before mk with
  | some (p, s) =>
    modSession s id (fun v => { v with
      pages := v.pages ++ [(logical, p)],
      turn := v.turn.map (fun t => { t with reserved := t.reserved - 1 }) })
  | none => s

/-- The pages that a session needs up to a position, those it lacks taken in logical order. -/
def ensurePages (s : State) (id upTo : Nat) : State :=
  let v := getSession s id
  let base := match v.pfx with
    | some x => (getPfx s x).length / 128
    | none => 0
  ((List.range ((upTo + 127) / 128)).filter (fun l => decide (base ≤ l) && !(v.pages.any (fun q => q.1 == l)))).foldl
    (fun s l => giveSessionPage s id l) s

/-- COMMITTED of a page advances to `c` (R140): it never falls, and WRITTEN is never below it. A page that becomes full gets its key
summary, once (R173). -/
def commitPage (s : State) (p c : Nat) : State :=
  let v := getPage s p
  let c := max v.committed c
  let full := decide (c = 128) && !v.summary
  let s := putPage s p { v with committed := c, written := max v.written c, summary := v.summary || full }
  if full then writeSummary s p else s

/-- COMMITTED of the pages of a session advances to cover `positions`. -/
def commitPages (s : State) (id positions : Nat) : State :=
  (getSession s id).pages.foldl (fun s q => commitPage s q.2 (min 128 (positions - q.1 * 128))) s

/-! ## Token histories (R235, R370) -/

/-- Extents of the token-history region: 2 KiB each, 1,024 to a granule. -/
def historyExtents (s : State) : Nat := (regionSpan s sDie .history).2 * 1024

/-- The partition whose Sealed extents a history granule holds, or another partition's than `p`: such a granule is not for a Sealed
partition `p`, and one that holds Sealed extents is for its own partition only. -/
def granuleBarred (s : State) (p : Nat) (isSealed : Bool) (g : Nat) : Bool :=
  s.serving.sessions.any (fun kv => kv.2.partition != p && (isSealed || kv.2.isSealed) && kv.2.extents.any (fun e => e / 1024 == g))

/-- An extent is held by no session. -/
def extentFree (s : State) (e : Nat) : Bool := !(s.serving.sessions.any (fun kv => kv.2.extents.contains e))

/-- Extents that a partition's sessions may still take: none in a granule that is barred to it. -/
def extentsLeft (s : State) (p : Nat) (isSealed : Bool) : Nat :=
  let held := (s.serving.sessions.flatMap (fun kv => kv.2.extents)).eraseDups
  let barred := ((held.map (· / 1024)).eraseDups).filter (granuleBarred s p isSealed)
  historyExtents s - barred.length * 1024 - (held.filter (fun e => !(barred.contains (e / 1024)))).length

/-- The lowest extent that a partition's session may take. -/
def takeExtent (s : State) (p : Nat) (isSealed : Bool) : Option Nat :=
  leastBelow (fun e => extentFree s e && !(granuleBarred s p isSealed (e / 1024))) (historyExtents s) 0

/-- A session's history takes the extent found for it, if one was. -/
def giveExtent (s : State) (id : Nat) (o : Option Nat) : State :=
  match o with
  | some e => modSession s id (fun v => { v with extents := v.extents ++ [e] })
  | none => s

/-- It takes one more extent, if the region has one. -/
def addExtent (s : State) (id : Nat) : State :=
  giveExtent s id (takeExtent s (getSession s id).partition (getSession s id).isSealed)

/-- Extents are added until the history fits. -/
def growHistory (s : State) (id n : Nat) : State := (List.range n).foldl (fun s _ => addExtent s id) s

/-- The 16 bytes of four history positions from position 4 × u on, in the clear. -/
def historyUnit (h : List Nat) (u : Nat) : List Byte :=
  (List.range 4).flatMap (fun k => leBytes 4 (h.getD (4 * u + k) 0 % 262144))

/-- What the region holds of them: a Sealed partition's are encrypted with AES-256-XTS under its history key, in data units of 16 B
with the tweak session id × 2^24 + unit index (R370). -/
def storedHistory (s : State) (id u : Nat) : List Byte :=
  let v := getSession s id
  let b := historyUnit v.history u
  if v.isSealed then
    (List.range 16).map (Config.xtsByte (getPartition s v.partition).historyKey (id * 16777216 + u) b)
  else b

/-- First unit of the region that holds the four 16 B data units from `4 × k` of a session's history on. -/
def historyAt (s : State) (v : Session) (k : Nat) : Option Nat :=
  (v.extents[k / 32]?).map (fun e => (regionSpan s sDie .history).1 * granuleUnits + e * 32 + k % 32)

/-- One 64 B unit of a session's history is written. -/
def writeHistory (s : State) (id k : Nat) : State :=
  match historyAt s (getSession s id) k with
  | some u => writeUnits s sDie u ((List.range 4).flatMap (fun j => storedHistory s id (4 * k + j)))
  | none => s

/-- Extents of the token-history region become zero (R235, R349). -/
def clearExtents (s : State) (l : List Nat) : State :=
  l.foldl (fun s e => clearUnits s sDie ((regionSpan s sDie .history).1 * granuleUnits + e * 32) 32) s

/-- A session's history is what `h` says: extents follow its length, and the units from the first changed position on are written. An
extent that it no longer needs is cleared, but a turn keeps those that its acceptance took for it (R242). -/
def setHistory (s : State) (id : Nat) (h : List Nat) : State :=
  let v := getSession s id
  let same := ((v.history.zip h).takeWhile (fun x => x.1 == x.2)).length
  let need := max ((h.length + 511) / 512) (if v.turn.isSome then v.extents.length else 0)
  let s := putSession (clearExtents s (v.extents.drop need)) id { v with history := h, extents := v.extents.take need }
  let s := growHistory s id (need - v.extents.length)
  if h = v.history then s
  else ((List.range ((h.length + 15) / 16)).filter (fun k => decide (same / 16 ≤ k))).foldl (fun s k => writeHistory s id k) s

/-! ## Prefixes (R240, R241) -/

/-- The entry's pages are freed and it becomes FREE. -/
def releasePfx (s : State) (x : Nat) : State :=
  putPfx (freePagesOf s ((getPfx s x).pages ++ (getPfx s x).oldPages)) x {}

/-- A queued turn leaves its tenant's queue. -/
def unqueue (s : State) (tenant : Nat) (w : Queued) : State :=
  let t := getTenant s tenant
  putTenant s tenant { t with queue := t.queue.filter (fun q => decide (q ≠ w)) }

/-- A released entry ends: what is queued or in a step for it goes, and a registration that still waits for it completes with WRONG_STATE
(DESIGN CHOICE, log entry 44: R241 states no status for it). -/
def endPfx (s : State) (x : Nat) : State :=
  let s := unqueue (discardRows s (.pfx x)) (getPfx s x).tenant (.pfx x)
  completeStarted (releasePfx s x) 0x0308 x stWrongState 0

/-- A session that read the prefix closes. -/
def dropReader (s : State) (x : Nat) : State :=
  let v := getPfx s x
  let s := putPfx s x { v with readers := v.readers - 1 }
  if v.state = .releasing ∧ v.readers ≤ 1 then endPfx s x else s

/-! ## Clearing (R94, R95) -/

/-- A clear is queued, or joins the one under way. -/
def queueClear (s : State) (k : ClearKind) : State :=
  if s.serving.clears.contains k then s
  else { s with serving := { s.serving with clears := s.serving.clears ++ [k] } }

/-! ## Adapter versions that nothing is bound to (R217) -/

/-- Bytes of an adapter line in a router cluster's slices (R170). -/
def lineBytes : Nat := 524288

/-- A descriptor of the scribe's queue that brings adapter bytes into a line: vellum to slices, inside the line. -/
def loadsLine (l : Nat) (d : BitVec 256) : Bool :=
  d.extractLsb' 106 2 == 1#2 && d.extractLsb' 104 2 == 2#2 && decide ((d.extractLsb' 192 32).toNat / lineBytes = l)

/-- A line's adapter bytes are still on their way to some router cluster. -/
def lineLoading (s : State) (l : Nat) : Bool := s.fabric.islands.any (fun kv => kv.2.scribeDma.any (loadsLine l))

/-- The store space of some versions is to be cleared before it is given again (R94). -/
def releaseStore (s : State) (tenant : Nat) (l : List AdapterVer) : State :=
  if l.isEmpty then s
  else queueClear { s with vellum := { s.vellum with
    clearing := s.vellum.clearing ++ l.flatMap (fun w => w.extents.map (fun e => (tenant, w.site, e.1, e.2))) } } (.adapterStore tenant)

/-- A version's cache lines and store space are released and cleared. -/
def dropVersion (s : State) (tenant index : Nat) : State :=
  let mine := (s.images.lines.filter (fun kv => kv.2.tenant == tenant && kv.2.version == index)).map (·.1)
  let s := mine.foldl (fun s l => queueClear { s with images := { s.images with lines := tput {} s.images.lines l {} } }
    (.adapterLine l)) s
  let t := getTenant s tenant
  let s := putTenant s tenant { t with versions := t.versions.filter (fun w => w.index != index) }
  releaseStore s tenant (t.versions.filter (fun w => w.index == index))

/-- A session, or an admitted turn, is bound to the version. -/
def versionBound (s : State) (tenant : Nat) (w : AdapterVer) : Bool :=
  s.serving.sessions.any (fun kv => decide (kv.2.state ≠ .free) && kv.2.tenant == tenant &&
    (w.epochs.contains kv.2.adapterEpoch ||
      (match kv.2.turn with | some t => admitted t && w.epochs.contains t.adapterEpoch | none => false)))

/-- The old version of a tenant goes once no turn or session is bound to it. -/
def releaseOld (s : State) (tenant : Nat) : State :=
  let t := getTenant s tenant
  match t.versions.find? (fun w => !w.epochs.isEmpty && decide (t.current ≠ some w.index) && !(versionBound s tenant w)) with
  | some w => dropVersion s tenant w.index
  | none => s

/-- Pages of the old image that a prefix kept are freed once no session of an older epoch reads it (R216). -/
def sweepPfx (s : State) (x : Nat) : State :=
  let v := getPfx s x
  if v.oldPages.isEmpty ∨ s.serving.sessions.any (fun kv => decide (kv.2.pfx = some x) && kv.2.epoch != v.epoch) = true then s
  else freePagesOf (putPfx s x { v with oldPages := [] }) v.oldPages

/-! ## Forfeits, deadlines, outcomes (R250 to R255) -/

/-- A cause begins for a turn: the first cause stands. -/
def forfeitTurn (code now : Nat) (t : Turn) : Turn :=
  if t.timed && t.forfeit.isNone then { t with forfeit := some (code, now) } else t

/-- A cause that affects every unfinished Timed turn. -/
def forfeitAll (s : State) (code : Nat) : State :=
  mapSessions s (fun _ v => { v with turn := v.turn.map (forfeitTurn code s.now) })

/-- A cause that affects one turn. -/
def forfeitOne (s : State) (id code : Nat) : State := modTurn s id (forfeitTurn code s.now)

/-- The deadline of token `k`, if it has one (R250). -/
def deadlineOf (t : Turn) (k : Nat) : Option Nat :=
  if t.timed then some (t.tAcc + t.ttft * 1000 + (k - 1) * (t.itb * 1000))
  else if t.ops.deadline = 0 then none else some t.ops.deadline

/-- Token `k` delivered now is late: its tick is later than its deadline's (R285). -/
def lateNow (s : State) (t : Turn) (k : Nat) : Bool :=
  match deadlineOf t k with
  | some d => decide (d / 4 < s.now / 4)
  | none => false

/-- Token `k` is forfeited: the cause began at or before the tick of its deadline (R254). -/
def forfeited (t : Turn) (k : Nat) : Bool :=
  match t.forfeit, deadlineOf t k with
  | some (_, began), some d => decide (began / 4 ≤ d / 4)
  | _, _ => false

/-- OUTCOME of an END record (R255, R271). -/
def outcomeOf (t : Turn) : Nat :=
  if t.timed then
    match t.forfeit, t.guaranteeAt with
    | none, none => 1
    | none, some _ => 2
    | some _, none => 3
    | some (_, began), some (g, _) => if began ≤ g then 3 else 2
  else 0

/-- FORFEIT_CODE of an END record. -/
def forfeitCode (t : Turn) : Nat := if outcomeOf t = 3 then (t.forfeit.map (·.1)).getD 0 else 0

/-! ## Records (R268 to R272) -/

/-- The plaintext of a SEALED record (R272): a kind byte, the true reason in the final one, and the text. -/
def sealedPlain (text : List Byte) (reason : Option Nat) : List Byte :=
  match reason with
  | none => 0#8 :: text
  | some r => 1#8 :: BitVec.ofNat 8 r :: text

/-- The bytes behind the head of a SEALED record: the IV unit, ciphertext and tag, and zeros to a whole unit. The head with PHASE taken as 0
is the additional authenticated data (R272, R367). -/
def sealedBody (k : KeySet) (n head : Nat) (plain : List Byte) : List Byte :=
  let iv := leBytes 4 k.ivD2c.toNat ++ leBytes 8 n
  let len := plain.length + 16
  iv ++ leBytes 4 0 ++ (List.range len).map (Config.gcmByte k.d2c iv (leBytes 16 head) plain) ++
    List.replicate ((len + 15) / 16 * 16 - len) 0#8

/-- Units of a due record. -/
def dueUnits (d : Due) : Nat :=
  match d with
  | .token .. => 1
  | .text _ bytes => 1 + (bytes.length + 15) / 16
  | .sealedText _ text reason => 2 + ((sealedPlain text reason).length + 16 + 15) / 16
  | .fin _ => 1

/-- A record that takes an IV (R367). -/
def isSealedRec (d : Due) : Bool :=
  match d with
  | .sealedText .. => true
  | _ => false

/-- Tokens that a due record delivers. -/
def dueTokens (d : Due) : Nat :=
  match d with
  | .token .. => 1
  | .text n _ => n
  | .sealedText n _ _ => n
  | .fin _ => 0

/-- Free units of a TS ring (R301). -/
def tsFree (q : Queue) : Nat := 2 ^ q.tsLog2 - 1 - (q.tsIndex + 2 ^ q.tsLog2 - q.tsHead) % 2 ^ q.tsLog2

/-- Units of the PAD that a record of `n` units needs ahead of it. -/
def padUnits (q : Queue) (n : Nat) : Nat := if 2 ^ q.tsLog2 < q.tsIndex + n then 2 ^ q.tsLog2 - q.tsIndex else 0

/-- The ring has space for the record, with its PAD. -/
def tsFits (q : Queue) (n : Nat) : Bool := decide (padUnits q n + n ≤ tsFree q)

/-- A PAD to the ring's end: the index wraps to 0 and the phase inverts (R302). -/
def pushPad (q : Queue) (n : Nat) : Queue :=
  { q with ts := q.ts ++ [.pad q.tsPhase n], tsIndex := 0, tsPhase := !q.tsPhase }

/-- A record at the module's index, with the phase of its pass. -/
def pushTs (q : Queue) (r : Rec) : Queue :=
  let n := recUnits r
  let q := if padUnits q n = 0 then q else pushPad q (padUnits q n)
  let next := (q.tsIndex + n) % 2 ^ q.tsLog2
  { q with ts := q.ts ++ [.rcd r q.tsPhase n], tsIndex := next,
           tsPhase := if next = 0 then !q.tsPhase else q.tsPhase }

/-- The stop reasons that a Sealed partition shows in clear (R271). -/
def clearReason (r : Nat) : Bool := r == 1 || (decide (9 ≤ r) && decide (r ≤ 15))

/-- The record that a due record becomes at its delivery. -/
def buildRec (s : State) (id : Nat) (v : Session) (t : Turn) (late : Bool) (d : Due) : Rec :=
  match d with
  | .token v sp => .token (stamp s) id t.delivered v sp late
  | .text n bytes => .text (stamp s) id (if n = 0 then t.delivered - 1 else t.delivered) n bytes late
  | .sealedText n text reason =>
    let plain := sealedPlain text reason
    let iv := if t.keySet = v.keySets then v.recIv else v.oldRecIv
    let r := Rec.sealedRec (stamp s) id (if n = 0 then t.delivered - 1 else t.delivered) n plain.length reason.isSome iv late
    r (sealedBody (if t.keySet = v.keySets then v.keys else v.oldKeys) iv (recHead (r []) false) plain)
  | .fin reason =>
    .fin (stamp s) id t.delivered (if v.isSealed && !clearReason reason then 0xFE else reason) (outcomeOf t)
      (forfeitCode t) t.lateAny

/-- The draft pages of a session. -/
def draftPagesOf (s : State) (id : Nat) : List DraftPage := s.serving.draftPages.filter (fun p => p.session == id)

/-- The committed length of a session's draft pages is `n` positions: pages beyond it go back to the reserve, cleared. -/
def setDraft (s : State) (id n : Nat) : State :=
  let gone := (draftPagesOf s id).filter (fun p => decide ((n + 127) / 128 ≤ p.logical))
  let kept := (s.serving.draftPages.filter (fun p => !(gone.contains p))).map (fun p =>
    if p.session = id then { p with committed := min 128 (n - p.logical * 128) } else p)
  gone.foldl (fun s p => clearUnits s p.site (p.granule * granuleUnits) granuleUnits)
    { s with serving := { s.serving with draftPages := kept, drafts := tput 0 s.serving.drafts id n } }

/-- A park or unpark that runs for a session which closes goes no further: its command finds the session open no longer (R333, DESIGN
CHOICE, log entry 44). -/
def cutPark (s : State) (id : Nat) : State := completeStarted (completeStarted s 0x0306 id 0x0304 0) 0x0307 id 0x0304 0

/-- The session's pages go, its history is cleared, and the entry is FREE (R141, R235). -/
def releaseSession (s : State) (id : Nat) : State :=
  let s := cutPark s id
  let v := getSession s id
  let s := freePagesOf (clearExtents s v.extents) (v.pages.map (·.2))
  let s := match v.pfx with
    | some x => dropReader s x
    | none => s
  let p := getPartition s v.partition
  let s := putPartition s v.partition { p with
    parkUsed := p.parkUsed.filter (fun k => !((v.parked.map (·.slot) ++ v.outbound).contains k)) }
  let s := setDraft s id 0
  let s := { s with trust := { s.trust with exchanges := s.trust.exchanges.filter (fun e => e.session != id) } }
  let s := releaseOld (putSession s id {}) v.tenant
  match v.pfx with
  | some x => sweepPfx s x
  | none => s

/-- A closing session goes once no step names it (R157). -/
def finishClose (s : State) (id : Nat) : State :=
  let v := getSession s id
  if v.state = .closing ∧ v.turn.isNone ∧ inStep s id = false then releaseSession s id else s

/-- What a turn held leaves use: the reader place that it had and did not take, and pages of an old image (R215, R256). -/
def leaveTurn (s : State) (t : Turn) : State :=
  freePagesOf (match t.place with | some x => dropReader s x | none => s) t.oldPages

/-- The turn is over: its outcome, the session's counters, and the commands that waited for its END (R255, R310). Its pending token is
the last one delivered, as the delivery left it (R233). -/
def closeTurn (s : State) (id : Nat) : State :=
  let v := getSession s id
  match v.turn with
  | none => s
  | some t =>
    let o := outcomeOf t
    let s := leaveTurn s t
    let v := getSession s id
    let s := putSession s id { v with
      turn := none, turns := (v.turns + 1) % 2 ^ 32, lastUse := stamp s, oldKeys := {}, oldRecIv := 0, oldPromptIv := none,
      state := if v.state = .turn then .idle else v.state,
      forfeits := if o = 3 then v.forfeits + 1 else v.forfeits,
      guaranteeFaults := if o = 2 then v.guaranteeFaults + 1 else v.guaranteeFaults }
    let s := setHistory s id v.history
    let s := if o = 2 then
        let k := (t.guaranteeAt.map (·.2)).getD 0
        let s := postEvent s 0 2 (v.partition + 65536 * v.tenant + 2 ^ 32 * id + 2 ^ 64 * k)
        report s { code := 0x0601, cls := 5, session := some id, tenant := v.tenant, partition := some v.partition,
                   aux := k }
      else s
    let broken := v.isSealed && s.trust.isUnsealed
    let s := completeStarted s 0x0402 id (if broken then 0x0701 else stSuccess) (if broken then 0 else t.delivered)
    let s := completeStarted s 0x0305 id (if broken then 0x0701 else stSuccess) 0
    notIdle (releaseOld (finishClose s id) v.tenant)

/-- The tokens after which the late policy STOP ends a turn: those up to the end of the step that delivered the first late one (R253). -/
def stopPoint (t : Turn) (lates : List Nat) : Option Nat :=
  match t.stopAfter, (if t.lateStop then lates.head? else none) with
  | some k, _ => some k
  | none, some k => some (((t.cuts.find? (fun c => decide (k ≤ c.1))).map (·.1)).getD k)
  | none, none => none

/-- The token delivered last is the session's pending token, once every token that was sampled is delivered (R233, R235). -/
def notePending (s : State) (id : Nat) : State :=
  let v := getSession s id
  match v.turn with
  | some t =>
    if t.delivered = t.sampled ∧ v.pending = false then
      setHistory (putSession s id { v with pending := true }) id (v.history ++ [t.input])
    else s
  | none => s

/-- A due record's head write issues now: that is the delivery of its tokens (R251, R268). -/
def issueDue (s : State) (id : Nat) (d : Due) : State :=
  let v := getSession s id
  match v.turn with
  | none => s
  | some t =>
    let n := dueTokens d
    let lates := ((List.range n).map (fun i => t.delivered + 1 + i)).filter (lateNow s t)
    let faults := lates.filter (fun k => t.timed && !forfeited t k)
    let q := getQueue s t.func t.qp
    let r := buildRec s id v t (!lates.isEmpty) d
    let s := wantVector (putQueue s t.func t.qp (pushTs q r)) t.func (q.tsVecBase + id % max 1 q.tsVecCount)
    let t' := { t with
      delivered := t.delivered + n, lateAny := t.lateAny || !lates.isEmpty,
      cuts := t.cuts.filter (fun c => decide (t.delivered + n ≤ c.1)), stopAfter := stopPoint t lates,
      guaranteeAt := t.guaranteeAt <|> faults.head?.map (fun k => (s.now, k - 1)) }
    let s := putSession s id { v with
      turn := some t', lateTokens := sat 32 (v.lateTokens + lates.length),
      recIv := if isSealedRec d && decide (t.keySet = v.keySets) then v.recIv + 1 else v.recIv,
      oldRecIv := if isSealedRec d && decide (t.keySet ≠ v.keySets) then v.oldRecIv + 1 else v.oldRecIv }
    let s := if n = 0 then s else notePending (charge s v.tenant (256 * n)) id
    match d with
    | .fin _ => closeTurn s id
    | _ => s

/-- Units in a holding buffer. -/
def holdUnits (q : Queue) : Nat := (q.holding.map (fun x => dueUnits x.2)).sum

/-- The REQ_SUBMIT of the session's turn has its completion still to come, behind a park or unpark: it precedes every record of the
turn (R310). -/
def submitHeld (s : State) (id : Nat) : Bool :=
  s.mailbox.fetched.any (fun f => f.opcode == 0x0401 && f.arg == id && f.answer.isSome && !f.muted)

/-- What becomes of the turn's next due record: issued, held (with the forfeit RING when its ring is full), left
waiting while the holding buffer is full, or dropped once its queue pair is disabled (R268, R314). -/
def pump (s : State) (id : Nat) : State :=
  match (getSession s id).turn with
  | none => s
  | some t =>
    match t.due with
    | [] => s
    | d :: rest =>
      let q := getQueue s t.func t.qp
      if submitHeld s id then s else
      let popped := modTurn s id (fun t => { t with due := rest })
      if q.active && q.enable && q.holding.isEmpty && tsFits q (dueUnits d) then issueDue popped id d
      else if (q.active && q.enable) || q.resume || (tget {} s.mailbox.bindings t.func).waiting then
        let s' := if q.active then forfeitOne popped id 3 else popped
        if holdUnits q + dueUnits d ≤ 256 then
          let s' := putQueue s' t.func t.qp { q with holding := q.holding ++ [(id, d)] }
          { s' with serving := { s'.serving with lettering := { s'.serving.lettering with
              ringWaits := sat 32 (s'.serving.lettering.ringWaits + bit q.active) } } }
        else if q.active then forfeitOne s id 3 else s
      else match d with
        | .fin _ => closeTurn popped id
        | _ => popped

/-- Every due record of the turn, as far as the ring and its holding buffer go. -/
def pumpAll : Nat → State → Nat → State
  | 0, s, _ => s
  | n + 1, s, id => pumpAll n (pump s id) id

/-! ## The end of a turn -/

/-- The records that end a turn (R265, R272): held text, then END. A Sealed turn's reason travels in its FINAL
record. -/
def endRecords (v : Session) (t : Turn) (reason : Nat) : List Due :=
  let fl := flushText t.held t.stopHeld
  if v.isSealed then [.sealedText 0 fl (some reason), .fin reason]
  else if t.ops.text && !fl.isEmpty then [.text 0 fl, .fin reason]
  else [.fin reason]

/-- The lettering counters of a turn's last text. -/
def countFlush (s : State) (t : Turn) : State :=
  let c := s.serving.lettering
  if t.ops.text then
    { s with serving := { s.serving with lettering := { c with
        bytesOut := sat 64 (c.bytesOut + (flushText t.held t.stopHeld).length),
        replacements := sat 32 (c.replacements + bit (!t.held.isEmpty)) } } }
  else s

/-- The turn ends with a reason: its rows in flight are discarded, what is due is written, then its END (R157,
R265, R271). A turn that is ending already keeps its first reason. -/
def endTurn (s : State) (id reason : Nat) : State :=
  let v := getSession s id
  match v.turn with
  | none => s
  | some t =>
    if t.ending.isSome then s
    else
      let s := unqueue (discardRows (countFlush s t) (.session id)) v.tenant (.turn id)
      let due := t.due ++ endRecords v t reason
      let s := modTurn s id (fun t => { t with ending := some reason, due := due, held := [], stopHeld := [], reserved := 0 })
      pumpAll due.length s id

/-- Records of the turn that wait in its queue pair's holding buffer are dropped. -/
def dropHeld (s : State) (id : Nat) (t : Turn) : State :=
  let q := getQueue s t.func t.qp
  putQueue s t.func t.qp { q with holding := q.holding.filter (fun x => x.1 != id) }

/-- The late policy STOP (R253): once a late token is delivered, what its step delivered still goes out, and the turn ends with
LATE_STOP. What later steps sampled is discarded, with the text that they held back. -/
def lateStop (s : State) (id : Nat) : State :=
  match (getSession s id).turn with
  | some t =>
    match t.stopAfter with
    | some k =>
      if k ≤ t.delivered ∧ t.ending.isNone then
        let kept := ((t.cuts.find? (fun c => c.1 == k)).map (·.2)).getD (t.held, t.stopHeld)
        endTurn (modTurn (dropHeld s id t) id (fun t => { t with due := [], held := kept.1, stopHeld := kept.2 })) id 9
      else s
    | none => s
  | none => s

/-- Records of a holding buffer written while the ring has room (R268), the late policy applied after each. -/
def drainHolding : Nat → State → Nat → Nat → State
  | 0, s, _, _ => s
  | n + 1, s, func, qp =>
    let q := getQueue s func qp
    match q.holding with
    | [] => s
    | (id, d) :: rest =>
      if q.active && q.enable && tsFits q (dueUnits d) then
        drainHolding n (lateStop (issueDue (putQueue s func qp { q with holding := rest }) id d) id) func qp
      else s

/-- Every record of the buffer, as far as the ring goes: a turn that ends on the way adds up to two. -/
def drainAll (s : State) (func qp : Nat) : State := drainHolding (3 * (getQueue s func qp).holding.length + 2) s func qp

/-- The turn ends with nothing written for it (R321, R324): its records that wait are dropped too. -/
def dropTurn (s : State) (id : Nat) : State :=
  let v := getSession s id
  match v.turn with
  | none => s
  | some t =>
    let s := dropHeld (unqueue (discardRows s (.session id)) v.tenant (.turn id)) id t
    closeTurn (modTurn s id (fun t => { t with due := [] })) id

/-- A session is ended with an error outside or inside a turn (R132, R238): its turn ends with the reason, a
SESSION_ENDED event tells of it outside a turn, and the session closes. -/
def endSession (s : State) (id reason : Nat) : State :=
  let v := getSession s id
  if v.turn.isSome then
    finishClose (endTurn (putSession s id { v with state := .closing }) id reason) id
  else
    let s := postEvent s (v.partition + 1) 0x0102 (id + 2 ^ 32 * reason)
    finishClose (putSession s id { v with state := .closing }) id

/-- Ends every turn of the sessions that pass a test. -/
def endTurns (s : State) (p : Session → Bool) (reason : Nat) : State :=
  (sessionIds s (fun v => v.turn.isSome && p v)).foldl (fun s id => endTurn s id reason) s

/-- Drops every turn of the sessions that pass a test. -/
def dropTurns (s : State) (p : Session → Bool) : State :=
  (sessionIds s (fun v => v.turn.isSome && p v)).foldl dropTurn s

/-! ## Health counts (R114, R115, R117) -/

/-- Counts of a tensor in a step, kept until the step completes. -/
def countFor (s : State) (step tensor : Nat) (c : Counts) : State :=
  let here := fun (x : Nat × Nat × Counts) => x.1 == step && x.2.1 == tensor
  let l := s.serving.counting
  let l' := if l.any here then modWhere here (fun x => (x.1, x.2.1, addCounts x.2.2 c)) l
    else l ++ [(step, tensor, c)]
  { s with serving := { s.serving with counting := l' } }

end Sys2Proof.Machine
end

