-- ==== Sys2Proof/Machine/PowerOps.lean ====
section
/-! DEFINITION. Shared operations of the governor: the ladder and the power tables (R386), the target and the
allowance (R384), the binding of a cap (R385), the guarantee power (R389) and idleness (R391). -/

namespace Sys2Proof.Machine

/-- The fused table (R386). -/
def fusedTable : List Nat :=
  [18500, 15100, 12000, 9600, 7900, 6900, 6550, 6200, 5850, 5500, 5150, 4800, 4450, 3700]

/-- Bin and skip, in eighths, of a ladder point (R386). -/
def pointBin (p : Nat) : Nat := if p ≤ 1 then 0 else if p ≤ 6 then p - 1 else 5
def pointSkip (p : Nat) : Nat := if p ≤ 6 then 0 else if p ≤ 13 then p - 6 else 7

/-- The power table of a slot, in the form that it runs. -/
def slotTable (v : Slot) : List Nat :=
  match v.body with
  | some b => if v.streaming then b.powerStreaming else b.power
  | none => []

/-- The higher of two tables, point by point. -/
def maxTables : List Nat → List Nat → List Nat
  | a :: as, b :: bs => max a b :: maxTables as bs
  | [], bs => bs
  | as, [] => as

/-- The table in use: of the slots with steps in flight and of the ACTIVE slot; the fused one with none. -/
def powerTable (s : State) : List Nat :=
  let used := fun (n : Nat) => s.serving.steps.any (fun st => st.slot == n) || decide (activeSlot s = some n)
  let a := if used 0 then slotTable s.images.a else []
  let b := if used 1 then slotTable s.images.b else []
  match maxTables a b with
  | [] => fusedTable
  | l => l

/-- Power of a point, and P_min of R387. -/
def pointPower (s : State) (p : Nat) : Nat := (powerTable s).getD (p - 1) 0
def pMin (s : State) : Nat := pointPower s 14

/-- The first point whose power fits an allowance, else 14. -/
def pointFor (s : State) (a : Nat) : Nat :=
  (leastBelow (fun p => decide (pointPower s p ≤ a)) 14 1).getD 14

/-- P_G of a slot (R389): point 2 of its placement, rounded up to 100 W. -/
def guaranteePower (v : Slot) : Nat :=
  match v.body with
  | some b => (b.power.getD 1 0 + 99) / 100 * 100
  | none => 0

/-- Power of an idle state (R390), wake bound in ns. The manual says "about" of these powers. -/
def statePower (p : PowerState) : Nat :=
  match p with
  | .active => 18500 | .trim => 6500 | .hold => 6000 | .retain => 2200 | .shed => 1400 | .vellumOnly => 900

def wakeBound (p : PowerState) : Nat :=
  match p with
  | .active => 0 | .trim => 1000 | .hold => 2000 | .retain => 150000 | .shed => 3000000 | .vellumOnly => 40000000

/-- Some granule is Sealed (R349): a page or draft page, a Sealed tenant's adapter version, a history extent of a Sealed partition, or the
master image of a DEVICE_WRAPPED slot. -/
def sealedHeld (s : State) : Bool :=
  let mine := fun (p : Nat) => (getPartition s p).isSealed
  s.vellum.pages.any (fun kv => kv.2.isSealed && decide (kv.2.state ≠ .free)) ||
    s.serving.draftPages.any (fun q => mine (getSession s q.session).partition) ||
    s.serving.tenants.any (fun kv => kv.2.registered && mine kv.2.partition && !kv.2.versions.isEmpty) ||
    s.serving.sessions.any (fun kv => mine kv.2.partition && !kv.2.extents.isEmpty) ||
    s.images.a.contentKey.isSome || s.images.b.contentKey.isSome || (s.images.compat.bind (·.contentKey)).isSome

/-- The power of the present state (R390), with the site controllers that stay powered in SHED and VELLUM-ONLY for Sealed granules
(R350). -/
def deepPower (s : State) : Nat :=
  statePower s.power.state + (if 4 ≤ powerCode s.power.state ∧ sealedHeld s = true then 160 else 0)

/-- The voltage of a die's rail in mV, 0 when it is switched off (R379): by the die's cartridge, by the power state, by a partial
shutdown, which leaves a compute die its links and the site in self-refresh (R406), or with the die dark. -/
def railMv (s : State) (die : Nat) (r : Rail) : Nat :=
  let p := powerCode s.power.state
  let compute := decide (die ≠ sDie)
  let cut := compute && !s.board.computeRails
  if !s.board.railsUp || !(getCart s (die / 2)).powered || s.map.darkDies.contains die then 0
  else match r with
    | .logicIn => if cut || (compute && decide (3 ≤ p)) then 0 else 900
    | .sramArrays => if cut || decide (4 ≤ p) then 0 else if p = 3 then 550 else 750
    | .links => if compute && decide (4 ≤ p) then 0 else 700
    | .vellumInterface => if cut || (getSite s die).controllerOff then 0 else 750
    | .dramCore => 1050
    | .dramPump => 2500

/-- HOLD or deeper. -/
def isDeep (p : PowerState) : Bool := decide (2 ≤ powerCode p)

/-- The target T (R384). -/
def target (s : State) : Nat :=
  if isDeep s.power.state then deepPower s else min s.power.boundCap s.thermal.coolingCap

/-- When T falls, A first drops to the lower of A and the 1 ms mean; in ACTIVE and TRIM it never goes below
P_min (R384). -/
def dropAllowance (s : State) (before : Nat) : State :=
  if target s < before then
    let a := min s.power.allowance s.power.mean1ms
    let lo := if isDeep s.power.state then 0 else pMin s
    { s with power := { s.power with allowance := if target s < s.power.allowance then max lo a else s.power.allowance } }
  else s

/-- CAP_UNREACHABLE begins or ends (R387, R395). -/
def judgeReach (s : State) : State :=
  let p := if isDeep s.power.state then deepPower s else pMin s
  let t := min s.power.boundCap s.thermal.coolingCap
  if t < p then
    if s.power.unreachable then s
    else note (warn { s with power := { s.power with unreachable := true } } 5 0xFFFF) 0x0308 2 0xFFFF t p
  else if s.power.unreachable then
    endWarning { s with power := { s.power with unreachable := false } } 5 0xFFFF
  else s

/-- The accepted host cap binds (R385): the allowance follows, and a cap below the floor forfeits with CAP. -/
def bindCap (s : State) : State :=
  let before := target s
  let s := { s with power := { s.power with boundCap := s.power.hostCap, capPending := false, capBefore := none } }
  let s := judgeReach (dropAllowance s before)
  if s.power.floor ≠ 0 ∧ s.power.hostCap < s.power.floor then forfeitAll s 1 else s

/-- RESULT of POWER_CAP_SET (R339): the cap, BELOW_FLOOR and UNREACHABLE as they stand at the boundary, the binding step. -/
def capResult (s : State) : Nat :=
  s.power.hostCap + 2 ^ 32 * (bit (decide (s.power.floor ≠ 0 ∧ s.power.hostCap < s.power.floor)) + 2 * bit s.power.unreachable) +
    2 ^ 64 * s.serving.nextStep

/-- A pending cap binds, and the command that set it completes. -/
def bindDue (s : State) : State :=
  if s.power.capPending then
    let s := bindCap s
    completeStarted s 0x0601 0 stSuccess (capResult s)
  else s

/-- The deepest state whose wake bound is at or below a tolerance. -/
def selectState (ns : Nat) : PowerState :=
  if 40000000 ≤ ns then .vellumOnly
  else if 3000000 ≤ ns then .shed
  else if 150000 ≤ ns then .retain
  else if 2000 ≤ ns then .hold
  else if 1000 ≤ ns then .trim
  else .active

/-- A tolerance that was set takes effect: a state is selected against it, and the command completes (R339, R391). -/
def toleranceDue (s : State) : State :=
  match s.power.tolDue with
  | some ns =>
    let p := selectState ns
    completeStarted { s with power := { s.power with tolerance := ns, selected := p, tolDue := none } } 0x0603 0 stSuccess
      (powerCode p + 2 ^ 32 * (wakeBound p / 1000))
  | none => s

/-- The allowance moves towards T at no more than 5 kW/s (R384), with the exact nanoseconds since the last move. -/
def rampAllowance (s : State) : State :=
  let span := (s.now - s.power.rampedAt) * 5 / 1000000
  let t := max (target s) (if isDeep s.power.state then 0 else pMin s)
  let a := s.power.allowance
  let a' := if a ≤ t then min t (a + span) else max t (a - span)
  { s with power := { s.power with allowance := a', rampedAt := if span = 0 then s.power.rampedAt else s.now } }

/-- P_G of the ACTIVE slot, or 0 with none. -/
def activeGuarantee (s : State) : Nat :=
  match activeSlot s with
  | some n => guaranteePower (getSlot s n)
  | none => 0

/-- The operating point at a step boundary (R386): one point down when the 10 ms mean exceeds A, but never below point 2 while A is at
P_G or above (R389). -/
def choosePoint (s : State) : State :=
  let p := pointFor s s.power.allowance
  let p := if s.power.allowance < s.power.mean10ms then max p (min 14 (s.power.point + 1)) else p
  let p := if decide (0 < activeGuarantee s) && decide (activeGuarantee s ≤ s.power.allowance) then min 2 p else p
  { s with power := { s.power with point := p } }

/-- Admissions are shed from point 7 on (R387). -/
def shedding (s : State) : Bool := decide (7 ≤ pointFor s s.power.allowance)

/-- The module is idle (R391): a prefix that is being prefilled counts as a turn (R333). For a descent below HOLD, it is not while a switch has yet to migrate (R223). -/
def isIdle (s : State) : Bool :=
  !(s.serving.sessions.any (fun kv => kv.2.turn.isSome)) && !(s.serving.prefixes.any (fun kv => kv.2.unwritten)) &&
    !(s.serving.tenants.any (fun kv => !kv.2.queue.isEmpty)) && s.serving.steps.isEmpty &&
    !(s.mailbox.fetched.any (fun f => f.background && f.started)) && !s.images.migrating && s.images.compat.isNone &&
    !(decide (3 ≤ powerCode s.power.selected) && s.images.switching.isSome)

/-- The bin of an island: that of the planned point or its ceiling, or one below in answer to a droop (R381, R382). -/
def islandBin (s : State) (u : Nat) : Nat :=
  let b := max (pointBin s.power.point) (tget 0 s.nvm.ceilings u)
  let d := getIsland s u
  if d.droopBin then min 5 (b + 1) else b

/-- Eighths of its cycles that each throttle of an island skips: failed segments, its die's current, a droop, an inrush wait, and its
throttle stage (R377, R380, R382, R383, R403). -/
def islandSkips (s : State) (u : Nat) : List Nat :=
  let die := unitDie u
  [min 2 (tget 0 s.nvm.segments u), tget 0 s.power.dieSkip die, if (getIsland s u).droopSkip then 1 else 0,
    if s.power.inrushSkip.contains die then 1 else 0, (getPair s u).stage]

/-- The effective rate of an island, in eighths of a megahertz: the lowest of the planned point under its ceiling and of each throttle
alone (R381, R388). -/
def islandRate (s : State) (u : Nat) : Nat :=
  let b := max (pointBin s.power.point) (tget 0 s.nvm.ceilings u)
  ([binMhz (islandBin s u) * 8] ++ (islandSkips s u).map (fun k => binMhz b * (8 - k))).foldl min
    (binMhz b * (8 - pointSkip s.power.point))

end Sys2Proof.Machine
end

