-- ==== Sys2Proof/Machine/Admission.lean ====
section
/-! DEFINITION. Shared operations of admission and parking: exact prices (R244 to R248), the start of a turn (R233),
the admission round (R232), parking and unparking (R236 to R239), and prefixes. -/

namespace Sys2Proof.Machine

/-! ## Exact fractions (R248) -/

def fadd (a b : Frac) : Frac := { num := a.num * b.den + b.num * a.den, den := a.den * b.den }
def fint (n : Nat) : Frac := { num := n, den := 1 }
def fmulN (n : Nat) (a : Frac) : Frac := { num := n * a.num, den := a.den }
def fle (a b : Frac) : Bool := decide (a.num * b.den ≤ b.num * a.den)
def fmax (a b : Frac) : Frac := if fle a b then b else a

/-- Rounded up to whole units of `unit`. -/
def fceil (unit : Nat) (a : Frac) : Nat := (a.num + a.den * unit - 1) / (a.den * unit)

/-- Times the reserve factor ρ = 1.0075 = 403/400 (R244). -/
def rho (a : Frac) : Frac := { num := 403 * a.num, den := 400 * a.den }

/-! ## Prices (R244 to R248) -/

/-- The units that the variants in force on a slot cover, for the tables of the composed set (R436). -/
def coveredUnits (v : Slot) : List Nat := v.inForce.flatMap (·.covers)

/-- The step-time line of a slot for the regime shape, in the form and mode that it runs (R244). -/
def stepLine (s : State) (n : Nat) : StepTimes :=
  let v := getSlot s n
  let g := s.serving.regime
  let hit := fun (l : StepTimes) => l.rowsT == g.rowsT && l.pagesT == g.pagesT && l.missT == g.missT &&
    l.streaming == v.streaming && l.reference == v.reference && l.covers == coveredUnits v
  match (v.body.bind (fun b => b.times.find? hit)) with
  | some l => l
  | none =>
    { Config.stepTimes ((v.head.map (·.root)).getD 0) g.rowsT g.pagesT g.missT v.streaming v.reference (coveredUnits v) with
      missT := g.missT }

/-- The priced time w of each layer: its worst routing, and MISS_T cold misses. -/
def layerTimes (l : StepTimes) : List Nat := l.layers.map (· + l.missT * l.tMiss)

/-- S, the Timed issue spacing: the largest w. -/
def spacingOf (l : StepTimes) : Nat := (layerTimes l).foldl max 0

/-- T_dec: the head, every layer, and the tail. -/
def decodeTime (l : StepTimes) : Nat := l.head + (layerTimes l).sum + l.tail

/-- A time of a line, exactly, in ns. -/
def lineTime (l : StepTimes) (x : Nat) : Frac := { num := x, den := max 1 l.den }

/-- U of R246 for a number of parked pages: 20 µs and 2 MiB a page at the rate of the link. -/
def priceU (s : State) (pages : Nat) : Frac :=
  if pages = 0 then fint 0
  else
    let b := linkRate s
    fadd (fint 20000) { num := pages * 2097152 * b.den, den := max 1 b.num }

/-- A of R246 for an adapter of some bytes at 625 GB/s. -/
def priceA (bytes : Nat) : Frac := fadd (fint 20000) { num := bytes, den := 625 }

/-- TTFT of R246 in µs, rounded up once (R248). `c` is C in ns, exactly. -/
def priceTtft (s : State) (slot pages : Nat) (a : Frac) (ledger m : Nat) (c : Frac) : Nat :=
  let l := stepLine s slot
  let q := if s.serving.steps.any (fun st => decide (st.kind = .prefill)) then lineTime l l.tPre else fint 0
  let n := (ledger + m + 16383) / 16384
  let first := fmax (priceU s pages) (fmax a q)
  let sum := fadd (fadd (fadd first (fmulN n (lineTime l l.tPre))) (fint 20000)) (fadd (lineTime l (spacingOf l)) (lineTime l (decodeTime l)))
  fceil 1000 (fadd (fadd (rho sum) c) (fint 2000000))

/-- ITB of R247 in µs, rounded up once. -/
def priceItb (s : State) (slot d c : Nat) : Nat :=
  let l := stepLine s slot
  fceil 1000 (fadd (rho (fadd (fadd (lineTime l (decodeTime l)) (lineTime l (spacingOf l))) (fmulN d (lineTime l l.tDraft)))) (fint c))

/-- The position limit of R245: ROWS_T × ⌊T_dec / S⌋. -/
def positionLimit (s : State) (slot : Nat) : Nat :=
  let l := stepLine s slot
  s.serving.regime.rowsT * (decodeTime l / max 1 (spacingOf l))

/-! ## What is in flight -/

/-- Unfinished turns that admission accepted, as (session id, session, turn). -/
def liveTurns (s : State) : List (Nat × Session × Turn) :=
  s.serving.sessions.filterMap (fun kv => kv.2.turn.bind (fun t =>
    if admitted t && t.ending.isNone then some (kv.1, kv.2, t) else none))

/-- Token positions of a row of the turn in a step: its D, or 1 (R243). -/
def rowPositions (t : Turn) : Nat := max 1 t.ops.d

/-- Timed sequences of a partition, positions of all Timed rows (R245), the prefill ledger (R246). -/
def timedInPartition (s : State) (p : Nat) : Nat :=
  ((liveTurns s).filter (fun x => x.2.2.timed && x.2.1.partition == p)).length
def timedPositions (s : State) : Nat :=
  (((liveTurns s).filter (fun x => x.2.2.timed)).map (fun x => rowPositions x.2.2)).sum
def prefillLedger (s : State) : Nat := ((liveTurns s).map (fun x => x.2.2.ledger)).sum

/-- Non-Timed sequences in flight, and the sum of TIMED_SEQUENCES (R227, R245). -/
def otherSequences (s : State) : Nat := ((liveTurns s).filter (fun x => !x.2.2.timed)).length
def timedReserve (s : State) : Nat :=
  ((List.range 16).map (fun p => (getPartition s p).timedSequences)).sum

/-- Pages reserved by accepted turns and not yet used (R249). -/
def reservedPages (s : State) : Nat := ((liveTurns s).map (fun x => x.2.2.reserved)).sum

/-! ## Where a turn binds (R215, R217) -/

/-- The session is held under DRAIN on its old slot. -/
def heldByDrain (s : State) (v : Session) : Bool :=
  let p := getPartition s v.partition
  let o := getSlot s v.slot
  p.drain && p.drainUntil.isSome && decide (o.state = .draining) && decide (o.epoch = v.epoch) && decide (v.epoch ≠ 0)

/-- The slot that a turn of the session binds to. -/
def bindSlot (s : State) (v : Session) : Option Nat := if heldByDrain s v then some v.slot else activeSlot s

/-- The adapter epoch that the turn carries, and the version it names. -/
def bindAdapter (s : State) (v : Session) : Nat :=
  let t := getTenant s v.tenant
  if (getPartition s v.partition).drain && t.adapterDrain.isSome then v.adapterEpoch else t.adapterEpoch

def versionAt (t : Tenant) (epoch : Nat) : Option AdapterVer :=
  if t.current.isNone then none else t.versions.find? (fun w => w.epochs.contains epoch)

/-- The session's KV pages must be written anew on the slot the turn binds to (R215, R217). -/
def mustMigrate (s : State) (v : Session) (slot : Nat) : Bool :=
  v.positions != 0 &&
    (decide ((getSlot s slot).epoch ≠ v.epoch) || decide (v.slot ≠ slot) || decide (bindAdapter s v ≠ v.adapterEpoch))

/-! ## Prefixes (R240) -/

/-- The entry that a handle resolves to, within its tenant. -/
def findPfx (s : State) (tenant handle : Nat) : Option Nat :=
  (s.serving.prefixes.find? (fun kv => kv.2.tenant == tenant && kv.2.handle == handle &&
    (decide (kv.2.state = .prefilling) || decide (kv.2.state = .ready)))).map (·.1)

/-- The prefix entry that a request names. -/
def prefixOf (s : State) (o : ReqOps) : Option Pfx :=
  if o.usePrefix then (findPfx s o.tenant o.handle).map (getPfx s) else none

/-- The prefix that a session reads, or the one that its request names. -/
def readPrefix (s : State) (o : ReqOps) : Option Pfx :=
  match (getSession s o.session).pfx with
  | some x => some (getPfx s x)
  | none => prefixOf s o

/-- P of R174 as a slot's Folio sets it, where it enables page-selected attention. -/
def folioP (s : State) (slot : Nat) : Option Nat :=
  match (getSlot s slot).head, (getSlot s slot).body with
  | some hd, some b => if hd.flags / 4 % 2 = 1 then some b.pagesP else none
  | _, _ => none

/-- P for a turn, whose request may lower it. -/
def selectP (s : State) (slot : Nat) (o : ReqOps) : Option Nat :=
  (folioP s slot).map (fun p => if o.pagesP = 0 then p else o.pagesP)

/-- The first positions of a page are copied into another (R160). -/
def copyPositions (s : State) (from_ to_ n : Nat) : State :=
  moveUnits s (pageSite from_) (from_ / 32 * granuleUnits) (pageSite to_) (to_ / 32 * granuleUnits) (n * positionUnits)

/-- The session reads a READY prefix: the PINNED pages stand before its own, and a part page is copied (R160). -/
def attachPrefix (s : State) (id x : Nat) : State :=
  let p := getPfx s x
  let s := modSession s id (fun v => { v with positions := p.length })
  let s := setHistory s id (p.tokens ++ (getSession s id).history)
  if p.length % 128 = 0 then s
  else
    let l := p.length / 128
    let s := giveSessionPage s id l
    let s := match p.pages[l]?, (getSession s id).pages.find? (fun q => q.1 == l) with
      | some from_, some to_ => copyPositions s from_ to_.2 (p.length % 128)
      | _, _ => s
    commitPages s id p.length

/-- Turns that wait for a prefix attach to it once it is READY. -/
def attachWaiting (s : State) (x : Nat) : State :=
  (sessionIds s (fun v => decide (v.pfx = some x) && v.positions == 0 && v.turn.isSome)).foldl
    (fun s id => attachPrefix s id x) s

/-! ## Parking (R236 to R239) -/

/-- Page slots of a park area: 2,101,248 bytes each. -/
def areaSlots (a : List (Nat × Nat)) : Nat := (a.map (fun r => r.2 / 2101248)).sum

/-- The `n` lowest park slots of a partition that are free. -/
def freeParkSlots (p : Partition) (n : Nat) : List Nat :=
  ((List.range (areaSlots p.parkArea)).filter (fun k => !p.parkUsed.contains k)).take n

/-- The session can be parked: it is IDLE, no turn has reserved it, and the area has a slot for every page that it
holds outside its prefix. -/
def canPark (s : State) (v : Session) : Bool :=
  decide (v.state = .idle) && !engaged v &&
    decide (v.pages.length ≤ (freeParkSlots (getPartition s v.partition) v.pages.length).length)

/-- Insertion by last use, oldest first, ids ascending between equals. -/
def insertByUse (x : Nat × Nat) : List (Nat × Nat) → List (Nat × Nat)
  | [] => [x]
  | y :: l => if x.2 < y.2 then x :: y :: l else y :: insertByUse x l

/-- IDLE sessions in the order in which they park: oldest use first. -/
def parkOrder (s : State) : List (Nat × Nat) :=
  ((s.serving.sessions.filter (fun kv => decide (kv.2.state = .idle))).map (fun kv => (kv.1, kv.2.lastUse))).foldr insertByUse []

/-- One session more of those that could park: the pages freed so far, and the park slots that they take, by partition. A session for
whose pages its partition's area has too few slots left is skipped (R237). -/
def parkMore (s : State) (own : Option Nat) (a : Nat × Table Nat) (id : Nat) : Nat × Table Nat :=
  let v := getSession s id
  let n := v.pages.length
  let taken := tget 0 a.2 v.partition
  let p := getPartition s v.partition
  if own = some id ∨ v.parkSkip ∨ canPark s v = false ∨ areaSlots p.parkArea < p.parkUsed.length + taken + n then a
  else (a.1 + n, tput 0 a.2 v.partition (taken + n))

/-- Pages that parking IDLE sessions would free (R249), the park areas permitting, oldest use first; the session that needs them keeps its
own. -/
def parkable (s : State) (own : Option Nat) : Nat := (((parkOrder s).map (·.1)).foldl (parkMore s own) (0, [])).1

/-- Pages that a new reservation, of a session or a prefix, can count on. -/
def availablePages (s : State) (own : Option Nat) : Nat := freePages s + parkable s own - reservedPages s

/-- The session's pages start to park: the first is OUTBOUND, and its slots are taken. A session without pages is
PARKED at once. -/
def startPark (s : State) (id : Nat) : State :=
  let v := getSession s id
  let p := getPartition s v.partition
  let slots := freeParkSlots p v.pages.length
  let s := putPartition s v.partition { p with parkUsed := p.parkUsed ++ slots }
  let ids := v.pages.map (·.2)
  match ids with
  | [] => putSession s id { v with state := .parked, lastUse := stamp s }
  | q :: _ =>
    let s := putPage s q { getPage s q with state := .outbound }
    putSession s id { v with state := .parking, outbound := slots }

/-- A parked session's pages start to come back. -/
def startUnpark (s : State) (id : Nat) : State :=
  modSession s id (fun v => { v with state := .unparking })

/-- Pages that an automatic park goes for: PARK_HIGH once the free ones are below PARK_LOW (R237), and in any case what accepted turns have
reserved (R249). -/
def parkGoal (s : State) : Nat := max (if freePages s < s.serving.parkLow then s.serving.parkHigh else 0) (reservedPages s)

/-- Sessions parked one after another while the pages free or being freed stay below the goal (R237). -/
def parkOldest (goal : Nat) : List (Nat × Nat) → Nat → State → State
  | [], _, s => s
  | (id, _) :: l, have_, s =>
    let v := getSession s id
    if goal ≤ have_ then s
    else if canPark s v && !v.parkSkip && !v.pages.isEmpty then parkOldest goal l (have_ + v.pages.length) (startPark s id)
    else parkOldest goal l have_ s

/-! ## The start of a turn (R233, R259, R273, R274) -/

/-- The segments of a prompt, a Sealed one's in clear. -/
def segsOf (p : Prompt) : List Segment :=
  match p with
  | .plain segs => segs
  | .sealedText _ _ _ _ segs => segs

/-- What some segments yield on a slot's tables: their ids. -/
def idsOf (s : State) (slot : Nat) (segs : List Segment) : List Nat :=
  match (getSlot s slot).body, (getSlot s slot).head with
  | some b, some h => segTokens h.root b.lettering segs
  | _, _ => []

/-- A session that holds no such key set has no prompt counter. A turn's own set may be the one before the last (R344). -/
def promptSeen (v : Session) (keySet : Nat) : Option Nat := if keySet = v.keySets then v.promptIv else v.oldPromptIv

/-- The highest accepted counter of a key set is raised (R367). -/
def raiseIv (v : Session) (keySet n : Nat) : Session :=
  if keySet = v.keySets then { v with promptIv := some n } else { v with oldPromptIv := some n }

/-- Both slots' LETTERING sections have equal chunk-tree leaves (R274): those of the chunks that the section spans. -/
def letteringLeaves (v : Slot) : List Digest :=
  match v.head, v.body.bind (fun b => b.sections.find? (fun x => x.type == 7)) with
  | some f, some x => (f.tree.take ((x.offset + x.length + 4194303) / 4194304)).drop (x.offset / 4194304)
  | _, _ => []

def sameLettering (s : State) (a b : Nat) : Bool := a == b || decide (letteringLeaves (getSlot s a) = letteringLeaves (getSlot s b))

/-- The bytes of some ids on a slot's tables (R274). -/
def bytesOf (s : State) (slot : Nat) (ids : List Nat) : List Byte :=
  match (getSlot s slot).body with
  | some b => detokenise b.lettering ids
  | none => []

/-- A Sealed prompt is accepted under a key set: the session has it, the prompt authenticates, and its counter is new (R367, R368). -/
def sealedOk (v : Session) (keySet : Nat) (p : Prompt) : Bool :=
  match p with
  | .plain _ => true
  | .sealedText n ok _ _ _ => keySet != 0 && ok &&
      (match promptSeen v keySet with | some last => decide (last < n) | none => true)

/-- What a prompt yields: nothing where it is not accepted (R273). -/
def promptIds (s : State) (v : Session) (slot keySet : Nat) (p : Prompt) : List Nat :=
  if sealedOk v keySet p then idsOf s slot (segsOf p) else []

/-- The history on a new slot: reused unchanged when the LETTERING sections are equal, otherwise tokenised anew (R274). -/
def historyFor (s : State) (v : Session) (slot : Nat) : List Nat :=
  if sameLettering s v.slot slot then v.history else idsOf s slot [.text (bytesOf s v.slot v.history)]

/-- Text bytes that a migration to a slot tokenises anew. -/
def againBytes (s : State) (v : Session) (slot : Nat) : Nat :=
  if mustMigrate s v slot && !(sameLettering s v.slot slot) then (bytesOf s v.slot v.history).length else 0

/-- Positions of a session that a turn on a slot prefills again, free of charge: the whole history after a migration (R215), else those
that were lost, or that an earlier turn did not come to (R231). -/
def againOf (s : State) (v : Session) (slot : Nat) : Nat :=
  if mustMigrate s v slot then (historyFor s v slot).length - bit v.pending else (v.history.length - bit v.pending) - v.positions

/-- The text that the lettering engine takes in, and the tokens that it makes of it, are counted (R275): not the ids of id segments. -/
def countText (s : State) (bytes tokens : Nat) : State :=
  let c := s.serving.lettering
  { s with serving := { s.serving with lettering := { c with
      bytesIn := sat 64 (c.bytesIn + bytes), tokensIn := sat 64 (c.tokensIn + tokens) } } }

def textSegs (segs : List Segment) : List Segment := segs.filter (fun g => match g with | .text _ => true | .ids _ => false)

/-- A prompt's text segments are tokenised on a slot. -/
def countPrompt (s : State) (slot : Nat) (p : Prompt) : State :=
  countText s (segTextBytes (segsOf p)) (idsOf s slot (textSegs (segsOf p))).length

/-- Positions of a prefix that are not yet prefilled. -/
def pfxLeft (p : Pfx) : Nat := if p.unwritten then p.length - p.prefilled else 0

/-- The turn begins on its slot: what it prefills and its first decode input are fixed. The session's own state
says whether pages must come back first; one that is PARKED without pages needs none. A session that binds to another image or adapter
epoch is re-prefilled from its whole token history (R215), so it reads a prefix's pages no longer. Of a session that is being parked,
only the page in OUTBOUND goes on (R256); a migration ends a park or unpark, and its command (log entry 44). A Sealed prompt that fails gives no token, and nothing of it is kept (R273). -/
def startTurn (s : State) (id slot : Nat) (kept : Turn) : State :=
  let v := getSession s id
  let ok := sealedOk v kept.keySet kept.ops.prompt
  let ids := promptIds s v slot kept.keySet kept.ops.prompt
  let migrate := mustMigrate s v slot
  let hist := if migrate then historyFor s v slot else v.history
  let base := if migrate then 0 else v.positions
  let seq := hist.drop base ++ ids
  let re := againOf s v slot
  let s := if ok then countPrompt s slot kept.ops.prompt else s
  let s := if againBytes s v slot = 0 then s else countText s (againBytes s v slot) hist.length
  let t := { kept with
    phase := if seq.length ≤ 1 then .decode else .prefill, slot := slot, epoch := (getSlot s slot).epoch,
    adapterEpoch := bindAdapter s v, prompt := seq.dropLast, input := seq.getLast?.getD 0, rePrefill := re,
    ledger := if kept.timed then seq.length - 1 + ((kept.place.map (fun x => pfxLeft (getPfx s x))).getD 0) else 0,
    oldPages := if migrate then v.pages.map (·.2) else [], place := none }
  let park := (v.state = .parked ∧ v.parked ≠ []) ∨ v.state = .parking ∨ v.state = .unparking
  let drop := migrate ∧ park
  let p := getPartition s v.partition
  let unused := if drop then v.parked.map (·.slot) ++ v.outbound else v.outbound.drop 1
  let s := putPartition s v.partition { p with parkUsed := p.parkUsed.filter (fun k => !(unused.contains k)) }
  let s := match (if migrate then v.pfx else none) with
    | some x => dropReader s x
    | none => s
  let v := match kept.ops.prompt with | .sealedText n true _ _ _ => if ok then raiseIv v kept.keySet n else v | _ => v
  let s := putSession s id { v with
    turn := some t, slot := slot, epoch := (getSlot s slot).epoch, adapterEpoch := bindAdapter s v,
    state := if park && !migrate then v.state else .turn, pages := if migrate then [] else v.pages,
    parked := if drop then [] else v.parked, outbound := if migrate then [] else v.outbound.take 1,
    pfx := if migrate then none else v.pfx,
    positions := base, pending := v.pending && !hist.isEmpty, lostFrom := none }
  let s := if migrate then setHistory s id hist else s
  let s := if drop then completeStarted (completeStarted s 0x0306 id 0x030B 0) 0x0307 id stSuccess v.pages.length else s
  let s := releaseOld s v.tenant
  let s := match (if migrate then v.pfx else none) with
    | some x => sweepPfx s x
    | none => s
  let s := if v.state = .parked ∧ park ∧ migrate = false then startUnpark s id else s
  let s := match kept.place with
    | some x =>
      let s := modSession s id (fun v => { v with pfx := some x })
      if (getPfx s x).unwritten then s else attachPrefix s id x
    | none => s
  if ok = false then
    endTurn { s with serving := { s.serving with lettering := { s.serving.lettering with
      authFailures := sat 32 (s.serving.lettering.authFailures + 1) } } } id 0x0F
  else if seq.isEmpty ∨ ((getSlot s slot).body.map (fun b => badToken b.lettering ids)).getD false then
    endTurn { s with serving := { s.serving with lettering := { s.serving.lettering with
      badTokens := sat 32 (s.serving.lettering.badTokens + 1) } } } id 0x08
  else s

/-! ## The admission round (R232) -/

/-- Cost of a piece of work, in tokens: a turn prefills its pending token, its prompt but the last token, and what it prefills again. -/
def costOf (s : State) (tenant : Nat) (w : Queued) : Nat :=
  let wt := (getTenant s tenant).weight
  match w with
  | .turn id =>
    match (getSession s id).turn with
    | some t =>
      let v := getSession s id
      let n := (bindSlot s v).getD v.slot
      let ids := promptIds s v n t.keySet t.ops.prompt
      ((bit v.pending + ids.length - 1 + againOf s v n) * wt + 255) / 256 + 1
    | none => 1
  | .pfx x => ((getPfx s x).tokens.length * wt + 255) / 256

/-- Whether a tenant's oldest piece of work is eligible. -/
def eligible (s : State) (tenant : Nat) : Option Queued :=
  let t := refill s.now (getTenant s tenant)
  match t.queue with
  | [] => none
  | w :: _ =>
    if t.level ≤ 0 then none
    else match w with
      | .pfx _ => some w
      | .turn id =>
        let v := getSession s id
        if decide (otherSequences s + timedReserve s < 256) && (bindSlot s v).isSome then some w else none

/-- Tenants of a partition with eligible work, in the round-robin order after the last one served. -/
def eligibleTenants (s : State) (p : Nat) : List Nat :=
  let ts := (s.serving.tenants.filter (fun kv => kv.2.registered && kv.2.partition == p && (eligible s kv.1).isSome)).map (·.1)
  let last := (getPartition s p).lastTenant
  ts.filter (fun t => decide (last < t)) ++ ts.filter (fun t => decide (t ≤ last))

/-- A piece of work leaves its queue and is admitted. -/
def acceptTurn (s : State) (tenant : Nat) (w : Queued) : State :=
  let s := unqueue s tenant w
  match w with
  | .turn id =>
    match (getSession s id).turn, bindSlot s (getSession s id) with
    | some t, some n => startTurn s id n t
    | _, _ => s
  | .pfx x => putPfx s x { getPfx s x with admitted := true }

/-- The inner loop of the round: a partition spends its deficit. -/
def spend (p : Nat) : Nat → State → State
  | 0, s => s
  | n + 1, s =>
    match eligibleTenants s p with
    | [] => putPartition s p { getPartition s p with deficit := 0 }
    | t :: _ =>
      match eligible s t with
      | none => s
      | some w =>
        let c := costOf s t w
        let q := getPartition s p
        if q.deficit < c then s
        else spend p n (acceptTurn (putPartition s p { q with deficit := q.deficit - c, lastTenant := t }) t w)

/-- Partitions in the round robin after the last one served. -/
def nextPartition (s : State) : Option Nat :=
  let from_ := s.serving.lastPartition
  ((List.range 16).map (fun i => (from_ + 1 + i) % 16)).find? (fun p => !(eligibleTenants s p).isEmpty)

/-- The levels of the tenants with work in their queues are brought up to date for the round's tests (R231). -/
def testLevels (s : State) : State :=
  { s with serving := { s.serving with
      tenants := tmap {} (fun _ t => if t.queue.isEmpty then t else refill s.now t) s.serving.tenants } }

/-- The round, with a bound on its turns: each turn of the loop gives a partition its quantum. -/
def round : Nat → State → State
  | 0, s => s
  | n + 1, s =>
    match nextPartition s with
    | none => s
    | some p =>
      let q := getPartition s p
      let s := putPartition s p { q with deficit := q.deficit + q.share * 256 }
      let s := { s with serving := { s.serving with lastPartition := p } }
      let work := (s.serving.tenants.map (fun kv => kv.2.queue.length)).sum
      round n (spend p (work + 1) s)

end Sys2Proof.Machine
end

