-- ==== Sys2Proof/Machine/Opcodes.lean ====
section
/-! DEFINITION. The opcodes of "Command Reference": codes, the queues that accept them (R319, R329 to R341), which
of them need MOD_READY (R326), and which are background commands (R328). -/

namespace Sys2Proof.Machine

def opIdentify : Opcode := { code := 0x0101, ready := false }
def opAdminReset : Opcode := { code := 0x0102, ready := false }
def opVellumLayout : Opcode := { code := 0x0103 }
def opFwStage : Opcode := { code := 0x0104, ready := false, bg := true }
def opFwHandover : Opcode := { code := 0x0105, ready := false, bg := true, boundary := true }
def opFaultAck : Opcode := { code := 0x0106, ready := false }
def opPartitionConfig : Opcode := { code := 0x0201 }
def opParkAreaSet : Opcode := { code := 0x0202 }
def opTimedRegimeSet : Opcode := { code := 0x0203 }
def opParkThresholdsSet : Opcode := { code := 0x0204 }
def opTenantRegister : Opcode := { code := 0x0301, admin := false, vf := true }
def opTenantDeregister : Opcode := { code := 0x0302, admin := false, vf := true }
def opReservoirSet : Opcode := { code := 0x0303, admin := false, vf := true }
def opSessionOpen : Opcode := { code := 0x0304, admin := false, vf := true }
def opSessionClose : Opcode := { code := 0x0305, admin := false, vf := true }
def opSessionPark : Opcode := { code := 0x0306, admin := false, vf := true }
def opSessionUnpark : Opcode := { code := 0x0307, admin := false, vf := true }
def opPrefixRegister : Opcode := { code := 0x0308, admin := false, vf := true }
def opPrefixRelease : Opcode := { code := 0x0309, admin := false, vf := true }
def opReqSubmit : Opcode := { code := 0x0401, admin := false, vf := true }
def opReqCancel : Opcode := { code := 0x0402, admin := false, vf := true }
def opFolioLoad : Opcode := { code := 0x0501, bg := true }
def opFolioUnload : Opcode := { code := 0x0502 }
def opImageSwitch : Opcode := { code := 0x0503 }
def opFolioExport : Opcode := { code := 0x0504 }
def opFolioExportEnd : Opcode := { code := 0x0505 }
def opAdapterLoad : Opcode := { code := 0x0506, bg := true }
def opAdapterSwap : Opcode := { code := 0x0507 }
def opCompatSwap : Opcode := { code := 0x0508, bg := true }
def opArithModeSet : Opcode := { code := 0x0509 }
def opExpertPin : Opcode := { code := 0x050A }
def opRefetchSource : Opcode := { code := 0x050B }
def opStencilLoad : Opcode := { code := 0x050C }
def opAdapterPin : Opcode := { code := 0x050D }
def opAdapterUnload : Opcode := { code := 0x050E }
def opPowerCapSet : Opcode := { code := 0x0601, boundary := true }
def opCapFloorSet : Opcode := { code := 0x0602 }
def opLatencyToleranceSet : Opcode := { code := 0x0603, boundary := true }
def opPowerRead : Opcode := { code := 0x0604, ready := false }
def opThermalAck : Opcode := { code := 0x0605, ready := false }
def opCartridgePrepare : Opcode := { code := 0x0606, bg := true }
def opCartridgeRestore : Opcode := { code := 0x0607, bg := true }
def opAttest : Opcode := { code := 0x0701, vf := true, ready := false }
def opPublisherRegister : Opcode := { code := 0x0702, ready := false }
def opPublisherRevoke : Opcode := { code := 0x0703, ready := false }
def opKeyExchangeStart : Opcode := { code := 0x0704, admin := false, vf := true, ready := false }
def opKeyExchangeFinish : Opcode := { code := 0x0705, admin := false, vf := true, ready := false }
def opMeasurementLogRead : Opcode := { code := 0x0706, ready := false }
def opCertRead : Opcode := { code := 0x0707, vf := true, ready := false }
def opReprovision : Opcode := { code := 0x0708, ready := false }
def opRecordRead : Opcode := { code := 0x0801, ready := false }
def opThresholdSet : Opcode := { code := 0x0802 }
def opBlotterRead : Opcode := { code := 0x0803, ready := false }
def opTensorUpload : Opcode := { code := 0x0804 }
def opStrokeLoad : Opcode := { code := 0x0805 }
def opDiagRun : Opcode := { code := 0x0806 }

/-- Every opcode. -/
def opcodeTable : List Opcode :=
  [opIdentify, opAdminReset, opVellumLayout, opFwStage, opFwHandover, opFaultAck] ++
  [opPartitionConfig, opParkAreaSet, opTimedRegimeSet, opParkThresholdsSet] ++
  [opTenantRegister, opTenantDeregister, opReservoirSet, opSessionOpen, opSessionClose, opSessionPark,
   opSessionUnpark, opPrefixRegister, opPrefixRelease, opReqSubmit, opReqCancel] ++
  [opFolioLoad, opFolioUnload, opImageSwitch, opFolioExport, opFolioExportEnd, opAdapterLoad, opAdapterSwap,
   opCompatSwap, opArithModeSet, opExpertPin, opRefetchSource, opStencilLoad, opAdapterPin, opAdapterUnload] ++
  [opPowerCapSet, opCapFloorSet, opLatencyToleranceSet, opPowerRead, opThermalAck, opCartridgePrepare,
   opCartridgeRestore] ++
  [opAttest, opPublisherRegister, opPublisherRevoke, opKeyExchangeStart, opKeyExchangeFinish, opMeasurementLogRead,
   opCertRead, opReprovision] ++
  [opRecordRead, opThresholdSet, opBlotterRead, opTensorUpload, opStrokeLoad, opDiagRun]

/-- The opcode of a code, if there is one. -/
def opcodeOf (code : Nat) : Option Opcode := opcodeTable.find? (fun o => o.code == code)

end Sys2Proof.Machine
end

