-- ==== Sys2Proof/Machine/Repair.lean ====
section
/-! DEFINITION. Shared operations of faults and repair (chapter 17, R62 to R64, R89, R143 to R145): the effective
placement under the variants in force, fencing, the covering of a loss, a lost site and a lost die. -/

namespace Sys2Proof.Machine

/-! ## The effective placement (R149, R435, R436) -/

/-- A slot whose steps can run (R198). -/
def slotLive (v : Slot) : Bool := decide (v.state = .active) || decide (v.state = .draining) || decide (v.state = .compat)

/-- The role that the base placement gives a cluster. -/
def baseRole (b : FolioBody) (u : Nat) : Role := ((b.clusters.find? (fun c => c.unit == u)).map (·.role)).getD .headroom

/-- A role that runs steps of a kind (R152). -/
def roleRuns (k : StepKind) (r : Role) : Bool :=
  match k, r with
  | .decode, .layer _ => true
  | .decode, .common => true
  | .prefill, .prefill => true
  | .draft, .common => true
  | _, _ => false

/-- A role that needs headroom when it is lost. -/
def needsCover (r : Role) : Bool :=
  match r with
  | .layer _ => true
  | .common => true
  | _ => false

/-- Clusters of a placement on the path of a step of a kind: those that hold a fitting role, and the headroom that stands in. -/
def pathIn (b : FolioBody) (inForce : List Variant) (k : StepKind) : List Nat :=
  let covered := inForce.flatMap (·.covers)
  ((b.clusters.filter (fun c => roleRuns k c.role && !(covered.contains c.unit))).map (·.unit)) ++
    (inForce.filter (fun w => w.covers.any (fun u => roleRuns k (baseRole b u)))).flatMap (·.claims)

def pathOf (v : Slot) (k : StepKind) : List Nat :=
  match v.body with
  | none => []
  | some b => pathIn b v.inForce k

/-- The compat swap under way that a step's epoch belongs to: its step runs the new image (R219). -/
def newImage (s : State) (st : Step) : Option Compat :=
  let v := getSlot s st.slot
  if v.state = .compat ∧ st.epoch = v.epoch then s.images.compat else none

/-- Islands on a step's path. -/
def stepPath (s : State) (st : Step) : List Nat :=
  match newImage s st with
  | some c => pathIn c.body c.inForce st.kind
  | none => pathOf (getSlot s st.slot) st.kind

/-- Every island of the step has sent its STEP_END (R114). -/
def islandsDone (s : State) (st : Step) : Bool := (stepPath s st).all (fun u => st.ended.contains u)

/-- The step in flight with a number. -/
def findStep (s : State) (n : Nat) : Option Step := s.serving.steps.find? (fun st => st.num == n)

def modStep (s : State) (n : Nat) (f : Step → Step) : State :=
  { s with serving := { s.serving with steps := modWhere (fun st => st.num == n) f s.serving.steps } }

/-- The image slot whose tables an island uses: that of the step it runs; between steps, the first that has tables there
(R208). -/
def runSlot (s : State) (u : Nat) : Nat :=
  match (getIsland s u).desc.bind (fun d => findStep s d.step) with
  | some st => st.slot
  | none => ((getIsland s u).tables.head?.map (·.1)).getD 0

/-- The tables of a cluster for a slot, and those of the step it runs. -/
def slotTables (s : State) (u n : Nat) : SlotTables := tget {} (getIsland s u).tables n
def runTables (s : State) (u : Nat) : SlotTables := slotTables s u (runSlot s u)

/-- The prefix entries of a step's rows. -/
def rowPrefixes (st : Step) : List Nat := st.rows.filterMap (fun r => match r.ref with | .pfx x => some x | .session _ => none)

/-- The sessions and prefixes that a step's rows name. -/
def rowSessions (st : Step) : List Nat :=
  st.rows.filterMap (fun r => match r.ref with | .session id => some id | .pfx _ => none)

/-- A step leaves flight: closing sessions that it named go (R141, R157). -/
def leaveFlight (s : State) (st : Step) : State :=
  let s := { s with serving := { s.serving with steps := s.serving.steps.filter (fun x => x.num != st.num) } }
  freeWaiting (notIdle ((rowSessions st).foldl finishClose s))

/-! ## Faulty steps (R439) -/

/-- Steps in flight that need a cluster must be replayed. -/
def markFaulty (s : State) (units : List Nat) : State :=
  { s with serving := { s.serving with steps := s.serving.steps.map (fun st =>
      if (stepPath s st).any (fun u => units.contains u && !(st.ended.contains u)) then { st with faulty := true, confined := false } else st) } }

/-- The last blotter entry's index: the cause that CLUSTER_FENCED names. -/
def lastIndex (s : State) : Nat := s.blotter.next - 1

/-! ## Variants (R435 to R437) -/

/-- Every unit of `a` is in `b`. -/
def within (a b : List Nat) : Bool := a.all b.contains

/-- Variants compose when the headroom they claim is disjoint, good, and not lost. -/
def composes (s : State) (inForce : List Variant) (lost : List Nat) (w : Variant) : Bool :=
  w.claims.all (fun u => clusterGood s u && !(lost.contains u) && !((inForce.flatMap (·.claims)).contains u))

/-- A variant for some units: it covers all that need cover, and nothing outside the loss. -/
def variantFor (s : State) (b : FolioBody) (inForce : List Variant) (lost needed : List Nat) : Option Variant :=
  b.variants.find? (fun w => !w.covers.isEmpty && within needed w.covers && within w.covers lost && composes s inForce lost w)

/-- The set in force after a loss, or `none` when no variant covers it. A variant whose headroom is lost is replaced. -/
def coverSet (s : State) (b : FolioBody) (inForce : List Variant) (lost : List Nat) : Option (List Variant) :=
  let hit := inForce.filter (fun w => w.claims.any lost.contains)
  let kept := inForce.filter (fun w => !(w.claims.any lost.contains))
  let covered := kept.flatMap (·.covers)
  let fresh := lost.filter (fun u => needsCover (baseRole b u) && !(covered.contains u) &&
    !((hit.flatMap (·.covers)).contains u))
  let groups := (if fresh.isEmpty then [] else [(fresh, lost)]) ++ hit.map (fun w => (w.covers, w.covers))
  groups.foldl (fun acc g => acc.bind (fun l => (variantFor s b l (lost ++ g.2) g.1).map (fun w => l ++ [w]))) (some kept)

/-- A variant of B-clusters, which need no headroom: taken when there is one. -/
def coverPrefill (s : State) (b : FolioBody) (inForce : List Variant) (lost : List Nat) : List Variant :=
  let covered := inForce.flatMap (·.covers)
  let units := lost.filter (fun u => decide (baseRole b u = .prefill) && !(covered.contains u))
  if units.isEmpty then inForce
  else match variantFor s b inForce lost units with
    | some w => inForce ++ [w]
    | none => inForce

/-- A row of the island: in its tiles' scratchpads, or in its slices. -/
def rowOfIsland (u k : Nat) : Bool :=
  (decide (scratchKey u 0 / 64 ≤ k) && decide (k < scratchKey (u + 16) 0 / 64)) ||
    (decide (sliceKey u 0 / 64 ≤ k) && decide (k < sliceKey (u + 1) 0 / 64))

/-- The clusters' scratchpads and WORK regions at zero (R94). -/
def clearIdle (s : State) (us : List Nat) : State :=
  let hit := fun (k : Nat) => us.any (fun u => rowOfIsland u k) &&
    (decide (k * 64 < sliceKey 0 0) || decide ((tget {} s.fabric.regions (k * 64 / 65536 * 8)).type = .work))
  { s with fabric := { s.fabric with
      sram := s.fabric.sram.filter (fun kv => !(hit (kv.1 / 64))),
      live := s.fabric.live.filter (fun kv => !(hit kv.1)),
      poisoned := s.fabric.poisoned.filter (fun kv => !(hit kv.1)) } }

/-- A cluster's scratchpads and WORK regions are cleared before other lists take them; a clear of it that still waits is
this one (R94, log entry 39). -/
def clearCluster (s : State) (u : Nat) : State :=
  let s := { s with serving := { s.serving with clears := s.serving.clears.filter (fun k => !decide (k = .scratch u)) } }
  let s := clearIdle s [u]
  let i := getIsland s u
  putIsland s u { i with mem := { i.mem with clearsDone := sat 32 (i.mem.clearsDone + 1) } }

/-- What a placement says of a cluster, as its router and tiles hold it: a ligature table has 1,024 entries (R57). -/
def planTables (c : ClusterPlan) : SlotTables :=
  { ligs := c.ligs.take 1024, tensors := c.tensors, role := c.role, boundary := c.boundary }

/-- An SRAM key of one cluster, moved to the same place of another. -/
def rebase (u v k : Nat) : Nat :=
  if k < sliceKey 0 0 then k - scratchKey u 0 + scratchKey v 0 else k - sliceKey u 0 + sliceKey v 0

/-! ## The halves of a stroke memory (R210) -/

/-- One half of a stroke memory holds a slot's list set. -/
def putHalf (i : Island) (h : Nat) (v : Option (Nat × Bool)) : Island :=
  if h = 0 then { i with half0 := v } else { i with half1 := v }

/-- The half that holds a slot in some form. -/
def halfOf (i : Island) (n : Nat) : Option Nat :=
  if i.half0.map (·.1) = some n then some 0 else if i.half1.map (·.1) = some n then some 1 else none

/-- The half that a slot may take: its own, else an empty one, else one that does not hold the other slot's resident form. -/
def idleHalf (i : Island) (n : Nat) : Nat :=
  match halfOf i n with
  | some h => h
  | none =>
    if i.half0.isNone then 0
    else if i.half1.isNone then 1
    else if i.half0 = some (1 - n, false) then 1 else 0

/-- Strokes written into one half of a tile's stroke memory. -/
def writeHalf (s : State) (tile h : Nat) (l : List (BitVec 128)) : State :=
  let size := strokesOf tile / 2
  let base := h * size
  let t := getTile s tile
  let kept := t.strokes.filter (fun kv => !(decide (base ≤ kv.1) && decide (kv.1 < base + size)))
  putTile s tile { t with strokes := (l.zipIdx).foldl (fun acc x => tput 0 acc (base + x.2) x.1) kept }

/-- A placement's lists of one tile in one form. -/
def listsOf (b : FolioBody) (tile : Nat) (streaming : Bool) : List TileList :=
  b.lists.filter (fun x => x.tile == tile && x.streaming == streaming)

/-- The list set of one cluster of a placement, in one form, written into a half of a cluster's tiles (its own, or those of headroom
that stands in), with their DMA descriptor tables (R69, R91); the half map names it. -/
def writeSet (s : State) (n u v h : Nat) (b : FolioBody) (streaming : Bool) : State :=
  let s := (clusterTiles u).foldl (fun s t =>
    let l := listsOf b t streaming
    let s := writeHalf s (t - u + v) h (l.flatMap (·.strokes))
    let x := getTile s (t - u + v)
    let kept := x.dmaTable.filter (fun kv => kv.1 / 64 != h)
    putTile s (t - u + v) { x with dmaTable := (l.flatMap (·.dma)).foldl (fun tb e => tput 0 tb (h * 64 + e.1 % 64) e.2) kept }) s
  putIsland s v (putHalf (getIsland s v) h (some (n, streaming)))

/-- A step in flight on the island uses the half: one that runs there, or one that still has to begin (R210). -/
def halfBusy (s : State) (u h : Nat) : Bool :=
  let i := getIsland s u
  (i.desc.toList ++ i.posted).any (fun d => match findStep s d.step with
    | some st => halfOf i st.slot == some h
    | none => false)

/-- A list set is written into an idle half; a half in use that holds the same set keeps it (R210). -/
def placeSet (s : State) (n u v h : Nat) (b : FolioBody) (streaming : Bool) : State :=
  let i := getIsland s v
  if halfBusy s v h && (if h = 0 then i.half0 else i.half1) == some (n, streaming) then s else writeSet s n u v h b streaming

/-- The form in which a slot's lists stand, or are to stand, on an island. -/
def formOn (s : State) (n u : Nat) : Bool :=
  match [(getIsland s u).half0, (getIsland s u).half1].find? (fun h => h.map (·.1) == some n) with
  | some (some x) => x.2
  | _ => (getSlot s n).streaming

/-! ## Seats of the map in force (R150, R190) -/

/-- The cluster that stands in for one under the variants in force, or itself. -/
def standIn (v : Slot) (u : Nat) : Nat :=
  match v.inForce.find? (fun w => w.covers.contains u) with
  | some w => w.claims.getD (w.covers.idxOf u) u
  | none => u

/-- The image root of a slot. -/
def slotRoot (s : State) (n : Nat) : Digest :=
  match (getSlot s n).head with
  | some h => h.root
  | none => 0

/-- The root of the image that a step runs on. -/
def stepRoot (s : State) (st : Step) : Digest := match newImage s st with | some c => c.head.root | none => slotRoot s st.slot

/-- A master image as it is read: its root, and the content key of a DEVICE_WRAPPED Folio. -/
abbrev MasterKey := Digest × Option (BitVec 256)

/-- The master image of a slot. -/
def slotImage (s : State) (n : Nat) : MasterKey := (slotRoot s n, (getSlot s n).contentKey)

/-- The master image that a compat swap brings. -/
def compatImage (c : Compat) : MasterKey := (c.head.root, c.contentKey)

/-- A byte of a chunk area as the master image holds it: a DEVICE_WRAPPED Folio's chunks are decrypted with AES-256 in CTR mode, on the
counter block of R361. -/
def masterByte (m : MasterKey) (x : Nat) : Byte :=
  let file := Config.storedByte m.1.toNat x
  match m.2 with
  | some key => file ^^^ Config.aesByte key (leBytes 8 (x / 4194304) ++ leBytes 8 (x % 4194304 / 16)) (x % 16)
  | none => file

/-- The image that a layer of a slot holds, and the layer's plan: under a compat swap, the new one from the layer's rewrite on (R219). -/
def layerImage (s : State) (n l : Nat) : Option (MasterKey × LayerPlan) :=
  let v := getSlot s n
  let plan (b : FolioBody) : Option LayerPlan := b.layers.find? (fun p => p.layer == l)
  match s.images.compat with
  | some c =>
    if v.state = .compat ∧ c.layersDone.contains l = true then (plan c.body).map (fun p => (compatImage c, p))
    else (v.body.bind plan).map (fun p => (slotImage s n, p))
  | none => (v.body.bind plan).map (fun p => (slotImage s n, p))

/-- The plan of a layer, in the image that it holds. -/
def planOf (s : State) (n l : Nat) : Option LayerPlan := (layerImage s n l).map (·.2)

/-- Bytes of an expert's copy in the master image, from a byte of the copy on. -/
def imageBytes (s : State) (n l e from_ len : Nat) : List Byte :=
  match layerImage s n l with
  | some (m, p) => (List.range len).map (fun j => masterByte m (p.imageAt + e * p.coldUnits * 64 + from_ + j))
  | none => List.replicate len 0#8

/-- The parts of a seat of a layer, as the placement lays it out (R150), with the headroom that stands in for a covered cluster. -/
def seatParts (s : State) (n l seat : Nat) : List SeatPart :=
  match planOf s n l with
  | some p => (p.seatParts.filter (fun x => x.seat == seat)).map (fun x => { x with cluster := standIn (getSlot s n) x.cluster })
  | none => []

/-- Seats that the map in force gives to another expert than the placement's initial residency did are filled from the master image
(R190), in some of the clusters. -/
def refillSeats (s : State) (n : Nat) (at_ : Nat → Bool) : State :=
  let v := getSlot s n
  v.layers.foldl (fun s r =>
    match planOf s n r.layer with
    | none => s
    | some p =>
      (r.experts.zipIdx.filter (fun x => x.1.hot && !(p.seats.contains (x.2, x.1.place)))).foldl (fun s x =>
        ((seatParts s n r.layer x.1.place).filter (fun y => at_ y.cluster)).foldl (fun s y =>
          let b := imageBytes s n r.layer x.2 y.start y.bytes
          { s with fabric := { s.fabric with sram := mwrite s.fabric.sram (sliceKey y.cluster y.addr) b } }) s) s) s

/-! ## Types of frames and regions (R84) -/

/-- The key in `Fabric.regions` of a frame of a tile 0 to 15, or of a slice region for 16. -/
def frameKey (u : Nat) (x : Nat × Nat) : Nat :=
  if x.1 < 16 then (Place.scratch (u + x.1) (x.2 * (if isQDie (unitDie u) then 8192 else 32768))).region
  else (Place.slice u (x.2 * 65536)).region

/-- The frames and regions that a placement types in a cluster. -/
def typedKeys (p : ClusterPlan) : List Nat := p.shared.map (frameKey p.unit) ++ p.adapters.map (fun x => frameKey p.unit (16, x))

/-- Frames and regions of an island: SHARED and ADAPTER where the placement says so, WORK elsewhere; an ADAPTER region keeps its
owner, which the scribe sets (R84). -/
def setRegions (s : State) (p : ClusterPlan) : State :=
  let kept := s.fabric.regions.filter (fun kv =>
    !(rowOfIsland p.unit (kv.1 * 128)) || decide (kv.2.type = .adapter) || kv.2.retired)
  let keyOf := frameKey p.unit
  { s with fabric := { s.fabric with
      regions := (p.adapters.map (fun x => (16, x))).foldl (fun t x => tput {} t (keyOf x) { tget {} t (keyOf x) with type := .adapter })
        (p.shared.foldl (fun t x => tput {} t (keyOf x) { tget {} t (keyOf x) with type := .shared }) kept) } }

/-! ## Headroom that stands in -/

/-- No placement has a part on the cluster: headroom that does not stand in yet. -/
def bareHeadroom (s : State) (u : Nat) : Bool := (getIsland s u).tables.all (fun kv => decide (kv.2.role = .headroom))

/-- Headroom stands in for one covered cluster: its own lists give way, so that it is cleared (R94), unless it stands in already; it
takes the cluster's list set, its part of the slot's placement, its boundary frames and the steps that waited there, and in resident form
the types of its frames and regions (R84), its weights, and the seats of the map in force. -/
def coverWith (s : State) (n : Nat) (b : FolioBody) (c : ClusterPlan) (v : Nat) : State :=
  let u := c.unit
  let form := formOn s n u
  let s := if bareHeadroom s v then clearCluster s v else s
  let old := getIsland s u
  let s := if form then s
    else
      let s := setRegions s { c with unit := v }
      refillSeats { s with fabric := { s.fabric with
        sram := (b.sram.filter (fun x => rowOfIsland u (x.1 / 64))).foldl (fun m x => mwrite m (rebase u v x.1) x.2) s.fabric.sram } }
        n (fun y => y == v)
  let s := writeSet s n u v (idleHalf (getIsland s v) n) b form
  let i := getIsland s v
  let mine (d : Desc) : Bool := match findStep s d.step with | some st => st.slot == n | none => false
  let waiting := ((old.desc.map (fun d => [d])).getD [] ++ old.posted).filter mine
  let s := putIsland s v { i with
    running := true, tables := tput {} i.tables n (planTables c), frames := i.frames ++ old.frames, posted := i.posted ++ waiting }
  putIsland s u { getIsland s u with
    frames := [], desc := if (old.desc.map mine).getD false then none else old.desc, posted := old.posted.filter (fun d => !(mine d)) }

/-- A repair variant puts the clusters that it covers, in order, into the headroom that it claims. -/
def moveTables (s : State) (n : Nat) (b : FolioBody) (w : Variant) : State :=
  (w.covers.zip w.claims).foldl (fun s p =>
    match b.clusters.find? (fun c => c.unit == p.1) with
    | some c => coverWith s n b c p.2
    | none => s) s

/-! ## Missing chunks (R222) -/

/-- A chunk of some section types is missing. -/
def sectionMissing (v : Slot) (types : List Nat) : Bool :=
  match v.body with
  | none => !v.missing.isEmpty
  | some b => b.sections.any (fun x => types.contains x.type &&
      v.missing.any (fun c => decide (x.offset < (c + 1) * 4194304) && decide (c * 4194304 < x.offset + x.length)))

/-- Variants join the set in force: their headroom is filled from the image at once, or when no chunk of the repair variants or of
the SRAM share is missing (R222). -/
def enforce (s : State) (n : Nat) (b : FolioBody) (l : List Variant) : State :=
  let v := getSlot s n
  let added := l.filter (fun w => !(v.inForce.contains w))
  if sectionMissing v [3, 5] then putSlot s n { v with inForce := l, owed := v.owed.filter l.contains ++ added }
  else added.foldl (fun s w => moveTables s n b w) (putSlot s n { v with inForce := l })

/-- No variant covers the loss (R437): the slot issues no further step, and its turns end with FAULT. -/
def noVariant (s : State) (n unit : Nat) : State :=
  let s := note s 0x0605 4 0xFFFF unit n
  let s := putSlot s n { getSlot s n with noVariant := true }
  endTurns s (fun v => match v.turn with | some t => t.slot == n && admitted t | none => false) 0x0E

/-- A loss on one slot: a covering variant joins the set in force, or NO_VARIANT. -/
def coverSlot (s : State) (n unit : Nat) (lost : List Nat) : State :=
  let v := getSlot s n
  match (if slotLive v then v.body else none) with
  | none => s
  | some b =>
    match coverSet s b v.inForce lost with
    | none => noVariant s n unit
    | some l =>
      enforce s n b (coverPrefill s b l lost)

/-- A loss of clusters on both slots. -/
def coverLoss (s : State) (unit : Nat) (lost : List Nat) : State := coverSlot (coverSlot s 0 unit lost) 1 unit lost

/-! ## Fencing (R64, R440) -/

/-- The island stops: what it waited for is dropped, and its partial results with it. -/
def stopIsland (i : Island) : Island :=
  { i with
    running := false, gate := none, stalled := none, heldPartial := none, partials := [], windows := [], deferred := [],
    merging := [], counts := [], energyMj := 0 }

/-- The transfers on their way to a cluster that is fenced are refused, and held at their die boundaries; a producer that stalled for
its acknowledgement goes on (R64). -/
def refuseTo (s : State) (u : Nat) : State :=
  let here (t : Transfer) : Bool := clusterOf t.consumer == u
  let hit := s.fabric.inFlight.filter here
  let s := { s with fabric := { s.fabric with
      inFlight := s.fabric.inFlight.filter (fun t => !(here t)), refused := s.fabric.refused ++ hit } }
  hit.foldl (fun s t =>
    let c := clusterOf t.producer
    let i := getIsland s c
    if i.stalled = some t.crossing ∧ i.heldPartial.isNone then putIsland s c { i with stalled := none } else s) s

/-- A cluster is fenced, with CLUSTER_FENCED and its cause, and Timed turns are forfeited with FAULT (R254). -/
def fenceOnly (s : State) (u cause : Nat) : State :=
  let i := getIsland s u
  if i.fenced then s
  else
    let s := markFaulty s [u]
    let s := refuseTo (putIsland s u { stopIsland i with fenced := true }) u
    mapChanged (forfeitAll (note s 0x0104 4 u 0 cause) 6)

/-- A dead cluster: fenced, covered by a variant, its steps to be replayed. -/
def fenceCluster (s : State) (u cause : Nat) : State :=
  if (getIsland s u).fenced then s else coverLoss (fenceOnly s u cause) u [u]

/-- A cluster moved at a step boundary, with no replay: fenced for its ceiling (R440), or parked for two failed segments
(R441). -/
def retireCluster (s : State) (u : Nat) (fence : Bool) : State :=
  let i := getIsland s u
  if i.fenced || i.parked then s
  else
    let s := if fence then note s 0x0104 4 u 0 (lastIndex s) else s
    let s := putIsland s u { i with running := false, fenced := fence, parked := !fence }
    coverLoss (mapChanged (forfeitAll s 6)) u [u]

/-- Every cluster that waits for the step boundary. -/
def retireDue (s : State) : State :=
  let l := s.power.retiring
  l.foldl (fun s p => retireCluster s p.1 p.2) { s with power := { s.power with retiring := [] } }

/-! ## Lost sites (R145, R220, R443, R444) -/

/-- The lowest logical page of a session on a site. -/
def lowestOn (site : Nat) (l : List (Nat × Nat)) : Option Nat :=
  ((l.filter (fun q => pageSite q.2 == site)).map (·.1)).foldl (fun m x => match m with
    | none => some x
    | some y => some (min x y)) none

/-- A session loses its pages from a logical page on, and will prefill their positions anew (R444). A turn that
decodes or prefills does so at once. -/
def rewindSession (s : State) (id logical : Nat) : State :=
  let v := getSession s id
  let gone := (v.pages.filter (fun q => decide (logical ≤ q.1))).map (·.2)
  let keep := min v.positions (logical * 128)
  let again := (v.history.drop keep).take (v.positions - keep)
  let s := discardRows s (.session id)
  let s := putSession s id { v with
    pages := v.pages.filter (fun q => decide (q.1 < logical)), positions := keep,
    lostFrom := if engaged v then v.lostFrom else some logical,
    turn := v.turn.map (fun t => if t.phase = .queued then t else { t with
      phase := if again.isEmpty && t.prompt.isEmpty then t.phase else .prefill,
      prompt := again ++ t.prompt, rePrefill := t.rePrefill + again.length, step := none,
      proposals := [], draftEnded := false, reserved := t.reserved + gone.length }) }
  freePagesOf s gone

/-- The row that a session has in a step in flight is discarded; its turn may join a later step again. -/
def pullRow (s : State) (id : Nat) : State :=
  if inStep s id then
    modTurn (discardRows s (.session id)) id (fun t => { t with step := none, proposals := [], draftEnded := false })
  else s

/-- The sessions that read a prefix's pages of its present epoch. -/
def readersOf (s : State) (x : Nat) : List Nat :=
  sessionIds s (fun v => decide (v.pfx = some x) && v.epoch == (getPfx s x).epoch)

/-- A prefix entry loses its pages from a logical page on, and prefills them again, free of charge as far as it had been (R231, R444).
Rows of its readers wait for it. -/
def rewindPfxFrom (s : State) (x l : Nat) : State :=
  let v := getPfx s x
  let s := discardRows ((readersOf s x).foldl pullRow s) (.pfx x)
  let s := freePagesOf s (v.pages.drop l)
  putPfx s x { v with
    state := if v.state = .releasing then .releasing else .prefilling, pages := v.pages.take l,
    prefilled := min v.prefilled (l * 128), admitted := true, free := max v.free v.prefilled, step := none }

/-- A prefix entry with a page on the site is prefilled again from that page on. -/
def rewindPfx (s : State) (x site : Nat) : State :=
  match lowestOn site ((getPfx s x).pages.zipIdx.map (fun q => (q.2, q.1))) with
  | none => s
  | some l => rewindPfxFrom s x l

/-- The chunks of a slot that lie on a site (R136, R221). -/
def chunksOn (v : Slot) (site : Nat) : List Nat :=
  match v.head with
  | none => []
  | some h => (List.range h.chunkCount).filter (fun c =>
      (match v.relocated.find? (fun kv => kv.1 == c) with | some kv => kv.2.1 | none => chunkSite c) == site)

/-- The chunks of a slot are lost with a site: they are to be fetched again, and the host confirms its source. -/
def loseChunks (s : State) (n site : Nat) : State :=
  let v := getSlot s n
  let lost := (chunksOn v site).filter (fun c => v.verified.contains c)
  if v.state = .empty ∨ lost.isEmpty then s
  else
    let s := putSlot s n { v with
      missing := v.missing ++ lost.filter (fun c => !(v.missing.contains c)),
      missingAt := if v.missing.isEmpty then s.now else v.missingAt }
    postEvent s 0 5 (n + 4294967296 * lost.length)

/-- A version that is no longer held anywhere. -/
def absentVer (w : AdapterVer) : AdapterVer := { w with present := false, extents := [] }

/-- The adapter versions held on a site are absent, and the host is asked to load them again. -/
def loseAdapters (s : State) (site : Nat) : State :=
  let hit := (s.serving.tenants.filter (fun kv => kv.2.versions.any (fun w => w.site == site && w.present))).map (·.1)
  hit.foldl (fun s t =>
    let v := getTenant s t
    let s := putTenant s t { v with versions := v.versions.map (fun w => if w.site = site then absentVer w else w) }
    postEvent s 0 8 t) s

/-! ## Cold-copy areas (R154, R443) and the reserve (R136) -/

/-- The areas of the live slots that lie on a site. -/
def areasOn (s : State) (d : Nat) : List ColdArea :=
  [0, 1].flatMap (fun n => if slotLive (getSlot s n) then (getSlot s n).areas.filter (fun a => a.site == d) else [])

/-- Units and bytes of one cold copy of a layer, in a slot (R154). -/
def copyUnits (v : Slot) (l : Nat) : Nat := match v.layers.find? (fun r => r.layer == l) with | some r => r.coldUnits | none => 0

/-- Granules that an area touches, as a run. -/
def areaRun (v : Slot) (a : ColdArea) : Nat × Nat :=
  let n := a.slots * copyUnits v a.layer
  (a.base / granuleUnits, (a.base % granuleUnits + n + granuleUnits - 1) / granuleUnits)

/-- The reserve granules of the chunks that are relocated to a site (R221). -/
def relocatedRuns (s : State) (d : Nat) : List (Nat × Nat) :=
  ((s.images.a.relocated ++ s.images.b.relocated).filter (fun kv => kv.2.1 == d)).map (fun kv => (kv.2.2, 2))

/-- Runs of a site's reserve that cold copies, draft pages and relocated chunks take, in rising order. -/
def reserveRuns (s : State) (d : Nat) : List (Nat × Nat) :=
  let cold := [0, 1].flatMap (fun n =>
    let v := getSlot s n
    if slotLive v then (v.areas.filter (fun a => a.site == d)).map (areaRun v) else [])
  sortRuns (cold ++ (s.serving.draftPages.filter (fun p => p.site == d)).map (fun p => (p.granule, 1)) ++ relocatedRuns s d)

/-- Granules of a site's reserve that no cold copy, draft page, remapped granule or relocated chunk takes. -/
def spareGranules (s : State) (d : Nat) : Nat :=
  reserveGranules s.vellum.layout d -
    (((reserveRuns s d).map (·.2)).sum + (tget [] s.nvm.remaps d).length)

/-- The first run of `n` free granules in a site's reserve. -/
def reserveRun (s : State) (d n : Nat) : Option Nat :=
  let r := regionSpan s d .cold
  if n ≤ spareGranules s d then
    ((gapsIn (r.1 + r.2) (reserveRuns s d) r.1).find? (fun g => decide (n ≤ g.2))).map (·.1)
  else none

/-- A site holds what is placed on it. -/
def siteTakes (s : State) (d : Nat) : Bool :=
  let v := getSite s d
  !v.lost && !v.untrained && !v.emptied

/-- One expert's cold copy is written from the master image, in its place in the area. -/
def writeCopy (s : State) (n : Nat) (a : ColdArea) (e place : Nat) : State :=
  let units := copyUnits (getSlot s n) a.layer
  writeUnits s a.site (a.base + place * units) (imageBytes s n a.layer e 0 (units * 64))

/-- The experts of a layer that have a cold copy, each with the slot that holds it. -/
def coldExperts (v : Slot) (l : Nat) : List (Nat × Nat) :=
  match v.layers.find? (fun r => r.layer == l) with
  | some r => r.experts.zipIdx.filterMap (fun x => if x.1.hot then none else some (x.2, x.1.place))
  | none => []

/-- Every cold copy of an area is written from the master image. -/
def writeArea (s : State) (n : Nat) (a : ColdArea) : State :=
  (coldExperts (getSlot s n) a.layer).foldl (fun s x => writeCopy s n a x.1 x.2) s

/-- Areas that are being rebuilt are complete once no chunk of WEIGHTS_VELLUM is missing (R222). -/
def finishAreas (s : State) (n : Nat) : State :=
  let v := getSlot s n
  if sectionMissing v [6] then s
  else
    let due := v.areas.filter (fun a => !a.ready)
    due.foldl (fun s a => writeArea s n a) (putSlot s n { v with areas := v.areas.map (fun a => { a with ready := true }) })

/-- The areas of a slot on a site are to be rebuilt in the reserve of the nearest Q-die site, the lower die index first between equal
distances; the run there is the first that is free (log entry 43). -/
def moveAreas (s : State) (n d : Nat) : State :=
  let v := getSlot s n
  (v.areas.filter (fun a => a.site == d)).foldl (fun s a =>
    let len := (areaRun v a).2
    let order := sortBy (fun x y => decide (hops d x ≤ hops d y)) qSites
    match order.findSome? (fun e => if siteTakes s e && e != d then (reserveRun s e len).map (fun g => (e, g)) else none) with
    | some (e, g) =>
      let w := getSlot s n
      let b : ColdArea := { a with site := e, base := g * granuleUnits, ready := false }
      putSlot s n { w with areas := modWhere (fun x => x.layer == a.layer) (fun _ => b) w.areas }
    | none =>
      let w := getSlot s n
      putSlot s n { w with areas := modWhere (fun x => x.layer == a.layer) (fun x => { x with ready := false }) w.areas }) s

/-- The copies of both slots' headers, colophons and trees on a site are lost with it (R197). -/
def loseCopies (s : State) (d : Nat) : State :=
  let drop (v : Slot) : Slot := { v with copies := v.copies.filter (fun x => x != d) }
  { s with images := { s.images with a := drop s.images.a, b := drop s.images.b } }

/-- The S-die, its site, or a block of it is lost: service ends (R145, R442). -/
def sdieLost (s : State) (address : Nat) : State :=
  let s := forfeitAll s 6
  let s := report s { code := 0x0702, cls := 6, source := address, address := address }
  { s with board := { s.board with modReady := false, phase := .stopped } }

/-- Sessions with pages on a site, and prefix entries. -/
def rewindAll (s : State) (site : Nat) : State :=
  let ids := sessionIds s (fun v => (lowestOn site v.pages).isSome)
  let s := ids.foldl (fun s id => match lowestOn site (getSession s id).pages with
    | some l => rewindSession s id l
    | none => s) s
  (s.serving.prefixes.map (·.1)).foldl (fun s x => rewindPfx s x site) s

/-- A fault of a step: confined to pages of sessions while every fault of it is (R254). -/
def faultIn (confined : Bool) (st : Step) : Step :=
  { st with faulty := true, confined := confined && (!st.faulty || st.confined) }

/-- Steps in flight that hold a discarded row of some run again without it. -/
def markDiscarded (s : State) (mine : StepRow → Bool) (confined : Bool) : State :=
  { s with serving := { s.serving with steps := s.serving.steps.map (fun st =>
      if st.rows.any (fun r => r.discarded && mine r) then faultIn confined st else st) } }

/-- A site is lost, with a cause: 1 supply, 2 cartridge, 3 remap table full, 4 second array failed. -/
def siteLost (s : State) (d cause : Nat) : State :=
  if (getSite s d).lost then s
  else
    let s := putSite s d { getSite s d with lost := true, copying := [], writeBacks := [] }
    let s := mapChanged (forfeitAll (note s 0x0207 4 (siteUnit d) 0 cause) 6)
    if d = sDie then sdieLost s (siteUnit d)
    else
      let before := s.serving.steps
      let s := rewindAll s d
      let s := if decide (s.serving.steps = before) then s else markDiscarded s (fun _ => true) false
      let s := loseCopies (loseChunks (loseChunks (loseAdapters s d) 0 d) 1 d) d
      finishAreas (finishAreas (moveAreas (moveAreas s 0 d) 1 d) 0) 1

/-- A die goes dark with its site (R34, R442): cause 1 e-fuse, 2 presence lost. DIE_SUPPLY is written already. -/
def darkenDie (s : State) (d cause : Nat) : State :=
  if s.map.darkDies.contains d then s
  else if d = sDie then
    let s := putSite s d { getSite s d with lost := true, copying := [], writeBacks := [] }
    let s := { s with map := { s.map with darkDies := s.map.darkDies ++ [d] } }
    mapChanged (note s 0x0207 4 (siteUnit d) 0 cause)
  else
    let us := dieClusters d
    let s := markFaulty s us
    let s := us.foldl (fun s u => putIsland s u { stopIsland (getIsland s u) with fenced := true, dark := true }) s
    let s := { s with map := { s.map with darkDies := s.map.darkDies ++ [d] } }
    let s := mapChanged (forfeitAll s 6)
    coverLoss (siteLost s d cause) (mkUnit d 0 0) us

/-- The S-die is dark: the link is down, and what its control complex held is lost: rings, sessions, the root. The blotter's entries
stand, as the records of what happened (log entry 24). -/
def sdieDark (s : State) : State :=
  { s with link := {}, mailbox := {}, serving := {}, trust := { s.trust with root := none, storeKey := none, keyStore := none, storeCopy := none } }

/-- DIE_SUPPLY of a cartridge, and its dies that go dark. With the S-die, or with its neighbour on cartridge 8, service ends (R33,
R442). -/
def diesLost (s : State) (dies : List Nat) (cartridge cause : Nat) : State :=
  let s := note s 0x0306 4 0xFFFF cartridge cause
  let s := dies.foldl (fun s d => darkenDie s d cause) s
  if cartridge = 8 then
    let s := sdieLost s (mkUnit sDie 0 0)
    if dies.contains sDie then sdieDark s else s
  else s

end Sys2Proof.Machine
end

