-- ==== Sys2Proof/Machine/Operands.lean ====
section
/-! DEFINITION. The operand forms of strokes and DMA: places in SRAM, row reads and writes with the checks of R84 to R89,
vector registers, accumulators, step descriptor words, and the frame that every stroke issues in (R73 to R77). -/

namespace Sys2Proof.Machine

/-! ## Regions (R84) -/

def regionAt (s : State) (p : Place) : RegionInfo := tget {} s.fabric.regions p.region

/-- The code of a region type, in the row order of R84. -/
def regionCode (t : RegionType) : Nat :=
  match t with
  | .shared => 0 | .work => 1 | .adapter => 2

/-! ## The step that an island runs -/

/-- Tenants named in the descriptor of the step that a cluster runs (R86). -/
def stepTenants (s : State) (cluster : Nat) : List Nat :=
  match (getIsland s cluster).desc.bind (fun d => findStep s d.step) with
  | some st => st.rows.map (·.tenant)
  | none => []

/-- Reference mode of the step that a cluster runs (R122). -/
def inReference (s : State) (cluster : Nat) : Bool :=
  (((getIsland s cluster).desc.bind (fun d => findStep s d.step)).map (·.reference)).getD false

/-- A word of the island's descriptor copy (R153). -/
def descWord (s : State) (cluster w : Nat) : Nat := ((getIsland s cluster).desc.map (fun d => tget 0 d.words w)).getD 0

/-- Counts of a tensor in the island's current step (R114). -/
def countIn (s : State) (cluster tensor : Nat) (c : Counts) : State :=
  let i := getIsland s cluster
  if c = {} then s
  else
    let here := fun (x : Nat × Counts) => x.1 == tensor
    putIsland s cluster { i with
      counts := if i.counts.any here then modWhere here (fun x => (x.1, addCounts x.2 c)) i.counts
        else i.counts ++ [(tensor, c)] }

/-! ## Counters -/

def modMem (s : State) (cluster : Nat) (f : MemCounters → MemCounters) : State :=
  let i := getIsland s cluster
  putIsland s cluster { i with mem := f i.mem }

def modNet (s : State) (cluster : Nat) (f : NetCounters → NetCounters) : State :=
  let i := getIsland s cluster
  putIsland s cluster { i with net := f i.net }

/-- A cluster's report to the blotter leaves it as one flit of the control channel (R50, R67, log entry 40). -/
def reportFlit (s : State) (cluster : Nat) : State := modNet s cluster (fun c => { c with flitsOut := sat 64 (c.flitsOut + 1) })

/-- An access that R86 does not perform: AUX 0 write, 1 read, 2 DMA. One for each row of a stroke's access that is kept from
it, and one for a refused descriptor (DESIGN CHOICE, log entry 40). -/
def isolationFault (s : State) (p : Place) (aux : Nat) : State :=
  let s := reportFlit (note s 0x0105 3 p.cluster p.row aux) p.cluster
  modMem s p.cluster (fun m => { m with isolationFaults := sat 32 (m.isolationFaults + 1) })

/-! ## Rows (R85, R86) -/

/-- A region of a tenant that the running step does not name. An ADAPTER region without an owner is nobody's, so no step names
its owner (DESIGN CHOICE, log entry 40). -/
def foreign (s : State) (p : Place) (runner : Nat) : Bool :=
  let r := regionAt s p
  decide (r.type = .adapter) && !((stepTenants s runner).contains r.owner)

/-- What a row read returns. -/
structure RowRead where
  bytes : List Byte
  poisoned : Bool
  state : State

/-- Sixty-four zero bytes. -/
def zeroRow : List Byte := List.replicate 64 0#8

/-- The bytes of a row. -/
def rowBytes (s : State) (p : Place) : List Byte := mread s.fabric.sram p.key 64

/-- A stroke's read of a row: zeros for a foreign region, and for a WORK row whose live bit is clear. -/
def readRow (s : State) (runner : Nat) (p : Place) : RowRead :=
  if foreign s p runner then { bytes := zeroRow, poisoned := false, state := isolationFault s p 1 }
  else if (regionAt s p).type = .work ∧ tget false s.fabric.live (p.key / 64) = false then
    { bytes := zeroRow, poisoned := false,
      state := modMem s p.cluster (fun m => { m with unwrittenReads := sat 32 (m.unwrittenReads + 1) }) }
  else { bytes := rowBytes s p, poisoned := tget false s.fabric.poisoned (p.key / 64), state := s }

/-- `n` rows in order. -/
def readRows (s : State) (runner : Nat) (p : Place) : Nat → RowRead
  | 0 => { bytes := [], poisoned := false, state := s }
  | n + 1 =>
    let r := readRow s runner p
    let r' := readRows r.state runner (p.next 1) n
    { bytes := r.bytes ++ r'.bytes, poisoned := r.poisoned || r'.poisoned, state := r'.state }

/-- The row's bytes change, its live bit is set, and its poison mark follows the data. -/
def putRow (s : State) (p : Place) (bytes : List Byte) (poisoned : Bool) : State :=
  { s with fabric := { s.fabric with
      sram := mwrite s.fabric.sram p.key (bytes.take 64),
      live := if (regionAt s p).type = .shared then s.fabric.live else tput false s.fabric.live (p.key / 64) true,
      poisoned := tput false s.fabric.poisoned (p.key / 64) poisoned } }

/-! ## Routes (R46, R56, R68) -/

/-- The link carries traffic: it exists, and at least 4 of its sublinks are good (R45). -/
def linkUsed (s : State) (die dir : Nat) : Bool := goodSublinks s die dir != 0

/-- Edge links from each die to a destination over the links in use, after some rounds of relaxation; 99 for none. -/
def linkDistances (s : State) (dest : Nat) : Nat → List Nat
  | 0 => (List.range 40).map (fun d => if d = dest then 0 else 99)
  | n + 1 =>
    let l := linkDistances s dest n
    (List.range 40).map (fun d => ([0, 1, 2, 3].map (fun dir => match neighbour d dir with
      | some o => if linkUsed s d dir then l.getD o 99 + 1 else 99
      | none => 99)).foldl min (l.getD d 99))

/-- The default route: north or south first, then east or west (R46). Where a link is not used, a direction that shortens the way
over the others, in the same order (R68, log entry 40). -/
def defaultDir (s : State) (die dest : Nat) : Nat :=
  if s.fabric.edges.all (fun kv => kv.2.bad == 0) then defaultRoute die dest
  else
    let l := linkDistances s dest 40
    let near (dir : Nat) : Bool := match neighbour die dir with
      | some o => linkUsed s die dir && decide (l.getD o 99 < l.getD die 99)
      | none => false
    ([defaultRoute die dest, 0, 2, 1, 3].find? near).getD (defaultRoute die dest)

/-- The direction by which traffic of a slot's steps leaves a die: its placement's entry, or the default (R46, R208). -/
def routeDir (s : State) (slot die dest : Nat) : Nat :=
  match s.fabric.routes.find? (fun kv => kv.1 == slot * 65536 + die * 64 + dest) with
  | some kv => kv.2
  | none => defaultDir s die dest

/-- The edge links from a die to another under a slot's route tables, at most one of each. -/
def pathLinks (s : State) (slot : Nat) : Nat → Nat → Nat → List Nat
  | 0, _, _ => []
  | n + 1, die, dest =>
    if die = dest then []
    else
      let dir := routeDir s slot die dest
      match neighbour die dir with
      | some o => linkKey die dir :: pathLinks s slot n o dest
      | none => []

/-- The path of a transfer between two units. -/
def unitPath (s : State) (slot a b : Nat) : List Nat := pathLinks s slot 40 (unitDie a) (unitDie b)

/-- Flits cross some links. -/
def carry (s : State) (links : List Nat) (flits : Nat) : State :=
  { s with fabric := { s.fabric with
      edges := links.foldl (fun t k => tput {} t k { tget ({} : Edge) t k with carried := (tget ({} : Edge) t k).carried + flits })
        s.fabric.edges } }

/-- The step that a cluster runs, for what it sends. -/
def sendStep (s : State) (u : Nat) : Option Nat := (getIsland s (clusterOf u)).desc.map (·.step)

/-- A transfer of one piece. -/
def oneFlit (bytes : List Byte) (poisoned : Bool) : Flits := { poisoned := poisoned, parts := [(0, bytes)] }

/-- A row's response to a DMA engine. -/
def engineTransfer (s : State) (cluster : Nat) (data : List Byte) (poisoned : Bool) (e : Transfer) : Transfer :=
  { e with producer := cluster, path := unitPath s (runSlot s (clusterOf e.consumer)) cluster e.consumer, flits := oneFlit data poisoned }

/-- The response of a merge window to each requester that joined (R53), along the route tables (R56). -/
def windowTransfers (s : State) (cluster : Nat) (w : Window) : List Transfer :=
  w.members.map (fun m => {
    consumer := m.tile, crossing := m.crossing, producer := cluster, step := sendStep s m.tile,
    path := unitPath s (runSlot s (clusterOf m.tile)) cluster m.tile,
    flits := { poisoned := w.poisoned, total := m.total, parts := [(m.place, w.data)] } }) ++
    w.engines.map (engineTransfer s cluster w.data w.poisoned)

/-- One response of a window leaves the slice: every link of its tree carries it once (R56). -/
def sendWindow (s : State) (cluster : Nat) (w : Window) : State :=
  let out := windowTransfers s cluster w
  let tree := (out.flatMap (·.path)).dedup
  let s := carry (modNet s cluster (fun c => { c with flitsOut := sat 64 (c.flitsOut + 1) })) tree 1
  { s with fabric := { s.fabric with inFlight := s.fabric.inFlight ++ out } }

/-- The oldest window of a row closes: its response leaves (R53). -/
def closeWindow (s : State) (cluster row : Nat) : State :=
  let i := getIsland s cluster
  match takeFirst (fun (w : Window) => w.row == row) i.windows with
  | some (w, rest) => sendWindow (putIsland s cluster { i with windows := rest }) cluster w
  | none => s

/-- Every window of a row closes (R55). -/
def closeWindows (s : State) (cluster row : Nat) : State :=
  let i := getIsland s cluster
  let here := fun (w : Window) => w.row == row
  (i.windows.filter here).foldl (fun s w => sendWindow s cluster w)
    (putIsland s cluster { i with windows := i.windows.filter (fun w => !(here w)) })

/-- A write to a row that has an open window closes the window first; a corrected row's write-back is cancelled (R55,
R88). -/
def beforeWrite (s : State) (p : Place) : State :=
  let i := getIsland s p.cluster
  let s := if i.writeBacks.contains (p.key / 64) then
      putIsland s p.cluster { i with writeBacks := i.writeBacks.filter (fun k => k != p.key / 64) }
    else s
  match p with
  | .slice c _ => if (getIsland s c).windows.any (fun w => w.row == p.row) then closeWindows s c p.row else s
  | .scratch _ _ => s

/-- A stroke's write of a row: dropped in a SHARED row and in a foreign region. -/
def writeRow (s : State) (runner : Nat) (p : Place) (bytes : List Byte) (poisoned : Bool) : State :=
  if (regionAt s p).type = .shared ∨ foreign s p runner = true then isolationFault s p 0
  else putRow (beforeWrite s p) p bytes poisoned

/-- Bytes in whole rows: each row takes the next 64, the last one filled with zeros. -/
def writeRows (s : State) (runner : Nat) (p : Place) (poisoned : Bool) : Nat → List Byte → State
  | 0, _ => s
  | n + 1, bytes =>
    let b := bytes.take 64
    writeRows (writeRow s runner p (b ++ List.replicate (64 - b.length) 0#8) poisoned) runner (p.next 1) poisoned n
      (bytes.drop 64)

/-- Some bytes inside a row, as DRAIN and the scale bytes of NARROW write them; the row's other bytes stay. A poisoned row stays
so while some of its old bytes do (DEDUCED, log entry 40). -/
def writeBytes (s : State) (runner : Nat) (p : Place) (off : Nat) (bytes : List Byte) (poisoned : Bool) : State :=
  if (regionAt s p).type = .shared ∨ foreign s p runner = true then isolationFault s p 0
  else
    let s := beforeWrite s p
    let old := if (regionAt s p).type = .work ∧ tget false s.fabric.live (p.key / 64) = false then zeroRow
      else rowBytes s p
    let mark := poisoned || (tget false s.fabric.poisoned (p.key / 64) && decide (off ≠ 0 ∨ bytes.length < 64))
    putRow s p (old.take off ++ bytes ++ old.drop (off + bytes.length)) mark

/-- Bytes that run over row ends from a scratchpad byte address on. -/
def writeSpan (s : State) (tile addr : Nat) (poisoned : Bool) : Nat → List Byte → State
  | 0, _ => s
  | n + 1, bytes =>
    if bytes.isEmpty then s
    else
      let room := 64 - addr % 64
      let s := writeBytes s (clusterOf tile) (.scratch tile addr) (addr % 64) (bytes.take room) poisoned
      writeSpan s tile (addr + room) poisoned n (bytes.drop room)

/-- Bytes read from a scratchpad byte address on. -/
def readSpan (s : State) (tile addr n : Nat) : RowRead :=
  let r := readRows s (clusterOf tile) (.scratch tile addr) ((addr % 64 + n + 63) / 64)
  { r with bytes := (r.bytes.drop (addr % 64)).take n }

/-! ## Error correction (R88, R89) -/

/-- A cluster fenced for a row whose refill reads back clean: its steps run again, and it is back without a variant. -/
def refilled (s : State) (cluster cause : Nat) : State :=
  if (getIsland s cluster).fenced then s
  else
    let s := fenceOnly s cluster cause
    let i := getIsland s cluster
    mapChanged (putIsland s cluster { i with fenced := false, running := true })

/-- Data that could not be corrected: the row is poisoned, the cluster is fenced, and its steps run again. A SHARED or
ADAPTER row that reads back clean after its refill returns the cluster to service without a variant. -/
def sramUncorrectable (s : State) (p : Place) (refillClean : Bool) : State :=
  let t := (regionAt s p).type
  let s := modMem s p.cluster (fun m => { m with uncorrectable := sat 32 (m.uncorrectable + 1) })
  let s := note s 0x0201 3 p.cluster p.row (regionCode t)
  let cause := lastIndex s
  if t ≠ .work ∧ refillClean = true then refilled s p.cluster cause
  else
    let s := { s with fabric := { s.fabric with poisoned := tput false s.fabric.poisoned (p.key / 64) true } }
    fenceCluster s p.cluster cause

/-- The 128-bit word, with its SEC-DED code, that a bit of a row belongs to (R87). -/
def eccWord (b : Nat) : Option Nat := if b < 512 then some (b / 128) else if b < 548 then some ((b - 512) / 9) else none

/-- Wrong bits of a word. -/
def wrongIn (e : RowEcc) (w : Nat) : Nat := (e.bits.filter (fun b => eccWord b == some w)).length

/-- Words that SEC-DED corrects in line: those with a single wrong bit (R88). -/
def eccWords (e : RowEcc) : Nat := ((List.range 4).filter (fun w => wrongIn e w == 1)).length

/-- A word has more wrong bits than SEC-DED corrects. -/
def eccDouble (e : RowEcc) : Bool := (List.range 4).any (fun w => decide (2 ≤ wrongIn e w))

/-- 8-bit symbols of the row and of its symbol code that are bad after the words are corrected. -/
def eccSymbols (e : RowEcc) : Nat :=
  let left (b : Nat) : Bool := match eccWord b with
    | some w => decide (b < 512) && decide (2 ≤ wrongIn e w)
    | none => true
  (((e.bits.filter left).map (fun b => if b < 512 then b / 8 else 64 + (b - 548) / 8)).dedup).length

/-- The row corrector of a slice runs, and corrects: at most two bad symbols (R87, R88). -/
def eccCorrects (e : RowEcc) : Bool := (decide (0 < eccSymbols e) || eccDouble e) && decide (eccSymbols e ≤ 2)

/-- The row cannot be corrected: a double-bit error of a scratchpad word, or more than two bad symbols of a slice row (R89). -/
def rowBad (p : Place) (e : RowEcc) : Bool :=
  match p with
  | .slice _ _ => decide (2 < eccSymbols e)
  | .scratch _ _ => eccDouble e

/-- What the decoder of one row does with its wrong bits. A scratchpad row carries SEC-DED only (R87, R88). -/
def applyRowEcc (s : State) (p : Place) (e : RowEcc) : State :=
  let q := p.next e.place
  let n := eccWords e
  let s := if n = 0 then s else modMem s q.cluster (fun m => { m with secded := sat 64 (m.secded + n) })
  let s := match q with
    | .slice c _ =>
      if eccCorrects e then
        let i := getIsland s c
        putIsland s c { i with
          mem := { i.mem with rowCorrections := sat 32 (i.mem.rowCorrections + bit (!e.shared)) },
          writeBacks := if i.writeBacks.contains (q.key / 64) then i.writeBacks else i.writeBacks ++ [q.key / 64] }
      else s
    | .scratch _ _ => s
  if rowBad q e then sramUncorrectable s q e.refillClean else s

/-- What the decoder of a read found, row by row. -/
def applyEcc (s : State) (p : Place) (e : Ecc) : State := e.foldl (fun s r => applyRowEcc s p r) s

/-- The decoder could not correct the read: its data goes on poisoned. -/
def eccBad (p : Place) (e : Ecc) : Bool := e.any (rowBad p)

/-- The findings of one row of a read, for a read that goes on row by row. -/
def eccAt (e : Ecc) (place : Nat) : Ecc := (e.filter (fun r => r.place == place)).map (fun r => { r with place := 0 })

/-- Where a finding of a stroke that reads in several places lies. -/
def foundPlace (tile : Nat) (f : Found) : Place := if f.inSlice then .slice (clusterOf tile) f.addr else .scratch tile f.addr

/-- The findings of such a stroke. -/
def applyFound (s : State) (tile : Nat) (l : List Found) : State :=
  l.foldl (fun s f => applyRowEcc s (foundPlace tile f) { f.row with place := 0 }) s

/-- One of them could not be corrected. -/
def foundBad (l : List Found) : Bool := l.any (fun f => rowBad (foundPlace 0 f) f.row)

/-! ## Vector registers and accumulators (R69) -/

def modTile (s : State) (t : Nat) (f : Tile → Tile) : State := putTile s t (f (getTile s t))

/-- Value `i` of a run of registers that starts at a register. -/
def vget (s : State) (tile reg i : Nat) : Fp32 :=
  let n := vectorLanes tile
  tget 0#32 (getTile s tile).vregs ((reg + i / n) * 64 + i % n)

/-- A value of the run comes from data marked poisoned (R89). -/
def vtainted (s : State) (tile reg n : Nat) : Bool :=
  let k := vectorLanes tile
  (List.range n).any (fun i => tget false (getTile s tile).vtaint ((reg + i / k) * 64 + i % k))

/-- A run of values into registers, with the mark of the data they come from. -/
def vput (s : State) (tile reg : Nat) (xs : List Fp32) (tainted : Bool) : State :=
  let n := vectorLanes tile
  modTile s tile (fun t => { t with
    vregs := xs.zipIdx.foldl (fun tb x => tput 0#32 tb ((reg + x.2 / n) * 64 + x.2 % n) x.1) t.vregs,
    vtaint := xs.zipIdx.foldl (fun tb x => tput false tb ((reg + x.2 / n) * 64 + x.2 % n) tainted) t.vtaint })

/-- Accumulators of a lane in the mode of the step: 64, or 32 in reference mode (R69). -/
def accCount (s : State) (tile : Nat) : Nat := if inReference s (clusterOf tile) then 32 else 64

def accKey (acc lane : Nat) : Nat := acc * 128 + lane
def aget (s : State) (tile acc lane : Nat) : Acc := tget {} (getTile s tile).accs (accKey acc lane)
def aput (s : State) (tile acc lane : Nat) (v : Acc) : State :=
  modTile s tile (fun t => { t with accs := tput {} t.accs (accKey acc lane) v })

/-! ## Issuing a stroke (R73, R75 to R77) -/

/-- The island's sequencer can issue: its clock runs, and it is neither fenced, gated nor stalled. -/
def canIssue (s : State) (tile : Nat) : Bool :=
  let i := getIsland s (clusterOf tile)
  i.running && !i.fenced && !i.dark && !i.parked && i.gate.isNone && i.stalled.isNone

/-- The predicate test of a stroke: register 0 reads 1. -/
def predHolds (s : State) (h : StrokeHdr) : Bool :=
  (h.pred == 0 || (getTile s h.tile).preds.getLsbD h.pred) != h.predNeg

/-! ## Tokens (R41 to R43) -/

/-- Key of a crossing in its consumer's input buffer. -/
def boxKey (tile crossing : Nat) : Nat := unitTile tile * 4294967296 + crossing

/-- All pieces of a transfer are there. -/
def wholeFlits (f : Flits) : Bool := f.empty || decide (f.total ≤ f.parts.length)

/-- The bytes of a transfer, piece by piece. -/
def flitBytes (f : Flits) : List Byte := f.parts.flatMap (·.2)

/-- Another piece of a transfer. An EMPTY flit whose own receive stroke does not take it stays in the buffer, and the next transfer of its
crossing, joined to it, is EMPTY too (DESIGN CHOICE: R77 does not say what becomes of such a flit, log entry 40). -/
def joinFlits (a b : Flits) : Flits :=
  { a with
    empty := a.empty || b.empty, poisoned := a.poisoned || b.poisoned, total := max a.total b.total, route := a.route || b.route,
    step := b.step <|> a.step,
    parts := b.parts.foldl (fun t kv => tput [] t kv.1 kv.2) a.parts }

/-- The EMPTY flit of a failing predicate. -/
def emptyFlit : Flits := { empty := true, total := 0 }

/-- Data handed to the network: it takes the path of the route tables. A fenced consumer refuses the handshake; the data stays
at its die boundary for replay, and the producer does not stall (R64). -/
def transmit (s : State) (producer : Nat) (t : Transfer) (flits : Nat) : State :=
  let t := { t with
    producer := producer, step := sendStep s producer, path := unitPath s (runSlot s (clusterOf producer)) producer t.consumer }
  let s := modNet s (clusterOf producer) (fun c => { c with flitsOut := sat 64 (c.flitsOut + flits) })
  if (getIsland s (clusterOf t.consumer)).fenced then
    { s with fabric := { s.fabric with refused := s.fabric.refused ++ [t] } }
  else carry { s with fabric := { s.fabric with inFlight := s.fabric.inFlight ++ [t] } } t.path flits

/-- A request or an answer of one cluster's router to another's, for a slot's step, counted at both ends (R67). -/
def routed (s : State) (slot a b flits : Nat) : State :=
  let s := modNet s (clusterOf a) (fun c => { c with flitsOut := sat 64 (c.flitsOut + flits) })
  carry (modNet s (clusterOf b) (fun c => { c with flitsIn := sat 64 (c.flitsIn + flits) })) (unitPath s slot a b) flits

/-! ## A gated island (R43) -/

/-- The island is gated, or its producer stalls as one: nothing in its scratchpads or slices changes. -/
def islandHeld (i : Island) : Bool := i.gate.isSome || i.stalled.isSome

/-- Rows written at an SRAM destination by a DMA engine, whose checks are made. -/
def dmaRows (s : State) (p : Place) (poisoned : Bool) : Nat → List Byte → State
  | 0, _ => s
  | n + 1, b => dmaRows (putRow (beforeWrite s p) p (b.take 64) poisoned) (p.next 1) poisoned n (b.drop 64)

/-- A write that the network or an engine brings lands. -/
def landWrite (s : State) (t : Transfer) : State :=
  match t.writeAt with
  | none => s
  | some a =>
    let b := flitBytes t.flits
    let n := (b.length + 63) / 64
    let p := if t.toScratch then Place.scratch t.consumer a else Place.slice (clusterOf t.consumer) a
    if t.engine then dmaRows s p t.flits.poisoned n b else writeRows s (clusterOf t.consumer) p t.flits.poisoned n b

/-- The gate ends: the writes that waited land, in their order, before the island goes on. -/
def landIsland (s : State) (u : Nat) : State :=
  let i := getIsland s u
  if i.deferred.isEmpty then s else i.deferred.foldl landWrite (putIsland s u { i with deferred := [] })

/-- A write arrives: at once, or when the island's gate ends. -/
def bringWrite (s : State) (t : Transfer) : State :=
  let u := clusterOf t.consumer
  let i := getIsland s u
  if islandHeld i then putIsland s u { i with deferred := i.deferred ++ [t] } else landWrite (landIsland s u) t

/-- The island is gated or stalled inside a step; one that waits for a descriptor is between steps (log entry 35). -/
def midStep (i : Island) : Bool := (i.gate.isSome && decide (i.gate ≠ some .descriptor)) || i.stalled.isSome

/-- The scribe writes into a cluster's slices: at once, or when the island's gate ends (R43). -/
def scribeWrite (s : State) (u addr : Nat) (b : List Byte) : State :=
  let t : Transfer := { consumer := u, crossing := 0, flits := oneFlit b false, writeAt := some addr, engine := true }
  let i := getIsland s u
  if midStep i then putIsland s u { i with deferred := i.deferred ++ [t] } else landWrite (landIsland s u) t

/-! ## The frame of a stroke -/

/-- A stroke's frame: it issues DELTA cycles after the one before; when its predicate fails, it takes its issue cycle
and does what `failing` says. Writes that waited for the island's clock have landed (R43). -/
def issue (s : State) (h : StrokeHdr) (body failing : State → State) : State :=
  if canIssue s h.tile then
    let s := landIsland s (clusterOf h.tile)
    let s := modTile s h.tile (fun t => { t with cycle := t.cycle + h.delta })
    if predHolds s h then body s else failing s
  else s

/-! ## Boundary frames (R438) -/

/-- Steps that the boundary frames of a cluster hold, for a step's placement; 0 for a cluster without any. -/
def frameSteps (s : State) (u : Nat) (step : Option Nat) : Nat :=
  match step.bind (findStep s) with
  | some st => (slotTables s u st.slot).boundary
  | none => 0

/-- The tail input of COMMON takes nothing of a new-epoch step before a compat swap has rewritten the COMMON clusters (R219). -/
def tailBarred (s : State) (u : Nat) (step : Option Nat) : Bool :=
  match (step.bind (findStep s)).bind (newImage s) with
  | some c => decide ((slotTables s u (runSlot s u)).role = .common) && decide (frameSteps s u step ≠ 0) && !(c.layersDone.contains 64)
  | none => false

/-- The cluster's boundary frames can take input of the step; full frames withhold the acknowledgement (R42). -/
def frameRoom (s : State) (u : Nat) (step : Option Nat) : Bool :=
  let l := (getIsland s u).frames
  !(tailBarred s u step) && (decide (frameSteps s u step = 0) || l.any (fun f => decide (some f.step = step)) ||
    decide (l.length < frameSteps s u step))

/-- Input activations from another die are kept for the step. -/
def keepInput (s : State) (t : Transfer) : State :=
  let u := clusterOf t.consumer
  let i := getIsland s u
  match t.step with
  | none => s
  | some n =>
    if frameSteps s u t.step = 0 ∨ unitDie t.producer = unitDie u then s
    else if i.frames.any (fun f => f.step == n) then
      putIsland s u { i with frames := modWhere (fun f => f.step == n) (fun f => { f with inputs := f.inputs ++ [t] }) i.frames }
    else putIsland s u { i with frames := i.frames ++ [{ step := n, inputs := [t] }] }

/-- The frames of a step in some clusters are free. -/
def dropFrames (s : State) (us : List Nat) (step : Nat) : State :=
  us.foldl (fun s u =>
    let i := getIsland s u
    if i.frames.isEmpty then s else putIsland s u { i with frames := i.frames.filter (fun f => f.step != step) }) s

/-! ## The ends of a crossing -/

/-- A producer whose consumer's buffer is full stalls at its send stroke (R42). -/
def stallFor (s : State) (tile crossing : Nat) (full : Bool) : State :=
  if full then
    let i := getIsland s (clusterOf tile)
    putIsland s (clusterOf tile) { i with stalled := some crossing }
  else s

/-- The data of a receive stroke arrives at its destination; EMPTY writes nothing (R77). -/
def receive (s : State) (tile dst : Nat) (f : Flits) : State :=
  if f.empty then s
  else
    let b := flitBytes f
    writeRows s (clusterOf tile) (.scratch tile dst) f.poisoned ((b.length + 63) / 64) b

end Sys2Proof.Machine
end

