-- ==== Sys2Proof/Machine/StepOps.lean ====
section
/-! DEFINITION. Shared operations of steps in flight: the descriptor at an island, the end of a step, its energy (R394)
and its counts (R114), and what happens at a step boundary (R156, R385, R386). -/

namespace Sys2Proof.Machine

/-! ## The descriptor at an island (R75, R85, R155) -/

/-- A row of an ADAPTER region, which only slices hold (R84). -/
def adapterRow (s : State) (k : Nat) : Bool := decide ((tget {} s.fabric.regions (k * 64 / 65536 * 8)).type = .adapter)

/-- The pool page of a session's logical page: its own, or its prefix's. -/
def pageAt (s : State) (v : Session) (l : Nat) : Option Page :=
  match v.pages.find? (fun q => q.1 == l), v.pfx with
  | some q, _ => some (getPage s q.2)
  | none, some x => ((getPfx s x).pages[l]?).map (getPage s)
  | none, none => none

/-- The pages of a row, by their logical index, and P of R174 for it, where the Folio enables the selection. -/
def rowPage (s : State) (r : StepRow) (l : Nat) : Option Page :=
  match r.ref with
  | .session id => pageAt s (getSession s id) l
  | .pfx x => ((getPfx s x).pages[l]?).map (getPage s)

def rowP (s : State) (st : Step) (r : StepRow) : Option Nat :=
  match r.ref with
  | .session id => (getSession s id).turn.bind (fun t => selectP s st.slot t.ops)
  | .pfx _ => folioP s st.slot

/-- The logical pages that a row of a step reads in every layer, and the NaN scores among them (R174): all of them, or the P whose
summaries score highest, the 4 last, and those with ALWAYS_READ. The scores are free values (log entry 43). -/
def selectRow (s : State) (st : Step) (row : Nat) (r : StepRow) : List Nat × Nat :=
  let all_ := List.range ((r.position + r.count + 127) / 128)
  match rowP s st r with
  | none => (all_, 0)
  | some p =>
    if all_.length ≤ p + 4 then (all_, 0)
    else
      let has (f : Page → Bool) (l : Nat) : Bool := match rowPage s r l with | some q => f q | none => false
      let scores : List Ranked := (all_.filter (has (·.summary))).map (fun l => (Config.pageScore st.num row l, l))
      let best := ((scores.foldr rankIn []).take p).map (·.2)
      (all_.filter (fun l => best.contains l || decide (all_.length ≤ l + 4) || has (·.alwaysRead) l),
        (scores.filter (fun x => fpIsNan x.1)).length)

/-- The cluster selects the pages of a step: the selector layer's, or the B-die's, which goes through all layers (R159, R174). -/
def selectsHere (b : FolioBody) (role : Role) : Bool :=
  match role with
  | .layer l => l == b.selectorLayer
  | .prefill => true
  | _ => false

/-- At the selector layer, once for each step and row, the pages are selected, and NaN scores are counted under the placement's tensor
for them (R114, R174). -/
def selectPages (s : State) (u step : Nat) : State :=
  match findStep s step with
  | none => s
  | some st =>
    match (getSlot s st.slot).body with
    | some b =>
      if selectsHere b (slotTables s u st.slot).role ∧ st.selected.isEmpty then
        st.rows.zipIdx.foldl (fun s x =>
          let r := selectRow s st x.2 x.1
          let s := modStep s step (fun st => { st with selected := tput [] st.selected x.2 r.1 })
          if r.2 = 0 then s else countFor s step b.scoresTensor { topkNan := r.2 }) s
      else s
    | none => s

/-- The attention of a step reads a page of one of its rows: every page until the pages are selected, then those that are (R174). -/
def attends (s : State) (step p : Nat) : Bool :=
  match findStep s step with
  | none => true
  | some st =>
    let mine (r : StepRow) : List Nat := match r.ref with
      | .session id =>
        let v := getSession s id
        v.pages.filterMap (fun q => if q.2 = p then some q.1 else none) ++
          (match v.pfx with | some x => ((getPfx s x).pages.idxOf? p).toList | none => [])
      | .pfx x => ((getPfx s x).pages.idxOf? p).toList
    st.selected.isEmpty || st.rows.zipIdx.any (fun x => (mine x.1).any (fun l => (tget [] st.selected x.2).contains l))

/-- The half that the half map gives for a step's slot (R210). -/
def stepHalf (s : State) (i : Island) (d : Desc) : Nat :=
  match findStep s d.step with
  | some st => (halfOf i st.slot).getD 0
  | none => d.half

/-- STEP_BEGIN with a descriptor at hand: it becomes the island's own, every WORK row's live bit clears, and the tiles
start together. -/
def takeDesc (s : State) (u : Nat) (d : Desc) (rest : List Desc) : State :=
  let i := getIsland s u
  let s := putIsland s u { i with desc := some { d with half := stepHalf s i d }, posted := rest, gate := none, counts := [], energyMj := 0, routing := [] }
  let s := selectPages s u d.step
  let s := { s with fabric := { s.fabric with live := s.fabric.live.filter (fun kv => !(rowOfIsland u kv.1) || adapterRow s kv.1) } }
  (clusterTiles u).foldl (fun s t => modTile s t (fun x => { x with cycle := 0 })) s

/-- The part of a compat swap that rewrites a cluster before a new-epoch step may begin there: its layer, or 64 for a PREFILL cluster,
which is rewritten with the COMMON clusters (log entry 43). A COMMON cluster begins the head of a DECODE step before it is rewritten
(R219), but no DRAFT step. -/
def barrierPart (c : Compat) (kind : StepKind) (u : Nat) : Option Nat :=
  let base := ((c.inForce.flatMap (fun w => w.covers.zip w.claims)).find? (fun x => x.2 == u)).map (·.1)
  match baseRole c.body (base.getD u) with
  | .layer l => some l
  | .prefill => some 64
  | .common => if kind = .draft then some 64 else none
  | .headroom => none

/-- A step is held at the barrier before a cluster that the compat swap has yet to rewrite (R219). -/
def barred (s : State) (u step : Nat) : Bool :=
  match findStep s step with
  | none => false
  | some st => match newImage s st with
    | some c => match barrierPart c st.kind u with
        | some p => !(c.layersDone.contains p)
        | none => false
    | none => false

/-- The island begins its next step, or gates until a descriptor comes, or until a barrier before it is released. -/
def beginStep (s : State) (u : Nat) : State :=
  let i := getIsland s u
  match i.posted with
  | d :: rest => if barred s u d.step then putIsland s u { i with gate := some .descriptor } else takeDesc s u d rest
  | [] => putIsland s u { i with gate := some .descriptor }

/-- An island that waits for a descriptor begins the step at the head of its queue, unless a barrier holds that; the cycles it was
gated, which no operand gives, are a free value (log entry 3). -/
def wakeIsland (s : State) (u : Nat) : State :=
  let i := getIsland s u
  match i.posted with
  | d :: _ =>
    if i.gate = some .descriptor ∧ barred s u d.step = false then
      let s := modNet s u (fun c => { c with lateStall := sat 64 (c.lateStall + (freeNow s).toNat) })
      beginStep (landIsland (drewFree s) u) u
    else s
  | [] => s

/-- Flits of a step descriptor: 256 words of 4 bytes (R67, R153, log entry 40). -/
def descFlits : Nat := 16

/-- A descriptor is posted to an island: one that waits for it begins the step. -/
def postDesc (s : State) (u : Nat) (d : Desc) : State :=
  let i := getIsland s u
  wakeIsland (putIsland s u { i with
    posted := i.posted ++ [d], net := { i.net with flitsIn := sat 64 (i.net.flitsIn + descFlits) } }) u

/-! ## The end of a step -/

/-- A tenant and its partition are charged with energy (R394). -/
def chargeEnergy (s : State) (tenant partition mj : Nat) (step : Bool) : State :=
  let t := getTenant s tenant
  let s := if t.registered then
      putTenant s tenant { t with
        energyMj := sat 64 (t.energyMj + mj), energySecond := if step then t.energySecond + mj else t.energySecond }
    else s
  let p := getPartition s partition
  putPartition s partition { p with energyMj := sat 64 (p.energyMj + mj) }

/-- The step's energy over its rows, by token-work share. -/
def splitEnergy (s : State) (st : Step) : State :=
  let total := max 1 ((st.rows.map (·.count)).sum)
  st.rows.foldl (fun s r => chargeEnergy s r.tenant r.partition (st.energyMj * r.count / total) true) s

/-- Every row has finished sampling. -/
def rowsSampled (st : Step) : Bool := st.rows.all (·.sampled)

/-- The step has run on every island and its rows are sampled: it leaves flight. -/
def finishStep (s : State) (n : Nat) : State :=
  match findStep s n with
  | some st =>
    if islandsDone s st && rowsSampled st && !st.faulty then leaveFlight (splitEnergy s st) st else s
  | none => s

/-- A prefetch entry that its step did not use is discarded at that step's end (R142). -/
def discardPrefetch (s : State) (u step : Nat) : State :=
  let l := tget [] s.vellum.prefetch u
  let gone := l.filter (fun e => decide (e.step ≤ step))
  let s := gone.foldl (fun s e =>
    let v := getSite s e.ref.site
    putSite s e.ref.site { v with prefetchDiscarded := sat 32 (v.prefetchDiscarded + 1) }) s
  { s with vellum := { s.vellum with prefetch := tput [] s.vellum.prefetch u (l.filter (fun e => !(decide (e.step ≤ step)))) } }

/-- Every island of a die on the step's path has sent its STEP_END. -/
def dieDone (s : State) (st : Step) (die : Nat) : Bool :=
  (stepPath s st).all (fun u => unitDie u != die || st.ended.contains u)

/-- A die whose islands have all ended a step releases its boundary frames (R438). -/
def releaseFrames (s : State) (step die : Nat) : State :=
  match findStep s step with
  | some st => if dieDone s st die then dropFrames s (dieClusters die) step else s
  | none => dropFrames s (dieClusters die) step

/-- STEP_END: the island's completion token, a flit of its router, its counts and its energy go to the scribe. -/
def endStepAt (s : State) (u mj : Nat) : State :=
  let i := getIsland s u
  match i.desc with
  | none => s
  | some d =>
    let s := i.counts.foldl (fun s x => countFor s d.step x.1 x.2) (reportFlit s u)
    let i := getIsland s u
    let s := putIsland s u { i with desc := none, counts := [], energyMj := 0 }
    let s := modStep s d.step (fun st => { st with
      ended := if st.ended.contains u then st.ended else st.ended ++ [u], energyMj := st.energyMj + mj })
    finishStep (releaseFrames (discardPrefetch s u d.step) d.step (unitDie u)) d.step

/-! ## The step boundary (R156) -/

/-- A PREFILL step is in flight, or rows wait for one. -/
def prefillDue (s : State) : Bool :=
  s.serving.steps.any (fun st => decide (st.kind = .prefill)) || s.serving.prefixes.any (fun kv => kv.2.unwritten && kv.2.admitted) ||
    s.serving.sessions.any (fun kv => match kv.2.turn with
      | some t => decide (t.phase = .prefill) && t.ending.isNone
      | none => false)

/-- Idle clusters that point 14 parks (R387): HEADROOM, and B-clusters with no PREFILL step in flight or waiting. -/
def parkableClusters (s : State) : List Nat :=
  let placed := fun (u : Nat) => [0, 1].any (fun n => slotLive (getSlot s n) &&
    (pathOf (getSlot s n) .decode).contains u)
  (s.fabric.islands.map (·.1)).filter (fun u =>
    let i := getIsland s u
    i.running && !i.fenced && !(placed u) && (!(isBDie (unitDie u)) || !(prefillDue s)))

/-- Clusters that point 14 parked, and that come back above point 13. -/
def returning (s : State) : List Nat :=
  (s.fabric.islands.filter (fun kv => kv.2.parked && !kv.2.fenced && !kv.2.dark &&
    !(s.power.retiring.any (fun p => p.1 == kv.1)) && decide (tget 0 s.nvm.segments kv.1 < 2))).map (·.1)

/-- A cluster waits for its first LDO segment (R383). -/
def startInrush (s : State) (u : Nat) : State :=
  let i := getIsland s u
  if i.enableSince.isSome then s else putIsland s u { i with running := false, enableSince := some s.now, enabledSegments := 0 }

/-- The operating point of the boundary. Point 14 parks idle clusters. They come back under R383 once the allowance is above point
13, and the module stays at point 14 until the last is fully up. -/
def takePoint (s : State) : State :=
  let s := choosePoint s
  if s.power.point = 14 then
    (parkableClusters s).foldl (fun s u =>
      putIsland s u { getIsland s u with running := false, parked := true, enableSince := none, enabledSegments := 0 })
      (clearIdle s (parkableClusters s))
  else
    match returning s with
    | [] => s
    | l => l.foldl startInrush { s with power := { s.power with point := 14 } }

/-- What binds at a step boundary: a cap, clusters that leave service, and the operating point. -/
def stepBoundary (s : State) : State := takePoint (retireDue (toleranceDue (bindDue s)))

end Sys2Proof.Machine
end

