-- ==== Sys2Proof/Machine/StrokeOps.lean ====
section
/-! DEFINITION. Shared operations of the strokes: the lanes (R70, R71, R118 to R124), the vector unit (R72, R109), slice
reads and writes (R53 to R56, R74), the ligature's receive, and DMA posts and waits (R91). -/

namespace Sys2Proof.Machine

/-! ## Tensors (R104) -/

/-- The tensor whose element plane holds an address. -/
def entryAt (s : State) (u : Nat) (inSlice : Bool) (addr : Nat) : Option TensorEntry :=
  (runTables s u).tensors.find? (fun e => e.inSlice == inSlice && decide (e.elemBase ≤ addr) &&
    decide (addr < e.elemBase + (e.blocks + blocksPerRow e.fmt - 1) / blocksPerRow e.fmt * 64))

/-- Bytes of a tensor: from the tile's scratchpad, or from its cluster's slices. -/
def tensorBytes (s : State) (tile : Nat) (inSlice : Bool) (addr n : Nat) : RowRead :=
  let p := if inSlice then Place.slice (clusterOf tile) addr else Place.scratch tile addr
  let r := readRows s (clusterOf tile) p ((addr % 64 + n + 63) / 64)
  { r with bytes := (r.bytes.drop (addr % 64)).take n }

/-- A block of a tensor as it lies in memory: its bytes, its scale byte, its metadata word, and the poison mark of what was
read. -/
structure Block where
  bytes : List Byte
  scale : Nat
  metaWord : Nat
  poisoned : Bool
  state : State

def readBlock (s : State) (tile : Nat) (e : TensorEntry) (k : Nat) : Block :=
  let r := tensorBytes s tile e.inSlice (blockAddr e.fmt e.elemBase k) (blockBytes e.fmt)
  let sc := if e.fmt = .bf16 then { bytes := [56#8], poisoned := false, state := r.state }
    else tensorBytes r.state tile e.inSlice (e.scaleBase + k) 1
  let m := if e.sparsity = .dense then { bytes := [], poisoned := false, state := sc.state }
    else tensorBytes sc.state tile e.inSlice (e.metaBase + 4 * k) 4
  { bytes := r.bytes, scale := (sc.bytes.headD 0#8).toNat, metaWord := leNat m.bytes,
    poisoned := r.poisoned || sc.poisoned || m.poisoned, state := m.state }

/-- What an invalid scale and invalid metadata groups of one load count (R103, R105). -/
def loadCounts (f : Fmt) (sp : Sparsity) (scale metaWord : Nat) : Counts :=
  { invalid := bit (f != .bf16 && (scaleVal scale).isNone) + badGroups sp metaWord }

/-! ## MAC (R70, R71, R118 to R124) -/

/-- Lane `l` latches a weight block; `bad`: the stroke's read could not be corrected (R89). -/
def latchLane (s : State) (tile : Nat) (e : TensorEntry) (k : Nat) (bad : Bool) (lane : Nat) : State :=
  let b := readBlock s tile e k
  let s := modTile b.state tile (fun t => { t with latches := tins t.latches lane {
    tensor := e.tensor, block := k, inSlice := e.inSlice, fmt := e.fmt, sparsity := e.sparsity,
    scale := BitVec.ofNat 8 b.scale, bytes := b.bytes, metaWord := b.metaWord,
    tainted := b.poisoned || bad } })
  countIn s (clusterOf tile) e.tensor (loadCounts e.fmt e.sparsity b.scale b.metaWord)

/-- Consecutive weight blocks into the lanes. -/
def latchAll (s : State) (tile : Nat) (e : TensorEntry) (k : Nat) (bad : Bool) : State :=
  (List.range (lanesOf tile)).foldl (fun s l => latchLane s tile e (k + l) bad l) s

/-- The latch of a lane: a block of zeros with scale 0 until a MAC stroke loads one (log entry 2). -/
def latchOf (s : State) (tile lane : Nat) : Latch :=
  match (getTile s tile).latches.find? (fun kv => kv.1 == lane) with
  | some kv => kv.2
  | none => {}

/-- An activation block that a MAC stroke broadcasts. -/
structure ActBlock where
  fmt : Fmt
  bytes : List Byte
  scale : Nat
  poisoned : Bool

/-- The consecutive activation blocks of a stroke, in ascending index. -/
def readActs (s : State) (tile : Nat) (e : TensorEntry) (k : Nat) : Nat → List ActBlock × State
  | 0 => ([], s)
  | n + 1 =>
    let b := readBlock s tile e k
    let r := readActs b.state tile e (k + 1) n
    ({ fmt := e.fmt, bytes := b.bytes, scale := b.scale, poisoned := b.poisoned } :: r.1, r.2)

/-- A scale of zero, or an invalid one that is treated as zero. -/
def zeroScale (a : ActBlock) : Bool := decide (a.fmt ≠ .bf16) && decide ((scaleVal a.scale).getD 0 = 0)

/-- One contribution added to an accumulator: an FP32 addition, or the exact integer of reference mode. -/
def accumulate (reference : Bool) (wf af : Fmt) (a : Acc) (b : Exact) : Acc × Counts :=
  if reference then
    match b with
    | .fin v =>
      let out := refOut (quantumOf wf af) v
      ({ bits := a.bits + BitVec.ofInt 96 (refInt v), poisoned := a.poisoned || out }, { refRange := bit out })
    | _ => ({ a with poisoned := true }, { refRange := 1 })
  else
    let x := exactRound (exactAdd (exactOf (a.bits.setWidth 32)) b)
    ({ a with bits := x.setWidth 96 }, {})

/-- The contributions of one lane. -/
def laneMac (reference : Bool) (l : Latch) (a : Acc) : Nat → List ActBlock → Acc × Counts
  | _, [] => (a, {})
  | i, x :: xs =>
    let c := contribution l.fmt l.sparsity l.bytes l.metaWord l.scale.toNat x.fmt x.bytes x.scale i
    let r := accumulate reference l.fmt x.fmt a c.1
    let r' := laneMac reference l r.1 (i + 1) xs
    (r'.1, addCounts (addCounts { invalid := c.2 } r.2) r'.2)

/-- The evaluated stroke, lane by lane. A sum that poisoned data entered carries the mark on (R89). -/
def evalLanes (s : State) (tile acc : Nat) (acts : List ActBlock) (bad : Bool) : State :=
  let ref := inReference s (clusterOf tile)
  let tainted := bad || acts.any (·.poisoned)
  (List.range (lanesOf tile)).foldl (fun s l =>
    let w := latchOf s tile l
    let r := laneMac ref w (aget s tile acc l) 0 (acts.take (spanOf w.sparsity))
    countIn (aput s tile acc l { r.1 with tainted := r.1.tainted || tainted || w.tainted }) (clusterOf tile) w.tensor r.2) s

/-- A weight source other than "latched" loads the lanes. -/
def loadWeights (s : State) (tile : Nat) (w : WeightSrc) (bad : Bool) : State :=
  match w with
  | .latched => s
  | .scratch a =>
    match entryAt s (clusterOf tile) false a with
    | some e => latchAll s tile e (blockIndex e.fmt e.elemBase a) bad
    | none => s
  | .slice a =>
    match entryAt s (clusterOf tile) true a with
    | some e => latchAll s tile e (blockIndex e.fmt e.elemBase a) bad
    | none => s

/-- MAC: the lanes latch, the activation blocks are broadcast, and a stroke whose blocks all have scale 0 skips the
lanes (R71, R119). An activation address that lies in no tensor of the placement's table names no block, so there is nothing to
broadcast, and no lane adds anything (DESIGN CHOICE, log entry 40). -/
def macTile (s : State) (tile act : Nat) (w : WeightSrc) (acc : Nat) (found : List Found) : State :=
  let s := loadWeights s tile w (foundBad (found.filter (fun f => f.inSlice || decide (w = .scratch f.addr))))
  let l := latchOf s tile 0
  let s := match entryAt s (clusterOf tile) false act with
  | some e =>
    let r := readActs s tile e (blockIndex e.fmt e.elemBase act) (spanOf l.sparsity)
    let bad := ((r.1.filter (fun a => decide (a.fmt ≠ .bf16) && (scaleVal a.scale).isNone))).length
    let s := countIn r.2 (clusterOf tile) l.tensor { invalid := bad }
    if r.1.all zeroScale then
      modMem s (clusterOf tile) (fun m => { m with zeroScaleSkips := sat 64 (m.zeroScaleSkips + 1) })
    else if accCount s tile ≤ acc then s
    else evalLanes s tile acc r.1 (foundBad (found.filter (fun f => !f.inSlice)))
  | none => s
  applyFound s tile found

/-- What DRAIN writes for one lane: a result scaled by t, or a partial. -/
def drainLane (reference : Bool) (a : Acc) (t : Option Fp32) : List Byte :=
  match t with
  | some t => fpBytes (if reference then refResult a.bits a.poisoned t else fpMul (a.bits.setWidth 32) t)
  | none =>
    if reference then
      leBytes 16 (if a.poisoned then signedField 128 (-(2 ^ 95)) else signedField 128 a.bits.toInt)
    else leBytes 4 (a.bits.setWidth 32).toNat

/-- DRAIN: one accumulator of each lane is written and returns to +0. A number that names no accumulator of the mode reads as +0
(log entry 40). -/
def drainTile (s : State) (tile dst acc : Nat) (t : Option Fp32) : State :=
  let ref := inReference s (clusterOf tile)
  let n := lanesOf tile
  let bytes := (List.range n).flatMap (fun l => drainLane ref (if accCount s tile ≤ acc then {} else aget s tile acc l) t)
  let tainted := (List.range n).any (fun l => (aget s tile acc l).tainted)
  let s := if accCount s tile ≤ acc then s else (List.range n).foldl (fun s l => aput s tile acc l {}) s
  writeRows s (clusterOf tile) (.scratch tile dst) tainted ((bytes.length + 63) / 64) bytes

/-! ## The vector unit (R72) -/

/-- The values of one register. -/
def vreg (s : State) (tile reg : Nat) : List Fp32 := (List.range (vectorLanes tile)).map (vget s tile reg)

/-- Free values for the lanes that a reduction's rule leaves open. -/
def freeLanes (k n : Nat) : List Fp32 := (List.range n).map (fun i => (Config.freeValue (k + i)).setWidth 32)

/-- VALU: a reduction leaves its result in lane 0; any other function works lane by lane. -/
def valuTile (s : State) (tile dst : Nat) (srcs : List Nat) (fn : ValuFn) : State :=
  let n := vectorLanes tile
  let xs := vreg s tile (srcs.headD 0)
  let mark := srcs.any (fun r => vtainted s tile r n)
  let reduce := fun (f : Fp32 → Fp32 → Fp32) =>
    let s' := vput s tile dst (fpCanon (reduceTree f (Nat.log2 n) xs) :: freeLanes s.free (n - 1)) mark
    { s' with free := s.free + (n - 1) }
  match fn with
  | .sum => reduce fpAdd
  | .max => reduce fpMax
  | .other code =>
    vput s tile dst ((List.range n).map (fun i => fpCanon (Config.valuLane code (srcs.map (fun r => vget s tile r i))))) mark

/-- NARROW (R109): one element row at `dst`, its scale bytes at SCALE_ADDR × 4. -/
def narrowTile (s : State) (tile dst src : Nat) (opc : BitVec 32) : State :=
  match fmtOf (opc.extractLsb' 19 3).toNat with
  | none => s
  | some f =>
    let xs := (List.range (16 * blocksPerRow f)).map (vget s tile src)
    let r := narrowRow f (opc.getLsbD 18) xs
    let mark := vtainted s tile src (16 * blocksPerRow f)
    let s := writeRow s (clusterOf tile) (.scratch tile dst) r.1 mark
    let s := writeSpan s tile ((opc.extractLsb' 0 18).toNat * 4) mark 16 r.2.1
    countIn s (clusterOf tile) (opc.extractLsb' 22 10).toNat r.2.2

/-- WIDEN: the row at `src` with the scale bytes at `scaleAddr`, into consecutive registers. The invalid codes are
counted under the tensor that the placement gives for the row (log entry 26). -/
def widenTile (s : State) (tile dst src scaleAddr : Nat) (f : Fmt) (found : List Found) : State :=
  let row := readRow s (clusterOf tile) (.scratch tile src)
  let sc := readSpan row.state tile scaleAddr (blocksPerRow f)
  let r := widenRow f row.bytes sc.bytes
  let tensor := ((entryAt s (clusterOf tile) false src).map (·.tensor)).getD 0
  let mark := row.poisoned || sc.poisoned || foundBad found
  applyFound (countIn (vput sc.state tile dst r.1 mark) (clusterOf tile) tensor r.2) tile found

/-- LOAD: the rows of one vector register; what the decoder finds goes with them. -/
def loadTile (s : State) (tile reg addr : Nat) (e : Ecc) : State :=
  let n := vectorLanes tile
  let p := Place.scratch tile addr
  let r := readRows s (clusterOf tile) p (n / 16)
  applyEcc (vput r.state tile reg (fpList n r.bytes) (r.poisoned || eccBad p e)) p e

/-- STORE. -/
def storeTile (s : State) (tile reg addr : Nat) : State :=
  writeRows s (clusterOf tile) (.scratch tile addr) (vtainted s tile reg (vectorLanes tile)) (vectorLanes tile / 16) ((vreg s tile reg).flatMap fpBytes)

/-! ## Slices (R53 to R55, R74) -/

/-- A window of the row that another requester may join: it holds at most 64 (R54). -/
def joinable (row : Nat) (w : Window) : Bool := w.row == row && decide (w.members.length + w.engines.length < 64)

/-- The slice has a merge entry free (R54). The slice is bits [24:21] of the address (R79). -/
def mergeFree (i : Island) (row : Nat) : Bool :=
  decide ((i.windows.filter (fun w => w.row / 2097152 == row / 2097152)).length < 8)

/-- One row of a flagged read at a remote slice: it joins a window, opens one while the slice has fewer than 8, or is served at
once (R54). A row is read, and corrected, once for every requester (R88). -/
def mergeRow (s : State) (cluster : Nat) (p : Place) (m : Member) (e : Ecc) : State :=
  let i := getIsland s cluster
  match takeFirst (joinable p.row) i.windows with
  | some (w, rest) =>
    putIsland s cluster { i with
      windows := rest ++ [{ w with members := w.members ++ [m] }],
      net := { i.net with mergedReads := sat 32 (i.net.mergedReads + 1) } }
  | none =>
    let r := readRow s (clusterOf m.tile) p
    let bad := r.poisoned || eccBad p e
    let s := applyEcc r.state p e
    let i := getIsland s cluster
    if mergeFree i p.row then
      let w : Window := { row := p.row, members := [m], data := r.bytes, poisoned := bad }
      putIsland s cluster { i with windows := i.windows ++ [w] }
    else
      let s := modNet s cluster (fun c => { c with mergeDeclined := sat 32 (c.mergeDeclined + 1) })
      let f : Flits := { poisoned := bad, total := m.total, parts := [(m.place, r.bytes)] }
      transmit s cluster { consumer := m.tile, crossing := m.crossing, flits := f } 1

/-- SLICE_READ: rows of the own cluster land at once; rows of another one cross the network, taken by RECV. A fenced
cluster refuses. A unit that is no cluster is rejected (R4). -/
def sliceReadTile (s : State) (tile dst addr unit rows crossing : Nat) (merge : Bool) (e : Ecc) : State :=
  let own := clusterOf tile
  let p := Place.slice unit addr
  if isCluster unit = false then s
  else if unit = own then
    let r := readRows s own p rows
    let s := writeRows r.state own (.scratch tile dst) (r.poisoned || eccBad p e) rows r.bytes
    applyEcc s p e
  else if (getIsland s unit).fenced then s
  else
    let s := routed s (runSlot s own) own unit 1
    if merge then
      (List.range rows).foldl (fun s j =>
        mergeRow s unit (p.next j) { tile := tile, dst := dst, crossing := crossing, place := j, total := rows } (eccAt e j)) s
    else
      let r := readRows s own p rows
      let s := transmit r.state unit { consumer := tile, crossing := crossing, flits := oneFlit r.bytes (r.poisoned || eccBad p e) } rows
      applyEcc s p e

/-- SLICE_WRITE: the same in the other direction; full buffers on the way stall the producer (R42). -/
def sliceWriteTile (s : State) (tile src addr unit rows crossing : Nat) (full : Bool) (e : Ecc) : State :=
  let own := clusterOf tile
  let p := Place.scratch tile src
  if isCluster unit = false then s
  else
    let r := readRows s own p rows
    let bad := r.poisoned || eccBad p e
    let s := if unit = own then writeRows r.state own (.slice unit addr) bad rows r.bytes
      else stallFor (transmit r.state tile
        { consumer := unit, crossing := crossing, flits := oneFlit r.bytes bad, writeAt := some addr } rows) tile crossing
        (full && !(getIsland r.state unit).fenced)
    applyEcc s p e

/-! ## Crossings and ligatures -/

/-- The tail of a new-epoch step waits at a COMMON cluster until the compat swap has rewritten it (R219). -/
def swapTail (s : State) (u : Nat) : Bool :=
  match (getIsland s u).desc.bind (fun d => findStep s d.step) with
  | none => false
  | some st => match newImage s st with
    | some c => decide (st.kind = .decode) && !(c.layersDone.contains 64) && decide ((slotTables s u st.slot).role = .common)
    | none => false

/-- RECV with its token present, or the island gates (R43). -/
def recvTile (s : State) (tile dst crossing : Nat) : State :=
  let u := clusterOf tile
  let i := getIsland s u
  let k := boxKey tile crossing
  match (if swapTail s u then none else i.inbox.find? (fun kv => kv.1 == k && wholeFlits kv.2)) with
  | some kv => receive (putIsland s u { i with inbox := terase i.inbox k, gate := none }) tile dst kv.2
  | none => putIsland s u { i with gate := some (.crossing tile dst crossing) }

/-- The ligature table entry of a tag in a cluster, for a slot's placement (R57). -/
def ligEntry (s : State) (cluster slot tag : Nat) : Option LigEntry :=
  (slotTables s cluster slot).ligs.find? (fun e => e.tag == tag)

/-- Bytes of a transfer. -/
def flitLength (f : Flits) : Nat := (f.parts.map (fun kv => kv.2.length)).sum

/-- Bytes of the ligature buffer of a router (R60). -/
def ligBuffer : Nat := 65536

/-- The tag's allocation in a node's buffer has room for a partial, and so has the buffer (R60). -/
def nodeRoom (s : State) (cluster : Nat) (p : Partial) : Bool :=
  let bytes (l : List Partial) : Nat := (l.map (fun x => flitLength x.flits)).sum
  let all_ := (getIsland s cluster).partials
  decide (bytes all_ + flitLength p.flits ≤ ligBuffer) && (match ligEntry s cluster p.slot p.tag with
    | some e => decide (bytes (all_.filter (fun x => x.tag == p.tag && x.slot == p.slot)) + flitLength p.flits ≤ e.alloc)
    | none => true)

/-- A partial result enters a ligature node. -/
def enterNode (s : State) (cluster : Nat) (p : Partial) : State :=
  let i := getIsland s cluster
  putIsland s cluster { i with partials := i.partials ++ [p] }

/-- The 64-bit form of a 16-byte partial on a link: A × 2^-36 / q, and the poison value (R125). -/
def linkPartial (quantum : Nat) (b : List Byte) : List Byte :=
  let v : Int := (BitVec.ofNat 128 (leNat b)).toInt
  leBytes 8 (signedField 64 (if v = -(2 ^ 95) then -(2 ^ 63) else v / 2 ^ (36 - quantum)))

/-- The 96-bit sum that a 64-bit partial stands for, and whether it is poisoned. -/
def linkSum (quantum : Nat) (b : List Byte) : BitVec 96 × Bool :=
  let v : Int := (BitVec.ofNat 64 (leNat b)).toInt
  (BitVec.ofInt 96 (v * 2 ^ (36 - quantum)), decide (v = -(2 ^ 63)))

/-- Some bytes in eachPiece of n, each through a function. -/
def eachPiece (n : Nat) (f : List Byte → List Byte) (b : List Byte) : List Byte :=
  (List.range (b.length / n)).flatMap (fun j => f ((b.drop (n * j)).take n))

/-- What LIG_SEND puts on the ligature: a reduction of reference mode travels in its 64-bit form (R58, R125). -/
def linkForm (s : State) (cluster slot tag : Nat) (f : Flits) : Flits :=
  match ligEntry s cluster slot tag with
  | some e =>
    if inReference s cluster && decide (e.op = .sum) && !f.empty then
      { f with parts := f.parts.map (fun kv => (kv.1, eachPiece 16 (linkPartial e.quantum) kv.2)), quantum := some e.quantum }
    else f
  | none => f

/-- LIG_SEND: rows of the scratchpad, or an EMPTY flit, enter the node of the tile's own router as this tile's input (R57,
R77); the router sends and counts what the node combines. While the tag's allocation is full, the router withholds its acknowledgement, and the producer stalls (R60). -/
def ligSendTile (s : State) (tile unit addr tag : Nat) (f : Flits) : State :=
  let c := clusterOf tile
  let slot := runSlot s c
  let f := { linkForm s c slot tag f with step := sendStep s tile }
  let p : Partial := { tag := tag, input := .tile (unitTile tile), flits := f, slot := slot, unit := unit, addr := addr }
  if nodeRoom s c p then enterNode s c p
  else
    let i := getIsland s c
    putIsland s c { i with stalled := some tag, heldPartial := some p }

/-- The words of a cold pass into the island's descriptor copy: W251 to W255 (R154). -/
def routeWords (s : State) (u : Nat) (bytes : List Byte) : State :=
  let i := getIsland s u
  let put (t : Table Nat) (j : Nat) : Table Nat := tput 0 t (251 + j) (leNat ((bytes.drop (4 * j)).take 4))
  putIsland s u { i with desc := i.desc.map (fun d => { d with words := (List.range 5).foldl put d.words }) }

/-- A scaled element of a ligature's result: in reference mode the 96-bit sum ends with its one rounding. -/
def scaleResult (quantum : Option Nat) (bytes : List Byte) (t : Fp32) : List Byte :=
  match quantum with
  | some q => eachPiece 8 (fun b => fpBytes (refResult (linkSum q b).1 (linkSum q b).2 t)) bytes
  | none => (fpList (bytes.length / 4) bytes).flatMap (fun x => fpBytes (fpMul x t))

/-- A result that goes on as a partial: in reference mode as DRAIN writes one, in 16 bytes (R123). -/
def partialResult (quantum : Option Nat) (bytes : List Byte) : List Byte :=
  match quantum with
  | some q => eachPiece 8 (fun b =>
      leBytes 16 (signedField 128 (if (linkSum q b).2 then -(2 ^ 95) else (linkSum q b).1.toInt))) bytes
  | none => bytes

/-- The result of a reduction arrives at its destination tile. A layer's route token moves on to its next cold pass. -/
def ligReceive (s : State) (tile dst tag : Nat) (t : Option Fp32) (f : Flits) : State :=
  let u := clusterOf tile
  let i := getIsland s u
  if f.route then
    match f.parts with
    | [] => putIsland s u { i with ligResults := terase i.ligResults tag }
    | [kv] => routeWords (putIsland s u { i with ligResults := terase i.ligResults tag }) u kv.2
    | kv :: l => routeWords (putIsland s u { i with ligResults := tput {} i.ligResults tag { f with parts := l } }) u kv.2
  else
    let s := putIsland s u { i with ligResults := terase i.ligResults tag }
    let b := if f.empty then [] else match t with
      | some t => scaleResult f.quantum (flitBytes f) t
      | none => partialResult f.quantum (flitBytes f)
    receive s tile dst { f with parts := [(0, b)] }

/-- LIG_RECV with its token present, or the island gates. -/
def ligRecvTile (s : State) (tile dst tag : Nat) (t : Option Fp32) : State :=
  let u := clusterOf tile
  let i := getIsland s u
  match (if swapTail s u then none else i.ligResults.find? (fun kv => kv.1 == tag)) with
  | some kv => ligReceive (putIsland s u { i with gate := none }) tile dst tag t kv.2
  | none => putIsland s u { i with gate := some (.ligature tile dst tag t) }

/-! ## DMA (R91) -/

/-- The half that an island runs: that of its step (R210). -/
def runHalf (s : State) (u : Nat) : Nat := ((getIsland s u).desc.map (·.half)).getD 0

/-- DMA_POST: the descriptor, of the list set that runs, joins the tile's queue of 8; a full queue takes none. -/
def dmaPostTile (s : State) (tile index : Nat) : State :=
  let k := runHalf s (clusterOf tile) * 64 + index
  modTile s tile (fun t => if t.dmaQueue.length < 8 then { t with dmaQueue := t.dmaQueue ++ [(index, tget 0 t.dmaTable k)] } else t)

/-- DMA_WAIT: the counter holds its count and loses it, or the island gates. -/
def dmaWaitTile (s : State) (tile ctr count : Nat) : State :=
  let u := clusterOf tile
  let have_ := tget 0 (getTile s tile).done ctr
  let i := getIsland s u
  if count ≤ have_ then
    modTile (putIsland s u { i with gate := none }) tile (fun t => { t with done := tput 0 t.done ctr (have_ - count) })
  else putIsland s u { i with gate := some (.dma tile ctr count) }

end Sys2Proof.Machine
end

