-- ==== Sys2Proof/Machine/VellumOps.lean ====
section
/-! DEFINITION. Shared operations of the vellum: the regions of a site (R136, R137), retirement of granules and arrays
(R134, R135), what a read finds (R131, R132), access rights (R143) and commit clamping (R140). -/

namespace Sys2Proof.Machine

/-- The site and the unit that hold a unit: the relocation table goes before the striping (R221). -/
def holding (s : State) (site unit : Nat) : Nat × Nat :=
  let sh := shareAt s site unit
  if sh.1.region = .master then
    match (getSlot s sh.1.slot).relocated.find? (fun kv => kv.1 == chunkOf site sh.2) with
    | some kv => (kv.2.1, (kv.2.2 + sh.2 % 2) * granuleUnits + unit % granuleUnits)
    | none => (site, unit)
  else (site, unit)

/-- The site that holds a unit. -/
def holdingSite (s : State) (site unit : Nat) : Nat := (holding s site unit).1

/-! ## Retirement (R134, R135) -/

def modSite (s : State) (d : Nat) (f : Site → Site) : State := putSite s d (f (getSite s d))

/-- A Q-die site with no reserve left gives up a free page of its own, which leaves FREE (R139) and is recorded with the
retirement. -/
def giveUpPage (s : State) (d : Nat) : State :=
  if isQDie d && decide (spareGranules s d = 0) then
    match lowestFree s (qIndex d) with
    | some p =>
      let v := getPage s p
      putPage { s with nvm := { s.nvm with retiredPages := s.nvm.retiredPages ++ [p] } } p { v with
        state := .retired, generation := (v.generation + 1) % 2 ^ 32 }
    | none => s
  else s

/-- A granule is remapped to a spare and recorded in the NVM: AUX 0 for the correctable trigger, 1 for the
uncorrectable one. A 513th retirement loses the site. -/
def retireGranule (s : State) (d granule aux : Nat) : State :=
  let l := tget [] s.nvm.remaps d
  if (getSite s d).lost then s
  else if l.contains granule then note s 0x0205 2 (siteUnit d) granule aux
  else if 512 ≤ l.length then siteLost s d 3
  else
    let s := giveUpPage s d
    let s := { s with nvm := { s.nvm with remaps := tput [] s.nvm.remaps d (l ++ [granule]) } }
    note s 0x0205 2 (siteUnit d) granule aux

/-- ALERT_N for a governor matter that has no cause of R316: it stays until warnings are acknowledged (R19). -/
def alertOnly (s : State) (unit : Nat) : State :=
  if s.blotter.warnings.any (fun w => w.cause == 0 && w.unit == unit) then s
  else { s with blotter := { s.blotter with warnings := s.blotter.warnings ++ [{ cause := 0, unit := unit, ended := true }] } }

/-- An array is failed: recorded, reported, and a second one in its channel loses the site. `a` is channel × 8 + array. -/
def failArray (s : State) (d a : Nat) : State :=
  let l := tget [] s.nvm.failedArrays d
  if l.contains a then s
  else
    let s := { s with nvm := { s.nvm with failedArrays := tput [] s.nvm.failedArrays d (l ++ [a]) } }
    let s := note (alertOnly s (siteUnit d)) 0x0206 2 (siteUnit d) (a / 8) (a % 8)
    if l.any (fun b => b / 8 == a / 8) then siteLost s d 4 else s

/-- One hour and 24 hours of host time, in ns. -/
def hourNs : Nat := 3600000000000
def dayNs : Nat := 86400000000000

/-- A correction that involved an array of the unit's channel: on 64 distinct units within 1 h it marks the array failed. -/
def markArray (s : State) (d unit arr : Nat) : State :=
  let a := unitChannel unit * 8 + arr % 8
  let v := getSite s d
  let l := v.arrayUnits.filter (fun x => decide (s.now < x.2.2 + hourNs) && !(x.1 == a && x.2.1 == unit))
  let l := l ++ [(a, unit, s.now)]
  let s := putSite s d { v with arrayUnits := l }
  if 64 ≤ (l.filter (fun x => x.1 == a)).length then failArray s d a else s

/-- More than 4 symbols of a unit corrected: the second time within 24 h, its granule is copied to a spare. -/
def heavyUnit (s : State) (d unit : Nat) : State :=
  let v := getSite s d
  let again := v.heavy.any (fun x => x.1 == unit && decide (s.now < x.2 + dayNs))
  let g := unit / granuleUnits
  putSite s d { v with
    heavy := v.heavy.filter (fun x => x.1 != unit && decide (s.now < x.2 + dayNs)) ++ [(unit, s.now)],
    copying := if again && !(v.copying.contains g) && !((tget [] s.nvm.remaps d).contains g) then v.copying ++ [g]
      else v.copying }

/-! ## Content that is lost with a unit (R132) -/

/-- A chunk of a slot is fetched again (R220). -/
def loseChunk (s : State) (n c : Nat) : State :=
  let v := getSlot s n
  if v.state = .empty ∨ v.verified.contains c = false ∨ v.missing.contains c then s
  else
    let s := putSlot s n { v with missing := v.missing ++ [c], missingAt := if v.missing.isEmpty then s.now else v.missingAt }
    postEvent s 0 5 (n + 4294967296)

/-- A row carries a session, or reads or fills a prefix. -/
def servedRow (s : State) (ref : RowRef) (r : StepRow) : Bool :=
  decide (r.ref = ref) || (match ref, r.ref with
    | .pfx x, .session id => decide ((getSession s id).pfx = some x)
    | _, _ => false)

/-- Pages of a session, or of a prefix, are lost: the steps that name them run again without its rows, and the Timed turns concerned,
which are that session's or the readers', are forfeited with FAULT (R254). -/
def pageFault (s : State) (ref : RowRef) : State :=
  let ids := match ref with | .session id => [id] | .pfx x => readersOf s x
  markDiscarded (ids.foldl (fun s id => forfeitOne s id 6) s) (servedRow s ref) true

/-- A KV page is freed and replaced: its session, or its prefix, prefills those positions again. -/
def losePage (s : State) (p : Nat) : State :=
  let v := getPage s p
  if s.vellum.waiting.contains p then s
  else match v.state with
  | .pinned => pageFault (rewindPfxFrom s v.session v.logical) (.pfx v.session)
  | .live => pageFault (rewindSession s v.session v.logical) (.session v.session)
  | .outbound => pageFault (rewindSession s v.session v.logical) (.session v.session)
  | _ => s

/-- A version's space in the store of its site holds the unit. -/
def versionHolds (w : AdapterVer) (d unit : Nat) : Bool :=
  w.present && w.site == d && w.extents.any (fun e => decide (e.1 ≤ unit) && decide (unit < e.1 + e.2))

/-- A tenant's adapter version that holds the unit becomes absent, its line loads are abandoned, and the host is asked to load it
again. -/
def loseVersion (s : State) (d unit tenant : Nat) : State :=
  let t := getTenant s tenant
  match t.versions.find? (fun w => versionHolds w d unit) with
  | none => s
  | some w =>
    let lines := (s.images.lines.filter (fun kv => kv.2.tenant == tenant && kv.2.version == w.index && lineLoading s kv.1)).map (·.1)
    let s := lines.foldl (fun s l => queueClear { s with images := { s.images with lines := tput {} s.images.lines l {} } }
      (.adapterLine l)) s
    let s := releaseStore s tenant [w]
    let s := putTenant s tenant { t with versions := t.versions.map (fun x => if x.index = w.index then absentVer x else x) }
    let s := report s { code := 0x0606, cls := 3, source := siteUnit d, tenant := tenant, partition := some t.partition, aux := w.index }
    postEvent s 0 8 tenant

/-- The tenants' versions that hold the unit. -/
def loseVersions (s : State) (d unit : Nat) : State :=
  (s.serving.tenants.map (·.1)).foldl (fun s t => loseVersion s d unit t) s

/-- The cold copy that holds the unit is written again from the master image; while a chunk of it is missing, the area waits (R222). -/
def rebuildCopy (s : State) (n d unit : Nat) : State :=
  let v := getSlot s n
  v.areas.foldl (fun s a =>
    let per := max 1 (copyUnits v a.layer)
    if a.site = d ∧ a.ready ∧ a.base ≤ unit ∧ unit < a.base + a.slots * per then
      match (coldExperts v a.layer).find? (fun x => x.2 == (unit - a.base) / per) with
      | some x =>
        if sectionMissing v [6] then
          let w := getSlot s n
          putSlot s n { w with areas := modWhere (fun y => y.layer == a.layer) (fun y => { y with ready := false }) w.areas }
        else writeCopy s n a x.1 x.2
      | none => s
    else s) s

/-- The draft page that a granule of a site's reserve holds (R176). -/
def draftAt (s : State) (d granule : Nat) : Option DraftPage :=
  s.serving.draftPages.find? (fun p => p.site == d && p.granule == granule)

/-- A draft page is freed as a KV page is: its session's row is discarded, and the draft cache is filled again from that page on. -/
def loseDraft (s : State) (q : DraftPage) : State := 
  pageFault (setDraft (pullRow s q.session) q.session (q.logical * 128)) (.session q.session)

/-- The chunk whose relocated copy a granule of a site's reserve holds: slot and chunk (R221). -/
def chunkHeld (s : State) (d granule : Nat) : Option (Nat × Nat) :=
  [0, 1].findSome? (fun n => ((getSlot s n).relocated.find? (fun kv =>
    kv.2.1 == d && decide (kv.2.2 ≤ granule) && decide (granule < kv.2.2 + 2))).map (fun kv => (n, kv.1)))

/-- What a granule of the reserve holds is repaired: a draft page, a relocated chunk, or a cold copy. -/
def repairReserve (s : State) (d unit : Nat) : State :=
  match draftAt s d (unit / granuleUnits), chunkHeld s d (unit / granuleUnits) with
  | some q, _ => loseDraft s q
  | none, some x => loseChunk s x.1 x.2
  | none, none => rebuildCopy (rebuildCopy s 0 d unit) 1 d unit

/-- Sessions whose histories take the extent in which a unit of the region lies are ended (R132, R235). -/
def loseHistory (s : State) (d unit : Nat) : State :=
  let e := (unit - (regionSpan s d .history).1 * granuleUnits) / 32
  (sessionIds s (fun v => isOpen v && v.extents.contains e)).foldl (fun s id =>
    let v := getSession s id
    report (endSession s id 0x0E) {
      code := 0x0209, cls := 3, source := siteUnit d, session := some id, tenant := v.tenant, partition := some v.partition,
      address := unit, aux := 1 }) s

/-- The repair of a unit's content by its region. The lettering tables are copied again from the master image: the engine's stop
ends with the copy. -/
def repairUnit (s : State) (r : VellumRef) : State :=
  let sh := shareAt s r.site r.unit
  match sh.1.region with
  | .master => loseChunk s sh.1.slot (chunkOf r.site sh.2)
  | .adapter => loseVersions s r.site r.unit
  | .kv => losePage s (pageOf r.site sh.2)
  | .cold => repairReserve s r.site r.unit
  | .lettering => writeUnits s r.site r.unit (mread s.vellum.mem (vellumKey r.site (r.unit * 64)) 64)
  | .history =>
    if s.serving.sessions.any (fun kv => isOpen kv.2 &&
        kv.2.extents.contains ((r.unit - (regionSpan s r.site .history).1 * granuleUnits) / 32)) then loseHistory s r.site r.unit
    else note s 0x0209 3 (siteUnit r.site) r.unit 0
  | .system => if r.copyHeld then s else note s 0x0208 6 (siteUnit r.site) r.unit 0

/-- Poisoned data of a master image or a cold copy fences the reading cluster, as a SHARED row does (R89, R132). -/
def fenceReader (s : State) (r : VellumRef) : State :=
  match r.reader with
  | some u =>
    let region := (shareAt s r.site r.unit).1.region
    if (region = .master ∨ (region = .cold ∧ (draftAt s r.site (r.unit / granuleUnits)).isNone)) ∧ isCluster u = true then
      if r.refillClean then refilled s u (lastIndex s) else fenceCluster s u (lastIndex s)
    else s
  | none => s

/-- Failed arrays in the channel of a unit. -/
def channelFailed (s : State) (d unit : Nat) : Nat :=
  ((tget [] s.nvm.failedArrays d).filter (fun b => b / 8 == unitChannel unit)).length

/-- What the controller makes of a unit: it corrects up to 8 symbols, or up to 3 beside the erasures of a failed array; a unit beyond
that is uncorrectable, and so is every bad one of a channel with two failed arrays (R131, R135). -/
def siteFinds (s : State) (d unit : Nat) (e : VellumEcc) : VellumEcc :=
  match e with
  | .corrected bits symbols arrays =>
    let k := channelFailed s d unit
    if (k = 0 ∧ symbols ≤ 8) ∨ (k = 1 ∧ symbols ≤ 3) then .corrected bits symbols (arrays.map (· % 8)) else .uncorrectable
  | .clean => .clean
  | .uncorrectable => .uncorrectable

/-- What a read found in its unit, at the place that holds it: corrections are counted and written back; an uncorrectable unit is
counted, reported, its granule retired and its content repaired. -/
def applyVellumEcc (s : State) (r : VellumRef) (e : VellumEcc) : State :=
  let d := (holding s r.site r.unit).1
  let unit := (holding s r.site r.unit).2
  match siteFinds s d unit e with
  | .clean => s
  | .corrected bits symbols arrays =>
    let s := modSite s d (fun v => { v with
      arrayCorrections := sat 32 (v.arrayCorrections + bits),
      symbolCorrections := sat 32 (v.symbolCorrections + bit (decide (0 < symbols))),
      writeBacks := if v.writeBacks.contains unit then v.writeBacks else v.writeBacks ++ [unit] })
    let s := if symbols = 0 then s else arrays.foldl (fun s a => markArray s d unit a) s
    if 4 < symbols then heavyUnit s d unit else s
  | .uncorrectable =>
    let s := modSite s d (fun v => { v with uncorrectable := sat 32 (v.uncorrectable + 1) })
    let s := note s 0x0204 3 (siteUnit d) unit (regionRow (shareAt s r.site r.unit).1.region)
    repairUnit (retireGranule (fenceReader s r) d (unit / granuleUnits) 1) r

/-! ## Access rights and clamping (R140, R143) -/

/-- A KV page that a tenant and its step may read: the step carries its session; for PINNED, any session of the owning tenant, or the
row that prefills it (R141, R143). -/
def kvReadable (s : State) (p tenant : Nat) (sessions prefixes : List Nat) : Bool :=
  let v := getPage s p
  (decide (v.state = .pinned) && v.tenant == tenant &&
      (prefixes.contains v.session || sessions.any (fun id => (getSession s id).tenant == v.tenant))) ||
    ((decide (v.state = .live) || decide (v.state = .outbound)) && v.tenant == tenant && sessions.contains v.session)

/-- A draft page is read, as a KV page is, for its own session in a step that carries it (R143, R176). -/
def draftReadable (s : State) (q : DraftPage) (tenant : Nat) (sessions : List Nat) : Bool :=
  (getSession s q.session).tenant == tenant && sessions.contains q.session

/-- A tenant's versions hold every unit of a run in the store of the site. -/
def adapterReadable (s : State) (d tenant unit n : Nat) : Bool :=
  tenant != 0 && (List.range n).all (fun k => (getTenant s tenant).versions.any (fun w => !w.loading && versionHolds w d (unit + k)))

/-- First position of a page that a unit belongs to. -/
def unitPosition (unit : Nat) : Nat := unit % granuleUnits / positionUnits

/-- An attention read of the unit is clamped: its position is at or above COMMITTED, of a KV page or of a draft page. -/
def clampedUnit (s : State) (d unit : Nat) : Bool :=
  let sh := shareAt s d unit
  if sh.1.region = .kv then decide ((getPage s (pageOf d sh.2)).committed ≤ unitPosition unit)
  else match draftAt s d (unit / granuleUnits) with
    | some p => decide (p.committed ≤ unitPosition unit)
    | none => false

/-- The site answers accesses: it is neither lost nor emptied, and trained. -/
def siteServes (s : State) (d : Nat) : Bool :=
  let v := getSite s d
  s.board.trained && !v.lost && !v.untrained && !v.emptied

end Sys2Proof.Machine
end

