-- ==== Sys2Proof/Machine/NetOps.lean ====
section
/-! DEFINITION. Shared operations of the network and the DMA engines: the end of a gate (R43), ligature nodes (R57 to R60),
route words (R154, R163), DMA descriptors and their transfers (R91 to R93, R142, R143), and edge links (R45, R49). -/

namespace Sys2Proof.Machine

/-! ## The end of a gate (R43) -/

/-- The cycles that an island was gated, and its late arrival. -/
def countLate (s : State) (u cycles : Nat) : State :=
  modNet s u (fun c => { c with lateStall := sat 64 (c.lateStall + cycles), lateArrivals := sat 32 (c.lateArrivals + 1) })

/-- The token of a gated island has come: the waiting stroke proceeds. An island that is not gated on something now
present stays as it is. -/
def resume (s : State) (u cycles : Nat) : State :=
  let i := getIsland s u
  if swapTail s u then s else match i.gate with
  | some (.crossing tile dst c) =>
    if i.inbox.any (fun kv => kv.1 == boxKey tile c && wholeFlits kv.2) then
      recvTile (landIsland (countLate s u cycles) u) tile dst c
    else s
  | some (.ligature tile dst tag t) =>
    if i.ligResults.any (fun kv => kv.1 == tag) then ligRecvTile (landIsland (countLate s u cycles) u) tile dst tag t else s
  | some (.dma tile ctr n) =>
    if n ≤ tget 0 (getTile s tile).done ctr then dmaWaitTile (landIsland (countLate s u cycles) u) tile ctr n else s
  | _ => s

/-! ## Ligature nodes (R57 to R60) -/

/-- A list of R59 in a 64 B row: eight entries of score, 16-bit index and a mark that the entry is in use. -/
def rankedRow (l : List Ranked) : List Byte :=
  let e := (l.take 8).flatMap (fun x => fpBytes x.1 ++ leBytes 2 x.2 ++ leBytes 2 1)
  e ++ List.replicate (64 - e.length) 0#8

/-- The list that a row holds. -/
def rankedOf (row : List Byte) : List Ranked :=
  (List.range 8).filterMap (fun j =>
    let e := (row.drop (8 * j)).take 8
    if leNat (e.drop 6) = 0 then none else some (fpOf e, leNat ((e.drop 4).take 2)))

/-- Row `j` of some bytes. -/
def rowAt (b : List Byte) (j : Nat) : List Byte := (b.drop (64 * j)).take 64

/-- TOPK of the inputs, one list for each position. -/
def topkBytes (k : Nat) (ins : List (List Byte)) : List Byte :=
  let rows := (ins.map (fun b => (b.length + 63) / 64)).foldl max 0
  (List.range rows).flatMap (fun j => rankedRow (rankMerge k (ins.map (fun b => rankedOf (rowAt b j)))))

/-- SUM of the inputs in operand order: FP32 elements with one rounding each, or exact 64-bit partials in the form of the
link (R58, R125). -/
def sumBytes (reference : Bool) (ins : List (List Byte)) : List Byte :=
  match ins with
  | [] => []
  | x :: xs =>
    if reference then
      let poison : Int := -(2 ^ 63)
      let at_ (b : List Byte) (j : Nat) : Int := (BitVec.ofNat 64 (leNat ((b.drop (8 * j)).take 8))).toInt
      (List.range (x.length / 8)).flatMap (fun j =>
        let vs := (x :: xs).map (fun b => at_ b j)
        leBytes 8 (signedField 64 (if vs.contains poison then poison else vs.foldl (· + ·) 0)))
    else
      let n := x.length / 4
      (List.range n).flatMap (fun j =>
        let at_ (b : List Byte) : Fp32 := fpOf ((b.drop (4 * j)).take 4)
        fpBytes (xs.foldl (fun a b => fpAdd a (at_ b)) (at_ x)))

/-- A partial waits as an input of a slot's entry. -/
def isInput (slot : Nat) (e : LigEntry) (x : LigIn) (p : Partial) : Bool :=
  p.tag == e.tag && p.slot == slot && decide (p.input = x)

/-- The partials of a tag in operand order, when every expected input is there. -/
def nodeInputs (i : Island) (slot : Nat) (e : LigEntry) : Option (List Flits) :=
  let get (x : LigIn) : Option Flits := (i.partials.find? (isInput slot e x)).map (·.flits)
  if e.inputs.all (fun x => (get x).isSome) then some (e.inputs.filterMap get) else none

/-- The combined transfer: an EMPTY input contributes nothing (R77). Partials in the 64-bit form add in it. -/
def combine (e : LigEntry) (ins : List Flits) : Flits :=
  let full := ins.filter (fun f => !f.empty)
  if full.isEmpty then emptyFlit
  else
    let b := full.map flitBytes
    let q := full.findSome? (·.quantum)
    let out := match e.op with
      | .sum => sumBytes q.isSome b
      | .topk k => topkBytes k b
    { oneFlit out (full.any (·.poisoned)) with quantum := q }

/-- The partials that a node has combined leave its buffer. -/
def dropPartials (i : Island) (slot : Nat) (e : LigEntry) : Island :=
  e.inputs.foldl (fun i x =>
    match takeFirst (isInput slot e x) i.partials with
    | some r => { i with partials := r.2 }
    | none => i) i

/-! ## Route words (R154, R163 to R166) -/

/-- Clusters of a layer in the placement's order, with the headroom that stands in under the variants in force: the
last one is the router cluster (R150). -/
def layerClusters (v : Slot) (l : Nat) : List Nat :=
  match v.body with
  | none => []
  | some b =>
    let us := (b.clusters.filter (fun c => decide (c.role = .layer l))).map (·.unit)
    us.map (fun u => match v.inForce.find? (fun w => w.covers.contains u) with
      | some w => w.claims.getD (w.covers.idxOf u) u
      | none => u)

/-- The experts that each position chose, best first. -/
def chosenExperts (b : List Byte) : List (List Nat) :=
  (List.range ((b.length + 63) / 64)).map (fun j => ((rankedOf (rowAt b j)).map (·.2)))

/-- The seat map of a layer that a step uses. -/
def seatMap (r : LayerRes) (epoch : Nat) : List Expert :=
  match r.older.find? (fun x => decide (epoch ≤ x.1)) with
  | some x => x.2
  | none => r.experts

/-- Each position's row, for the rows of a step in order. -/
def positionRows (st : Step) : List Nat := st.rows.zipIdx.flatMap (fun x => List.replicate x.1.count x.2)

/-- Rows that chose an expert. -/
def rowsChoosing (st : Step) (chosen : List (List Nat)) (e : Nat) : Nat :=
  let rs := ((positionRows st).zip chosen).filterMap (fun x => if x.2.contains e then some x.1 else none)
  rs.dedup.length

/-- Token positions that chose an expert. -/
def positionsChoosing (chosen : List (List Nat)) (e : Nat) : Nat := (chosen.filter (fun l => l.contains e)).length

/-- Word `w` of the island's own descriptor copy. -/
def setWord (s : State) (u w v : Nat) : State :=
  let i := getIsland s u
  putIsland s u { i with desc := i.desc.map (fun d => { d with words := tput 0 d.words w v }) }

/-- W240 to W250 of a group island: the group's chosen seats, in ascending order. -/
def groupWords (s : State) (u : Nat) (seats : List (Nat × Nat)) : State :=
  let s := setWord s u 240 seats.length
  (seats.take 10).zipIdx.foldl (fun s x => setWord s u (241 + x.2) (x.1.1 * 65536 + x.1.2)) s

/-- W251 to W255 of one cold pass as bytes. -/
def passBytes (passes : Nat) (cold : List (Nat × Nat)) : List Byte :=
  leBytes 4 (passes * 65536 + cold.length) ++ cold.flatMap (fun x => leBytes 4 (x.1 * 33554432 + x.2 % 33554432)) ++
    List.replicate (16 - 4 * cold.length) 0#8

/-- A list cut into runs of four. -/
def fours {α : Type} : Nat → List α → List (List α)
  | 0, _ => []
  | n + 1, l => if l.isEmpty then [] else l.take 4 :: fours n (l.drop 4)

/-- The token that carries a layer's cold passes to one island. -/
def routeToken (cold : List (Nat × Nat)) : Flits :=
  let runs := fours cold.length cold
  let parts := if runs.isEmpty then [(0, passBytes 0 [])] else runs.zipIdx.map (fun x => (x.2, passBytes runs.length x.1))
  { total := 1, parts := parts, route := true }

/-- A part of the cold copy at `unit` that the lookahead fetched for the step lies in a prefetch buffer of the layer (R165). -/
def lookedAhead (s : State) (us : List Nat) (step unit len : Nat) : Bool :=
  us.any (fun u => (tget [] s.vellum.prefetch u).any (fun p =>
    p.step == step && decide (p.ref.region = .cold) && decide (unit ≤ p.ref.unit) && decide (p.ref.unit < unit + len)))

/-- The routing weights that the Folio defines, which the TOPK destination computes from the chosen scores of each position (R163). -/
def weighRoutes (s : State) (u : Nat) (root : Digest) (l : Nat) (b : List Byte) : State :=
  let rows := (List.range ((b.length + 63) / 64)).map (fun j => (j, rankedOf (rowAt b j)))
  putIsland s u { getIsland s u with
    routing := rows.foldl (fun t x => tput [] t x.1 ((x.2.map (·.2)).zip (Config.routeWeights root l (x.2.map (·.1))))) [] }

/-- The TOPK destination of a layer: seats and cold copies from the step's seat map, the route words of every island of
the layer, and the layer's counts. A predicted cold expert goes into the first pass ahead of the others. The seat number of W241 to W250
counts within the layer, 0 to 99 (DESIGN CHOICE: R154 says only "seat number", log entry 43). -/
def routeWrite (s : State) (u tag l : Nat) (b : List Byte) : State :=
  match (getIsland s u).desc.bind (fun d => findStep s d.step) with
  | none => s
  | some st =>
    let v := getSlot s st.slot
    match v.layers.find? (fun r => r.layer == l) with
    | none => s
    | some r =>
      let map_ := seatMap r st.residencyEpoch
      let chosen := chosenExperts b
      let s := weighRoutes s u (stepRoot s st) l b
      let picked := (List.range map_.length).filter (fun e => decide (0 < positionsChoosing chosen e))
      let hot := picked.filterMap (fun e => match map_[e]? with
        | some x => if x.hot then some (x.place, positionsChoosing chosen e) else none
        | none => none)
      let cold := picked.filterMap (fun e => match map_[e]? with
        | some x => if x.hot then none else some (e, x.place * r.coldUnits)
        | none => none)
      let us := layerClusters v l
      let base := match v.areas.find? (fun a => a.layer == l) with | some a => a.base | none => 0
      let ahead (c : Nat × Nat) : Bool := lookedAhead s us st.num (base + c.2) r.coldUnits
      let cold := cold.filter ahead ++ cold.filter (fun c => !(ahead c))
      let predicted := bit ((cold.take 1).any ahead)
      let count (e : Nat) (x : Expert) : Expert := { x with current := x.current + rowsChoosing st chosen e }
      let r' := { r with
        experts := r.experts.zipIdx.map (fun x => count x.2 x.1),
        missesPredicted := sat 32 (r.missesPredicted + predicted),
        missesLate := sat 32 (r.missesLate + (cold.length - predicted)) }
      let s := putSlot s st.slot { v with layers := modWhere (fun x => x.layer == l) (fun _ => r') v.layers }
      let groups := us.dropLast
      let per := max 1 (groups.length / max 1 r.groups)
      let seatOrder := sortBy (fun a b => decide (a ≤ b)) (hot.map (·.1))
      let seats := seatOrder.filterMap (fun p => hot.find? (fun x => x.1 == p))
      let s := groups.zipIdx.foldl (fun s g =>
        groupWords s g.1 (seats.filter (fun x => x.1 / max 1 r.seatsPerGroup == g.2 / per))) s
      let s := match us.getLast? with
        | some router => setWord s router 240 0
        | none => s
      us.foldl (fun s i => putIsland s i { getIsland s i with
        ligResults := tput {} (getIsland s i).ligResults tag (routeToken cold) }) s

/-! ## DMA descriptors (R92) -/

/-- An address space of a descriptor. -/
inductive Space where
  | scratch | slice | vellum
  deriving DecidableEq, Repr

/-- A descriptor with its fields decoded; `none` for a reserved space code. -/
structure DmaDesc where
  length : Nat
  dst : Nat
  src : Nat
  dstUnit : Nat
  srcUnit : Nat
  tenant : Nat
  flag : Nat
  dstSpace : Option Space
  srcSpace : Option Space
  merge : Bool
  zero : Bool

/-- A space code. -/
def spaceOf (n : Nat) : Option Space :=
  match n with
  | 0 => some .scratch | 1 => some .slice | 2 => some .vellum | _ => none

/-- The cold-copy area of the layer that a cluster's step runs there. -/
def areaOf (s : State) (u : Nat) : Option ColdArea :=
  match (runTables s u).role with
  | .layer l => (getSlot s (runSlot s u)).areas.find? (fun a => a.layer == l)
  | _ => none

/-- The unit and address that a step descriptor word gives. A cold copy's offset counts from its layer's area, on that area's site
(R154); a row's first word gives its LINE, whose regions begin at LINE × 512 KiB of the slices (R170, R172; log entry 40). -/
def indirect (s : State) (u w : Nat) (space : Option Space) (unit : Nat) : Nat × Nat :=
  let v := descWord s u w
  if space = some .vellum ∧ 252 ≤ w then
    match areaOf s u with
    | some a => (siteUnit a.site, a.base + v % 33554432)
    | none => (unit, v % 33554432)
  else if space = some .slice ∧ 8 ≤ w ∧ w < 200 ∧ (w - 8) % 3 = 0 then (unit, v / 256 % 64 * lineBytes)
  else (unit, v)

/-- A descriptor as its cluster's engine reads it. -/
def dmaFields (s : State) (u : Nat) (d : BitVec 256) : DmaDesc :=
  let f (lo n : Nat) : Nat := (d.extractLsb' lo n).toNat
  let ds := spaceOf (f 106 2)
  let ss := spaceOf (f 104 2)
  let to_ := if d.getLsbD 100 then indirect s u (f 80 8) ds (f 144 16) else (f 144 16, f 192 32)
  let from_ := if d.getLsbD 101 then indirect s u (f 88 8) ss (f 128 16) else (f 128 16, f 160 32)
  { length := f 224 32, dst := to_.2, src := from_.2, dstUnit := to_.1, srcUnit := from_.1,
    tenant := f 112 16, flag := f 108 4, dstSpace := ds, srcSpace := ss, merge := d.getLsbD 103, zero := d.getLsbD 102 }

/-- The unit is of the kind that the space needs. -/
def unitFits (sp : Option Space) (u : Nat) : Bool :=
  match sp with
  | some .scratch => isTile u
  | some .slice => isCluster u
  | some .vellum => isSite u
  | none => true

/-- An end of the transfer lies in its space. -/
def inRange (sp : Option Space) (u addr len : Nat) : Bool :=
  match sp with
  | some .scratch => decide (addr + len ≤ scratchBytes u)
  | some .slice => decide (addr + len ≤ sliceBytes u)
  | some .vellum => decide (addr + len / 64 ≤ siteUnits)
  | none => true

/-- The place in SRAM of an end. -/
def dmaPlace (sp : Option Space) (u addr : Nat) : Option Place :=
  match sp with
  | some .scratch => some (.scratch u addr)
  | some .slice => some (.slice u addr)
  | _ => none

/-- Sessions of the step that a cluster runs. -/
def stepSessions (s : State) (u : Nat) : List Nat :=
  match (getIsland s u).desc.bind (fun d => findStep s d.step) with
  | some st => rowSessions st
  | none => []

/-- Prefix entries whose rows a cluster's step carries. -/
def stepPrefixes (s : State) (u : Nat) : List Nat :=
  match (getIsland s u).desc.bind (fun d => findStep s d.step) with
  | some st => rowPrefixes st
  | none => []

/-- A row of SRAM that R86 keeps from the transfer. The scribe's own queue is what loads an adapter and moves weights: R84 has it
write SHARED and ADAPTER rows, so of R86 only the TENANT check applies to it (log entry 35). -/
def rowBlocked (s : State) (u tenant : Nat) (write scribe : Bool) (p : Place) : Bool :=
  let r := regionAt s p
  (decide (r.type = .adapter) && r.owner != tenant) ||
    (!scribe && ((write && decide (r.type = .shared)) ||
      (decide (r.type = .adapter) && !((stepTenants s u).contains r.owner))))

/-- Some row of a transfer is kept from it. -/
def spanBlocked (s : State) (u tenant len : Nat) (write scribe : Bool) (p : Place) : Bool :=
  (List.range ((len + 63) / 64)).any (fun j => rowBlocked s u tenant write scribe (p.next j))

/-- Granules that a vellum transfer touches. -/
def spanGranules (addr len : Nat) : List Nat :=
  let a := addr / granuleUnits
  let b := (addr + len / 64 - 1) / granuleUnits
  (List.range (b + 1 - a)).map (· + a)

/-- The destination lies in ADAPTER regions throughout. -/
def intoAdapter (s : State) (d : DmaDesc) : Bool :=
  match dmaPlace d.dstSpace d.dstUnit d.dst with
  | some p => (List.range ((d.length + 63) / 64)).all (fun j => decide ((regionAt s (p.next j)).type = .adapter))
  | none => false

/-- A vellum end that R143 keeps from a fetch agent. The scribe's own queue moves residency and adapters: an adapter is read for its
tenant, into ADAPTER regions. A step writes KV pages of its own sessions, and of the prefix that it prefills. -/
def vellumBlocked (s : State) (u : Nat) (d : DmaDesc) (write scribe : Bool) (site addr : Nat) : Bool :=
  (spanGranules addr d.length).any (fun g =>
    let sh := findShare (siteShares s.vellum.layout site) g
    match sh.1.region with
    | .master => write
    | .cold =>
      match draftAt s site g with
      | some p => !(draftReadable s p d.tenant (stepSessions s u)) ||
          (write && decide (unitPosition (max addr (g * granuleUnits)) < p.committed))
      | none => write && !scribe
    | .adapter => write || !(adapterReadable s site d.tenant addr (d.length / 64)) || !(intoAdapter s d)
    | .kv =>
      let p := pageOf site sh.2
      let v := getPage s p
      if write then
        !(((decide (v.state = .live) && (stepSessions s u).contains v.session) ||
          (decide (v.state = .pinned) && (stepPrefixes s u).contains v.session)) && v.tenant == d.tenant &&
          decide (v.committed ≤ unitPosition (max addr (g * granuleUnits))))
      else !(kvReadable s p d.tenant (stepSessions s u) (stepPrefixes s u))
    | .lettering => true
    | .history => true
    | .system => true)

/-- The case of R93 that applies, if one does. -/
def dmaCase (s : State) (u : Nat) (d : DmaDesc) (scribe : Bool) : Option Nat :=
  let srcOn := !d.zero
  let blocked (sp : Option Space) (unit addr : Nat) (write : Bool) : Bool :=
    match dmaPlace sp unit addr with
    | some p => spanBlocked s u d.tenant d.length write scribe p
    | none => vellumBlocked s u d write scribe (unitDie unit) addr
  if (d.dstSpace.isSome && unitFits d.dstSpace d.dstUnit && !(inRange d.dstSpace d.dstUnit d.dst d.length)) ||
      (srcOn && d.srcSpace.isSome && unitFits d.srcSpace d.srcUnit && !(inRange d.srcSpace d.srcUnit d.src d.length)) then
    some 1
  else if !(unitFits d.dstSpace d.dstUnit) || (srcOn && !(unitFits d.srcSpace d.srcUnit)) then some 2
  else if d.length % 64 != 0 || decide (d.length < 64) || decide (2097152 < d.length) then some 3
  else if d.dstSpace.isNone || (srcOn && d.srcSpace.isNone) then some 4
  else if blocked d.dstSpace d.dstUnit d.dst true || (srcOn && blocked d.srcSpace d.srcUnit d.src false) then some 5
  else none

/-! ## The transfer -/

/-- The master image that a cluster's step reads in a slot: during a compat swap a new-epoch step reads the new one (R219). -/
def readImage (s : State) (u n : Nat) : MasterKey :=
  match ((getIsland s u).desc.bind (fun d => findStep s d.step)).bind (newImage s) with
  | some c => compatImage c
  | none => slotImage s n

/-- The bytes of the vellum that a run of units holds: a chunk that is stored reads as its Folio file, and a granule of a slot that
holds none as zeros; what the module wrote stands in `mem`. A KV position at or above COMMITTED reads as zeros (R140). -/
def vellumBytes (s : State) (u site addr len : Nat) : List Byte :=
  (List.range len).map (fun j =>
    let unit := addr + j / 64
    let sh := shareAt s site unit
    let off := unit % granuleUnits * 64 + j % 64
    match sh.1.region with
    | .master =>
      let c := chunkOf site sh.2
      if (getSlot s sh.1.slot).verified.contains c then
        masterByte (readImage s u sh.1.slot) (c * 4194304 + sh.2 % 2 * 2097152 + off)
      else 0#8
    | _ => if clampedUnit s site unit then 0#8 else mget s.vellum.mem (vellumKey site (unit * 64 + j % 64)))

/-- The transfer reads a chunk that is missing, or a cold copy that is being rebuilt: its fetch waits (R222, R443). -/
def waitsForChunk (s : State) (d : DmaDesc) : Bool :=
  !d.zero && decide (d.srcSpace = some .vellum) &&
    ((areasOn s (unitDie d.srcUnit)).any (fun a => !a.ready && decide (a.base ≤ d.src)) ||
    (spanGranules d.src d.length).any (fun g =>
      let sh := findShare (siteShares s.vellum.layout (unitDie d.srcUnit)) g
      decide (sh.1.region = .master) && (getSlot s sh.1.slot).missing.contains (chunkOf (unitDie d.srcUnit) sh.2)))

/-- A vellum read by a cluster's fetch agent, with the poison mark of its data. -/
def unitRef (s : State) (u tenant site unit : Nat) (refillClean : Bool) : VellumRef :=
  let sh := shareAt s site unit
  { site := site, unit := unit, region := sh.1.region, tenant := tenant, slot := sh.1.slot, reader := some u,
    refillClean := refillClean }

/-- A fetch agent reads a run of units: a request is one flit, the data comes back as one for each unit; the units are counted, a
clamped attention read once, and what the site controller found is applied (R67, R131, R140, R146). Both take the route tables' way
(R46). -/
def fetchUnits (s : State) (u tenant site unit n : Nat) (clean : Bool) (found : List (Nat × VellumEcc)) : RowRead :=
  let bytes := vellumBytes s u site unit (n * 64)
  let mark := (List.range n).any (fun j => tget false s.vellum.poisoned (site * siteUnits + unit + j))
  let bad := mark || found.any (fun x => decide (x.1 < n) && decide (siteFinds s site (unit + x.1) x.2 = .uncorrectable))
  let clamped := (List.range n).any (fun j => clampedUnit s site (unit + j))
  let s := modNet s u (fun c => { c with flitsOut := sat 64 (c.flitsOut + 1), flitsIn := sat 64 (c.flitsIn + n) })
  let at_ := siteUnit (holdingSite s site unit)
  let s := carry (carry s (unitPath s (runSlot s u) u at_) 1) (unitPath s (runSlot s u) at_ u) n
  let s := modSite s (holdingSite s site unit) (fun v => { v with
    readUnits := sat 64 (v.readUnits + n), specClamped := sat 32 (v.specClamped + bit clamped) })
  { bytes := bytes, poisoned := bad,
    state := found.foldl (fun s x =>
      if x.1 < n then applyVellumEcc s (unitRef s u tenant site (unit + x.1) clean) x.2 else s) s }

/-- The prefetch entry that a descriptor matches: the same units, read for the running step, for its tenant where they are KV pages,
and with no page that has changed hands since (R139, R142). -/
def fetchHit (s : State) (u : Nat) (d : DmaDesc) : Option (Prefetch × List Prefetch) :=
  let step := (getIsland s u).desc.map (·.step)
  takeFirst (fun (p : Prefetch) => p.ref.site == unitDie d.srcUnit && p.ref.unit == d.src && p.units == d.length / 64 &&
    (decide (p.ref.region ≠ .kv) || p.ref.tenant == d.tenant) && decide (some p.step = step) &&
    p.generations.all (fun g => (getPage s g.1).generation == g.2)) (tget [] s.vellum.prefetch u)

/-- A vellum source: a matching entry serves it and leaves the buffer; else it is a demand fetch (R142). -/
def fetchRead (s : State) (u : Nat) (d : DmaDesc) (clean : Bool) (found : List (Nat × VellumEcc)) : RowRead :=
  let site := unitDie d.srcUnit
  match fetchHit s u d with
  | some (p, rest) =>
    let s := { s with vellum := { s.vellum with prefetch := tput [] s.vellum.prefetch u rest } }
    { bytes := p.data, poisoned := p.poisoned,
      state := modSite s site (fun v => { v with prefetchHits := sat 32 (v.prefetchHits + 1) }) }
  | none =>
    let s := modSite s site (fun v => { v with demandFetches := sat 32 (v.demandFetches + 1) })
    fetchUnits s u d.tenant site d.src (d.length / 64) clean found

/-- A row's response to a DMA engine leaves the slice (R53). -/
def sendRow (s : State) (cluster : Nat) (t : Transfer) : State :=
  let s := modNet s cluster (fun c => { c with flitsOut := sat 64 (c.flitsOut + 1) })
  carry { s with fabric := { s.fabric with inFlight := s.fabric.inFlight ++ [t] } } t.path 1

/-- A row of a flagged DMA read: it joins a window, opens one, or is declined and answered at once; `e` is the response that the engine
waits for, but for its data (R53, R54, R92). -/
def mergeEngine (s : State) (u : Nat) (p : Place) (e : Transfer) (found : Ecc) : State :=
  let c := p.cluster
  let i := getIsland s c
  match takeFirst (joinable p.row) i.windows with
  | some (w, rest) =>
    putIsland s c { i with
      windows := rest ++ [{ w with engines := w.engines ++ [e] }],
      net := { i.net with mergedReads := sat 32 (i.net.mergedReads + 1) } }
  | none =>
    let r := readRow s u p
    let bad := r.poisoned || eccBad p found
    let s := applyEcc r.state p found
    let i := getIsland s c
    if mergeFree i p.row then
      let w : Window := { row := p.row, members := [], engines := [e], data := r.bytes, poisoned := bad }
      putIsland s c { i with windows := i.windows ++ [w] }
    else
      sendRow (modNet s c (fun n => { n with mergeDeclined := sat 32 (n.mergeDeclined + 1) })) c
        (engineTransfer s c r.bytes bad e)

/-- Row `j` of a flagged read as the engine waits for it: where its data goes. -/
def rowTemplate (s : State) (u input : Nat) (d : DmaDesc) (j : Nat) : Transfer :=
  { consumer := d.dstUnit, crossing := 0, flits := {}, engine := true, step := sendStep s u, forDma := some (u, input),
    writeAt := some (if d.dstSpace = some .vellum then d.dst + j else d.dst + 64 * j),
    toScratch := decide (d.dstSpace = some .scratch) }

/-- The descriptor is a flagged read of another cluster's slices (R92). -/
def dmaMerges (u : Nat) (d : DmaDesc) : Bool :=
  d.merge && !d.zero && decide (d.srcSpace = some .slice) && d.srcUnit != u

/-- A flagged read reaches its slice: every row joins a window or opens one, and the descriptor ends when the last row has come. -/
def dmaMerge (s : State) (u input : Nat) (d : DmaDesc) (e : Ecc) : State :=
  let n := d.length / 64
  let s := routed s (runSlot s u) u d.srcUnit 1
  let i := getIsland s u
  let s := putIsland s u { i with merging := i.merging ++ [(input, d.flag, n)] }
  (List.range n).foldl (fun s j =>
    mergeEngine s u ((Place.slice d.srcUnit d.src).next j) (rowTemplate s u input d j) (eccAt e j)) s

/-- A row of a flagged read has come; with the last one the descriptor is done (R91). -/
def rowCame (s : State) (u input : Nat) : State :=
  let i := getIsland s u
  match takeFirst (fun (m : Nat × Nat × Nat) => m.1 == input) i.merging with
  | none => s
  | some (m, rest) =>
    if 1 < m.2.2 then putIsland s u { i with merging := (m.1, m.2.1, m.2.2 - 1) :: rest }
    else
      let s := putIsland s u { i with merging := rest }
      if input < 16 then modTile s (u + input) (fun x => { x with done := tput 0 x.done m.2.1 (tget 0 x.done m.2.1 + 1) }) else s

/-- What the source gives: its bytes, the poison mark, and the state after the read. `ecc` is what an SRAM source's decoder found,
`found` what a site's did. A request is one flit, and the data comes back as one flit for each 64 B (R67). -/
def dmaRead (s : State) (u : Nat) (d : DmaDesc) (e : Ecc) (found : List (Nat × VellumEcc)) : RowRead :=
  if d.zero then { bytes := List.replicate d.length 0#8, poisoned := false, state := s }
  else match dmaPlace d.srcSpace d.srcUnit d.src with
    | some p =>
      let c := p.cluster
      let s := if c = u then s else routed (routed s (runSlot s u) u c 1) (runSlot s u) c u (d.length / 64)
      let r := readRows s u p (d.length / 64)
      { bytes := r.bytes, poisoned := r.poisoned || eccBad p e, state := applyEcc r.state p e }
    | none => fetchRead s u d (e.any (·.refillClean)) found

/-- Units written in the vellum, with the poison mark of their data; WRITTEN of a KV page rises (R89, R140). -/
def vellumWrite (s : State) (site addr : Nat) (b : List Byte) (poisoned : Bool) : State :=
  let n := b.length / 64
  let s := { s with vellum := { s.vellum with mem := mwrite s.vellum.mem (vellumKey site (addr * 64)) b } }
  let s := wroteUnits s site addr n poisoned
  (spanGranules addr b.length).foldl (fun s g =>
    let sh := findShare (siteShares s.vellum.layout site) g
    if sh.1.region = .kv then
      let p := pageOf site sh.2
      let v := getPage s p
      let last := min (g * granuleUnits + granuleUnits - 1) (addr + n - 1)
      putPage s p { v with written := max v.written (unitPosition last + 1) }
    else s) s

/-- A write of a DMA engine to the vellum crosses to the site, by the route tables' way (R46, R67). -/
def engineVellum (s : State) (u site addr : Nat) (b : List Byte) (poisoned : Bool) : State :=
  let n := b.length / 64
  let s := modNet s u (fun c => { c with flitsOut := sat 64 (c.flitsOut + n) })
  vellumWrite (carry s (unitPath s (runSlot s u) u (siteUnit site)) n) site addr b poisoned

/-- The destination takes the data: at once, or when its island's gate ends (R43). A fenced cluster refuses it, and it is held for
replay (R64). -/
def dmaWrite (s : State) (u : Nat) (d : DmaDesc) (b : List Byte) (poisoned : Bool) : State :=
  match dmaPlace d.dstSpace d.dstUnit d.dst with
  | some p =>
    let t : Transfer := {
      consumer := d.dstUnit, crossing := 0, flits := oneFlit b poisoned, writeAt := some d.dst,
      toScratch := decide (d.dstSpace = some .scratch), engine := true, producer := u, step := sendStep s u,
      path := unitPath s (runSlot s u) u d.dstUnit }
    if (getIsland s p.cluster).fenced then { s with fabric := { s.fabric with refused := s.fabric.refused ++ [t] } }
    else bringWrite (if p.cluster = u then s else routed s (runSlot s u) u p.cluster (d.length / 64)) t
  | none => engineVellum s u (unitDie d.dstUnit) d.dst b poisoned

/-- The source lies in a fenced cluster, whose router refuses the request (R64). -/
def dmaFenced (s : State) (d : DmaDesc) : Bool :=
  !d.zero && decide (d.srcSpace ≠ some .vellum) && (getIsland s (clusterOf d.srcUnit)).fenced

/-- An end of the transfer lies on a site that does not serve, and in no chunk relocated to one that does: no data moves (R145,
R221). -/
def dmaLost (s : State) (d : DmaDesc) : Bool :=
  let off (sp : Option Space) (unit addr : Nat) : Bool :=
    decide (sp = some .vellum) && !(siteServes s (holdingSite s (unitDie unit) addr))
  off d.dstSpace d.dstUnit d.dst || (!d.zero && off d.srcSpace d.srcUnit d.src)

/-! ## Arbiters (R51, R52) -/

/-- Identifier of a dynamic request: of a cluster's tile queue 0 to 15, or its scribe's queue 16, and by 32 higher where the cluster's
vellum fetch agent carries it (R142); 17 is a prefetch of the agent's own. -/
def requestId (u input : Nat) (vellum : Bool) : Nat := u * 64 + (if vellum then 32 else 0) + input

/-- The cluster of a request, and its input of the cluster's injection arbiter: its queue, or the fetch agent, 17. -/
def requestUnit (r : Nat) : Nat := r / 64
def requestInput (r : Nat) : Nat := if r % 64 < 32 then r % 64 else 17

/-- Identifiers of the arbiters: a cluster's injection, a cluster router's output port, an edge link by die × 4 + direction, a site's
controller, and the host port. -/
def injectionArb (u : Nat) : Nat := u
def routerArb (u : Nat) : Nat := 65536 + u
def linkArb (k : Nat) : Nat := 131072 + k
def siteArb (d : Nat) : Nat := 132096 + d
def hostArb : Nat := 132160

/-- The far end of a descriptor: where its data comes from or goes to, seen from its engine's cluster. -/
def farUnit (u : Nat) (d : DmaDesc) : Nat :=
  if !d.zero && (decide (d.srcSpace = some .vellum) || clusterOf d.srcUnit != u) then d.srcUnit else d.dstUnit

/-- The arbiters that a request to a unit passes: its cluster's injection, the edge links of the route tables' way, and the unit's
site controller or cluster router. -/
def arbPath (s : State) (u far : Nat) : List Nat :=
  injectionArb u :: ((unitPath s (runSlot s u) u far).map linkArb ++
    (if isSite far then [siteArb (unitDie far)] else if clusterOf far = u then [] else [routerArb (clusterOf far)]))

/-- The requests that wait at a cluster's engine: the head of each tile's queue, and of the scribe's. -/
def requestsAt (s : State) (u : Nat) : List (Nat × List Nat) :=
  let one (input : Nat) (d : BitVec 256) : Nat × List Nat :=
    let far := farUnit u (dmaFields s u d)
    (requestId u input (isSite far), arbPath s u far)
  (List.range 16).filterMap (fun n => ((getTile s (u + n)).dmaQueue.head?).map (fun x => one n x.2)) ++
    ((getIsland s u).scribeDma.head?.map (one 16)).toList

/-- The requests that wait anywhere. -/
def requests (s : State) : List (Nat × List Nat) := (s.fabric.islands.map (·.1)).flatMap (requestsAt s)

/-- The input of an arbiter by which a request comes: at a cluster's injection and at the host port its own; at an edge link its
cluster's place in the die, or the neighbour that it comes from; at a site and at a router its die (log entry 40). -/
def arbInput (arb r : Nat) : Nat :=
  let u := requestUnit r
  if arb < 65536 ∨ arb = hostArb then requestInput r
  else if 131072 ≤ arb ∧ arb < 132096 then
    (if unitDie u = (arb - 131072) / 4 then unitCluster u else 48 + unitDie u % 4)
  else unitDie u

/-- The request that an arbiter grants: one with the highest wait count, and among equal ones the next input at or after the
pointer. -/
def arbPick (waits : Table Nat) (arb next : Nat) (rs : List Nat) : Option Nat :=
  let top := (rs.map (tget 0 waits)).foldl max 0
  let best := sortBy (fun a b => decide (arbInput arb a ≤ arbInput arb b)) (rs.filter (fun x => tget 0 waits x == top))
  (best.find? (fun x => decide (next ≤ arbInput arb x))) <|> best.head?

/-- One grant at an arbiter: the losers' counts rise by 1 up to 255, and the pointer moves past the input that won. The count stays
with the request on its way. What a cluster's injection and its router's port grant is recorded there (R67). -/
def arbGrant (s : State) (arb : Nat) (rs : List Nat) : State :=
  match arbPick s.fabric.waits arb (tget 0 s.fabric.arbNext arb) rs with
  | none => s
  | some w =>
    let count := tget 0 s.fabric.waits w
    let raise := fun (t : Table Nat) (x : Nat) => if x = w then t else tput 0 t x (min 255 (tget 0 t x + 1))
    let s := { s with fabric := { s.fabric with
        waits := rs.foldl raise s.fabric.waits, arbNext := tput 0 s.fabric.arbNext arb (arbInput arb w + 1) } }
    if arb < 131072 then
      modNet s (arb % 65536) (fun n => { n with
        arbMaxWait := max n.arbMaxWait count, arbSaturated := sat 32 (n.arbSaturated + bit (decide (count = 255))) })
    else s

/-- Some grants among the same requests. -/
def arbGrants (arb : Nat) (rs : List Nat) : Nat → State → State
  | 0, s => s
  | n + 1, s => arbGrants arb rs n (arbGrant s arb rs)

/-- A request passes its arbiters, each of which makes some grants meanwhile; the next request of its queue starts at 0. `rs` are the
requests that waited with it. -/
def passArbiters (s : State) (r : Nat × List Nat) (rs : List (Nat × List Nat)) (grants : Nat) : State :=
  let at_ (arb : Nat) : List Nat := (rs.filter (fun x => x.2.contains arb)).map (·.1)
  let s := r.2.foldl (fun s arb => arbGrants arb (at_ arb) grants s) s
  { s with fabric := { s.fabric with waits := tput 0 s.fabric.waits r.1 0 } }

/-- What the engine met at the arbiters (R51, R81 to R83): `rs` are the requests that waited until this completion, its own among
them. A forced win stalls a stroke only where the lists were loaded without the check of R80 (R83). -/
def countLoad (s : State) (u input : Nat) (rs : List (Nat × List Nat)) (l : DmaLoad) : State :=
  let s := modMem s u (fun m => { m with
    sameRowYields := sat 32 (m.sameRowYields + l.yields), forcedWins := sat 32 (m.forcedWins + l.forced) })
  match rs.find? (fun x => requestUnit x.1 == u && x.1 % 32 == input) with
  | some r => passArbiters s r rs l.grants
  | none => s

/-- The step that a cluster runs is faulty and will be replayed. -/
def faultStep (s : State) (u : Nat) : State :=
  match (getIsland s u).desc with
  | some d => modStep s d.step (fun st => { st with faulty := true, confined := st.faulty && st.confined })
  | none => s

/-- A refused descriptor: reported and counted; the step's output is faulty (R93). -/
def dmaRefused (s : State) (u index case_ : Nat) : State :=
  let s := reportFlit (note s 0x0202 3 u index case_) u
  faultStep (modMem s u (fun m => { m with dmaErrors := sat 32 (m.dmaErrors + 1) })) u

/-- One descriptor runs at a cluster's engine. The isolation fault of a descriptor that fails R86 names its destination, whichever
end failed (DESIGN CHOICE, log entry 40). A read that a fenced cluster refuses, or that a lost site cannot serve, moves no data: its
step is replayed (R64, R145). -/
def dmaRun (s : State) (u index input : Nat) (raw : BitVec 256) (e : Ecc) (found : List (Nat × VellumEcc)) : State :=
  let d := dmaFields s u raw
  let scribe := decide (16 ≤ input)
  match dmaCase s u d scribe with
  | some c =>
    let s := if c = 5 then
        match dmaPlace d.dstSpace d.dstUnit d.dst with
        | some p => isolationFault s p 2
        | none => modMem (reportFlit (note s 0x0105 3 u d.dst 2) u) u (fun m => { m with
            isolationFaults := sat 32 (m.isolationFaults + 1) })
      else s
    dmaRefused s u index c
  | none =>
    if dmaFenced s d || dmaLost s d then faultStep s u
    else if dmaMerges u d then dmaMerge s u input d e
    else
      let r := dmaRead s u d e found
      dmaWrite r.state u d r.bytes r.poisoned

/-! ## Edge links (R45, R49) -/

/-- The clusters' role on a die needs a link no longer fit for its compiled load (R48): load in GB/s against 250 GB/s a
good sublink. -/
def loadExceeds (s : State) (b : FolioBody) (die dir : Nat) : Bool :=
  let good := ((List.range 16).filter (fun i => (goodSublinks s die dir).getLsbD i)).length
  b.linkLoads.any (fun x => x.1 == linkKey die dir && decide (250 * good < x.2))

/-- A link that no longer carries its load: a die variant for one of its ends, or NO_VARIANT. -/
def coverLink (s : State) (die dir : Nat) : State :=
  [0, 1].foldl (fun s n =>
    let v := getSlot s n
    match (if slotLive v then v.body else none) with
    | none => s
    | some b =>
      if loadExceeds s b die dir then
        let ends := die :: (match neighbour die dir with | some o => [o] | none => [])
        let fits (d : Nat) : Option (List Variant) :=
          if isComputeDie d then coverSet s b v.inForce (dieClusters d) else none
        match ends.findSome? fits with
        | some l => enforce s n b l
        | none => noVariant s n (mkUnit die 0 0)
      else s) s

/-- A sublink is mapped out: the link runs narrower, and a placement whose load no longer fits takes a variant. -/
def mapOutSublink (s : State) (die dir sub : Nat) : State :=
  let k := linkKey die dir
  let e := tget ({} : Edge) s.fabric.edges k
  if e.bad.getLsbD sub then s
  else
    let e' := { e with bad := e.bad ||| BitVec.ofNat 16 (2 ^ sub), outDue := e.outDue.filter (fun x => x != sub) }
    let s := { s with fabric := { s.fabric with edges := tput {} s.fabric.edges k e' } }
    let s := mapChanged (note s 0x0103 2 (mkUnit die 0 0) dir sub)
    coverLink s die dir

end Sys2Proof.Machine
end

