-- ==== Sys2Proof/Machine/NetEvents.lean ====
section
/-! DEFINITION. The meanings of the network, SRAM and DMA rows (chapters 2 and 3). -/

namespace Sys2Proof.Machine

/-- A transfer's flits as a router counts them. -/
def flitCount (f : Flits) : Nat := max 1 ((flitLength f + 63) / 64)

/-- NaN scores of a transfer's lists. -/
def nanScores (f : Flits) : Nat :=
  (((List.range (((flitBytes f).length + 63) / 64)).flatMap (fun j =>
    rankedOf (rowAt (flitBytes f) j))).filter (fun x => fpIsNan x.1)).length

/-- NaN scores that the inputs of a TOPK bring: those of its tiles' lists, and those that earlier nodes met (R59). -/
def nanMet (e : LigEntry) (ins : List Flits) : Nat :=
  match e.op with
  | .topk _ => ((e.inputs.zip ins).map (fun x => match x.1 with
      | .tile _ => nanScores x.2
      | .dir _ => x.2.nans)).sum
  | .sum => 0

/-- The result of the last node at its destination: the tiles' top-k result, a layer's route words, or data for LIG_RECV. NaN scores
count in the step that the result belongs to (R114). -/
def atDestination (s : State) (e : LigEntry) (f : Flits) : State :=
  let u := e.dest
  let b := flitBytes f
  let s := match e.op with
    | .topk _ => (clusterTiles u).foldl (fun s t => modTile s t (fun x => { x with
        topk := (List.range ((b.length + 63) / 64)).flatMap (fun j => rankedOf (rowAt b j)) })) s
    | .sum => s
  let s := if f.nans = 0 then s else match f.step with
    | some n => countFor s n e.tensor { topkNan := f.nans }
    | none => countIn s u e.tensor { topkNan := f.nans }
  match e.op, e.layer with
  | .topk _, some l => routeWrite s u e.tag l b
  | _, _ =>
    let i := getIsland s u
    putIsland s u { i with ligResults := tput { total := 0 } i.ligResults e.tag f }

/-- The clusters of a layer that take the route words of a TOPK destination, or the destination itself. -/
def destClusters (s : State) (e : LigEntry) : List Nat :=
  match e.op, e.layer with
  | .topk _, some l =>
    let n := ((getIsland s e.dest).desc.bind (fun d => findStep s d.step)).map (·.slot)
    layerClusters (getSlot s (n.getD 0)) l
  | _, _ => [e.dest]

/-- A ligature node's output comes to the next node, or to its destination (R57). -/
def deliverNode (s : State) (t : Transfer) (into : Option LigIn) (slot : Nat) : State :=
  match into with
  | some x => enterNode s (clusterOf t.consumer) { tag := t.crossing, input := x, flits := t.flits, slot := slot }
  | none => match ligEntry s t.producer slot t.crossing with
    | some e => atDestination s e t.flits
    | none => s

/-- The data of a transfer at its consumer: a write lands in its memory, a node's output in its node, and anything else waits in the
input buffer. Input activations are kept in the boundary frames (R438). A row that a DMA engine waits for is counted there (R53). -/
def deliver (s : State) (t : Transfer) : State :=
  if isSite t.consumer then
    let s := vellumWrite s (unitDie t.consumer) (t.writeAt.getD 0) (flitBytes t.flits) t.flits.poisoned
    match t.forDma with | some x => rowCame s x.1 x.2 | none => s
  else
    let u := clusterOf t.consumer
    let s := modNet s u (fun c => { c with flitsIn := sat 64 (c.flitsIn + flitCount t.flits) })
    match t.node, t.writeAt with
    | some x, _ => deliverNode s t x.1 x.2
    | none, some _ =>
      let s := bringWrite s t
      match t.forDma with | some x => rowCame s x.1 x.2 | none => s
    | none, none =>
      let s := keepInput s t
      let i := getIsland s u
      let k := boxKey t.consumer t.crossing
      putIsland s u { i with inbox := tput {} i.inbox k (joinFlits (tget { total := 0 } i.inbox k)
        { t.flits with step := t.step }) }

/-- The clusters that a transfer's arrival may resume: its consumer's, the engine's for which a row came, and those of a layer whose
route words it brought. -/
def resumedBy (s : State) (t : Transfer) : List Nat :=
  let lig := match t.node with
    | some (none, slot) => (match ligEntry s t.producer slot t.crossing with
      | some e => destClusters s e
      | none => [])
    | _ => []
  clusterOf t.consumer :: ((t.forDma.map (·.1)).toList ++ lig)

/-- TOKEN_ARRIVAL: the oldest transfer of the crossing arrives, and a gated consumer resumes (R42, R43). A fenced cluster
refuses it, and it is held for replay (R64); full boundary frames do not take it (R438). -/
def execTokenArrival (consumer crossing gatedCycles : Nat) (s : State) : Out :=
  .next (match takeFirst (fun (t : Transfer) => t.consumer == consumer && t.crossing == crossing) s.fabric.inFlight with
    | some (t, rest) =>
      let u := clusterOf consumer
      if (getIsland s u).fenced then
        { s with fabric := { s.fabric with inFlight := rest, refused := s.fabric.refused ++ [t] } }
      else if t.writeAt.isNone && t.node.isNone && !(frameRoom s u t.step) then s
      else (resumedBy s t).foldl (fun s u => resume s u gatedCycles)
        (deliver { s with fabric := { s.fabric with inFlight := rest } } t)
    | none => s)

/-- The stalled producer goes on: its gated cycles are counted, and what waited for it lands (R42, R43). -/
def unstall (s : State) (u cycles : Nat) : State :=
  let i := getIsland s u
  let s := putIsland s u { i with stalled := none, heldPartial := none }
  landIsland (modNet s u (fun c => { c with lateStall := sat 64 (c.lateStall + cycles) })) u

/-- SEND_ACK: the acknowledgement comes, and the stalled producer resumes (R42). A router gives it for a partial once the tag's
allocation has room (R60). -/
def execSendAck (producer : Nat) (crossing : Met Nat Nat) (s : State) : Out :=
  let u := clusterOf producer
  let i := getIsland s u
  .next (if i.stalled = some crossing.val then
      match i.heldPartial with
      | some p => if nodeRoom s u p then unstall (enterNode s u p) u crossing.met else s
      | none => unstall s u crossing.met
    else s)

/-- The island has a step in flight: one that it runs, or one that still has to come to it (R62). -/
def stepInFlight (s : State) (u : Nat) : Bool :=
  (getIsland s u).desc.isSome || s.serving.steps.any (fun st => (stepPath s st).contains u && !(st.ended.contains u))

/-- A ligature node holds a partial of the tag and still expects an input (R61). -/
def nodeWaits (s : State) (u tag : Nat) : Bool :=
  (getIsland s u).partials.any (fun p => p.tag == tag && match ligEntry s u p.slot tag with
    | some e => (nodeInputs (getIsland s u) p.slot e).isNone
    | none => true)

/-- The consumer waits on the crossing: at a receive stroke, or as a node that holds a partial of the tag; with a step in
flight (R61, R62). -/
def watching (s : State) (consumer crossing : Nat) : Bool :=
  let u := clusterOf consumer
  let i := getIsland s u
  let gated := match i.gate with
    | some (.crossing tile _ c) => tile == consumer && c == crossing
    | some (.ligature tile _ tag _) => tile == consumer && tag == crossing
    | some (.dma tile ctr _) => tile == consumer && ctr == crossing
    | _ => false
  !i.fenced && stepInFlight s u && (gated || nodeWaits s u crossing)

/-- The watchdog holds: the consumer waits at a DMA_WAIT, and the fetch agent reports that the descriptor at the head of its queue
is pending on a missing chunk (R61, R222). -/
def watchdogHeld (s : State) (consumer : Nat) : Bool :=
  let u := clusterOf consumer
  match (getIsland s u).gate with
  | some (.dma tile _ _) =>
    match (getTile s tile).dmaQueue with
    | x :: _ => waitsForChunk s (dmaFields s u x.2)
    | [] => false
  | _ => false

/-- WATCHDOG (R61, R63): a token in the same cycle is accepted with a near-miss; otherwise the producer's cluster is dead.
A producer already fenced gets no second report (R450). -/
def execWatchdog (t consumer producer crossing : Nat) (tokenSameCycle : Bool) (s : State) : Out :=
  let s := advance s t
  let u := clusterOf consumer
  .next (
    if watching s consumer crossing = false ∨ watchdogHeld s consumer then s
    else if tokenSameCycle then
      let s := modNet s u (fun c => { c with nearMisses := sat 32 (c.nearMisses + 1) })
      let s := note s 0x0102 0 producer consumer crossing
      match takeFirst (fun (x : Transfer) => x.consumer == consumer && x.crossing == crossing) s.fabric.inFlight with
      | some (x, rest) =>
        let s := deliver { s with fabric := { s.fabric with inFlight := rest } } x
        resume s u (50 * binMhz (islandBin s u))
      | none => s
    else if (getIsland s (clusterOf producer)).fenced then s
    else
      let s := modNet s u (fun c => { c with watchdogFires := sat 32 (c.watchdogFires + 1) })
      let s := reportFlit (note s 0x0101 4 producer consumer crossing) u
      fenceCluster s (clusterOf producer) (lastIndex s))

/-- FLIT_RETRY: the link counts it; more than 16 retries of a sublink within 1 ms map it out at the next step boundary
(R49). -/
def execFlitRetry (t die dir sublink : Nat) (s : State) : Out :=
  let s := advance s t
  let k := linkKey die dir
  let e := tget ({} : Edge) s.fabric.edges k
  let recent := e.recent.filter (fun x => decide (s.now < x.1 + 1000000)) ++ [(s.now, sublink)]
  let many := decide (16 < (recent.filter (fun x => x.2 == sublink)).length)
  let e' := { e with
    retries := e.retries + 1, recent := recent,
    outDue := if many && !(e.outDue.contains sublink) then e.outDue ++ [sublink] else e.outDue }
  .next (if (neighbour die dir).isSome && decide (sublink < 16) then
      let s := { s with fabric := { s.fabric with edges := tput {} s.fabric.edges k e' } }
      if isComputeDie die then
        modNet s (Config.portCluster die dir) (fun c => { c with linkRetries := sat 16 (c.linkRetries + 1) })
      else s
    else s)

/-- SUBLINK_OUT: a sublink that is due is mapped out (R45, R49). -/
def execSublinkOut (t die dir sublink : Nat) (s : State) : Out :=
  let s := advance s t
  .next (if (tget ({} : Edge) s.fabric.edges (linkKey die dir)).outDue.contains sublink then mapOutSublink s die dir sublink
    else s)

/-- MERGE_WINDOW_CLOSE: 32 cycles after it opened (R53). -/
def execMergeWindowClose (unit row : Nat) (s : State) : Out :=
  .next (if (getIsland s unit).windows.any (fun w => w.row == row) then closeWindow s unit row else s)

/-- The slot whose partials of a tag came first, and its entry there. -/
def nodeEntry (s : State) (unit tag : Nat) : Option (Nat × LigEntry) :=
  match (getIsland s unit).partials.find? (fun p => p.tag == tag) with
  | some p => (ligEntry s unit p.slot tag).map (fun e => (p.slot, e))
  | none => none

/-- The node's output at the next node, or at its destination; its links are those of the route tables (R46). What stays in its own
router crosses none. -/
def passOn (s : State) (unit slot gatedCycles : Nat) (e : LigEntry) (f : Flits) : State :=
  let s := if e.dest = unit then s else routed s slot unit e.dest (flitCount f)
  if e.final then (destClusters s e).foldl (fun s u => resume s u gatedCycles) (atDestination s e f)
  else enterNode s e.dest { tag := e.tag, input := e.into, flits := f, slot := slot }

/-- The node's output, which its fenced destination refuses, held at the die boundary for replay (R64). -/
def holdOutput (s : State) (unit slot : Nat) (e : LigEntry) (f : Flits) : State :=
  let t : Transfer := {
    consumer := e.dest, crossing := e.tag, flits := f, producer := unit, step := f.step, path := unitPath s slot unit e.dest,
    node := some (if e.final then none else some e.into, slot) }
  let s := modNet s unit (fun c => { c with flitsOut := sat 64 (c.flitsOut + flitCount f) })
  { s with fabric := { s.fabric with refused := s.fabric.refused ++ [t] } }

/-- LIGATURE_COMBINE (R57 to R60): every expected input is there; they combine in operand order, and the result goes on. While the
next node's allocation is full, the output is withheld and the inputs wait (R60). -/
def execLigatureCombine (unit tag gatedCycles : Nat) (s : State) : Out :=
  let i := getIsland s unit
  .next (match nodeEntry s unit tag with
    | none => s
    | some (slot, e) =>
      match nodeInputs i slot e with
      | none => s
      | some ins =>
        let f := { combine e ins with nans := nanMet e ins, step := ins.findSome? (·.step) }
        if i.fenced || (!e.final && !(nodeRoom s e.dest { tag := e.tag, input := e.into, flits := f, slot := slot })) then s
        else
          let s := putIsland s unit (dropPartials i slot e)
          if (getIsland s e.dest).fenced then holdOutput s unit slot e f
          else passOn s unit slot gatedCycles e f)

/-- A flagged read of the queue still waits for rows: its engine completes descriptors in order (R91). -/
def engineWaits (s : State) (u input : Nat) : Bool := (getIsland s u).merging.any (fun m => m.1 == input)

/-- The descriptor ends with its transfer; a flagged read ends when its last row has come. -/
def dmaEnded (s : State) (u input flag : Nat) : State :=
  if engineWaits s u input || decide (16 ≤ input) then s
  else modTile s (u + input) (fun x => { x with done := tput 0 x.done flag (tget 0 x.done flag + 1) })

/-- DMA_COMPLETE (R91 to R93): the oldest descriptor of the tile's queue, or of the scribe's for a tile number of 16 and
more, completes. One that waits for a missing chunk does not (R222), nor does one behind a flagged read whose rows are still to come. -/
def execDmaComplete (t cluster tile : Nat) (ecc : Met Ecc (List (Nat × VellumEcc))) (load : DmaLoad) (s : State) : Out :=
  let s := advance s t
  let input := min tile 16
  let rs := requests s
  .next (if engineWaits s cluster input then s
    else if 16 ≤ tile then
      match (getIsland s cluster).scribeDma with
      | [] => s
      | d :: rest =>
        if waitsForChunk s (dmaFields s cluster d) then s
        else
          let s := putIsland s cluster { getIsland s cluster with scribeDma := rest }
          countLoad (dmaRun s cluster 0 16 d ecc.val ecc.met) cluster 16 rs load
    else
      let u := cluster + tile
      match (getTile s u).dmaQueue with
      | [] => s
      | (index, d) :: rest =>
        let f := dmaFields s cluster d
        if waitsForChunk s f then s
        else
          let s := modTile s u (fun x => { x with dmaQueue := rest })
          let s := countLoad (dmaRun s cluster index tile d ecc.val ecc.met) cluster tile rs load
          resume (dmaEnded s cluster tile f.flag) cluster load.gated)

/-- Dynamic accesses of a bank that were granted after three losses (R81). -/
def forcedWins (s : State) (u n : Nat) : State := modMem s u (fun m => { m with forcedWins := sat 32 (m.forcedWins + n) })

/-- CORRECTED_WRITE_BACK: the corrected row is written in the bank's next dynamic cycle, unless a stroke wrote it first
(R81, R88). `row` is the row's byte key divided by 64. -/
def execCorrectedWriteBack (unit : Nat) (row : Met Nat Nat) (s : State) : Out :=
  let i := getIsland s unit
  .next (if i.writeBacks.contains row.val then
      forcedWins (putIsland s unit { i with writeBacks := i.writeBacks.filter (fun k => k != row.val) }) unit row.met
    else s)

/-- SCRUB_READ: a row of the cluster's slices is read; one that needed correction is rewritten, in a dynamic cycle (R81, R90). `row`
is a slice byte address divided by 64. -/
def execScrubRead (unit row : Nat) (ecc : Met Ecc Nat) (s : State) : Out :=
  let p := Place.slice unit (row * 64)
  .next (ecc.val.foldl (fun s e =>
    if rowBad p e then sramUncorrectable s p e.refillClean
    else if eccCorrects e || decide (0 < eccWords e) then
      forcedWins (modMem s unit (fun m => { m with
        secded := sat 64 (m.secded + eccWords e), scrubCorrections := sat 32 (m.scrubCorrections + 1) })) unit ecc.met
    else s) s)

/-! ## Clearing (R94, R95) -/

/-- The router cluster of every layer of the active placement, in layer order; a line takes 512 KiB of slices in each (R170). -/
def routerClusters (s : State) : List Nat :=
  match activeSlot s with
  | none => []
  | some n =>
    let v := getSlot s n
    match v.body with
    | some b => b.layers.filterMap (fun p => (layerClusters v p.layer).getLast?)
    | none => []

/-- A region of the line was retired by an error while it was cleared: the line is not given out (R95). -/
def lineRetired (s : State) (l : Nat) : Bool :=
  (routerClusters s).any (fun u => (List.range 8).any (fun j => (regionAt s (.slice u (l * lineBytes + j * 65536))).retired))

/-- The owner of an adapter line's regions, eight in every router cluster, which the placement has typed ADAPTER (R84, R170). -/
def setLineOwner (s : State) (l owner : Nat) : State :=
  (routerClusters s).foldl (fun s u => (List.range 8).foldl (fun s j =>
    let p := Place.slice u (l * lineBytes + j * 65536)
    { s with fabric := { s.fabric with
        regions := tput {} s.fabric.regions p.region { regionAt s p with type := .adapter, owner := owner } } }) s) s

/-- Descriptors that would still load a line are taken back. -/
def dropLineLoads (s : State) (l : Nat) : State :=
  (routerClusters s).foldl (fun s u =>
    let i := getIsland s u
    putIsland s u { i with scribeDma := i.scribeDma.filter (fun d => !(loadsLine l d)) }) s

/-- The open windows of some slice rows close, before the scribe writes or clears them (R55). -/
def closeRows (s : State) (u addr n : Nat) : State :=
  (getIsland s u).windows.foldl (fun s w => if addr ≤ w.row ∧ w.row < addr + n then closeWindows s u w.row else s) s

/-- SRAM bytes cleared, with their marks. -/
def clearSram (s : State) (key n : Nat) : State :=
  { s with fabric := { s.fabric with
      sram := mclear s.fabric.sram key n,
      live := s.fabric.live.filter (fun kv => !(decide (key / 64 ≤ kv.1) && decide (kv.1 < (key + n) / 64))),
      poisoned := s.fabric.poisoned.filter (fun kv => !(decide (key / 64 ≤ kv.1) && decide (kv.1 < (key + n) / 64))) } }

/-- The memory that a clear covers becomes zero. -/
def clearMemory (s : State) (k : ClearKind) : State :=
  match k with
  | .page p => clearPage s p
  | .adapterLine l =>
    setLineOwner ((routerClusters s).foldl (fun s u =>
      clearSram (closeRows s u (l * lineBytes) lineBytes) (sliceKey u (l * lineBytes)) lineBytes) (dropLineLoads s l)) l 0
  | .adapterStore tenant =>
    let mine := s.vellum.clearing.filter (fun x => x.1 == tenant)
    mine.foldl (fun s x => clearUnits s x.2.1 x.2.2.1 x.2.2.2)
      { s with vellum := { s.vellum with clearing := s.vellum.clearing.filter (fun x => x.1 != tenant) } }
  | .scratch u => clearIdle s [u]
  | _ => s

/-- The release of a cleared page, or its retirement after an error. A page keeps its generation (R139). -/
def clearedPage (s : State) (p : Nat) (error : Bool) : State :=
  let v := getPage s p
  putPage s p { generation := v.generation, state := if error then .retired else .free }

/-- No clear of the partition's memory is under way, so its FLR completes (R95, R292): RRS ends, and keys are new (R369). -/
def partitionCleared (s : State) (n : Nat) : State :=
  let f := getFn s (n + 1)
  let p := getPartition s n
  let s := putPartition (if p.isSealed then drewKeys s 2 else s) n { p with
    keyGen := p.keyGen + 1, parkKey := if p.isSealed then drawKey s 0 else 0, historyKey := if p.isSealed then drawKey s 1 else 0 }
  putFn s (n + 1) { f with
    rrs := false, stopPending := false, tdi := if f.stopPending then .unlocked else f.tdi }

/-- What a partition's FLR waits for (R292): its sessions and prefixes that a step in flight still holds, its pages that are yet to be
cleared, and the clears of its pages and its tenants' adapters. -/
def partitionWaits (s : State) (n : Nat) : Bool :=
  s.serving.sessions.any (fun kv => kv.2.partition == n && decide (kv.2.state ≠ .free)) ||
    s.serving.prefixes.any (fun kv => kv.2.partition == n && decide (kv.2.state ≠ .free)) ||
    s.vellum.waiting.any (fun p => (getPage s p).partition == n) ||
  s.serving.clears.any (fun k => match k with
    | .page p => (getPage s p).partition == n && decide ((getPage s p).state = .clearing)
    | .adapterStore t => !(getTenant s t).registered || (getTenant s t).partition == n
    | .adapterLine _ => true
    | _ => false)

/-- A tenant's clears are done: its deregistration completes. -/
def deregistersDone (s : State) : State :=
  if s.serving.clears.any (fun k => match k with | .adapterStore _ => true | .adapterLine _ => true | _ => false) then s
  else
    let l := s.mailbox.fetched.filter (fun f => f.started && f.opcode == 0x0302)
    l.foldl (fun s f => completeAt s f.func f.qp f.cid stSuccess 0 []) s

/-- Cluster whose memory a clear covers, for CLEARS_DONE. -/
def clearClusters (s : State) (k : ClearKind) : List Nat :=
  match k with
  | .adapterLine _ => routerClusters s
  | .scratch u => [u]
  | _ => []

/-- An uncorrectable error during a clear retires the frame or region, named by its key in `Fabric.regions`, until the next cold reset,
if the memory that was cleared holds it (R95). -/
def retireRegion (s : State) (us : List Nat) (region : Nat) : State :=
  match us.find? (fun u => rowOfIsland u (region * 128)) with
  | some u =>
    let r := tget {} s.fabric.regions region
    let s := { s with fabric := { s.fabric with regions := tput {} s.fabric.regions region { r with retired := true } } }
    let at_ := if region * 8192 < sliceKey 0 0 then region * 8192 - scratchKey u 0 else region * 8192 - sliceKey u 0
    reportFlit (note s 0x0203 4 u at_ 0) u
  | none => s

/-- A granule of the vellum in which a clear met an uncorrectable error is recorded, and retired as an uncorrectable unit retires it
(R134); its region number is site × 24,576 + granule. -/
def retireCleared (s : State) (k aux : Nat) : State :=
  let d := k / siteGranules
  retireGranule (note s 0x0203 4 (siteUnit d) (k % siteGranules) aux) d (k % siteGranules) 1

/-- What an error during a clear leaves. A cluster with a retired frame or WORK region is not given to a placement: it is fenced, and
covered as for a dead one (DESIGN CHOICE, log entry 39). -/
def clearError (s : State) (k : ClearKind) (us : List Nat) (region : Nat) : State :=
  match k with
  | .page p => note s 0x0203 4 (siteUnit (pageSite p)) (p / 32) 0
  | .adapterLine _ => retireRegion s us region
  | .scratch u => fenceCluster (retireRegion s us region) u (lastIndex s)
  | .adapterStore _ => retireCleared s region 0
  | .slot _ => retireCleared s region 0
  | .partition _ => note s 0x0203 4 0xFFFF 0 0

/-- A scratchpad is cleared with no step in its island (R94), and a slice of an island that is gated inside a step waits until its
clock runs (R43). -/
def clearHeld (s : State) (k : ClearKind) : Bool :=
  match k with
  | .scratch u => (getIsland s u).desc.isSome
  | .adapterLine _ => (routerClusters s).any (fun u => midStep (getIsland s u))
  | _ => false

/-- CLEAR_COMPLETE: a clear ends; the memory is free to be given out, or retired after an uncorrectable error, which names the
frame or region (R94, R95). `forced` are the clear's own grants after three losses (R81). -/
def execClearComplete (t index : Nat) (error : Met (Option Nat) Nat) (s : State) : Out :=
  let s := advance s t
  .next (match s.serving.clears[index]? with
    | none => s
    | some (.partition n) =>
      if partitionWaits s n then s
      else
        partitionCleared { s with serving := { s.serving with clears := s.serving.clears.eraseIdx index } } n
    | some k =>
      let us := clearClusters s k
      if clearHeld s k then s else
      let s := { s with serving := { s.serving with clears := s.serving.clears.eraseIdx index } }
      let s := clearMemory s k
      let s := us.foldl (fun s u => forcedWins (modMem s u (fun m => { m with clearsDone := sat 32 (m.clearsDone + 1) })) u error.met) s
      let s := match k with
        | .page p => clearedPage s p error.val.isSome
        | .slot n => completeStarted (putSlot s n { refuse := (getSlot s n).refuse }) 0x0502 n stSuccess 0
        | _ => s
      let s := match error.val with
        | some region => clearError s k us region
        | none => s
      deregistersDone s)

end Sys2Proof.Machine
end

