-- ==== Sys2Proof/Machine/Sampler.lean ====
section
/-! DEFINITION. The sampler clusters (R178 to R186): the ChaCha20 draw, stencils, the kept candidates of a row's logits,
the test of speculative proposals, and the stop conditions of what a step delivers (R264 to R267). -/

namespace Sys2Proof.Machine

/-! ## ChaCha20 (R182) -/

/-- A word rotated left. -/
def rotl (x : BitVec 32) (n : Nat) : BitVec 32 := x.rotateLeft n

/-- The quarter round on four places of the state. -/
def quarterRound (st : List (BitVec 32)) (i j k l : Nat) : List (BitVec 32) :=
  let a := st.getD i 0#32
  let b := st.getD j 0#32
  let c := st.getD k 0#32
  let d := st.getD l 0#32
  let a := a + b
  let d := rotl (d ^^^ a) 16
  let c := c + d
  let b := rotl (b ^^^ c) 12
  let a := a + b
  let d := rotl (d ^^^ a) 8
  let c := c + d
  let b := rotl (b ^^^ c) 7
  (((st.set i a).set j b).set k c).set l d

/-- A column round and a diagonal round. -/
def doubleRound (st : List (BitVec 32)) : List (BitVec 32) :=
  let st := quarterRound (quarterRound (quarterRound (quarterRound st 0 4 8 12) 1 5 9 13) 2 6 10 14) 3 7 11 15
  quarterRound (quarterRound (quarterRound (quarterRound st 0 5 10 15) 1 6 11 12) 2 7 8 13) 3 4 9 14

/-- The block function: the state after ten double rounds, added to the state before. -/
def chachaBlock (st : List (BitVec 32)) : List (BitVec 32) :=
  let r := (List.range 10).foldl (fun s _ => doubleRound s) st
  List.zipWith (· + ·) r st

/-- The initial state: constants, the seed as key, block counter 0, and the nonce of a domain and a position. -/
def chachaState (seed : BitVec 256) (domain position : Nat) : List (BitVec 32) :=
  [0x61707865#32, 0x3320646E#32, 0x79622D32#32, 0x6B206574#32] ++
  (List.range 8).map (fun i => seed.extractLsb' (32 * i) 32) ++
  [0#32, BitVec.ofNat 32 domain, BitVec.ofNat 32 position, BitVec.ofNat 32 (position / 4294967296)]

/-- A draw u, as u × 2^64. -/
def drawU (seed : BitVec 256) (domain position : Nat) : Nat :=
  let b := chachaBlock (chachaState seed domain position)
  (b.getD 0 0#32).toNat + (b.getD 1 0#32).toNat * 4294967296

/-! ## Stencils (R184, R185) -/

/-- A transition entry: first token, last token and next state, the first word lowest (R184). -/
def entryOf (e : BitVec 96) : Nat × Nat × Nat :=
  ((e.extractLsb' 0 32).toNat, (e.extractLsb' 32 32).toNat, (e.extractLsb' 64 32).toNat)

/-- A state record: mask index [127:112], ACCEPT [111], offset of the first transition entry [95:64] and their number [63:32]. The
offset counts entries of the stencil's table (log entry 43). -/
def recordOf (st : Stencil) (r : BitVec 128) : StencilState :=
  { mask := (r.extractLsb' 112 16).toNat, accept := r.getLsbD 111,
    trans := ((st.trans.drop (r.extractLsb' 64 32).toNat).take (r.extractLsb' 32 32).toNat).map entryOf }

/-- The state of a stencil by its number; a state that is not there allows nothing. -/
def stencilAt (st : Stencil) (n : Nat) : StencilState :=
  match st.states[n]? with
  | some r => recordOf st r
  | none => { mask := 0, accept := false, trans := [] }

/-- The mask of a state. -/
def stencilMask (st : Stencil) (n : Nat) : Nat := if n < st.states.length then st.masks.getD (stencilAt st n).mask 0 else 0

/-- The state after a token. -/
def stencilNext (st : Stencil) (n token : Nat) : Nat :=
  (((stencilAt st n).trans.find? (fun t => decide (t.1 ≤ token) && decide (token ≤ t.2.1))).map (·.2.2)).getD n

/-- Every allowed token is covered by a transition: what a load checks. -/
def stencilCovered (st : Stencil) (vocab : Nat) : Bool :=
  (List.range st.states.length).all (fun n =>
    let m := stencilMask st n
    decide (m < 2 ^ vocab) &&
    (List.range vocab).all (fun v => !(m.testBit v) ||
      (stencilAt st n).trans.any (fun t => decide (t.1 ≤ v) && decide (v ≤ t.2.1))))

/-- A mask allows an EOS token only in a state with ACCEPT set, and every next state and mask is there. -/
def stencilSound (st : Stencil) (eos : List Nat) : Bool :=
  (List.range st.states.length).all (fun n =>
    let x := stencilAt st n
    decide (x.mask < st.masks.length) && (x.accept || eos.all (fun v => !((stencilMask st n).testBit v))) &&
      x.trans.all (fun t => decide (t.1 ≤ t.2.1) && decide (t.2.2 < st.states.length)))

/-- Transitions in order of their first token, without overlap. -/
def transSorted : List (Nat × Nat × Nat) → Bool
  | a :: b :: l => decide (a.2.1 < b.1) && transSorted (b :: l)
  | _ => true

/-- Bytes that a stencil takes, in units of 4 KiB (R184). -/
def stencilPages (st : Stencil) (vocab : Nat) : Nat :=
  let maskBytes := (vocab + 511) / 512 * 64
  (16 * st.states.length + maskBytes * st.masks.eraseDups.length + 12 * st.trans.length + 4095) / 4096

/-! ## A row's candidates (R181) -/

/-- What a sampler uses of a request. -/
structure Params where
  temperature : Fp32
  topK : Nat
  topP : Fp32
  seed : BitVec 256
  stencil : Option Stencil
  deriving DecidableEq, Repr

/-- A temperature of zero, of either sign. -/
def isGreedy (p : Params) : Bool := decide (fpMag p.temperature = 0)

/-- A candidate goes ahead of another: higher z, or the lower id between equal z. -/
def ahead (x y : Nat × Fp32) : Bool := fpLt y.2 x.2 || (!(fpLt x.2 y.2) && decide (x.1 ≤ y.1))

/-- Insertion by that order. -/
def insertCand (x : Nat × Fp32) : List (Nat × Fp32) → List (Nat × Fp32)
  | [] => [x]
  | y :: l => if ahead x y then x :: y :: l else y :: insertCand x l

def sortCands (l : List (Nat × Fp32)) : List (Nat × Fp32) := l.foldr insertCand []

/-- Steps 1 and 2: the finite logits inside the mask of a stencil's state, with their ids. -/
def finiteLogits (p : Params) (state : Nat) (logits : List Fp32) : List (Nat × Fp32) :=
  let allowed := fun (v : Nat) => match p.stencil with
    | some st => (stencilMask st state).testBit v
    | none => true
  (logits.zipIdx.map (fun x => (x.2, x.1))).filter (fun x => fpFinite x.2 && allowed x.1)

/-- NaN logits of a row (TOPK_NAN of R114). -/
def nanLogits (logits : List Fp32) : Nat := (logits.filter fpIsNan).length

/-- The token with the highest logit, the lowest id between equal ones. -/
def argmax (l : List (Nat × Fp32)) : Option Nat := (sortCands l).head?.map (·.1)

/-- Step 6: the weights of ordered candidates. -/
def weights (l : List (Nat × Fp32)) : List (Nat × Fp32) :=
  let zmax := (l.head?.map (·.2)).getD 0#32
  l.map (fun x =>
    (x.1,
      if zmax = fpInf true then Config.sunkWeight x.1
      else if fpIsInf zmax then (if x.2 = zmax then 0x3F800000#32 else 0#32)
      else if fpIsInf x.2 then 0#32
      else fpTrans .exp (fpSub x.2 zmax)))

/-- Running sums in order, with FP32 rounding after each addition. -/
def runningSums : Fp32 → List (Nat × Fp32) → List Fp32
  | _, [] => []
  | acc, x :: l =>
    let a := fpAdd acc x.2
    a :: runningSums a l

/-- The first weight starts the sum. -/
def sums (l : List (Nat × Fp32)) : List Fp32 :=
  match l with
  | [] => []
  | x :: t => x.2 :: runningSums x.2 t

/-- A running sum reaches p × total, compared exactly. -/
def reaches (p total x : Fp32) : Bool :=
  fpFinite p && fpFinite total && fpFinite x && decide (fpInt p * fpInt total ≤ fpInt x * 2 ^ 149)

/-- The shortest leading run that reaches top_p of the total: how many candidates it has. -/
def keptCount (p total : Fp32) : List Fp32 → Nat
  | [] => 0
  | x :: l => if reaches p total x then 1 else 1 + keptCount p total l

/-- A distribution: its kept candidates with their weights, in candidate order. -/
def distribution (p : Params) (cands : List (Nat × Fp32)) : List (Nat × Fp32) :=
  let z := sortCands (cands.map (fun x => (x.1, fpDiv x.2 p.temperature)))
  let z := if p.topK = 0 then z else z.take p.topK
  let w := weights z
  let r := sums w
  if fpLt p.topP 0x3F800000#32 then w.take (keptCount p.topP (r.getLast?.getD 0#32) r) else w

/-- The kept total. -/
def keptTotal (w : List (Nat × Fp32)) : Fp32 := (sums w).getLast?.getD 0#32

/-- Step 8: the first candidate whose running sum exceeds u × total, else the last one. -/
def pickFrom (u : Nat) (total : Fp32) : List (Nat × Fp32) → List Fp32 → Option Nat
  | [x], _ => some x.1
  | x :: l, r :: rs =>
    if fpFinite r && fpFinite total && decide ((u : Int) * fpInt total < fpInt r * 2 ^ 64) then some x.1
    else pickFrom u total l rs
  | _, _ => none

/-- A draw from a distribution. -/
def drawFrom (u : Nat) (w : List (Nat × Fp32)) : Option Nat := pickFrom u (keptTotal w) w (sums w)

/-- The value of a token in a distribution (R181, last paragraph). -/
def valueOf (w : List (Nat × Fp32)) (v : Nat) : Fp32 :=
  match w.find? (fun x => x.1 == v) with
  | some x => fpDiv x.2 (keptTotal w)
  | none => 0#32

/-- Values of every kept candidate. -/
def valuesOf (w : List (Nat × Fp32)) : List (Nat × Fp32) := w.map (fun x => (x.1, valueOf w x.1))

/-- How sampling at one position ends. -/
inductive Sampled where
  | token (v : Nat)
  | stop (reason : Nat)
  deriving DecidableEq, Repr

/-- The stop that a stencil's empty mask forces, if any (R185). -/
def stencilStop (p : Params) (state : Nat) : Option Nat :=
  match p.stencil with
  | none => none
  | some st => if stencilMask st state = 0 then some (if (stencilAt st state).accept then 5 else 6) else none

/-- One token sampled at a position (R181, R185). -/
def sampleOne (p : Params) (state position : Nat) (logits : List Fp32) : Sampled :=
  match stencilStop p state with
  | some r => .stop r
  | none =>
    let c := finiteLogits p state logits
    match (if isGreedy p then argmax c else drawFrom (drawU p.seed 0 position) (distribution p c)) with
    | some v => .token v
    | none => .stop 7

/-! ## Speculative verification (R178) -/

/-- The residual of a target over a draft distribution, in the candidate order of the target. -/
def residual (pv q : List (Nat × Fp32)) : List (Nat × Fp32) :=
  pv.map (fun x =>
    let d := fpSub x.2 (((q.find? (fun y => y.1 == x.1)).map (·.2)).getD 0#32)
    (x.1, if fpLt 0#32 d then d else 0#32))

/-- The replacement: the first token whose running sum exceeds u × total, else the last with r(v) > 0. -/
def drawResidual (u : Nat) (r : List (Nat × Fp32)) : Option Nat :=
  let total := keptTotal r
  match (r.zip (sums r)).find? (fun x =>
      fpFinite x.2 && fpFinite total && decide ((u : Int) * fpInt total < fpInt x.2 * 2 ^ 64)) with
  | some x => some x.1.1
  | none => ((r.filter (fun x => fpLt 0#32 x.2)).getLast?).map (·.1)

/-- The test of one proposal: accepted, or replaced, or the row ends. -/
inductive Tested where
  | accepted
  | replaced (v : Nat)
  | stopped (reason : Nat)
  deriving DecidableEq, Repr

/-- The test of proposal `d` at its position with the target's logits there. -/
def testOne (p : Params) (state position : Nat) (logits : List Fp32) (d : Proposal) : Tested :=
  match stencilStop p state with
  | some r => .stopped r
  | none =>
    let c := finiteLogits p state logits
    if c.isEmpty then .stopped 7
    else if isGreedy p then
      match argmax c with
      | some v => if v = d.token then .accepted else .replaced v
      | none => .stopped 7
    else
      let w := distribution p c
      let pv := valuesOf w
      let qd := ((d.q.find? (fun y => y.1 == d.token)).map (·.2)).getD 0#32
      let pd := ((pv.find? (fun y => y.1 == d.token)).map (·.2)).getD 0#32
      if fpFinite qd && fpFinite pd && decide ((drawU p.seed 1 position : Int) * fpInt qd < fpInt pd * 2 ^ 64) then .accepted
      else
        let r := residual pv d.q
        let u := drawU p.seed 2 position
        match (if r.all (fun x => decide (x.2 = 0#32)) then drawFrom u w else drawResidual u r) with
        | some v => .replaced v
        | none => .stopped 7

/-- The tests in order: the tokens that the row's step yields, and the stop that ends it, if any. -/
def verifyAll (p : Params) : Nat → Nat → List (List Fp32) → List Proposal → List Nat × Option Nat
  | _, _, _, [] => ([], none)
  | state, position, ls, d :: ds =>
    match testOne p state position (ls.headD []) d with
    | .stopped r => ([], some r)
    | .replaced v => ([v], none)
    | .accepted =>
      let state' := match p.stencil with
        | some st => stencilNext st state d.token
        | none => state
      let r := verifyAll p state' (position + 1) ls.tail ds
      (d.token :: r.1, r.2)

/-! ## Delivery and stop conditions (R264 to R267) -/

/-- What delivering some tokens of one step comes to. -/
structure Delivery where
  tokens : List Nat := []
  text : List Byte := []
  held : List Byte := []
  stopHeld : List Byte := []
  reason : Option Nat := none
  replacements : Nat := 0
  stencilState : Nat := 0
  deriving DecidableEq, Repr

/-- The stop condition that one delivered token meets, the highest first (R266). `k` is its number in the turn. -/
def stopOf (l : Lettering) (o : ReqOps) (matched : Bool) (v k : Nat) : Option Nat :=
  if isEos l v then some 2
  else if o.stopTokens.contains v then some 3
  else if matched then some 4
  else if o.maxTokens ≤ k then some 1
  else none

/-- Tokens delivered one after another, up to the first that meets a stop condition. `k` tokens went before. -/
def deliverTokens (l : Lettering) (o : ReqOps) (st : Option Stencil) (k : Nat) (d : Delivery) : List Nat → Delivery
  | [] => d
  | v :: vs =>
    let raw := if o.text && !(o.stopTokens.contains v) then tokenBytes l v else []
    let seqs := if o.text then o.stopSeqs else []
    let e := emitBytes seqs d.held d.stopHeld raw
    let d := { d with
      tokens := d.tokens ++ [v], text := d.text ++ e.text, held := e.held, stopHeld := e.stopHeld,
      replacements := d.replacements + e.replacements,
      stencilState := match st with | some x => stencilNext x d.stencilState v | none => d.stencilState }
    match stopOf l o e.matched v (k + 1) with
    | some r => { d with reason := some r }
    | none => deliverTokens l o st (k + 1) d vs

end Sys2Proof.Machine
end

