-- ==== Sys2Proof/Machine/LinkOps.lean ====
section
/-! DEFINITION. Shared operations of the host link and the mailbox: what a BAR0 access reaches, bindings, backlogs,
the end of an export, and the resets of a function and of the link (R206, R291 to R293, R317, R320 to R324). -/

namespace Sys2Proof.Machine

/-! ## Reaching a function -/

/-- A function that the host can reach: the link is up, and a virtual function is enabled (R279). -/
def reachable (s : State) (func : Nat) : Bool :=
  s.link.up && (func == 0 || (s.link.vfEnable && decide (func ≤ s.link.numVfs)))

/-- A Sealed partition's rings are read only while its TDI is in RUN and its stream is Secure (R288). -/
def sealedBlocked (s : State) (func : Nat) : Bool :=
  let f := getFn s func
  func != 0 && (getPartition s (func - 1)).isSealed && !(decide (f.tdi = .run) && f.ideSecure)

/-- A doorbell write takes effect: the pair is ACTIVE, and R288 lets its rings be read (R301). -/
def doorbellOk (s : State) (func qp : Nat) : Bool :=
  reachable s func && (getQueue s func qp).active && !sealedBlocked s func

/-- An access fault (R430): the offset or requester, and the function. -/
def accessFault (s : State) (address func : Nat) : State := note s 0x0501 0 0x4010 address func

/-- An error in the module's AER status (R278): the bit of the PCIe register. -/
def aerError (s : State) (bit : Nat) : State := { s with link := { s.link with aer := s.link.aer ||| (1#32 <<< bit) } }

/-! ## Backlogs (R317) -/

/-- The vector that a CQ's own events signal (R283). -/
def cqVector (func qp : Nat) : Nat := if func = 0 then 0 else 1 + qp

/-- The vector of an event: RESUMED and QUEUE_ERROR signal that of the CQ they go to (R315). -/
def vectorOf (func : Nat) (e : Event) : Nat :=
  if e.code = 0x0201 ∨ e.code = 0x0202 then cqVector func e.qp else eventVector func

/-- An event written to the CQ of its queue pair. -/
def writeEvent (s : State) (func : Nat) (e : Event) : State :=
  let q := getQueue s func e.qp
  wantVector (putQueue s func e.qp (pushCq q (eventEntry q (stamp s) e))) func (vectorOf func e)

/-- Waiting events written while their CQs have room, the oldest first; what overflowed follows the last. -/
def postWaiting (func : Nat) : Nat → State → State
  | 0, s => s
  | n + 1, s =>
    match takeFirst (fun (e : Event) => eventRoom s func e.qp) (tget [] s.mailbox.backlog func) with
    | some (e, rest) =>
      let s := writeEvent s func e
      postWaiting func n { s with mailbox := { s.mailbox with backlog := tput [] s.mailbox.backlog func rest } }
    | none =>
      let lost := tget 0 s.mailbox.overflow func
      if eventRoom s func 0 && decide (0 < lost) then
        let s := writeEvent s func { code := 0x0203, detail := lost }
        { s with mailbox := { s.mailbox with overflow := tput 0 s.mailbox.overflow func 0 } }
      else s

/-- The whole backlog, as far as the CQ goes. -/
def postBacklog (s : State) (func : Nat) : State := postWaiting func ((tget [] s.mailbox.backlog func).length + 1) s

/-- Held completions written while the CQ has room (R321), each with the SQ head and the host time of its writing (R306). -/
def pushHeld : Nat → Nat → Queue → Queue
  | 0, _, q => q
  | n + 1, time, q =>
    match q.heldCq with
    | [] => q
    | e :: rest =>
      if cqRoom q then pushHeld n time (pushCq { q with heldCq := rest } { e with time := time, sqHead := q.sqHead }) else q

/-- The held completions of a pair are written as far as its CQ goes, and signal its vector (R311). -/
def flushHeld (s : State) (func qp : Nat) : State :=
  let q := getQueue s func qp
  let q' := pushHeld q.heldCq.length (stamp s) q
  let s := putQueue s func qp q'
  if q'.heldCq.length < q.heldCq.length then wantVector s func (cqVector func qp) else s

/-- RESUMED or QUEUE_ERROR for the CQ of its own queue pair (R315): it waits in the function's backlog when there is no room. -/
def postPairEvent (s : State) (func qp : Nat) (e : Event) : State :=
  let e := { e with qp := qp }
  if eventRoom s func qp then writeEvent s func e else backlogAdd s func e

/-- A doorbell error (R303): fetching stops, QUEUE_ERROR is posted and reported. -/
def queueError (s : State) (func qp cause : Nat) : State :=
  let s := putQueue s func qp { getQueue s func qp with stopped := true }
  let s := postPairEvent s func qp { code := 0x0202, detail := cause }
  note s 0x0502 3 0x4010 (func * 256 + qp) cause

/-! ## Bindings (R320 to R322) -/

/-- Queue pairs of a function. -/
def pairsOf (func : Nat) : List Nat := if func = 0 then [0] else List.range 8

/-- What a binding holds is discarded: held completions, records and events, and commands under way. -/
def discardHeld (s : State) (func : Nat) : State :=
  let s := (pairsOf func).foldl (fun s qp =>
    putQueue s func qp { getQueue s func qp with heldCq := [], holding := [], resume := false, resumeHead := 0 }) s
  { s with mailbox := { s.mailbox with
      backlog := tput [] s.mailbox.backlog func [], overflow := tput 0 s.mailbox.overflow func 0,
      fetched := s.mailbox.fetched.filter (fun f => f.func != func) } }

/-- The turns of a function's partition are dropped with RESET, and nothing is written for them. -/
def dropFunctionTurns (s : State) (func : Nat) : State :=
  if func = 0 then s else dropTurns s (fun v => v.partition == func - 1)

/-- A binding is dropped. -/
def dropBinding (s : State) (func : Nat) : State :=
  let s := discardHeld (dropFunctionTurns s func) func
  { s with mailbox := { s.mailbox with bindings := tput {} s.mailbox.bindings func {} } }

/-- A fresh nonzero token from the random generator (R320): a free value. -/
def freshToken (s : State) : Nat := max 1 (freeNow s).toNat

/-- The offset of RESUME_TOKEN (R280, R281). -/
def tokenOffset (func : Nat) : Nat := if func = 0 then 0x38 else 0x10

/-- RESUME_TOKEN takes a value: a low half held before is forgotten (R282). -/
def setToken (s : State) (func tok : Nat) : State :=
  let f := getFn s func
  putFn s func { f with tokenReg := tok, held := tput 0 f.held (tokenOffset func) 0 }

/-- A function is bound, with a fresh token in RESUME_TOKEN. -/
def bindFresh (s : State) (func : Nat) : State :=
  let tok := freshToken s
  let s := drewFree s
  let s := setToken s func tok
  { s with mailbox := { s.mailbox with
      bindings := tput {} s.mailbox.bindings func { bound := true, token := tok } } }

/-! ## The export (R206) -/

/-- The export ends: GENERATION becomes 0. -/
def endExport (s : State) : State :=
  { s with images := { s.images with exported := { count := s.images.exported.count } } }

/-! ## Adapters -/

/-- A tenant's adapter lines and store space are released and cleared (R94, R229). -/
def releaseAdapters (s : State) (tenant : Nat) : State :=
  let mine := (s.images.lines.filter (fun kv => kv.2.tenant == tenant)).map (·.1)
  let s := mine.foldl (fun s l => queueClear { s with images := { s.images with lines := tput {} s.images.lines l {} } }
    (.adapterLine l)) s
  let t := getTenant s tenant
  releaseStore (putTenant s tenant { t with versions := [], current := none }) tenant t.versions

/-! ## Resets -/

/-- A queue pair's registers and ring indices at their reset values; what it holds for its binding stays. -/
def resetQueue (s : State) (func qp : Nat) (hold : Bool) : State :=
  let q := getQueue s func qp
  let z := queueReset (qkey func qp)
  let kept := { z with
    heldCq := q.heldCq, holding := q.holding, resume := q.resume || (q.active && q.enable),
    resumeHead := if q.active && q.enable then q.sqHead else q.resumeHead }
  putQueue s func qp (if hold then kept else z)

/-- BAR0 and the MSI-X table of a function at their reset values. -/
def resetFn (s : State) (func : Nat) (hold : Bool) : State :=
  let s := (pairsOf func).foldl (fun s qp => resetQueue s func qp hold) s
  let f := getFn s func
  putFn s func { tdi := f.tdi, ideSecure := f.ideSecure, ideKeys := f.ideKeys, rrs := f.rrs, d3hot := f.d3hot }

/-- Start-up or an admin reset is under way: MOD_READY has not risen yet (R428). -/
def starting (s : State) : Bool :=
  match s.board.phase with
  | .rails | .booted | .tested | .resetting => !s.board.modReady
  | _ => false

/-- A partition's turns end without records, its sessions and prefixes are closed and cleared, its park areas are
deregistered, and its tenants' adapters are cleared (R257, R94, R148). -/
def clearPartition (s : State) (n : Nat) : State :=
  let s := dropTurns s (fun v => v.partition == n)
  let s := (sessionIds s (fun v => v.partition == n)).foldl (fun s id =>
    finishClose (modSession s id (fun v => { v with state := .closing })) id) s
  let pf := (s.serving.prefixes.filter (fun kv => kv.2.partition == n && decide (kv.2.state ≠ .free))).map (·.1)
  let s := pf.foldl (fun s x => releasePfx (unqueue (discardRows s (.pfx x)) (getPfx s x).tenant (.pfx x)) x) s
  let ts := (s.serving.tenants.filter (fun kv => kv.2.registered && kv.2.partition == n)).map (·.1)
  let s := ts.foldl releaseAdapters s
  let p := getPartition s n
  let s := putPartition s n { p with parkArea := [], parkUsed := [] }
  if s.board.trained then queueClear s (.partition n) else s

/-- The FLR of virtual function `func` (R292, R324): its configuration answers RRS until the clearing completes. A
TDI in ERROR stays there until STOP_INTERFACE (R297). Before MOD_READY it completes at once, and after a cold start no
partition holds anything to clear (R428). -/
def flrVf (s : State) (func : Nat) : State :=
  let s := clearPartition s (func - 1)
  let s := discardHeld s func
  let s := resetFn s func false
  let f := getFn s func
  let s := putFn s func { f with rrs := !starting s, tdi := if f.tdi = .error then .error else .unlocked }
  { s with mailbox := { s.mailbox with bindings := tput {} s.mailbox.bindings func {} } }

/-- VF Enable is cleared: an FLR of every enabled virtual function (R279, R293). -/
def clearVfs (s : State) : State :=
  if s.link.vfEnable then
    let s := ((List.range s.link.numVfs).map (· + 1)).foldl flrVf s
    { s with link := { s.link with vfEnable := false } }
  else s

/-- A TDI enters ERROR: handled as an FLR of its function (R288). -/
def tdiError (s : State) (func : Nat) : State :=
  flrVf (putFn s func { getFn s func with tdi := .error }) func

/-- PERST_N, a hot reset or DL_Down (R291, R324): the link and the mailbox layer reset; bindings wait; a loss of the
link forfeits Timed turns with LINK (R254). A binding that waits already keeps its 60 s (R322). -/
def linkReset (s : State) : State :=
  let s := forfeitAll s 4
  let s := (List.range 17).foldl (fun s f =>
    let s := resetFn s f true
    putFn s f { rrs := (getFn s f).rrs }) s
  let b := s.mailbox.bindings.map (fun kv => (kv.1, { kv.2 with waiting := kv.2.bound }))
  let s := endExport s
  { s with mailbox := { s.mailbox with bindings := b },
           link := { s.link with
             up := false, rrs := true, numVfs := 0, vfEnable := false, ideSecure := false, ideKeys := 0,
             exportEnable := false, eventCause := 0, maxRead := 512, cplTimeoutMs := 50, aer := 0, ptm := { slew := 0, lastGood := s.link.ptm.lastGood } } }

/-- The first RRS period since a reset ends: waiting bindings get their 60 s (R322). -/
def endRrs (s : State) : State :=
  let b := s.mailbox.bindings.map (fun kv => (kv.1, if kv.2.waiting && kv.2.dropAt.isNone then
    { kv.2 with dropAt := some (s.now + 60000000000) } else kv.2))
  { s with mailbox := { s.mailbox with bindings := b }, link := { s.link with rrs := false } }

/-- The FLR of the physical function (R293): VF Enable is cleared with an FLR of every virtual function, those that are not
enabled among them (R324, R427); PF BAR0 and the admin pair reset, and the export ends. -/
def flrPf (s : State) : State :=
  let s := ((List.range 16).map (· + 1)).foldl flrVf s
  let s := { s with link := { s.link with vfEnable := false } }
  let s := resetFn (discardHeld s 0) 0 false
  let s := endExport s
  { s with mailbox := { s.mailbox with bindings := tput {} s.mailbox.bindings 0 {} },
           link := { s.link with exportEnable := false, eventCause := 0 } }

end Sys2Proof.Machine
end

