-- ==== Sys2Proof/Machine/Serving.lean ====
section
/-! DEFINITION. The meanings of the partition, tenant and session, and request families (R332 to R336). -/

namespace Sys2Proof.Machine

/-! ## Partition family (R332) -/

/-- A partition holds an open session, or a prefix handle (R228). -/
def occupied (s : State) (p : Nat) : Bool :=
  s.serving.sessions.any (fun kv => decide (kv.2.state ≠ .free) && kv.2.partition == p) ||
    s.serving.prefixes.any (fun kv => decide (kv.2.state ≠ .free) && kv.2.partition == p)

/-- A partition that becomes Sealed gets fresh park and history keys (R346). -/
def keysFor (isSealed : Bool) (p : Partition) : Nat := if isSealed && !p.isSealed then p.keyGen + 1 else p.keyGen

/-- The keys themselves: drawn, kept, or none for a partition that is not Sealed. `k` says which of the two drawn values. -/
def keyFor (s : State) (isSealed : Bool) (p : Partition) (old : BitVec 256) (k : Nat) : BitVec 256 :=
  if isSealed then (if p.isSealed then old else drawKey s k) else 0

/-- A switch or an adapter swap that sessions may still be held from. -/
def swapPending (s : State) : Bool := decide (s.images.a.state = .draining) || decide (s.images.b.state = .draining)

/-- The tenants of a partition that comes under DRAIN hold their sessions on an older adapter version from now on (R215, R217). -/
def holdAdapters (s : State) (partition seconds : Nat) : State :=
  let old (t : Tenant) : Bool := t.versions.any (fun w => !w.epochs.isEmpty && decide (t.current ≠ some w.index))
  let hold (t : Tenant) : Tenant :=
    if t.partition = partition ∧ old t = true then { t with adapterDrain := some (s.now + seconds * 1000000000) } else t
  { s with serving := { s.serving with tenants := tmap {} (fun _ t => hold t) s.serving.tenants } }

/-- PARTITION_CONFIG (R227, R228). A change to DRAIN after a swap holds the old image's sessions, and those of an older adapter, from
their next turn, for the time-out from then on (R215, log entry 43). -/
def execPartitionConfig (h : Hdr) (o : PartitionOps) (s : State) : Out :=
  let bad := decide (16 ≤ o.partition) || decide (o.share = 0) || decide (255 < o.share) || decide (256 < o.timedSequences) ||
    decide (262144 < o.sessionsMax) ||
    (if o.drain then decide (o.drainTimeout = 0) || decide (86400 < o.drainTimeout) else decide (o.drainTimeout ≠ 0))
  .next (runCommand s h opPartitionConfig bad (fun s =>
    let p := getPartition s o.partition
    if o.isSealed ∧ s.trust.isUnsealed then refuse s h 0x0701
    else if (o.timed ≠ p.timed ∨ o.isSealed ≠ p.isSealed) ∧ occupied s o.partition = true then refuse s h 0x0202
    else if 256 < timedReserve s - p.timedSequences + o.timedSequences then refuse s h 0x0203
    else
      let late := o.drain && !p.drain
      let until_ := if late && swapPending s then some (s.now + o.drainTimeout * 1000000000) else p.drainUntil
      let t := if o.isSealed && !p.isSealed then drewKeys s 2 else s
      done (putPartition (if late then holdAdapters t o.partition o.drainTimeout else t) o.partition { p with
        configured := true, drainUntil := until_, timed := o.timed, isSealed := o.isSealed, lateStop := o.lateStop, drain := o.drain,
        share := o.share, timedSequences := o.timedSequences, sessionsMax := o.sessionsMax,
        drainTimeout := o.drainTimeout, keyGen := keysFor o.isSealed p,
        parkKey := keyFor s o.isSealed p p.parkKey 0, historyKey := keyFor s o.isSealed p p.historyKey 1 }) h 0))

/-- The park slots that parked pages occupy. -/
def parkedSlots (s : State) (p : Nat) : List Nat :=
  (s.serving.sessions.filter (fun kv => kv.2.partition == p)).flatMap (fun kv => kv.2.parked.map (·.slot) ++ kv.2.outbound)

/-- The place of a page slot of a park area: its bus address. -/
def slotAddress : List (Nat × Nat) → Nat → Option Nat
  | [], _ => none
  | (a, len) :: l, k => if k < len / 2101248 then some (a + k * 2101248) else slotAddress l (k - len / 2101248)

/-- An entry of a range list that keeps R305: address 4 B aligned, length a nonzero multiple of 4. -/
def rangeOk (r : Nat × Nat) : Bool := decide (r.1 % 4 = 0) && decide (r.2 ≠ 0) && decide (r.2 % 4 = 0)

/-- PARK_AREA_SET (R236): a slot in use may stay only where it is, since the host memory behind it must not change. -/
def execParkAreaSet (h : Hdr) (partition : Nat) (ranges : List (Nat × Nat)) (s : State) : Out :=
  let bad := decide (16 ≤ partition) || decide (64 < ranges.length) || ranges.any (fun r => decide (r.2 % 2101248 ≠ 0))
  let h := { h with dataBad := h.dataBad || !(ranges.all rangeOk) }
  .next (runCommand s h opParkAreaSet bad (fun s =>
    let p := getPartition s partition
    if p.configured = false then refuse s h 0x0201
    else if (parkedSlots s partition).any (fun k => decide (slotAddress p.parkArea k ≠ slotAddress ranges k)) then
      refuse s h 0x0204
    else done (putPartition s partition { p with parkArea := ranges }) h (areaSlots ranges)))

/-- TIMED_REGIME_SET (R243): refused while a Timed turn is unfinished. The RESULT is of the ACTIVE slot. -/
def execTimedRegimeSet (h : Hdr) (rowsT missT pagesT : Nat) (s : State) : Out :=
  let bad := decide (rowsT = 0) || decide (64 < rowsT) || decide (4 < missT) || decide (pagesT = 0) || decide (16384 < pagesT)
  .next (runCommand s h opTimedRegimeSet bad (fun s =>
    if timedUnfinished s then refuse s h 0x0205
    else
      let s := { s with serving := { s.serving with regime := { rowsT := rowsT, pagesT := pagesT, missT := missT } } }
      match activeSlot s with
      | none => done s h 0
      | some n =>
        let l := stepLine s n
        done s h (fceil 1 (lineTime l (spacingOf l)) + 2 ^ 32 * fceil 1 (lineTime l (decodeTime l)) + 2 ^ 64 * positionLimit s n)))

/-- PARK_THRESHOLDS_SET (R237). -/
def execParkThresholdsSet (h : Hdr) (low high : Nat) (s : State) : Out :=
  let bad := decide (high ≤ low) || decide (s.vellum.layout.kvPages < high)
  .next (runCommand s h opParkThresholdsSet bad (fun s =>
    done { s with serving := { s.serving with parkLow := low, parkHigh := high } } h 0))

/-! ## Tenants (R333, R229 to R231) -/

/-- A tenant registered in the function's partition. -/
def myTenant (s : State) (h : Hdr) (tenant : Nat) : Bool :=
  let t := getTenant s tenant
  t.registered && t.partition == h.func - 1

/-- TENANT_REGISTER. -/
def execTenantRegister (h : Hdr) (tenant rate depth : Nat) (s : State) : Out :=
  let bad := decide (tenant = 0) || decide (0xFFFF < tenant) || decide (depth = 0)
  .next (runVf s h opTenantRegister bad (fun s =>
    if (getTenant s tenant).registered then refuse s h stWrongState
    else if 4096 ≤ (s.serving.tenants.filter (fun kv => kv.2.registered)).length then refuse s h stTableFull
    else done (putTenant s tenant {
      registered := true, partition := h.func - 1, level := (depth * 256 : Nat), levelAt := s.now, rate := rate,
      depth := depth }) h 0))

/-- The tenant has an open session or a prefix handle. -/
def tenantBusy (s : State) (tenant : Nat) : Bool :=
  s.serving.sessions.any (fun kv => decide (kv.2.state ≠ .free) && kv.2.tenant == tenant) ||
    s.serving.prefixes.any (fun kv => decide (kv.2.state ≠ .free) && kv.2.tenant == tenant)

/-- Some clear of the tenant's memory is under way. -/
def tenantClearing (s : State) (tenant : Nat) : Bool :=
  s.serving.clears.any (fun k => match k with | .adapterStore t => t == tenant | .adapterLine _ => true | _ => false)

/-- TENANT_DEREGISTER: the reservoir goes at once; the command completes when the clearing is done. -/
def execTenantDeregister (h : Hdr) (tenant : Nat) (s : State) : Out :=
  .next (runVf s h opTenantDeregister (decide (0xFFFF < tenant)) (fun s =>
    if myTenant s h tenant = false then refuse s h 0x0302
    else if tenantBusy s tenant then refuse s h 0x0303
    else
      let s := releaseAdapters s tenant
      let s := putTenant s tenant {}
      if tenantClearing s tenant then startLater s h opTenantDeregister tenant else done s h 0))

/-- RESERVOIR_SET: lowering DEPTH clamps LEVEL, raising it fills nothing. -/
def execReservoirSet (h : Hdr) (tenant : Nat) (setRate setDepth setWeight : Bool) (rate depth weight : Nat)
    (s : State) : Out :=
  let bad := decide (0xFFFF < tenant) || (setDepth && decide (depth = 0)) || (setWeight && decide (255 < weight))
  .next (runVf s h opReservoirSet bad (fun s =>
    if myTenant s h tenant = false then refuse s h 0x0302
    else
      let t := refill s.now (getTenant s tenant)
      let d := if setDepth then depth else t.depth
      let t := { t with
        rate := if setRate then rate else t.rate, depth := d, weight := if setWeight then weight else t.weight,
        level := min (d * 256 : Nat) t.level }
      done (putTenant s tenant t) h (signedField 64 t.level)))

/-! ## Sessions (R233 to R239) -/

/-- The lowest free session id. -/
def freeSession (s : State) : Option Nat :=
  leastBelow (fun id => decide ((getSession s id).state = .free)) 262144 0

/-- Open sessions of a partition. -/
def openCount (s : State) (p : Nat) : Nat :=
  (s.serving.sessions.filter (fun kv => decide (kv.2.state ≠ .free) && kv.2.partition == p)).length

/-- A seed that the module draws (R333). -/
def drawSeed (s : State) : BitVec 256 := drawKey s 0

/-- SESSION_OPEN. -/
def execSessionOpen (h : Hdr) (tenant : Nat) (seed : BitVec 256) (s : State) : Out :=
  let isSealed := (getPartition s (h.func - 1)).isSealed
  let bad := decide (0xFFFF < tenant) || (isSealed && decide (seed ≠ 0))
  .next (runVf s h opSessionOpen bad (fun s =>
    let p := getPartition s (h.func - 1)
    if myTenant s h tenant = false then refuse s h 0x0302
    else if p.sessionsMax ≤ openCount s (h.func - 1) then refuse s h 0x0306
    else match freeSession s with
      | none => refuse s h stTableFull
      | some id =>
        let n := (activeSlot s).getD 0
        let v : Session := {
          state := .idle, tenant := tenant, partition := h.func - 1, isSealed := p.isSealed, slot := n,
          epoch := if (activeSlot s).isSome then (getSlot s n).epoch else 0,
          adapterEpoch := (getTenant s tenant).adapterEpoch, seed := if p.isSealed then drawSeed s else seed }
        let s := if p.isSealed then drewKeys s 1 else s
        done (putSession s id v) h id))

/-- SESSION_CLOSE: a running or queued turn ends with CLOSED, its END ahead of this completion (R310). -/
def execSessionClose (h : Hdr) (session : Nat) (s : State) : Out :=
  .next (runSession s h opSessionClose session (decide (262144 ≤ session)) (fun s =>
    if openIn s session (h.func - 1) = false then answerFor s h opSessionClose session 0x0304 0
    else
      let hadTurn := (getSession s session).turn.isSome
      let s := modSession s session (fun v => { v with state := .closing })
      let s := { s with trust := { s.trust with exchanges := s.trust.exchanges.filter (fun e => e.session != session) } }
      let s := cutPark s session
      if hadTurn then endTurn (startLater s h opSessionClose session) session 0x0B
      else answerFor (finishClose s session) h opSessionClose session stSuccess 0))

/-- SESSION_PARK (R237): completes when PARKED. -/
def execSessionPark (h : Hdr) (session : Nat) (s : State) : Out :=
  .next (runSession s h opSessionPark session (decide (262144 ≤ session)) (fun s =>
    let v := getSession s session
    if openIn s session (h.func - 1) = false then answerFor s h opSessionPark session 0x0304 0
    else if v.state ≠ .idle ∨ engaged v = true then answerFor s h opSessionPark session 0x0305 0
    else if canPark s v = false then answerFor s h opSessionPark session 0x0307 0
    else if v.pages.isEmpty then answerFor (startPark s session) h opSessionPark session stSuccess 0
    else startLater (startPark s session) h opSessionPark session))

/-- SESSION_UNPARK (R239): completes when IDLE. -/
def execSessionUnpark (h : Hdr) (session : Nat) (s : State) : Out :=
  .next (runSession s h opSessionUnpark session (decide (262144 ≤ session)) (fun s =>
    let v := getSession s session
    if openIn s session (h.func - 1) = false then answerFor s h opSessionUnpark session 0x0304 0
    else if v.state ≠ .parked then answerFor s h opSessionUnpark session stWrongState 0
    else if freePages s - reservedPages s < v.parked.length then answerFor s h opSessionUnpark session 0x040B 0
    else if v.parked.isEmpty then answerFor (putSession s session { v with state := .idle }) h opSessionUnpark session stSuccess 0
    else startLater (startUnpark s session) h opSessionUnpark session))

/-! ## Prefixes (R240, R241) -/

/-- The lowest free prefix table index. -/
def freePfx (s : State) : Option Nat := leastBelow (fun x => decide ((getPfx s x).state = .free)) 65536 0

/-- A prompt as the partition reads it: in a Sealed one every prompt is an IV unit, a ciphertext and a tag (R273), so segments in clear are
a Sealed prompt that does not authenticate. -/
def asRead (isSealed : Bool) (p : Prompt) : Prompt :=
  match p with
  | .plain segs => if isSealed then .sealedText 0 false (segBytes segs - 32) 0 [] else p
  | q => q

/-- The session whose keys decrypt a Sealed prefix prompt (R367): open, of the same tenant. -/
def pfxKeysOk (s : State) (tenant : Nat) (p : Prompt) : Bool :=
  match p with
  | .plain _ => true
  | .sealedText n ok _ ivSession _ =>
    let v := getSession s ivSession
    isOpen v && v.tenant == tenant && v.keySets != 0 && ok &&
      (match v.promptIv with | some last => decide (last < n) | none => true)

/-- A Sealed prompt that was accepted raises the highest counter of its session's key set. -/
def noteIv (s : State) (p : Prompt) : State :=
  match p with
  | .plain _ => s
  | .sealedText n _ _ ivSession _ => modSession s ivSession (fun v => { v with promptIv := some n })

/-- PREFIX_REGISTER: the prefill joins the tenant's queue, and the command completes when READY. -/
def execPrefixRegister (h : Hdr) (tenant : Nat) (alwaysRead : Bool) (handle : Nat) (prompt : Prompt) (s : State) : Out :=
  let p := getPartition s (h.func - 1)
  let prompt := asRead p.isSealed prompt
  let len := match prompt with | .plain segs => segBytes segs | .sealedText _ _ l _ _ => l
  let bad := decide (0xFFFF < tenant) || decide (4194304 < len) || decide (promptShape prompt = 0) ||
    (match prompt with | .plain _ => false | .sealedText .. => !p.isSealed)
  .next (runVf s h opPrefixRegister bad (fun s =>
    let p := getPartition s (h.func - 1)
    if myTenant s h tenant = false then refuse s h 0x0302
    else match activeSlot s with
      | none => refuse s h 0x040D
      | some n =>
        if (findPfx s tenant handle).isSome then refuse s h 0x0308
        else match freePfx s with
          | none => refuse s h stTableFull
          | some x =>
            let toks := idsOf s n (segsOf prompt)
            if 2097151 < promptShape prompt then refuse s h 0x0403
            else if availablePages s none < (promptShape prompt + 127) / 128 then refuse s h 0x040B
            else if pfxKeysOk s tenant prompt = false then
              refuse { s with serving := { s.serving with lettering := { s.serving.lettering with
                authFailures := sat 32 (s.serving.lettering.authFailures + 1) } } } h 0x0703
            else
              let s := noteIv (countPrompt s n prompt) prompt
              let s := putPfx s x {
                state := .prefilling, handle := handle, tenant := tenant, length := toks.length,
                partition := h.func - 1, isSealed := p.isSealed, alwaysRead := alwaysRead, slot := n,
                epoch := (getSlot s n).epoch, tokens := toks }
              let t := getTenant s tenant
              startLater (putTenant s tenant { t with queue := t.queue ++ [.pfx x] }) h opPrefixRegister x))

/-- PREFIX_RELEASE: the handle stops resolving at once; its pages go when READERS reaches 0. -/
def execPrefixRelease (h : Hdr) (tenant handle : Nat) (s : State) : Out :=
  .next (runVf s h opPrefixRelease (decide (0xFFFF < tenant)) (fun s =>
    if myTenant s h tenant = false then refuse s h 0x0302
    else match findPfx s tenant handle with
    | none => refuse s h 0x0309
    | some x =>
      let v := getPfx s x
      let s := if v.readers = 0 then
          endPfx s x
        else putPfx s x { v with state := .releasing }
      done s h v.readers))

/-! ## Requests (R334 to R336, R242) -/

/-- Temperature 0, or 0.01 to 100 (R180); top_p above 0 and at most 1. -/
def temperatureOk (x : Fp32) : Bool :=
  x == 0x00000000#32 || x == 0x80000000#32 || (decide (0x3C23D70A ≤ x.toNat) && decide (x.toNat ≤ 0x42C80000))
def topPOk (x : Fp32) : Bool := decide (0 < x.toNat) && decide (x.toNat ≤ 0x3F800000)

/-- Operands and data fields in range (R334, R335). -/
def reqRangeOk (s : State) (h : Hdr) (o : ReqOps) : Bool :=
  let p := getPartition s (h.func - 1)
  let v := getSession s o.session
  let len := match o.prompt with | .plain segs => segBytes segs | .sealedText _ _ l _ _ => l
  decide (o.session < 262144) && decide (o.tenant ≤ 0xFFFF) && decide (1 ≤ o.maxTokens) && decide (o.maxTokens ≤ 65536) &&
    (o.d == 0 || (decide (2 ≤ o.d) && decide (o.d ≤ 8))) && temperatureOk o.temperature && topPOk o.topP &&
    decide (o.topK ≤ 1024) && (o.stencil == 0xFFFF || decide (o.stencil ≤ 1023)) &&
    (!p.timed || (decide (1 ≤ o.ttftLimit) && decide (1 ≤ o.itbLimit))) &&
    (o.usePrefix || o.handle == 0) && decide (o.stopTokens.length ≤ 8) && decide (o.stopSeqs.length ≤ 4) &&
    o.stopSeqs.all (fun q => decide (1 ≤ q.length) && decide (q.length ≤ 64)) &&
    (!p.isSealed || (o.stopTokens.isEmpty && o.stopSeqs.isEmpty)) && decide (len ≤ 4194304) &&
    (!p.configured || (match o.prompt with | .plain _ => true | .sealedText .. => p.isSealed)) &&
    (!(openIn s o.session (h.func - 1)) || v.pending ||
      (match o.prompt with | .plain segs => segShape segs != 0 | .sealedText .. => true))

/-- Positions that the turn itself prefills (R233, R260), and those of re-prefills (R246): of a history that is tokenised anew, a byte is
one position (R274). -/
def ownPrefill (v : Session) (o : ReqOps) : Nat := bit v.pending + promptShape o.prompt - 1
def rePrefillOf (s : State) (v : Session) (slot : Nat) : Nat :=
  if mustMigrate s v slot then
    (if sameLettering s v.slot slot then v.history.length else againBytes s v slot) - bit v.pending
  else (v.history.length - bit v.pending) - v.positions

/-- Positions committed when the turn ends (R242 check 6). -/
def positionsAfter (s : State) (v : Session) (slot : Nat) (o : ReqOps) : Nat :=
  (if mustMigrate s v slot then 0 else v.positions) + rePrefillOf s v slot + ((prefixOf s o).map (·.length)).getD 0 +
    ownPrefill v o + o.maxTokens

/-- History extents that the turn needs beside those of the session: for its positions and the pending token (R235). -/
def extentsNeeded (s : State) (v : Session) (slot : Nat) (o : ReqOps) : Nat :=
  (positionsAfter s v slot o + 1 + 511) / 512 - v.extents.length

/-- Pages that a row reads in one layer: all of them, or P, the last 4 and those with ALWAYS_READ (R174). -/
def selectedPages (p : Option Nat) (pages always : Nat) : Nat :=
  match p with
  | some p => if p + 4 < pages then min pages (p + 4 + always) else pages
  | none => pages

/-- The most pages that a row of the session reads in a layer, up to a position: P, the 4 last, and the PINNED pages of an ALWAYS_READ
prefix (R174, R243). -/
def pagesRead (s : State) (slot : Nat) (o : ReqOps) (positions : Nat) : Nat :=
  let always := match readPrefix s o with | some x => if x.alwaysRead then x.length / 128 else 0 | none => 0
  selectedPages (selectP s slot o) ((positions + 127) / 128) always

/-- The tenant has no adapter, or some version of its adapter fits the slot's model (R217, R242 check 4). -/
def adapterFits (s : State) (v : Session) (slot : Nat) : Bool :=
  let t := getTenant s v.tenant
  let model := ((getSlot s slot).head.map (·.modelId)).getD 0
  t.versions.isEmpty || t.versions.any (fun w => w.modelId == model)

/-- The fields that depend on the Folio of the slot the turn binds to (R336). -/
def folioFieldsOk (s : State) (slot : Nat) (o : ReqOps) : Bool :=
  let n := getSlot s slot
  match n.head, n.body with
  | some hd, some b =>
    (o.stencil == 0xFFFF || (n.stencils.any (fun kv => kv.1 == o.stencil))) && decide (o.pagesP ≤ b.pagesP) &&
      (o.d == 0 || decide (hd.flags / 32 % 2 = 1))
  | _, _ => false

/-- Checks 1 to 6 of R242 and what R336 puts between them. -/
def submitStatus (s : State) (h : Hdr) (o : ReqOps) : Option Nat :=
  let v := getSession s o.session
  if openIn s o.session (h.func - 1) = false ∨ v.tenant ≠ o.tenant then some 0x0304
  else if v.turn.isSome then some 0x0305
  else match bindSlot s v with
    | none => some 0x040D
    | some n =>
      if adapterFits s v n = false then some 0x0402
      else if folioFieldsOk s n o = false then some stInvalidField
      else if o.usePrefix && ((prefixOf s o).isNone || v.turns != 0 || v.positions != 0 || v.pending) then some 0x0309
      else if 2097151 < positionsAfter s v n o then some 0x0403
      else if extentsLeft s v.partition v.isSealed < extentsNeeded s v n o then some 0x0404
      else none

/-- Positions of m in R246. -/
def prefillM (s : State) (v : Session) (n : Nat) (o : ReqOps) : Nat :=
  ownPrefill v o + rePrefillOf s v n +
    (match prefixOf s o with | some x => if x.state = .ready then 0 else x.length - x.prefilled | none => 0)

/-- A of R246 for the tenant's current version: 0 when it has a line, or when there is no version. -/
def adapterPrice (s : State) (v : Session) : Frac :=
  match versionAt (getTenant s v.tenant) (bindAdapter s v) with
  | none => fint 0
  | some w =>
    if s.images.lines.any (fun kv => kv.2.tenant == v.tenant && kv.2.version == w.index) then fint 0 else priceA w.bytes

/-- C of R246: 40 µs for a Sealed partition; with text, 5 µs and its bytes at 2 GB/s (R263, R274). -/
def textPrice (s : State) (v : Session) (n : Nat) (o : ReqOps) : Frac :=
  let re := againBytes s v n
  let bytes := (match o.prompt with | .plain segs => segTextBytes segs | .sealedText _ _ l _ _ => l) + re
  fadd (fint (if v.isSealed then 40000 else 0))
    (if o.text ∨ 0 < bytes then { num := 2 * 5000 + bytes, den := 2 } else fint 0)

/-- Pages that R249 reserves. -/
def pagesNeeded (v : Session) (m : Nat) (o : ReqOps) : Nat :=
  (v.positions + m + o.maxTokens + o.d + 127) / 128 - v.pages.length

/-- Checks TIME_UNSYNCED and 7 to 12 of R242, for a Timed turn. -/
def timedStatus (s : State) (v : Session) (n : Nat) (o : ReqOps) : Option Nat :=
  let f := s.power.floor
  let p := getPartition s v.partition
  let m := prefillM s v n o
  if s.link.ptm.lock = false then some 0x0405
  else if (refill s.now (getTenant s v.tenant)).level ≤ 0 then some 0x0406
  else if f = 0 ∨ f < guaranteePower (getSlot s n) then some 0x0407
  else if s.power.allowance < f ∨ s.power.hostCap < f ∨ s.thermal.coolingCap < f then some 0x0408
  else if s.serving.regime.pagesT < pagesRead s n o (positionsAfter s v n o) ∨ s.serving.regime.rowsT < max 1 o.d then
    some 0x0409
  else if p.timedSequences < timedInPartition s v.partition + 1 ∨ positionLimit s n < timedPositions s + max 1 o.d then
    some 0x040A
  else if availablePages s (some o.session) < pagesNeeded v m o then some 0x040B
  else
    let ttft := priceTtft s n (v.parked.length + (if v.state = .parking then min 1 v.outbound.length else 0))
      (adapterPrice s v) (prefillLedger s) m (textPrice s v n o)
    let itb := priceItb s n o.d (if v.isSealed then 3000 else if o.text then 1000 else 0)
    if o.ttftLimit < ttft ∨ o.itbLimit < itb then some 0x040C else none

/-- What a turn takes when it is accepted: the history extents that it will need (R242), and a reader place at the prefix that it names,
which a later PREFIX_RELEASE leaves it (R241, R256). -/
def reserveTurn (s : State) (v : Session) (n : Nat) (o : ReqOps) : State :=
  let s := growHistory s o.session (extentsNeeded s v n o)
  match (if o.usePrefix then findPfx s o.tenant o.handle else none) with
  | some x =>
    let p := getPfx s x
    putPfx s x { p with readers := p.readers + 1, lastUse := stamp s }
  | none => s

/-- A turn as REQ_SUBMIT names it, before it starts. -/
def newTurn (s : State) (h : Hdr) (o : ReqOps) (timed : Bool) : Turn :=
  let p := getPartition s (h.func - 1)
  { ops := o, func := h.func, qp := h.qp, timed := timed, phase := .queued,
    place := if o.usePrefix then findPfx s o.tenant o.handle else none, epoch := 0, slot := 0, adapterEpoch := 0,
    keySet := (getSession s o.session).keySets,
    lateStop := if o.lateSet then o.lateStop else p.lateStop, pricedWidth := s.link.width, pricedRate := s.link.rate }

/-- REQ_SUBMIT: a Timed turn that passes every check is accepted with its promise; a non-Timed one is queued. -/
def execReqSubmit (h : Hdr) (o : ReqOps) (s : State) : Out :=
  let o := { o with prompt := asRead (getPartition s (h.func - 1)).isSealed o.prompt }
  let early := s.board.modReady && decide (h.func ≠ 0) && (getPartition s (h.func - 1)).isSealed && !o.text
  let rsvd := !o.text && !o.stopSeqs.isEmpty
  let h' := if rsvd then { h with rsvd := 1 } else h
  .next (runSession s h' opReqSubmit o.session (!(reqRangeOk s h o)) (fun s =>
    let p := getPartition s (h.func - 1)
    if early then answerFor s h opReqSubmit o.session 0x0401 0
    else match submitStatus s h o with
      | some st => answerFor s h opReqSubmit o.session st 0
      | none =>
        let v := getSession s o.session
        match bindSlot s v with
        | none => answerFor s h opReqSubmit o.session 0x040D 0
        | some n =>
          if p.timed then
            match timedStatus s v n o with
            | some st => answerFor s h opReqSubmit o.session st 0
            | none =>
              let m := prefillM s v n o
              let ttft := priceTtft s n (v.parked.length + (if v.state = .parking then min 1 v.outbound.length else 0))
                (adapterPrice s v) (prefillLedger s) m (textPrice s v n o)
              let itb := priceItb s n o.d (if v.isSealed then 3000 else if o.text then 1000 else 0)
              let t := { newTurn s h o true with
                tAcc := stamp s, ttft := ttft, itb := itb, reserved := pagesNeeded v m o, ledger := m }
              let tAcc := stamp s
              let s := reserveTurn (putTenant s o.tenant (refill s.now (getTenant s o.tenant))) v n o
              startTurn (answerFor (modSession s o.session (fun v => { v with turn := some t })) h opReqSubmit o.session stSuccess
                (ttft + 2 ^ 32 * itb + 2 ^ 64 * tAcc)) o.session n t
          else
            let turn := newTurn s h o false
            let s := reserveTurn s v n o
            let t := getTenant s o.tenant
            let s := putTenant s o.tenant { t with queue := t.queue ++ [.turn o.session] }
            answerFor (modSession s o.session (fun v => { v with turn := some turn })) h opReqSubmit o.session stSuccess 0))

/-- REQ_CANCEL: the turn ends with CANCELLED, its END ahead of this completion (R256, R310). -/
def execReqCancel (h : Hdr) (session : Nat) (s : State) : Out :=
  .next (runSession s h opReqCancel session (decide (262144 ≤ session)) (fun s =>
    if openIn s session (h.func - 1) = false then answerFor s h opReqCancel session 0x0304 0
    else if (getSession s session).turn.isNone then answerFor s h opReqCancel session 0x040E 0
    else endTurn (startLater s h opReqCancel session) session 0x0A))

end Sys2Proof.Machine
end

