-- ==== Sys2Proof/Machine/ServeOps.lean ====
section
/-! DEFINITION. Shared operations of the scribe's steps: which rows a step may carry (R152, R155, R243), its descriptor
(R153), what sampling delivers (R179, R264 to R267), hand-off (R162) and the exchange of experts (R167). -/

namespace Sys2Proof.Machine

/-! ## Rows (R152, R153, R243) -/

/-- The adapter line of a tenant's version of an epoch (R171): 63 for a tenant with no version, `none` while it has no line or the line
is still being loaded. -/
def lineFor (s : State) (tenant epoch : Nat) : Option Nat :=
  match versionAt (getTenant s tenant) epoch with
  | none => some 63
  | some w => (s.images.lines.find? (fun kv => kv.2.tenant == tenant && kv.2.version == w.index && !(lineLoading s kv.1))).map (·.1)

/-- KV pages that a row needs up to a position and does not have. -/
def pagesLacking (s : State) (ref : RowRef) (upTo : Nat) : Nat :=
  match ref with
  | .session id =>
    let v := getSession s id
    let base := match v.pfx with | some x => (getPfx s x).length / 128 | none => 0
    ((List.range ((upTo + 127) / 128)).filter (fun l => decide (base ≤ l) && !(v.pages.any (fun q => q.1 == l)))).length
  | .pfx x => (upTo + 127) / 128 - (getPfx s x).pages.length

/-- A row that the scribe may put into a step of a kind, with its count. -/
structure RowPlan where
  row : StepRow
  slot : Nat
  epoch : Nat
  timed : Bool
  /-- host time by which a Timed row's next token is due, or its acceptance for a prefill -/
  rank : Nat
  pages : Nat
  deriving DecidableEq, Repr

/-- The turn's ring has room in its holding buffer (R268). -/
def holdingFree (s : State) (t : Turn) : Bool := decide (holdUnits (getQueue s t.func t.qp) < 256)

/-- The prefix that the session waits for is written (R241). A turn of an older epoch reads the old pages and waits for nothing (R216). -/
def prefixWritten (s : State) (v : Session) : Bool :=
  match v.pfx with
  | some x => !(getPfx s x).unwritten || decide (v.epoch ≠ (getPfx s x).epoch)
  | none => true

/-! ## Draft pages (R176) -/

/-- A granule for a draft page: the first free one in the reserve of a B-die site, in die order. -/
def draftGranule (s : State) : Option (Nat × Nat) :=
  bSites.findSome? (fun d => if siteServes s d then (reserveRun s d 1).map (fun g => (d, g)) else none)

/-- A session takes one more draft page, if a reserve has a granule for it. -/
def addDraft (s : State) (id : Nat) : State :=
  match draftGranule s with
  | none => s
  | some (d, g) =>
    let p : DraftPage := { site := d, granule := g, session := id, logical := (draftPagesOf s id).length }
    { s with serving := { s.serving with draftPages := s.serving.draftPages ++ [p] } }

/-- Draft pages for the positions below `upTo`, as far as the reserves have room. -/
def growDraft (s : State) (id n : Nat) : State := (List.range n).foldl (fun s _ => addDraft s id) s

def ensureDraft (s : State) (id upTo : Nat) : State := growDraft s id ((upTo + 127) / 128 - (draftPagesOf s id).length)

/-- The session has its draft pages up to a position, or a reserve has room for the next. -/
def draftRoom (s : State) (id upTo : Nat) : Bool :=
  decide ((upTo + 127) / 128 ≤ (draftPagesOf s id).length) || (draftGranule s).isSome

/-- The count of a session's row: its proposals under verification, the positions it prefills, or 1. Without room for its draft pages a
round makes no further DRAFT step (log entry 43). -/
def sessionCount (t : Turn) (kind : StepKind) (asked : Nat) (room : Bool) : Option Nat :=
  match kind with
  | .decode =>
    if t.phase ≠ .decode then none
    else if t.ops.d = 0 then some 1
    else if t.proposals.length = t.ops.d ∨ t.draftEnded ∨ room = false then some (max 1 t.proposals.length) else none
  | .draft =>
    if t.phase = .decode ∧ t.ops.d ≠ 0 ∧ t.draftEnded = false ∧ t.proposals.length < t.ops.d ∧ room then some 1 else none
  | .prefill => if t.phase = .prefill ∧ 1 ≤ asked ∧ asked ≤ t.prompt.length then some asked else none

/-- The acceptances of the Timed turns that wait for a prefix: its positions are in the ledger with theirs (R246). -/
def timedWaiting (s : State) (x : Nat) : List Nat :=
  (liveTurns s).filterMap (fun y =>
    if y.2.2.timed && decide (y.2.1.pfx = some x) && !(prefixWritten s y.2.1) then some y.2.2.tAcc else none)

/-- The plan of one row, if it may join a step now. -/
def planRow (s : State) (kind : StepKind) (ref : RowRef) (asked : Nat) : Option RowPlan :=
  match ref with
  | .session id =>
    let v := getSession s id
    match v.turn with
    | none => none
    | some t =>
      match sessionCount t kind asked (draftRoom s id (v.positions + t.proposals.length + 1)), lineFor s v.tenant t.adapterEpoch with
      | some n, line =>
        let line := if kind = .prefill then some (line.getD 63) else line
        if decide (v.state = .turn) && t.step.isNone && t.due.isEmpty && t.ending.isNone && prefixWritten s v &&
            holdingFree s t && line.isSome && !(inStep s id) then
          some {
            row := {
              ref := ref, line := line.getD 63, partition := v.partition, tenant := v.tenant, adapterEpoch := t.adapterEpoch,
              verify := decide (kind = .decode) && !t.proposals.isEmpty,
              position := v.positions + (if kind = .draft then t.proposals.length else 0), count := n },
            slot := t.slot, epoch := t.epoch, timed := t.timed,
            rank := if kind = .prefill then t.tAcc else (deadlineOf t (t.sampled + 1)).getD 0,
            pages := pagesRead s t.slot t.ops (v.positions + n) }
        else none
      | none, _ => none
  | .pfx x =>
    let p := getPfx s x
    let waiting := timedWaiting s x
    if kind = .prefill ∧ p.unwritten ∧ p.admitted ∧ p.step = none ∧ 1 ≤ asked ∧ p.prefilled + asked ≤ p.length then
      some {
        row := {
          ref := ref, line := 63, partition := p.partition, tenant := p.tenant,
          adapterEpoch := (getTenant s p.tenant).adapterEpoch, verify := false, position := p.prefilled, count := asked },
        slot := p.slot, epoch := p.epoch, timed := !waiting.isEmpty, rank := waiting.foldl min (waiting.headD 0),
        pages := selectedPages (folioP s p.slot) ((p.prefilled + asked + 127) / 128) (if p.alwaysRead then p.prefilled / 128 else 0) }
    else none

/-- Timed rows come first, in ascending rank. -/
def timedFirst : List RowPlan → Bool
  | a :: b :: l => (a.timed || !b.timed) && (!(a.timed && b.timed) || decide (a.rank ≤ b.rank)) && timedFirst (b :: l)
  | _ => true

/-- What Timed work could have in a step: the sessions with a Timed turn, and in a PREFILL step the prefixes that one waits for. -/
def timedRefs (s : State) : List RowRef :=
  (sessionIds s (fun v => match v.turn with | some t => t.timed | none => false)).map .session ++
    (s.serving.prefixes.map (·.1)).map .pfx

/-- Timed rows that could join a step of the kind and are left out, in their smallest form. -/
def leftOut (s : State) (kind : StepKind) (rows : List RowPlan) : List RowPlan :=
  (timedRefs s).filterMap (fun ref =>
    if rows.any (fun r => decide (r.row.ref = ref)) then none else (planRow s kind ref 1).filter (·.timed))

/-- Timed rows that come before one, or with it. -/
def timedBefore (rows : List RowPlan) (o : RowPlan) : List RowPlan := rows.filter (fun r => r.timed && decide (r.rank ≤ o.rank))

/-- Positions that a row's turn, or prefix, has still to prefill. -/
def prefillWhole (s : State) (ref : RowRef) : Nat :=
  match ref with
  | .session id => match (getSession s id).turn with | some t => t.prompt.length | none => 0
  | .pfx x => (getPfx s x).length - (getPfx s x).prefilled

/-- A PREFILL step is filled from the ledger first, in the order of acceptance (R246): Timed work that is left out, or that has less than
all of its positions in it, finds the step full of what was accepted before it, and the rest then takes none. -/
def prefillOk (s : State) (slot : Nat) (rows : List RowPlan) : Bool :=
  let full (o : RowPlan) : Bool :=
    let l := timedBefore rows o
    decide ((l.map (·.row.count)).sum = 16384) || decide (l.length = 64)
  timedFirst rows && (leftOut s .prefill rows).all (fun o => decide (o.slot ≠ slot) || full o) &&
    (rows.filter (·.timed)).all (fun r => decide (r.row.count = prefillWhole s r.row.ref) ||
      (full r && decide (((rows.map (·.row.count)).sum) = 16384)))

/-- The regime shape of a DECODE step (R243): positions, pages, spacing, and Timed rows first. A Timed row is left out only where those of
earlier deadlines leave it no room. -/
def regimeOk (s : State) (slot : Nat) (rows : List RowPlan) : Bool :=
  let g := s.serving.regime
  let l := stepLine s slot
  let total := (rows.map (·.row.count)).sum
  decide (total ≤ g.rowsT) && rows.all (fun r => decide (r.pages ≤ g.pagesT)) &&
    (match s.serving.lastDecode with
      | some last => decide (last * max 1 l.den + spacingOf l ≤ s.now * max 1 l.den)
      | none => true) &&
    timedFirst rows &&
    (leftOut s .decode rows).all (fun o => decide (o.slot ≠ slot) || decide (g.pagesT < o.pages) ||
      decide (g.rowsT < ((timedBefore rows o).map (·.row.count)).sum + o.row.count) ||
      decide ((timedBefore rows o).length = 64))

/-- The largest total and the largest count of a row. -/
def kindLimits (kind : StepKind) : Nat × Nat :=
  match kind with
  | .decode => (64, 8)
  | .draft => (64, 1)
  | .prefill => (16384, 16384)

/-- Prefixes that a switch has all prefilled anew go most recently used first (R216): none of the slot's with a later use is left waiting
for a row. -/
def prefixOrder (s : State) (rows : List (RowRef × Nat)) : Bool :=
  let named := rows.map (·.1)
  rows.all (fun r => match r.1 with
    | .session _ => true
    | .pfx x =>
      let p := getPfx s x
      !p.rePrefill || s.serving.prefixes.all (fun kv =>
        !(kv.2.rePrefill && kv.2.unwritten && kv.2.admitted && kv.2.slot == p.slot &&
          decide (p.lastUse < kv.2.lastUse) && kv.2.step.isNone && !(named.contains (.pfx kv.1)))))

/-- Every row of a step that the scribe is to issue, or `none` when it may not be issued as it stands. -/
def planStep (s : State) (kind : StepKind) (rows : List (RowRef × Nat)) : Option (List RowPlan) :=
  let ps := rows.filterMap (fun r => planRow s kind r.1 r.2)
  match ps.head? with
  | none => none
  | some p =>
    let v := getSlot s p.slot
    let total := (ps.map (·.row.count)).sum
    let need := (ps.map (fun x => pagesLacking s x.row.ref (x.row.position + x.row.count))).sum
    let timedNeed := ((ps.filter (·.timed)).map (fun x => pagesLacking s x.row.ref (x.row.position + x.row.count))).sum
    if s.board.modReady && decide (s.board.phase = .serving) && decide (s.power.state = .active) &&
        decide (ps.length = rows.length) && decide (ps.length ≤ 64) && decide ((rows.map (·.1)).Nodup) &&
        decide (total ≤ (kindLimits kind).1) && ps.all (fun x => decide (x.row.count ≤ (kindLimits kind).2)) &&
        ps.all (fun x => x.slot == p.slot && x.epoch == p.epoch) && slotLive v && decide (s.images.activating ≠ some p.slot) && !v.noVariant && v.body.isSome &&
        !v.reloadDue && !v.streamDue && v.owed.isEmpty && prefixOrder s rows &&
        decide (need ≤ freePages s) && (decide (need = timedNeed) || decide (need + reservedPages s ≤ freePages s + timedNeed)) &&
        (!(timedUnfinished s) || (match kind with
          | .decode => regimeOk s p.slot ps
          | .prefill => prefillOk s p.slot ps
          | .draft => true)) then
      some ps
    else none

/-! ## The descriptor (R153) -/

/-- The code of a kind of step. -/
def kindCode (k : StepKind) : Nat :=
  match k with
  | .decode => 0 | .prefill => 1 | .draft => 2

/-- The id in a row's SESSION field. -/
def refId (r : RowRef) : Nat :=
  match r with
  | .session id => id
  | .pfx x => x

/-- Words of one row. -/
def rowWords (i : Nat) (r : StepRow) : List (Nat × Nat) :=
  [(8 + 3 * i, packFields [(18, refId r.ref), (6, r.line), (4, r.partition), (1, bit r.verify), (3, 0)]),
   (9 + 3 * i, packFields [(16, r.tenant), (16, r.adapterEpoch)]),
   (10 + 3 * i, packFields [(11, 0), (21, r.position)])]

/-- COUNT words: two rows a word. -/
def countWords (rows : List StepRow) : List (Nat × Nat) :=
  (List.range 32).map (fun k =>
    let c (i : Nat) : Nat := match rows[i]? with | some r => r.count | none => 0
    (200 + k, c (2 * k) + 65536 * c (2 * k + 1)))

/-- The descriptor of a step: its words, the route words zero. -/
def buildDesc (root : Digest) (st : Step) : Desc :=
  let head := [(0, st.num % 2 ^ 32), (1, st.num / 2 ^ 32), (2, st.epoch),
    (3, packFields [(1, st.slot), (1, bit st.reference), (2, kindCode st.kind), (5, 0), (7, st.rows.length), (16, st.pages)]),
    (4, st.residencyEpoch)]
  let loops := (List.range 8).map (fun k =>
    (232 + k, Config.loopWord root (kindCode st.kind) (st.rows.map (·.count)) st.pages k % 2 ^ 32))
  let words := head ++ (st.rows.zipIdx.flatMap (fun x => rowWords x.2 x.1)) ++ countWords st.rows ++ loops
  { step := st.num, words := words.foldl (fun t w => tput 0 t w.1 w.2) [] }

/-! ## Starting a row -/

/-- A page for a prefix. -/
def givePfxPage (s : State) (x : Nat) : State :=
  let v := getPfx s x
  let mk := fun (p : Page) => { p with
    session := x, tenant := v.tenant, logical := v.pages.length, state := .pinned, alwaysRead := v.alwaysRead,
    isSealed := v.isSealed, partition := v.partition, slot := v.slot }
  match takePage s v.pages.getLast? mk with
  | some (p, s) => putPfx s x { v with pages := v.pages ++ [p] }
  | none => s

/-- What the start of a PREFILL row costs, in 1/256 of a token: its positions but those that are prefilled again (R231). -/
def rowCharge (s : State) (kind : StepKind) (r : StepRow) : Nat :=
  let again := match r.ref with
    | .session id => match (getSession s id).turn with | some t => t.rePrefill | none => 0
    | .pfx x => (getPfx s x).free - r.position
  if kind = .prefill then (r.count - min again r.count) * (getTenant s r.tenant).weight else 0

/-- The pages of a row, and the charge of a PREFILL row (R231). WRITTEN rises with the writes themselves (R140). -/
def startRow (s : State) (kind : StepKind) (num : Nat) (r : StepRow) : State :=
  let upTo := r.position + r.count
  match r.ref with
  | .session id =>
    let s := if kind = .draft then ensureDraft s id upTo
      else ensurePages s id upTo
    let s := if r.charged = 0 then s else charge s r.tenant r.charged
    modTurn s id (fun t => { t with step := some num })
  | .pfx x =>
    let s := (List.range (pagesLacking s r.ref upTo)).foldl (fun s _ => givePfxPage s x) s
    let s := if r.charged = 0 then s else charge s r.tenant r.charged
    putPfx s x { getPfx s x with step := some num }

/-- An adapter line is used by a step. -/
def touchLine (s : State) (l : Nat) : State :=
  if l = 63 then s
  else { s with images := { s.images with
    lines := tput {} s.images.lines l { tget ({} : Line) s.images.lines l with lastUse := stamp s } } }

/-- The arithmetic mode of a slot, once its change binds (R122). -/
def bindMode (s : State) (n num : Nat) : State :=
  let v := getSlot s n
  match v.modeFrom with
  | some (from_, m) => if from_ ≤ num then putSlot s n { v with reference := m, modeFrom := none } else s
  | none => s

/-- The B-dies on a PREFILL step's path take its positions in order, with counts that differ by at most 1: the first dies have one more
(R159, log entry 43). -/
def splitOver (dies : List Nat) (total : Nat) : List (Nat × Nat × Nat) :=
  let n := max 1 dies.length
  dies.zipIdx.map (fun x =>
    let k := total / n
    (x.1, x.2 * k + min x.2 (total % n), k + bit (decide (x.2 < total % n))))

/-- A descriptor as an island of a die takes it, with the die's share of a PREFILL step. -/
def shareDesc (st : Step) (die : Nat) (d : Desc) : Desc :=
  match st.split.find? (fun x => x.1 == die) with
  | some x => { d with share := x.2 }
  | none => d

/-- The step is issued: its number, its rows, and its descriptor at every island of its path. -/
def issueStep (s : State) (kind : StepKind) (ps : List RowPlan) : State :=
  match ps.head? with
  | none => s
  | some p =>
    let num := s.serving.nextStep
    let s := bindMode s p.slot num
    let v := getSlot s p.slot
    let st : Step := {
      num := num, kind := kind, epoch := p.epoch, slot := p.slot, reference := v.reference,
      residencyEpoch := v.residencyEpoch, pages := (ps.map (·.pages)).foldl max 0, 
      rows := ps.zipIdx.map (fun x => { x.1.row with
        sampler := mkUnit sDie (4 + x.2 % 16) 0, charged := rowCharge s kind x.1.row, pages := x.1.pages }) }
    let dies := ((stepPath s st).map unitDie).eraseDups
    let st := if kind = .prefill then { st with split := splitOver dies ((st.rows.map (·.count)).sum) } else st
    let s := st.rows.foldl (fun s r => touchLine (startRow s kind num r) r.line) s
    let s := { s with serving := { s.serving with
      nextStep := num + 1, steps := s.serving.steps ++ [st],
      lastDecode := if kind = .decode then some s.now else s.serving.lastDecode } }
    let d := buildDesc (stepRoot s st) st
    (stepPath s st).foldl (fun s u => postDesc s u (shareDesc st (unitDie u) d)) s

/-! ## Sampling (R176 to R181) -/

/-- The sampling parameters of a turn on its slot. -/
def paramsOf (s : State) (v : Session) (t : Turn) : Params :=
  { temperature := t.ops.temperature, topK := t.ops.topK, topP := t.ops.topP, seed := v.seed,
    stencil := if t.ops.stencil = 0xFFFF then none
      else ((getSlot s t.slot).stencils.find? (fun kv => kv.1 == t.ops.stencil)).map (·.2) }

/-- The lettering tables of a slot. -/
def letteringOf (s : State) (n : Nat) : Lettering :=
  match (getSlot s n).body with
  | some b => b.lettering
  | none => { vocab := [], merges := [], splitStates := 0 }

/-- The records that a step's delivery makes due (R269 to R272). -/
def stepRecords (l : Lettering) (v : Session) (t : Turn) (d : Delivery) : List Due :=
  if d.tokens.isEmpty then []
  else if v.isSealed then [.sealedText d.tokens.length d.text none]
  else if t.ops.text then [.text d.tokens.length d.text]
  else d.tokens.map (fun x => .token x (isSpecial l x))

/-- The lettering counters of a delivery in text mode (R275): of the bytes that it leaves held, those that came with it are held for the
first time. -/
def countDelivery (s : State) (t : Turn) (d : Delivery) : State :=
  if t.ops.text then
    let c := s.serving.lettering
    let raw := (d.tokens.flatMap (fun x => if t.ops.stopTokens.contains x then [] else tokenBytes (letteringOf s t.slot) x)).length
    let newHeld := min raw (d.held.length + d.stopHeld.length)
    { s with serving := { s.serving with lettering := { c with
        bytesOut := sat 64 (c.bytesOut + d.text.length), tokensOut := sat 64 (c.tokensOut + d.tokens.length),
        replacements := sat 32 (c.replacements + d.replacements), heldBytes := sat 32 (c.heldBytes + newHeld),
        stopMatches := sat 32 (c.stopMatches + bit (decide (d.reason = some 4))) } } }
  else s

/-- The tokens of a step delivered: committed positions and their history, records, and the end of the turn when
a stop condition is met (R179, R264 to R267). The last token becomes the pending one with its delivery (R235). -/
def deliverRow (s : State) (id : Nat) (toks : List Nat) (stop : Option Nat) : State :=
  let v := getSession s id
  match v.turn with
  | none => s
  | some t =>
    let p := paramsOf s v t
    let l := letteringOf s t.slot
    let d := deliverTokens l t.ops p.stencil t.sampled
      { held := t.held, stopHeld := t.stopHeld, stencilState := t.stencilState } toks
    let n := d.tokens.length
    let c := v.positions
    let s := countDelivery s t d
    let reason := d.reason <|> stop
    let t' := { t with
      sampled := t.sampled + n, cuts := if n = 0 then t.cuts else t.cuts ++ [(t.sampled + n, d.held, d.stopHeld)], proposals := [], draftEnded := false, stencilState := d.stencilState,
      draftStencilState := d.stencilState, held := d.held, stopHeld := d.stopHeld,
      input := d.tokens.getLast?.getD t.input, step := none }
    let s := commitPages s id (c + n)
    let s := if t.ops.d = 0 then s else setDraft s id (c + n)
    let s := putSession s id { v with
      turn := some t', positions := c + n, pending := if n = 0 then v.pending else false }
    let s := if n = 0 then s else setHistory s id (v.history.take c ++ t.input :: d.tokens.dropLast)
    match reason with
    | none =>
      let due := stepRecords l v t d
      lateStop (pumpAll due.length (modTurn s id (fun t => { t with due := t.due ++ due })) id) id
    | some r =>
      if v.isSealed then
        let fl := flushText d.held d.stopHeld
        let due : List Due := [.sealedText n (d.text ++ fl) (some r), .fin r]
        let s := unqueue (discardRows s (.session id)) v.tenant (.turn id)
        pumpAll 2 (modTurn (countFlush s t') id (fun t => { t with
          ending := some r, due := due, held := [], stopHeld := [], reserved := 0 })) id
      else endTurn (modTurn s id (fun t => { t with due := stepRecords l v t d })) id r

/-- A row of a step has finished sampling. -/
def markSampled (s : State) (num : Nat) (row : Met Nat Nat) : State :=
  modStep s num (fun st => { st with
    rows := st.rows.zipIdx.map (fun x => if x.2 = row.val then { x.1 with sampled := true } else x.1), energyMj := st.energyMj + row.met })

/-- A DRAFT row's proposal, or the end of the round's drafting (R176). -/
def draftRow (s : State) (id : Nat) (logits : List Fp32) : State :=
  let v := getSession s id
  match v.turn with
  | none => s
  | some t =>
    let p := paramsOf s v t
    let s := setDraft s id (v.positions + t.proposals.length + 1)
    match sampleOne p t.draftStencilState (v.positions + t.proposals.length + 1) logits with
    | .stop _ => modTurn s id (fun t => { t with draftEnded := true, step := none })
    | .token x =>
      let c := finiteLogits p t.draftStencilState logits
      let q := if isGreedy p then [(x, 0x3F800000#32)] else valuesOf (distribution p c)
      modTurn s id (fun t => { t with
        proposals := t.proposals ++ [{ token := x, q := q }], step := none,
        draftStencilState := match p.stencil with | some st => stencilNext st t.draftStencilState x | none => t.draftStencilState })

/-- NaN logits that the sampler of a row meets at step 1 of R181: those of the positions that it goes through. A row whose
turn is gone runs to its end all the same (R157). -/
def metNan (s : State) (kind : StepKind) (r : StepRow) (logits : List (List Fp32)) : Nat :=
  let all_ := (logits.map nanLogits).sum
  match r.ref with
  | .pfx _ => all_
  | .session id =>
    let v := getSession s id
    match v.turn with
    | none => all_
    | some t =>
      let p := paramsOf s v t
      if r.discarded then all_
      else if r.verify then
        let x := verifyAll p t.stencilState (v.positions + 1) logits t.proposals
        ((logits.take (x.1.length + bit (decide (x.2 = some 7)))).map nanLogits).sum
      else if (stencilStop p (if kind = .draft then t.draftStencilState else t.stencilState)).isSome then 0
      else nanLogits (logits.headD [])

/-- A DECODE row's tokens: an ordinary draw, or the test of its proposals. -/
def decodeRow (s : State) (id : Nat) (verify : Bool) (logits : List (List Fp32)) : State :=
  let v := getSession s id
  match v.turn with
  | none => s
  | some t =>
    let p := paramsOf s v t
    if verify then
      let r := verifyAll p t.stencilState (v.positions + 1) logits t.proposals
      deliverRow s id r.1 r.2
    else
      match sampleOne p t.stencilState (v.positions + 1) (logits.headD []) with
      | .token x => deliverRow s id [x] none
      | .stop r => deliverRow s id [] (some r)

/-! ## The hand-off (R162) -/

/-- A session's PREFILL row ends: positions commit, the ledger falls, and a prompt that is done makes it decode. -/
def handoffSession (s : State) (id count : Nat) : State :=
  let v := getSession s id
  match v.turn with
  | none => s
  | some t =>
    let c := v.positions
    let hist := v.history.take c ++ t.prompt.take count ++ v.history.drop (c + count)
    let re := t.rePrefill - count
    let s := commitPages s id (c + count)
    let s := putSession s id { v with
      positions := c + count, pending := v.pending && decide (c + count < hist.length),
      turn := some { t with
        prompt := t.prompt.drop count, rePrefill := re, ledger := t.ledger - count, step := none,
        phase := if (t.prompt.drop count).isEmpty then .decode else .prefill,
        oldPages := if re = 0 then [] else t.oldPages } }
    let s := setHistory s id hist
    if re = 0 then freePagesOf s t.oldPages else s

/-- COMMITTED of a prefix's pages. -/
def commitPfx (s : State) (x positions : Nat) : State :=
  (getPfx s x).pages.zipIdx.foldl (fun s q => commitPage s q.1 (min 128 (positions - q.2 * 128))) s

/-- The ledger of a turn that waits for a prefix falls with its positions: the session holds none yet (R246). -/
def lowerLedger (v : Session) (count : Nat) (t : Turn) : Turn := if v.positions = 0 then { t with ledger := t.ledger - count } else t

/-- A prefix's PREFILL row ends: READY once it is whole, unless it was released meanwhile, and the turns that waited for it attach
(R240, R241). -/
def handoffPfx (s : State) (x count : Nat) : State :=
  let v := getPfx s x
  let n := v.prefilled + count
  let s := commitPfx s x n
  let s := mapSessions s (fun _ w => if w.pfx = some x then { w with turn := w.turn.map (lowerLedger w count) } else w)
  if v.unwritten ∧ v.length ≤ n then
    let s := putPfx s x { v with state := if v.state = .releasing then .releasing else .ready, prefilled := n, step := none, admitted := false, rePrefill := false }
    completeStarted (attachWaiting s x) 0x0308 x stSuccess (v.length + 2 ^ 32 * x)
  else putPfx s x { v with prefilled := n, step := none }

/-! ## Exchanges of experts (R167, R168) -/

/-- Experts of a layer, numbered, that pass a test, ordered by count: highest first, lower index first between equals. -/
def byCount (r : LayerRes) (p : Expert → Bool) : List (Nat × Expert) :=
  sortBy (fun a b => decide (b.2.count < a.2.count) || (decide (a.2.count = b.2.count) && decide (a.1 ≤ b.1)))
    ((r.experts.zipIdx.filter (fun x => p x.1)).map (fun x => (x.2, x.1)))

/-- The next exchange of a layer: the expert to promote and the one to demote. Pins come first, count among the up to 4 exchanges of a
window, and a forced promotion takes the place of a forced demotion where there is one (DESIGN CHOICE: R167 does not say so, log entry
43). -/
def nextExchange (r : LayerRes) : Option (Nat × Nat) :=
  let coldFree := byCount r (fun e => !e.hot && e.pin == 0)
  let hotFree := byCount r (fun e => e.hot && e.pin == 0)
  let mustUp := byCount r (fun e => !e.hot && e.pin == 1)
  let mustDown := byCount r (fun e => e.hot && e.pin == 2)
  match mustUp, mustDown with
  | u :: _, d :: _ => some (u.1, d.1)
  | u :: _, [] => hotFree.getLast?.map (fun d => (u.1, d.1))
  | [], d :: _ => coldFree.head?.map (fun u => (u.1, d.1))
  | [], [] =>
    match coldFree.head?, hotFree.getLast? with
    | some u, some d => if 9 * d.2.count < 8 * u.2.count then some (u.1, d.1) else none
    | _, _ => none

/-- The free seat of the group with the most free seats, the lower group first. -/
def pickSeat (r : LayerRes) : Option Nat :=
  let per := max 1 r.seatsPerGroup
  let inGroup (g : Nat) : List Nat := r.freeSeats.filter (fun x => x / per == g)
  let best := (List.range r.groups).foldl (fun (b : Option Nat) g =>
    match b with
    | none => if (inGroup g).isEmpty then none else some g
    | some h => if (inGroup h).length < (inGroup g).length then some g else some h) none
  best.bind (fun g => (inGroup g).foldl (fun (m : Option Nat) x => match m with
    | none => some x
    | some y => some (min x y)) none)

/-- One exchange: the demoted expert takes the spare cold slot, the promoted one the chosen seat. -/
def exchange (r : LayerRes) (epoch up down seat : Nat) : LayerRes :=
  let seatOf (e : Nat) : Nat := match r.experts[e]? with | some x => x.place | none => 0
  let put (e : Nat) (x : Expert) : Expert :=
    if e = up then { x with hot := true, place := seat }
    else if e = down then { x with hot := false, place := r.spare } else x
  { r with
    experts := r.experts.zipIdx.map (fun x => put x.2 x.1), freeSeats := r.freeSeats.filter (fun x => x != seat),
    left := r.left - 1, older := r.older ++ [(epoch, r.experts)],
    releasing := r.releasing ++ [(seatOf down, seatOf up, epoch + 1)] }

def modLayer (s : State) (n l : Nat) (f : LayerRes → LayerRes) : State :=
  let v := getSlot s n
  putSlot s n { v with layers := modWhere (fun r => r.layer == l) f v.layers }

/-- Steps in flight on a slot that use a seat map older than an epoch and have not left the layer (R167). -/
def olderSteps (s : State) (n l epoch : Nat) : Bool :=
  let us := layerClusters (getSlot s n) l
  s.serving.steps.any (fun st => st.slot == n && decide (st.residencyEpoch < epoch) && !(us.all st.ended.contains && !us.isEmpty))

/-- Old seats become free and old cold slots spare, once no step uses an older map. -/
def releaseSeats (s : State) (n l : Nat) : State :=
  modLayer s n l (fun r =>
    let due := r.releasing.filter (fun x => !(olderSteps s n l x.2.2))
    { r with
      releasing := r.releasing.filter (fun x => olderSteps s n l x.2.2), freeSeats := r.freeSeats ++ due.map (·.1),
      spare := (due.getLast?.map (·.2.1)).getD r.spare, older := r.older.filter (fun x => olderSteps s n l (x.1 + 1)) })

/-- A seat's bytes are copied into a slot of the layer's cold-copy area (R167 step 1). -/
def demoteSeat (s : State) (n : Nat) (a : ColdArea) (seat place : Nat) : State :=
  let units := copyUnits (getSlot s n) a.layer
  let s := (seatParts s n a.layer seat).foldl (fun s x =>
    let b := mread s.fabric.sram (sliceKey x.cluster x.addr) x.bytes
    modNet { s with vellum := { s.vellum with mem := mwrite s.vellum.mem (vellumKey a.site ((a.base + place * units) * 64 + x.start)) b } }
      x.cluster (fun c => { c with flitsOut := sat 64 (c.flitsOut + (x.bytes + 63) / 64) })) s
  wroteUnits s a.site (a.base + place * units) units false

/-- A cold copy's bytes are copied into a seat (R167 step 2). -/
def promoteCopy (s : State) (n : Nat) (a : ColdArea) (place seat : Nat) : State :=
  let units := copyUnits (getSlot s n) a.layer
  let s := (seatParts s n a.layer seat).foldl (fun s x =>
    let b := mread s.vellum.mem (vellumKey a.site ((a.base + place * units) * 64 + x.start)) x.bytes
    scribeWrite (modNet s x.cluster (fun c => { c with flitsIn := sat 64 (c.flitsIn + (x.bytes + 63) / 64) })) x.cluster x.addr b) s
  countReads s a.site units

/-- The bytes that one exchange moves. -/
def moveExperts (s : State) (n l : Nat) (r : LayerRes) (up down seat : Nat) : State :=
  let place (e : Nat) : Nat := match r.experts[e]? with | some x => x.place | none => 0
  match (getSlot s n).areas.find? (fun a => a.layer == l) with
  | some a => promoteCopy (demoteSeat s n a (place down) r.spare) n a (place up) seat
  | none => s

/-- The layer's cold copies can be read and written: its area is complete on a site that serves. -/
def areaReady (s : State) (n l : Nat) : Bool :=
  match (getSlot s n).areas.find? (fun a => a.layer == l) with
  | some a => a.ready && siteTakes s a.site
  | none => true

/-- The layer's next exchange, where one is left to make, no step in flight holds the last one up, and its cold copies are not
being rebuilt. None is made under a compat swap, which ends at the new image's initial residency (R219, log entry 43). -/
def exchangeNext (n l : Nat) (s : State) : State :=
  let s := releaseSeats s n l
  let v := getSlot s n
  match v.layers.find? (fun r => r.layer == l) with
  | none => s
  | some r =>
    if r.left = 0 ∨ r.releasing.isEmpty = false ∨ v.streaming ∨ v.state = .compat ∨ areaReady s n l = false then s
    else match nextExchange r, pickSeat r with
      | some (up, down), some seat =>
        let s := modLayer (moveExperts s n l r up down seat) n l (fun r => exchange r v.residencyEpoch up down seat)
        putSlot s n { getSlot s n with residencyEpoch := v.residencyEpoch + 1 }
      | _, _ => modLayer s n l (fun r => { r with left := 0 })

/-- Exchanges of a layer, one at a time. -/
def exchanges (n l k : Nat) (s : State) : State := (List.range k).foldl (fun s _ => exchangeNext n l s) s

end Sys2Proof.Machine
end

