-- ==== Sys2Proof/Machine/StepEvents.lean ====
section
/-! DEFINITION. The meanings of the rows of steps and serving (chapters 6 and 8): prefetch, issue, sampling, hand-off,
health tests, replay, residency, adapter lines, the admission round, parking and the DRAIN time-out. -/

namespace Sys2Proof.Machine

/-- The newest step whose descriptor an island has. -/
def newestStep (i : Island) : Option Nat :=
  match i.posted.getLast? with
  | some d => some d.step
  | none => i.desc.map (·.step)

/-- A read goes into a cluster's prefetch buffer: up to 16 entries and 512 KiB; one that finds the buffer full is dropped and counted.
The data, its poison mark and the generations of the pages are those of the read. -/
def prefetchRun (s : State) (u step n : Nat) (r : VellumRef) (found : List (Nat × VellumEcc)) : State :=
  let l := tget [] s.vellum.prefetch u
  if l.any (fun e => e.step == step && e.ref.site == r.site && e.ref.unit == r.unit && e.units == n) then s
  else if 16 ≤ l.length ∨ 8192 < (l.map (·.units)).sum + n then
    modSite s r.site (fun v => { v with prefetchDiscarded := sat 32 (v.prefetchDiscarded + 1) })
  else
    let x := fetchUnits s u r.tenant r.site r.unit n r.refillClean found
    let pages := ((List.range n).map (fun k => shareAt s r.site (r.unit + k))).filterMap (fun sh =>
      if sh.1.region = .kv then some (pageOf r.site sh.2) else none)
    let e : Prefetch := {
      step := step, ref := { r with region := (shareAt s r.site r.unit).1.region }, units := n, data := x.bytes,
      poisoned := x.poisoned, generations := pages.eraseDups.map (fun p => (p, (getPage s p).generation)) }
    let v := x.state.vellum
    { x.state with vellum := { v with prefetch := tput [] v.prefetch u (tget [] v.prefetch u ++ [e]) } }

/-- Whether a prefetch of a posted step may read a run: KV and draft pages of the step's sessions and of the descriptor's tenant, cold
copies, and master images (R142, R143, R159). -/
def prefetchAllowed (s : State) (step n : Nat) (r : VellumRef) : Bool :=
  let sessions := match findStep s step with | some st => rowSessions st | none => []
  let prefixes := match findStep s step with | some st => rowPrefixes st | none => []
  decide (0 < n) && decide (r.unit + n ≤ siteUnits) && (List.range n).all (fun k =>
    let sh := shareAt s r.site (r.unit + k)
    siteServes s (holdingSite s r.site (r.unit + k)) && (match sh.1.region with
    | .kv => kvReadable s (pageOf r.site sh.2) r.tenant sessions prefixes
    | .cold => (match draftAt s r.site ((r.unit + k) / granuleUnits) with
      | some q => draftReadable s q r.tenant sessions
      | none => true)
    | .master => true
    | _ => false))

/-- A run lies in a KV page that the step's attention does not read, once its pages are selected (R174). -/
def unattended (s : State) (step site unit n : Nat) : Bool :=
  (List.range n).any (fun k =>
    let sh := shareAt s site (unit + k)
    decide (sh.1.region = .kv) && !(attends s step (pageOf site sh.2)))

/-- The cold expert whose fetch the lookahead router of a layer starts: the one that it predicts for the most rows, the lower index
between equal ones (R165). -/
def predictedExpert (r : LayerRes) (epoch : Nat) (rows : List (Nat × Nat)) : Option (Nat × Nat) :=
  let map_ := seatMap r epoch
  let cold := rows.filterMap (fun x => match map_[x.1]? with
    | some e => if e.hot ∨ x.2 = 0 then none else some (x.1, x.2, e.place)
    | none => none)
  (cold.foldl (fun (m : Option (Nat × Nat × Nat)) x => match m with
    | none => some x
    | some y => if y.2.1 < x.2.1 ∨ (y.2.1 = x.2.1 ∧ x.1 < y.1) then some x else m) none).map (fun x => (x.1, x.2.2))

/-- The cluster's part of the cold copy that its layer's lookahead predicts, one expert for each step and layer: the k-th of the
layer's n clusters streams the units from k/n to (k+1)/n of the copy (R165). -/
def prefetchAhead (s : State) (u step : Nat) (a : Lookahead) : State :=
  match findStep s step with
  | none => s
  | some st =>
    let v := getSlot s st.slot
    match (slotTables s u st.slot).role, v.body with
    | .layer l, some b =>
      match v.layers.find? (fun r => r.layer == l), v.areas.find? (fun x => x.layer == l) with
      | some r, some area =>
        let us := layerClusters v l
        let pick := match st.predicted.find? (fun x => x.1 == l) with
          | some x => ((seatMap r st.residencyEpoch)[x.2]?).map (fun e => (x.2, e.place))
          | none => predictedExpert r st.residencyEpoch a.rows
        match (if b.lookahead.any (fun x => x.layer == l) && area.ready then pick else none) with
        | some (e, place) =>
          let s := modStep s step (fun st => { st with predicted := tins st.predicted l e })
          let k := us.idxOf u
          let from_ := r.coldUnits * k / max 1 us.length
          let n := r.coldUnits * (k + 1) / max 1 us.length - from_
          let ref : VellumRef := {
            site := area.site, unit := area.base + place * r.coldUnits + from_, region := .cold, reader := some u,
            refillClean := a.refillClean }
          if prefetchAllowed s step n ref then prefetchRun s u step n ref a.found else s
        | none => s
      | _, _ => s
    | _, _ => s

/-- PREFETCH_ISSUE (R142, R165): the reads that a posted descriptor names, and the part of the predicted cold expert. A read that R143
does not allow is refused as any other (R86). -/
def execPrefetchIssue (t cluster : Nat) (reads : Met (List FetchRead) Lookahead) (s : State) : Out :=
  let s := advance s t
  .next (match newestStep (getIsland s cluster) with
    | none => s
    | some n =>
      let s := reads.val.foldl (fun s r =>
        if prefetchAllowed s n r.units r.ref then
          if unattended s n r.ref.site r.ref.unit r.units then s
          else
            let q := (requestId cluster 17 true, arbPath s cluster (siteUnit r.ref.site))
            let s := passArbiters s q (requests s ++ [q]) r.grants
            prefetchRun s cluster n r.units { r.ref with reader := some cluster } r.found
        else if siteServes s r.ref.site then
          modMem (note s 0x0105 3 cluster r.ref.unit 1) cluster (fun m => { m with
            isolationFaults := sat 32 (m.isolationFaults + 1) })
        else s) s
      prefetchAhead s cluster n reads.met)

/-- STEP_ISSUE (R152 to R156, R243): what binds at the boundary binds first; the step is issued when its rows may run. -/
def execStepIssue (t : Nat) (kind : StepKind) (rows : List (RowRef × Nat)) (s : State) : Out :=
  let s := advance s t
  let b := stepBoundary s
  .next (match planStep b kind rows with
    | some ps => issueStep b kind ps
    | none => s)

/-- SAMPLE_ROW (R176 to R186): one row of a step is sampled, from the whole vocabulary's logits at each of its positions; a discarded row
delivers nothing (R157). The energy of the sampling, in mJ, comes with the command (R394, log entry 15). -/
def execSampleRow (t step : Nat) (row : Met Nat Nat) (logits : List (List Fp32)) (s : State) : Out :=
  let s := advance s t
  .next (match findStep s step with
    | none => s
    | some st =>
      match st.rows[row.val]? with
      | none => s
      | some r =>
        let vocab := ((getSlot s st.slot).body.map (fun b => b.lettering.vocab.length)).getD 0
        let whole := decide (logits.length = r.count) && logits.all (fun l => decide (l.length = vocab))
        if st.faulty || r.sampled || decide (st.kind = .prefill) || !whole then s
        else
          let nan := metNan s st.kind r logits
          let s := if nan = 0 then s
            else countFor s step (Config.logitsTensor (stepRoot s st) (decide (st.kind = .draft))) { topkNan := nan }
          let s := markSampled s step row
          let s := match r.ref with
            | .pfx _ => s
            | .session id =>
              if r.discarded || decide (((getSession s id).turn.bind (·.step)) ≠ some step) then s
              else if st.kind = .draft then draftRow s id (logits.headD [])
              else decodeRow s id r.verify logits
          finishStep s step)

/-- PREFILL_HANDOFF (R162): the step's last layer has ended on every island. -/
def execPrefillHandoff (t step : Nat) (s : State) : Out :=
  let s := advance s t
  .next (match findStep s step with
    | none => s
    | some st =>
      if decide (st.kind = .prefill) && islandsDone s st && !st.faulty then
        let s := st.rows.foldl (fun s r =>
          if r.discarded then s
          else match r.ref with
            | .session id => if ((getSession s id).turn.bind (·.step)) = some step then handoffSession s id r.count else s
            | .pfx x => handoffPfx s x r.count) s
        leaveFlight (splitEnergy s st) st
      else s)

/-- A step's counts of one tensor become its record; a threshold exceeded is an event, at most one a second (R117). The event names
tensor and step in the DETAIL of R316, which has no field for the thresholds: the record holds which they were (log entry 43). -/
def testTensor (s : State) (step tensor : Nat) (c : Counts) : State :=
  let h := tget ({} : Health) s.serving.health tensor
  let mask := exceededMask (tget ({ tensor := tensor } : Threshold) s.serving.thresholds tensor) c
  let over_ := mask != 0#8
  let open_ := match h.postedAt with
    | some p => decide (p + 1000000000 ≤ s.now)
    | none => true
  let h' := { h with
    step := step, counts := c, events := sat 32 (h.events + bit over_),
    suppressed := sat 32 (h.suppressed + bit (over_ && !open_)), exceeded := if over_ && open_ then mask else h.exceeded,
    postedAt := if over_ && open_ then some s.now else h.postedAt }
  let s := { s with serving := { s.serving with health := tput {} s.serving.health tensor h' } }
  if over_ && open_ then postEvent s 0 1 (tensor + 2 ^ 32 * step) else s

/-- HEALTH_TEST (R115 to R117): the records of a step that has completed. -/
def execHealthTest (t step : Nat) (s : State) : Out :=
  let s := advance s t
  .next (if (findStep s step).isSome then s
    else
      let mine := s.serving.counting.filter (fun x => x.1 == step)
      let s := { s with serving := { s.serving with counting := s.serving.counting.filter (fun x => x.1 != step) } }
      mine.foldl (fun s x => if x.2.2 = {} then s else testTensor s step x.2.1 x.2.2) s)

/-- The dies in the order of the layers (R151). -/
def layerOrder : List Nat :=
  List.range 8 ++ [15, 14, 13, 12, 11, 10, 9, 8] ++ (List.range 8).map (· + 24) ++ [39, 38, 37, 36, 35, 34, 33, 32]

/-- The step's input activations are held at a die's boundary (R438). -/
def boundaryHeld (s : State) (st : Step) (die : Nat) : Bool :=
  (dieClusters die).any (fun u => (getIsland s u).frames.any (fun f => f.step == st.num))

/-- The boundary is the tail input of COMMON, behind every layer. -/
def tailHeld (s : State) (st : Step) (die : Nat) : Bool :=
  (dieClusters die).any (fun u => (getIsland s u).frames.any (fun f => f.step == st.num) &&
    decide ((slotTables s u st.slot).role = .common))

/-- An island of a layer upstream of the boundary does not run again. A step that holds no boundary at the die runs again from its
head. -/
def upstream (s : State) (st : Step) (die u : Nat) : Bool :=
  boundaryHeld s st die && match (slotTables s u st.slot).role with
    | .layer _ => tailHeld s st die || decide (layerOrder.idxOf (unitDie u) < layerOrder.idxOf die)
    | _ => false

/-- A descriptor in ascending step order. -/
def insertDesc (d : Desc) : List Desc → List Desc
  | [] => [d]
  | e :: l => if d.step < e.step then d :: e :: l else e :: insertDesc d l

/-- The step's input activations stand in the input buffer again, as they first arrived. -/
def refillInbox (i : Island) (step : Nat) : Table Flits :=
  let ins := (i.frames.filter (fun f => f.step == step)).flatMap (·.inputs)
  ins.foldl (fun tb t =>
    let k := boxKey t.consumer t.crossing
    tput {} tb k (joinFlits (tget { total := 0 } tb k) { t.flits with step := t.step }))
    (i.inbox.filter (fun kv => decide (kv.2.step ≠ some step)))

/-- An island takes a replayed step up again: what it held of the abandoned attempt is dropped, and the boundary's input is at
hand. Frames of later boundaries are dropped with it. -/
def replayAt (s : State) (die : Nat) (d : Desc) (u : Nat) : State :=
  let mine := decide ((getIsland s u).desc.map (·.step) = some d.step)
  let s := if mine then landIsland s u else s
  let i := getIsland s u
  let i := if unitDie u = die then i else { i with frames := i.frames.filter (fun f => f.step != d.step) }
  let i := { i with
    desc := if mine then none else i.desc, counts := if mine then [] else i.counts, partials := [], heldPartial := none,
    gate := if mine then none else i.gate, stalled := if mine then none else i.stalled, energyMj := 0,
    merging := if mine then [] else i.merging,
    inbox := refillInbox i d.step, posted := insertDesc d (i.posted.filter (fun e => e.step != d.step)) }
  putIsland s u i

/-- Transfers of a replayed step: those of the abandoned attempt are dropped, and those that fenced clusters refused and whose
producers do not run again leave their die boundary for the cluster that stands in (R64, R439). -/
def replayTransfers (s : State) (st : Step) (die : Nat) : State :=
  let mine (t : Transfer) : Bool := decide (t.step = some st.num)
  let kept (t : Transfer) : Bool := upstream s st die (clusterOf t.producer)
  let again := (s.fabric.refused.filter (fun t => mine t && kept t)).map (fun t =>
    let c := standIn (getSlot s st.slot) (clusterOf t.consumer) + unitTile t.consumer
    { t with consumer := c, path := unitPath s (runSlot s (clusterOf t.producer)) t.producer c })
  { s with fabric := { s.fabric with
      inFlight := s.fabric.inFlight.filter (fun t => !(mine t) || kept t) ++ again.filter (fun t => !(getIsland s (clusterOf t.consumer)).fenced),
      refused := s.fabric.refused.filter (fun t => !(mine t)) ++ again.filter (fun t => (getIsland s (clusterOf t.consumer)).fenced) } }

/-- The prefixes that a discarded step carried are to be prefilled by a later one; the discarded rows are not charged (R231). -/
def dropPfxRows (s : State) (step : Nat) : State :=
  let xs := (s.serving.prefixes.filter (fun kv => decide (kv.2.step = some step))).map (·.1)
  let s := xs.foldl (fun s x => discardRows s (.pfx x)) s
  { s with serving := { s.serving with
      prefixes := tmap {} (fun _ v => if v.step = some step then { v with step := none } else v) s.serving.prefixes } }

/-- STEP_REPLAY (R439): a cause of forfeit FAULT for every Timed turn, unless the fault is confined to sessions' pages (R254). A faulty step runs again from a die boundary that it holds, or from its head; the fourth replay ends its
rows with FAULT. -/
def execStepReplay (t step die : Nat) (s : State) : Out :=
  let s := advance s t
  .next (match findStep s step with
    | none => s
    | some st =>
      if st.faulty then
        let s := report s { code := 0x0604, cls := 3, step := some step, address := die, aux := st.attempts }
        let s := if st.confined then s else forfeitAll s 6
        let s := { s with serving := { s.serving with counting := s.serving.counting.filter (fun x => x.1 != step) } }
        if 4 ≤ st.attempts then
          let s := (rowSessions st).foldl (fun s id =>
            if ((getSession s id).turn.bind (·.step)) = some step then endTurn s id 0x0E else s) s
          leaveFlight (dropFrames (dropPfxRows s step) (stepPath s st) step) st
        else
          let s := modStep s step (fun st => { st with
            attempts := st.attempts + 1, faulty := false, confined := false, selected := [], energyMj := 0, ended := st.ended.filter (upstream s st die) })
          let d := buildDesc (stepRoot s st) st
          let us := (stepPath s st).filter (fun u => !(upstream s st die u && st.ended.contains u))
          us.foldl (fun s u => replayAt s die (shareDesc st (unitDie u) d) u) (replayTransfers s st die)
      else s)

/-- RESIDENCY_REVISE (R166, R167): a decision window ends; counts become the window's, and each layer may make up to 4
exchanges. -/
def execResidencyRevise (t : Nat) (s : State) : Out :=
  let s := advance s t
  .next ([0, 1].foldl (fun s n =>
    let v := getSlot s n
    if slotLive v then
      let next := fun (r : LayerRes) => { r with
        window := sat 32 (r.window + 1), left := if v.streaming then 0 else 4,
        experts := r.experts.map (fun e => { e with count := sat 32 e.current, current := 0 }) }
      let s := putSlot s n { v with layers := v.layers.map next }
      (v.layers.map (·.layer)).foldl (fun s l => exchanges n l 5 s) s
    else s) s)

/-- SEAT_RELEASE (R167): the last step with an older map has left the layer; a further exchange may follow. -/
def execSeatRelease (t layer : Nat) (s : State) : Out :=
  let s := advance s t
  .next ([0, 1].foldl (fun s n =>
    if slotLive (getSlot s n) && (getSlot s n).layers.any (fun r => r.layer == layer && !r.releasing.isEmpty) then exchanges n layer 5 s
    else s) s)

/-- The version of a tenant that wants a line: one that an admitted turn carries, else the current one. -/
def wantedVersion (s : State) (tenant : Nat) : Option AdapterVer :=
  let t := getTenant s tenant
  let waiting := (liveTurns s).filter (fun x => x.2.1.tenant == tenant)
  let cached (w : AdapterVer) : Bool := s.images.lines.any (fun kv => kv.2.tenant == tenant && kv.2.version == w.index)
  let need (w : AdapterVer) : Bool := waiting.any (fun x => w.epochs.contains x.2.2.adapterEpoch) && !(cached w)
  match t.versions.find? (fun w => w.present && !w.loading && need w) with
  | some w => some w
  | none => t.versions.find? (fun w => w.present && decide (t.current = some w.index) && !(cached w))

/-- A line that may be evicted: not pinned, not named by a step in flight, and not held for a turn that waits (R171). -/
def evictable (s : State) (l : Nat) : Bool :=
  let v := tget ({} : Line) s.images.lines l
  let t := getTenant s v.tenant
  let named (e : Nat) : Bool := t.versions.any (fun w => w.index == v.version && w.epochs.contains e)
  v.tenant != 0 && !t.pinned && !(s.serving.steps.any (fun st => st.rows.any (fun r => r.line == l))) &&
    !((liveTurns s).any (fun x => x.2.1.tenant == v.tenant && named x.2.2.adapterEpoch))

/-- A descriptor of R92 that brings units of a site into a cluster's slices, for a tenant. -/
def lineDesc (tenant site unit n cluster addr : Nat) : BitVec 256 :=
  BitVec.ofNat 256 (n * 64 * 2 ^ 224 + addr * 2 ^ 192 + unit * 2 ^ 160 + cluster * 2 ^ 144 + siteUnit site * 2 ^ 128 +
    tenant * 2 ^ 112 + 2 ^ 106 + 2 * 2 ^ 104)

/-- The part of some runs from a place on, `n` units long, as runs. -/
def cutRuns : List (Nat × Nat) → Nat → Nat → List (Nat × Nat)
  | [], _, _ => []
  | e :: es, skip, n =>
    if n = 0 then []
    else if e.2 ≤ skip then cutRuns es (skip - e.2) n
    else
      let k := min (e.2 - skip) n
      (e.1 + skip, k) :: cutRuns es 0 (n - k)

/-- Units of a version's layers before one, and those of that layer. -/
def layerRun (w : AdapterVer) (l : Nat) : Nat × Nat :=
  let before := (w.layers.takeWhile (fun x => x.1 != l)).map (·.2)
  (before.sum, ((w.layers.find? (fun x => x.1 == l)).map (·.2)).getD 0)

/-- The scribe posts the loads of a line: in every layer's router cluster, the units of the version that belong to the layer. -/
def postLine (s : State) (l tenant : Nat) (w : AdapterVer) : State :=
  match (activeSlot s).bind (fun n => (getSlot s n).body) with
  | none => s
  | some b =>
    ((b.layers.map (·.layer)).zip (routerClusters s)).foldl (fun s x =>
      let r := layerRun w x.1
      let i := getIsland s x.2
      let runs := cutRuns w.extents r.1 r.2
      let at_ := runs.zipIdx.map (fun y => (y.1, ((runs.take y.2).map (·.2)).sum * 64))
      putIsland s x.2 { i with scribeDma := i.scribeDma ++ at_.map (fun y =>
        lineDesc tenant w.site y.1.1 y.1.2 x.2 (l * lineBytes + y.2)) }) s

/-- ADAPTER_LINE_LOAD (R170, R171): a version takes a free line, and the scribe's queues bring its bytes into the router clusters; with
none free, the line unused for longest is evicted and cleared first. At most two lines load at once. -/
def execAdapterLineLoad (t tenant : Nat) (s : State) : Out :=
  let s := advance s t
  .next (match wantedVersion s tenant with
    | none => s
    | some w =>
      if siteServes s w.site = false ∨ 2 ≤ ((List.range 40).filter (lineLoading s)).length then s
      else
        let free := (List.range 40).filter (fun l => decide (tget ({} : Line) s.images.lines l = {}) &&
          !(s.serving.clears.contains (.adapterLine l)) && !(lineRetired s l))
        match free with
        | l :: _ =>
          let s := { s with images := { s.images with lines := tput {} s.images.lines l {
            tenant := tenant, version := w.index, lastUse := stamp s } } }
          postLine (setLineOwner (dropLineLoads s l) l tenant) l tenant w
        | [] =>
          let cands := (List.range 40).filter (fun l => evictable s l && !(lineLoading s l))
          match cands.foldl (fun (m : Option Nat) l => match m with
              | none => some l
              | some k => if (tget ({} : Line) s.images.lines l).lastUse < (tget ({} : Line) s.images.lines k).lastUse then some l
                else some k) none with
          | none => s
          | some l => queueClear { s with images := { s.images with lines := tput {} s.images.lines l {} } } (.adapterLine l))

/-- ADMISSION_ROUND (R232, R387): not while admissions are shed. -/
def execAdmissionRound (t : Nat) (s : State) : Out :=
  let s := advance s t
  .next (if s.board.modReady && decide (s.board.phase = .serving) && !(shedding s) then
      let work := (s.serving.tenants.map (fun kv => kv.2.queue.length)).sum
      round (8200 * (work + 1)) (testLevels s)
    else s)

/-- Pages that are being freed already. -/
def clearingPages (s : State) : Nat :=
  (s.vellum.pages.filter (fun kv => decide (kv.2.state = .clearing) || decide (kv.2.state = .outbound))).length

/-- AUTO_PARK (R237, R249): below PARK_LOW, IDLE sessions are parked until PARK_HIGH, and where the free pages do not cover what accepted
turns have reserved, until they do; above both, sessions that were skipped may be tried again. -/
def execAutoPark (t : Nat) (s : State) : Out :=
  let s := advance s t
  .next (if s.board.modReady = false then s
    else if freePages s < parkGoal s then parkOldest (parkGoal s) (parkOrder s) (freePages s + clearingPages s) s
    else mapSessions s (fun _ v => { v with parkSkip := false }))

/-- Park slots leave use. -/
def releaseSlots (s : State) (partition : Nat) (l : List Nat) : State :=
  let p := getPartition s partition
  putPartition s partition { p with parkUsed := p.parkUsed.filter (fun k => !(l.contains k)) }

/-- The session is PARKED: SESSION_PARK completes; an automatic park posts SESSION_PARKED. -/
def finishPark (s : State) (id : Nat) : State :=
  let v := getSession s id
  let s := putSession s id { v with state := .parked, lastUse := stamp s, outbound := [] }
  if (findStarted s 0x0306 id).isSome then completeStarted s 0x0306 id stSuccess v.parked.length
  else postEvent s (v.partition + 1) 0x0101 (id + 2 ^ 32 * v.parked.length)

/-- The units of a page that its park reads (R146). -/
def countPark (s : State) (p : Nat) : State := countReads s (pageSite p) ((getPage s p).committed * positionUnits)

/-- The page whose park is awaited is not confirmed: the park stops, and is undone (R237). -/
def parkUnconfirmed (s : State) (session : Nat) : State :=
  let v := getSession s session
  match v.pages, v.outbound with
  | (_, p) :: _, slot :: _ =>
    if (getPage s p).state ≠ .outbound then s
    else
      let s := countPark (putPage s p { getPage s p with state := .live }) p
      let s := releaseSlots s v.partition v.outbound
      let s := report s {
        code := 0x0603, cls := 3, session := some session, tenant := v.tenant, partition := some v.partition,
        address := slot, aux := 4 }
      let s := if engaged v then forfeitOne s session 5 else s
      let auto_ := (findStarted s 0x0306 session).isNone
      let s := modSession s session (fun v => { v with outbound := [], parkSkip := v.parkSkip || auto_ })
      if v.parked.isEmpty then
        completeStarted (modSession s session (fun v => { v with state := if engaged v then .turn else .idle })) 0x0306 session
          0x030B 0
      else modSession s session (fun v => { v with state := .unparking })
  | _, _ => s

/-- CRC-64/XZ: the reflected polynomial of ECMA-182, one byte (PRESUMED: the published parameters of the name, log entry 4). -/
def crcByte (c : BitVec 64) (b : Byte) : BitVec 64 :=
  (List.range 8).foldl (fun c _ => if c.getLsbD 0 then (c >>> 1) ^^^ 0xC96C5795D7870F42#64 else c >>> 1) (c ^^^ b.setWidth 64)

/-- It starts from ones and ends inverted. -/
def crc64 (l : List Byte) : BitVec 64 := ~~~ (l.foldl crcByte (BitVec.allOnes 64))

/-- The 2 MiB that a park writes of a page: its committed positions, zeros above (R237). -/
def parkImage (committed : Nat) (data : Memory) : List Byte :=
  (List.range 2097152).map (fun k => if k < committed * positionBytes then mget data k else 0)

/-- The park header (R238). -/
def parkHeader (s : State) (id p logical ver : Nat) (check : BitVec 128) (iv : Nat) : BitVec 512 :=
  let v := getSession s id
  let g := getPage s p
  BitVec.ofNat 512 (packFields [(32, 0x4B504847), (64, ver), (18, id), (16, v.tenant), (14, logical), (8, g.committed), (4, v.partition),
    (1, bit v.isSealed), (1, g.slot), (2, 0), (32, v.epoch), (128, check.toNat), (96, iv), (96, 0)])

/-- What the host's park slot is given of a page: its committed positions and its header. CHECK is the CRC of the page, or the tag of a
Sealed page under the partition's park key with the header as additional data, whose IV is PARK_VERSION (R108, R238, R369). -/
def parkedPage (s : State) (id p logical slot ver : Nat) : ParkedPage :=
  let v := getSession s id
  let n := (getPage s p).committed
  let data := mcut s.vellum.mem (pageBase p) (n * positionBytes)
  let check : BitVec 128 :=
    if v.isSealed then
      let aad := leBytes 64 (parkHeader s id p logical ver 0 0).toNat
      let tag := (List.range 16).map (fun k =>
        Config.gcmByte (getPartition s v.partition).parkKey (leBytes 12 ver) aad (parkImage n data) (2097152 + k))
      BitVec.ofNat 128 (leNat tag)
    else (crc64 (parkImage n data)).setWidth 128
  { logical := logical, slot := slot, version := ver, check := check, committed := n, data := data,
    header := parkHeader s id p logical ver check (if v.isSealed then ver else 0) }

/-- A parked page's positions come back into a page of the pool. -/
def restorePage (s : State) (p : Nat) (e : ParkedPage) : State :=
  let s := { s with vellum := { s.vellum with mem := mpaste s.vellum.mem (pageBase p) (e.committed * positionBytes) e.data } }
  commitPage (wroteUnits s (pageSite p) (p / 32 * granuleUnits) (e.committed * positionUnits) false) p e.committed

/-- PARK_PAGE_CONFIRM (R237, R238): the page's header reads back, or the park is undone. A park that an admitted turn cut short comes back
after the page in OUTBOUND, whether that turn still runs or not (R256). -/
def execParkPageConfirm (t session : Nat) (ok : Bool) (s : State) : Out :=
  let s := advance s t
  let v := getSession s session
  .next (match v.pages, v.outbound with
    | (logical, p) :: rest, slot :: more =>
      if (getPage s p).state ≠ .outbound then s
      else if ok then
        let ver := s.serving.parkVersion + 1
        let entry := parkedPage s session p logical slot ver
        let s := freePage (countPark { s with serving := { s.serving with parkVersion := ver } } p) p
        let s := putSession s session { v with pages := rest, outbound := more, parked := v.parked ++ [entry] }
        if engaged v = true ∨ (more.isEmpty ∧ rest.isEmpty = false) then
          let s := releaseSlots s v.partition more
          modSession s session (fun v => { v with state := .unparking, outbound := [] })
        else match rest, more with
          | (_, q) :: _, _ :: _ => putPage s q { getPage s q with state := .outbound }
          | _, _ => finishPark s session
      else parkUnconfirmed s session
    | _, _ => s)

/-- The session's last page is back. -/
def finishUnpark (s : State) (id : Nat) : State :=
  let v := getSession s id
  let s := putSession s id { v with state := if engaged v then .turn else .idle }
  completeStarted (completeStarted s 0x0306 id 0x030B 0) 0x0307 id stSuccess v.pages.length

/-- UNPARK_PAGE_CHECK (R238, R239): a page becomes LIVE once it passes; a refused page ends the session. -/
def execUnparkPageCheck (t session : Nat) (result : PageCheck) (s : State) : Out :=
  let s := advance s t
  let v := getSession s session
  .next (match v.state, v.parked with
    | .unparking, e :: rest =>
      if result = .ok then
        let before := v.pages.length
        let s := giveSessionPage s session e.logical
        let v := getSession s session
        if v.pages.length = before then s
        else
          let s := match v.pages.getLast? with
            | some q => restorePage s q.2 e
            | none => s
          let s := releaseSlots s v.partition [e.slot]
          let s := modSession s session (fun v => { v with parked := rest })
          if rest.isEmpty then finishUnpark s session else s
      else
        let aux := match result with | .header => 1 | .version => 2 | _ => 3
        let s := report s {
          code := 0x0603, cls := 3, session := some session, tenant := v.tenant, partition := some v.partition,
          address := e.slot, aux := aux }
        let s := if engaged v then forfeitOne s session 5 else s
        let s := completeStarted (completeStarted s 0x0306 session 0x030B 0) 0x0307 session 0x030A 0
        endSession s session 0x0D
    | _, _ => s)

/-- DRAIN_TIMEOUT (R215, R217): the partition's sessions on the old image, and on older adapter epochs, follow
MIGRATE_AT_TURN from their next turn. -/
def execDrainTimeout (t partition : Nat) (s : State) : Out :=
  let s := advance s t
  let due (d : Option Nat) : Bool := match d with | some x => decide (x ≤ s.now) | none => false
  let ids := (s.serving.tenants.filter (fun kv => kv.2.partition == partition && due kv.2.adapterDrain)).map (·.1)
  let s := ids.foldl (fun s t => putTenant s t { getTenant s t with adapterDrain := none }) s
  let p := getPartition s partition
  .next (match p.drainUntil with
    | some d => if d ≤ s.now then putPartition s partition { p with drainUntil := none } else s
    | none => s)

end Sys2Proof.Machine
end

