-- ==== Sys2Proof/Machine/StrokeCode.lean ====
section
/-! DEFINITION. The 128-bit strokes (R73, R74): their decoding, and what the Folio loader refuses in a stroke list (R75,
R80, R211). -/

namespace Sys2Proof.Machine

/-! ## Fields (R73) -/

def strokeEngine (w : BitVec 128) : Nat := (w.extractLsb' 124 4).toNat
def strokeCode (w : BitVec 128) : Nat := (w.extractLsb' 116 8).toNat
def strokeDelta (w : BitVec 128) : Nat := (w.extractLsb' 96 12).toNat
def strokeA (w : BitVec 128) : BitVec 32 := w.extractLsb' 64 32
def strokeB (w : BitVec 128) : BitVec 32 := w.extractLsb' 32 32
def strokeC (w : BitVec 128) : BitVec 32 := w.extractLsb' 0 32

/-- The header of a stroke in a tile's list. -/
def strokeHdr (tile : Nat) (w : BitVec 128) : StrokeHdr :=
  { tile := tile, pred := (w.extractLsb' 112 4).toNat, predNeg := w.getLsbD 111, delta := strokeDelta w }

/-- The operation of a stroke (R74), `none` for a reserved pair of ENGINE and OP. Where R74 names an operand without
giving its bits, the sequencer's decoding is a constant of Config (log entry 9). LOAD and STORE name their destination in
OPA and their source in OPB, as the other rows do. -/
def decodeStroke (tile : Nat) (w : BitVec 128) : Option StrokeOp :=
  let a := (strokeA w).toNat
  let b := (strokeB w).toNat
  let c := (strokeC w).toNat
  let unit := ((strokeC w).extractLsb' 16 16).toNat
  let rows := ((strokeC w).extractLsb' 0 16).toNat
  match strokeEngine w, strokeCode w with
  | 0, 0 => some .nop
  | 0, 1 => some (.loopBegin a b ((strokeC w).getLsbD 0))
  | 0, 2 => some (.loopEnd a)
  | 0, 3 => some .stepBegin
  | 0, 4 => some (.stepEnd 0)
  | 0, 5 => some (.predLoad a (Config.predSrc (strokeB w)) [])
  | 1, 0 => some (.mac a (Config.weightSrc (strokeB w)) c [])
  | 1, 1 => some (.drain a c (Config.strokeScale tile w))
  | 2, 0 => some (.valu a (Config.vectorSrcs (strokeB w)) (Config.valuFn (strokeC w)))
  | 2, 1 => some (.vxcend a b (Config.xcendFn (strokeC w)))
  | 2, 2 => some (.narrow a b (strokeC w))
  | 2, 3 => some (.widen a b (Config.widenScale (strokeC w)) (Config.widenFmt (strokeC w)) [])
  | 3, 0 => some (.load a b [])
  | 3, 1 => some (.store b a)
  | 3, 2 => some (.sliceRead a b unit rows (Config.sliceCrossing w) (Config.sliceMerge w) [])
  | 3, 3 => some (.sliceWrite a b unit rows (Config.sliceCrossing w) false [])
  | 4, 0 => some (.send a (Config.sendUnit (strokeB w)) (Config.sendAddr (strokeB w)) c (Config.sliceCrossing w) false [])
  | 4, 1 => some (.recv a c)
  | 4, 2 => some (.ligSend a (Config.sendUnit (strokeB w)) (Config.sendAddr (strokeB w)) c (Config.ligRows w) [])
  | 4, 3 => some (.ligRecv a c (Config.strokeScale tile w))
  | 5, 0 => some (.dmaPost a)
  | 5, 1 => some (.dmaWait a c)
  | _, _ => none

/-! ## What the loader checks (R75, R80) -/

/-- No reserved field or code: the pair is listed, the reserved bits are zero, and its numbers and units name something (R4). -/
def strokeLegal (tile : Nat) (reference : Bool) (w : BitVec 128) : Bool :=
  decide ((w.extractLsb' 108 3).toNat = 0) &&
    (match decodeStroke tile w with
      | none => false
      | some (.loopBegin ctr _ _) => decide (ctr < 4)
      | some (.loopEnd ctr) => decide (ctr < 4)
      | some (.predLoad p _ _) => decide (1 ≤ p) && decide (p ≤ 15)
      | some (.mac _ _ acc _) => decide (acc < if reference then 32 else 64)
      | some (.drain _ acc _) => decide (acc < if reference then 32 else 64)
      | some (.sliceRead _ _ u ..) => isCluster u
      | some (.sliceWrite _ _ u ..) => isCluster u
      | some (.send _ u ..) => isTile u || isCluster u
      | some (.ligSend _ u ..) => isTile u || isCluster u
      | some (.narrow _ _ opc) => (fmtOf (opc.extractLsb' 19 3).toNat).isSome
      | some (.dmaPost i) => decide (i < 64)
      | some (.dmaWait ctr _) => decide (ctr < 16)
      | some _ => true)

/-- Issue cycles of a list, from its start. -/
def issueCycles : Nat → List (BitVec 128) → List (Nat × BitVec 128)
  | _, [] => []
  | c, w :: l => (c + strokeDelta w, w) :: issueCycles (c + strokeDelta w) l

/-- No two strokes for one engine in one cycle; `seen` holds the engines of the current cycle. -/
def enginesFree : List Nat → List (BitVec 128) → Bool
  | _, [] => true
  | seen, w :: l =>
    let e := strokeEngine w
    if strokeDelta w = 0 then !(seen.contains e) && enginesFree (e :: seen) l else enginesFree [e] l

/-- LOOP nesting: at most 4 deep, and closed. -/
def loopsClosed (tile : Nat) : Nat → List (BitVec 128) → Bool
  | d, [] => decide (d = 0)
  | d, w :: l =>
    match decodeStroke tile w with
    | some (.loopBegin ..) => decide (d < 4) && loopsClosed tile (d + 1) l
    | some (.loopEnd _) => decide (0 < d) && loopsClosed tile (d - 1) l
    | _ => loopsClosed tile d l

/-- The strokes of a loop's body, its LOOP_END with them, and the strokes after it; `d` loops are open inside. -/
def loopBody (tile : Nat) : Nat → List (BitVec 128) → List (BitVec 128) × List (BitVec 128)
  | _, [] => ([], [])
  | d, w :: l =>
    match decodeStroke tile w with
    | some (.loopBegin ..) => (w :: (loopBody tile (d + 1) l).1, (loopBody tile (d + 1) l).2)
    | some (.loopEnd _) => if d = 0 then ([w], l) else (w :: (loopBody tile (d - 1) l).1, (loopBody tile (d - 1) l).2)
    | _ => (w :: (loopBody tile d l).1, (loopBody tile d l).2)

/-- The strokes in the order in which they issue: a loop's body as often as its count says, and `free` times where the count comes
from the step descriptor. -/
def unrolled (tile free : Nat) : Nat → List (BitVec 128) → List (BitVec 128)
  | 0, _ => []
  | _, [] => []
  | n + 1, w :: l =>
    match decodeStroke tile w with
    | some (.loopBegin _ c fromDesc) =>
      let b := loopBody tile 0 l
      let body := unrolled tile free n b.1
      w :: (List.replicate (if fromDesc then free else max 1 c) body).flatten ++ unrolled tile free n b.2
    | _ => w :: unrolled tile free n l

/-- DMA posts that no DMA_WAIT has taken, by done counter. `flag` gives the counter of a descriptor's index. -/
def dmaOpen (tile : Nat) (flag : Nat → Nat) : Table Nat → List (BitVec 128) → Bool
  | t, [] => t.all (fun kv => kv.2 == 0)
  | t, w :: l =>
    match decodeStroke tile w with
    | some (.dmaPost i) =>
      decide ((t.map (·.2)).sum < 8) && dmaOpen tile flag (tput 0 t (flag i) (tget 0 t (flag i) + 1)) l
    | some (.dmaWait c n) => dmaOpen tile flag (tput 0 t c (tget 0 t c - n)) l
    | some (.stepEnd _) => t.all (fun kv => kv.2 == 0) && dmaOpen tile flag t l
    | _ => dmaOpen tile flag t l

/-- The done counter that a descriptor of the tile's table names (R92). -/
def listFlag (t : TileList) (i : Nat) : Nat :=
  match t.dma.find? (fun x => x.1 == i) with
  | some x => (x.2.extractLsb' 108 4).toNat
  | none => 0

/-- Every DMA_POST is matched by a DMA_WAIT on its counter within the step, and at most 8 descriptors are outstanding; for loops
whose count the descriptor gives, at one turn and at two, so that a turn leaves nothing open (R80, log entry 12). -/
def dmaMatched (t : TileList) : Bool :=
  [1, 2].all (fun free => dmaOpen t.tile (listFlag t) [] (unrolled t.tile free (t.strokes.length + 1) t.strokes))

/-- Rows from an address on, one a cycle, as bank accesses: a scratchpad bank of a tile, or a bank of a slice of its cluster (R79). -/
def spRows (tile c a n : Nat) : List (Nat × Nat) := (List.range n).map (fun j => (c + j, tile * 1024 + scratchBank tile (a + 64 * j)))
def sliceRows (tile c a n : Nat) : List (Nat × Nat) :=
  (List.range n).map (fun j =>
    let x := (a + 64 * j) % sliceBytes (clusterOf tile)
    (c + j, clusterOf tile * 1024 + 512 + x / 2097152 * 4 + sliceBank x))

/-- Rows of a tensor's blocks k to k + n − 1, with those of their scales and metadata (R104). -/
def tensorRows (tile c : Nat) (es : List TensorEntry) (inSlice : Bool) (addr n : Nat) : List (Nat × Nat) :=
  let rows := if inSlice then sliceRows tile c else spRows tile c
  match es.find? (fun e => e.inSlice == inSlice && decide (e.elemBase ≤ addr) &&
      decide (addr < e.elemBase + (e.blocks + blocksPerRow e.fmt - 1) / blocksPerRow e.fmt * 64)) with
  | none => rows addr 1
  | some e =>
    let k := blockIndex e.fmt e.elemBase addr
    let last := k + max 1 n - 1
    let plane (base size : Nat) : List (Nat × Nat) :=
      rows ((base + size * k) / 64 * 64) ((base + size * last) / 64 - (base + size * k) / 64 + 1)
    rows (blockAddr e.fmt e.elemBase k / 64 * 64) (blockAddr e.fmt e.elemBase last / 64 - blockAddr e.fmt e.elemBase k / 64 + 1) ++
      (if e.fmt = .bf16 then [] else plane e.scaleBase 1) ++ (if e.sparsity = .dense then [] else plane e.metaBase 4)

/-- The largest of some row counts, at least one. -/
def mostRows (l : List Nat) : Nat := l.foldl max 1

/-- Rows that come to a tile on a crossing: those of the SEND, or of its own remote SLICE_READ, that names it (R74). -/
def crossingRows (l : List TileList) (tile crossing : Nat) : Nat :=
  mostRows (l.flatMap (fun x => x.strokes.filterMap (fun w => match decodeStroke x.tile w with
    | some (.send _ u _ n c ..) => if c = crossing ∧ (u = tile ∨ u = clusterOf tile) then some n else none
    | some (.sliceRead _ _ u n c ..) => if c = crossing ∧ x.tile = tile ∧ u ≠ clusterOf tile then some n else none
    | _ => none)))

/-- Rows that a ligature's result takes at its destination: those of the LIG_SEND strokes with its tag. -/
def tagRows (l : List TileList) (tag : Nat) : Nat :=
  mostRows (l.flatMap (fun x => x.strokes.filterMap (fun w => match decodeStroke x.tile w with
    | some (.ligSend _ _ _ g n _) => if g = tag then some n else none
    | _ => none)))

/-- The sparsity of the weights that the lanes hold after a stroke, which decides how many activation blocks MAC reads (R118). -/
def latchedBy (es : List TensorEntry) (sp : Sparsity) (tile : Nat) (w : BitVec 128) : Sparsity :=
  let at_ (inSlice : Bool) (a : Nat) : Sparsity :=
    match es.find? (fun e => e.inSlice == inSlice && decide (e.elemBase ≤ a) &&
      decide (a < e.elemBase + (e.blocks + blocksPerRow e.fmt - 1) / blocksPerRow e.fmt * 64)) with
    | some e => e.sparsity
    | none => sp
  match decodeStroke tile w with
  | some (.mac _ (.scratch k) ..) => at_ false k
  | some (.mac _ (.slice k) ..) => at_ true k
  | _ => sp

/-- Rows that a stroke which issues in a cycle accesses; `l` are the lists of its placement's form and mode, and `sp` is the sparsity of
the weights that a MAC finds latched. -/
def strokeBanks (l : List TileList) (tile : Nat) (reference : Bool) (es : List TensorEntry) (sp : Sparsity) (c : Nat)
    (w : BitVec 128) : List (Nat × Nat) :=
  let own (u : Nat) : Bool := decide (u = clusterOf tile)
  match decodeStroke tile w with
  | some (.mac a (.scratch k) ..) => tensorRows tile c es false a (spanOf sp) ++ tensorRows tile c es false k (lanesOf tile)
  | some (.mac a (.slice k) ..) => tensorRows tile c es false a (spanOf sp) ++ tensorRows tile c es true k (lanesOf tile)
  | some (.mac a .latched ..) => tensorRows tile c es false a (spanOf sp)
  | some (.drain d _ t) => spRows tile c d (if reference && t.isNone then lanesOf tile / 4 else lanesOf tile / 16)
  | some (.narrow d _ opc) => spRows tile c d 1 ++ spRows tile c ((opc.extractLsb' 0 18).toNat * 4) 1
  | some (.widen _ x sc ..) => spRows tile c x 1 ++ spRows tile c sc 1
  | some (.predLoad _ (.scratchBit a _) _) => spRows tile c a 1
  | some (.load _ a _) => spRows tile c a (vectorLanes tile / 16)
  | some (.store _ a) => spRows tile c a (vectorLanes tile / 16)
  | some (.sliceRead d a u n ..) => if own u then spRows tile c d n ++ sliceRows tile c a n else []
  | some (.sliceWrite x a u n ..) => spRows tile c x n ++ (if own u then sliceRows tile c a n else [])
  | some (.send x _ _ n ..) => spRows tile c x n
  | some (.recv d x) => spRows tile c d (crossingRows l tile x)
  | some (.ligSend x _ _ _ n _) => spRows tile c x n
  | some (.ligRecv d g t) =>
    spRows tile c d (if reference && t.isSome then (tagRows l g + 3) / 4 else tagRows l g)
  | _ => []

/-- The accesses of some strokes with their issue cycles, from a latched sparsity on. -/
def walkBanks (l : List TileList) (t : TileList) (es : List TensorEntry) : Sparsity → List (Nat × BitVec 128) → List (Nat × Nat)
  | _, [] => []
  | sp, x :: xs =>
    let sp' := latchedBy es sp t.tile x.2
    strokeBanks l t.tile t.reference es sp' x.1 x.2 ++ walkBanks l t es sp' xs

/-- Bank accesses of a tile's list, cycle by cycle from STEP_BEGIN on, with `free` turns of a loop that the descriptor counts. -/
def listBanks (l : List TileList) (es : List TensorEntry) (free : Nat) (t : TileList) : List (Nat × Nat) :=
  walkBanks l t es .dense (issueCycles 0 (unrolled t.tile free (t.strokes.length + 1) t.strokes))

/-- No bank is accessed in more than 3 consecutive cycles, by all the tiles of a cluster together. -/
def banksYield (acc : List (Nat × Nat)) : Bool :=
  acc.all (fun x => !(acc.contains (x.1 + 1, x.2) && acc.contains (x.1 + 2, x.2) && acc.contains (x.1 + 3, x.2)))

/-- A stroke list that the loader accepts by itself. -/
def listLegal (t : TileList) : Bool :=
  isTile t.tile && t.strokes.all (strokeLegal t.tile t.reference) && enginesFree [] t.strokes && loopsClosed t.tile 0 t.strokes &&
    dmaMatched t && t.dma.all (fun x => decide (x.1 < 64))

/-- The lists of each cluster, form and mode keep the bank rule of R80; for loops whose count the descriptor gives, at one turn, two
and four (log entry 12). -/
def listsYield (tensors : Nat → List TensorEntry) (l : List TileList) : Bool :=
  l.all (fun t =>
    let u := clusterOf t.tile
    let mine := l.filter (fun x => x.streaming == t.streaming && x.reference == t.reference)
    [1, 2, 4].all (fun free =>
      banksYield ((mine.filter (fun x => clusterOf x.tile == u)).flatMap (listBanks mine (tensors u) free))))

/-- Per tile and form, the lists of a Folio fit one half of the stroke memory (R211). -/
def listsFit (l : List TileList) : Bool :=
  l.all (fun t =>
    decide (((l.filter (fun u => u.tile == t.tile && u.streaming == t.streaming)).map (fun u => u.strokes.length)).sum ≤
      strokesOf t.tile / 2))

/-- The allowed pairings of MAC (R107). -/
def pairingOk (p : Fmt × Sparsity × Fmt × Bool) : Bool :=
  let narrow (f : Fmt) : Bool := f == .n4 || f == .n3 || f == .t2
  let fp8 (f : Fmt) : Bool := f == .e4m3 || f == .e5m2
  match p with
  | (w, sp, a, reference) =>
    (decide (sp = .dense) || decide (w = .n4)) &&
      (if narrow w then (a == .n4 || fp8 a) && (!reference || a == .n4 || a == .e4m3)
       else if fp8 w then fp8 a && (!reference || (w == .e4m3 && a == .e4m3))
       else a == .bf16 && !reference)

end Sys2Proof.Machine
end

