-- ==== Sys2Proof/Machine/ImageOps.lean ====
section
/-! DEFINITION. Shared operations of the image slots (chapter 7): the checks of R200, the filling of a placement (R149,
R210), activation (R207), the end of a load, and the relocation of chunks (R221). -/

namespace Sys2Proof.Machine

/-! ## The checks of a Folio (R200) -/

/-- Chunks that a slot of the layout holds (R197). -/
def slotCapacity (l : Layout) (n : Nat) : Nat := 39 * ((if n = 0 then l.slotA else l.slotB) / 2)

/-- A leaf of the chunk tree: the hash of 0x00, the chunk's number in 8 little-endian bytes, and the chunk's bytes (R194). -/
def leafHash (c : Nat) (data : List Byte) : Digest := Config.sha384 (0#8 :: (leBytes 8 c ++ data))

/-- A parent node of the chunk tree, from its two children (R194). -/
def nodeHash (l r : Digest) : Digest := Config.sha384 (1#8 :: (leBytes 48 l.toNat ++ leBytes 48 r.toNat))

/-- The next level of the tree: pairs in order, and an odd last node carried up. -/
def pairUp : List Digest → List Digest
  | l :: r :: rest => nodeHash l r :: pairUp rest
  | rest => rest

/-- The whole tree above a level, that level first. -/
def treeFrom : Nat → List Digest → List Digest
  | 0, x => x
  | fuel + 1, x => if x.length ≤ 1 then x else x ++ treeFrom fuel (pairUp x)

/-- Nodes of a chunk tree (R194): the sum of its level sizes. -/
def treeSize : Nat → Nat → Nat
  | 0, _ => 0
  | fuel + 1, n => if n ≤ 1 then n else n + treeSize fuel ((n + 1) / 2)

def folioWrapped (f : FolioHead) : Bool := decide (f.flags % 2 = 1)
def folioReference (f : FolioHead) : Bool := decide (f.flags / 2 % 2 = 1)
def folioCompat (f : FolioHead) : Bool := decide (f.flags / 8 % 2 = 1)
def folioCoPlace (f : FolioHead) : Bool := decide (f.flags / 16 % 2 = 1)

/-- Check 9: the tree area has its nodes, every parent recomputes from its children, and the last node is ROOT (R194). -/
def treeOk (f : FolioHead) : Bool :=
  f.tree.length == f.treeNodes && f.treeNodes == treeSize 64 f.chunkCount &&
    decide (f.tree = treeFrom 64 (f.tree.take f.chunkCount)) && decide (f.tree.getLast? = some f.root)

/-- Check 1: the fields of the header, the wrap block in it, and the colophon. -/
def headerOk (f : FolioHead) : Bool :=
  f.magic == 0x4F464847 && f.version == 0x0100 && f.rsvdZero && decide (f.flags < 64) && decide (1 ≤ f.chunkCount) &&
    decide (f.chunkBase % 4194304 = 0) && decide (0x10000 + f.treeNodes * 48 ≤ f.chunkBase) && f.colMagic == 0x4F434847 &&
    f.colRsvdZero && (!(folioWrapped f) || (f.wrapMagic == 0x52574847 && f.wrapVersion == 0x0100 && f.wrapRsvdZero))

/-- The key encryption key of a wrap block, recomputed with the module's wrap keys (R361). -/
def wrapKek (k : KeyStore) (f : FolioHead) : BitVec 256 :=
  hkdf32 (leBytes 8 f.wrapTarget) (Config.wrapEc k.wrapEc f.ecEph ++ Config.wrapKem k.wrapKem f.kemCt) "ghk wrap"

/-- The content key of a DEVICE_WRAPPED Folio, unwrapped under R361. -/
def openKey (s : State) (f : FolioHead) : Option (BitVec 256) :=
  if folioWrapped f then s.trust.keyStore.map (fun k => Config.keyUnwrap (wrapKek k f) f.wrappedKey) else none

/-- Checks 1 to 9, and the source: the reason of the first that fails. `cap` is the capacity of check 2. -/
def headRefusal (s : State) (cap : Nat) (f : FolioHead) : Option Nat :=
  if f.readFailed ∨ f.sourceBytes < 0x6000 then some 0x0E
  else if headerOk f = false then some 0x01
  else if cap < f.chunkCount then some 0x02
  else if s.fw.running < f.minFirmware then some 0x03
  else if f.publisher ≠ f.colPublisher ∨ s.nvm.publishers.any (fun p => p.1 == f.publisher) = false then some 0x04
  else if f.rsaOk = false then some 0x05
  else if f.slhOk = false then some 0x06
  else if folioWrapped f ∧ s.trust.isUnsealed then some 0x0D
  else if folioWrapped f ∧ (f.wrapTarget ≠ s.nvm.serial ∨ f.wrapOk = false) then some 0x0C
  else if f.sourceBytes < 0x10000 + f.treeNodes * 48 then some 0x0E
  else if treeOk f = false then some 0x07
  else none

/-- Two sections that do not overlap. -/
def apart (a b : Section) : Bool := decide (a.offset + a.length ≤ b.offset) || decide (b.offset + b.length ≤ a.offset)

def pairwiseApart : List Section → Bool
  | [] => true
  | a :: l => l.all (apart a) && pairwiseApart l

/-- A section type of R196. -/
def sectionKnown (t : Nat) : Bool := (decide (1 ≤ t) && decide (t ≤ 9)) || (decide (0x8000 ≤ t) && decide (t ≤ 0xFFFF))

/-- Check 11: the section table (R195, R196). -/
def sectionsOk (f : FolioHead) (b : FolioBody) : Bool :=
  let n := b.sections.length
  let times (t : Nat) : Nat := (b.sections.filter (fun x => x.type == t)).length
  let once := [1, 3, 4, 5, 7] ++ (if folioCoPlace f then [] else [2]) ++
    (if b.streamsOnly || b.layers.any (fun l => decide (0 < l.coldSlots)) then [6] else [])
  decide (b.secMagic = 0x45534847) && decide (b.secRsvd = 0) && b.sections.all (fun x => decide (x.rsvd = 0)) && decide (1 ≤ n) && decide (n ≤ 255) && once.all (fun t => times t == 1) &&
    b.sections.all (fun x => sectionKnown x.type && decide (x.flags < 2) && decide (1 ≤ x.length) &&
      decide (16 + 32 * n ≤ x.offset) && decide (x.offset + x.length ≤ f.chunkCount * 4194304)) &&
    pairwiseApart b.sections

/-- Check 12: the stroke lists (R75, R80, R107, R125, R211). -/
def listsOk (b : FolioBody) : Bool :=
  let tensors (u : Nat) : List TensorEntry := ((b.clusters.find? (fun c => c.unit == u)).map (·.tensors)).getD []
  b.lists.all listLegal && listsYield tensors b.lists && listsFit b.lists && b.pairings.all pairingOk && decide (b.contributions ≤ 65536)

/-- EOS tokens of a vocabulary. -/
def eosTokens (l : Lettering) : List Nat := (l.vocab.zipIdx.filter (fun x => x.1.eos)).map (·.2)

/-- A stencil that meets R184 against a vocabulary. -/
def stencilOk (l : Lettering) (st : Stencil) : Bool :=
  decide (1 ≤ st.states.length) && decide (st.states.length ≤ 65536) && (List.range st.states.length).all (fun n => transSorted (stencilAt st n).trans) &&
    stencilSound st (eosTokens l) && stencilCovered st l.vocab.length

/-- Losses that a placement meets on the map as it stands: each dark die, or pair of dies, as one, other clusters one by
one. -/
def lossGroups (s : State) : List (List Nat) :=
  let dark := s.map.darkDies
  let pairs := ((List.range 20).filter (fun c => dark.contains (2 * c) && dark.contains (2 * c + 1))).map (fun c =>
    dieClusters (2 * c) ++ dieClusters (2 * c + 1))
  let single := (dark.filter (fun d => !(dark.contains (d / 2 * 2) && dark.contains (d / 2 * 2 + 1)))).map dieClusters
  let one := ((s.fabric.islands.map (·.1)).filter (fun u => !(clusterGood s u) && !(dark.contains (unitDie u)))).map (fun u => [u])
  pairs ++ single ++ one

/-- The repair variants that a placement needs on the map, or `none` when no combination covers every loss, or an edge
link cannot carry the compiled load (check 14, R48, R435 to R437). -/
def fitVariants (s : State) (b : FolioBody) : Option (List Variant) :=
  let units := (lossGroups s).foldl (fun acc g => acc.bind (fun l => (coverSet s b l g).map (fun m => coverPrefill s b m g))) (some [])
  units.bind (fun l =>
    let over_ := b.linkLoads.filter (fun x => loadExceeds s b (x.1 / 4) (x.1 % 4))
    over_.foldl (fun acc x => acc.bind (fun m =>
      let ends := x.1 / 4 :: (match neighbour (x.1 / 4) (x.1 % 4) with | some o => [o] | none => [])
      if ends.any (fun d => (dieClusters d).all (fun u => (m.flatMap (·.covers)).contains u || !(needsCover (baseRole b u)))) then some m
      else ends.findSome? (fun d => if isComputeDie d then coverSet s b m (dieClusters d) else none))) (some l))

/-- The limits of the LETTERING tables (R261). -/
def letteringOk (l : Lettering) : Bool :=
  let n := l.vocab.length
  let at_ (k : Nat) : VocabEntry := l.vocab.getD k { bytes := [], special := true }
  decide (256 ≤ n) && decide (n ≤ 262144) && decide ((l.vocab.take 256).map (·.bytes) = (List.range 256).map (fun k => [BitVec.ofNat 8 k])) &&
    l.vocab.all (fun e => decide (e.bytes.length ≤ 128) && (!e.special || e.bytes.isEmpty)) && decide ((l.vocab.filter (·.eos)).length = 1) &&
    decide (l.merges.length ≤ n - 256) && decide (l.splitStates ≤ 4096) &&
    l.merges.all (fun m => decide (m.1 < n) && decide (m.2.1 < n) && decide (m.2.2.1 < n) && !(at_ m.1).special && !(at_ m.2.1).special &&
      !(at_ m.2.2.1).special && decide ((at_ m.2.2.1).bytes = (at_ m.1).bytes ++ (at_ m.2.1).bytes))

/-- Checks 11 to 14. -/
def bodyRefusal (s : State) (f : FolioHead) (b : FolioBody) : Option Nat :=
  if sectionsOk f b = false ∨ letteringOk b.lettering = false then some 0x09
  else if listsOk b = false then some 0x0A
  else if b.stencils.all (fun x => decide (x.1 ≤ 1023) && stencilOk b.lettering x.2) = false then some 0x0F
  else if (fitVariants s b).isNone then some 0x0B
  else none

/-! ## The end of a load (R198, R202, R224) -/

/-- RESULT of FOLIO_LOAD (R337). -/
def loadResult (reason : Nat) (v : Slot) : Nat :=
  match v.head with
  | some f => reason + 2 ^ 8 * (v.verified.length % 2 ^ 24) + 2 ^ 32 * f.chunkCount + 2 ^ 64 * (f.root.toNat % 2 ^ 64)
  | none => reason

/-- The frames and regions that a slot's placement typed are WORK again, unless the other slot's types them too (R84). -/
def dropTypes (s : State) (n : Nat) : State :=
  let typed (o : Nat) : List Nat := match (getSlot s o).body with
    | some b => if (getSlot s o).permille = 0 then [] else b.clusters.flatMap typedKeys
    | none => []
  let stay := typed (1 - n)
  let gone := (typed n).filter (fun k => !(stay.contains k))
  { s with fabric := { s.fabric with
      regions := gone.foldl (fun t k => tput {} t k { retired := (tget {} t k).retired }) s.fabric.regions } }

/-- The slot's lists leave every island, and the memory of those islands is to be cleared, but for islands where the other slot is
resident (R94, R212). -/
def dropHalves (s : State) (n : Nat) : State :=
  let mine (i : Island) : Bool := i.half0.map (·.1) == some n || i.half1.map (·.1) == some n
  let others (i : Island) : Bool := i.half0 == some (1 - n, false) || i.half1 == some (1 - n, false)
  let held := (s.fabric.islands.filter (fun kv => mine kv.2 && !(others kv.2))).map (·.1)
  let drop (h : Option (Nat × Bool)) : Option (Nat × Bool) := if h.map (·.1) = some n then none else h
  let s := { s with fabric := { s.fabric with routes := s.fabric.routes.filter (fun kv => kv.1 / 65536 != n) } }
  let s := (s.fabric.islands.map (·.1)).foldl (fun s u =>
    let i := getIsland s u
    putIsland s u { i with half0 := drop i.half0, half1 := drop i.half1, tables := terase i.tables n }) (dropTypes s n)
  held.foldl (fun s u => queueClear s (.scratch u)) s

/-- A slot loses its content: it stands LOADING, with nothing but its REFUSE_REASON, until its granules are cleared
(log entry 13). -/
def clearSlot (s : State) (n reason : Nat) : State :=
  let v := getSlot s n
  let s := if s.images.exported.slot = some n then endExport s else s
  let s := dropHalves s n
  queueClear (putSlot s n { state := .loading, refuse := reason, relocated := v.relocated }) (.slot n)

/-- A load ends early with a reason: its command completes, and the slot is cleared. -/
def endLoad (s : State) (n reason : Nat) : State :=
  let v := getSlot s n
  let st := if reason = 0x0E then 0x0502 else 0x0501
  clearSlot (completeStarted s 0x0501 n st (loadResult reason v)) n reason

/-- A load is under way in the slot. -/
def isLoading (v : Slot) : Bool := decide (v.state = .loading) && v.head.isSome

/-! ## Relocation of chunks (R221) -/

/-- Units of a chunk: two granules. -/
def chunkUnits : Nat := 65536

/-- Where a chunk of a slot is held: a site and its first unit there (R136, R221). -/
def chunkAt (s : State) (n c : Nat) : Nat × Nat :=
  match (getSlot s n).relocated.find? (fun kv => kv.1 == c) with
  | some kv => (kv.2.1, kv.2.2 * granuleUnits)
  | none =>
    let d := chunkSite c
    let start := (regionSpan s d .master).1 + (if n = 0 then 0 else s.vellum.layout.slotA)
    (d, (start + c / 39 * 2) * granuleUnits)

/-- A chunk has been written at its place. -/
def wroteChunk (s : State) (n c : Nat) : State := wroteUnits s (chunkAt s n c).1 (chunkAt s n c).2 chunkUnits false

/-- The reserve granules that a site has for a relocated chunk. -/
def chunkRoom (s : State) (d : Nat) : Option (Nat × Nat) :=
  if siteTakes s d then (reserveRun s d 2).map (fun g => (d, g)) else none

/-- A list begun at its k-th element. -/
def rotate {α : Type} (k : Nat) (l : List α) : List α := l.drop (k % max 1 l.length) ++ l.take (k % max 1 l.length)

/-- The place for the next relocated chunk: round robin over the surviving B-die sites, then over the Q-die sites. -/
def relocationSite (s : State) : Option (Nat × Nat) :=
  let k := (s.images.a.relocated ++ s.images.b.relocated).length
  let live (l : List Nat) : List Nat := l.filter (fun d => !(getSite s d).lost)
  (rotate k (live bSites) ++ rotate k (live qSites)).findSome? (chunkRoom s)

/-- A chunk is stored: on its own site, or relocated when that site is lost. `none` when no site takes it: it is not stored, and comes
again (DESIGN CHOICE: R221 does not say what happens when no reserve has room, log entry 43). -/
def storeChunk (s : State) (n c : Nat) : Option State :=
  let v := getSlot s n
  let site := getSite s (chunkSite c)
  if site.lost ∨ site.emptied ∨ site.untrained then
    (relocationSite s).map (fun d => wroteChunk (putSlot s n { v with relocated := tins v.relocated c d }) n c)
  else some (wroteChunk s n c)

/-! ## Filling a placement (R149, R210) -/

/-- The route tables of a slot's placement, of every die and the S-die, which its steps follow (R46, R208). -/
def setRoutes (s : State) (n : Nat) (b : FolioBody) : State :=
  let key (die dest : Nat) : Nat := n * 65536 + die * 64 + dest
  let kept := s.fabric.routes.filter (fun kv => kv.1 / 65536 != n)
  let own := b.clusters.foldl (fun t p => p.routes.foldl (fun t x => tins t (key (unitDie p.unit) x.1) x.2) t) kept
  { s with fabric := { s.fabric with routes := b.sdieRoutes.foldl (fun t x => tins t (key sDie x.1) x.2) own } }

/-- The SRAM-resident share that lies in an island; it comes over the dynamic channel (R50, R67), and closes the windows of its rows
(R55). -/
def setSram (s : State) (b : FolioBody) (u : Nat) : State :=
  let mine := b.sram.filter (fun x => rowOfIsland u (x.1 / 64))
  let s := modNet s u (fun n => { n with flitsIn := sat 64 (n.flitsIn + ((mine.map (fun x => x.2.length)).sum + 63) / 64) })
  let s := mine.foldl (fun s x => if x.1 < sliceKey u 0 then s else closeRows s u (x.1 - sliceKey u 0) x.2.length) s
  { s with fabric := { s.fabric with sram := mine.foldl (fun m x => mwrite m x.1 x.2) s.fabric.sram } }

/-- The cluster's memory is still to be cleared, or holds the other slot's resident form, whose placement leaves it (R94). -/
def needsClear (s : State) (u n : Nat) : Bool :=
  let i := getIsland s u
  s.serving.clears.contains (.scratch u) || i.half0 == some (1 - n, false) || i.half1 == some (1 - n, false)

/-- A slot's tables at a cluster whose clock the governor starts. -/
def startTables (s : State) (n : Nat) (p : ClusterPlan) : State :=
  let i := getIsland s p.unit
  putIsland s p.unit { i with running := true, tables := tput {} i.tables n (planTables p) }

/-- A cluster's memory and tables take its part of a placement in resident form, once its memory is clear. -/
def takePart (s : State) (n : Nat) (b : FolioBody) (p : ClusterPlan) : State :=
  let s := if needsClear s p.unit n then clearCluster s p.unit else s
  setSram (setRegions (startTables s n p) p) b p.unit

/-- One cluster takes its part of a placement, and its lists in an idle half. -/
def fillCluster (s : State) (n h : Nat) (b : FolioBody) (p : ClusterPlan) : State :=
  if clusterGood s p.unit then placeSet (takePart s n b p) n p.unit p.unit h b false else s

/-- A slot is resident (R199). -/
def nowResident (s : State) (n : Nat) : State :=
  putSlot s n { getSlot s n with permille := 1000, filled := true, streaming := false, reloadDue := false, owed := [] }

/-- Headroom stands in for the clusters that the variants in force cover, once no chunk of the repair lists or of the weights is missing
(R222); until then the variants are owed. -/
def standInAll (s : State) (n : Nat) (b : FolioBody) : State :=
  let v := getSlot s n
  if sectionMissing v [3, 5] then putSlot s n { v with owed := v.inForce }
  else v.inForce.foldl (fun s w => moveTables s n b w) s

/-- Every cluster takes its part, and headroom stands in where a variant is in force: the slot is resident. -/
def fillPlacement (s : State) (n : Nat) : State :=
  match (getSlot s n).body with
  | none => s
  | some b =>
    let s := b.clusters.foldl (fun s p => fillCluster s n (idleHalf (getIsland s p.unit) n) b p) s
    standInAll (nowResident s n) n b

/-- The clusters of a CO_PLACE footprint take their part, and the slot is resident; headroom stays with the other slot (R212). -/
def fillFootprint (s : State) (n : Nat) : State :=
  match (getSlot s n).body with
  | none => s
  | some b =>
    let s := (b.clusters.filter (fun p => decide (p.role ≠ .headroom))).foldl
      (fun s p => fillCluster s n (idleHalf (getIsland s p.unit) n) b p) (setRoutes s n b)
    nowResident s n

/-- Bytes of a Folio's SRAM-resident share that lie in a cluster. -/
def sramAt (b : FolioBody) (u : Nat) : Nat := ((b.sram.filter (fun x => rowOfIsland u (x.1 / 64))).map (fun x => x.2.length)).sum

/-- Thousandths of SRAM_BYTES that some clusters hold; 1,000 only when every part is written (R199). -/
def residentShare (f : FolioHead) (b : FolioBody) (us : List Nat) : Nat :=
  min 999 ((us.map (sramAt b)).sum * 1000 / max 1 f.sramBytes)

/-- Clusters that a placement uses (R212). -/
def footprint (b : FolioBody) : List Nat := (b.clusters.filter (fun c => decide (c.role ≠ .headroom))).map (·.unit)

/-- SRAM of the module (R69, R78). -/
def moduleSram : Nat := (32 * 48 * 36 + 7 * 48 * 16) * 1048576

/-- A READY CO_PLACE Folio can be resident beside the ACTIVE slot's, which is resident itself and leaves the other halves (R212). -/
def coResident (s : State) (n : Nat) : Bool :=
  let v := getSlot s n
  let o := getSlot s (1 - n)
  match v.head, v.body, o.head, o.body with
  | some f, some b, some g, some c =>
    folioCoPlace f && decide (v.state = .ready) && decide (o.state = .active) && decide (o.permille = 1000) &&
      s.images.switching.isNone && !(sectionMissing v [1, 5]) && (footprint b).all (fun u => !((footprint c).contains u)) &&
      decide (f.sramBytes + g.sramBytes ≤ moduleSram)
  | _, _, _, _ => false

/-- A READY CO_PLACE slot that can be resident beside the other one is filled while it stands READY (R212). -/
def coFill (s : State) (n : Nat) : State :=
  if (getSlot s n).permille ≠ 1000 ∧ coResident s n = true then fillFootprint s n else s

/-! ## Residency (R150, R166, R190) -/

/-- The initial residency of a layer: cold experts take the cold slots in index order, and the next slot is spare. -/
def initialLayer (p : LayerPlan) (pins : List Nat) : LayerRes :=
  let seatOf (e : Nat) : Option Nat := (p.seats.find? (fun x => x.1 == e)).map (·.2)
  let cold := (List.range p.experts).filter (fun e => (seatOf e).isNone)
  let mk (e : Nat) : Expert :=
    match seatOf e with
    | some x => { hot := true, pin := pins.getD e 0, place := x }
    | none => { hot := false, pin := pins.getD e 0, place := cold.idxOf e }
  { layer := p.layer, experts := (List.range p.experts).map mk, groups := p.groups, seatsPerGroup := p.seatsPerGroup,
    freeSeats := (List.range (p.groups * p.seatsPerGroup)).filter (fun x => !(p.seats.any (fun y => y.2 == x))),
    spare := cold.length, coldUnits := p.coldUnits }

/-- The initial residency of an image; pins set before stay (R168). -/
def initialLayers (b : FolioBody) (old : List LayerRes) : List LayerRes :=
  b.layers.map (fun p =>
    initialLayer p (match old.find? (fun r => r.layer == p.layer) with | some r => r.experts.map (·.pin) | none => []))

/-! ## Activation (R149, R207, R216) -/

/-- The tokens of a prefix on a slot's tables: unchanged when the LETTERING sections are equal, otherwise tokenised anew (R274); a prefix
without bytes keeps its ids, since its LENGTH is at least 1 (log entry 43). -/
def pfxOn (s : State) (v : Pfx) (n : Nat) : List Nat :=
  if sameLettering s v.slot n then v.tokens
  else
    let bytes := bytesOf s v.slot v.tokens
    if bytes.isEmpty then v.tokens else idsOf s n [.text bytes]

/-- Every prefix handle is to be prefilled anew on the new image; its old pages stay while old-epoch sessions read them. -/
def rePrefixes (s : State) (n : Nat) : State :=
  let ids := (s.serving.prefixes.filter (fun kv => decide (kv.2.state = .ready) || decide (kv.2.state = .prefilling))).map (·.1)
  ids.foldl (fun s x =>
    let v := getPfx s x
    let toks := pfxOn s v n
    let s := if sameLettering s v.slot n then s else countText s (bytesOf s v.slot v.tokens).length toks.length
    let s := discardRows s (.pfx x)
    let s := putPfx s x { v with
      state := .prefilling, tokens := toks, length := toks.length, prefilled := 0, pages := [], free := max v.free v.prefilled, oldPages := v.oldPages ++ v.pages,
      slot := n, epoch := (getSlot s n).epoch, admitted := v.admitted || decide (v.state = .ready),
      rePrefill := v.rePrefill || decide (v.state = .ready), step := none }
    sweepPfx s x) s

/-- A placement is loaded: health records and thresholds reset (R115, R116), and routing records with the layers. The second
of R117 that began with a tensor's last event goes on. -/
def placementLoaded (s : State) : State :=
  { s with serving := { s.serving with
      health := tmap {} (fun _ h => { postedAt := h.postedAt }) s.serving.health, thresholds := [] } }

/-- The cold-copy areas that a placement's tables record (R154): one for each layer that has cold copies, on the site under the layer's
die. -/
def initialAreas (b : FolioBody) : List ColdArea :=
  b.layers.filterMap (fun p =>
    match b.clusters.find? (fun c => decide (c.role = .layer p.layer)) with
    | some c => if p.coldSlots = 0 then none
        else some { layer := p.layer, site := unitDie c.unit, base := p.coldBase, slots := p.coldSlots, ready := false }
    | none => none)

/-- The areas of a slot stand anew, and every cold copy is written from the master image (R190), in the reserve of another site where
the area's own is lost. -/
def startAreas (s : State) (n : Nat) : State :=
  let v := getSlot s n
  match v.body with
  | none => s
  | some b =>
    let l := initialAreas b
    let s := putSlot s n { v with areas := l }
    finishAreas ((l.map (·.site)).foldl (fun s d => if siteTakes s d then s else moveAreas s n d) s) n

/-- A slot becomes ACTIVE at a new epoch. -/
def activateSlot (s : State) (n : Nat) : State :=
  let e := s.images.epoch + 1
  let v := getSlot s n
  let s := { s with images := { s.images with epoch := e } }
  match v.body with
  | none => s
  | some b =>
    let fit := fitVariants s b
    let s := putSlot s n { v with
      state := .active, epoch := e, residencyEpoch := 0, layers := initialLayers b v.layers, inForce := fit.getD [],
      noVariant := fit.isNone }
    rePrefixes (placementLoaded (startAreas s n)) n

/-- RESULT of IMAGE_SWITCH: the epoch, and the first step number of it. -/
def switchResult (s : State) (n : Nat) : Nat := (getSlot s n).epoch + 2 ^ 64 * s.serving.nextStep

/-- Partitions under DRAIN hold their sessions on the old image until their time-out (R215). -/
def startDrains (s : State) : State :=
  (List.range 16).foldl (fun s p =>
    let v := getPartition s p
    if v.configured && v.drain then putPartition s p { v with drainUntil := some (s.now + v.drainTimeout * 1000000000) } else s) s

/-! ## The order of a migration (R213) -/

/-- Where a cluster's part of a placement comes in the order of writing: dense layer weights in layer order, then hot experts by the
initial ranking, then the COMMON clusters; PREFILL clusters are in no order. -/
def partKey (b : FolioBody) (p : ClusterPlan) : Option Nat :=
  match p.role with
  | .layer l =>
    match b.layers.find? (fun x => x.layer == l) with
    | none => some l
    | some x =>
      let here := x.seats.zipIdx.filter (fun q => x.seatParts.any (fun y => y.seat == q.1.2 && y.cluster == p.unit))
      if here.isEmpty then some l else some (64 + ((here.map (·.2)).foldl max 0))
  | .common => some 1000
  | _ => none

/-- No part that comes before the cluster's is still to be written. -/
def partNext (s : State) (b : FolioBody) (u : Nat) : Bool :=
  let key (x : Nat) : Option Nat := (b.clusters.find? (fun p => p.unit == x)).bind (partKey b)
  match key u with
  | none => true
  | some k => (footprint b).all (fun x => !(clusterGood s x) || s.images.migrated.contains x ||
      (match key x with | some j => decide (k ≤ j) | none => true))

/-- Streaming lists of a slot go into the idle half of every island of its placement, with its tables (R208, R210, R213), once no chunk of
the streaming lists is missing (R222). -/
def streamSlot (s : State) (n : Nat) : State :=
  let v := getSlot s n
  match v.body with
  | none => s
  | some b =>
    if sectionMissing v [2] then putSlot s n { v with streamDue := true }
    else b.clusters.foldl (fun s p =>
      if clusterGood s p.unit then
        let i := getIsland s p.unit
        let s := putIsland s p.unit { i with tables := tput {} i.tables n (planTables p) }
        placeSet s n p.unit p.unit (idleHalf i n) b true
      else s) (setRoutes (putSlot s n { v with streamDue := false }) n b)

/-! ## Reloading from the vellum (R190, R222, R225) -/

/-- Clusters of a placement whose clocks the governor starts. -/
def startClusters (s : State) (n : Nat) (b : FolioBody) : State :=
  b.clusters.foldl (fun s p =>
    if clusterGood s p.unit then
      startTables s n p
    else s) s

/-- A slot is reloaded from the vellum into clusters that hold nothing: in streaming form, or resident, as it was; a READY CO_PLACE slot
takes its footprint again. The seat maps in force stay. A slot whose chunks are missing waits for them (R222). -/
def reloadSlot (s : State) (n : Nat) : State :=
  let v := getSlot s n
  match v.body with
  | none => s
  | some b =>
    if slotLive v = false ∧ (v.state ≠ .ready ∨ v.filled = false) then s
    else if sectionMissing v [1, 2, 3, 5] then putSlot s n { v with reloadDue := true }
    else if v.state = .ready then fillFootprint s n
    else if v.streaming then streamSlot (startClusters (putSlot s n { v with reloadDue := false }) n b) n
    else if v.filled then refillSeats (fillPlacement (setRoutes s n b) n) n (fun _ => true)
    else s

/-- Both slots, the one that serves before a READY one. -/
def reloadSlots (s : State) : State :=
  if slotLive s.images.a then reloadSlot (reloadSlot s 0) 1 else reloadSlot (reloadSlot s 1) 0

/-- Refills and streaming lists that waited for missing chunks, once those are back (R222). -/
def payOwed (s : State) (n : Nat) : State :=
  let s := if (getSlot s n).streamDue then streamSlot s n else s
  let v := getSlot s n
  if v.reloadDue then reloadSlot s n
  else match v.body with
    | some b =>
      if sectionMissing v [3, 5] then s
      else v.owed.foldl (fun s w => moveTables s n b w) (putSlot s n { v with owed := [] })
    | none => s

/-! ## The adapter stores (R170) -/

/-- Runs of units of a site's adapter store that versions hold, or that are still to be cleared, in rising order. -/
def storeRuns (s : State) (d : Nat) : List (Nat × Nat) :=
  sortRuns (s.serving.tenants.flatMap (fun kv => (kv.2.versions.filter (fun w => w.site == d)).flatMap (·.extents)) ++
    (s.vellum.clearing.filter (fun x => x.2.1 == d)).map (fun x => x.2.2))

/-- Runs for `n` units in the store of a site, the lowest free ones, if it has room. -/
def storeRoom (s : State) (d n : Nat) : Option (List (Nat × Nat)) :=
  let r := regionSpan s d .adapter
  if siteServes s d then takeRuns (gapsIn ((r.1 + r.2) * granuleUnits) (storeRuns s d) (r.1 * granuleUnits)) n else none

/-- Bytes written into some runs of units of a site, in order. -/
def writeRuns (s : State) (d : Nat) : List (Nat × Nat) → List Byte → State
  | [], _ => s
  | e :: es, b => writeRuns (writeUnits s d e.1 (b.take (e.2 * 64))) d es (b.drop (e.2 * 64))

end Sys2Proof.Machine
end

