-- ==== Sys2Proof/Machine/CartOps.lean ====
section
/-! DEFINITION. How the two dies of a converter cartridge are emptied of work and turned off (R378, R447). -/

namespace Sys2Proof.Machine

/-! ## Emptying two dies (R447) -/

/-- The two dies of a cartridge, their sites, and their clusters. -/
def cartDies (c : Nat) : List Nat := [2 * c, 2 * c + 1]
def cartClusters (c : Nat) : List Nat := (cartDies c).flatMap dieClusters

/-- A variant set for a live slot without some units, or `none` when nothing composes. -/
def slotWithout (s : State) (n : Nat) (units : List Nat) : Option (List Variant) :=
  let v := getSlot s n
  match v.body with
  | none => some v.inForce
  | some b => if slotLive v then (coverSet s b v.inForce units).map (fun l => coverPrefill s b l units) else some v.inForce

/-- Every live slot fits without both dies (R378, R447 step 1). -/
def fitsWithout (s : State) (c : Nat) : Bool :=
  c != 8 && (slotWithout s 0 (cartClusters c)).isSome && (slotWithout s 1 (cartClusters c)).isSome

/-- The pair variant binds on a slot. -/
def bindPair (s : State) (c n : Nat) : State :=
  let v := getSlot s n
  match slotWithout s n (cartClusters c), v.body with
  | some l, some b => enforce s n b l
  | _, _ => s

/-- A page's content moves to a free page of another site; its old page is freed. -/
def movePage (s : State) (p : Nat) : Option (Nat × State) :=
  let v := getPage s p
  (takePage s none (fun fresh => { v with generation := fresh.generation })).map (fun r =>
    let s := r.2
    let s := moveUnits s (pageSite p) (p / 32 * granuleUnits) (pageSite r.1) (r.1 / 32 * granuleUnits) granuleUnits
    (r.1, freePage s p))

/-- A session's page leaves a site: moved, parked with its IDLE session where the pool lacks room, or given up to a re-prefill. -/
def clearSessionPage (s : State) (id : Nat) (q : Nat × Nat) : State :=
  let v := getSession s id
  if (v.pages.any (fun x => x.2 == q.2)) = false ∨ (getPage s q.2).state = .outbound then s
  else match movePage s q.2 with
    | some (p, s) =>
      modSession s id (fun v => { v with pages := v.pages.map (fun x => if x.2 = q.2 then (x.1, p) else x) })
    | none =>
      if v.state = .idle ∧ canPark s v = true then startPark s id
      else if v.state = .parking then s
      else rewindSession s id q.1

/-- A prefix page leaves a site: moved, or prefilled anew. -/
def clearPfxPage (s : State) (x p : Nat) : State :=
  let v := getPfx s x
  match v.pages.idxOf? p with
  | none => s
  | some l =>
    match movePage s p with
    | some (r, s) => putPfx s x { v with pages := v.pages.map (fun y => if y = p then r else y) }
    | none => rewindPfxFrom s x l

/-- A site with room for an adapter version that must move, and its runs there. -/
def adapterRoom (s : State) (n : Nat) : Option (Nat × List (Nat × Nat)) :=
  qSites.findSome? (fun d => (storeRoom s d n).map (fun l => (d, l)))

/-- One version of a tenant leaves a site with its bytes, or becomes absent; its old space is cleared. -/
def moveVersion (s : State) (tenant : Nat) (w : AdapterVer) : State :=
  let t := getTenant s tenant
  let put (s : State) (x : AdapterVer) : State :=
    releaseStore (putTenant s tenant { t with versions := t.versions.map (fun y => if y.index = w.index then x else y) }) tenant [w]
  match adapterRoom s ((w.extents.map (·.2)).sum) with
  | some (e, runs) =>
    let b := w.extents.flatMap (fun x => mread s.vellum.mem (vellumKey w.site (x.1 * 64)) (x.2 * 64))
    put (writeRuns (countReads s w.site ((w.extents.map (·.2)).sum)) e runs b) { w with site := e, extents := runs }
  | none => postEvent (put s (absentVer w)) 0 8 tenant

/-- A tenant's versions leave a site. -/
def moveVersions (s : State) (d tenant : Nat) : State :=
  ((getTenant s tenant).versions.filter (fun w => w.site == d && w.present)).foldl (fun s w => moveVersion s tenant w) s

/-- A slot's chunks leave a site under R221; those that no site takes are fetched again. -/
def moveChunks (s : State) (n d : Nat) : State :=
  let v := getSlot s n
  if v.state = .empty then s
  else
    ((chunksOn v d).filter (fun c => v.verified.contains c && !(v.missing.contains c))).foldl (fun s c =>
      match relocationSite s with
      | some e =>
        let s := countReads s (chunkAt s n c).1 chunkUnits
        wroteChunk (putSlot s n { getSlot s n with relocated := tins (getSlot s n).relocated c e }) n c
      | none => loseChunk s n c) s

/-- A site is emptied: nothing new is placed on it, and what it holds moves away. -/
def emptySite (s : State) (d : Nat) : State :=
  let s := modSite s d (fun v => { v with emptied := true })
  let ids := sessionIds s (fun v => v.pages.any (fun q => pageSite q.2 == d))
  let s := ids.foldl (fun s id =>
    ((getSession s id).pages.filter (fun q => pageSite q.2 == d)).foldl (fun s q => clearSessionPage s id q) s) s
  let pf := (s.serving.prefixes.map (·.1))
  let s := pf.foldl (fun s x => ((getPfx s x).pages.filter (fun p => pageSite p == d)).foldl (fun s p => clearPfxPage s x p) s) s
  let s := (s.serving.tenants.map (·.1)).foldl (fun s t => moveVersions s d t) s
  let s := loseCopies (moveChunks (moveChunks s 0 d) 1 d) d
  finishAreas (finishAreas (moveAreas (moveAreas s 0 d) 1 d) 0) 1

/-- The work of both dies moves away: the pair variant binds, a cause of forfeit FAULT (R254), and both sites are emptied. -/
def startPrepare (s : State) (c : Nat) : State :=
  let s := forfeitAll (bindPair (bindPair s c 0) c 1) 6
  let s := { s with board := { s.board with preparing := s.board.preparing ++ [c] } }
  (cartDies c).foldl emptySite s

/-- Pages on the cartridge's sites that still hold something. -/
def pagesLeft (s : State) (c : Nat) : Bool :=
  s.vellum.pages.any (fun kv => (cartDies c).contains (pageSite kv.1) &&
    (decide (kv.2.state = .live) || decide (kv.2.state = .pinned) || decide (kv.2.state = .outbound)))

/-- Both dies' rails are off: amber steady, the clusters and sites out of use. -/
def darkenPair (s : State) (c : Nat) : State :=
  let s := (cartClusters c).foldl (fun s u => putIsland s u { stopIsland (getIsland s u) with dark := true }) s
  let s := { s with
    map := { s.map with darkDies := s.map.darkDies ++ (cartDies c).filter (fun d => !(s.map.darkDies.contains d)) },
    board := { s.board with preparing := s.board.preparing.filter (fun x => x != c) } }
  mapChanged (putCart s c { getCart s c with lamp := .amber, powered := false })

/-- A migration or a compat swap is under way (R344). -/
def imagesMoving (s : State) : Bool := s.images.switching.isSome || s.images.compat.isSome

/-- A cartridge that has failed (R378). -/
def cartFailed (c : Cartridge) : Bool := decide (8 ≤ c.phasesLost)

/-- The scribe moves the work of a failed cartridge's dies away, when a repair variant fits without them (R378). -/
def prepareFailed (s : State) (c : Nat) : State :=
  let v := getCart s c
  if cartFailed v && v.present && v.powered && fitsWithout s c && !(imagesMoving s) && decide (s.board.phase = .serving) &&
      !(s.board.preparing.contains c) then startPrepare s c
  else s

/-- Every failed cartridge, as service begins. -/
def prepareAllFailed (s : State) : State := (List.range 20).foldl prepareFailed s

end Sys2Proof.Machine
end

