-- ==== Sys2Proof/Machine/MailboxEvents.lean ====
section
/-! DEFINITION. The meanings of the mailbox rows (chapter 11) and of the BAR0 and BAR4 accesses (chapter 10). -/

namespace Sys2Proof.Machine

/-! ## Doorbells (R301, R303) -/

/-- A distance round a ring. -/
def ringDist (size b a : Nat) : Nat := (a + size - b) % size

/-- SQ_TAIL: the tail moves, or a doorbell error of cause 1. -/
def execSqTail (t func qp value : Nat) (s : State) : Out :=
  let s := advance s t
  let value := value % 65536
  let q := getQueue s func qp
  let size := 2 ^ q.sqLog2
  .next (
    if doorbellOk s func qp && q.enable then
      if size ≤ value ∨ size - 1 < ringDist size q.sqHead q.sqTail + ringDist size q.sqTail value then queueError s func qp 1
      else putQueue s func qp { q with sqTail := value }
    else s)

/-- CQ_HEAD: consumed entries are freed, held completions follow them; or a doorbell error of cause 2. It is discarded only while
ACTIVE reads 0 (R323). -/
def execCqHead (t func qp value : Nat) (s : State) : Out :=
  let s := advance s t
  let value := value % 65536
  let q := getQueue s func qp
  let size := 2 ^ q.cqLog2
  .next (
    if doorbellOk s func qp then
      if size ≤ value ∨ ringDist size q.cqHead q.cqIndex < ringDist size q.cqHead value then queueError s func qp 2
      else
        let q := { q with cq := q.cq.drop (ringDist size q.cqHead value), cqHead := value }
        flushHeld (putQueue s func qp q) func qp
    else s)

/-- Units of a TS ring taken by an item, and the items left when `n` units are consumed. -/
def consumeUnits : Nat → List RingItem → List RingItem
  | _, [] => []
  | n, .rcd r ph u :: l => if u ≤ n then consumeUnits (n - u) l else .rcd r ph (u - n) :: l
  | n, .pad ph u :: l => if u ≤ n then consumeUnits (n - u) l else .pad ph (u - n) :: l

/-- TS_HEAD: consumed units are freed; an invalid value is ignored and reported, and the pair goes on (R303). -/
def execTsHead (t func qp value : Nat) (s : State) : Out :=
  let s := advance s t
  let value := value % 1048576
  let q := getQueue s func qp
  let size := 2 ^ q.tsLog2
  .next (
    if doorbellOk s func qp && func != 0 then
      if size ≤ value ∨ ringDist size q.tsHead q.tsIndex < ringDist size q.tsHead value then
        accessFault s (0x1008 + 0x10 * qp) func
      else putQueue s func qp { q with
        ts := consumeUnits (ringDist size q.tsHead value) q.ts, tsHead := value }
    else s)

/-! ## Enabling and disabling (R300, R314, R320, R321) -/

/-- The sizes and vectors that ENABLE checks (R280, R281, R283). -/
def sizesOk (func : Nat) (q : Queue) : Bool :=
  if func = 0 then decide (4 ≤ q.sqLog2) && decide (q.sqLog2 ≤ 12) && decide (6 ≤ q.cqLog2) && decide (q.cqLog2 ≤ 12)
  else decide (4 ≤ q.sqLog2) && decide (q.sqLog2 ≤ 16) && decide (4 ≤ q.cqLog2) && decide (q.cqLog2 ≤ 16) &&
    decide (8 ≤ q.tsLog2) && decide (q.tsLog2 ≤ 20) && decide (1 ≤ q.tsVecCount) && decide (q.tsVecCount ≤ 32) &&
    decide (9 ≤ q.tsVecBase) && decide (q.tsVecBase + q.tsVecCount ≤ 120)

/-- ACTIVE rises: every index is 0 and every phase 1. A pair that its binding reclaims writes RESUMED first, then
its held completions, records and events (R321). -/
def activate (s : State) (func qp : Nat) : State :=
  let q := getQueue s func qp
  let q1 := { q with
    enable := true, active := true, stopped := false, sqTail := 0, sqHead := 0, cqIndex := 0, cqHead := 0,
    cqPhase := true, cq := [], tsIndex := 0, tsHead := 0, tsPhase := true, ts := [], resume := false }
  if q.resume then
    let unfinished := (s.mailbox.fetched.filter (fun f => f.func == func && f.qp == qp && !f.muted)).length
    let e : Event := { code := 0x0201, qp := qp, detail := q.resumeHead + 2 ^ 16 * unfinished + 2 ^ 32 * q.holding.length }
    let s := writeEvent (putQueue s func qp q1) func e
    postBacklog (drainAll (flushHeld s func qp) func qp) func
  else putQueue s func qp q1

/-- ENABLE reads back 0. -/
def refuseEnable (s : State) (func qp : Nat) : State :=
  putQueue s func qp { getQueue s func qp with enable := false }

/-- A token that reclaims nothing (R321, R323): RESUME_TOKEN reads 0, and the blotter records it. -/
def refuseToken (s : State) (func qp : Nat) : State :=
  let s := refuseEnable (setToken s func 0) func qp
  accessFault s (if func = 0 then 0x0034 else 0x011C + 0x40 * qp) func

/-- QUEUE_ENABLE: the checks of R300, then the binding or the token decides. -/
def execQueueEnable (t func qp : Nat) (s : State) : Out :=
  let s := advance s t
  let q := getQueue s func qp
  let b := tget {} s.mailbox.bindings func
  let tok := (getFn s func).tokenReg
  .next (
    if reachable s func = false ∨ q.active ∨ q.enable then s
    else if sizesOk func q = false then refuseEnable s func qp
    else if b.bound && !b.waiting then activate s func qp
    else if b.waiting then
      if tok = b.token then
        activate (bindFresh s func) func qp
      else if tok = 0 then activate (bindFresh (dropBinding s func) func) func qp
      else refuseToken s func qp
    else if tok = 0 then activate (bindFresh s func) func qp
    else refuseToken s func qp)

/-- The commands of a pair run on, and their completions are not written (R314). The started ones of a virtual function's pair make way for
the pair's next use. -/
def muteFetched (s : State) (func qp : Nat) : State :=
  let l := modWhere (fun (f : Fetched) => f.func == func && f.qp == qp)
    (fun f => { f with muted := true, qp := if f.started && func != 0 then qp + 8 else qp }) s.mailbox.fetched
  { s with mailbox := { s.mailbox with fetched := l } }

/-- QUEUE_DISABLE: a write of 0 to an ENABLE that is 1. Fetching stops, and the turns that the pair submitted end with nothing more
written. -/
def execQueueDisable (t func qp : Nat) (s : State) : Out :=
  let s := advance s t
  .next (
    if reachable s func && (getQueue s func qp).enable then
      let s := dropTurns (putQueue s func qp { getQueue s func qp with enable := false, disabledAt := s.now })
        (fun v => match v.turn with | some u => u.func == func && u.qp == qp | none => false)
      muteFetched (putQueue s func qp { getQueue s func qp with holding := [], heldCq := [] }) func qp
    else s)

/-- QUEUE_DRAINED: the last fetched command of a disabled pair has finished, or 50 ms have passed for a virtual function's pair, and
ACTIVE falls. -/
def execQueueDrained (t func qp : Nat) (s : State) : Out :=
  let s := advance s t
  let q := getQueue s func qp
  .next (
    if q.active && !q.enable && (!(s.mailbox.fetched.any (fun f => f.func == func && f.qp % 8 == qp)) ||
        (func != 0 && decide (q.disabledAt + 50000000 ≤ s.now))) then
      putQueue s func qp { q with active := false, stopped := false }
    else s)

/-! ## Registers (R280 to R282, R318) -/

/-- EVENT_CAUSE_CLEAR: write 1 to clear; GOVERNOR acknowledges every warning posted before it. -/
def execEventCauseClear (t bits : Nat) (s : State) : Out :=
  let s := advance s t
  .next (
    if reachable s 0 then
      let s := { s with link := { s.link with eventCause := s.link.eventCause &&& ~~~ (BitVec.ofNat 5 bits) } }
      if (BitVec.ofNat 5 bits).getLsbD 2 then ackWarnings s else s
    else s)

/-- EXPORT_ENABLE: 1 permits an export, 0 ends any. -/
def execExportEnable (t : Nat) (value : Bool) (s : State) : Out :=
  let s := advance s t
  .next (
    if reachable s 0 then
      let s := { s with link := { s.link with exportEnable := value } }
      if value then s else endExport s
    else s)

/-- HOST_TIME_READ: a BAR0 read, of HOST_TIME or of any other offset. Reading HOST_TIME's low half latches the high half (R280); only
aligned 4-byte and 8-byte reads are accepted, and any other returns zero with an access fault (R282). -/
def execHostTimeRead (t : Nat) (func : Met Nat BarRead) (s : State) : Out :=
  let s := advance s t
  let f := func.val
  let o := func.met.offset
  let size := func.met.size
  .next (
    if reachable s f = false then s
    else if (size = 4 ∨ size = 8) ∧ o % size = 0 then
      let s := if o = timeOffset f then putFn s f { getFn s f with timeHigh := stamp s / 2 ^ 32 } else s
      let v := readBar0 s f o + (if size = 8 then 2 ^ 32 * readBar0 s f (o + 4) else 0)
      { s with link := { s.link with timeRead := v } }
    else accessFault { s with link := { s.link with timeRead := 0 } } o f)

/-- The 64-bit registers that software writes. -/
inductive Wide where
  | sqBase (qp : Nat)
  | cqBase (qp : Nat)
  | tsBase (qp : Nat)
  | token
  deriving DecidableEq, Repr

/-- The 64-bit register whose low half stands at an offset. -/
def wideAt (func offset : Nat) : Option Wide :=
  if func = 0 then
    match offset with
    | 0x20 => some (.sqBase 0)
    | 0x28 => some (.cqBase 0)
    | 0x38 => some .token
    | _ => none
  else if offset = 0x10 then some .token
  else if 0x100 ≤ offset ∧ offset < 0x300 then
    match (offset - 0x100) % 0x40 with
    | 0x00 => some (.sqBase ((offset - 0x100) / 0x40))
    | 0x08 => some (.cqBase ((offset - 0x100) / 0x40))
    | 0x10 => some (.tsBase ((offset - 0x100) / 0x40))
    | _ => none
  else none

/-- The present value of a 64-bit register. -/
def wideGet (s : State) (func : Nat) (w : Wide) : Nat :=
  match w with
  | .sqBase qp => (getQueue s func qp).sqBase
  | .cqBase qp => (getQueue s func qp).cqBase
  | .tsBase qp => (getQueue s func qp).tsBase
  | .token => (getFn s func).tokenReg

/-- The queue pair whose BASE it is: written only while ENABLE is 0. -/
def wideQueue (w : Wide) : Option Nat :=
  match w with
  | .sqBase qp => some qp
  | .cqBase qp => some qp
  | .tsBase qp => some qp
  | .token => none

/-- A 64-bit register takes a value: reserved bits [11:0] of a BASE are ignored (R9). -/
def wideSet (s : State) (func : Nat) (w : Wide) (v : Nat) : State :=
  let a := v / 4096 * 4096
  match w with
  | .sqBase qp => putQueue s func qp { getQueue s func qp with sqBase := a }
  | .cqBase qp => putQueue s func qp { getQueue s func qp with cqBase := a }
  | .tsBase qp => putQueue s func qp { getQueue s func qp with tsBase := a }
  | .token => putFn s func { getFn s func with tokenReg := v }

/-- A write that R282 discards. -/
def blockedWide (s : State) (func : Nat) (w : Wide) : Bool :=
  match wideQueue w with
  | some qp => (getQueue s func qp).enable
  | none => false

/-- A locked TDI whose MSI-X table changes enters ERROR (R288). -/
def lockedTouch (s : State) (func : Nat) : State :=
  let f := getFn s func
  if func ≠ 0 ∧ (f.tdi = .locked ∨ f.tdi = .run) then tdiError s func else s

/-- The SIZES register of a queue pair, or its vector fields, at an offset; a reserved offset keeps nothing (R9, R281). -/
def write4Pair (s : State) (func qp reg v : Nat) : State :=
  let q := getQueue s func qp
  if reg = 0x18 then
    if q.enable then accessFault s (if func = 0 then 0x30 else 0x118 + 0x40 * qp) func
    else putQueue s func qp { q with
      sqLog2 := v % 256, cqLog2 := v / 256 % 256, tsLog2 := if func = 0 then q.tsLog2 else v / 65536 % 256 }
  else if func = 0 ∨ reg ≠ 0x1C then s
  else putQueue s func qp { q with tsVecBase := v / 65536 % 256, tsVecCount := v / 16777216 % 256 }

/-- A 4-byte write (R282): a low half is held, a high half takes effect joined to it; other writable registers
take the value; everything else is read-only, write-only elsewhere, or reserved, and keeps its value. -/
def write4 (s : State) (func offset v : Nat) : State :=
  let f := getFn s func
  match wideAt func offset with
  | some w =>
    if blockedWide s func w then accessFault s offset func
    else putFn s func { f with held := tput 0 f.held offset (v + 1) }
  | none =>
    match (if 4 ≤ offset then wideAt func (offset - 4) else none) with
    | some w =>
      if blockedWide s func w then accessFault s offset func
      else
        let h := tget 0 f.held (offset - 4)
        let low := if h = 0 then wideGet s func w % 2 ^ 32 else h - 1
        let s := wideSet s func w (v * 2 ^ 32 + low)
        let f := getFn s func
        putFn s func { f with held := tput 0 f.held (offset - 4) 0 }
    | none =>
      if msixBase func ≤ offset ∧ offset < msixBase func + 4 * msixDwords func then
        let i := (offset - msixBase func) / 4
        if msixGet f i = v then s
        else lockedTouch (putFn s func { f with msixTable := tput (msixDefault i) f.msixTable i v }) func
      else if func = 0 then
        if offset = 0x30 then write4Pair s 0 0 0x18 v else s
      else if 0x100 ≤ offset ∧ offset < 0x300 then
        write4Pair s func ((offset - 0x100) / 0x40) ((offset - 0x100) % 0x40)
          v
      else s

/-- An 8-byte write: a 64-bit register takes it whole; otherwise it is the two 4-byte writes. -/
def write8 (s : State) (func offset v : Nat) : State :=
  match wideAt func offset with
  | some w =>
    if blockedWide s func w then accessFault s offset func
    else
      let s := wideSet s func w v
      let f := getFn s func
      putFn s func { f with held := tput 0 f.held offset 0 }
  | none => write4 (write4 s func offset (v % 2 ^ 32)) func (offset + 4) (v / 2 ^ 32)

/-- What the host has in the function's configuration space at an access is taken over (R278); a locked TDI whose BARs have moved enters
ERROR (R288). -/
def takeHostSet (s : State) (func : Nat) (c : HostSet) : State :=
  if func = 0 then { s with link := { s.link with maxRead := c.maxRead, cplTimeoutMs := c.cplTimeoutMs } }
  else if (getFn s func).barPlace = c.place then s else lockedTouch s func

/-- REGISTER_WRITE: only aligned 4-byte and 8-byte accesses are accepted (R282). -/
def execRegisterWrite (t : Met Nat HostSet) (func offset size value : Nat) (s : State) : Out :=
  let s := advance s t.val
  .next (
    if reachable s func = false then s
    else
      let s := takeHostSet s func t.met
      if size = 4 ∧ offset % 4 = 0 then write4 s func offset (value % 2 ^ 32)
      else if size = 8 ∧ offset % 8 = 0 then write8 s func offset (value % 2 ^ 64)
      else accessFault s offset func)

/-! ## The export window (R203, R204, R289) -/

/-- The control frame of BAR4. -/
def controlFrame : Nat := 0x0FFFC00000

/-- BANK_WRITE: only a 2-byte write of BANK by the named peer, below BANKS. -/
def execBankWrite (requester offset size value : Nat) (s : State) : Out :=
  let e := s.images.exported
  .next (
    match e.slot.bind (fun n => (getSlot s n).head) with
    | some h =>
      if requester = e.peer ∧ offset = controlFrame + 0x32 ∧ size = 2 ∧ value < fileBanks h then
        { s with images := { s.images with exported := { e with bank := value } } }
      else s
    | none => s)

/-- A byte of a slot's file lies in a chunk that is missing (R222). -/
def fileMissing (s : State) (n : Nat) (h : FolioHead) (byte : Nat) : Bool :=
  decide (h.chunkBase ≤ byte) && (getSlot s n).missing.contains ((byte - h.chunkBase) / 4194304)

/-- EXPORT_WINDOW_READ: the control frame for any requester, file frames for the named peer. A read that needs a missing chunk waits
(R222). -/
def execExportWindowRead (t requester offset : Nat) (s : State) : Out :=
  let s := advance s t
  let e := s.images.exported
  let set := fun (s : State) (r : WindowRead) => { s with link := { s.link with windowRead := r } }
  .next (
    if controlFrame ≤ offset then
      let o := (offset - controlFrame) / 4 * 4
      set s (.control (leNat (((exportBytes s).drop o).take 4)))
    else
      match e.slot.bind (fun n => (getSlot s n).head.map (fun h => (n, h))) with
      | some (n, h) =>
        if requester = e.peer then
          let at_ := (e.bank * 16383 + offset / 4194304) * 4194304 + offset % 4194304
          if fileMissing s n h at_ then s
          else if at_ < fileFrames h * 4194304 then set s (.file n at_) else set s .zero
        else accessFault (set (aerError s 20) .unsupportedRequest) requester 0
      | none => accessFault (set (aerError s 20) .unsupportedRequest) requester 0)

/-! ## Fetching and time-outs (R304 to R308, R312) -/

/-- The fetch window of R308. -/
def fetchWindow (s : State) (func qp : Nat) : Bool :=
  let q := getQueue s func qp
  decide (owedSlots s func qp + q.cq.length + (if func = 0 then 17 else 1) < 2 ^ q.cqLog2)

/-- Header breaks that need no operand table (R304): reserved bits, and the data fields. -/
def headerReserved (d : List Byte) : Bool :=
  (d.getD 4 0#8).toNat / 4 != 0 || d.getD 5 0#8 != 0#8 || leNat ((d.drop 0x14).take 4) != 0

def headerDataBad (d : List Byte) : Bool :=
  let addr := leNat ((d.drop 8).take 8)
  let len := leNat ((d.drop 0x10).take 4)
  let list := decide ((d.getD 4 0#8).toNat / 2 % 2 = 1)
  addr % 4 != 0 || (len == 0 && addr != 0) ||
    (if list then decide (len % 16 ≠ 0) || decide (len < 16) || decide (65536 < len) else decide (16777216 < len))

/-- The status that a fetched header gets at once (R307), if any. -/
def headerStatus (s : State) (func qp : Nat) (d : List Byte) : Option Nat :=
  let cid := leNat ((d.drop 2).take 2)
  match opcodeOf (leNat (d.take 2)) with
  | none => some stInvalidOpcode
  | some o =>
    if (func = 0 ∧ o.admin = false) ∨ (func ≠ 0 ∧ o.vf = false) then some stWrongQueue
    else if headerReserved d then some stReservedNonzero
    else if cid = 0xFFFF ∨ (s.mailbox.fetched.any (fun f => f.func == func && f.qp == qp && f.cid == cid && !f.muted)) = true then
      some stCidInvalid
    else if headerDataBad d then some stBadData
    else none

/-- DESCRIPTOR_FETCH: one descriptor is fetched while the CQ window has room. A failed read is a doorbell error of
cause 3. In HOLD and deeper, a virtual function's queues wait for the wake (R393). -/
def execDescriptorFetch (t func qp : Nat) (desc : List Byte) (readOk : Bool) (s : State) : Out :=
  let s := advance s t
  let q := getQueue s func qp
  .next (
    if q.active && q.enable && !q.stopped && s.link.up && (func == 0 || !(isDeep s.power.state)) && !(getFn s func).d3hot && !sealedBlocked s func &&
        decide (q.sqHead ≠ q.sqTail) && fetchWindow s func qp then
      if readOk then
        let cid := leNat ((desc.drop 2).take 2)
        let s := putQueue s func qp { q with sqHead := (q.sqHead + 1) % 2 ^ q.sqLog2 }
        match headerStatus s func qp desc with
        | some st => answerCid s func qp cid st
        | none =>
          let ms := leNat ((desc.drop 6).take 2)
          let f : Fetched := { func := func, qp := qp, cid := cid, opcode := leNat (desc.take 2),
                               fence := decide ((desc.getD 4 0#8).toNat % 2 = 1),
                               deadline := if ms = 0 then 0 else s.now + ms * 1000000 }
          { s with mailbox := { s.mailbox with fetched := s.mailbox.fetched ++ [f] } }
      else queueError s func qp 3
    else s)

/-- A command that waits for a step boundary is withdrawn without effect (R312): a handover, a tolerance, or a cap that is the
last one accepted. -/
def withdraw (s : State) (f : Fetched) : State :=
  if f.waits = false then s
  else if f.opcode = 0x0105 then { s with fw := { s.fw with handover := false } }
  else if f.opcode = 0x0603 then { s with power := { s.power with tolDue := none } }
  else match s.power.capBefore with
    | some c =>
      let c := min 18500 c
      { s with power := { s.power with hostCap := c, capPending := decide (c ≠ s.power.boundCap), capBefore := none } }
    | none => s

/-- COMMAND_TIMEOUT: a command that has not taken effect completes with TIMED_OUT. In the cycle of its completion,
the completion counts, and will carry LATE_COMPLETION. -/
def execCommandTimeout (t func qp cid : Nat) (sameCycle : Bool) (s : State) : Out :=
  let s := advance s t
  let mine := fun (f : Fetched) => f.func == func && f.qp == qp && f.cid == cid
  .next (
    match s.mailbox.fetched.find? mine with
    | some f =>
      if f.deadline = 0 ∨ s.now < f.deadline ∨ (f.started && !f.waits) = true then s
      else if sameCycle then
        { s with mailbox := { s.mailbox with
            fetched := modWhere mine (fun f => { f with lateFlag := true }) s.mailbox.fetched } }
      else completeAt (withdraw s f) func qp cid stTimedOut 0 []
    | none => s)

/-! ## Events, interrupts, records, bindings -/

/-- EVENT_BACKLOG_POST: waiting events are written while the CQ has room (R317). -/
def execEventBacklogPost (t func : Nat) (s : State) : Out := .next (postBacklog (advance s t) func)

/-- MSIX_SEND: at most one message per vector in any 1 µs; a masked vector, or any vector under Function Mask, sets its pending bit
(R283, R311). While MSI-X Enable is 0 nothing is sent, and the vector waits. -/
def execMsixSend (t : Met Nat MsixCtl) (func vector : Nat) (s : State) : Out :=
  let s := advance s t.val
  let s := putFn s func { getFn s func with msixEnable := t.met.enable, msixMaskAll := t.met.maskAll }
  let f := getFn s func
  .next (
    if f.msixEnable && (f.msixWanted.contains vector || f.msixPending.contains vector) then
      if f.msixMaskAll || msixMasked f vector then
        putFn s func { f with
          msixWanted := f.msixWanted.filter (fun v => v != vector),
          msixPending := if f.msixPending.contains vector then f.msixPending else f.msixPending ++ [vector] }
      else if s.now < tget 0 f.msixSentAt vector then s
      else putFn s func { f with
        msixWanted := f.msixWanted.filter (fun v => v != vector),
        msixPending := f.msixPending.filter (fun v => v != vector),
        msixSentAt := tput 0 f.msixSentAt vector (s.now + 1000) }
    else s)

/-- TS_RECORD_WRITE: the turn's next due record is written, or waits (R268). -/
def execTsRecordWrite (t session : Nat) (s : State) : Out := .next (lateStop (pump (advance s t) session) session)

/-- The turns that a queue pair submitted. -/
def turnsOfPair (s : State) (func qp : Nat) : List Nat :=
  sessionIds s (fun v => match v.turn with | some u => u.func == func && u.qp == qp | none => false)

/-- HOLDING_BUFFER_DRAIN: records that wait are written while the ring has room; then those that the full buffer
kept back follow (R268). -/
def execHoldingBufferDrain (t func qp : Nat) (s : State) : Out :=
  let s := advance s t
  let s := drainAll s func qp
  .next ((turnsOfPair s func qp).foldl (fun s id =>
    match (getSession s id).turn with
    | some u => if u.ending.isSome then pumpAll u.due.length s id else s
    | none => s) s)

/-- BINDING_EXPIRY: a binding not reclaimed in 60 s is dropped, as under a zero token (R322). -/
def execBindingExpiry (t func : Nat) (s : State) : Out :=
  let s := advance s t
  let b := tget {} s.mailbox.bindings func
  .next (
    match b.dropAt with
    | some d => if b.waiting && decide (d ≤ s.now) then dropBinding s func else s
    | none => s)

end Sys2Proof.Machine
end

