-- ==== Sys2Proof/Machine/HostLink.lean ====
section
/-! DEFINITION. The meanings of the host link rows (chapter 10): resets on the link, functions and power management,
PTM, IDE and TDISP. -/

namespace Sys2Proof.Machine

/-- The PCIe port and the management endpoint have come up (R417 step 5, R420). -/
def portUp (s : State) : Bool :=
  match s.board.phase with
  | .booted | .tested | .serving | .resetting | .refused | .partialShutdown => true
  | _ => false

/-- The link trains at its full width and the highest rate that LINK_SEL allows, and the RRS period ends (R277,
R419). -/
def trainLink (s : State) : State :=
  endRrs { s with link := { s.link with up := true, width := 16, rate := topRate s } }

/-- PERST_N_ASSERT (R291). -/
def execPerstNAssert (t : Nat) (s : State) : Out :=
  let s := advance s t
  .next (linkReset { s with board := { s.board with perstHigh := false } })

/-- PERST_N_DEASSERT (R419): the port trains as soon as it is up. -/
def execPerstNDeassert (t : Met Nat Bool) (s : State) : Out :=
  let s := advance s t.val
  let s := { s with board := { s.board with perstHigh := true, refclk := t.met } }
  .next (if portUp s && t.met then trainLink s else s)

/-- LINK_DOWN: a hot reset or DL_Down, handled as PERST_N. -/
def execLinkDown (t : Nat) (s : State) : Out := .next (linkReset (advance s t))

/-- LINK_UP: the link trains again without PERST_N, if REFCLK runs (R18). -/
def execLinkUp (t : Met Nat Bool) (s : State) : Out :=
  let s := advance s t.val
  let s := { s with board := { s.board with refclk := t.met } }
  .next (if portUp s && s.board.perstHigh && t.met && !s.link.up then trainLink s else s)

/-- A width and a RATE at which the link can train (R277). -/
def trainable (s : State) (width rate : Nat) : Bool :=
  (width == 1 || width == 2 || width == 4 || width == 8 || width == 16) && decide (1 ≤ rate) &&
    decide (rate ≤ topRate s)

/-- LINK_RETRAIN: not a reset. Timed turns priced at a higher width or rate are forfeited with LINK (R254). -/
def execLinkRetrain (t width rate : Nat) (s : State) : Out :=
  let s := advance s t
  .next (
    if s.link.up && trainable s width rate then
      let s := { s with link := { s.link with width := width, rate := rate } }
      mapSessions s (fun _ v => { v with turn := v.turn.map (fun u =>
        if width < u.pricedWidth ∨ rate < u.pricedRate then forfeitTurn 4 s.now u else u) })
    else s)

/-- VF_FLR (R292). -/
def execVfFlr (t vf : Nat) (s : State) : Out :=
  let s := advance s t
  .next (if vf != 0 && reachable s vf then flrVf s vf else s)

/-- PF_FLR (R293). -/
def execPfFlr (t : Nat) (s : State) : Out :=
  let s := advance s t
  .next (if s.link.up then flrPf s else s)

/-- VF_ENABLE_CLEAR (R279). -/
def execVfEnableClear (t : Nat) (s : State) : Out := .next (clearVfs (advance s t))

/-- VF_ENABLE_SET: NumVFs changes only while VF Enable is 0. A function enabled anew stands at its reset values;
only a binding that waits since a link reset is still there to be reclaimed (R279, R321). -/
def execVfEnableSet (numVfs : Nat) (s : State) : Out :=
  .next (
    if s.link.up && !s.link.vfEnable && decide (numVfs ≤ 16) then
      let s := { s with link := { s.link with numVfs := numVfs, vfEnable := true } }
      ((List.range numVfs).map (· + 1)).foldl (fun s f =>
        let s := resetFn s f true
        if (tget {} s.mailbox.bindings f).waiting then s
        else { s with mailbox := { s.mailbox with bindings := tput {} s.mailbox.bindings f {} } }) s
    else s)

/-- D3HOT_ENTRY: the function's rings are no longer read (R293). -/
def execD3hotEntry (t func : Nat) (s : State) : Out :=
  let s := advance s t
  .next (if reachable s func then putFn s func { getFn s func with d3hot := true } else s)

/-- D0_RETURN: its state is as it was before. -/
def execD0Return (t func : Nat) (s : State) : Out :=
  let s := advance s t
  .next (if reachable s func then putFn s func { getFn s func with d3hot := false } else s)

/-! ## PTM (R284 to R286) -/

def setPtm (s : State) (p : Ptm) : State := { s with link := { s.link with ptm := p } }

/-- PTM_ENABLE: the exchanges start towards a lock. -/
def execPtmEnable (t : Nat) (s : State) : Out :=
  let s := advance s t
  .next (
    if s.link.up && !s.link.ptm.enabled then
      setPtm s { s.link.ptm with enabled := true, agree := 0, lapsed := false, lastGood := s.now }
    else s)

/-- PTM_DISABLE: the lock clears at once; holdover, and no lapse. -/
def execPtmDisable (t : Nat) (s : State) : Out :=
  let s := advance s t
  .next (setPtm s { s.link.ptm with enabled := false, lock := false, lapsed := false, agree := 0 })

/-- PTM_EXCHANGE: three agreeing exchanges lock; up to 10 µs is slewed, more is stepped with an event, and host
time as stamped never goes back. The event's own stamp is from before the correction (R297). -/
def execPtmExchange (t : Nat) (offset : Int) (success : Bool) (s : State) : Out :=
  let s := advance s t
  let p := s.link.ptm
  .next (
    if p.enabled = false then s
    else if success = false then setPtm s { p with agree := 0 }
    else
      let close := fun (x : Int) => decide ((offset - x).natAbs ≤ 200)
      let agree := if p.agree = 0 ∨ close p.lastOffset = false then 1
        else if p.agree = 1 ∨ close p.priorOffset = true then p.agree + 1 else 2
      let s := setPtm s { p with
        agree := agree, lastOffset := offset, priorOffset := p.lastOffset, lastGood := s.now, lapsed := false,
        lock := p.lock || decide (3 ≤ agree), slew := if offset.natAbs ≤ 10000 then offset else 0 }
      if offset.natAbs ≤ 10000 then s
      else
        let s := postEvent s 0 6 (signedField 64 offset)
        { s with now := max s.now ((s.now : Int) + offset).toNat })

/-- PTM_LAPSE: 100 ms without a good exchange (R286). -/
def execPtmLapse (t : Nat) (s : State) : Out :=
  let s := advance s t
  let p := s.link.ptm
  .next (
    if p.enabled && !p.lapsed && decide (p.lastGood + 100000000 ≤ s.now) then
      forfeitAll (postEvent (setPtm s { p with lock := false, lapsed := true, agree := 0 }) 0 7 p.lastGood) 4
    else s)

/-! ## IDE and TDISP (R287, R288) -/

/-- IDE_KM: keys are set, or refreshed, only in an SPDM secured session. Stream 0 is the link stream, stream n + 1
the selective stream of function n. -/
def execIdeKm (stream : Nat) (secured : Bool) (s : State) : Out :=
  .next (
    if secured = false ∨ s.link.up = false then s
    else match stream with
      | 0 => { s with link := { s.link with ideSecure := true, ideKeys := s.link.ideKeys + 1 } }
      | f + 1 =>
        let v := getFn s f
        if f ≤ 16 then putFn s f { v with ideSecure := true, ideKeys := v.ideKeys + 1 } else s)

/-- IDE_INTEGRITY_FAILURE: the TLP is dropped, the stream goes Insecure, and a selective stream's TDI enters ERROR. -/
def execIdeIntegrityFailure (t stream : Nat) (s : State) : Out :=
  let s := advance s t
  .next (
    match stream with
    | 0 => { s with link := { s.link with ideSecure := false } }
    | f + 1 =>
      let v := getFn s f
      if v.ideSecure = false then s
      else
        let s := putFn s f { v with ideSecure := false }
        if f = 0 then s else tdiError s f)

/-- LOCK_INTERFACE: the function's BARs are locked where they stand, and its MSI-X table as it is. -/
def execLockInterface (vf : Met Nat Nat) (s : State) : Out :=
  let f := getFn s vf.val
  .next (
    if vf.val != 0 && reachable s vf.val && decide (f.tdi = .unlocked) then
      putFn s vf.val { f with tdi := .locked, barPlace := vf.met }
    else s)

/-- START_INTERFACE. -/
def execStartInterface (vf : Nat) (s : State) : Out :=
  let f := getFn s vf
  .next (if vf != 0 && reachable s vf && decide (f.tdi = .locked) then putFn s vf { f with tdi := .run } else s)

/-- STOP_INTERFACE: CONFIG_UNLOCKED once the clearing of R292 completes. -/
def execStopInterface (vf : Nat) (s : State) : Out :=
  let f := getFn s vf
  .next (
    if vf == 0 || !(reachable s vf) then s
    else if s.serving.clears.contains (.partition (vf - 1)) then putFn s vf { f with stopPending := true }
    else putFn s vf { f with tdi := .unlocked, stopPending := false })

end Sys2Proof.Machine
end

