-- ==== Sys2Proof/Machine/Images.lean ====
section
/-! DEFINITION. The meanings of the Folio family (R337) and of the image events of chapter 7: loading, switching,
migration, export, the compat swap and the refetch of chunks. -/

namespace Sys2Proof.Machine

/-! ## Loading (R200 to R202) -/

/-- FOLIO_LOAD: takes effect when checks 1 to 9 pass, and completes with the load. -/
def execFolioLoad (h : Hdr) (slot source peerBar4 : Nat) (f : FolioHead) (s : State) : Out :=
  let bad := decide (2 ≤ slot) || decide (2 ≤ source) || (source == 1 && h.dataLen != 0)
  .next (runCommand s h opFolioLoad bad (fun s =>
    if (getSlot s slot).state ≠ .empty then refuse s h stWrongState
    else match headRefusal s (slotCapacity s.vellum.layout slot) f with
      | some r =>
        complete (putSlot s slot { refuse := r }) h (if r = 0x0E then 0x0502 else 0x0501) (loadResult r {}) []
      | none =>
        startLater (putSlot s slot {
          state := .loading, head := some f, copies := bSites.filter (siteTakes s),
          fromPeer := if source = 1 then some peerBar4 else none,
          pull := if source = 1 then some (f.generation, 0) else none, contentKey := openKey s f }) h opFolioLoad slot))

/-- A chunk of a load is at hand: one whose leaf matches is stored, one that does not is fetched
again, up to 3 times (R201). -/
def takeChunk (s : State) (slot chunk : Nat) (f : FolioHead) (data : List Byte) : State :=
  let v := getSlot s slot
  if f.sourceBytes < f.chunkBase + (chunk + 1) * 4194304 then endLoad s slot 0x0E
  else if f.tree[chunk]? = some (leafHash chunk data) then
    match storeChunk s slot chunk with
    | none => s
    | some s =>
      let v := getSlot s slot
      putSlot s slot { v with verified := v.verified ++ [chunk], tries := tput 0 v.tries chunk 0 }
  else
    let n := tget 0 v.tries chunk + 1
    if 4 ≤ n then endLoad s slot 0x08
    else putSlot s slot { v with tries := tput 0 v.tries chunk n, retries := v.retries + 1 }

/-- The bank of an export window that shows a chunk (R203). -/
def chunkBank (f : FolioHead) (chunk : Nat) : Nat := (f.chunkBase / 4194304 + chunk) / 16383

/-- Every chunk of a bank is read. -/
def bankRead (v : Slot) (f : FolioHead) (bank : Nat) : Bool :=
  (List.range f.chunkCount).all (fun c => chunkBank f c != bank || v.verified.contains c)

/-- CHUNK_ARRIVAL (R201, R205): before the first chunk of another bank, the puller waits for the current bank's reads, writes BANK, and
reads the descriptor again, with the GENERATION and BANK given: it reads on only if both hold. -/
def execChunkArrival (t slot chunk : Nat) (data : Met (List Byte) (Nat × Nat)) (s : State) : Out :=
  let s := advance s t
  let v := getSlot s slot
  .next (match v.head with
    | none => s
    | some f =>
      if slot < 2 ∧ v.state = .loading ∧ chunk < f.chunkCount ∧ v.verified.contains chunk = false then
        let b := chunkBank f chunk
        match v.pull with
        | none => takeChunk s slot chunk f data.val
        | some (g, cur) =>
          if b = cur then takeChunk s slot chunk f data.val
          else if bankRead v f cur = false then s
          else if data.met.1 ≠ g then endLoad s slot 0x0E
          else if data.met.2 ≠ b then s
          else takeChunk (putSlot s slot { v with pull := some (g, b) }) slot chunk f data.val
      else s)

/-- Free space of the lettering tables and stencils region, in units of 4 KiB (R184). -/
def stencilSpace (s : State) : Nat :=
  let tables (v : Slot) : Nat :=
    match v.body with
    | some b => ((b.sections.filter (fun x => x.type == 7)).map (fun x => (x.length + 4095) / 4096)).sum
    | none => 0
  let used (v : Slot) : Nat :=
    match v.body with
    | some b => (v.stencils.map (fun kv => stencilPages kv.2 b.lettering.vocab.length)).sum
    | none => 0
  s.vellum.layout.letteringGib * 262144 - (tables s.images.a + tables s.images.b + used s.images.a + used s.images.b)

/-- Units of 4 KiB of the lettering tables and stencils region that a Folio's own tables and stencils take (R184). -/
def folioPages (b : FolioBody) : Nat :=
  ((b.sections.filter (fun x => x.type == 7)).map (fun x => (x.length + 4095) / 4096)).sum +
    (b.stencils.map (fun x => stencilPages x.2 b.lettering.vocab.length)).sum

/-- FOLIO_LOAD_COMPLETE: every chunk is verified; checks 11 to 14 end, and the slot becomes READY, or is refused. A Folio whose tables
and stencils do not fit the region completes with TABLE_FULL (R184). A CO_PLACE Folio that fits beside the ACTIVE slot is made resident (R212). -/
def execFolioLoadComplete (t slot : Nat) (body : FolioBody) (s : State) : Out :=
  let s := advance s t
  let v := getSlot s slot
  .next (match v.head with
    | none => s
    | some f =>
      if slot < 2 ∧ v.state = .loading ∧ f.chunkCount ≤ v.verified.length ∧ v.missing.isEmpty then
        let held : Bool := match v.pull with | some (g, _) => body.generation == g | none => true
        match (if held then bodyRefusal s f body else some 0x0E) with
        | some r => endLoad s slot r
        | none =>
          if stencilSpace s < folioPages body then
            clearSlot (completeStarted s 0x0501 slot stTableFull (loadResult 0 v)) slot v.refuse
          else
          let stencils := body.stencils.foldl (fun t x => tins t x.1 x.2) []
          let v' := { v with
            state := .ready, body := some body, stencils := stencils, layers := initialLayers body [],
            inForce := (fitVariants s body).getD [], degraded := false, pull := none }
          coFill (completeStarted (putSlot s slot v') 0x0501 slot stSuccess (loadResult 0 v)) slot
      else s)

/-- FOLIO_UNLOAD (R224): completes once the granules are cleared; a load under way ends first with SOURCE_ERROR. -/
def execFolioUnload (h : Hdr) (slot : Nat) (s : State) : Out :=
  .next (runCommand s h opFolioUnload (decide (2 ≤ slot)) (fun s =>
    let v := getSlot s slot
    if v.state ≠ .ready ∧ v.state ≠ .loading then refuse s h stWrongState
    else
      let s := startLater s h opFolioUnload slot
      if isLoading v then endLoad s slot 0x0E else clearSlot s slot v.refuse))

/-! ## Switching (R207 to R216) -/

/-- IMAGE_SWITCH: a first activation completes when its fill ends; any other switch completes at once, and its
migration follows. A firmware handover that waits for the same boundary completes first (R223). -/
def execImageSwitch (h : Hdr) (slot : Nat) (s : State) : Out :=
  .next (runCommand s h opImageSwitch (decide (2 ≤ slot)) (fun s =>
    let v := getSlot s slot
    let o := getSlot s (1 - slot)
    if v.state ≠ .ready then refuse s h stWrongState
    else if s.fw.handover then s
    else if o.state = .draining ∨ o.state = .compat ∨ (o.state = .active ∧ o.permille < 1000) then refuse s h 0x0503
    else if o.state = .active then
      let s := putSlot s (1 - slot) { o with state := .draining }
      let s := activateSlot s slot
      let s := if v.permille = 1000 then s
        else
          let s := streamSlot (putSlot s slot { getSlot s slot with streaming := true }) slot
          { s with images := { s.images with switching := some (1 - slot, slot), migrating := false, migrated := [] } }
      let s := startDrains s
      done s h (switchResult s slot)
    else
      let s := activateSlot s slot
      let s := { s with images := { s.images with activating := some slot, lines := [] } }
      startLater s h opImageSwitch slot))

/-- FIRST_ACTIVATION_FILL (R202, R190): SRAM, cold copies and lettering tables are filled. A source failure ends it with
SOURCE_ERROR and clears the slot. The fill waits for missing chunks (R222). -/
def execFirstActivationFill (t : Nat) (sourceFailed : Bool) (s : State) : Out :=
  let s := advance s t
  .next (match s.images.activating with
    | none => s
    | some n =>
      if sourceFailed then
        let s := { s with images := { s.images with activating := none } }
        clearSlot (completeStarted s 0x0503 n 0x0502 0) n 0x0E
      else if sectionMissing (getSlot s n) [1, 5, 6, 7] then s
      else
        let s := match (getSlot s n).body with
          | some b => fillPlacement (setRoutes s n b) n
          | none => s
        let s := coFill { s with images := { s.images with activating := none } } (1 - n)
        completeStarted s 0x0503 n stSuccess (switchResult s n))

/-- Some session of the slot is held under DRAIN. -/
def drainHolds (s : State) (n : Nat) : Bool :=
  s.serving.sessions.any (fun kv => decide (kv.2.state ≠ .free) && kv.2.slot == n && heldByDrain s kv.2)

/-- MIGRATION_START (R210, R213): no turn of the old slot is left and DRAIN holds none of its sessions; the old slot's
half is freed on every island, and nothing of its residency counts as resident from then on (DEDUCED from R94 and R213, log entry 42). -/
def execMigrationStart (t : Nat) (s : State) : Out :=
  let s := advance s t
  .next (match s.images.switching with
    | none => s
    | some (old, new) =>
      if s.images.migrating || turnsOn s old != 0 || s.serving.steps.any (fun st => st.slot == old) || drainHolds s old ||
          sectionMissing (getSlot s new) [1, 5] then s
      else
        let s := dropHalves s old
        let s := match (getSlot s new).body with
          | some b => setRoutes s new b
          | none => s
        let s := putSlot s old { getSlot s old with permille := 0, filled := false }
        { s with images := { s.images with migrating := true, migrated := [] } })

/-- A free half of an island for a resident form, beside the slot's streaming form (R210). -/
def residentHalf (i : Island) (n : Nat) : Nat := if i.half0.map (·.1) = some n then 1 else 0

/-- The end of a migration: the new slot is resident, and the old one, should it still have sessions, stands in streaming form in the
half that migration has freed (R210, R213). Cartridges that failed meanwhile are emptied (R378). -/
def endMigration (s : State) (old new : Nat) (b : FolioBody) : State :=
  let s := nowResident { s with images := { s.images with switching := none, migrating := false, migrated := [] } } new
  let s := standInAll s new b
  let s := if sessionsOn s old = 0 then s else streamSlot (putSlot s old { getSlot s old with streaming := true }) old
  prepareAllFailed (coFill (notIdle s) old)

/-- MIGRATION_PART_DONE (R210, R213): an island's part is complete, in the order of writing, and at a boundary of its own steps it
changes to the resident form; with the last one the slot is resident. How often the engine's writes lost and won by force at the
cluster's memories (R81, R82) comes with the row and is counted (R96). -/
def execMigrationPartDone (t unit : Nat) (load : DmaLoad) (s : State) : Out :=
  let s := advance s t
  .next (match s.images.switching with
    | none => s
    | some (old, new) =>
      let v := getSlot s new
      match v.head, v.body with
      | some f, some b =>
        let live := (footprint b).filter (clusterGood s)
        if s.images.migrating && live.contains unit && !(s.images.migrated.contains unit) && partNext s b unit &&
            (getIsland s unit).desc.isNone && !(sectionMissing v [1, 5]) then
          let s := match b.clusters.find? (fun p => p.unit == unit) with
            | some p =>
              let hh := residentHalf (getIsland s unit) new
              let s := countLoad (fillCluster s new hh b p) unit 16 [] load
              putIsland s unit (putHalf (getIsland s unit) (1 - hh) none)
            | none => s
          let m := s.images.migrated ++ [unit]
          if live.all m.contains then endMigration s old new b
          else
            let s := putSlot s new { getSlot s new with permille := residentShare f b m }
            { s with images := { s.images with migrated := m } }
        else s
      | _, _ => s)

/-- SLOT_DRAINED (R198, R212): nothing is bound to the slot, and it is READY. What it holds of the clusters is released, and a CO_PLACE
footprint is then filled again, as that of any READY slot. -/
def execSlotDrained (t slot : Nat) (s : State) : Out :=
  let s := advance s t
  let v := getSlot s slot
  .next (if slot < 2 ∧ v.state = .draining ∧ turnsOn s slot = 0 ∧ sessionsOn s slot = 0 then
      let s := putSlot s slot { v with state := .ready }
      let migrates := match s.images.switching with | some (old, _) => old == slot | none => false
      if migrates then s
      else
        let s := dropHalves s slot
        coFill (putSlot s slot { getSlot s slot with permille := 0, filled := false, streaming := false }) slot
    else s)

/-! ## Export (R203 to R206) -/

/-- FOLIO_EXPORT. -/
def execFolioExport (h : Hdr) (slot peer : Nat) (s : State) : Out :=
  .next (runCommand s h opFolioExport (decide (2 ≤ slot) || decide (0xFFFF < peer)) (fun s =>
    let v := getSlot s slot
    match v.head with
    | none => refuse s h stWrongState
    | some f =>
      if v.state ≠ .ready ∧ v.state ≠ .active ∧ v.state ≠ .draining then refuse s h stWrongState
      else if s.link.exportEnable = false ∨ s.link.memSpace = false ∨ folioWrapped f ∨ v.degraded ∨
          s.images.exported.slot = some (1 - slot) then refuse s h 0x0504
      else
        let g := s.images.exported.count + 1
        let s := { s with images := { s.images with exported := {
          slot := some slot, peer := peer, generation := g, count := g, bank := 0 } } }
        done s h (g + 2 ^ 32 * fileFrames f)))

/-- FOLIO_EXPORT_END. -/
def execFolioExportEnd (h : Hdr) (s : State) : Out :=
  .next (runCommand s h opFolioExportEnd false (fun s =>
    if s.images.exported.slot.isNone then refuse s h stWrongState else done (endExport s) h 0))

/-! ## The compat swap (R218, R219) -/

/-- The leaves of some chunks in order (R194). -/
def leavesOf (chunks : List (List Byte)) : List Digest := chunks.zipIdx.map (fun x => leafHash x.2 x.1)

/-- COMPAT_SWAP: the new Folio passes every check, the slot becomes COMPAT, and the epoch is raised for every turn and
session on it. With the header come the chunks as they are streamed (check 10). -/
def execCompatSwap (h : Hdr) (f : Met FolioHead (List (List Byte))) (body : Met FolioBody (Nat × Nat)) (s : State) : Out :=
  let list := body.met
  let body := body.val
  let h := { h with dataBad := h.dataBad || decide (list.1 % 4 ≠ 0) || decide (list.2 % 16 ≠ 0) || decide (list.2 < 16) || decide (65536 < list.2) }
  .next (runCommand s h opCompatSwap false (fun s =>
    match (if s.images.a.state = .active then some 0 else if s.images.b.state = .active then some 1 else none) with
    | none => refuse s h stWrongState
    | some n =>
      let v := getSlot s n
      match v.head, v.body with
      | some g, some b =>
        let refuseFor (r : Nat) : State := complete s h (if r = 0x0E then 0x0502 else 0x0501) r []
        if (getSlot s (1 - n)).state = .draining ∨ timedUnfinished s = true then refuse s h 0x0503
        else match headRefusal s (slotCapacity s.vellum.layout n) f.val with
          | some r => refuseFor r
          | none =>
            if folioCompat f.val = false ∨ f.val.shapeId ≠ g.shapeId ∨ f.val.chunkCount ≠ g.chunkCount then refuseFor 0x10
            else if f.val.sourceBytes < f.val.chunkBase + f.val.chunkCount * 4194304 then refuseFor 0x0E
            else match (if leavesOf f.met = f.val.tree.take f.val.chunkCount then bodyRefusal s f.val body else some 0x08) with
              | some r => refuseFor r
              | none =>
                let e := s.images.epoch + 1
                let old := v.epoch
                let s := if s.images.exported.slot = some n then endExport s else s
                let s := putSlot s n { v with state := .compat, epoch := e }
                let s := { s with images := { s.images with
                  epoch := e, compat := some {
                    head := f.val, body := body, oldHead := g, oldBody := b, oldList := list, inForce := (fitVariants s body).getD [],
                    contentKey := openKey s f.val } } }
                let s := mapSessions s (fun _ x =>
                  if x.slot = n ∧ x.epoch = old ∧ x.state ≠ .free then
                    { x with epoch := e, turn := x.turn.map (fun t => if t.epoch = old then { t with epoch := e } else t) }
                  else x)
                let s := { s with serving := { s.serving with prefixes := s.serving.prefixes.map (fun kv =>
                  if kv.2.slot = n ∧ kv.2.epoch = old then (kv.1, { kv.2 with epoch := e }) else kv) } }
                startLater s h opCompatSwap n
      | _, _ => refuse s h stWrongState))

/-- The slot under a compat swap. -/
def compatSlot (s : State) : Nat := if s.images.a.state = .compat then 0 else 1

/-- Clusters that a part of a compat swap rewrites: a layer's, or the COMMON ones and those for PREFILL (part 64). -/
def compatPart (b : FolioBody) (part : Nat) : List ClusterPlan :=
  b.clusters.filter (fun c => match c.role with
    | .layer l => l == part
    | .common => part == 64
    | .prefill => part == 64
    | _ => false)

/-- Headroom that stands in for clusters of a part, with the clusters. -/
def partStandIns (b : FolioBody) (inForce : List Variant) (part : Nat) : List (Nat × Nat) :=
  let us := (compatPart b part).map (·.unit)
  (inForce.flatMap (fun w => w.covers.zip w.claims)).filter (fun x => us.contains x.1)

/-- Every cluster that a part of a swap rewrites. -/
def partUnits (b : FolioBody) (inForce : List Variant) (part : Nat) : List Nat :=
  (compatPart b part).map (·.unit) ++ (partStandIns b inForce part).map (·.2)

/-- An old-epoch step has yet to leave a cluster. -/
def oldEpochIn (s : State) (n : Nat) (units : List Nat) : Bool :=
  s.serving.steps.any (fun st => st.slot == n && st.epoch != (getSlot s n).epoch &&
    (stepPath s st).any (fun u => units.contains u && !(st.ended.contains u)))

/-- A cluster is rewritten in place: the head of a new-epoch step may have begun there, and its tail waits (R219). -/
def rewriteCluster (s : State) (n : Nat) (b : FolioBody) (c : ClusterPlan) : State :=
  if clusterGood s c.unit then
    writeSet (takePart s n b c) n c.unit c.unit ((halfOf (getIsland s c.unit) n).getD 0) b false
  else s

/-- Rewrites a part to an image, with the headroom that stands in. -/
def rewritePart (s : State) (n : Nat) (b : FolioBody) (inForce : List Variant) (part : Nat) : State :=
  let s := (compatPart b part).foldl (fun s c => rewriteCluster s n b c) s
  (partStandIns b inForce part).foldl (fun s x => moveTables s n b { covers := [x.1], claims := [x.2] }) s

/-- A layer's seat map and cold copies become those of the image that it now holds, at that image's initial residency (R219); its counts
stay. -/
def swapLayer (s : State) (n : Nat) (b : FolioBody) (l : Nat) : State :=
  match b.layers.find? (fun p => p.layer == l) with
  | none => s
  | some p =>
    let s := modLayer s n l (fun r =>
      let q := initialLayer p (r.experts.map (·.pin))
      { q with
        experts := (q.experts.zip r.experts).map (fun x => { x.1 with count := x.2.count, current := x.2.current }),
        window := r.window, missesPredicted := r.missesPredicted, missesLate := r.missesLate })
    match (initialAreas b).find? (fun a => a.layer == l) with
    | none => s
    | some a =>
      let v := getSlot s n
      let s := putSlot s n { v with areas := v.areas.filter (fun x => x.layer != l) ++ [a] }
      finishAreas (if siteTakes s a.site then s else moveAreas s n a.site) n

/-- The compat swap is undone (R219): the parts already changed go back to the old image. The module's epoch stays where the swap raised
it (DESIGN CHOICE: R219 does not say that it goes back, log entry 43). -/
def revertCompat (s : State) : State :=
  match s.images.compat with
  | none => s
  | some c =>
    let n := compatSlot s
    let s := { s with images := { s.images with compat := none } }
    let s := c.layersDone.foldl (fun s l => rewritePart (swapLayer s n c.oldBody l) n c.oldBody (getSlot s n).inForce l) s
    let s := putSlot s n { getSlot s n with state := .active }
    (s.fabric.islands.map (·.1)).foldl wakeIsland (prepareAllFailed (coFill s (1 - n)))

/-- The islands of a part go on: steps that waited at its barrier, and tails that waited in it. -/
def wakePart (s : State) (us : List Nat) : State :=
  us.foldl (fun s u => resume (drewFree (wakeIsland s u)) u (freeNow s).toNat) s

/-- COMPAT_LAYER_REWRITE (R219): the next layer, in order, is rewritten once the last old-epoch step has left it; part 64
is the COMMON clusters, and with it the swap ends. The barrier before a part that is rewritten is released. -/
def execCompatLayerRewrite (t layer : Nat) (sourceFailed : Bool) (s : State) : Out :=
  let s := advance s t
  .next (match s.images.compat with
    | none => s
    | some c =>
      let n := compatSlot s
      let v := getSlot s n
      let order := (c.body.layers.map (·.layer)) ++ [64]
      if order[c.layersDone.length]? = some layer then
        if sourceFailed then
          completeStarted (revertCompat s) 0x0508 n 0x0502 (0x0E + 2 ^ 32 * v.epoch)
        else if oldEpochIn s n (partUnits c.body c.inForce layer) || !(v.missing.isEmpty) then s
        else
          let s := { s with images := { s.images with compat := some { c with layersDone := c.layersDone ++ [layer] } } }
          let s := rewritePart (swapLayer s n c.body layer) n c.body c.inForce layer
          let us := partUnits c.body c.inForce layer
          if layer = 64 then
            let stencils := c.body.stencils.foldl (fun t x => tins t x.1 x.2) v.stencils
            let s := putSlot s n { getSlot s n with
              state := .active, head := some c.head, body := some c.body, contentKey := c.contentKey, residencyEpoch := v.residencyEpoch + 1,
              layers := initialLayers c.body (getSlot s n).layers, stencils := stencils, fromPeer := none, inForce := c.inForce }
            let s := placementLoaded (setRoutes { s with images := { s.images with compat := none } } n c.body)
            let s := prepareAllFailed (coFill (wakePart s us) (1 - n))
            completeStarted s 0x0508 n stSuccess (2 ^ 32 * v.epoch)
          else wakePart s us
      else s)

/-! ## Lost chunks (R220 to R222) -/

/-- Failed fetches of a chunk after which the next fetch fails too, or none when no source stands ready (R201, R220): a load goes on
from its own source. Otherwise the named peer comes first, for 4 fetches, never for a DEVICE_WRAPPED slot; then the confirmed host
ranges of the last FOLIO_LOAD or COMPAT_SWAP. -/
def nextTry (v : Slot) (chunk : Nat) : Option Nat :=
  let wrapped : Bool := match v.head with | some f => folioWrapped f | none => false
  let n := tget 0 v.tries chunk
  let host := v.hostConfirmed && v.fromPeer.isNone
  if v.state = .loading then (if n < 4 then some (n + 1) else none)
  else if v.peer.isSome ∧ wrapped = false then
    if n < 4 then some (n + 1) else if host ∧ n < 8 then some (n + 1) else none
  else if host ∧ n < 8 then some (max 4 n + 1)
  else none

/-- The chunk that is fetched next: in chunk order, among the missing chunks that a source can still deliver (R221). -/
def nextMissing (v : Slot) : Option Nat :=
  match v.missing.filter (fun c => (nextTry v c).isSome) with
  | [] => none
  | c :: l => some (l.foldl min c)

/-- CHUNK_REFETCH: a lost chunk arrives and is placed in a reserve; the fourth failure leaves it undelivered (R223). With the last
chunk, what waited for it goes on (R222). -/
def execChunkRefetch (t slot chunk : Nat) (data : List Byte) (s : State) : Out :=
  let s := advance s t
  let v := getSlot s slot
  .next (if slot < 2 ∧ nextMissing v = some chunk then
      if v.head.bind (fun f => f.tree[chunk]?) = some (leafHash chunk data) then
        match relocationSite s with
        | none => s
        | some d =>
          let v := { v with
            relocated := tins v.relocated chunk d, missing := v.missing.filter (fun c => c != chunk),
            refetched := v.refetched + 1, tries := tput 0 v.tries chunk 0 }
          let s := putSlot s slot { v with
            degraded := v.degraded && !v.missing.isEmpty, hostConfirmed := v.hostConfirmed && !v.missing.isEmpty }
          coFill (coFill (payOwed (finishAreas (wroteChunk s slot chunk) slot) slot) 0) 1
      else
        let n := (nextTry v chunk).getD 0
        putSlot s slot { v with tries := tput 0 v.tries chunk n, retries := if n % 4 = 0 then v.retries else v.retries + 1 }
    else s)

/-- REFETCH_TIMEOUT: 60 s without a chunk; the slot is DEGRADED, and its export ends. -/
def execRefetchTimeout (t slot : Nat) (s : State) : Out :=
  let s := advance s t
  let v := getSlot s slot
  .next (match v.missing with
    | [] => s
    | c :: _ =>
      if slot < 2 ∧ v.degraded = false ∧ v.missingAt + 60000000000 ≤ s.now then
        let s := note (putSlot s slot { v with degraded := true }) 0x0602 4 0xFFFF c slot
        if s.images.exported.slot = some slot then endExport s else s
      else s)

/-- REFETCH_SOURCE: a source that is named, or confirmed, is tried anew (log entry 43). -/
def execRefetchSource (h : Hdr) (slot kind peerBar4 : Nat) (s : State) : Out :=
  .next (runCommand s h opRefetchSource (decide (2 ≤ slot) || decide (3 ≤ kind)) (fun s =>
    let v := getSlot s slot
    let wrapped : Bool := match v.head with | some f => folioWrapped f | none => false
    if v.state = .empty ∨ (kind = 1 ∧ wrapped = true) then refuse s h stWrongState
    else done (putSlot s slot (match kind with
      | 0 => { v with peer := none }
      | 1 => { v with peer := some peerBar4, tries := [] }
      | _ => { v with hostConfirmed := true, tries := v.tries.map (fun x => (x.1, min x.2 4)) })) h 0))

/-! ## Mode, pins and stencils (R122, R168, R184) -/

/-- ARITH_MODE_SET: binds at a step boundary, which stands at once while no step is in flight. -/
def execArithModeSet (h : Hdr) (slot mode : Nat) (s : State) : Out :=
  .next (runCommand s h opArithModeSet (decide (2 ≤ slot) || decide (2 ≤ mode)) (fun s =>
    let v := getSlot s slot
    let lists : Bool := match v.head with | some f => folioReference f | none => false
    let timed := s.serving.sessions.any (fun kv => match kv.2.turn with | some t => t.timed && t.slot == slot | none => false)
    if v.state = .empty ∨ v.state = .loading then refuse s h stWrongState
    else if (mode = 1 ∧ lists = false) ∨ timed = true then refuse s h 0x0508
    else
      let m := mode == 1
      let v := if s.serving.steps.isEmpty then { v with reference := m, modeFrom := none }
        else { v with modeFrom := some (s.serving.nextStep, m) }
      done (putSlot s slot v) h (2 ^ 64 * s.serving.nextStep)))

/-- EXPERT_PIN: at most as many hot pins as the placement has hot experts, and 40 cold pins. -/
def execExpertPin (h : Hdr) (slot layer expert pin : Nat) (s : State) : Out :=
  let v := getSlot s slot
  let there := v.layers.any (fun r => r.layer == layer && decide (expert < r.experts.length))
  let known := decide (v.state = .ready) || decide (v.state = .active)
  let bad := decide (2 ≤ slot) || decide (64 ≤ layer) || decide (128 ≤ expert) || decide (3 ≤ pin) || (known && !there)
  .next (runCommand s h opExpertPin bad (fun s =>
    match v.layers.find? (fun r => r.layer == layer) with
    | none => refuse s h stWrongState
    | some r =>
      let others (p : Nat) : Nat := (r.experts.zipIdx.filter (fun x => x.1.pin == p && x.2 != expert)).length
      let hot := (r.experts.filter (·.hot)).length
      if known = false then refuse s h stWrongState
      else if (pin = 1 ∧ hot ≤ others 1) ∨ (pin = 2 ∧ 40 ≤ others 2) then refuse s h 0x0507
      else
        let set (x : Expert × Nat) : Expert := if x.2 = expert then { x.1 with pin := pin } else x.1
        done (modLayer s slot layer (fun r => { r with experts := r.experts.zipIdx.map set })) h 0))

/-- STENCIL_LOAD: loads, replaces or removes a stencil of the slot. -/
def execStencilLoad (h : Hdr) (slot id : Nat) (stencil : Option Stencil) (s : State) : Out :=
  .next (runCommand s h opStencilLoad (decide (2 ≤ slot) || decide (1024 ≤ id)) (fun s =>
    let v := getSlot s slot
    match v.body with
    | none => refuse s h stWrongState
    | some b =>
      let old := v.stencils.find? (fun kv => kv.1 == id)
      let named := old.isSome && s.serving.sessions.any (fun kv => match kv.2.turn with
        | some t => t.ops.stencil == id && (if admitted t then t.slot == slot else bindSlot s kv.2 == some slot)
        | none => false)
      let without := v.stencils.filter (fun kv => kv.1 != id)
      let free := stencilSpace s + (match old with | some kv => stencilPages kv.2 b.lettering.vocab.length | none => 0)
      match stencil with
      | none => if named then refuse s h stWrongState else done (putSlot s slot { v with stencils := without }) h 0
      | some st =>
        if stencilOk b.lettering st = false then refuse s h 0x0509
        else if named then refuse s h stWrongState
        else if free < stencilPages st b.lettering.vocab.length then refuse s h stTableFull
        else done (putSlot s slot { v with stencils := tins without id st }) h st.states.length))

/-! ## Adapters (R170, R171, R217, R338) -/

/-- Bytes that a tensor converts to: its element rows and its scale bytes. -/
def convertedBytes (t : TensorIn) : Nat :=
  let blocks := (t.count + 15) / 16
  let per := blocksPerRow t.target
  (blocks + per - 1) / per * 64 + (if t.target = .bf16 then 0 else blocks)

/-- An adapter image that the port accepts (R112, R338, R452). -/
def adapterOk (a : AdapterImage) : Bool :=
  a.magicOk && a.headsOk &&
    a.tensors.all (fun t => decide (t.tensor < 1024) && decide (t.layer < 64) && mxTarget t.src t.target && fillerZero t &&
      decide (srcBytes t.src t.count ≤ t.bytes.length)) &&
    (List.range 64).all (fun l => decide (((a.tensors.filter (fun t => t.layer == l)).map convertedBytes).sum ≤ 524288)) &&
    decide ((a.tensors.map convertedBytes).sum ≤ 33554432)

/-- The site for a tenant's next version, and its runs there (R170): a second version goes to the site that holds the first. -/
def adapterSite (s : State) (tenant n : Nat) : Option (Nat × List (Nat × Nat)) :=
  match (getTenant s tenant).versions.find? (·.present) with
  | some w => (storeRoom s w.site n).map (fun l => (w.site, l))
  | none => (rotate (tenant % 32) qSites).findSome? (fun d => (storeRoom s d n).map (fun l => (d, l)))

/-- What the store holds of an adapter: for each of its layers in turn, the layer's converted tensors in the image's order, rows and
then scales, filled up to whole units (R112). -/
def adapterLayers (a : AdapterImage) : List (Nat × List Byte) :=
  let ls := (List.range 64).filter (fun l => a.tensors.any (fun t => t.layer == l))
  ls.map (fun l =>
    let b := (a.tensors.filter (fun t => t.layer == l)).flatMap (fun t => let c := convertTensor t; c.1 ++ c.2.1)
    (l, b ++ List.replicate ((64 - b.length % 64) % 64) 0#8))

/-- ADAPTER_LOAD: takes effect with the first write to the store. The port converts each tensor, and the converted bytes go into the
store of the version's site (R112, R170); the conversion counts become health records with a STEP of all ones (R114, R115). A version
that was absent is loaded again under its number (log entry 42). -/
def execAdapterLoad (h : Hdr) (tenant : Nat) (image : AdapterImage) (s : State) : Out :=
  let bad := decide (0xFFFF < tenant) || !(adapterOk image)
  .next (runCommand s h opAdapterLoad bad (fun s =>
    let t := getTenant s tenant
    let layers := adapterLayers image
    let kept := t.versions.filter (·.present)
    let lost := t.versions.find? (fun w => !w.present && w.modelId == image.modelId)
    if t.registered = false then refuse s h 0x0302
    else if 2 ≤ kept.length then refuse s h 0x0505
    else match adapterSite s tenant ((layers.map (fun x => x.2.length / 64)).sum) with
      | none => refuse s h 0x0505
      | some (d, runs) =>
        let idx := match lost with
          | some w => w.index
          | none => if kept.any (fun w => w.index == 0) then 1 else 0
        let w : AdapterVer := {
          index := idx, modelId := image.modelId, bytes := (image.tensors.map convertedBytes).sum, site := d, loading := true,
          extents := runs, layers := layers.map (fun x => (x.1, x.2.length / 64)),
          epochs := match lost with | some w => w.epochs | none => [] }
        let s := putTenant s tenant { t with versions := t.versions.filter (fun w => w.index != idx) ++ [w] }
        let s := writeRuns s d runs (layers.flatMap (·.2))
        let ids := (image.tensors.map (·.tensor)).eraseDups
        let s := ids.foldl (fun s x =>
          let c := sumCounts ((image.tensors.filter (fun y => y.tensor == x)).map (fun y => (convertTensor y).2.2))
          if c = {} then s else testTensor s (2 ^ 64 - 1) x c) s
        startLater s h opAdapterLoad tenant))

/-- ADAPTER_LOAD_DONE: the version is stored. An uncorrectable store, or a lost site, has left it absent. -/
def execAdapterLoadDone (t tenant : Nat) (s : State) : Out :=
  let s := advance s t
  let v := getTenant s tenant
  .next (match v.versions.find? (·.loading) with
    | none => s
    | some w =>
      let s := putTenant s tenant { v with versions := v.versions.map (fun x => if x.index = w.index then { x with loading := false } else x) }
      completeStarted s 0x0506 tenant stSuccess w.index)

/-- ADAPTER_SWAP: the version becomes current at the tenant's next adapter epoch; DRAIN partitions hold their sessions. A version that
is absent may be named (DESIGN CHOICE: R217 does not say that it may not, log entry 43). -/
def execAdapterSwap (h : Hdr) (tenant version : Nat) (s : State) : Out :=
  .next (runCommand s h opAdapterSwap (decide (0xFFFF < tenant)) (fun s =>
    let t := getTenant s tenant
    if t.registered = false then refuse s h 0x0302
    else if t.versions.any (fun w => w.index == version && !w.loading) = false then refuse s h 0x0506
    else
      let e := (t.adapterEpoch + 1) % 65536
      let p := getPartition s t.partition
      let t := { t with
        current := some version, adapterEpoch := e,
        adapterDrain := if p.drain then some (s.now + p.drainTimeout * 1000000000) else none,
        versions := t.versions.map (fun w => if w.index = version then { w with epochs := w.epochs ++ [e] } else w) }
      done (releaseOld (putTenant s tenant t) tenant) h e))

/-- ADAPTER_PIN: pins or unpins the tenant's cache line; at most 32. -/
def execAdapterPin (h : Hdr) (tenant : Nat) (pin : Bool) (s : State) : Out :=
  .next (runCommand s h opAdapterPin (decide (0xFFFF < tenant)) (fun s =>
    let t := getTenant s tenant
    let pinned := (s.serving.tenants.filter (fun kv => kv.2.pinned && kv.1 != tenant)).length
    if t.registered = false then refuse s h 0x0302
    else if pin && decide (32 ≤ pinned) then refuse s h 0x0507
    else done (putTenant s tenant { t with pinned := pin }) h 0))

/-- ADAPTER_UNLOAD: frees a version that is neither current nor bound. -/
def execAdapterUnload (h : Hdr) (tenant version : Nat) (s : State) : Out :=
  .next (runCommand s h opAdapterUnload (decide (0xFFFF < tenant)) (fun s =>
    let t := getTenant s tenant
    match t.versions.find? (fun w => w.index == version) with
    | none => refuse s h 0x0506
    | some w =>
      if t.current = some version ∨ versionBound s tenant w = true ∨ w.loading then refuse s h stWrongState
      else done (dropVersion s tenant version) h 0))

end Sys2Proof.Machine
end

