-- ==== Sys2Proof/Machine/ResetOps.lean ====
section
/-! DEFINITION. Shared operations of resets and of start-up (chapter 16, R97, R225, R257, R376, R413, R420): the loss of
everything volatile, the clearing of the clusters, the refill of the slots, and the report of stop records. -/

namespace Sys2Proof.Machine

/-! ## The volatile state (R20, R30, R427) -/

/-- A cartridge whose rails are off. -/
def dropPower (c : Cartridge) : Cartridge := { c with lamp := .off, powered := false }

/-- Everything volatile is lost, vellum included. What is left: the NVM, the flash banks, the seal state, the cartridges
with their phase records, the feeds, the inputs and the latched straps. FAULT_N and THERMTRIP_N are released. -/
def loseAll (s : State) (phase : Phase) : State :=
  let b := s.board
  { pending := s.pending, now := s.now, free := s.free, nvm := s.nvm,
    fw := { primary := s.fw.primary, recovery := s.fw.recovery },
    trust := { isUnsealed := s.trust.isUnsealed, stageOne := s.trust.stageOne },
    board := {
      modEn := b.modEn, phase := phase, fellAt := b.fellAt, roseAt := b.roseAt, outputsHeld := b.outputsHeld,
      straps := b.straps, flowOk := b.flowOk, perstHigh := b.perstHigh, refclk := b.refclk, feedA := b.feedA, feedB := b.feedB,
      cartridges := tmap {} (fun _ c => dropPower c) b.cartridges, stopAt := b.stopAt } }

/-- FAULT_N held by the housekeeping controller. -/
def holdFault (s : State) (v : Bool) : State := { s with board := { s.board with faultHold := v } }

def setPhase (s : State) (p : Phase) : State := { s with board := { s.board with phase := p } }

/-- A stop record of a housekeeping sample (R36): at most one is written for a sample. -/
def stopOnce (s : State) (type also : Nat) : State :=
  if s.board.stopAt = some s.now then s
  else
    let s := writeStop s type also
    { s with board := { s.board with stopAt := some s.now } }

/-- A feed that brings a voltage, whether it is in use or not (R16, R418). -/
def feedPresent (f : Feed) : Bool := f.inUse || decide (f.volts ≠ 0)

/-- Some feed is in use (R28). -/
def feedOn (s : State) : Bool := s.board.feedA.inUse || s.board.feedB.inUse

/-- Step 1 of R417: the housekeeping controller takes the outputs, and the sequence waits for the straps. FAULT_N is asserted from
the first while FLOW_LOSS_N reads low (R25). -/
def beginStart (s : State) : State :=
  { s with board := { s.board with
      phase := .straps, outputsHeld := true, faultHold := !s.board.flowOk, thermtrip := false, feedWaited := false } }

/-! ## Clusters (R97, R68) -/

/-- The network and every cluster as R97 and R68 leave them: clocks stopped, memories, tables and counters zero, and nothing resident
(R199). What self-test found of clusters and sublinks stands, and regions retired since the last cold reset stay retired (R95). The
network and memory counters are zero on every path here, SHED and a partial thermal shutdown among them (DESIGN CHOICE: R67 and R96
name a cold and an admin reset only, and R97 says nothing of counters, log entry 40). -/
def clearFabric (s : State) : State :=
  let islands := tmap {} (fun _ i => ({ fenced := i.fenced, dark := i.dark, parked := i.parked } : Island)) s.fabric.islands
  let edges := tmap {} (fun _ e => ({ bad := e.bad } : Edge)) s.fabric.edges
  let regions := tmap {} (fun _ r => ({ retired := r.retired } : RegionInfo)) s.fabric.regions
  { s with fabric := { islands := islands, edges := edges, regions := regions },
           vellum := { s.vellum with prefetch := [] },
           images := { s.images with
             lines := [], a := { s.images.a with permille := 0 }, b := { s.images.b with permille := 0 } } }

/-- Steps in flight are abandoned, with the counts they had. -/
def abandonSteps (s : State) : State :=
  let prefixes := tmap {} (fun _ x => ({ x with step := none } : Pfx)) s.serving.prefixes
  freeWaiting { s with serving := { s.serving with steps := [], counting := [], prefixes := prefixes, drafts := [], draftPages := [] } }

/-- Clears of memory that a reset of the clusters has done already. -/
def sramClear (k : ClearKind) : Bool :=
  match k with
  | .scratch _ => true
  | .adapterLine _ => true
  | _ => false

def dropSramClears (s : State) : State :=
  { s with serving := { s.serving with clears := s.serving.clears.filter (fun k => !(sramClear k)) } }

/-! ## Slots (R190, R225) -/

/-- Losses that self-test has found among the clusters that a live slot needs. -/
def coverNew (s : State) (n : Nat) : State :=
  let v := getSlot s n
  match v.body with
  | none => s
  | some b =>
    let held := v.inForce.flatMap (·.covers)
    let used (u : Nat) : Bool := (needsCover (baseRole b u) && !(held.contains u)) || (v.inForce.flatMap (·.claims)).contains u
    let lost := (b.clusters.map (·.unit)).filter (fun u => !(clusterGood s u) && used u)
    lost.foldl (fun s u => coverSlot s n u [u]) s

/-- A slot that was being loaded, or cleared, is EMPTY. -/
def emptyLoading (s : State) (n : Nat) : State :=
  let v := getSlot s n
  if v.state = .loading then
    let s := putSlot s n { refuse := if v.head.isSome then 0 else v.refuse }
    { s with serving := { s.serving with clears := s.serving.clears.filter (fun k => decide (k ≠ .slot n)) } }
  else s

/-- A switch in progress completes as if it had finished migrating (R225). -/
def finishSwitch (s : State) : State :=
  match s.images.switching with
  | none => s
  | some (old, new) =>
    let s := putSlot s old { getSlot s old with permille := 0, filled := false }
    let s := putSlot s new { getSlot s new with filled := true, streaming := false }
    let parts := tmap {} (fun _ p => ({ p with drainUntil := none } : Partition)) s.serving.partitions
    { s with images := { s.images with switching := none, migrating := false, migrated := [] },
             serving := { s.serving with partitions := parts } }

/-- A first activation whose fill was under way is filled with the rest. -/
def finishFill (s : State) : State :=
  match s.images.activating with
  | none => s
  | some n =>
    let s := putSlot s n { getSlot s n with filled := true, streaming := false }
    { s with images := { s.images with activating := none } }

/-- A slot's header, colophon and tree are verified again, by checks 1 to 9, from a copy of a B-die site; a slot that fails is cleared
(R225). -/
def verifySlot (s : State) (n : Nat) : State :=
  let v := getSlot s n
  match v.head with
  | none => s
  | some f =>
    match (if v.copies.isEmpty then some 0x01 else headRefusal s (slotCapacity s.vellum.layout n) f) with
    | some r => clearSlot s n r
    | none => s

/-! ## Sessions (R257) -/

/-- A park that was interrupted is completed: the session is PARKED (R257). One that a turn had cut short takes slots for its other pages;
where the area has too few by now, it is undone (DESIGN CHOICE, log entry 44). -/
def settlePark (s : State) (id : Nat) : State :=
  let v := getSession s id
  let p := getPartition s v.partition
  let slots := v.outbound ++ freeParkSlots p (v.pages.length - v.outbound.length)
  if v.state ≠ .parking then s
  else if slots.length < v.pages.length then
    let s := v.pages.foldl (fun s q => if (getPage s q.2).state = .outbound then putPage s q.2 { getPage s q.2 with state := .live } else s) s
    modSession (releaseSlots s v.partition v.outbound) id (fun v => { v with state := .unparking, outbound := [] })
  else
    let s := putPartition s v.partition { p with parkUsed := p.parkUsed ++ slots.drop v.outbound.length }
    let s := (v.pages.zip slots).foldl (fun s x =>
      let ver := s.serving.parkVersion + 1
      let p := x.1.2
      let e := parkedPage s id p x.1.1 x.2 ver
      let s := freePage (countPark { s with serving := { s.serving with parkVersion := ver } } p) p
      modSession s id (fun v => { v with parked := v.parked ++ [e] })) s
    modSession s id (fun v => { v with state := .parked, pages := [], outbound := [], lastUse := stamp s })

/-- An unpark that was interrupted is completed: the session is IDLE. -/
def settleUnpark (s : State) (id : Nat) : State :=
  let v := getSession s id
  if v.state = .unparking then
    let s := v.parked.foldl (fun s e =>
      let before := (getSession s id).pages.length
      let s := giveSessionPage s id e.logical
      let w := getSession s id
      if w.pages.length = before then s
      else
        let s := match w.pages.getLast? with
          | some q => restorePage s q.2 e
          | none => s
        let s := releaseSlots s w.partition [e.slot]
        modSession s id (fun v => { v with parked := v.parked.filter (fun x => decide (x ≠ e)) })) s
    modSession s id (fun v => if v.parked.isEmpty then { v with state := .idle } else v)
  else s

def settleSessions (s : State) : State :=
  let s := (sessionIds s (fun v => decide (v.state = .parking))).foldl settlePark s
  (sessionIds s (fun v => decide (v.state = .unparking))).foldl settleUnpark s

/-! ## Governor (R390, R393, R396) -/

/-- A starts at the wake step of 7,000 W. -/
def wakeStep (s : State) : State := { s with power := { s.power with allowance := 7000, rampedAt := s.now } }

/-- The governor's state after a reset that keeps its settings: ACTIVE, at the 1.0 GHz bin, with the accepted cap bound. -/
def resetGovernor (s : State) : State :=
  let pairs := tmap {} (fun _ p => ({ a := p.a, b := p.b, failedA := p.failedA, failedB := p.failedB } : Pair)) s.thermal.pairs
  { s with
      power := { s.power with
        state := .active, descending := false, moved := 0, idleSince := none, point := 6, boundCap := s.power.hostCap,
        capPending := false, capBefore := none, tolDue := none, retiring := [], inrushSkip := [] },
      thermal := { s.thermal with pairs := pairs } }

/-! ## Stop records (R413) -/

/-- Every stop record whose mark is clear is copied into the blotter, and marked. -/
def reportStops (s : State) : State :=
  let due := s.nvm.stopRecords.filter (fun r => !r.reported)
  let s := due.foldl writeStopEntry s
  { s with nvm := { s.nvm with stopRecords := s.nvm.stopRecords.map (fun r => { r with reported := true }) } }

/-- A strap warning is reported at the first start at which the scribe runs (R22), with the straps of that start (DESIGN CHOICE: R430
does not say whether the byte is that of the start that was warned of, log entry 21). -/
def reportStraps (s : State) : State :=
  if s.nvm.strapWarning then
    note { s with nvm := { s.nvm with strapWarning := false } } 0x0704 2 0xFFFF (strapsByte s) 0
  else s

/-! ## Cartridges (R31, R377, R378) -/

/-- The lamp of a powered cartridge. -/
def usedLamp (c : Cartridge) : Lamp := if 1 ≤ c.phasesLost then .amberFlash else .off

/-- The rails of a present cartridge rise. -/
def raiseCart (s : State) (c : Nat) : State :=
  let v := getCart s c
  putCart s c (if v.present then { v with powered := true, lamp := usedLamp v } else { v with powered := false, lamp := .off })

/-! ## The end of a compat swap and of a handover -/

/-- A handover that is pending, or a compat swap under way, ends with a status: the staged image and the old Folio stay. -/
def abandonHandover (s : State) : State :=
  if s.fw.handover then completeStarted { s with fw := { s.fw with handover := false, pldm := false } } 0x0105 0 stBusy 0 else s

end Sys2Proof.Machine
end

