-- ==== Sys2Proof/Machine/TrustOps.lean ====
section
/-! DEFINITION. Shared operations of trust (chapter 13): the measurement registers and their log (R354, R355), the
verification of images (R352, R353), and the Sealed partitions' state that an opening destroys (R349, R351). -/

namespace Sys2Proof.Machine

/-! ## Measurement -/

/-- `n` bytes that the module makes with keys, or draws: a kind, and which making of that kind. -/
def keyBytes (kind gen n : Nat) : List Byte := (List.range n).map (Config.signedByte (kind + 16 * gen))

/-- The certificate chain of an identity key (R356): as the NVM holds it, or as the module was made (log entry 4). -/
def chainBytes (s : State) (key : Nat) : List Byte :=
  match s.nvm.chains with
  | some c => if key = 0 then c.1 else c.2
  | none => keyBytes key 0 (Config.chainLength key)

/-- A register extended with a digest, and its log entry: entry 4,095 says that the log is full, and no entry follows it. -/
def extend (s : State) (register kind version svn : Nat) (digest : Digest) : State :=
  let t := s.trust
  let old := t.registers.getD register 0
  let new := Config.sha384 (leBytes 48 old.toNat ++ leBytes 48 digest.toNat)
  let n := t.log.length
  let e : LogEntry := {
    index := n, register := register, kind := if n = 4095 then 10 else kind, version := version, svn := svn, digest := digest }
  { s with trust := { t with
      registers := t.registers.set register new, log := if 4096 ≤ n then t.log else t.log ++ [e],
      logFull := t.logFull || decide (4095 ≤ n) } }

/-! ## The root and what is derived from it (R345, R346) -/

/-- The root from its two inputs and the helper data. -/
def deriveRoot (helper : List Byte) (r : RootIn) : BitVec 256 :=
  hkdf32 (leBytes 32 r.mesh.toNat) (Config.pufResponse r.puf helper) "ghk root"

/-- The root just derived passes the check value in the NVM. -/
def rootOk (s : State) (r : RootIn) : Bool := Config.rootCheck (deriveRoot s.nvm.helper r) == s.nvm.rootCheck

/-- A key derived from the root. -/
def fromRoot (root : BitVec 256) (info : String) : BitVec 256 := hkdf32 [] (leBytes 32 root.toNat) info

/-- The root stands in its register, and the wrap keys and the key-store wrap key are derived from it. -/
def holdRoot (t : Trust) (root : BitVec 256) : Trust :=
  { t with root := some root, storeKey := some (fromRoot root "ghk store"),
           keyStore := some { wrapKem := fromRoot root "ghk wrap kem", wrapEc := fromRoot root "ghk wrap ec" } }

/-- The root register, the key-store wrap key and the key store are zeroised. -/
def dropRoot (t : Trust) : Trust := { t with root := none, storeKey := none, keyStore := none, storeCopy := none }

/-! ## Images -/

/-- Both signatures verify, and the security version is at the floor or above. -/
def imageOk (s : State) (i : FwImage) : Bool := i.rsaOk && i.slhOk && decide (s.nvm.svnFloor ≤ i.svn)

/-- A flash bank that boots: stage 1 and the three runtime images verify. -/
def bankOk (s : State) (b : FlashBank) : Bool :=
  imageOk s b.stage1 && imageOk s b.scribe && imageOk s b.governor && imageOk s b.housekeeping

/-- The SVN floor after an image has booted from a cold start. -/
def raiseFloor (s : State) (i : FwImage) : State :=
  if i.raiseFloor then { s with nvm := { s.nvm with svnFloor := max s.nvm.svnFloor i.svn } } else s

/-- Digest of the boot configuration: straps, bank booted, SVN floor, seal state (R354). -/
def configDigest (s : State) (recovery : Bool) : Digest :=
  Config.sha384 (leBytes 1 (strapsByte s) ++ leBytes 1 (bit recovery) ++ leBytes 1 s.nvm.svnFloor ++ leBytes 1 (bit s.trust.isUnsealed))

/-- Measurements of a boot, in the order of steps 4 and 5 of R417. -/
def measureBoot (s : State) (rom : Digest) (b : FlashBank) (recovery : Bool) : State :=
  let s := extend s 0 1 0 0 rom
  let s := extend s 1 2 b.stage1.version b.stage1.svn b.stage1.digest
  let s := extend s 5 6 0 0 (configDigest s recovery)
  let s := extend s 2 3 b.scribe.version b.scribe.svn b.scribe.digest
  let s := extend s 3 4 b.governor.version b.governor.svn b.governor.digest
  extend s 4 5 b.housekeeping.version b.housekeeping.svn b.housekeeping.digest

/-! ## Sealed partitions -/

/-- Partitions with SEALED = 1. -/
def sealedPartitions (s : State) : List Nat := (List.range 16).filter (fun p => (getPartition s p).isSealed)

/-- Every Sealed turn ends with FAULT: its END is the only record written for it (R351). -/
def endSealedTurn (s : State) (id : Nat) : State :=
  let v := getSession s id
  match v.turn with
  | none => s
  | some t =>
    let s := unqueue (discardRows s (.session id)) v.tenant (.turn id)
    let q := getQueue s t.func t.qp
    let s := putQueue s t.func t.qp { q with holding := q.holding.filter (fun x => x.1 != id) }
    let s := modTurn s id (fun t => { t with
      ending := some 0x0E, due := [.fin 0x0E], held := [], stopHeld := [], reserved := 0, proposals := [] })
    pumpAll 1 s id

/-- A Sealed session is zeroised and closed: its keys, its seed and its history go first, so that nothing of them is written again. A park or
unpark of it completes with UNSEALED (R351). -/
def zeroSession (s : State) (id : Nat) : State :=
  let s := completeStarted (completeStarted s 0x0306 id 0x0701 0) 0x0307 id 0x0701 0
  let s := modSession s id (fun v => { v with
    keySets := 0, seed := 0, history := [], extents := [], promptIv := none, keys := {}, oldKeys := {}, oldPromptIv := none })
  let s := endSealedTurn s id
  finishClose (modSession s id (fun v => { v with state := .closing })) id

/-- A Sealed partition's sessions, prefixes, adapters and keys are gone, and its unfinished commands complete with UNSEALED; the partition
stays configured. -/
def zeroPartition (s : State) (n : Nat) : State :=
  let s := (sessionIds s (fun v => decide (v.state ≠ .free) && v.partition == n)).foldl zeroSession s
  let pf := (s.serving.prefixes.filter (fun kv => kv.2.partition == n && decide (kv.2.state ≠ .free))).map (·.1)
  let s := pf.foldl (fun s x => completeStarted
    (releasePfx (unqueue (discardRows s (.pfx x)) (getPfx s x).tenant (.pfx x)) x) 0x0308 x 0x0701 0) s
  let ts := (s.serving.tenants.filter (fun kv => kv.2.registered && kv.2.partition == n)).map (·.1)
  let s := ts.foldl (fun s t => completeStarted (releaseAdapters s t) 0x0302 t 0x0701 0) s
  let p := getPartition s n
  putPartition s n { p with parkKey := 0, historyKey := 0, keyGen := p.keyGen + 1 }

/-- A row of a Sealed partition. -/
def rowSealed (s : State) (r : StepRow) : Bool := (getPartition s r.partition).isSealed

/-- The steps in flight go on without their Sealed rows (R351), and what those held back is released. -/
def dropSealedRows (s : State) : State :=
  let gone := s.serving.steps.flatMap (fun st => rowSessions { st with rows := st.rows.filter (rowSealed s) })
  let steps := s.serving.steps.map (fun st =>
    let rows := st.rows.filter (fun r => !(rowSealed s r))
    ({ st with rows := rows, pages := (rows.map (·.pages)).foldl max 0 } : Step))
  freeWaiting (gone.foldl finishClose { s with serving := { s.serving with steps := steps } })

/-- A slot that holds a DEVICE_WRAPPED Folio, or takes one by a compat swap. -/
def wrappedSlot (s : State) (n : Nat) : Bool :=
  (match (getSlot s n).head with
  | some f => folioWrapped f
  | none => false) ||
    (match s.images.compat with
    | some c => decide ((getSlot s n).state = .compat) && folioWrapped c.head
    | none => false)

/-- The SRAM copy of a slot is cleared, and the steps that ran it leave flight (R349, R351). -/
def zeroCopy (s : State) (n : Nat) : State :=
  let held := (s.fabric.islands.filter (fun kv => kv.2.half0.map (·.1) = some n || kv.2.half1.map (·.1) = some n)).map (·.1)
  let s := (s.serving.steps.filter (fun st => st.slot == n)).foldl (fun s st =>
    leaveFlight (dropFrames (dropPfxRows s st.num) (stepPath s st) st.num) st) s
  held.foldl clearCluster (dropHalves s n)

/-- A DEVICE_WRAPPED slot is EMPTY: a load of it ends with SOURCE_ERROR (R223, R375). -/
def zeroSlot (s : State) (n : Nat) : State :=
  if wrappedSlot s n then
    let v := getSlot s n
    let s := if v.state = .loading then completeStarted s 0x0501 n 0x0502 (loadResult 0x0E v) else s
    let s := if s.images.exported.slot = some n then endExport s else s
    let s := if s.images.activating = some n then
        completeStarted { s with images := { s.images with activating := none } } 0x0503 n 0x0502 0
      else s
    let s := if v.state = .compat then completeStarted { s with images := { s.images with compat := none } } 0x0508 n 0x0502 0x0E
      else s
    let hit := match s.images.switching with | some (a, b) => a == n || b == n | none => false
    let s := if hit then { s with images := { s.images with switching := none, migrating := false, migrated := [] } } else s
    let s := endTurns s (fun v => match v.turn with | some t => admitted t && t.slot == n | none => false) 0x0E
    putSlot (zeroCopy s n) n { refuse := if v.state = .loading then 0x0E else v.refuse }
  else s

end Sys2Proof.Machine
end

