-- ==== Sys2Proof/Machine/Startup.lean ====
section
/-! DEFINITION. The meanings of the board and start-up rows: MOD_EN, straps, flow, feeds (chapter 1) and the steps of a cold
start (chapter 16). -/

namespace Sys2Proof.Machine

/-! ## MOD_EN (R16, R20) -/

/-- The rise of MOD_EN as the power board sees it: the sequence begins, or waits for the discharge timer until 1 s after
the fall. -/
def startFromRise (s : State) : State :=
  let s := { s with board := { s.board with roseAt := s.now } }
  match s.board.fellAt with
  | some f => if s.now < f + 1000000000 then setPhase s .discharge else beginStart s
  | none => beginStart s

/-- A voltage that a feed brings without being in use. -/
def feedLevel (f : Feed) (volts : Nat) : Feed := if f.inUse then f else { f with volts := volts }

/-- MOD_EN_RISE, with the voltages of the two feeds. With both absent the module stays unpowered and drives nothing (R16): it
starts when a feed comes into use. -/
def execModEnRise (t : Met Nat (Nat × Nat)) (s : State) : Out :=
  let s := advance s t.val
  .next (if s.board.modEn then s
    else
      let s := { s with board := { s.board with
        modEn := true, roseAt := s.now, feedA := feedLevel s.board.feedA t.met.1, feedB := feedLevel s.board.feedB t.met.2 } }
      if feedPresent s.board.feedA || feedPresent s.board.feedB then startFromRise s else s)

/-- DISCHARGE_DELAY_END: 1 s after the fall. -/
def execDischargeDelayEnd (t : Nat) (s : State) : Out :=
  let s := advance s t
  .next (match s.board.fellAt with
    | some f => if s.board.phase = .discharge ∧ f + 1000000000 ≤ s.now then beginStart s else s
    | none => s)

/-- The module after MOD_EN has fallen: nothing powered, no output driven. A feed that was lost loses its mark with the outputs
(DESIGN CHOICE: R29 holds ATTN_N until the lost feed returns, and no rule says whether the mark outlasts a fall of MOD_EN, log
entry 24). -/
def powerDown (s : State) : State :=
  let s := loseAll s .dark
  { s with board := { s.board with
      modEn := false, outputsHeld := false, fellAt := some s.now,
      feedA := { s.board.feedA with lost := false }, feedB := { s.board.feedB with lost := false } } }

/-- MOD_READY has risen since the cold start, and service has not ended for good. -/
def afterReady (s : State) : Bool :=
  match s.board.phase with
  | .serving => true
  | .resetting => true
  | .partialShutdown => true
  | _ => false

/-- A record that another event of the sample writes is written before the fall (R36); a flow loss writes one only after
MOD_READY (R25, R428). A thermal event that no flow loss makes total has the type of its hottest unit. -/
def recordBeforeFall (s : State) (also : SameSample) : State :=
  let bits := alsoBits { also with modEnFell := true }
  if s.board.outputsHeld = false then s
  else if also.bothFeeds then stopOnce s 4 (alsoBits { also with modEnFell := true, feedA := false, feedB := false })
  else if also.flowLoss && afterReady s then stopOnce s 3 (bits - 1)
  else if also.thermal then
    let partly : Bool := afterReady s && (match hottest s with | some u => isCluster u | none => false)
    stopOnce s (if partly then 1 else 2) (bits - 2)
  else s

/-- MOD_EN_FALL: the cold reset. -/
def execModEnFall (t : Nat) (also : SameSample) (s : State) : Out :=
  let s := advance s t
  .next (if s.board.modEn then powerDown (recordBeforeFall s also) else s)

/-! ## Straps (R21, R22) -/

/-- STRAP_SAMPLE: three samples that agree are latched; disagreement is a strap fault. -/
def execStrapSample (t s4 s5 s6 : Nat) (s : State) : Out :=
  let s := advance s t
  .next (if s.board.phase = .straps then
      if s4 = s5 ∧ s5 = s6 then
        let s := { s with
          board := { s.board with straps := BitVec.ofNat 6 s4, phase := .waiting, faultHold := !s.board.flowOk },
          nvm := { s.nvm with strapWarning := s.nvm.strapWarning || decide (s4 % 4 = 3) } }
        s
      else
        let s := { s with nvm := { s.nvm with strapFaults := s.nvm.strapFaults + 1 } }
        holdFault (setPhase (stopOnce s 5 0) .strapFault) true
    else s)

/-! ## Flow (R25, R428) -/

/-- FLOW_LOSS: before MOD_READY the rails drop and the sequence waits; after it, service ends with a stop record. A thermal
shutdown of the same sample makes it total (R36, R416): before MOD_READY the start is refused with a record of type 2 (R415),
since a flow loss has no record there (R25), unless the loss of both feeds in that sample writes its own. The rails that the loss of
the S-die has left up drop as in service. -/
def execFlowLoss (t : Nat) (also : SameSample) (s : State) : Out :=
  let s := advance s t
  let low (s : State) : State := { s with board := { s.board with flowOk := false } }
  let stopped (s : State) : State :=
    let trip := s.board.thermtrip || also.thermal
    let s := holdFault (loseAll (low s) .stopped) true
    { s with board := { s.board with thermtrip := trip } }
  let refused (s : State) : State :=
    stopped (if also.thermal && !also.bothFeeds then stopOnce s 2 (alsoBits { also with flowLoss := true, thermal := false }) else s)
  let wait (s : State) : State := if also.thermal then refused s else holdFault (loseAll (low s) .waiting) true
  let stop (s : State) : State :=
    stopped (if also.bothFeeds then s else stopOnce s 3 (alsoBits { also with flowLoss := false }))
  .next (match s.board.phase with
    | .straps => holdFault (low s) true
    | .waiting => holdFault (low s) true
    | .rails => wait s
    | .booted => wait s
    | .tested => wait s
    | .recoveryHold => wait s
    | .refused => refused s
    | .serving => stop s
    | .resetting => stop s
    | .partialShutdown => stop s
    | .stopped => if s.board.railsUp then stop s else low s
    | _ => low s)

/-- FLOW_RESTORED: FLOW_LOSS_N has read high for 1 s; the start goes on from step 3. -/
def execFlowRestored (t : Nat) (s : State) : Out :=
  let s := advance s t
  let s := { s with board := { s.board with flowOk := true } }
  .next (match s.board.phase with
    | .straps => holdFault s false
    | .waiting => holdFault s s.board.feedWaited
    | _ => s)

/-! ## Feeds (R28 to R30, R418) -/

def getFeed (s : State) (i : Nat) : Feed := if i = 0 then s.board.feedA else s.board.feedB
def putFeed (s : State) (i : Nat) (f : Feed) : State :=
  { s with board := if i = 0 then { s.board with feedA := f } else { s.board with feedB := f } }

/-- A feed whose condition holds the feed warning: lost, or in use below 48.0 V. -/
def feedBad (f : Feed) : Bool := f.lost || (f.inUse && decide (f.volts < 4800))

/-- The feed warning ends when neither feed holds it. -/
def judgeFeeds (s : State) : State :=
  if feedBad s.board.feedA || feedBad s.board.feedB then s else endWarning s 3 0xFFFF

/-- The governor's feed warning with its FEED entry, while the governor runs. -/
def warnFeed (s : State) (feed volts : Nat) : State :=
  if governorRuns s then note (warn s 3 0xFFFF) 0x0307 2 0xFFFF feed volts else s

/-- Feeds that hold the feed warning are warned of when the governor starts (R28, R29). -/
def warnFeeds (s : State) : State :=
  let one (s : State) (i : Nat) : State := if feedBad (getFeed s i) then warnFeed s i (getFeed s i).volts else s
  one (one s 0) 1

/-- Phases that cartridges report lost at a start (R377, R378): each is written, and warned of. -/
def reportPhases (s : State) : State :=
  s.board.cartridges.foldl (fun s kv =>
    if kv.2.present = true ∧ 1 ≤ kv.2.phasesLost then note (warn s 4 0xFFFF) 0x0301 2 0xFFFF kv.1 kv.2.phasesLost else s) s

/-- FEED_IN_USE: 1 s within 48.0 to 58.0 V. It ends a feed's loss; it ends the wait of step 2; after the loss of both feeds
the module starts as from a rising MOD_EN. It does so from a stop, a refused start or a strap fault too (DESIGN CHOICE: R30 starts the
module on the return of power with MOD_EN high, while R25, R407 and R420 let only a fall of MOD_EN leave those states, log entry 24). -/
def execFeedInUse (t feed volts : Nat) (s : State) : Out :=
  let s := advance s t
  .next (if decide (feed < 2) && decide (4800 ≤ volts) && decide (volts ≤ 5800) then
      let s := judgeFeeds (putFeed s feed { volts := volts, inUse := true })
      if s.board.modEn = true ∧ s.board.phase = .dark then startFromRise s
      else if s.board.phase = .waiting ∧ s.board.feedWaited = true then
        { s with board := { s.board with feedWaited := false, faultHold := !s.board.flowOk } }
      else s
    else s)

/-- Both feeds have stopped being in use: a power-loss record, and everything volatile is lost. -/
def powerLoss (s : State) (also : SameSample) : State :=
  let s := if s.board.outputsHeld then stopOnce s 4 (alsoBits { also with feedA := false, feedB := false }) else s
  let s := loseAll s .dark
  { s with board := { s.board with
      outputsHeld := false, feedA := { s.board.feedA with lost := false, inUse := false },
      feedB := { s.board.feedB with lost := false, inUse := false } } }

/-- FEED_LOST: below 46.0 V or above 60.0 V, the feed stops being in use. The other feed carries the load, with a feed warning and
ATTN_N, or there is none. A feed counts as lost only when it stops being in use while the outputs are held: one that was never
connected, or that went while MOD_EN was low, does not (DESIGN CHOICE: R29 speaks of a feed that stops being in use, and the worked
table of R36 has ATTN_N low when the module serves on feed B alone, log entry 24). -/
def execFeedLost (t feed volts : Nat) (also : SameSample) (s : State) : Out :=
  let s := advance s t
  .next (if decide (feed < 2) && (getFeed s feed).inUse && (decide (volts < 4600) || decide (6000 < volts)) then
      let s := putFeed s feed { volts := volts, lost := s.board.outputsHeld }
      if s.board.modEn && (also.bothFeeds || !(feedOn s)) then powerLoss s also
      else warnFeed s feed volts
    else s)

/-- FEED_WARNING: a feed in use between 46.0 and 48.0 V. -/
def execFeedWarning (t feed volts : Nat) (s : State) : Out :=
  let s := advance s t
  .next (if decide (feed < 2) && (getFeed s feed).inUse && decide (4600 ≤ volts) && decide (volts < 4800) then
      warnFeed (putFeed s feed { getFeed s feed with volts := volts }) feed volts
    else s)

/-- FEED_WAIT_TIMEOUT: 10 s after MOD_EN with no feed in use: FAULT_N and a power-loss record, and step 2 keeps waiting. -/
def execFeedWaitTimeout (t : Nat) (s : State) : Out :=
  let s := advance s t
  .next (if s.board.phase = .waiting ∧ feedOn s = false ∧ s.board.feedWaited = false ∧ s.board.roseAt + 10000000000 ≤ s.now then
      let s := stopOnce s 4 0
      { s with board := { s.board with feedWaited := true, faultHold := true } }
    else s)

/-! ## Rails and boot (R417, R345, R352, R353) -/

/-- RAIL_WAVES: step 3, once flow is there and a feed is in use. -/
def execRailWaves (t : Nat) (s : State) : Out :=
  let s := advance s t
  .next (if s.board.phase = .waiting ∧ s.board.flowOk = true ∧ feedOn s = true then
      let s := { s with board := { s.board with
        phase := .rails, faultHold := false, feedWaited := false, railsUp := true, computeRails := true } }
      (List.range 20).foldl raiseCart s
    else s)

/-- Steps 4 and 5 with a bank that verifies: measurements, the runtime firmware, the port and the reports of what lies behind. -/
def bootFrom (s : State) (rom : Digest) (b : FlashBank) (recovery : Bool) : State :=
  let s := measureBoot s rom b recovery
  let s := [b.stage1, b.scribe, b.governor, b.housekeeping].foldl raiseFloor s
  let s := { s with
    board := { s.board with phase := .booted, faultHold := false },
    fw := { s.fw with running := b.scribe.version },
    trust := { s.trust with recoveryBank := recovery } }
  let s := reportPhases (warnFeeds (reportStraps (reportStops s)))
  if s.board.perstHigh && s.board.refclk then trainLink s else s

/-- The bank that BOOT_SEL selects, if one boots; a primary bank that fails falls back to the recovery bank (R352). -/
def pickBank (s : State) (primary recovery : FlashBank) : Option (FlashBank × Bool) :=
  match s.board.straps.toNat % 4 with
  | 0 => if bankOk s primary then some (primary, false) else if bankOk s recovery then some (recovery, true) else none
  | 1 => if bankOk s recovery then some (recovery, true) else none
  | _ => none

/-- The stop records as the NVM reads back: some have bits that are wrong, by their SEQ (R413). -/
def damageStops (s : State) (bad : List (Nat × Nat)) : State :=
  { s with nvm := { s.nvm with
      stopRecords := s.nvm.stopRecords.map (fun r => { r with flip := r.flip ^^^ ((bad.find? (fun x => x.1 == r.seq)).map (·.2)).getD 0 }) } }

/-- BOOT, with whether REFCLK runs and what has become of the stop records: the root is derived, the mesh monitor armed, and stage 1 verified; with no bank that boots, the recovery hold. -/
def execBoot (t : Met Nat (Bool × List (Nat × Nat))) (root : RootIn) (rom : Digest) (primary recovery : FlashBank) (s : State) : Out :=
  let s := advance s t.val
  .next (if s.board.phase = .rails then
      let s := damageStops s t.met.2
      let ok := rootOk s root
      let whole := ok && !s.trust.isUnsealed
      let held := whole || (ok && s.trust.stageOne)
      let tr := if held then holdRoot s.trust (deriveRoot s.nvm.helper root) else dropRoot s.trust
      let s := { s with
        trust := { tr with isUnsealed := !whole, meshArmed := true, stageOne := held && s.trust.stageOne, rom := rom },
        board := { s.board with refclk := t.met.1 },
        fw := { s.fw with primary := primary.scribe.version, recovery := recovery.scribe.version } }
      match pickBank s primary recovery with
      | some (b, rec) => bootFrom s rom b rec
      | none => holdFault (setPhase s .recoveryHold) true
    else s)

/-! ## Self-test (R420) -/

/-- The failed sensors of the NVM are applied. -/
def markSensors (s : State) : State :=
  s.nvm.failedSensors.foldl (fun s k =>
    let p := getPair s (k / 2)
    putPair s (k / 2) (if k % 2 = 0 then { p with failedA := true } else { p with failedB := true })) s

/-- LDO segments that self-test found failed, beside those of the NVM. -/
def foundSegments (s : State) (x : Nat × Nat) : State :=
  let old := tget 0 s.nvm.segments x.1
  if x.2 ≤ old then s
  else
    note { s with nvm := { s.nvm with segments := tput 0 s.nvm.segments x.1 x.2 } } 0x0303 (if 3 ≤ x.2 then 4 else 2) x.1 0 x.2

/-- A cluster as self-test leaves it: fenced when it fails or its ceiling is below the guarantee bin, dark with three failed
segments, parked with two (R380, R381, R440, R441). -/
def judgeCluster (failed : List Nat) (s : State) (u : Nat) : State :=
  let seg := tget 0 s.nvm.segments u
  putIsland s u { getIsland s u with
    fenced := failed.contains u || decide (2 ≤ tget 0 s.nvm.ceilings u), dark := decide (3 ≤ seg), parked := decide (seg = 2) }

/-- Edge links with at least 4 good sublinks (R421). -/
def countUsableLinks (s : State) : Nat :=
  ((List.range 40).flatMap (fun d => [(d, 1), (d, 2)])).countP (fun x => decide (goodSublinks s x.1 x.2 ≠ 0))

/-- What self-test found of clusters and sublinks. -/
def applySelfTest (s : State) (r : SelfTestResult) : State :=
  let s := r.badSegments.foldl foundSegments (markSensors s)
  let edges := r.badSublinks.foldl (fun t x =>
    tmod ({} : Edge) t x.1 (fun e => { e with bad := e.bad ||| BitVec.ofNat 16 x.2 })) s.fabric.edges
  let s := { s with fabric := { s.fabric with edges := edges } }
  let us := ((s.fabric.islands.map (·.1)) ++ r.failedClusters ++ (s.nvm.segments.map (·.1)) ++ (s.nvm.ceilings.map (·.1))).eraseDups
  let s := (us.filter isCluster).foldl (judgeCluster r.failedClusters) s
  { s with map := { s.map with
      goodClusters := countGoodClusters s, goodSites := countGoodSites s, refused := false, cause := 0, ms := r.ms,
      usableLinks := countUsableLinks s, changes := 0, mapTime := 0 } }

/-- A refused start: a fatal entry that names the cause, and FAULT_N. -/
def refuseStart (s : State) (cause : Nat) : State :=
  let s := { s with map := { s.map with refused := true, cause := cause } }
  note (setPhase s .refused) 0x0701 6 0xFFFF 0 cause

/-- Dies without rails: their cartridge is absent or failed. The S-die's own cartridge refuses the start instead. -/
def darkAtStart (s : State) : List Nat :=
  (List.range 40).filter (fun d => d != sDie && (!((getCart s (d / 2)).present) || cartFailed (getCart s (d / 2))))

/-- The dies of failed cartridges come to the start without work and without rails: their lamps show amber steady (R32, R378). Cartridge
8 cannot be prepared. -/
def restFailed (s : State) : State :=
  (List.range 20).foldl (fun s c =>
    let v := getCart s c
    if c != 8 && v.present && cartFailed v then putCart s c { v with lamp := .amber, powered := false } else s) s

/-- REFUSE_CAUSE of R421 for what self-test found. -/
def refuseCause (s : State) (r : SelfTestResult) : Nat :=
  if r.failedBlocks.isEmpty = false then 1
  else if goodSublinks s sDie 0 = 0 ∧ goodSublinks s sDie 1 = 0 ∧ goodSublinks s sDie 2 = 0 then 3
  else if (getCart s 8).present = false then 4
  else 0

/-- The end of an admin reset (R426 steps 5 to 7): the slots serve again, sessions are settled, and MOD_READY rises. -/
def endAdminReset (s : State) (r : SelfTestResult) : State :=
  let s := finishFill (finishSwitch (applySelfTest s r))
  let s := settleSessions (reloadSlots (coverNew (coverNew (verifySlot (verifySlot s 0) 1) 0) 1))
  let s := endRrs (wakeStep s)
  prepareAllFailed
    { s with board := { s.board with phase := .serving, modReady := true }, thermal := { s.thermal with coolingCap := 18500 } }

/-- SELF_TEST: step 6 of a cold start, or of an admin reset. -/
def execSelfTest (t : Nat) (r : SelfTestResult) (s : State) : Out :=
  let s := advance s t
  .next (match s.board.phase with
    | .booted =>
      let s := restFailed { s with map := { s.map with darkDies := darkAtStart s, badBlocks := r.failedBlocks } }
      let s := applySelfTest s r
      let c := refuseCause s r
      if c = 0 then setPhase s .tested else refuseStart s c
    | .resetting => endAdminReset s r
    | _ => s)

/-! ## Vellum training (R147, R428) -/

/-- A channel of the site has two failed arrays: it cannot correct, and the site is not used (R135). -/
def channelsDead (s : State) (d : Nat) : Bool :=
  let l := tget [] s.nvm.failedArrays d
  (List.range 16).any (fun c => decide (2 ≤ (l.filter (fun a => a / 8 == c)).length))

/-- VELLUM_TRAINING: steps 7 to 9: every unit zero, every page FREE, or RETIRED where the NVM says that it was given
up (R134), the layout of the NVM, and MOD_READY. A site that the NVM's failed arrays leave unable to correct stays lost (R135). -/
def execVellumTraining (t : Nat) (failedSites : List Nat) (s : State) : Out :=
  let s := advance s t
  .next (if s.board.phase = .tested then
      if failedSites.contains sDie || channelsDead s sDie then refuseStart s 2
      else
        let l := s.nvm.layout.getD {}
        let out := ((failedSites ++ s.map.darkDies).filter (fun d => decide (d < 40))).eraseDups
        let pages := (s.nvm.retiredPages.filter (fun p => decide (p < l.kvPages))).foldl
          (fun t p => tput {} t p ({ state := .retired } : Page)) []
        let dead := (List.range 40).filter (channelsDead s)
        let sites := (dead.foldl (fun t d => tput {} t d ({ lost := true } : Site)) [])
        let sites := out.foldl (fun t d => tput {} t d ({ untrained := true } : Site)) sites
        let s := { s with vellum := { layout := l, pages := pages, sites := sites } }
        let s := { s with
          map := { s.map with goodSites := countGoodSites s },
          board := { s.board with trained := true, phase := .serving, modReady := true } }
        prepareAllFailed (wakeStep s)
    else s)

end Sys2Proof.Machine
end

