-- ==== Sys2Proof/Machine/Admin.lean ====
section
/-! DEFINITION. The meanings of the admin family (R329) and of the firmware rows (R252, R445, R446). -/

namespace Sys2Proof.Machine

/-- IDENTIFY. -/
def execIdentify (h : Hdr) (s : State) : Out :=
  .next (runCommand s h opIdentify false (fun s =>
    complete s h stSuccess (s.fw.running % 2 ^ 32 + 2 ^ 32 * (bit s.trust.isUnsealed + 2 * bit (pinModReady s)))
      (fitEntries 256 h.dataLen (identityPage s))))

/-! ## ADMIN_RESET (R426) -/

/-- The mailbox layer after an admin reset (R324): every queue pair and BAR0 at its reset values, every binding dropped. The
entries that stand in the admin completion ring stay in host memory, the command's own completion among them. -/
def resetMailbox (s : State) : State :=
  let cq := (getQueue s 0 0).cq
  let s := { s with mailbox := {} }
  let s := (List.range 17).foldl (fun s f => resetFn s f false) s
  putQueue s 0 0 { getQueue s 0 0 with cq := cq }

/-- The counters of a site at zero; its state stands (R146, R148). -/
def resetSite (v : Site) : Site :=
  { lost := v.lost, untrained := v.untrained, emptied := v.emptied, writeBacks := v.writeBacks,
    copying := v.copying, heavy := v.heavy, arrayUnits := v.arrayUnits }

/-- Adapter versions of a tenant whose load was under way are gone. -/
def dropLoading (s : State) (tenant : Nat) : State :=
  let v := getTenant s tenant
  releaseStore (putTenant s tenant { v with versions := v.versions.filter (fun w => !w.loading) }) tenant (v.versions.filter (·.loading))

/-- A slot serves in normal mode again (R122). -/
def normalMode (v : Slot) : Slot := { v with reference := false, modeFrom := none }

/-- Steps 1 to 4 of R426 with HALT = 0: turns end with RESET, every cluster is cleared, the vellum, the slots' images, the
settings, the measurement registers, the staged image and the blotter stay. -/
def resetModule (s : State) : State :=
  let s := dropTurns s (fun _ => true)
  let s := abandonSteps s
  let s := emptyLoading (emptyLoading (revertCompat s) 0) 1
  let s := endExport s
  let s := dropSramClears (clearFabric s)
  let s := resetGovernor (resetMailbox s)
  let s := (s.serving.tenants.map (·.1)).foldl dropLoading s
  let sites := tmap {} (fun _ v => resetSite v) s.vellum.sites
  { s with
    serving := { s.serving with health := [], lettering := {} },
    images := { s.images with a := normalMode s.images.a, b := normalMode s.images.b },
    vellum := { s.vellum with sites := sites },
    link := { s.link with rrs := true, eventCause := 0, exportEnable := false },
    fw := { s.fw with staging := none, handover := false, pldm := false },
    board := { s.board with modReady := false, preparing := [] } }

/-- Where an admin reset leads: back to self-test, at step 6 of a start that had not ended; a refused start and a partial
shutdown are left only as R420 and R414 say. -/
def resetPhase (p : Phase) : Phase :=
  match p with
  | .serving => .resetting
  | .booted => .booted
  | .tested => .booted
  | p => p

/-- With HALT = 1 everything volatile is lost, and the module stays halted until MOD_EN falls. -/
def haltModule (s : State) : State :=
  let cq := (getQueue s 0 0).cq
  let s := loseAll s .halted
  putQueue s 0 0 { getQueue s 0 0 with cq := cq }

/-- ADMIN_RESET: its completion is written first. -/
def execAdminReset (h : Hdr) (halt : Bool) (s : State) : Out :=
  .next (runCommand s h opAdminReset false (fun s =>
    let s := done s h 0
    if halt then haltModule s else setPhase (resetModule s) (resetPhase s.board.phase)))

/-! ## VELLUM_LAYOUT (R137, R331) -/

/-- The chunk capacity of a slot share in bytes is 4 GB to 240 GB. -/
def slotShareOk (g : Nat) : Bool :=
  decide (4000000000 ≤ 39 * (g / 2) * 4194304) && decide (39 * (g / 2) * 4194304 ≤ 240000000000)

/-- The first limit of R137 that a layout breaks: 1 to 6 in table order, or 7. -/
def layoutBreak (l : Layout) : Option Nat :=
  if l.kvPages < 32768 ∨ 524288 < l.kvPages ∨ l.kvPages % 32 ≠ 0 then some 1
  else if slotShareOk l.slotA = false ∨ slotShareOk l.slotB = false then some 2
  else if 256 < l.adapterGib then some 3
  else if l.letteringGib < 2 ∨ 32 < l.letteringGib then some 4
  else if l.bdieSystem < 1024 then some 5
  else if reserveGranules l 0 < 64 then some 6
  else if siteGranules < sharesSum (siteShares l 17) then some 7
  else none

/-- VELLUM_LAYOUT: accepted while no slot holds a Folio and no session is open. -/
def execVellumLayout (h : Hdr) (dflt : Bool) (l : Layout) (s : State) : Out :=
  .next (runCommand s h opVellumLayout (dflt && h.dataLen != 0) (fun s =>
    if s.images.a.state ≠ .empty ∨ s.images.b.state ≠ .empty ∨
        s.serving.sessions.any (fun kv => decide (kv.2.state ≠ .free)) = true then refuse s h stWrongState
    else
      let l := if dflt then {} else l
      match layoutBreak l with
      | some n => complete s h 0x0101 n []
      | none =>
        done { s with nvm := { s.nvm with layout := if dflt then none else some l }, vellum := { s.vellum with layout := l } } h 0))

/-! ## Firmware (R352, R353, R445) -/

/-- FW_STAGE: verified, then written to staging. One image is written at a time. -/
def execFwStage (h : Hdr) (image : FwImage) (s : State) : Out :=
  .next (runCommand s h opFwStage false (fun s =>
    if s.fw.pldm then refuse s h stBusy
    else if imageOk s image = false then refuse s h 0x0102
    else if s.fw.staging.isSome then s
    else startLater { s with fw := { s.fw with staging := some image } } h opFwStage 0))

/-- FW_STAGE_DONE: the image stands in staging, in place of one that has not been handed over. -/
def execFwStageDone (t : Nat) (s : State) : Out :=
  let s := advance s t
  .next (match s.fw.staging with
    | some i => completeStarted { s with fw := { s.fw with staging := none, staged := some i } } 0x0104 0 stSuccess (i.version % 2 ^ 32)
    | none => s)

/-- FW_HANDOVER: waits for a step boundary that R252 allows. -/
def execFwHandover (h : Hdr) (s : State) : Out :=
  .next (runCommand s h opFwHandover false (fun s =>
    match s.fw.staged with
    | none => refuse s h 0x0103
    | some _ =>
      if s.fw.handover ∨ s.fw.pldm then refuse s h stBusy
      else startLater { s with fw := { s.fw with handover := true } } h opFwHandover 0))

/-- An unfinished Timed turn has crossed a handover since its T_acc. -/
def crossedAlready (s : State) : Bool :=
  s.serving.sessions.any (fun kv => match kv.2.turn with
    | some t => t.timed && t.crossedHandover
    | none => false)

/-- Every unfinished Timed turn has now met its pause. -/
def markCrossed (s : State) : State :=
  mapSessions s (fun _ v => { v with turn := v.turn.map (fun t => { t with crossedHandover := t.crossedHandover || t.timed }) })

/-- HANDOVER_EXECUTE (R445 steps 1 to 5): at a boundary at which no Timed turn has crossed one already, the new image runs,
register 7 is extended, and the primary bank is rewritten. -/
def execHandoverExecute (t : Nat) (s : State) : Out :=
  let s := advance s t
  .next (match s.fw.staged with
    | some i =>
      if s.fw.handover && governorRuns s && !(crossedAlready s) then
        let s := extend (markCrossed s) 7 9 i.version i.svn i.digest
        let s := { s with fw := { s.fw with running := i.version, primary := i.version, staged := none, handover := false, pldm := false } }
        completeStarted s 0x0105 0 stSuccess (i.version % 2 ^ 32)
      else s
    | none => s)

/-- HANDOVER_TIMEOUT (R446): the old image resumes, FW_ABANDONED is written, and the staged image is kept. -/
def execHandoverTimeout (t : Nat) (s : State) : Out :=
  let s := advance s t
  .next (match s.fw.staged with
    | some i =>
      if s.fw.handover && governorRuns s && !(crossedAlready s) then
        let s := note (markCrossed s) 0x0703 2 0xFFFF 0 i.version
        completeStarted { s with fw := { s.fw with handover := false, pldm := false } } 0x0105 0 stBusy 0
      else s
    | none => s)

/-! ## FAULT_ACK (R434) -/

/-- The lowest INDEX of an ACTIVE fatal entry. -/
def oldestActive (s : State) : Option Nat :=
  (s.blotter.reserve.filter (·.active)).foldl (fun m e => match m with
    | some x => some (min x e.index)
    | none => some e.index) none

/-- FAULT_ACK: refused while a fatal condition persists; else the reserve goes to the general ring, and FAULT_N is released. -/
def execFaultAck (h : Hdr) (s : State) : Out :=
  .next (runCommand s h opFaultAck false (fun s =>
    match oldestActive s with
    | some x => complete s h stWrongState x []
    | none =>
      let b := s.blotter
      done { s with blotter := { b with ring := keepRing (b.ring ++ b.reserve), reserve := [] } } h 0xFFFFFFFF))

end Sys2Proof.Machine
end

