-- ==== Sys2Proof/Machine/Carts.lean ====
section
/-! DEFINITION. The exchange of a converter cartridge (R31 to R34, R378, R447): the commands that empty and restore its two dies,
and the rows of the cartridges, phases and die supplies (R377, R442). -/

namespace Sys2Proof.Machine

/-! ## Emptying two dies (R447) -/

/-- Milliseconds since a started command took effect. -/
def msSince (s : State) (opcode arg : Nat) : Nat :=
  match findStarted s opcode arg with
  | some f => (s.now - f.startedAt) / 1000000
  | none => 0

/-- CARTRIDGE_PREPARE: waits, without effect, while migration or a compat swap runs. -/
def execCartridgePrepare (h : Hdr) (cartridge : Nat) (s : State) : Out :=
  .next (runCommand s h opCartridgePrepare (decide (20 ≤ cartridge)) (fun s =>
    if imagesMoving s then s
    else if fitsWithout s cartridge = false then refuse s h 0x0604
    else if s.board.preparing.contains cartridge then startLater s h opCartridgePrepare cartridge
    else startPrepare (startLater s h opCartridgePrepare cartridge) cartridge))

/-- CARTRIDGE_PREPARE_DONE: both sites hold nothing, their rails go off, and the command completes. -/
def execCartridgePrepareDone (t cartridge : Nat) (s : State) : Out :=
  let s := advance s t
  .next (if s.board.preparing.contains cartridge ∧ pagesLeft s cartridge = false then
      let s := darkenPair s cartridge
      completeStarted s 0x0606 cartridge stSuccess (msSince s 0x0606 cartridge)
    else s)

/-- Variants that covered only units that are good again are released, and their base roles are refilled, seats as the seat map in force has
them. -/
def releasePair (s : State) (c n : Nat) : State :=
  let v := getSlot s n
  match v.body with
  | none => s
  | some b =>
    if slotLive v then
      let back (w : Variant) : Bool := w.covers.any (cartClusters c).contains && w.covers.all (clusterGood s)
      let gone := v.inForce.filter back
      let s := putSlot s n { v with inForce := v.inForce.filter (fun w => !(back w)), noVariant := false }
      let units := (gone.flatMap (·.covers)) ++ (gone.flatMap (·.claims)) ++ cartClusters c
      let s := (b.clusters.filter (fun p => units.contains p.unit)).foldl (fun s p =>
        let i := getIsland s p.unit
        if v.streaming then placeSet (startClusters s n { b with clusters := [p] }) n p.unit p.unit (idleHalf i n) b true
        else fillCluster s n (idleHalf i n) b p) s
      if v.streaming then s else refillSeats s n units.contains
    else s

/-- A preparation ends without amber steady (R450): its variant is released, and its sites take content again. -/
def abandonPrepare (s : State) (c : Nat) : State :=
  let s := (cartDies c).foldl (fun s d => modSite s d (fun v => { v with emptied := false })) s
  let s := { s with board := { s.board with preparing := s.board.preparing.filter (fun x => x != c) } }
  completeStarted (releasePair (releasePair s c 0) c 1) 0x0606 c 0x0604 0

/-! ## Restoring two dies (R447 steps 6 and 7) -/

/-- The clusters of a cartridge's dies come up under R383: those that three failed segments keep dark do not. -/
def inrushPair (s : State) (c : Nat) : State :=
  ((cartClusters c).filter (fun u => decide (tget 0 s.nvm.segments u < 3))).foldl startInrush s

/-- CARTRIDGE_RESTORE: the dies of a green cartridge are powered and tested; it completes later. -/
def execCartridgeRestore (h : Hdr) (cartridge : Nat) (s : State) : Out :=
  .next (runCommand s h opCartridgeRestore (decide (20 ≤ cartridge)) (fun s =>
    if (getCart s cartridge).lamp ≠ .green then refuse s h stWrongState
    else startLater (inrushPair (putCart s cartridge { getCart s cartridge with powered := true }) cartridge) h opCartridgeRestore cartridge))

/-- The B-die sites among some dies hold a copy of a slot's header, colophon and tree again, from another copy (R197). -/
def copyBack (s : State) (n : Nat) (dies : List Nat) : State :=
  let v := getSlot s n
  if v.copies.isEmpty then s else putSlot s n { v with copies := v.copies ++ dies.filter bSites.contains }

/-- CARTRIDGE_RESTORE_DONE: self-test and training of both dies have ended, their sites are zeroed (R147), and they return to
use. A site whose failed arrays leave it unable to correct stays lost (R135). -/
def execCartridgeRestoreDone (t cartridge : Nat) (r : SelfTestResult) (s : State) : Out :=
  let s := advance s t
  let ds := cartDies cartridge
  .next (if (findStarted s 0x0607 cartridge).isSome then
      let s := { s with map := { s.map with darkDies := s.map.darkDies.filter (fun d => !(ds.contains d)) } }
      let s := r.badSegments.foldl foundSegments s
      let edges := r.badSublinks.foldl (fun t x =>
        tmod ({} : Edge) t x.1 (fun e => { e with bad := e.bad ||| BitVec.ofNat 16 x.2 })) s.fabric.edges
      let s := { s with fabric := { s.fabric with edges := edges } }
      let s := (cartClusters cartridge).foldl (fun s u => judgeCluster r.failedClusters (putIsland s u {}) u) s
      let s := ds.foldl (fun s d =>
        let s := clearUnits s d 0 siteUnits
        putSite s d { lost := channelsDead s d }) s
      let pages := s.vellum.pages.filter (fun kv => !(ds.contains (pageSite kv.1)) || decide (kv.2.state = .retired))
      let s := { s with vellum := { s.vellum with pages := pages } }
      let v := getCart s cartridge
      let s := mapChanged (putCart s cartridge { v with lamp := usedLamp v, powered := true })
      let s := copyBack (copyBack (releasePair (releasePair s cartridge 0) cartridge 1) 0 ds) 1 ds
      completeStarted s 0x0607 cartridge stSuccess (msSince s 0x0607 cartridge)
    else s)

/-! ## Bays (R32 to R34) -/

/-- CARTRIDGE_INSERTED: unpowered with its lamp green while the rails of other cartridges are up, and in the halt that R426 keeps
for an exchange; else its lamp is off, and it is used at the next start (DESIGN CHOICE: R32 names only a serving module and MOD_EN
low, log entry 24). A cartridge brings its own record of failed phases (R378). -/
def execCartridgeInserted (t cartridge : Nat) (s : State) : Out :=
  let s := advance s t
  let v := getCart s cartridge
  .next (if cartridge < 20 ∧ v.present = false then
      putCart s cartridge { present := true, lamp := if s.board.railsUp || decide (s.board.phase = .halted) then .green else .off }
    else s)

/-- A cartridge with lost phases holds the phase-loss warning. -/
def phasesWarn (s : State) : Bool := s.board.cartridges.any (fun kv => kv.2.present && decide (1 ≤ kv.2.phasesLost))

/-- Its lamp shows amber steady (R32). -/
def safeToRemove (c : Cartridge) : Bool := c.lamp == .amber

/-- A preparation of the cartridge that it does not live to see the end of: its command is refused (DESIGN CHOICE, log entry 24). -/
def cutPrepare (s : State) (c : Nat) : State :=
  if s.board.preparing.contains c then
    completeStarted { s with board := { s.board with preparing := s.board.preparing.filter (fun x => x != c) } } 0x0606 c 0x0604 0
  else s

/-- A restore of the cartridge that it does not live to see the end of: its dies stay dark, and the command is refused (DESIGN CHOICE,
log entry 24). -/
def cutRestore (s : State) (c : Nat) : State := completeStarted s 0x0607 c 0x0604 0

/-- CARTRIDGE_REMOVED: without amber steady, both dies are lost as for a whole-die short (R34). During start-up its dies get STATUS 2
and the start continues, but for cartridge 8, whose removal darkens the S-die at any time (R33). With the rails off, nothing is lost
with it. -/
def execCartridgeRemoved (t cartridge : Nat) (s : State) : Out :=
  let s := advance s t
  let v := getCart s cartridge
  .next (if cartridge < 20 ∧ v.present = true then
      let s := putCart s cartridge { v with present := false, powered := false, lamp := .off, phasesLost := 0 }
      let s := if phasesWarn s then s else endWarning s 4 0xFFFF
      if safeToRemove v ∨ s.board.railsUp = false then s
      else if governorRuns s || cartridge == 8 then
        diesLost (cutRestore (cutPrepare s cartridge) cartridge) (cartDies cartridge) cartridge 2
      else { s with map := { s.map with darkDies := s.map.darkDies ++ cartDies cartridge } }
    else s)

/-! ## Phases and die supplies (R377, R378, R442) -/

/-- PHASE_LOST: its share is removed at once; the eighth fails the cartridge, and its dies' work moves away when it fits;
where a migration or a start was in the way, they move once it has ended. -/
def execPhaseLost (t cartridge : Nat) (s : State) : Out :=
  let s := advance s t
  let v := getCart s cartridge
  .next (if cartridge < 20 ∧ v.present = true ∧ v.phasesLost < 16 then
      let v := { v with phasesLost := v.phasesLost + 1, lamp := if v.powered then .amberFlash else v.lamp }
      let s := putCart s cartridge v
      if governorRuns s then
        let s := note (warn s 4 0xFFFF) 0x0301 2 0xFFFF cartridge v.phasesLost
        let s := if v.phasesLost = 8 then note (postEvent s 0 3 (4 + 65536 * 0xFFFF)) 0x0302 4 0xFFFF cartridge 8 else s
        prepareFailed s cartridge
      else s
    else s)

/-- DIE_SHORT: the e-fuse trips, and the die and its site go dark. A preparation that no longer composes with the loss ends with
CARTRIDGE_REFUSED first (R450). -/
def execDieShort (t die : Nat) (s : State) : Out :=
  let s := advance s t
  .next (if die < 40 ∧ (getCart s (die / 2)).powered = true ∧ s.map.darkDies.contains die = false then
      if governorRuns s then
        let fits : Bool := (slotWithout s 0 (dieClusters die)).isSome && (slotWithout s 1 (dieClusters die)).isSome
        let s := if fits then s else s.board.preparing.foldl abandonPrepare s
        diesLost s [die] (die / 2) 1
      else { s with map := { s.map with darkDies := s.map.darkDies ++ [die] } }
    else s)

end Sys2Proof.Machine
end

