-- ==== Sys2Proof/Machine/Strokes.lean ====
section
/-! DEFINITION. The meanings of the 22 strokes (R74): each issues in the frame of `issue`, and a failing predicate does
nothing more, but for the EMPTY flit of SEND and LIG_SEND (R77). -/

namespace Sys2Proof.Machine

/-- NOP. -/
def execNop (h : StrokeHdr) (s : State) : Out := .next (issue s h id id)

/-- LOOP_BEGIN: the counter takes its count, which a step descriptor word may give. -/
def execLoopBegin (h : StrokeHdr) (ctr count : Nat) (fromDesc : Bool) (s : State) : Out :=
  .next (issue s h (fun s =>
    let n := if fromDesc then descWord s (clusterOf h.tile) count else count
    modTile s h.tile (fun t => { t with loops := tput {} t.loops ctr { total := n, left := n } })) id)

/-- LOOP_END: one turn of the loop is over. -/
def execLoopEnd (h : StrokeHdr) (ctr : Nat) (s : State) : Out :=
  .next (issue s h (fun s =>
    modTile s h.tile (fun t =>
      let c := tget {} t.loops ctr
      { t with loops := tput {} t.loops ctr { c with left := c.left - 1 } })) id)

/-- STEP_BEGIN: the island takes its next descriptor, or gates until it comes. A tile whose island has begun its step
starts with it. -/
def execStepBegin (h : StrokeHdr) (s : State) : Out :=
  .next (issue s h (fun s =>
    let u := clusterOf h.tile
    if (getIsland s u).desc.isSome then modTile s h.tile (fun t => { t with cycle := 0 }) else beginStep s u) id)

/-- STEP_END: the island's step completion token. -/
def execStepEnd (h : StrokeHdr) (energyMj : Nat) (s : State) : Out :=
  .next (issue s h (fun s => endStepAt s (clusterOf h.tile) energyMj) id)

/-- The bit that PRED_LOAD reads. Bit i of a TOPK result is whether index i is among the kept results (DESIGN CHOICE, log entry
40). -/
def predBit (s : State) (tile : Nat) (src : PredSrc) (ecc : Ecc) : Bool × State :=
  match src with
  | .scratchBit a b =>
    let r := readSpan s tile a 1
    ((r.bytes.headD 0#8).getLsbD b, applyEcc r.state (.scratch tile a) ecc)
  | .descBit w b => (Nat.testBit (descWord s (clusterOf tile) w) b, s)
  | .topkBit i => ((getTile s tile).topk.any (fun x => x.2 == i), s)

/-- PRED_LOAD: registers 1 to 15; register 0 always reads 1. -/
def execPredLoad (h : StrokeHdr) (p : Nat) (src : Met PredSrc Ecc) (s : State) : Out :=
  .next (issue s h (fun s =>
    let r := predBit s h.tile src.val src.met
    if p = 0 ∨ 15 < p then r.2
    else modTile r.2 h.tile (fun t => { t with
      preds := if r.1 then t.preds ||| BitVec.ofNat 16 (2 ^ p) else t.preds &&& ~~~ (BitVec.ofNat 16 (2 ^ p)) })) id)

/-- MAC. -/
def execMac (h : StrokeHdr) (act : Nat) (w : WeightSrc) (acc : Met Nat (List Found)) (s : State) : Out :=
  .next (issue s h (fun s => macTile s h.tile act w acc.val acc.met) id)

/-- DRAIN. -/
def execDrain (h : StrokeHdr) (dst acc : Nat) (scale : Option Fp32) (s : State) : Out :=
  .next (issue s h (fun s => drainTile s h.tile dst acc scale) id)

/-- VALU. -/
def execValu (h : StrokeHdr) (dst : Nat) (srcs : List Nat) (fn : ValuFn) (s : State) : Out :=
  .next (issue s h (fun s => valuTile s h.tile dst srcs fn) id)

/-- VXCEND. -/
def execVxcend (h : StrokeHdr) (dst src : Nat) (fn : XcendFn) (s : State) : Out :=
  .next (issue s h (fun s => vput s h.tile dst ((vreg s h.tile src).map (fpTrans fn))
    (vtainted s h.tile src (vectorLanes h.tile))) id)

/-- NARROW. -/
def execNarrow (h : StrokeHdr) (dst src : Nat) (opc : BitVec 32) (s : State) : Out :=
  .next (issue s h (fun s => narrowTile s h.tile dst src opc) id)

/-- WIDEN. -/
def execWiden (h : StrokeHdr) (dst src scaleAddr : Nat) (fmt : Met Fmt (List Found)) (s : State) : Out :=
  .next (issue s h (fun s => widenTile s h.tile dst src scaleAddr fmt.val fmt.met) id)

/-- LOAD. -/
def execLoad (h : StrokeHdr) (vreg addr : Nat) (ecc : Ecc) (s : State) : Out :=
  .next (issue s h (fun s => loadTile s h.tile vreg addr ecc) id)

/-- STORE. -/
def execStore (h : StrokeHdr) (vreg addr : Nat) (s : State) : Out :=
  .next (issue s h (fun s => storeTile s h.tile vreg addr) id)

/-- SLICE_READ. -/
def execSliceRead (h : StrokeHdr) (dst addr unit rows crossing : Nat) (merge : Bool) (ecc : Ecc) (s : State) : Out :=
  .next (issue s h (fun s => sliceReadTile s h.tile dst addr unit rows crossing merge ecc) id)

/-- SLICE_WRITE. -/
def execSliceWrite (h : StrokeHdr) (src addr unit rows : Nat) (crossing : Met Nat (Bool × Ecc)) (s : State) : Out :=
  .next (issue s h (fun s => sliceWriteTile s h.tile src addr unit rows crossing.val crossing.met.1 crossing.met.2) id)

/-- A unit that SEND or LIG_SEND may name: a tile, or a cluster (R4, R74). -/
def sendUnitOk (u : Nat) : Bool := isTile u || isCluster u

/-- The consumer's end cannot take the transfer: its input buffer, or its boundary frames, are full (R42, R438). A fenced consumer
refuses instead (R64). -/
def sendFull (s : State) (tile unit : Nat) (full : Bool) : Bool :=
  !(getIsland s (clusterOf unit)).fenced && (full || !(frameRoom s (clusterOf unit) (sendStep s tile)))

/-- What SEND hands to the network. -/
def sendTile (s : State) (tile unit addr crossing : Nat) (f : Flits) (flits : Nat) (full : Bool) : State :=
  stallFor (transmit s tile { consumer := unit, crossing := crossing, flits := f, addr := addr } flits) tile crossing
    (sendFull s tile unit full)

/-- SEND: the rows leave for the consumer; a full input buffer there stalls the producer, an EMPTY flit's too. RECV's own operand
names the place where they land (log entry 40). -/
def execSend (h : StrokeHdr) (src unit addr rows crossing : Nat) (bufferFull : Met Bool Ecc) (s : State) : Out :=
  .next (issue s h
    (fun s =>
      if sendUnitOk unit then
        let r := readRows s (clusterOf h.tile) (.scratch h.tile src) rows
        applyEcc (sendTile r.state h.tile unit addr crossing (oneFlit r.bytes (r.poisoned || eccBad (.scratch h.tile src) bufferFull.met)) rows bufferFull.val)
          (.scratch h.tile src) bufferFull.met
      else s)
    (fun s => if sendUnitOk unit then sendTile s h.tile unit addr crossing emptyFlit 1 bufferFull.val else s))

/-- RECV. -/
def execRecv (h : StrokeHdr) (dst crossing : Nat) (s : State) : Out :=
  .next (issue s h (fun s => recvTile s h.tile dst crossing) id)

/-- LIG_SEND. -/
def execLigSend (h : StrokeHdr) (src unit addr tag : Nat) (rows : Met Nat Ecc) (s : State) : Out :=
  .next (issue s h
    (fun s =>
      if sendUnitOk unit then
        let r := readRows s (clusterOf h.tile) (.scratch h.tile src) rows.val
        applyEcc (ligSendTile r.state h.tile unit addr tag (oneFlit r.bytes (r.poisoned || eccBad (.scratch h.tile src) rows.met)))
          (.scratch h.tile src) rows.met
      else s)
    (fun s => if sendUnitOk unit then ligSendTile s h.tile unit addr tag emptyFlit else s))

/-- LIG_RECV. -/
def execLigRecv (h : StrokeHdr) (dst tag : Nat) (scale : Option Fp32) (s : State) : Out :=
  .next (issue s h (fun s => ligRecvTile s h.tile dst tag scale) id)

/-- DMA_POST. -/
def execDmaPost (h : StrokeHdr) (index : Nat) (s : State) : Out :=
  .next (issue s h (fun s => dmaPostTile s h.tile index) id)

/-- DMA_WAIT. -/
def execDmaWait (h : StrokeHdr) (ctr count : Nat) (s : State) : Out :=
  .next (issue s h (fun s => dmaWaitTile s h.tile ctr count) id)

end Sys2Proof.Machine
end

