-- ==== Sys2Proof/Machine/Diagnostics.lean ====
section
/-! DEFINITION. The meanings of the diagnostics family (R341, R342, R434). -/

namespace Sys2Proof.Machine

/-! ## RECORD_READ (R342) -/

/-- Records of a kind, and the bytes of one; `none` for a reserved kind. -/
def recordKind (kind : Nat) : Option (Nat × Nat) :=
  match kind with
  | 1 => some (1, 64)
  | 2 => some (1, 64)
  | 3 => some (1024, 64)
  | 4 => some (1, 64)
  | 5 => some (64, 560)
  | 6 => some (1, 64)
  | 7 => some (2, 64)
  | 8 => some (65536, 32)
  | 9 => some (262144, 64)
  | 10 => some (65536, 32)
  | 11 => some (524288, 16)
  | 12 => some (1024, 16)
  | 13 => some (1, 2624)
  | _ => none

/-- The unit that a kind needs. -/
def recordUnitOk (kind unit : Nat) : Bool :=
  match kind with
  | 1 => isCluster unit
  | 2 => isCluster unit
  | 4 => isSite unit
  | _ => true

/-- The routing record of a layer of the ACTIVE slot; of a layer without one, only LAYER. -/
def routingOf (s : State) (l : Nat) : List Byte :=
  let r := (activeSlot s).bind (fun n => (getSlot s n).layers.find? (fun r => r.layer == l))
  routingBytes (r.getD { layer := l, experts := [], groups := 0, seatsPerGroup := 0, freeSeats := [], spare := 0 })

/-- One record. -/
def recordBytes (s : State) (kind unit i : Nat) : List Byte :=
  match kind with
  | 1 => netBytes unit (getIsland s unit).net
  | 2 => memBytes unit (getIsland s unit).mem
  | 3 => healthBytes i (tget {} s.serving.health i)
  | 4 => siteBytesRec s (unitDie unit)
  | 5 => routingOf s i
  | 6 => letteringBytes s.serving.lettering
  | 7 => slotBytes s i
  | 8 => reservoirBytes s i
  | 9 => sessionBytes i (getSession s i)
  | 10 => pfxBytes (getPfx s i)
  | 11 => pageBytes (getPage s i)
  | 12 => thresholdBytes i (tget ({ tensor := i } : Threshold) s.serving.thresholds i)
  | _ => mapBytes s

/-- RECORD_READ: the records that fit are written; RESULT gives the count. -/
def execRecordRead (h : Hdr) (kind unit index count : Nat) (s : State) : Out :=
  .next (runCommand s h opRecordRead (decide (count = 0)) (fun s =>
    match recordKind kind with
    | none => refuse s h 0x0802
    | some (n, size) =>
      if n < index + count then refuse s h 0x0802
      else if recordUnitOk kind unit = false then refuse s h stInvalidUnit
      else
        let l := (List.range (min count (h.dataLen / size))).flatMap (fun j => recordBytes s kind unit (index + j))
        complete s h stSuccess count l))

/-! ## THRESHOLD_SET (R116) -/

/-- An entry whose fields fit theirs. -/
def thresholdOk (e : Threshold) : Bool :=
  decide (e.tensor < 1024) && decide (e.satPpm < 2 ^ 24) && decide (e.flushPpm < 2 ^ 24) && decide (e.nanMax < 2 ^ 32) &&
    decide (e.invalidMax < 2 ^ 32)

/-- THRESHOLD_SET. -/
def execThresholdSet (h : Hdr) (entries : List Threshold) (s : State) : Out :=
  .next (runCommand s h opThresholdSet (entries.isEmpty || decide (1024 < entries.length) || !(entries.all thresholdOk)) (fun s =>
    let l := entries.foldl (fun t e => tput ({ tensor := e.tensor } : Threshold) t e.tensor e) s.serving.thresholds
    done { s with serving := { s.serving with thresholds := l } } h entries.length))

/-! ## BLOTTER_READ (R434) -/

/-- An entry put into INDEX order. -/
def insertEntry (e : Entry) : List Entry → List Entry
  | [] => [e]
  | x :: l => if e.index ≤ x.index then e :: x :: l else x :: insertEntry e l

/-- The entries held, each INDEX with its 64 bytes: a stop record is an entry of its own. -/
def heldEntries (s : State) : List (Nat × List Byte) :=
  ((s.blotter.ring ++ s.blotter.reserve).foldr insertEntry []).flatMap (fun e =>
    (e.index, leBytes 64 (entryNat e)) :: (match e.stop with
      | some r => [(e.index + 1, leBytes 64 (stopNat r))]
      | none => []))

/-- BLOTTER_READ. -/
def execBlotterRead (h : Hdr) (first count : Nat) (s : State) : Out :=
  .next (runCommand s h opBlotterRead (decide (count = 0)) (fun s =>
    let l := ((heldEntries s).filter (fun x => decide (first ≤ x.1))).take (min count (h.dataLen / 64))
    let next := match l.getLast? with
      | some x => x.1 + 1
      | none => first
    complete s h stSuccess (next % 2 ^ 32 + 2 ^ 32 * s.blotter.overflow) (l.flatMap (·.2))))

/-! ## TENSOR_UPLOAD and STROKE_LOAD (R83, R112, R452) -/

/-- Some partition holds an open session or an unfinished turn. -/
def inService (s : State) : Bool := s.serving.sessions.any (fun kv => decide (kv.2.state ≠ .free) || kv.2.turn.isSome)

/-- Elements that upload data holds: whole MX blocks, or FP32 elements. -/
def uploadCount (t : TensorIn) : Nat :=
  if t.src = .fp32 then t.bytes.length / 4 else t.bytes.length / srcBytes t.src 32 * 32

/-- The data as it is written: element rows, then scale bytes, filled to whole rows. -/
def uploadRows (t : TensorIn) : List Byte :=
  let c := convertTensor t
  let b := c.1 ++ c.2.1
  b ++ List.replicate ((64 - b.length % 64) % 64) 0#8

/-- What the operands must meet before the unit is looked at, and with it where it fits the space. -/
def uploadOk (unit space address : Nat) (t : TensorIn) (rows : List Byte) : Bool :=
  decide (space < 3) && decide (t.tensor < 1024) && mxTarget t.src t.target &&
    decide (t.bytes.length = srcBytes t.src t.count) &&
    (decide (space = 2) || decide (address % 64 = 0)) &&
    (!(unitFits (spaceOf space) unit) || inRange (spaceOf space) unit address rows.length)

/-- A vellum region that R143 has the scribe write: system space, token histories, and the reserve, but for draft pages and relocated
chunks (DESIGN CHOICE, log entry 40: R143's table does not name the upload). -/
def uploadAllowed (s : State) (site address len : Nat) : Bool :=
  (spanGranules address len).all (fun g =>
    match (findShare (siteShares s.vellum.layout site) g).1.region with
    | .system => true
    | .history => true
    | .cold => (draftAt s site g).isNone && (chunkHeld s site g).isNone
    | _ => false)

/-- The converted tensor at its place; a vellum region that it may not write keeps its content (R86, R140, R143). -/
def putUpload (s : State) (unit space address : Nat) (rows : List Byte) : State :=
  match dmaPlace (spaceOf space) unit address with
  | some p => dmaRows s p false (rows.length / 64) rows
  | none =>
    if uploadAllowed s (unitDie unit) address rows.length then vellumWrite s (unitDie unit) address rows false
    else note s 0x0105 3 unit address 0

/-- TENSOR_UPLOAD: the port converts and counts, and the tensor is written. -/
def execTensorUpload (h : Hdr) (unit space address : Nat) (tensor : TensorIn) (s : State) : Out :=
  let t := { tensor with count := uploadCount tensor }
  let rows := uploadRows t
  .next (runCommand s h opTensorUpload (!(uploadOk unit space address t rows)) (fun s =>
    if unitFits (spaceOf space) unit = false then refuse s h stInvalidUnit
    else if inService s then refuse s h 0x0801
    else
      let c := (convertTensor t).2.2
      let s := putUpload s unit space address rows
      done (if c = {} then s else testTensor s (2 ^ 64 - 1) t.tensor c) h 0))

/-- STROKE_LOAD: the list is written unchecked. -/
def execStrokeLoad (h : Hdr) (half unit : Nat) (strokes : List (BitVec 128)) (s : State) : Out :=
  .next (runCommand s h opStrokeLoad (decide (2 ≤ half) || (isTile unit && decide (strokesOf unit / 2 < strokes.length))) (fun s =>
    if isTile unit = false then refuse s h stInvalidUnit
    else if inService s then refuse s h 0x0801
    else done (writeHalf s unit half strokes) h 0))

/-! ## DIAG_RUN (R83, R341) -/

/-- The state that a meaning answers. -/
def nextOf (o : Out) (s : State) : State :=
  match o with
  | .next t => t
  | _ => s

/-- A stroke, issued by its tile's sequencer. A reserved pair of ENGINE and OP issues and does nothing. -/
def runStroke (s : State) (tile : Nat) (w : BitVec 128) : State :=
  let h := strokeHdr tile w
  let o : Out := match decodeStroke tile w with
    | none => execNop h s
    | some .nop => execNop h s
    | some (.loopBegin c n d) => execLoopBegin h c n d s
    | some (.loopEnd c) => execLoopEnd h c s
    | some .stepBegin => execStepBegin h s
    | some (.stepEnd e) => execStepEnd h e s
    | some (.predLoad p x e) => execPredLoad h p ⟨x, e⟩ s
    | some (.mac a x c f) => execMac h a x ⟨c, f⟩ s
    | some (.drain d a x) => execDrain h d a x s
    | some (.valu d x f) => execValu h d x f s
    | some (.vxcend d x f) => execVxcend h d x f s
    | some (.narrow d x c) => execNarrow h d x c s
    | some (.widen d x a f l) => execWiden h d x a ⟨f, l⟩ s
    | some (.load v a e) => execLoad h v a e s
    | some (.store v a) => execStore h v a s
    | some (.sliceRead d a u r c m e) => execSliceRead h d a u r c m e s
    | some (.sliceWrite x a u r c b e) => execSliceWrite h x a u r ⟨c, b, e⟩ s
    | some (.send x u a r c b e) => execSend h x u a r c ⟨b, e⟩ s
    | some (.recv d c) => execRecv h d c s
    | some (.ligSend x u a g r e) => execLigSend h x u a g ⟨r, e⟩ s
    | some (.ligRecv d g x) => execLigRecv h d g x s
    | some (.dmaPost i) => execDmaPost h i s
    | some (.dmaWait c n) => execDmaWait h c n s
  nextOf o s

/-- Where the tiles of a run stand: the next stroke of each, and the first strokes of its loops, innermost first. -/
structure Run where
  state : State
  pcs : Table Nat := []
  loops : Table (List Nat) := []

/-- Strokes of a tile's list in a half: up to the last one written. -/
def halfLength (s : State) (tile half : Nat) : Nat :=
  let size := strokesOf tile / 2
  let base := half * size
  (((getTile s tile).strokes.filter (fun kv => decide (base ≤ kv.1) && decide (kv.1 < base + size))).map
    (fun kv => kv.1 + 1 - base)).foldl max 0

/-- The stroke that a tile issues next. -/
def nextStroke (r : Run) (tile half : Nat) : BitVec 128 :=
  tget 0 (getTile r.state tile).strokes (half * (strokesOf tile / 2) + tget 0 r.pcs tile)

/-- The cycle in which it issues. -/
def nextCycle (r : Run) (tile half : Nat) : Nat := (getTile r.state tile).cycle + strokeDelta (nextStroke r tile half)

/-- The tile whose next stroke issues first, the lower number in one cycle. -/
def nextTile (r : Run) (half : Nat) (tiles : List Nat) : Option Nat :=
  (tiles.filter (fun t => decide (tget 0 r.pcs t < halfLength r.state t half))).foldl (fun best t => match best with
    | none => some t
    | some b => if nextCycle r t half < nextCycle r b half then some t else best) none

/-- One stroke of a tile, and where its list goes on: back to a loop's first stroke while the loop's counter stands. -/
def runTile (r : Run) (tile half : Nat) : Run :=
  let w := nextStroke r tile half
  let pc := tget 0 r.pcs tile
  let stack := tget [] r.loops tile
  let h := strokeHdr tile w
  let holds := predHolds r.state h
  let s := runStroke r.state tile w
  let go (pc : Nat) (l : List Nat) : Run := { state := s, pcs := tput 0 r.pcs tile pc, loops := tput [] r.loops tile l }
  match decodeStroke tile w with
  | some (.loopBegin ..) => go (pc + 1) ((pc + 1) :: stack)
  | some (.loopEnd c) =>
    match stack with
    | top :: rest => if holds && decide (0 < (tget {} (getTile s tile).loops c).left) then go top stack else go (pc + 1) rest
    | [] => go (pc + 1) []
  | _ => go (pc + 1) stack

/-- A stalled producer's node combines what it has, and its acknowledgement comes when there is room. -/
def feedStall (s : State) (u : Nat) : State :=
  let n := (freeNow s).toNat
  match (getIsland s u).stalled with
  | some c =>
    let s := nextOf (execLigatureCombine u c n (drewFree s)) s
    nextOf (execSendAck u ⟨c, n⟩ s) s
  | none => s

/-- What a gated island waits for arrives, if the module already holds it: a transfer in flight, a ligature's inputs, a posted
DMA. The cycles it was gated are a free value. -/
def feedGate (s : State) (u : Nat) : State :=
  let n := (freeNow s).toNat
  match (getIsland s u).gate with
  | some (.crossing tile _ c) => nextOf (execTokenArrival tile c n (drewFree s)) s
  | some (.ligature _ _ tag _) => nextOf (execLigatureCombine u tag n (drewFree s)) s
  | some (.dma tile _ _) => nextOf (execDmaComplete s.now u (tile - u) ⟨[], []⟩ { gated := n } (drewFree s)) s
  | _ => s

/-- The producer that keeps the cluster waiting is dead (R61, R63). -/
def starve (s : State) (producer consumer crossing : Nat) : State :=
  let s := modNet s (clusterOf consumer) (fun c => { c with watchdogFires := sat 32 (c.watchdogFires + 1) })
  if (getIsland s (clusterOf producer)).fenced then s
  else fenceCluster (note s 0x0101 4 producer consumer crossing) (clusterOf producer) (lastIndex s)

/-- The run of a cluster: strokes issue in cycle order until every list has ended, or the watchdog fires. -/
def diagLoop (u half producer : Nat) (tiles : List Nat) : Nat → Run → State
  | 0, r => r.state
  | n + 1, r =>
    match (getIsland r.state u).gate with
    | some g =>
      let s := feedGate r.state u
      if (getIsland s u).gate = some g ∧ s.fabric.inFlight.length = r.state.fabric.inFlight.length ∧
          (getIsland s u).partials.length = (getIsland r.state u).partials.length ∧
          (tiles.map (fun t => (getTile s t).dmaQueue.length)) = tiles.map (fun t => (getTile r.state t).dmaQueue.length) then
        match g with
        | .crossing tile _ c => starve r.state producer tile c
        | .ligature tile _ tag _ => starve r.state producer tile tag
        | .dma tile c _ => starve r.state producer tile c
        | .descriptor => r.state
      else diagLoop u half producer tiles n { r with state := s }
    | none =>
      match (getIsland r.state u).stalled with
      | some c =>
        let s := feedStall r.state u
        if (getIsland s u).stalled.isNone then diagLoop u half producer tiles n { r with state := s }
        else starve r.state producer u c
      | none =>
        match nextTile r half tiles with
        | none => r.state
        | some t => diagLoop u half producer tiles n (runTile r t half)

/-- Strokes that a run can issue within its bound of 10 ms: 30,000,000 cycles of 16 tiles with 6 engines. -/
def diagFuel : Nat := 2880000000

/-- The number that stands for a run in place of a step's. -/
def diagStep : Nat := 2 ^ 64 - 1

/-- The island before a run: its clock runs, and a descriptor of zeros waits for STEP_BEGIN. -/
def startDiag (i : Island) (half : Nat) : Island :=
  { i with running := true, gate := none, stalled := none, heldPartial := none, desc := none, posted := [{ step := diagStep, words := [], half := half }] }

/-- The run's traces are cleared: the island's own step stands as it stood, and the run's counts belong to no step. -/
def endDiag (s : State) (u : Nat) (old : Island) : State :=
  let s := putIsland s u { getIsland s u with
    desc := old.desc, posted := old.posted, gate := old.gate, stalled := old.stalled, heldPartial := old.heldPartial, counts := old.counts,
    energyMj := old.energyMj, running := old.running && !(getIsland s u).fenced }
  { s with serving := { s.serving with counting := s.serving.counting.filter (fun x => x.1 != diagStep) } }

/-- Forced wins, of DMA, scrub write-back or clearing (R81), that fell on the strokes of a diagnostic run: the island stalled for a
cycle each (R83). -/
def forcedStalls (s : State) (u forced : Nat) : State :=
  modMem s u (fun m => { m with forcedStalls := sat 32 (m.forcedStalls + forced), forcedWins := sat 32 (m.forcedWins + forced) })

/-- DIAG_RUN: every tile's list of the half, once from stroke 0. The run has a descriptor of zeros. Its local cycles are a free
value. -/
def execDiagRun (h : Hdr) (half unit : Nat) (producer : Met Nat Nat) (s : State) : Out :=
  .next (runCommand s h opDiagRun (decide (2 ≤ half)) (fun s =>
    if isCluster unit = false then refuse s h stInvalidUnit
    else if inService s then refuse s h 0x0801
    else
      let old := getIsland s unit
      let tiles := clusterTiles unit
      let s := putIsland s unit (startDiag old half)
      let s := tiles.foldl (fun s t => modTile s t (fun x => { x with cycle := 0 })) s
      let s := endDiag (diagLoop unit half producer.val tiles diagFuel { state := s }) unit old
      let s := forcedStalls s unit producer.met
      done (drewFree s) h (freeNow s).toNat))

end Sys2Proof.Machine
end

