-- ==== Sys2Proof/Machine/PowerCmds.lean ====
section
/-! DEFINITION. The meanings of the power commands (R339, R385, R389, R391) and of a cap written over PLDM (R295, R297). -/

namespace Sys2Proof.Machine

/-- The governor accepts a host cap (R385): it is in force for every check from now, and binds at once when no step is in flight. -/
def acceptCap (s : State) (capW : Nat) : State :=
  { s with power := { s.power with hostCap := if capW = 0 then 18500 else capW, capPending := true, capBefore := none } }

/-- POWER_CAP_SET: completes when it binds. -/
def execPowerCapSet (h : Hdr) (capW : Nat) (s : State) : Out :=
  .next (runCommand s h opPowerCapSet (decide (18500 < capW)) (fun s =>
    let before := s.power.hostCap
    let s := acceptCap s capW
    let s := startLater { s with power := { s.power with capBefore := some before } } h opPowerCapSet 0
    if s.serving.steps.isEmpty then bindDue s else s))

/-- CAP_BIND: the step boundary at which an accepted cap binds. -/
def execCapBind (t : Nat) (s : State) : Out :=
  let s := advance s t
  .next (if s.power.capPending then stepBoundary s else s)

/-- The power cap effecter of PLDM: applied in the order of acceptance, and the later one stands (R297). A value out of range
changes nothing. -/
def execPowerCapEffecter (t capW : Nat) (s : State) : Out :=
  let s := advance s t
  .next (if governorRuns s && decide (capW ≤ 18500) then
      let s := acceptCap s capW
      if s.serving.steps.isEmpty then bindDue s else s
    else s)

/-- CAP_FLOOR_SET: a floor is withdrawn only while no Timed turn is unfinished, and is not above the cap in force nor below P_G. -/
def execCapFloorSet (h : Hdr) (floorW : Nat) (s : State) : Out :=
  .next (runCommand s h opCapFloorSet (decide (18500 < floorW)) (fun s =>
    if floorW = 0 ∧ timedUnfinished s = true then refuse s h stWrongState
    else if s.power.hostCap < floorW then refuse s h 0x0601
    else if floorW ≠ 0 ∧ floorW < activeGuarantee s then refuse s h 0x0602
    else done { s with power := { s.power with floor := floorW } } h (activeGuarantee s)))

/-- LATENCY_TOLERANCE_SET: RETAIN or deeper is refused while a switch migrates; the selection waits for a CARTRIDGE_PREPARE. -/
def execLatencyToleranceSet (h : Hdr) (toleranceNs : Nat) (s : State) : Out :=
  .next (runCommand s h opLatencyToleranceSet false (fun s =>
    let p := selectState toleranceNs
    if s.board.preparing.isEmpty = false then s
    else if 3 ≤ powerCode p ∧ s.images.switching.isSome = true then refuse s h 0x0603
    else
      let s := startLater { s with power := { s.power with tolDue := some toleranceNs } } h opLatencyToleranceSet 0
      if s.serving.steps.isEmpty then toleranceDue s else s))

/-- The entries of POWER_READ: 16 partition counters, then one entry for each registered tenant in id order. -/
def powerEntries (s : State) : List (List Byte) :=
  (List.range 16).map (fun p => leBytes 8 (getPartition s p).energyMj) ++
    (s.serving.tenants.filter (fun kv => kv.2.registered)).map (fun kv => leBytes 2 kv.1 ++ leBytes 6 0 ++ leBytes 8 kv.2.energyMj)

/-- Whole entries that fit in a length. -/
def wholeEntries : Nat → List (List Byte) → List Byte
  | _, [] => []
  | room, e :: l => if e.length ≤ room then e ++ wholeEntries (room - e.length) l else []

/-- POWER_READ: module power, the effective cap, the state, the number of tenants, and the energy counters. -/
def execPowerRead (h : Hdr) (s : State) : Out :=
  .next (runCommand s h opPowerRead false (fun s =>
    let tenants := (s.serving.tenants.filter (fun kv => kv.2.registered)).length
    complete s h stSuccess
      (s.power.mean1ms % 2 ^ 32 + 2 ^ 32 * min s.power.boundCap s.thermal.coolingCap + 2 ^ 64 * powerCode s.power.state +
        2 ^ 80 * (tenants % 65536))
      (wholeEntries h.dataLen (powerEntries s))))

end Sys2Proof.Machine
end

