-- ==== Sys2Proof/Machine/PowerEvents.lean ====
section
/-! DEFINITION. The meanings of the power rows (chapter 14): die limits, LDO segments, ceilings, droops, inrush, the allowance,
the states and the energy counters. -/

namespace Sys2Proof.Machine

/-! ## Die limits (R377) -/

/-- The die limit in A, with k phases of its cartridge lost. -/
def dieLimit (s : State) (d : Nat) : Nat := (16 - (getCart s (d / 2)).phasesLost) * 40

/-- DIE_CURRENT_CHECK: above the limit the die's islands skip one more eighth, at once and then every 10 µs; below 95% for 1 ms
one eighth is released. -/
def execDieCurrentCheck (t die amps : Nat) (s : State) : Out :=
  let s := advance s t
  let k := tget 0 s.power.dieSkip die
  let lim := dieLimit s die
  let changed := tget 0 s.power.dieChanged die
  let quiet := tget 0 s.power.dieQuiet die
  let set (s : State) (skip changed quiet : Nat) : State := { s with power := { s.power with
    dieSkip := tput 0 s.power.dieSkip die skip, dieChanged := tput 0 s.power.dieChanged die changed,
    dieQuiet := tput 0 s.power.dieQuiet die quiet } }
  .next (if die < 40 ∧ governorRuns s = true then
      if lim < amps then
        if k = 0 ∨ changed + 10000 ≤ s.now then set s (min 7 (k + 1)) s.now 0 else set s k changed 0
      else if lim * 95 ≤ amps * 100 then set s k changed 0
      else
        let since := if quiet = 0 then s.now else quiet - 1
        if k ≠ 0 ∧ max since changed + 1000000 ≤ s.now then set s (k - 1) s.now (s.now + 1) else set s k changed (since + 1)
    else s)

/-! ## LDO segments and ceilings (R380, R381, R440, R441) -/

/-- With no step in flight, every instant is a step boundary. -/
def retireSoon (s : State) (u : Nat) (fence : Bool) : State :=
  let s := { s with power := { s.power with retiring := s.power.retiring ++ [(u, fence)] } }
  if s.serving.steps.isEmpty then retireDue s else s

/-- LDO_SEGMENT_FAIL: the first costs skipping, the second parks the cluster at the next boundary, the third darkens it. -/
def execLdoSegmentFail (t unit : Nat) (s : State) : Out :=
  let s := advance s t
  .next (if isCluster unit && governorRuns s && !(getIsland s unit).dark then
      let n := tget 0 s.nvm.segments unit + 1
      let s := { s with nvm := { s.nvm with segments := tput 0 s.nvm.segments unit n } }
      let s := mapChanged (note s 0x0303 (if 3 ≤ n then 4 else 2) unit 0 n)
      if n = 2 then retireSoon s unit false
      else if 3 ≤ n then
        let s := fenceCluster s unit (lastIndex s)
        putIsland s unit { getIsland s unit with dark := true, enableSince := none, enabledSegments := 0 }
      else s
    else s)

/-- CEILING_CHECK: a need above the fused entry lowers the ceiling by one bin; at 2.2 GHz the cluster leaves service at a step
boundary. -/
def execCeilingCheck (t unit neededCode : Nat) (s : State) : Out :=
  let s := advance s t
  let c := tget 0 s.nvm.ceilings unit
  .next (if isCluster unit && governorRuns s && decide (Config.fusedVoltage unit c < neededCode) && decide (c < 5) then
      let s := { s with nvm := { s.nvm with ceilings := tput 0 s.nvm.ceilings unit (c + 1) } }
      let s := mapChanged (note s 0x0304 2 unit 0 (c + 1))
      if c + 1 = 2 then retireSoon s unit true else s
    else s)

/-! ## Droops (R40, R382) -/

/-- DROOP_TRIP: the clock stretches, which is counted; a stretch of more than 64 consecutive local cycles is to be reported, by its own
row. -/
def execDroopTrip (unit cycles : Nat) (s : State) : Out :=
  .next (if isCluster unit then
      let s := modNet s unit (fun c => { c with droopStretches := sat 32 (c.droopStretches + 1) })
      let i := getIsland s unit
      putIsland s unit { i with droopDue := i.droopDue || decide (64 < cycles) }
    else s)

/-- DROOP_REPORT, of a droop that lasted more than 64 cycles (R40): 1-in-8 skipping; on a second report within 1 s one bin lower instead; more than 16 in an hour are reported. -/
def execDroopReport (t unit : Nat) (s : State) : Out :=
  let s := advance s t
  .next (if isCluster unit && governorRuns s && (getIsland s unit).droopDue then
      let i : Island := { getIsland s unit with droopDue := false }
      let l : List Nat := i.droops.filter (fun x => decide (s.now < x + 3600000000000))
      let again := l.any (fun x => decide (s.now ≤ x + 1000000000))
      let s := putIsland s unit { i with droops := l ++ [s.now], droopSkip := !again, droopBin := again }
      if 16 < l.length + 1 then note s 0x0305 2 unit 0 (l.length + 1) else s
    else s)

/-- DROOP_THROTTLE_END: the skipping lasts 1 ms, the lower bin 100 ms. -/
def execDroopThrottleEnd (t unit : Nat) (s : State) : Out :=
  let s := advance s t
  let i := getIsland s unit
  .next (match i.droops.getLast? with
    | some x =>
      let span := if i.droopBin then 100000000 else 1000000
      if x + span ≤ s.now then putIsland s unit { i with droopSkip := false, droopBin := false } else s
    | none => s)

/-! ## Inrush (R383) -/

/-- Clusters of a die that wait for a segment, in ascending identifier. -/
def waitingClusters (s : State) (die : Nat) : List Nat :=
  (dieClusters die).filter (fun u => (getIsland s u).enableSince.isSome)

/-- One segment of a cluster is enabled; with its last good one the cluster is up. -/
def enableSegment (s : State) (u : Nat) : State :=
  let i := getIsland s u
  let n := i.enabledSegments + 1
  if 8 - tget 0 s.nvm.segments u ≤ n then
    putIsland s u { i with enabledSegments := n, enableSince := none, parked := false, running := !i.fenced && !i.dark }
  else putIsland s u { i with enabledSegments := n, enableSince := some s.now }

/-- Enables admitted in one slot: 8 A each, while the budget allows. -/
def admitEnables (lim : Nat) : List Nat → Nat → State → State
  | [], _, s => s
  | u :: l, amps, s => if amps + 8 ≤ lim then admitEnables lim l (amps + 8) (enableSegment s u) else s

/-- The skipping for an inrush wait ends with the die's last waiting cluster. -/
def endInrushSkip (s : State) (die : Nat) : State :=
  if (waitingClusters s die).isEmpty then
    { s with power := { s.power with inrushSkip := s.power.inrushSkip.filter (fun d => d != die) } }
  else s

/-- INRUSH_SLOT: one 2 µs slot of a die. -/
def execInrushSlot (t die amps : Nat) (s : State) : Out :=
  let s := advance s t
  .next (endInrushSkip (admitEnables (dieLimit s die) (waitingClusters s die) amps s) die)

/-- INRUSH_WAIT_EXPIRY: an enable has waited 200 µs, and every running island of the die skips 1 in 8. -/
def execInrushWaitExpiry (t die : Nat) (s : State) : Out :=
  let s := advance s t
  let old := (waitingClusters s die).any (fun u => match (getIsland s u).enableSince with
    | some x => decide (x + 200000 ≤ s.now)
    | none => false)
  .next (if old && !(s.power.inrushSkip.contains die) then
      { s with power := { s.power with inrushSkip := s.power.inrushSkip ++ [die] } }
    else s)

/-! ## The allowance (R384, R387) -/

/-- ALLOWANCE_RAMP: the governor takes the measured means, and moves the allowance. -/
def execAllowanceRamp (t mean1ms mean10ms : Nat) (s : State) : Out :=
  let s := advance s t
  let s := { s with power := { s.power with mean1ms := mean1ms, mean10ms := mean10ms } }
  .next (if s.board.phase = .serving then judgeReach (rampAllowance s) else s)

/-! ## Power states (R390 to R393) -/

/-- The next deeper state. -/
def deeper (p : PowerState) : PowerState :=
  match p with
  | .active => .trim
  | .trim => .hold
  | .hold => .retain
  | .retain => .shed
  | .shed => .vellumOnly
  | .vellumOnly => .vellumOnly

/-- POWER_STATE_ENTRY: idleness is timed, and after 100 µs and 10 wake bounds of the selected state the descent begins. -/
def execPowerStateEntry (t : Nat) (s : State) : Out :=
  let s := advance s t
  .next (if isIdle s && decide (s.board.phase = .serving) then
      match s.power.idleSince with
      | none => { s with power := { s.power with idleSince := some s.now } }
      | some x =>
        if powerCode s.power.state < powerCode s.power.selected ∧ s.power.descending = false ∧
            x + max 100000 (10 * wakeBound s.power.selected) ≤ s.now then
          { s with power := { s.power with descending := true, moved := 0 } }
        else s
    else notIdle s)

/-- Units that a descent moves into a state: sites for VELLUM-ONLY, clusters for every other. -/
def unitsOf (p : PowerState) : Nat := match p with | .vellumOnly => 40 | _ => 1872

/-- The unit at a place of the descent moves into a state: its clock stops in HOLD, its domain is off in RETAIN, a site is in
self-refresh in VELLUM-ONLY. -/
def moveUnit (s : State) (p : PowerState) (i : Nat) : State :=
  let u := mkUnit (computeSites.getD (i / 48) 0) (i % 48) 0
  match p with
  | .hold => putIsland s u { getIsland s u with running := false }
  | .retain => putIsland s u { getIsland s u with running := false, enabledSegments := 0 }
  | .vellumOnly => modSite s i (fun v => { v with selfRefresh := true, controllerOff := !(sealedHeld s) })
  | _ => s

/-- Before SHED the key store is wrapped into the S-die system region; a wake from there unwraps it (R376, R392). -/
def wrapStore (s : State) : State := { s with trust := { s.trust with storeCopy := s.trust.keyStore } }
def restoreStore (s : State) : State :=
  match s.trust.storeCopy with
  | some k => { s with trust := { s.trust with keyStore := some k, storeCopy := none } }
  | none => s

/-- A state is reached: the islands run at 1.4 GHz in TRIM (point 5 of R386), SRAM is off in SHED, with the network
and memory counters at zero (DESIGN CHOICE: no rule says whether they outlast SHED, log entry 40), and the target falls to the
state's power. -/
def reachState (s : State) (p : PowerState) : State :=
  let before := target s
  let s := if p = .shed then dropSramClears (clearFabric (wrapStore s)) else s
  let s := if p = .trim then { s with power := { s.power with point := max 5 s.power.point } } else s
  let s := { s with power := { s.power with state := p, moved := 0, descending := decide (p ≠ s.power.selected) } }
  judgeReach (dropAllowance s before)

/-- POWER_STATE_DESCENT_MOVE: one unit moves; with the last one, POWER_STATE shows the state. A descent whose
selection has become shallower goes no further. -/
def execPowerStateDescentMove (t : Nat) (s : State) : Out :=
  let s := advance s t
  let p := deeper s.power.state
  .next (if powerCode s.power.selected ≤ powerCode s.power.state then
      { s with power := { s.power with descending := s.power.descending && s.power.moved != 0 } }
    else if s.power.descending && isIdle s then
      let s := moveUnit s p s.power.moved
      if unitsOf p ≤ s.power.moved + 1 then reachState s p
      else { s with power := { s.power with moved := s.power.moved + 1 } }
    else s)

/-- A doorbell of a virtual function waits (R393). -/
def doorbellWaits (s : State) : Bool :=
  s.mailbox.queues.any (fun kv => decide (8 ≤ kv.1) && kv.2.active && kv.2.sqHead != kv.2.sqTail)

/-- The deepest state that any unit has reached (R393). -/
def reached (s : State) : PowerState :=
  if s.power.descending && decide (0 < s.power.moved) then deeper s.power.state else s.power.state

/-- The trigger of a wake is there. -/
def triggered (s : State) (w : WakeTrigger) : Bool :=
  match w with
  | .doorbell => doorbellWaits s
  | .tolerance => decide (powerCode s.power.selected < powerCode (reached s))
  | .adminNeed => true

/-- Every cluster that serves comes up under R383. -/
def inrushAll (s : State) : State :=
  ((s.fabric.islands.filter (fun kv => kv.2.running)).map (·.1)).foldl startInrush s

/-- WAKE: from TRIM a bin change; from HOLD the clocks start again; from HOLD or deeper A starts at the wake step; from RETAIN or deeper the clusters come up, and
after SHED they are reloaded (R190). -/
def execWake (t : Nat) (trigger : WakeTrigger) (s : State) : Out :=
  let s := advance s t
  let p := reached s
  .next (if (p = .active ∧ s.power.descending = false) ∨ triggered s trigger = false then s
    else
      let c := powerCode p
      let sites := tmap {} (fun _ v => ({ v with selfRefresh := false, controllerOff := false } : Site)) s.vellum.sites
      let s := { s with vellum := { s.vellum with sites := sites } }
      let s := if 4 ≤ c then restoreStore s else s
      let s := { s with power := { s.power with state := .active, descending := false, moved := 0, idleSince := none } }
      let s := if 4 ≤ c then reloadSlots (dropSramClears (clearFabric s))
        else if 2 ≤ c then
          let run (s : State) (n : Nat) : State := match (getSlot s n).body with
            | some b => if slotLive (getSlot s n) then
                b.clusters.foldl (fun s p => if clusterGood s p.unit && !(getIsland s p.unit).parked then
                  putIsland s p.unit { getIsland s p.unit with running := true } else s) s
              else s
            | none => s
          run (run s 0) 1
        else s
      let s := if 3 ≤ c then inrushAll s else s
      choosePoint (judgeReach (if 2 ≤ c then wakeStep s else s)))

/-! ## Energy (R394) -/

/-- BASE_ENERGY_SPLIT: base energy over the tenants, in proportion to the step energy of the second; with none, to nobody. -/
def execBaseEnergySplit (t mj : Nat) (s : State) : Out :=
  let s := advance s t
  let total := (s.serving.tenants.map (fun kv => kv.2.energySecond)).sum
  .next (
    let s := (s.serving.tenants.filter (fun kv => decide (0 < kv.2.energySecond))).foldl (fun s kv =>
      chargeEnergy s kv.1 kv.2.partition (mj * kv.2.energySecond / total) false) s
    let tenants := tmap {} (fun _ v => ({ v with energySecond := 0 } : Tenant)) s.serving.tenants
    { s with serving := { s.serving with tenants := tenants } })

end Sys2Proof.Machine
end

