-- ==== Sys2Proof/Machine/Heat.lean ====
section
/-! DEFINITION. The meanings of the heat rows (chapter 15): sensors and their failures, thresholds, throttling, shutdowns and the
return from one, the coolant and the cooling cap. -/

namespace Sys2Proof.Machine

/-! ## Sensor pairs (R397 to R400) -/

/-- SOURCE of a pair's reports: a cold-plate pair has no unit identifier. -/
def pairSource (u : Nat) : Nat := if coldInlet ≤ u then 0xFFFF else u

/-- A pair that the module carries. -/
def hasPair (u : Nat) : Bool := isSensed u || u == coldInlet || u == coldOutlet

def modPair (s : State) (u : Nat) (f : Pair → Pair) : State := putPair s u (f (getPair s u))

/-- A unit of which neither sensor nor any neighbour gives a value is taken out of service (R400). -/
def withdrawUnit (s : State) (u : Nat) : State :=
  if isSensed u && (getPair s u).failedA && (getPair s u).failedB && (goodNeighbours s u).isEmpty then
    if isCluster u then fenceCluster s u (lastIndex s)
    else if s.board.phase = .stopped then s
    else sdieLost s u
  else s

/-- A unit that lost a sensor, and its neighbours, of which it may have been the last good one. -/
def withdrawAround (s : State) (u : Nat) : State := (u :: sensorNeighbours u).foldl withdrawUnit s

/-- Warning of cause 1 for a failed sensor: while a thermal warning of the unit is pending, only the event is posted. -/
def warnSensor (s : State) (u : Nat) : State :=
  if (getPair s u).warning then wantVector (postEvent s 0 3 (1 + 65536 * pairSource u)) 0 2
  else endWarning (warn s 1 (pairSource u)) 1 (pairSource u)

/-- A sensor is declared failed: 0 for A, 1 for B. -/
def failSensor (s : State) (u w : Nat) : State :=
  let p := getPair s u
  let had := if w = 0 then p.failedA else p.failedB
  if had then s
  else
    let s := putPair s u (if w = 0 then { p with failedA := true, missA := 0 } else { p with failedB := true, missB := 0 })
    let s := { s with nvm := { s.nvm with failedSensors := s.nvm.failedSensors ++ [2 * u + w] } }
    withdrawAround (note (warnSensor s u) 0x0402 2 (pairSource u) 0 w) u

/-- A sample that moved by more than 3 °C while its partner moved by less than 1 °C (R399). -/
def jumped (old new partnerOld partnerNew : Int) : Bool :=
  decide (12 < (new - old).natAbs) && decide ((partnerNew - partnerOld).natAbs < 4)

/-- The second such sample within 100 ms. -/
def jumpAgain (now : Nat) (o : Option Nat) : Bool :=
  match o with
  | some x => decide (now ≤ x + 100000000)
  | none => false

/-- One pair of a sample set: a jump is discarded for the partner's value, and a second one fails the sensor. -/
def takeReading (s : State) (x : Nat × Int × Int) : State :=
  let u := x.1
  let a := x.2.1
  let b := x.2.2
  let p := getPair s u
  if hasPair u && sensorsRead s u then
    let ja := !p.failedA && !p.failedB && jumped p.rawA a p.rawB b
    let jb := !p.failedA && !p.failedB && jumped p.rawB b p.rawA a
    let s := putPair s u { p with
      a := if ja then b else a, b := if jb then a else b, rawA := a, rawB := b,
      jumpA := if ja then some s.now else p.jumpA, jumpB := if jb then some s.now else p.jumpB }
    if ja && jumpAgain s.now p.jumpA then failSensor s u 0
    else if jb && jumpAgain s.now p.jumpB then failSensor s u 1
    else s
  else s

/-- A pair whose sensors differ by more than 4 °C is flagged, with an entry at each flagging (R398). -/
def judgeFlag (s : State) (u : Nat) : State :=
  let p := getPair s u
  let d := (sensorA s u - sensorB s u).natAbs
  if p.failedA && p.failedB then s
  else if 16 < d then
    if p.flagged then putPair s u { p with closeSince := none }
    else note (putPair s u { p with flagged := true, closeSince := none }) 0x0401 0 (pairSource u) 0 d
  else if p.flagged && p.closeSince.isNone then putPair s u { p with closeSince := some s.now }
  else s

/-! ## Thresholds (R402, R403) -/

/-- A mean that lies between two steps of 0.25 °C has not fallen to the lower one. -/
def readingUp (s : State) (u : Nat) : Int :=
  let a := sensorA s u
  let b := sensorB s u
  if (a - b).natAbs ≤ 16 then (a + b + 1) / 2 else max a b

/-- The warning threshold: sets at 95 °C, clears at 90 °C. -/
def judgeWarning (s : State) (u : Nat) : State :=
  let p := getPair s u
  let r := protReading s u
  if !p.warning && decide (380 ≤ r) then
    note (warn (putPair s u { p with warning := true }) 1 u) 0x0406 2 u 0 r.toNat
  else if p.warning && decide (readingUp s u ≤ 360) then
    endWarning (putPair s u { p with warning := false }) 1 u
  else s

/-- A unit that is throttled only while its domain runs: no compute cluster in a partial shutdown (R416). -/
def canThrottle (s : State) (u : Nat) : Bool := !(isCluster u && decide (s.board.phase = .partialShutdown))

/-- The throttle threshold: stage 1 at 105 °C, and the times that deepen and release it. `old` is the reading of the sample
before. -/
def judgeThrottle (s : State) (u : Nat) (old : Int) : State :=
  let p := getPair s u
  let r := protReading s u
  let cool := if r < 400 then p.coolSince <|> some s.now else none
  if p.stage = 0 then
    if decide (420 ≤ r) && canThrottle s u then
      note (putPair s u { p with stage := 1, stageAt := s.now, coolSince := none }) 0x0403 2 u 0 1
    else s
  else
    putPair s u { p with
      stageAt := if 420 ≤ r ∧ old < 420 then s.now else p.stageAt, coolSince := cool }

/-- Consecutive samples at 115 °C or more. -/
def countHot (s : State) (u : Nat) : State :=
  modPair s u (fun p => { p with hot := if 460 ≤ protReading s u then p.hot + 1 else 0 })

/-! ## Shutdowns (R405 to R407, R415, R416, R453) -/

/-- The stop record of a sample, unless one is written already (R36). -/
def recordOnce (s : State) (r : StopRecord) : State :=
  if s.board.stopAt = some s.now then s
  else
    let s := addStop s r
    { s with board := { s.board with stopAt := some s.now } }

/-- A total shutdown: a record of type 2 for the unit, or of type 3 with a flow loss in service, and everything volatile is
lost. -/
def totalShutdown (s : State) (u : Nat) (trip : Bool) (also : SameSample) : State :=
  let s := if also.bothFeeds then s
    else if also.flowLoss && afterReady s then stopOnce s 3 (alsoBits { also with flowLoss := false, thermal := true })
    else recordOnce s (mkStop s 2 (alsoBits { also with thermal := false }) (some u) trip)
  let s := holdFault (loseAll s .stopped) true
  { s with board := { s.board with thermtrip := true } }

/-- The outcome of an unfinished Timed turn at a partial shutdown: its first forfeit, else COOLING outside the limits, else a
guarantee fault. -/
def shutdownTurn (outside : Bool) (now : Nat) (t : Turn) : Turn :=
  if t.timed && t.forfeit.isNone then
    if outside then forfeitTurn 2 now t
    else { t with guaranteeAt := t.guaranteeAt <|> some (now, t.delivered) }
  else t

/-- A compat swap under way reverts, and its command ends with SOURCE_ERROR (R219, R416). -/
def dropCompat (s : State) : State :=
  match s.images.compat with
  | none => s
  | some _ =>
    let n := compatSlot s
    let e := (getSlot s n).epoch
    completeStarted (revertCompat s) 0x0508 n 0x0502 (0x0E + 2 ^ 32 * e)

/-- A firmware handover that is pending is abandoned, with its entry (R416). -/
def dropHandover (s : State) : State :=
  if s.fw.handover then
    abandonHandover (note s 0x0703 2 0xFFFF 0 ((s.fw.staged.map (·.version)).getD 0))
  else s

/-- A partial shutdown (R406): every turn ends with RESET, the compute rails go off, every site is in self-refresh, and the
S-die keeps what it holds. -/
def partialShutdown (s : State) (u : Nat) (also : SameSample) : State :=
  let r := protReading s u
  let s := recordOnce s (mkStop s 1 (alsoBits { also with thermal := false }) (some u) false)
  let outside := s.thermal.outside
  let s := mapSessions s (fun _ v => { v with turn := v.turn.map (shutdownTurn outside s.now) })
  let s := abandonSteps (endTurns s (fun _ => true) 0x0C)
  let s := settleSessions (dropHandover (dropCompat s))
  let s := dropSramClears (clearFabric s)
  let s := (List.range 40).foldl (fun s d => modSite s d (fun v => { v with selfRefresh := true })) s
  let s := { s with
    images := { s.images with migrated := [] },
    thermal := { s.thermal with shutdown := true },
    board := { s.board with modReady := false, thermtrip := true, computeRails := false, phase := .partialShutdown } }
  note s 0x0404 6 u 0 r.toNat

/-- The unit with the highest reading of a list, the lower identifier first. -/
def hottestOf (s : State) (us : List Nat) : Option Nat :=
  us.foldl (fun best u => match best with
    | none => some u
    | some v => if protReading s v < protReading s u ∨ (protReading s u = protReading s v ∧ u < v) then some u else some v) none

/-- Units that confirm a shutdown in this sample; while the compute dies are shut down, a cluster confirms nothing. -/
def confirming (s : State) : List Nat :=
  (s.thermal.pairs.filter (fun kv => decide (2 ≤ kv.2.hot) &&
    !(decide (s.board.phase = .partialShutdown) && isCluster kv.1))).map (·.1)

/-- SENSOR_SAMPLE: the sample set replaces the values of the pairs it lists. A shutdown in it leaves warnings and throttles
unrecorded. -/
def execSensorSample (t : Nat) (readings : List (Nat × Int × Int)) (also : SameSample) (s : State) : Out :=
  let s := advance s t
  .next (if governorRuns s then
      let before := s
      let s := readings.foldl takeReading s
      let s := (s.thermal.pairs.map (·.1)).foldl judgeFlag s
      let s := { s with thermal := { s.thermal with inlet := protReading s coldInlet, outlet := protReading s coldOutlet } }
      let units := (s.thermal.pairs.map (·.1)).filter (fun u => isSensed u && sensorsRead s u)
      let s := units.foldl countHot s
      match hottestOf s (confirming s) with
      | some u =>
        let partly := (confirming s).all isCluster && afterReady s && !also.flowLoss && !also.bothFeeds
        if partly then partialShutdown s u also else totalShutdown s u false also
      | none => units.foldl (fun s u => judgeThrottle (judgeWarning s u) u (protReading before u)) s
    else s)

/-- BACKUP_COMPARATOR_TRIP: a sensor at 120 °C in two consecutive samples, without firmware; the comparator of a failed sensor is
disabled. -/
def execBackupComparatorTrip (t unit : Nat) (sensorB : Bool) (a : Int) (b : Met Int SameSample) (s : State) : Out :=
  let s := advance s t
  let p := getPair s unit
  let dead := if sensorB then p.failedB else p.failedA
  let v := if sensorB then b.val else a
  .next (if s.board.railsUp && isSensed unit && !dead && decide (480 ≤ v) && sensorsRead s unit then
      let s := if b.met.bothFeeds then s
        else if b.met.flowLoss && afterReady s then stopOnce s 3 (alsoBits { b.met with flowLoss := false, thermal := true })
        else
          let r := mkStop s 2 (alsoBits { b.met with thermal := false }) (some unit) true
          recordOnce s { r with
            tempA := if p.failedA then r.tempA else a, tempB := if p.failedB then r.tempB else b.val }
      let s := holdFault (loseAll s .stopped) true
      { s with board := { s.board with thermtrip := true } }
    else s)

/-- A partial shutdown's fatal entry describes a condition that has ended. -/
def endShutdownEntry (s : State) : State :=
  { s with blotter := { s.blotter with
      reserve := modWhere (fun e => e.report.code == 0x0404) (fun e => { e with active := false }) s.blotter.reserve } }

/-- The return from a partial shutdown (R414 steps 2 to 5), and the report of its stop record (R413). A slot keeps its arithmetic mode
(DESIGN CHOICE: R122 ends a mode with a reset, R427 lists this return among the resets, and R406 keeps the settings, log entry 28). -/
def returnFromShutdown (s : State) : State :=
  let sites := tmap {} (fun _ v => ({ v with selfRefresh := false, controllerOff := false } : Site)) s.vellum.sites
  let s := { s with
    vellum := { s.vellum with sites := sites },
    board := { s.board with thermtrip := false, computeRails := true },
    thermal := { s.thermal with shutdown := false, coolingCap := 18500 },
    power := { s.power with state := .active, descending := false, moved := 0, idleSince := none } }
  let s := wakeStep (inrushAll (reloadSlots s))
  prepareAllFailed (reportStops (endShutdownEntry { s with board := { s.board with phase := .serving, modReady := true } }))

/-- THERMAL_ACK. -/
def execThermalAck (h : Hdr) (s : State) : Out :=
  .next (runCommand s h opThermalAck false (fun s =>
    if s.thermal.shutdown = false then refuse s h stWrongState
    else if s.thermal.pairs.any (fun kv => isSensed kv.1 && sensorsRead s kv.1 && decide (240 ≤ protReading s kv.1)) then
      refuse s h 0x0605
    else done (returnFromShutdown s) h 0))

/-! ## Throttle stages (R403) -/

/-- THROTTLE_DEEPEN: 100 µs at or above 105 °C. -/
def execThrottleDeepen (t unit : Nat) (s : State) : Out :=
  let s := advance s t
  let p := getPair s unit
  .next (if governorRuns s && canThrottle s unit && decide (1 ≤ p.stage) && decide (p.stage < 7) &&
      decide (420 ≤ protReading s unit) && decide (p.stageAt + 100000 ≤ s.now) then
      note (putPair s unit { p with stage := p.stage + 1, stageAt := s.now }) 0x0403 2 unit 0 (p.stage + 1)
    else s)

/-- THROTTLE_RELEASE: 1 ms below 100 °C. -/
def execThrottleRelease (t unit : Nat) (s : State) : Out :=
  let s := advance s t
  let p := getPair s unit
  .next (match p.coolSince with
    | some x =>
      if governorRuns s && decide (1 ≤ p.stage) && decide (x + 1000000 ≤ s.now) then
        putPair s unit { p with stage := p.stage - 1, coolSince := if p.stage = 1 then none else some s.now }
      else s
    | none => s)

/-! ## Envelopes and flags (R398, R399) -/

/-- A value lies outside the range of some values, widened by 12 °C at each end. -/
def outsideRange (v : Int) (l : List Int) : Bool :=
  l.all (fun x => decide (x + 48 < v)) || l.all (fun x => decide (v < x - 48))

/-- The envelope check of a pair: ten consecutive misses fail a sensor. -/
def checkEnvelope (s : State) (u : Nat) : State :=
  let p := getPair s u
  let around := ((sensorNeighbours u).filter (sensorsRead s)).map (protReading s)
  let outA := !p.failedA && outsideRange p.a (sensorB s u :: around)
  let outB := !p.failedB && outsideRange p.b (sensorA s u :: around)
  let s := putPair s u { p with missA := if outA then p.missA + 1 else 0, missB := if outB then p.missB + 1 else 0 }
  let s := if outA && decide (10 ≤ p.missA + 1) then failSensor s u 0 else s
  if outB && decide (10 ≤ p.missB + 1) then failSensor s u 1 else s

/-- SENSOR_ENVELOPE_CHECK: every pair, once every 1 ms. -/
def execSensorEnvelopeCheck (t : Nat) (s : State) : Out :=
  let s := advance s t
  .next (if governorRuns s then
      ((s.thermal.pairs.map (·.1)).filter (sensorsRead s)).foldl checkEnvelope s
    else s)

/-- SENSOR_FLAG_CLEAR: the pair has stayed within 4 °C for 10 s. -/
def execSensorFlagClear (t unit : Nat) (s : State) : Out :=
  let s := advance s t
  let p := getPair s unit
  .next (match p.closeSince with
    | some x =>
      if p.flagged ∧ x + 10000000000 ≤ s.now then putPair s unit { p with flagged := false, closeSince := none } else s
    | none => s)

/-! ## Coolant (R26, R408, R409) -/

/-- The limits that the coolant breaks: bit 0 inlet, bit 1 flow, bit 2 reading stale. Flow is in 0.1 L/min, temperature in
0.25 °C. -/
def coolantBits (s : State) (inlet : Int) (power : Nat) : Nat :=
  let f := s.thermal.flow
  bit (decide (inlet < 72) || decide (128 < inlet)) +
    2 * bit (decide (400 < f) || decide (f < 140) || decide (f * 17000 < 280 * power)) + 4 * bit s.thermal.flowStale

/-- COOLANT_JUDGE: once every 1 s, against the 1 s means. -/
def execCoolantJudge (t : Nat) (inlet _outlet : Int) (power : Nat) (s : State) : Out :=
  let s := advance s t
  .next (if governorRuns s then
      let bits := coolantBits s inlet power
      let was := s.thermal.outside
      let s := { s with thermal := { s.thermal with outside := decide (bits ≠ 0), power := power } }
      if bits = 0 then (if was then endWarning s 2 0xFFFF else s)
      else
        let s := forfeitAll s 2
        if was then s else note (warn s 2 0xFFFF) 0x0407 2 0xFFFF s.thermal.flow bits
    else s)

/-- Rounded down to 10 W. -/
def tens (w : Nat) : Nat := w / 10 * 10

/-- The cooling cap of R409. The delta term needs an outlet above the inlet. -/
def coolingCapOf (s : State) (inlet outlet : Int) (power : Nat) (steady : Bool) : Nat :=
  let flowTerm := if s.thermal.flowStale then 18500 else s.thermal.flow * 6618 / 100
  let deltaTerm := if steady && decide (3000 ≤ power) && decide (inlet < outlet) then power * 38 / (outlet - inlet).toNat else 18500
  let inletTerm := if 128 < inlet then 18500 - 250 * (inlet - 128).toNat else 18500
  tens (min 18500 (min flowTerm (min deltaTerm inletTerm)))

/-- COOLING_CAP_REVISE: the cap enters T, and a cap below the floor forfeits with COOLING. -/
def execCoolingCapRevise (t : Nat) (inlet outlet : Int) (power : Nat) (steady : Bool) (s : State) : Out :=
  let s := advance s t
  .next (if s.board.modReady then
      let before := target s
      let cap := coolingCapOf s inlet outlet power steady
      let s := { s with thermal := { s.thermal with coolingCap := cap, power := power } }
      let s := judgeReach (dropAllowance s before)
      if s.power.floor ≠ 0 ∧ cap < s.power.floor then forfeitAll s 2 else s
    else s)

/-- COOLANT_FLOW_WRITE: the tray's measured flow, in 0.1 L/min. -/
def execCoolantFlowWrite (t flow : Nat) (s : State) : Out :=
  let s := advance s t
  .next (if governorRuns s then
      { s with thermal := { s.thermal with flow := flow, flowAt := s.now, flowStale := false } }
    else s)

/-- FLOW_READING_STALE: no write for 10 s. -/
def execFlowReadingStale (t : Nat) (s : State) : Out :=
  let s := advance s t
  .next (if governorRuns s && !s.thermal.flowStale && decide (max s.thermal.flowAt s.board.roseAt + 10000000000 ≤ s.now) then
      forfeitAll { s with thermal := { s.thermal with flowStale := true } } 2
    else s)

end Sys2Proof.Machine
end

