-- ==== Sys2Proof/Machine/Reports.lean ====
section
/-! DEFINITION. The meanings of the blotter's own rows (R430 to R433) and of the completion timeout (R278). -/

namespace Sys2Proof.Machine

/-- The classes that a code of R430 may carry; `none` for a code that the blotter does not use. -/
def codeClasses (code : Nat) : List Nat :=
  match code with
  | 0x0101 => [4] | 0x0102 => [0] | 0x0103 => [2] | 0x0104 => [4] | 0x0105 => [3]
  | 0x0201 => [3] | 0x0202 => [3] | 0x0203 => [4] | 0x0204 => [3] | 0x0205 => [2] | 0x0206 => [2] | 0x0207 => [4]
  | 0x0208 => [6] | 0x0209 => [3]
  | 0x0301 => [2] | 0x0302 => [4] | 0x0303 => [2, 4] | 0x0304 => [2] | 0x0305 => [2] | 0x0306 => [4] | 0x0307 => [2]
  | 0x0308 => [2]
  | 0x0401 => [0] | 0x0402 => [2] | 0x0403 => [2] | 0x0404 => [6] | 0x0406 => [2] | 0x0407 => [2]
  | 0x0501 => [0] | 0x0502 => [3] | 0x0503 => [0]
  | 0x0601 => [5] | 0x0602 => [4] | 0x0603 => [3] | 0x0604 => [3] | 0x0605 => [4] | 0x0606 => [3]
  | 0x0701 => [6] | 0x0702 => [6] | 0x0703 => [2] | 0x0704 => [2]
  | _ => []

/-- BLOTTER_REPORT: a unit's report with a code of R430 and its class; STOP_RECORD entries come only from the NVM (R413). -/
def execBlotterReport (t : Nat) (r : Report) (s : State) : Out :=
  let s := advance s t
  .next (if governorRuns s && (codeClasses r.code).contains r.cls then report s r else s)

/-- A key is written as an entry with COALESCED = 1. -/
def flushKey (s : State) (k : Entry) : State := writeEntry s { k with index := s.blotter.next, coalesced := true }

/-- COALESCE_FLUSH: every key is written and freed; coalescing lasts until the intake has fallen to 256 reports. -/
def execCoalesceFlush (t : Nat) (s : State) : Out :=
  let s := advance s t
  .next (if s.blotter.coalescing then
      let keys := s.blotter.keys
      let s := keys.foldl flushKey { s with blotter := { s.blotter with keys := [] } }
      { s with blotter := { s.blotter with coalescing := decide (256 < intakeHeld s.blotter s.now) } }
    else s)

/-- COMPLETION_TIMEOUT: the load ends with SOURCE_ERROR, the page's park is undone, or fetching stops with cause 3; AER records it. -/
def execCompletionTimeout (t : Nat) (kind : ReadKind) (s : State) : Out :=
  let s := aerError (advance s t) 14
  .next (match kind with
    | .folio slot => if slot < 2 ∧ isLoading (getSlot s slot) = true then endLoad s slot 0x0E else s
    | .park session => parkUnconfirmed s session
    | .descriptor func qp =>
      let q := getQueue s func qp
      if q.active && q.enable && !q.stopped && decide (q.sqHead ≠ q.sqTail) then queueError s func qp 3 else s)

end Sys2Proof.Machine
end

