-- ==== Sys2Proof/Machine/Sideband.lean ====
section
/-! DEFINITION. The meanings of the management sideband rows (R19, R294 to R297, R445, R448, R449). -/

namespace Sys2Proof.Machine

def modMgmt (s : State) (f : Mgmt → Mgmt) : State := { s with mgmt := f s.mgmt }

/-- The endpoint works from the stage-1 firmware onward (R294). -/
def endpointRuns (s : State) : Bool := governorRuns s

/-- The measurement blocks over SPDM (R296): each boot stage, the ROOT of each slot, and the seal state. -/
def spdmBlocks (s : State) : List (List Byte) :=
  (s.trust.registers.take 6).map (fun d => leBytes 48 d.toNat) ++
    [0, 1].map (fun n => leBytes 48 (match (getSlot s n).head with | some f => f.root.toNat | none => 0)) ++
    [leBytes 1 (bit s.trust.isUnsealed)]

/-- What an SPDM answer carries: certificate slot 0 holds the chain of the RSA-3072 identity key, and no other slot one (R296). -/
def spdmContent (s : State) (ask : SpdmAsk) : List Byte :=
  match ask with
  | .chain 0 => chainBytes s 0
  | .chain _ => []
  | .measurements => (spdmBlocks s).flatten
  | .other => []

/-- SPDM_REQUEST: answered, with an ERROR where a signature is needed and the module is Unsealed. -/
def execSpdmRequest (overDoe : Met Bool SpdmAsk) (needsSignature : Bool) (s : State) : Out :=
  let ok := !(needsSignature && s.trust.isUnsealed)
  .next (if endpointRuns s && (!overDoe.val || s.link.up) then
      modMgmt s (fun m => { m with
        spdmOk := some ok, spdmAnswers := m.spdmAnswers + 1, spdmBytes := if ok then spdmContent s overDoe.met else [] })
    else s)

/-! ## PLDM monitoring and FRU data (R295) -/

/-- The sensors of Platform Monitoring and Control. -/
inductive PldmSensor where
  | hottest (die : Nat)
  | inlet
  | outlet
  | feedVolts (feed : Nat)
  | feedAmps (feed : Nat)
  | power
  | energy (partition : Nat)
  deriving DecidableEq, Repr

/-- Units of a die with sensors: its clusters or the S-die's blocks, and its site (R397). -/
def dieJunctions (d : Nat) : List Nat := ((List.range 64).map (fun c => mkUnit d c 0)).filter isSensed

/-- A feed's share of the input power in permille: between 400 and 600 while both are in use, a free value; the whole where it is the only
one (R29). -/
def feedShare (s : State) (feed : Nat) : Nat :=
  let a := s.board.feedA.inUse
  let b := s.board.feedB.inUse
  let share := 400 + (Config.feedShare s.now).toNat % 201
  if a && b then (if feed = 0 then share else 1000 - share)
  else if (if feed = 0 then a else b) then 1000 else 0

/-- A sensor's reading: 0.25 °C, 0.01 V, mA, W or mJ. -/
def pldmReading (s : State) (k : PldmSensor) : Int :=
  match k with
  | .hottest d => (dieJunctions d).foldl (fun m u => max m (protReading s u)) (protReading s (siteUnit d))
  | .inlet => s.thermal.inlet
  | .outlet => s.thermal.outlet
  | .feedVolts f => ((if f = 0 then s.board.feedA else s.board.feedB).volts : Int)
  | .feedAmps f =>
    let v := (if f = 0 then s.board.feedA else s.board.feedB).volts
    ((s.power.mean1ms * feedShare s f * 100 / max 1 v : Nat) : Int)
  | .power => (s.power.mean1ms : Int)
  | .energy p => ((getPartition s p).energyMj : Int)

/-- The FRU record (DSP0257): fields that this manual gives, the model and the serial number. -/
def fruData (s : State) : List Byte := (identityPage s).take 16 ++ leBytes 8 s.nvm.serial

/-- SET_ENDPOINT_ID: also answered in the recovery hold. The null and broadcast EIDs are not assigned. -/
def execSetEndpointId (eid : Nat) (s : State) : Out :=
  .next (if (endpointRuns s || decide (s.board.phase = .recoveryHold)) && decide (0 < eid) && decide (eid < 255) then
      modMgmt s (fun m => { m with eid := eid })
    else s)

/-- SET_EVENT_RECEIVER. -/
def execSetEventReceiver (receiver : Nat) (s : State) : Out :=
  .next (if endpointRuns s then modMgmt s (fun m => { m with receiver := some receiver }) else s)

/-- POLL_EVENT: the oldest event held. One that acknowledges is the acknowledgement of governor warnings over the sideband, which
R19 names without its message (log entry 31). -/
def execPollEvent (t : Met Nat Bool) (s : State) : Out :=
  let s := advance s t.val
  .next (if endpointRuns s then
      let s := modMgmt s (fun m => { m with polled := m.poll.head?, poll := m.poll.drop 1 })
      if t.met then ackWarnings s else s
    else s)

/-- The second in which events are counted against the limit begins anew once it has passed. -/
def rollSecond (m : Mgmt) (now : Nat) : Mgmt :=
  if m.secondAt + 1000000000 ≤ now then { m with secondAt := now, inSecond := 0 } else m

/-- The counts are sent as one event a second. -/
def sendCounts (m : Mgmt) (now : Nat) : Mgmt :=
  if m.counted.isEmpty || decide (now + 1 < m.countAt + 1000000000) && decide (m.countAt ≠ 0) then m
  else { m with countEvents := m.countEvents ++ [m.counted], counted := [], countAt := now + 1 }

/-- An entry counted per CODE. -/
def countEntry (m : Mgmt) (e : Entry) : Mgmt :=
  { m with counted := tput 0 m.counted e.report.code (tget 0 m.counted e.report.code + e.count) }

/-- The next entry due to the management controller leaves: to the poll queue while no receiver is set, else as an event while fewer
than 100 have gone in this second, else into the counts (R449). -/
def sendEvent (s : State) (m : Mgmt) : State :=
  match m.toSend with
  | [] => { s with mgmt := if m.receiver.isSome then sendCounts m s.now else m }
  | e :: rest =>
    if m.receiver.isNone then
      { s with mgmt := { m with poll := m.poll ++ [e], toSend := rest },
               board := { s.board with smbAlert := s.board.outputsHeld || s.board.smbAlert } }
    else if m.inSecond < 100 then
      { s with mgmt := { m with sent := m.sent ++ [e], toSend := rest, inSecond := m.inSecond + 1 } }
    else if e.report.cls = 6 then { s with mgmt := m }
    else { s with mgmt := countEntry { m with toSend := rest } e }

/-- PLDM_EVENT_SEND: the oldest entry is sent, held for polling, or counted beyond the limit; a FATAL one waits there. With no entry
waiting, the counts are sent. -/
def execPldmEventSend (t : Nat) (s : State) : Out :=
  let s := advance s t
  .next (if endpointRuns s then sendEvent s (rollSecond s.mgmt s.now) else s)

/-- PLDM_FIRMWARE_UPDATE: refused as busy beside a host update; it activates through the handover. In the recovery hold the boot ROM
starts the image that it delivers. -/
def execPldmFirmwareUpdate (t : Nat) (image : FwImage) (s : State) : Out :=
  let s := advance s t
  .next (if imageOk s image = false then s
    else if s.board.phase = .recoveryHold then
      bootFrom s s.trust.rom
        { stage1 := image, scribe := image, governor := image, housekeeping := image } false
    else if governorRuns s && s.fw.staging.isNone && !s.fw.handover && !s.fw.pldm then
      { s with fw := { s.fw with staged := some image, handover := true, pldm := true } }
    else s)

/-- The module's 7-bit SMBus address: 0x48 and the MGMT_ADDR straps (R22). -/
def smbusAddress (s : State) : Nat := 0x48 + s.board.straps.toNat / 4 % 8

/-- ALERT_RESPONSE_ADDRESS: the module answers with its address, and releases SMB_ALERT_N. -/
def execAlertResponseAddress (t : Nat) (s : State) : Out :=
  let s := advance s t
  .next (if s.board.smbAlert then
      { s with board := { s.board with smbAlert := false }, mgmt := { s.mgmt with arpAnswer := some (smbusAddress s), arpAnswers := s.mgmt.arpAnswers + 1 } }
    else s)

end Sys2Proof.Machine
end

