-- ==== Sys2Proof/Machine/Trust.lean ====
section
/-! DEFINITION. The meanings of the trust family (R340) and of the seal (chapter 13): attestation, publishers, the key exchange,
measurements, certificates, re-provisioning and a break of the seal mesh. -/

namespace Sys2Proof.Machine

/-! ## Records (R357 to R359, R364) -/

/-- A slot entry of a report (R358). -/
def slotEntry (s : State) (n : Nat) : List Byte :=
  let v := getSlot s n
  match v.head with
  | none => leBytes 96 (slotStateCode v.state)
  | some f =>
    leBytes 1 (slotStateCode v.state) ++ leBytes 1 (bit v.reference + 2 * bit v.degraded) ++ leBytes 2 f.flags ++
      leBytes 4 v.epoch ++ leBytes 4 f.publisher ++ leBytes 4 0 ++ leBytes 8 f.modelId ++ leBytes 8 f.buildId ++
      leBytes 48 f.root.toNat ++ leBytes 16 0

/-- STATE of a partition entry (R359). -/
def partitionState (s : State) (p : Nat) : Nat :=
  let v := getPartition s p
  let f := getFn s (p + 1)
  bit v.configured + 2 * bit v.timed + 4 * bit v.isSealed + 8 * bit (decide (f.tdi = .run)) + 16 * bit f.ideSecure

/-- A partition entry of a report (R359). -/
def partitionEntry (s : State) (p : Nat) : List Byte :=
  leBytes 1 (partitionState s p) ++ leBytes 1 p ++ leBytes 1 (bit (getPartition s p).drain) ++ leBytes 13 0

/-- The measurement registers in order. -/
def measurements (s : State) : List Byte := s.trust.registers.flatMap (fun d => leBytes 48 d.toNat)

/-- SCOPE of a report: the module, or the partition of a function. -/
def attestScope (func : Nat) : Nat := if func = 0 then 0xFFFF else func - 1

/-- The body of an attestation report (R357): 3,072 bytes. -/
def attestBody (s : State) (func : Nat) (nonce : BitVec 256) : List Byte :=
  leBytes 4 0x54414847 ++ leBytes 2 0x0100 ++ leBytes 2 (attestScope func) ++ leBytes 4 39120 ++
    leBytes 4 (bit s.trust.recoveryBank + 2 * bit s.trust.logFull) ++ leBytes 8 s.nvm.serial ++ leBytes 32 nonce.toNat ++
    leBytes 8 (if s.link.ptm.lock then stamp s else 0) ++ leBytes 4 s.fw.running ++ leBytes 4 s.nvm.svnFloor ++
    leBytes 4 s.trust.log.length ++ leBytes 4 0 ++ measurements s ++ slotEntry s 0 ++ slotEntry s 1 ++
    (List.range 16).flatMap (fun p => if func = 0 ∨ func = p + 1 then partitionEntry s p else leBytes 16 0) ++
    leBytes 112 0 ++ keyBytes 2 s.nvm.identity 1568 ++ keyBytes 3 s.nvm.identity 97 ++ leBytes 383 0

/-- ATTEST: the report with its two signatures. -/
def execAttest (h : Hdr) (nonce : BitVec 256) (s : State) : Out :=
  .next (runCommand s h opAttest false (fun s =>
    if s.trust.isUnsealed then refuse s h 0x0701
    else
      let sigs := keyBytes 4 s.free 384 ++ keyBytes 5 s.free 35664
      complete (drewFree s) h stSuccess 39120 (fitEntries 39120 h.dataLen (attestBody s h.func nonce ++ sigs))))

/-! ## Publishers -/

/-- PUBLISHER_REGISTER. -/
def execPublisherRegister (h : Hdr) (publisher : Nat) (keyDigest : Digest) (s : State) : Out :=
  .next (runCommand s h opPublisherRegister (decide (2 ^ 32 ≤ publisher)) (fun s =>
    if s.nvm.publishers.any (fun p => p.1 == publisher) then refuse s h stWrongState
    else if 64 ≤ s.nvm.publishers.length then refuse s h stTableFull
    else
      let s := { s with nvm := { s.nvm with publishers := s.nvm.publishers ++ [(publisher, keyDigest)] } }
      done (extend s 6 7 publisher 0 keyDigest) h 0))

/-- A slot that is not EMPTY carries the publisher. -/
def carries (v : Slot) (publisher : Nat) : Bool :=
  decide (v.state ≠ .empty) && (match v.head with | some f => f.publisher == publisher | none => false)

/-- PUBLISHER_REVOKE. -/
def execPublisherRevoke (h : Hdr) (publisher : Nat) (s : State) : Out :=
  .next (runCommand s h opPublisherRevoke false (fun s =>
    match s.nvm.publishers.find? (fun p => p.1 == publisher) with
    | none => refuse s h stWrongState
    | some p =>
      if carries s.images.a publisher || carries s.images.b publisher then refuse s h 0x0702
      else
        let s := { s with nvm := { s.nvm with publishers := s.nvm.publishers.filter (fun q => q.1 != publisher) } }
        done (extend s 6 8 publisher 0 p.2) h 0))

/-! ## The key exchange (R363 to R368) -/

/-- An exchange that is still under way: 60 s have not passed since its START. -/
def exchangeLive (s : State) (e : Exchange) : Bool := decide (s.now < e.startedAt + 60000000000)

/-- Exchanges under way in a partition. -/
def exchangesIn (s : State) (p : Nat) : List Exchange :=
  s.trust.exchanges.filter (fun e => e.partition == p && exchangeLive s e)

/-- The body of an offer (R364): 1,792 bytes. -/
def offerBody (s : State) (p session seq : Nat) : List Byte :=
  leBytes 4 0x4F4B4847 ++ leBytes 2 0x0100 ++ leBytes 1 p ++ leBytes 1 (partitionState s p) ++ leBytes 4 session ++
    leBytes 4 seq ++ leBytes 8 s.nvm.serial ++ leBytes 8 (stamp s) ++ keyBytes 6 s.free 97 ++ leBytes 7 0 ++
    keyBytes 7 s.free 1568 ++ leBytes 48 (Config.sha384 (measurements s)).toNat ++ leBytes 40 0

/-- KEY_EXCHANGE_START: it replaces an unfinished exchange of the session. -/
def execKeyExchangeStart (h : Hdr) (session : Nat) (s : State) : Out :=
  .next (runNamed s h opKeyExchangeStart session (decide (2 ^ 18 ≤ session)) (fun s =>
    let p := h.func - 1
    if s.trust.isUnsealed then answerFor s h opKeyExchangeStart session 0x0701 0
    else if (getPartition s p).isSealed = false then answerFor s h opKeyExchangeStart session stWrongState 0
    else if openIn s session p = false then answerFor s h opKeyExchangeStart session 0x0304 0
    else
      let others := (exchangesIn s p).filter (fun e => e.session != session)
      if 16 ≤ others.length then answerFor s h opKeyExchangeStart session stTableFull 0
      else
        let v := getSession s session
        let seq := v.kxSeq + 1
        let e : Exchange := {
          session := session, partition := p, seq := seq, startedAt := s.now, offer := offerBody s p session seq, eph := s.free }
        let offer := e.offer ++ keyBytes 8 s.free 384 ++ keyBytes 9 s.free 35664
        let s := putSession s session { v with kxSeq := seq }
        let s := { s with trust := { s.trust with exchanges := s.trust.exchanges.filter (fun x => x.session != session) ++ [e] } }
        answerWith (drewFree s) h opKeyExchangeStart session stSuccess 37840 (fitEntries 37840 h.dataLen offer)))

/-- The exchange of a session is over. -/
def dropExchange (s : State) (session : Nat) : State :=
  { s with trust := { s.trust with exchanges := s.trust.exchanges.filter (fun e => e.session != session) } }

/-- Bytes 0x000 to 0x697 of a reply (R365). -/
def replyHead (r : KxReply) : List Byte :=
  leBytes 4 0x524B4847 ++ leBytes 2 0x0100 ++ leBytes 2 0 ++ leBytes 4 r.session ++ leBytes 4 r.kxSeq ++ r.ecPub ++ leBytes 7 0 ++ r.kemCt

/-- The transcript hash of an exchange, and the pseudorandom key (R366). -/
def kxHash (e : Exchange) (r : KxReply) : List Byte := leBytes 48 (Config.sha384 (e.offer ++ replyHead r)).toNat
def kxPrk (e : Exchange) (r : KxReply) : List Byte :=
  hmac384 (kxHash e r) (Config.sharedEc e.eph r.ecPub ++ Config.sharedKem e.eph r.kemCt)

/-- The key confirmation that an exchange expects (R366). -/
def kxConfirm (e : Exchange) (r : KxReply) : List Byte := hmac384 (hkdfExpand (kxPrk e r) "ghk confirm" 48) (kxHash e r)

/-- The key set of an exchange (R366). -/
def kxKeys (e : Exchange) (r : KxReply) : KeySet :=
  let k := fun (info : String) (n : Nat) => leNat (hkdfExpand (kxPrk e r) info n)
  { c2d := BitVec.ofNat 256 (k "ghk c2d" 32), d2c := BitVec.ofNat 256 (k "ghk d2c" 32),
    ivC2d := BitVec.ofNat 32 (k "ghk c2d iv" 4), ivD2c := BitVec.ofNat 32 (k "ghk d2c iv" 4) }

/-- A new key set (R367, R368): its counters start afresh, and a turn accepted before keeps the set that it holds, with its counters. -/
def installKeys (k : KeySet) (v : Session) : Session :=
  let w := { v with keySets := v.keySets + 1, keys := k, recIv := 0, promptIv := none }
  match v.turn with
  | some t => if t.keySet = v.keySets then { w with oldKeys := v.keys, oldRecIv := v.recIv, oldPromptIv := v.promptIv } else w
  | none => w

/-- KEY_EXCHANGE_FINISH. -/
def execKeyExchangeFinish (h : Hdr) (session : Nat) (reply : KxReply) (s : State) : Out :=
  .next (runNamed s h opKeyExchangeFinish session (decide (2 ^ 18 ≤ session) || h.dataLen != 1792 || !reply.magicOk) (fun s =>
    if s.trust.isUnsealed then answerFor s h opKeyExchangeFinish session 0x0701 0
    else match (exchangesIn s (h.func - 1)).find? (fun e => e.session == session) with
      | none => answerFor s h opKeyExchangeFinish session stWrongState 0
      | some e =>
        let s := dropExchange s session
        if reply.session = session ∧ reply.kxSeq = e.seq ∧ reply.pointOk = true ∧ reply.confirm = kxConfirm e reply then
          answerFor (modSession s session (installKeys (kxKeys e reply))) h opKeyExchangeFinish session stSuccess 0
        else answerFor s h opKeyExchangeFinish session 0x0703 0))

/-- KEY_EXCHANGE_EXPIRY: 60 s of host time after START. -/
def execKeyExchangeExpiry (t session : Nat) (s : State) : Out :=
  let s := advance s t
  .next { s with trust := { s.trust with
    exchanges := s.trust.exchanges.filter (fun e => !(e.session == session && !(exchangeLive s e))) } }

/-! ## Measurements and certificates (R355, R356, R373) -/

/-- MEASUREMENT_LOG_READ. -/
def execMeasurementLogRead (h : Hdr) (s : State) : Out :=
  .next (runCommand s h opMeasurementLogRead false (fun s =>
    complete s h stSuccess (64 * s.trust.log.length) (fitEntries 64 h.dataLen (s.trust.log.flatMap logBytes))))

/-- CERT_READ: the chain of a key, or between the two stages of re-provisioning the self-signed certificate of the new key. -/
def execCertRead (h : Hdr) (key : Nat) (s : State) : Out :=
  .next (runCommand s h opCertRead (decide (1 < key)) (fun s =>
    if s.trust.isUnsealed && !s.trust.stageOne then refuse s h 0x0701
    else
      let b :=
        if s.trust.stageOne then keyBytes (10 + key) s.nvm.identity (Config.chainLength (10 + key + 16 * s.nvm.identity)) else chainBytes s key
      complete s h stSuccess b.length (fitEntries b.length h.dataLen b)))

/-! ## Re-provisioning (R374) -/

/-- A package verifies, names the module, and is newer than the last. -/
def packageOk (s : State) (p : Package) : Bool :=
  p.sigsOk && p.serial == s.nvm.serial && decide (s.nvm.provCounter < p.counter)

/-- REPROVISION: stage 1 enrols a new root and makes new keys; stage 2 stores the new chains, and the module leaves the Unsealed
state. -/
def execReprovision (h : Hdr) (pkg : Package) (s : State) : Out :=
  .next (runCommand s h opReprovision false (fun s =>
    if s.trust.isUnsealed = false then refuse s h stWrongState
    else if packageOk s pkg = false then refuse s h 0x0704
    else if pkg.stage = 1 ∧ pkg.meshWhole = true then
      let s := { s with
        nvm := { s.nvm with
          provCounter := pkg.counter, identity := s.nvm.identity + 1, helper := Config.pufHelper pkg.enrol.puf,
          rootCheck := Config.rootCheck (deriveRoot (Config.pufHelper pkg.enrol.puf) pkg.enrol) },
        trust := { holdRoot s.trust (deriveRoot (Config.pufHelper pkg.enrol.puf) pkg.enrol) with stageOne := true, meshArmed := true } }
      done s h 0
    else if pkg.stage = 2 ∧ s.trust.stageOne = true ∧ pkg.leafKeysOk = true then
      let s := { s with
        nvm := { s.nvm with provCounter := pkg.counter, chains := some pkg.chains },
        trust := { s.trust with stageOne := false, isUnsealed := false } }
      done s h 0
    else refuse s h 0x0704))

/-! ## A break of the seal mesh (R347 to R351) -/

/-- Tenants of Sealed partitions. -/
def sealedTenant (s : State) (t : Nat) : Bool := (getTenant s t).registered && (getPartition s (getTenant s t).partition).isSealed

/-- SRAM that a break clears, by byte key: every scratchpad, WORK regions of slices, and ADAPTER regions of Sealed tenants. -/
def breakClears (s : State) (k : Nat) : Bool :=
  let r := tget ({} : RegionInfo) s.fabric.regions (k / 65536 * 8)
  decide (k < sliceKey 0 0) || decide (r.type = .work) || (decide (r.type = .adapter) && sealedTenant s r.owner)

/-- Buffers of an island that a break clears. -/
def breakIsland (i : Island) : Island :=
  { i with
    gate := none, stalled := none, inbox := [], partials := [], heldPartial := none, ligResults := [], routing := [], deferred := [],
    frames := [], windows := [], counts := [] }

/-- Step 3 of R349. -/
def breakCompute (s : State) : State :=
  let hit := breakClears s
  let islands := tmap {} (fun _ i => breakIsland i) s.fabric.islands
  let sram := s.fabric.sram.filter (fun kv => !(hit kv.1))
  let live := s.fabric.live.filter (fun kv => !(hit (kv.1 * 64)))
  let bad := s.fabric.poisoned.filter (fun kv => !(hit (kv.1 * 64)))
  { s with fabric := { s.fabric with islands := islands, sram := sram, live := live, poisoned := bad, inFlight := [] },
           vellum := { s.vellum with prefetch := [] } }

/-- Step 4 of R349: every page, draft page, history extent and adapter version of a Sealed partition is zero. -/
def breakPages (s : State) : State :=
  let mine := fun (p : Nat) => (getPartition s p).isSealed
  let ps := (s.vellum.pages.filter (fun kv => kv.2.isSealed)).map (·.1)
  let ds : List DraftPage := s.serving.draftPages.filter (fun q => (getSession s q.session).isSealed)
  let vs := ((s.serving.tenants.filter (fun kv => kv.2.registered && mine kv.2.partition)).flatMap (fun kv => kv.2.versions)).flatMap
    (fun w => w.extents.map (fun e => (w.site, e)))
  let s := ps.foldl clearPage s
  let s := ds.foldl (fun s (q : DraftPage) => clearUnits s q.site (q.granule * granuleUnits) granuleUnits) s
  let s := vs.foldl (fun s x => clearUnits s x.1 x.2.1 x.2.2) s
  clearExtents s
    ((s.serving.sessions.filter (fun kv => mine kv.2.partition)).flatMap (fun kv => kv.2.extents))

/-- The placements' shares of the cleared SRAM are written again before service resumes. In HOLD and RETAIN the islands stay as they were; in SHED
and deeper, and while the compute dies are off, the return writes them. -/
def breakRefill (s : State) : State :=
  if s.board.phase = .serving ∧ powerCode s.power.state < 2 then reloadSlots s
  else if s.board.phase = .serving ∧ powerCode s.power.state ≤ 3 then
    let s := reloadSlots s
    let islands := tmap {} (fun _ i => ({ i with running := false } : Island)) s.fabric.islands
    { s with fabric := { s.fabric with islands := islands } }
  else s

/-- SEAL_BREAK: before the root is derived the module starts Unsealed; after it, R349 runs and service resumes under R351. -/
def execSealBreak (t : Nat) (s : State) : Out :=
  let s := advance s t
  .next (if s.board.phase = .rails then { s with trust := { s.trust with isUnsealed := true, stageOne := false } }
    else if s.board.railsUp && s.trust.meshArmed then
      let s := { s with trust := { dropRoot s.trust with
        stageOne := false, meshArmed := false, exchanges := [], isUnsealed := true } }
      let s := forfeitAll (breakPages (breakCompute s)) 6
      let s := dropSealedRows ((sealedPartitions s).foldl zeroPartition s)
      let s := zeroSlot (zeroSlot s 0) 1
      let s := writeStop s 6 0
      let s := { s with nvm := { s.nvm with openings := s.nvm.openings + 1 } }
      let steps := s.serving.steps.map (fun st => ({ st with faulty := true, confined := false, ended := [] } : Step))
      breakRefill { s with serving := { s.serving with steps := steps } }
    else s)

end Sys2Proof.Machine
end

