-- ==== Sys2Proof/Machine/VellumEvents.lean ====
section
/-! DEFINITION. The meanings of the vellum rows (chapter 5): refresh, patrol scrub, a read with its corrections, a
write-back, and the end of a granule's copy. -/

namespace Sys2Proof.Machine

/-- REFRESH: the accesses that waited on the bank are counted (R130, R146). -/
def execRefresh (site channel _bank accessWaits : Nat) (s : State) : Out :=
  .next (if siteServes s site && decide (channel < 16) then
      modSite s site (fun v => { v with refreshWaits := sat 32 (v.refreshWaits + accessWaits) })
    else s)

/-- PATROL_SCRUB: the scrubber reads every unit of the site in turn, from the one at which it stopped; a scrub read corrects and
retires as other reads do, and after the last unit a pass is complete. It stops in VELLUM-ONLY (R133). With what it finds comes whether
the scribe's SRAM holds a copy of a system record there (R132). -/
def execPatrolScrub (t site unit : Nat) (ecc : Met VellumEcc Bool) (s : State) : Out :=
  let s := advance s t
  .next (if siteServes s site && decide (s.power.state ≠ .vellumOnly) && unit == (getSite s site).scrubUnit && decide (unit < siteUnits) then
      let last := decide (unit + 1 = siteUnits)
      let s := modSite s site (fun v => { v with
        readUnits := sat 64 (v.readUnits + 1), scrubPasses := if last then sat 32 (v.scrubPasses + 1) else v.scrubPasses,
        scrubUnit := if last then 0 else unit + 1, scrubPosition := if last then 0 else (unit + 1) / granuleUnits })
      let sh := shareAt s site unit
      applyVellumEcc s { site := site, unit := unit, region := sh.1.region, slot := sh.1.slot, copyHeld := ecc.met } ecc.val
    else s)

/-- The right of R143 to read the unit, by the region in which it lies. A fetch agent reads master images and cold copies, an adapter
of its tenant, and a KV page or draft page of its tenant and session. The S-die's blocks read the rest, KV pages to park them, and master images for
the migration engine and the export window. -/
def readAllowed (s : State) (r : VellumRef) : Bool :=
  let sh := shareAt s r.site r.unit
  match sh.1.region with
  | .kv => r.reader.isNone || kvReadable s (pageOf r.site sh.2) r.tenant [r.session] []
  | .adapter => r.reader.isSome && adapterReadable s r.site r.tenant r.unit 1
  | .master => true
  | .cold => r.reader.isSome && (match draftAt s r.site (r.unit / granuleUnits) with
    | some q => draftReadable s q r.tenant [r.session]
    | none => true)
  | _ => r.reader.isNone

/-- An attention read of a KV page that the reader's step has not selected: no step makes one (R174). -/
def unselectedRead (s : State) (r : VellumRef) : Bool :=
  let sh := shareAt s r.site r.unit
  r.attention && decide (sh.1.region = .kv) && (match r.reader.bind (fun u => (getIsland s u).desc) with
    | some d => !(attends s d.step (pageOf r.site sh.2))
    | none => false)

/-- VELLUM_READ (R131, R132, R140, R143): an access that R143 does not allow is refused under R86; an attention read at
or above COMMITTED returns zeros and is counted. -/
def execVellumRead (t : Nat) (r : VellumRef) (ecc : VellumEcc) (s : State) : Out :=
  let s := advance s t
  .next (if siteServes s (holdingSite s r.site r.unit) && decide (r.unit < siteUnits) && !(unselectedRead s r) then
      if readAllowed s r then
        let clamp := r.attention && clampedUnit s r.site r.unit
        let s := modSite s (holdingSite s r.site r.unit) (fun v => { v with
          readUnits := sat 64 (v.readUnits + 1), specClamped := sat 32 (v.specClamped + bit clamp) })
        applyVellumEcc s r ecc
      else
        let s := match r.reader with
          | some u => modMem s u (fun m => { m with isolationFaults := sat 32 (m.isolationFaults + 1) })
          | none => s
        report s { code := 0x0105, cls := 3, source := siteUnit r.site, session := some r.session, tenant := r.tenant,
                   address := r.unit, aux := 1 }
    else s)

/-- VELLUM_WRITE_BACK: a corrected unit is written in the bank's next idle cycle; a write accepted first cancelled it
(R131, R144). -/
def execVellumWriteBack (site unit : Nat) (s : State) : Out :=
  .next (if siteServes s site && (getSite s site).writeBacks.contains unit then
      modSite s site (fun v => { v with
        writeBacks := v.writeBacks.filter (fun u => u != unit), writeUnits := sat 64 (v.writeUnits + 1) })
    else s)

/-- GRANULE_COPY_DONE: the granule has been read and its spare written, and the remap takes effect (R134, R146). -/
def execGranuleCopyDone (t site granule : Nat) (s : State) : Out :=
  let s := advance s t
  .next (if siteServes s site && (getSite s site).copying.contains granule then
      let s := modSite s site (fun v => { v with
        copying := v.copying.filter (fun g => g != granule), readUnits := sat 64 (v.readUnits + granuleUnits),
        writeUnits := sat 64 (v.writeUnits + granuleUnits) })
      retireGranule s site granule 0
    else s)

end Sys2Proof.Machine
end

