-- ==== Sys2Proof/Machine/Dispatch.lean ====
section
/-! DEFINITION. Every command and its meaning: one arm per constructor. -/

namespace Sys2Proof.Machine

def exec (i : Instr) (s : State) : Host.Outcome State Fault Refusal :=
  match i with
  | .identify h => Sys2Proof.Machine.execIdentify h s
  | .adminReset h halt => Sys2Proof.Machine.execAdminReset h halt s
  | .vellumLayout h dflt l => Sys2Proof.Machine.execVellumLayout h dflt l s
  | .fwStage h image => Sys2Proof.Machine.execFwStage h image s
  | .fwHandover h => Sys2Proof.Machine.execFwHandover h s
  | .handoverExecute t => Sys2Proof.Machine.execHandoverExecute t s
  | .handoverTimeout t => Sys2Proof.Machine.execHandoverTimeout t s
  | .faultAck h => Sys2Proof.Machine.execFaultAck h s
  | .partitionConfig h o => Sys2Proof.Machine.execPartitionConfig h o s
  | .parkAreaSet h partition ranges => Sys2Proof.Machine.execParkAreaSet h partition ranges s
  | .timedRegimeSet h rowsT missT pagesT => Sys2Proof.Machine.execTimedRegimeSet h rowsT missT pagesT s
  | .parkThresholdsSet h low high => Sys2Proof.Machine.execParkThresholdsSet h low high s
  | .tenantRegister h tenant rate depth => Sys2Proof.Machine.execTenantRegister h tenant rate depth s
  | .tenantDeregister h tenant => Sys2Proof.Machine.execTenantDeregister h tenant s
  | .reservoirSet h tenant setRate setDepth setWeight rate depth weight => Sys2Proof.Machine.execReservoirSet h tenant setRate setDepth setWeight rate depth weight s
  | .sessionOpen h tenant seed => Sys2Proof.Machine.execSessionOpen h tenant seed s
  | .sessionClose h session => Sys2Proof.Machine.execSessionClose h session s
  | .sessionPark h session => Sys2Proof.Machine.execSessionPark h session s
  | .sessionUnpark h session => Sys2Proof.Machine.execSessionUnpark h session s
  | .prefixRegister h tenant alwaysRead handle prompt => Sys2Proof.Machine.execPrefixRegister h tenant alwaysRead handle prompt s
  | .prefixRelease h tenant handle => Sys2Proof.Machine.execPrefixRelease h tenant handle s
  | .reqSubmit h o => Sys2Proof.Machine.execReqSubmit h o s
  | .reqCancel h session => Sys2Proof.Machine.execReqCancel h session s
  | .folioLoad h slot source peerBar4 f => Sys2Proof.Machine.execFolioLoad h slot source peerBar4 f s
  | .folioUnload h slot => Sys2Proof.Machine.execFolioUnload h slot s
  | .imageSwitch h slot => Sys2Proof.Machine.execImageSwitch h slot s
  | .folioExport h slot peer => Sys2Proof.Machine.execFolioExport h slot peer s
  | .folioExportEnd h => Sys2Proof.Machine.execFolioExportEnd h s
  | .adapterLoad h tenant image => Sys2Proof.Machine.execAdapterLoad h tenant image s
  | .adapterSwap h tenant version => Sys2Proof.Machine.execAdapterSwap h tenant version s
  | .compatSwap h f body => Sys2Proof.Machine.execCompatSwap h f body s
  | .arithModeSet h slot mode => Sys2Proof.Machine.execArithModeSet h slot mode s
  | .expertPin h slot layer expert pin => Sys2Proof.Machine.execExpertPin h slot layer expert pin s
  | .refetchSource h slot kind peerBar4 => Sys2Proof.Machine.execRefetchSource h slot kind peerBar4 s
  | .stencilLoad h slot id stencil => Sys2Proof.Machine.execStencilLoad h slot id stencil s
  | .adapterPin h tenant pin => Sys2Proof.Machine.execAdapterPin h tenant pin s
  | .adapterUnload h tenant version => Sys2Proof.Machine.execAdapterUnload h tenant version s
  | .powerCapSet h capW => Sys2Proof.Machine.execPowerCapSet h capW s
  | .capBind t => Sys2Proof.Machine.execCapBind t s
  | .capFloorSet h floorW => Sys2Proof.Machine.execCapFloorSet h floorW s
  | .latencyToleranceSet h toleranceNs => Sys2Proof.Machine.execLatencyToleranceSet h toleranceNs s
  | .powerRead h => Sys2Proof.Machine.execPowerRead h s
  | .thermalAck h => Sys2Proof.Machine.execThermalAck h s
  | .cartridgePrepare h cartridge => Sys2Proof.Machine.execCartridgePrepare h cartridge s
  | .cartridgeRestore h cartridge => Sys2Proof.Machine.execCartridgeRestore h cartridge s
  | .attest h nonce => Sys2Proof.Machine.execAttest h nonce s
  | .publisherRegister h publisher keyDigest => Sys2Proof.Machine.execPublisherRegister h publisher keyDigest s
  | .publisherRevoke h publisher => Sys2Proof.Machine.execPublisherRevoke h publisher s
  | .keyExchangeStart h session => Sys2Proof.Machine.execKeyExchangeStart h session s
  | .keyExchangeFinish h session reply => Sys2Proof.Machine.execKeyExchangeFinish h session reply s
  | .measurementLogRead h => Sys2Proof.Machine.execMeasurementLogRead h s
  | .certRead h key => Sys2Proof.Machine.execCertRead h key s
  | .reprovision h pkg => Sys2Proof.Machine.execReprovision h pkg s
  | .recordRead h kind unit index count => Sys2Proof.Machine.execRecordRead h kind unit index count s
  | .thresholdSet h entries => Sys2Proof.Machine.execThresholdSet h entries s
  | .blotterRead h first count => Sys2Proof.Machine.execBlotterRead h first count s
  | .tensorUpload h unit space address tensor => Sys2Proof.Machine.execTensorUpload h unit space address tensor s
  | .strokeLoad h half unit strokes => Sys2Proof.Machine.execStrokeLoad h half unit strokes s
  | .diagRun h half unit producer => Sys2Proof.Machine.execDiagRun h half unit producer s
  | .sqTail t func qp value => Sys2Proof.Machine.execSqTail t func qp value s
  | .cqHead t func qp value => Sys2Proof.Machine.execCqHead t func qp value s
  | .tsHead t func qp value => Sys2Proof.Machine.execTsHead t func qp value s
  | .queueEnable t func qp => Sys2Proof.Machine.execQueueEnable t func qp s
  | .queueDisable t func qp => Sys2Proof.Machine.execQueueDisable t func qp s
  | .queueDrained t func qp => Sys2Proof.Machine.execQueueDrained t func qp s
  | .eventCauseClear t bits => Sys2Proof.Machine.execEventCauseClear t bits s
  | .exportEnable t value => Sys2Proof.Machine.execExportEnable t value s
  | .hostTimeRead t func => Sys2Proof.Machine.execHostTimeRead t func s
  | .registerWrite t func offset size value => Sys2Proof.Machine.execRegisterWrite t func offset size value s
  | .bankWrite requester offset size value => Sys2Proof.Machine.execBankWrite requester offset size value s
  | .exportWindowRead t requester offset => Sys2Proof.Machine.execExportWindowRead t requester offset s
  | .descriptorFetch t func qp desc readOk => Sys2Proof.Machine.execDescriptorFetch t func qp desc readOk s
  | .commandTimeout t func qp cid sameCycle => Sys2Proof.Machine.execCommandTimeout t func qp cid sameCycle s
  | .eventBacklogPost t func => Sys2Proof.Machine.execEventBacklogPost t func s
  | .msixSend t func vector => Sys2Proof.Machine.execMsixSend t func vector s
  | .tsRecordWrite t session => Sys2Proof.Machine.execTsRecordWrite t session s
  | .holdingBufferDrain t func qp => Sys2Proof.Machine.execHoldingBufferDrain t func qp s
  | .bindingExpiry t func => Sys2Proof.Machine.execBindingExpiry t func s
  | .perstNAssert t => Sys2Proof.Machine.execPerstNAssert t s
  | .perstNDeassert t => Sys2Proof.Machine.execPerstNDeassert t s
  | .linkDown t => Sys2Proof.Machine.execLinkDown t s
  | .linkRetrain t width rate => Sys2Proof.Machine.execLinkRetrain t width rate s
  | .vfFlr t vf => Sys2Proof.Machine.execVfFlr t vf s
  | .pfFlr t => Sys2Proof.Machine.execPfFlr t s
  | .vfEnableClear t => Sys2Proof.Machine.execVfEnableClear t s
  | .d3hotEntry t func => Sys2Proof.Machine.execD3hotEntry t func s
  | .d0Return t func => Sys2Proof.Machine.execD0Return t func s
  | .ptmEnable t => Sys2Proof.Machine.execPtmEnable t s
  | .ptmDisable t => Sys2Proof.Machine.execPtmDisable t s
  | .ptmExchange t offset success => Sys2Proof.Machine.execPtmExchange t offset success s
  | .ptmLapse t => Sys2Proof.Machine.execPtmLapse t s
  | .ideKm stream secured => Sys2Proof.Machine.execIdeKm stream secured s
  | .ideIntegrityFailure t stream => Sys2Proof.Machine.execIdeIntegrityFailure t stream s
  | .lockInterface vf => Sys2Proof.Machine.execLockInterface vf s
  | .stopInterface vf => Sys2Proof.Machine.execStopInterface vf s
  | .spdmRequest overDoe needsSignature => Sys2Proof.Machine.execSpdmRequest overDoe needsSignature s
  | .setEndpointId eid => Sys2Proof.Machine.execSetEndpointId eid s
  | .coolantFlowWrite t flow => Sys2Proof.Machine.execCoolantFlowWrite t flow s
  | .flowReadingStale t => Sys2Proof.Machine.execFlowReadingStale t s
  | .powerCapEffecter t capW => Sys2Proof.Machine.execPowerCapEffecter t capW s
  | .setEventReceiver receiver => Sys2Proof.Machine.execSetEventReceiver receiver s
  | .pollEvent t => Sys2Proof.Machine.execPollEvent t s
  | .pldmEventSend t => Sys2Proof.Machine.execPldmEventSend t s
  | .pldmFirmwareUpdate t image => Sys2Proof.Machine.execPldmFirmwareUpdate t image s
  | .alertResponseAddress t => Sys2Proof.Machine.execAlertResponseAddress t s
  | .modEnRise t => Sys2Proof.Machine.execModEnRise t s
  | .modEnFall t also => Sys2Proof.Machine.execModEnFall t also s
  | .strapSample t s4 s5 s6 => Sys2Proof.Machine.execStrapSample t s4 s5 s6 s
  | .railWaves t => Sys2Proof.Machine.execRailWaves t s
  | .boot t root rom primary recovery => Sys2Proof.Machine.execBoot t root rom primary recovery s
  | .selfTest t r => Sys2Proof.Machine.execSelfTest t r s
  | .vellumTraining t failedSites => Sys2Proof.Machine.execVellumTraining t failedSites s
  | .flowLoss t also => Sys2Proof.Machine.execFlowLoss t also s
  | .flowRestored t => Sys2Proof.Machine.execFlowRestored t s
  | .feedInUse t feed volts => Sys2Proof.Machine.execFeedInUse t feed volts s
  | .feedLost t feed volts also => Sys2Proof.Machine.execFeedLost t feed volts also s
  | .feedWarning t feed volts => Sys2Proof.Machine.execFeedWarning t feed volts s
  | .feedWaitTimeout t => Sys2Proof.Machine.execFeedWaitTimeout t s
  | .cartridgeInserted t cartridge => Sys2Proof.Machine.execCartridgeInserted t cartridge s
  | .cartridgeRemoved t cartridge => Sys2Proof.Machine.execCartridgeRemoved t cartridge s
  | .phaseLost t cartridge => Sys2Proof.Machine.execPhaseLost t cartridge s
  | .dieShort t die => Sys2Proof.Machine.execDieShort t die s
  | .dieCurrentCheck t die amps => Sys2Proof.Machine.execDieCurrentCheck t die amps s
  | .ldoSegmentFail t unit => Sys2Proof.Machine.execLdoSegmentFail t unit s
  | .ceilingCheck t unit neededCode => Sys2Proof.Machine.execCeilingCheck t unit neededCode s
  | .droopTrip unit cycles => Sys2Proof.Machine.execDroopTrip unit cycles s
  | .droopReport t unit => Sys2Proof.Machine.execDroopReport t unit s
  | .droopThrottleEnd t unit => Sys2Proof.Machine.execDroopThrottleEnd t unit s
  | .inrushSlot t die amps => Sys2Proof.Machine.execInrushSlot t die amps s
  | .inrushWaitExpiry t die => Sys2Proof.Machine.execInrushWaitExpiry t die s
  | .allowanceRamp t mean1ms mean10ms => Sys2Proof.Machine.execAllowanceRamp t mean1ms mean10ms s
  | .powerStateEntry t => Sys2Proof.Machine.execPowerStateEntry t s
  | .powerStateDescentMove t => Sys2Proof.Machine.execPowerStateDescentMove t s
  | .wake t trigger => Sys2Proof.Machine.execWake t trigger s
  | .baseEnergySplit t mj => Sys2Proof.Machine.execBaseEnergySplit t mj s
  | .sensorSample t readings also => Sys2Proof.Machine.execSensorSample t readings also s
  | .backupComparatorTrip t unit sensorB a b => Sys2Proof.Machine.execBackupComparatorTrip t unit sensorB a b s
  | .throttleDeepen t unit => Sys2Proof.Machine.execThrottleDeepen t unit s
  | .throttleRelease t unit => Sys2Proof.Machine.execThrottleRelease t unit s
  | .sensorEnvelopeCheck t => Sys2Proof.Machine.execSensorEnvelopeCheck t s
  | .sensorFlagClear t unit => Sys2Proof.Machine.execSensorFlagClear t unit s
  | .coolantJudge t inlet outlet power => Sys2Proof.Machine.execCoolantJudge t inlet outlet power s
  | .coolingCapRevise t inlet outlet power steady => Sys2Proof.Machine.execCoolingCapRevise t inlet outlet power steady s
  | .sealBreak t => Sys2Proof.Machine.execSealBreak t s
  | .keyExchangeExpiry t session => Sys2Proof.Machine.execKeyExchangeExpiry t session s
  | .nop h => Sys2Proof.Machine.execNop h s
  | .loopBegin h ctr count fromDesc => Sys2Proof.Machine.execLoopBegin h ctr count fromDesc s
  | .loopEnd h ctr => Sys2Proof.Machine.execLoopEnd h ctr s
  | .stepBegin h => Sys2Proof.Machine.execStepBegin h s
  | .stepEnd h energyMj => Sys2Proof.Machine.execStepEnd h energyMj s
  | .predLoad h p src => Sys2Proof.Machine.execPredLoad h p src s
  | .mac h act w acc => Sys2Proof.Machine.execMac h act w acc s
  | .drain h dst acc scale => Sys2Proof.Machine.execDrain h dst acc scale s
  | .valu h dst srcs fn => Sys2Proof.Machine.execValu h dst srcs fn s
  | .vxcend h dst src fn => Sys2Proof.Machine.execVxcend h dst src fn s
  | .narrow h dst src opc => Sys2Proof.Machine.execNarrow h dst src opc s
  | .widen h dst src scaleAddr fmt => Sys2Proof.Machine.execWiden h dst src scaleAddr fmt s
  | .load h vreg addr ecc => Sys2Proof.Machine.execLoad h vreg addr ecc s
  | .store h vreg addr => Sys2Proof.Machine.execStore h vreg addr s
  | .sliceRead h dst addr unit rows crossing merge ecc => Sys2Proof.Machine.execSliceRead h dst addr unit rows crossing merge ecc s
  | .sliceWrite h src addr unit rows crossing => Sys2Proof.Machine.execSliceWrite h src addr unit rows crossing s
  | .send h src unit addr rows crossing bufferFull => Sys2Proof.Machine.execSend h src unit addr rows crossing bufferFull s
  | .recv h dst crossing => Sys2Proof.Machine.execRecv h dst crossing s
  | .ligSend h src unit addr tag rows => Sys2Proof.Machine.execLigSend h src unit addr tag rows s
  | .ligRecv h dst tag scale => Sys2Proof.Machine.execLigRecv h dst tag scale s
  | .dmaPost h index => Sys2Proof.Machine.execDmaPost h index s
  | .dmaWait h ctr count => Sys2Proof.Machine.execDmaWait h ctr count s
  | .tokenArrival consumer crossing gatedCycles => Sys2Proof.Machine.execTokenArrival consumer crossing gatedCycles s
  | .sendAck producer crossing => Sys2Proof.Machine.execSendAck producer crossing s
  | .watchdog t consumer producer crossing tokenSameCycle => Sys2Proof.Machine.execWatchdog t consumer producer crossing tokenSameCycle s
  | .flitRetry t die dir sublink => Sys2Proof.Machine.execFlitRetry t die dir sublink s
  | .sublinkOut t die dir sublink => Sys2Proof.Machine.execSublinkOut t die dir sublink s
  | .mergeWindowClose unit row => Sys2Proof.Machine.execMergeWindowClose unit row s
  | .ligatureCombine unit tag gatedCycles => Sys2Proof.Machine.execLigatureCombine unit tag gatedCycles s
  | .dmaComplete t cluster tile ecc load => Sys2Proof.Machine.execDmaComplete t cluster tile ecc load s
  | .correctedWriteBack unit row => Sys2Proof.Machine.execCorrectedWriteBack unit row s
  | .scrubRead unit row ecc => Sys2Proof.Machine.execScrubRead unit row ecc s
  | .clearComplete t index error => Sys2Proof.Machine.execClearComplete t index error s
  | .refresh site channel bank accessWaits => Sys2Proof.Machine.execRefresh site channel bank accessWaits s
  | .patrolScrub t site unit ecc => Sys2Proof.Machine.execPatrolScrub t site unit ecc s
  | .vellumRead t r ecc => Sys2Proof.Machine.execVellumRead t r ecc s
  | .vellumWriteBack site unit => Sys2Proof.Machine.execVellumWriteBack site unit s
  | .granuleCopyDone t site granule => Sys2Proof.Machine.execGranuleCopyDone t site granule s
  | .prefetchIssue t cluster reads => Sys2Proof.Machine.execPrefetchIssue t cluster reads s
  | .stepIssue t kind rows => Sys2Proof.Machine.execStepIssue t kind rows s
  | .sampleRow t step row logits => Sys2Proof.Machine.execSampleRow t step row logits s
  | .prefillHandoff t step => Sys2Proof.Machine.execPrefillHandoff t step s
  | .healthTest t step => Sys2Proof.Machine.execHealthTest t step s
  | .stepReplay t step die => Sys2Proof.Machine.execStepReplay t step die s
  | .residencyRevise t => Sys2Proof.Machine.execResidencyRevise t s
  | .seatRelease t layer => Sys2Proof.Machine.execSeatRelease t layer s
  | .adapterLineLoad t tenant => Sys2Proof.Machine.execAdapterLineLoad t tenant s
  | .admissionRound t => Sys2Proof.Machine.execAdmissionRound t s
  | .autoPark t => Sys2Proof.Machine.execAutoPark t s
  | .parkPageConfirm t session ok => Sys2Proof.Machine.execParkPageConfirm t session ok s
  | .unparkPageCheck t session result => Sys2Proof.Machine.execUnparkPageCheck t session result s
  | .drainTimeout t partition => Sys2Proof.Machine.execDrainTimeout t partition s
  | .chunkArrival t slot chunk data => Sys2Proof.Machine.execChunkArrival t slot chunk data s
  | .folioLoadComplete t slot body => Sys2Proof.Machine.execFolioLoadComplete t slot body s
  | .firstActivationFill t sourceFailed => Sys2Proof.Machine.execFirstActivationFill t sourceFailed s
  | .migrationStart t => Sys2Proof.Machine.execMigrationStart t s
  | .migrationPartDone t unit load => Sys2Proof.Machine.execMigrationPartDone t unit load s
  | .slotDrained t slot => Sys2Proof.Machine.execSlotDrained t slot s
  | .compatLayerRewrite t layer sourceFailed => Sys2Proof.Machine.execCompatLayerRewrite t layer sourceFailed s
  | .chunkRefetch t slot chunk data => Sys2Proof.Machine.execChunkRefetch t slot chunk data s
  | .refetchTimeout t slot => Sys2Proof.Machine.execRefetchTimeout t slot s
  | .blotterReport t r => Sys2Proof.Machine.execBlotterReport t r s
  | .coalesceFlush t => Sys2Proof.Machine.execCoalesceFlush t s
  | .cartridgePrepareDone t cartridge => Sys2Proof.Machine.execCartridgePrepareDone t cartridge s
  | .dischargeDelayEnd t => Sys2Proof.Machine.execDischargeDelayEnd t s
  | .completionTimeout t kind => Sys2Proof.Machine.execCompletionTimeout t kind s
  | .startInterface vf => Sys2Proof.Machine.execStartInterface vf s
  | .linkUp t => Sys2Proof.Machine.execLinkUp t s
  | .vfEnableSet numVfs => Sys2Proof.Machine.execVfEnableSet numVfs s
  | .adapterLoadDone t tenant => Sys2Proof.Machine.execAdapterLoadDone t tenant s
  | .fwStageDone t => Sys2Proof.Machine.execFwStageDone t s
  | .cartridgeRestoreDone t cartridge r => Sys2Proof.Machine.execCartridgeRestoreDone t cartridge r s

end Sys2Proof.Machine
end

