-- ==== Sys2Proof/Safety.lean ====
section
/-! DEFINITION. The terms in which claims are made: the parts of the state and what a command leaves alone, when a mailbox
command takes its own effect and how it is answered, and what holds of the state after every step. -/

namespace Sys2Proof

open Sys2Proof.Machine

/-! ## Parts of the state -/

/-- The parts of the state. -/
inductive Part where
  | queue | now | free | board | nvm | link | mailbox | serving | images | vellum | fabric | power | thermal | blotter
  | mgmt | trust | fw | map
  deriving DecidableEq, Repr

/-- A part is the same in two states. -/
def Part.same : Part → State → State → Prop
  | .queue, s, t => t.pending = s.pending
  | .now, s, t => t.now = s.now
  | .free, s, t => t.free = s.free
  | .board, s, t => t.board = s.board
  | .nvm, s, t => t.nvm = s.nvm
  | .link, s, t => t.link = s.link
  | .mailbox, s, t => t.mailbox = s.mailbox
  | .serving, s, t => t.serving = s.serving
  | .images, s, t => t.images = s.images
  | .vellum, s, t => t.vellum = s.vellum
  | .fabric, s, t => t.fabric = s.fabric
  | .power, s, t => t.power = s.power
  | .thermal, s, t => t.thermal = s.thermal
  | .blotter, s, t => t.blotter = s.blotter
  | .mgmt, s, t => t.mgmt = s.mgmt
  | .trust, s, t => t.trust = s.trust
  | .fw, s, t => t.fw = s.fw
  | .map, s, t => t.map = s.map

/-- No part of the state changes but those listed. -/
def Only (parts : List Part) (s t : State) : Prop := ∀ p, p ∉ parts → p.same s t

/-! ## Mailbox commands -/

/-- The command of the header may start, and the mailbox layer has no status for it (R307, R309, R319, R326). -/
def Accepted (s : State) (h : Hdr) (op : Opcode) : Prop :=
  canStart (advance s h.time) h op = true ∧ mailboxStatus (advance s h.time) h op = none

/-- The command of a virtual function may start, and its partition serves it (R326, R351). -/
def AcceptedVf (s : State) (h : Hdr) (op : Opcode) : Prop :=
  Accepted s h op ∧ (getPartition s (h.func - 1)).configured = true ∧
    ¬ ((getPartition s (h.func - 1)).isSealed = true ∧ s.trust.isUnsealed = true)

/-- No command of its pair that names the session waits for the session's turn to end, or for its park or unpark: it starts, and is
answered at once (R310). -/
def Unhindered (s : State) (h : Hdr) (session : Nat) : Prop :=
  turnEnds (advance s h.time) h session = false ∧ s.mailbox.fetched.any (parksFrom h.func h.qp session) = false

/-- The command has no unfinished fetch whose time-out fell in the cycle of its completion (R312). -/
def OnTime (s : State) (h : Hdr) : Prop :=
  ∀ f ∈ s.mailbox.fetched, f.func = h.func → f.qp = h.qp → f.cid = h.cid → f.lateFlag = false

/-- The entry that answers a command from a queue pair at a time (R306). -/
def answerEntry (q : Queue) (h : Hdr) (time status result : Nat) (data : List Byte) : CqEntry :=
  { cid := h.cid, sqHead := q.sqHead, status := status, phase := q.cqPhase, time := time, result := result, data := data }

/-- A command under way is the header's. -/
def isFor (h : Hdr) (f : Fetched) : Bool := f.func == h.func && f.qp == h.qp && f.cid == h.cid

/-- From `s` to `t` the command of the header is completed (R306, R310): it is no longer unfinished, every other command
under way stays, and where its pair is enabled the next entry of the pair's CQ carries its CID, the status, the RESULT and
the data out; where the CQ is full or entries wait already, the entry is held. A command whose pair was reset since its fetch is
completed without an entry. Every other pair and every binding stays. -/
def Answered (s t : State) (h : Hdr) (status result : Nat) (data : List Byte) : Prop :=
  let q := getQueue s h.func h.qp
  let e := answerEntry q h (stamp t) status result data
  let muted := isMuted (s.mailbox.fetched.find? (isFor h))
  t.mailbox.fetched = s.mailbox.fetched.eraseP (isFor h) ∧
    (muted = false → q.active = true → q.enable = true →
      getQueue t h.func h.qp = if q.heldCq.isEmpty && cqRoom q then pushCq q e else { q with heldCq := q.heldCq ++ [e] }) ∧
    (muted = true → getQueue t h.func h.qp = q) ∧
    (∀ func qp, qkey func qp ≠ qkey h.func h.qp → getQueue t func qp = getQueue s func qp) ∧
    t.mailbox.backlog = s.mailbox.backlog ∧ t.mailbox.overflow = s.mailbox.overflow ∧
    t.mailbox.bindings = s.mailbox.bindings

/-- What an answer may change beside the command's own effect: the time, the mailbox, the MSI-X state of the link. -/
def answerParts : List Part := [.now, .mailbox, .link]

/-- The command that was started on an object with an opcode, if there is one, is completed with a status and a RESULT. -/
def Ended (s t : State) (opcode arg status result : Nat) : Prop :=
  ∀ f, findStarted s opcode arg = some f → OnTime s { time := 0, func := f.func, qp := f.qp, cid := f.cid } →
    Answered s t { time := 0, func := f.func, qp := f.qp, cid := f.cid } status result []

/-- The command stays under way, started, with the object it works on (R309); one whose pair was reset since its fetch stays apart from the
pair's new commands. -/
def Started (t : State) (h : Hdr) (op : Opcode) (arg : Nat) : Prop :=
  ∃ f ∈ t.mailbox.fetched,
    f.func = h.func ∧ f.qp = (if f.muted && h.func != 0 then h.qp + 8 else h.qp) ∧ f.cid = h.cid ∧ f.opcode = op.code ∧ f.started = true ∧ f.arg = arg ∧
      f.background = op.bg ∧ f.fence = h.fence

/-! ## What every step keeps -/

/-- The stop records: at most 1,024 (R413), their SEQ rising and none above the last one given (R412); at most 64 publishers
(R340). -/
def NvmSound (v : Nvm) : Prop :=
  v.stopRecords.length ≤ 1024 ∧ v.stopRecords.Pairwise (fun a b => a.seq < b.seq) ∧
    (∀ r ∈ v.stopRecords, r.seq ≤ v.stopSeq) ∧ v.publishers.length ≤ 64

/-- The governor: no cap above 18,500 W (R384, R385), a point of the ladder from 1 to 14 (R386). -/
def PowerSound (v : Power) : Prop :=
  v.hostCap ≤ 18500 ∧ v.boundCap ≤ 18500 ∧ 1 ≤ v.point ∧ v.point ≤ 14

/-- The cooling cap is at most 18,500 W (R409), and the table of the sensor pairs keeps its canonical form. -/
def ThermalSound (v : Thermal) : Prop := v.coolingCap ≤ 18500 ∧ twf {} v.pairs = true

/-- The blotter: 8,128 entries in the ring, 64 in the reserve, 256 keys (R431 to R433). -/
def BlotterSound (v : Blotter) : Prop :=
  (v.ring.map entrySize).sum ≤ 8128 ∧ v.reserve.length ≤ 64 ∧ v.keys.length ≤ 256

/-- The trust side: eight measurement registers, at most 4,096 log entries (R354, R355). -/
def TrustSound (v : Trust) : Prop := v.registers.length = 8 ∧ v.log.length ≤ 4096

/-- What holds of the module's state after every step: the byte memories of the vellum and of the dies keep their canonical
form, and every store of a fixed size keeps within it. -/
structure Sound (s : State) : Prop where
  vellum : mwf s.vellum.mem = true
  sram : mwf s.fabric.sram = true
  nvm : NvmSound s.nvm
  power : PowerSound s.power
  thermal : ThermalSound s.thermal
  blotter : BlotterSound s.blotter
  events : s.mgmt.inSecond ≤ 100
  trust : TrustSound s.trust

/-! ## What each command may change -/

/-- The parts of the state that a command may change, in every state. Every other part is as it was. -/
def touched (c : Instr) : List Part :=
  match c with
  | .identify .. => [.now, .link, .mailbox, .blotter, .mgmt]
  | .adminReset .. => [.now, .free, .board, .link, .mailbox, .serving, .images, .vellum, .fabric, .power, .thermal,
      .blotter, .mgmt, .trust, .fw, .map]
  | .vellumLayout .. => [.now, .nvm, .link, .mailbox, .vellum, .blotter, .mgmt]
  | .fwStage .. => [.now, .link, .mailbox, .blotter, .mgmt, .fw]
  | .fwHandover .. => [.now, .link, .mailbox, .blotter, .mgmt, .fw]
  | .handoverExecute .. => [.now, .link, .mailbox, .serving, .power, .blotter, .mgmt, .trust, .fw]
  | .handoverTimeout .. => [.now, .link, .mailbox, .serving, .power, .blotter, .mgmt, .fw]
  | .faultAck .. => [.now, .link, .mailbox, .blotter, .mgmt]
  | .partitionConfig .. => [.now, .free, .link, .mailbox, .serving, .blotter, .mgmt]
  | .parkAreaSet .. => [.now, .link, .mailbox, .serving, .blotter, .mgmt]
  | .timedRegimeSet .. => [.now, .link, .mailbox, .serving, .blotter, .mgmt]
  | .parkThresholdsSet .. => [.now, .link, .mailbox, .serving, .blotter, .mgmt]
  | .tenantRegister .. => [.now, .link, .mailbox, .serving, .blotter, .mgmt]
  | .tenantDeregister .. => [.now, .link, .mailbox, .serving, .images, .vellum, .blotter, .mgmt]
  | .reservoirSet .. => [.now, .link, .mailbox, .serving, .blotter, .mgmt]
  | .sessionOpen .. => [.now, .free, .link, .mailbox, .serving, .blotter, .mgmt]
  | .sessionClose .. => [.now, .link, .mailbox, .serving, .images, .vellum, .power, .blotter, .mgmt, .trust]
  | .sessionPark .. => [.now, .link, .mailbox, .serving, .vellum, .blotter, .mgmt]
  | .sessionUnpark .. => [.now, .link, .mailbox, .serving, .blotter, .mgmt]
  | .prefixRegister .. => [.now, .link, .mailbox, .serving, .blotter, .mgmt]
  | .prefixRelease .. => [.now, .link, .mailbox, .serving, .vellum, .power, .blotter, .mgmt]
  | .reqSubmit .. => [.now, .link, .mailbox, .serving, .images, .vellum, .power, .blotter, .mgmt, .trust]
  | .reqCancel .. => [.now, .link, .mailbox, .serving, .images, .vellum, .power, .blotter, .mgmt, .trust]
  | .folioLoad .. => [.now, .link, .mailbox, .images, .blotter, .mgmt]
  | .folioUnload .. => [.now, .link, .mailbox, .serving, .images, .fabric, .power, .blotter, .mgmt]
  | .imageSwitch .. => [.now, .link, .mailbox, .serving, .images, .vellum, .fabric, .blotter, .mgmt]
  | .folioExport .. => [.now, .link, .mailbox, .images, .blotter, .mgmt]
  | .folioExportEnd .. => [.now, .link, .mailbox, .images, .blotter, .mgmt]
  | .adapterLoad .. => [.now, .link, .mailbox, .serving, .vellum, .blotter, .mgmt]
  | .adapterSwap .. => [.now, .link, .mailbox, .serving, .images, .vellum, .blotter, .mgmt]
  | .compatSwap .. => [.now, .link, .mailbox, .serving, .images, .blotter, .mgmt]
  | .arithModeSet .. => [.now, .link, .mailbox, .images, .blotter, .mgmt]
  | .expertPin .. => [.now, .link, .mailbox, .images, .blotter, .mgmt]
  | .refetchSource .. => [.now, .link, .mailbox, .images, .blotter, .mgmt]
  | .stencilLoad .. => [.now, .link, .mailbox, .images, .blotter, .mgmt]
  | .adapterPin .. => [.now, .link, .mailbox, .serving, .blotter, .mgmt]
  | .adapterUnload .. => [.now, .link, .mailbox, .serving, .images, .vellum, .blotter, .mgmt]
  | .powerCapSet .. => [.now, .board, .link, .mailbox, .serving, .power, .blotter, .mgmt]
  | .capBind .. => [.now, .board, .link, .mailbox, .serving, .images, .vellum, .fabric, .power, .blotter, .mgmt,
      .trust, .map]
  | .capFloorSet .. => [.now, .link, .mailbox, .power, .blotter, .mgmt]
  | .latencyToleranceSet .. => [.now, .link, .mailbox, .power, .blotter, .mgmt]
  | .powerRead .. => [.now, .link, .mailbox, .blotter, .mgmt]
  | .thermalAck .. => [.now, .board, .nvm, .link, .mailbox, .serving, .images, .vellum, .fabric, .power, .thermal,
      .blotter, .mgmt]
  | .cartridgePrepare .. => [.now, .board, .link, .mailbox, .serving, .images, .vellum, .fabric, .blotter, .mgmt]
  | .cartridgeRestore .. => [.now, .board, .link, .mailbox, .fabric, .blotter, .mgmt]
  | .attest .. => [.now, .free, .link, .mailbox, .blotter, .mgmt]
  | .publisherRegister .. => [.now, .nvm, .link, .mailbox, .blotter, .mgmt, .trust]
  | .publisherRevoke .. => [.now, .nvm, .link, .mailbox, .blotter, .mgmt, .trust]
  | .keyExchangeStart .. => [.now, .free, .link, .mailbox, .serving, .blotter, .mgmt, .trust]
  | .keyExchangeFinish .. => [.now, .link, .mailbox, .serving, .blotter, .mgmt, .trust]
  | .measurementLogRead .. => [.now, .link, .mailbox, .blotter, .mgmt]
  | .certRead .. => [.now, .link, .mailbox, .blotter, .mgmt]
  | .reprovision .. => [.now, .nvm, .link, .mailbox, .blotter, .mgmt, .trust]
  | .recordRead .. => [.now, .link, .mailbox, .blotter, .mgmt]
  | .thresholdSet .. => [.now, .link, .mailbox, .serving, .blotter, .mgmt]
  | .blotterRead .. => [.now, .link, .mailbox, .blotter, .mgmt]
  | .tensorUpload .. => [.now, .link, .mailbox, .serving, .vellum, .fabric, .blotter, .mgmt]
  | .strokeLoad .. => [.now, .link, .mailbox, .fabric, .blotter, .mgmt]
  | .diagRun .. => [.now, .free, .board, .nvm, .link, .mailbox, .serving, .images, .vellum, .fabric, .power, .blotter,
      .mgmt, .trust, .map]
  | .sqTail .. => [.now, .link, .mailbox, .blotter, .mgmt]
  | .cqHead .. => [.now, .link, .mailbox, .blotter, .mgmt]
  | .tsHead .. => [.now, .link, .mailbox, .blotter, .mgmt]
  | .queueEnable .. => [.now, .free, .link, .mailbox, .serving, .images, .vellum, .power, .blotter, .mgmt, .trust]
  | .queueDisable .. => [.now, .link, .mailbox, .serving, .images, .vellum, .power, .blotter, .mgmt, .trust]
  | .queueDrained .. => [.now, .mailbox]
  | .eventCauseClear .. => [.now, .link, .blotter]
  | .exportEnable .. => [.now, .link, .images]
  | .hostTimeRead .. => [.now, .link, .mailbox, .blotter, .mgmt]
  | .registerWrite .. => [.now, .link, .mailbox, .serving, .images, .vellum, .power, .blotter, .mgmt, .trust]
  | .bankWrite .. => [.images]
  | .exportWindowRead .. => [.now, .link, .mailbox, .blotter, .mgmt]
  | .descriptorFetch .. => [.now, .link, .mailbox, .blotter, .mgmt]
  | .commandTimeout .. => [.now, .link, .mailbox, .power, .blotter, .mgmt, .fw]
  | .eventBacklogPost .. => [.now, .link, .mailbox]
  | .msixSend .. => [.now, .link]
  | .tsRecordWrite .. => [.now, .link, .mailbox, .serving, .images, .vellum, .power, .blotter, .mgmt, .trust]
  | .holdingBufferDrain .. => [.now, .link, .mailbox, .serving, .images, .vellum, .power, .blotter, .mgmt, .trust]
  | .bindingExpiry .. => [.now, .link, .mailbox, .serving, .images, .vellum, .power, .blotter, .mgmt, .trust]
  | .perstNAssert .. => [.now, .board, .link, .mailbox, .serving, .images]
  | .perstNDeassert .. => [.now, .board, .link, .mailbox]
  | .linkDown .. => [.now, .link, .mailbox, .serving, .images]
  | .linkRetrain .. => [.now, .link, .serving]
  | .vfFlr .. => [.now, .link, .mailbox, .serving, .images, .vellum, .power, .blotter, .mgmt, .trust]
  | .pfFlr .. => [.now, .link, .mailbox, .serving, .images, .vellum, .power, .blotter, .mgmt, .trust]
  | .vfEnableClear .. => [.now, .link, .mailbox, .serving, .images, .vellum, .power, .blotter, .mgmt, .trust]
  | .d3hotEntry .. => [.now, .link]
  | .d0Return .. => [.now, .link]
  | .ptmEnable .. => [.now, .link]
  | .ptmDisable .. => [.now, .link]
  | .ptmExchange .. => [.now, .link, .mailbox]
  | .ptmLapse .. => [.now, .link, .mailbox, .serving]
  | .ideKm .. => [.link]
  | .ideIntegrityFailure .. => [.now, .link, .mailbox, .serving, .images, .vellum, .power, .blotter, .mgmt, .trust]
  | .lockInterface .. => [.link]
  | .stopInterface .. => [.link]
  | .spdmRequest .. => [.mgmt]
  | .setEndpointId .. => [.mgmt]
  | .coolantFlowWrite .. => [.now, .thermal]
  | .flowReadingStale .. => [.now, .serving, .thermal]
  | .powerCapEffecter .. => [.now, .board, .link, .mailbox, .serving, .power, .blotter, .mgmt]
  | .setEventReceiver .. => [.mgmt]
  | .pollEvent .. => [.now, .blotter, .mgmt]
  | .pldmEventSend .. => [.now, .board, .mgmt]
  | .pldmFirmwareUpdate .. => [.now, .board, .nvm, .link, .mailbox, .blotter, .mgmt, .trust, .fw]
  | .alertResponseAddress .. => [.now, .board, .mgmt]
  | .modEnRise .. => [.now, .board]
  | .modEnFall .. => [.now, .board, .nvm, .link, .mailbox, .serving, .images, .vellum, .fabric, .power, .thermal,
      .blotter, .mgmt, .trust, .fw, .map]
  | .strapSample .. => [.now, .board, .nvm]
  | .railWaves .. => [.now, .board]
  | .boot .. => [.now, .board, .nvm, .link, .mailbox, .blotter, .mgmt, .trust, .fw]
  | .selfTest .. => [.now, .board, .nvm, .link, .mailbox, .serving, .images, .vellum, .fabric, .power, .thermal,
      .blotter, .mgmt, .trust, .map]
  | .vellumTraining .. => [.now, .board, .link, .mailbox, .serving, .images, .vellum, .fabric, .power, .blotter,
      .mgmt, .map]
  | .flowLoss .. => [.now, .board, .nvm, .link, .mailbox, .serving, .images, .vellum, .fabric, .power, .thermal,
      .blotter, .mgmt, .trust, .fw, .map]
  | .flowRestored .. => [.now, .board]
  | .feedInUse .. => [.now, .board, .blotter]
  | .feedLost .. => [.now, .board, .nvm, .link, .mailbox, .serving, .images, .vellum, .fabric, .power, .thermal,
      .blotter, .mgmt, .trust, .fw, .map]
  | .feedWarning .. => [.now, .board, .link, .mailbox, .blotter, .mgmt]
  | .feedWaitTimeout .. => [.now, .board, .nvm]
  | .cartridgeInserted .. => [.now, .board]
  | .cartridgeRemoved .. => [.now, .board, .link, .mailbox, .serving, .images, .vellum, .fabric, .power, .blotter,
      .mgmt, .trust, .map]
  | .phaseLost .. => [.now, .board, .link, .mailbox, .serving, .images, .vellum, .fabric, .blotter, .mgmt]
  | .dieShort .. => [.now, .board, .link, .mailbox, .serving, .images, .vellum, .fabric, .power, .blotter, .mgmt,
      .trust, .map]
  | .dieCurrentCheck .. => [.now, .power]
  | .ldoSegmentFail .. => [.now, .nvm, .link, .mailbox, .serving, .images, .vellum, .fabric, .power, .blotter, .mgmt,
      .trust, .map]
  | .ceilingCheck .. => [.now, .nvm, .link, .mailbox, .serving, .images, .vellum, .fabric, .power, .blotter, .mgmt,
      .trust, .map]
  | .droopTrip .. => [.fabric]
  | .droopReport .. => [.now, .link, .mailbox, .fabric, .blotter, .mgmt]
  | .droopThrottleEnd .. => [.now, .fabric]
  | .inrushSlot .. => [.now, .fabric, .power]
  | .inrushWaitExpiry .. => [.now, .power]
  | .allowanceRamp .. => [.now, .board, .link, .mailbox, .power, .blotter, .mgmt]
  | .powerStateEntry .. => [.now, .power]
  | .powerStateDescentMove .. => [.now, .board, .link, .mailbox, .serving, .images, .vellum, .fabric, .power,
      .blotter, .mgmt, .trust]
  | .wake .. => [.now, .board, .link, .mailbox, .serving, .images, .vellum, .fabric, .power, .blotter, .mgmt, .trust]
  | .baseEnergySplit .. => [.now, .serving]
  | .sensorSample .. => [.now, .free, .board, .nvm, .link, .mailbox, .serving, .images, .vellum, .fabric, .power,
      .thermal, .blotter, .mgmt, .trust, .fw, .map]
  | .backupComparatorTrip .. => [.now, .board, .nvm, .link, .mailbox, .serving, .images, .vellum, .fabric, .power,
      .thermal, .blotter, .mgmt, .trust, .fw, .map]
  | .throttleDeepen .. => [.now, .link, .mailbox, .thermal, .blotter, .mgmt]
  | .throttleRelease .. => [.now, .thermal]
  | .sensorEnvelopeCheck .. => [.now, .board, .nvm, .link, .mailbox, .serving, .images, .vellum, .fabric, .power,
      .thermal, .blotter, .mgmt, .trust, .map]
  | .sensorFlagClear .. => [.now, .thermal]
  | .coolantJudge .. => [.now, .board, .link, .mailbox, .serving, .thermal, .blotter, .mgmt]
  | .coolingCapRevise .. => [.now, .board, .link, .mailbox, .serving, .power, .thermal, .blotter, .mgmt]
  | .sealBreak .. => [.now, .nvm, .link, .mailbox, .serving, .images, .vellum, .fabric, .power, .blotter, .mgmt, .trust]
  | .keyExchangeExpiry .. => [.now, .trust]
  | .nop .. => [.link, .mailbox, .fabric, .blotter, .mgmt]
  | .loopBegin .. => [.link, .mailbox, .fabric, .blotter, .mgmt]
  | .loopEnd .. => [.link, .mailbox, .fabric, .blotter, .mgmt]
  | .stepBegin .. => [.link, .mailbox, .serving, .fabric, .blotter, .mgmt]
  | .stepEnd .. => [.link, .mailbox, .serving, .images, .vellum, .fabric, .power, .blotter, .mgmt, .trust]
  | .predLoad .. => [.link, .mailbox, .serving, .images, .vellum, .fabric, .power, .blotter, .mgmt, .trust, .map]
  | .mac .. => [.link, .mailbox, .serving, .images, .vellum, .fabric, .power, .blotter, .mgmt, .trust, .map]
  | .drain .. => [.link, .mailbox, .fabric, .blotter, .mgmt]
  | .valu .. => [.free, .link, .mailbox, .fabric, .blotter, .mgmt]
  | .vxcend .. => [.link, .mailbox, .fabric, .blotter, .mgmt]
  | .narrow .. => [.link, .mailbox, .fabric, .blotter, .mgmt]
  | .widen .. => [.link, .mailbox, .serving, .images, .vellum, .fabric, .power, .blotter, .mgmt, .trust, .map]
  | .load .. => [.link, .mailbox, .serving, .images, .vellum, .fabric, .power, .blotter, .mgmt, .trust, .map]
  | .store .. => [.link, .mailbox, .fabric, .blotter, .mgmt]
  | .sliceRead .. => [.link, .mailbox, .serving, .images, .vellum, .fabric, .power, .blotter, .mgmt, .trust, .map]
  | .sliceWrite .. => [.link, .mailbox, .serving, .images, .vellum, .fabric, .power, .blotter, .mgmt, .trust, .map]
  | .send .. => [.link, .mailbox, .serving, .images, .vellum, .fabric, .power, .blotter, .mgmt, .trust, .map]
  | .recv .. => [.link, .mailbox, .fabric, .blotter, .mgmt]
  | .ligSend .. => [.link, .mailbox, .serving, .images, .vellum, .fabric, .power, .blotter, .mgmt, .trust, .map]
  | .ligRecv .. => [.link, .mailbox, .fabric, .blotter, .mgmt]
  | .dmaPost .. => [.link, .mailbox, .fabric, .blotter, .mgmt]
  | .dmaWait .. => [.link, .mailbox, .fabric, .blotter, .mgmt]
  | .tokenArrival .. => [.link, .mailbox, .serving, .images, .vellum, .fabric, .blotter, .mgmt]
  | .sendAck .. => [.link, .mailbox, .fabric, .blotter, .mgmt]
  | .watchdog .. => [.now, .link, .mailbox, .serving, .images, .vellum, .fabric, .power, .blotter, .mgmt, .trust, .map]
  | .flitRetry .. => [.now, .fabric]
  | .sublinkOut .. => [.now, .link, .mailbox, .serving, .images, .vellum, .fabric, .power, .blotter, .mgmt, .trust,
      .map]
  | .mergeWindowClose .. => [.fabric]
  | .ligatureCombine .. => [.link, .mailbox, .serving, .images, .fabric, .blotter, .mgmt]
  | .dmaComplete .. => [.now, .board, .nvm, .link, .mailbox, .serving, .images, .vellum, .fabric, .power, .blotter,
      .mgmt, .trust, .map]
  | .correctedWriteBack .. => [.fabric]
  | .scrubRead .. => [.link, .mailbox, .serving, .images, .vellum, .fabric, .power, .blotter, .mgmt, .trust, .map]
  | .clearComplete .. => [.now, .free, .board, .nvm, .link, .mailbox, .serving, .images, .vellum, .fabric, .power,
      .blotter, .mgmt, .trust, .map]
  | .refresh .. => [.vellum]
  | .patrolScrub .. => [.now, .board, .nvm, .link, .mailbox, .serving, .images, .vellum, .power, .blotter, .mgmt,
      .trust, .map]
  | .vellumRead .. => [.now, .board, .nvm, .link, .mailbox, .serving, .images, .vellum, .fabric, .power, .blotter,
      .mgmt, .trust, .map]
  | .vellumWriteBack .. => [.vellum]
  | .granuleCopyDone .. => [.now, .board, .nvm, .link, .mailbox, .serving, .images, .vellum, .blotter, .mgmt, .map]
  | .prefetchIssue .. => [.now, .board, .nvm, .link, .mailbox, .serving, .images, .vellum, .fabric, .power, .blotter,
      .mgmt, .trust, .map]
  | .stepIssue .. => [.now, .free, .board, .link, .mailbox, .serving, .images, .vellum, .fabric, .power, .blotter,
      .mgmt, .trust, .map]
  | .sampleRow .. => [.now, .link, .mailbox, .serving, .images, .vellum, .power, .blotter, .mgmt, .trust]
  | .prefillHandoff .. => [.now, .link, .mailbox, .serving, .images, .vellum, .power, .blotter, .mgmt, .trust]
  | .healthTest .. => [.now, .link, .mailbox, .serving]
  | .stepReplay .. => [.now, .link, .mailbox, .serving, .images, .vellum, .fabric, .power, .blotter, .mgmt, .trust]
  | .residencyRevise .. => [.now, .link, .mailbox, .images, .vellum, .fabric, .blotter, .mgmt]
  | .seatRelease .. => [.now, .link, .mailbox, .images, .vellum, .fabric, .blotter, .mgmt]
  | .adapterLineLoad .. => [.now, .serving, .images, .fabric]
  | .admissionRound .. => [.now, .link, .mailbox, .serving, .images, .vellum, .power, .blotter, .mgmt, .trust]
  | .autoPark .. => [.now, .serving, .vellum]
  | .parkPageConfirm .. => [.now, .link, .mailbox, .serving, .vellum, .power, .blotter, .mgmt]
  | .unparkPageCheck .. => [.now, .link, .mailbox, .serving, .images, .vellum, .power, .blotter, .mgmt, .trust]
  | .drainTimeout .. => [.now, .serving]
  | .chunkArrival .. => [.now, .link, .mailbox, .serving, .images, .vellum, .fabric, .power, .blotter, .mgmt]
  | .folioLoadComplete .. => [.now, .link, .mailbox, .serving, .images, .fabric, .power, .blotter, .mgmt]
  | .firstActivationFill .. => [.now, .link, .mailbox, .serving, .images, .fabric, .power, .blotter, .mgmt]
  | .migrationStart .. => [.now, .serving, .images, .fabric]
  | .migrationPartDone .. => [.now, .board, .link, .mailbox, .serving, .images, .vellum, .fabric, .power]
  | .slotDrained .. => [.now, .serving, .images, .fabric]
  | .compatLayerRewrite .. => [.now, .free, .board, .link, .mailbox, .serving, .images, .vellum, .fabric, .power,
      .blotter, .mgmt]
  | .chunkRefetch .. => [.now, .serving, .images, .vellum, .fabric]
  | .refetchTimeout .. => [.now, .link, .mailbox, .images, .blotter, .mgmt]
  | .blotterReport .. => [.now, .link, .mailbox, .blotter, .mgmt]
  | .coalesceFlush .. => [.now, .blotter, .mgmt]
  | .cartridgePrepareDone .. => [.now, .board, .link, .mailbox, .fabric, .power, .blotter, .mgmt, .map]
  | .dischargeDelayEnd .. => [.now, .board]
  | .completionTimeout .. => [.now, .link, .mailbox, .serving, .images, .vellum, .fabric, .power, .blotter, .mgmt]
  | .startInterface .. => [.link]
  | .linkUp .. => [.now, .board, .link, .mailbox]
  | .vfEnableSet .. => [.link, .mailbox]
  | .adapterLoadDone .. => [.now, .link, .mailbox, .serving, .power, .blotter, .mgmt]
  | .fwStageDone .. => [.now, .link, .mailbox, .power, .blotter, .mgmt, .fw]
  | .cartridgeRestoreDone .. => [.now, .board, .nvm, .link, .mailbox, .serving, .images, .vellum, .fabric, .power,
      .blotter, .mgmt, .map]

end Sys2Proof
end

