-- ==== Sys2Proof/Certificates/Slice0/Obligations.lean ====
section
/-! DEFINITION. The statements for the provers: what the commands and the machine do, by the manual's rules. -/

open Sys2Proof Sys2Proof.Machine

/-- For every command c, every list of commands l and every state s, a step of s with c at the front of its queue and l
behind it is the effect of c on s with the queue l; a step on an empty queue leaves the state as it is. The queue is the
model's own (log entries 11 and 19). -/
def Obligations.StepRunsCommandAtFront : Prop :=
  ∀ (c : Instr) (l : List Instr) (s : State),
    step (s.withPending (c :: l)) = exec c (s.withPending l) ∧ step (s.withPending []) = .next (s.withPending [])

/-- For every command and every state, the command answers a next state: operands that the manual does not accept get the
status, report or absence of effect that it names, never a stop. -/
def Obligations.EveryCommandCompletes : Prop :=
  ∀ (c : Instr) (s : State), ∃ t, exec c s = .next t

/-- For every command c and every state s, if c answers the next state t, then every part of the state that the table
`touched` does not list for c is in t as it was in s. The table lists for each command the parts its effect may reach; a
command that may write a blotter entry or complete lists the blotter, the sideband, the mailbox and the link. -/
def Obligations.CommandFrames : Prop :=
  ∀ (c : Instr) (s t : State), exec c s = .next t → Only (touched c) s t

/-- For every command and every state, the host time of the next state is at least that of the state before; so is the host
time after a step. -/
def Obligations.HostTimeNeverFalls : Prop :=
  ∀ (c : Instr) (s t : State), (exec c s = .next t → s.now ≤ t.now) ∧ (step s = .next t → s.now ≤ t.now)

/-- From every sound state, each step answers a sound state: the byte memories of the vellum and of the dies keep their
canonical form; at most 1,024 stop records with rising SEQ, at most 64 publishers, no cap above 18,500 W, an operating point
of 1 to 14, at most 8,128 entries in the general ring, 64 in the reserve and 256 coalescing keys, a cooling cap of at most
18,500 W, at most 100 events in a second, eight measurement registers and at most 4,096 log entries. The same holds of each
command. -/
def Obligations.StepKeepsSound : Prop :=
  ∀ (s t : State), Sound s → ((step s = .next t → Sound t) ∧ ∀ c, exec c s = .next t → Sound t)

/-- The state at reset satisfies what every step keeps. -/
def Obligations.ResetIsSound : Prop :=
  Sound State.reset

/-- IDENTIFY, accepted and on time, completes with SUCCESS, the running firmware version in the low half of RESULT and
UNSEALED and MOD_READY in bits 32 and 33, and the whole 256-byte identity page where DATA_LEN has room for it. -/
def Obligations.IdentifyAnswersItsPage : Prop :=
  ∀ (h : Hdr) (s : State), Accepted s h opIdentify → OnTime s h →
    ∃ t, exec (.identify h) s = .next t ∧ t.now = max s.now h.time ∧
      Answered s t h stSuccess (s.fw.running % 2 ^ 32 + 2 ^ 32 * (bit s.trust.isUnsealed + 2 * bit (pinModReady s)))
        (fitEntries 256 h.dataLen (identityPage (advance s h.time)))

/-- ADMIN_RESET, accepted: with HALT = 0 the module leaves service for the phase that precedes self-test, MOD_READY falls,
no command is unfinished, no binding stands, EVENT_CAUSE and EXPORT_ENABLE are 0, both caps bind at the host's cap, the
operating point is 6, the power state is Active and no handover is pending; the non-volatile records stand. With HALT = 1
the module is halted, and vellum, slots, sessions and the blotter are empty. -/
def Obligations.AdminResetRestarts : Prop :=
  ∀ (h : Hdr) (s : State), Accepted s h opAdminReset →
    (∃ t, exec (.adminReset h false) s = .next t ∧ t.board.phase = resetPhase s.board.phase ∧ t.board.modReady = false ∧
      t.mailbox.fetched = [] ∧ t.mailbox.bindings = [] ∧ t.link.eventCause = 0 ∧ t.link.exportEnable = false ∧
      t.link.rrs = true ∧ t.power.boundCap = t.power.hostCap ∧ t.power.point = 6 ∧ t.power.state = .active ∧
      t.fw.handover = false ∧ t.fw.staging = none ∧ t.nvm = s.nvm) ∧
    (∃ t, exec (.adminReset h true) s = .next t ∧ t.board.phase = .halted ∧ t.board.modReady = false ∧ t.vellum = {} ∧
      t.images = {} ∧ t.serving = {} ∧ t.blotter = {} ∧ t.fabric = {} ∧ t.mailbox.fetched = [] ∧ t.nvm = s.nvm)

/-- VELLUM_LAYOUT, accepted and on time with both slots EMPTY and no session open: a layout within the seven limits becomes
the vellum's, and is kept in the non-volatile memory unless it is the default one, with SUCCESS; a layout that breaks limit
n changes nothing and answers status 0x0101 with RESULT n. -/
def Obligations.VellumLayoutTakes : Prop :=
  ∀ (h : Hdr) (d : Bool) (l : Layout) (s : State), Accepted s h opVellumLayout → OnTime s h → (d = true → h.dataLen = 0) →
    s.images.a.state = .empty → s.images.b.state = .empty → (∀ kv ∈ s.serving.sessions, kv.2.state = .free) →
    (layoutBreak (if d then {} else l) = none →
      ∃ t, exec (.vellumLayout h d l) s = .next t ∧
        t.vellum = { s.vellum with layout := if d then {} else l } ∧
        t.nvm = { s.nvm with layout := if d then none else some (if d then {} else l) } ∧ Answered s t h stSuccess 0 []) ∧
    (∀ n, layoutBreak (if d then {} else l) = some n →
      ∃ t, exec (.vellumLayout h d l) s = .next t ∧ t.vellum = s.vellum ∧ t.nvm = s.nvm ∧ Answered s t h 0x0101 n [])

/-- FW_STAGE of a verified image starts its write to staging, and FW_STAGE_DONE puts it there, ending the command with its
version. FW_HANDOVER of a staged image waits for its boundary. HANDOVER_EXECUTE, while the governor runs and no Timed turn
has crossed a handover already, makes it the running and the primary image and extends measurement register 7, and
HANDOVER_TIMEOUT keeps the running image and the staged one and ends the command with BUSY. -/
def Obligations.FirmwareIsStagedAndHandedOver : Prop :=
  (∀ (h : Hdr) (i : FwImage) (s : State), Accepted s h opFwStage → s.fw.pldm = false → imageOk s i = true →
      s.fw.staging = none →
      ∃ t, exec (.fwStage h i) s = .next t ∧ t.fw = { s.fw with staging := some i } ∧ Started t h opFwStage 0) ∧
    (∀ (n : Nat) (i : FwImage) (s : State), s.fw.staging = some i →
      ∃ t, exec (.fwStageDone n) s = .next t ∧ t.fw = { s.fw with staging := none, staged := some i } ∧
        Ended s t 0x0104 0 stSuccess (i.version % 2 ^ 32)) ∧
    (∀ (h : Hdr) (i : FwImage) (s : State), Accepted s h opFwHandover → s.fw.staged = some i → s.fw.handover = false →
      s.fw.pldm = false →
      ∃ t, exec (.fwHandover h) s = .next t ∧ t.fw = { s.fw with handover := true } ∧ Started t h opFwHandover 0) ∧
    (∀ (n : Nat) (i : FwImage) (s : State), s.fw.staged = some i → s.fw.handover = true → governorRuns s = true →
      crossedAlready s = false →
      (∃ t, exec (.handoverExecute n) s = .next t ∧
        t.fw = { s.fw with running := i.version, primary := i.version, staged := none, handover := false, pldm := false } ∧
        t.trust = (extend s 7 9 i.version i.svn i.digest).trust ∧ Ended s t 0x0105 0 stSuccess (i.version % 2 ^ 32)) ∧
      ∃ t, exec (.handoverTimeout n) s = .next t ∧ t.fw = { s.fw with handover := false, pldm := false } ∧
        t.fw.staged = some i ∧ t.trust = s.trust)

/-- FAULT_ACK, accepted and on time: with no ACTIVE fatal entry the reserve moves to the general ring, FAULT_N is asserted
only where the housekeeping controller holds it, and RESULT is 0xFFFFFFFF; while an ACTIVE entry stands the blotter stays,
and the answer is WRONG_STATE with the lowest INDEX among the ACTIVE entries. -/
def Obligations.FaultAckReleasesThePin : Prop :=
  ∀ (h : Hdr) (s : State), Accepted s h opFaultAck → OnTime s h →
    ((∀ e ∈ s.blotter.reserve, e.active = false) →
      ∃ t, exec (.faultAck h) s = .next t ∧
        t.blotter = { s.blotter with ring := keepRing (s.blotter.ring ++ s.blotter.reserve), reserve := [] } ∧
        pinFaultN t = (s.board.outputsHeld && s.board.faultHold) ∧ Answered s t h stSuccess 0xFFFFFFFF []) ∧
    (∀ n, (∃ e ∈ s.blotter.reserve, e.active = true ∧ e.index = n) →
      (∀ e ∈ s.blotter.reserve, e.active = true → n ≤ e.index) →
      ∃ t, exec (.faultAck h) s = .next t ∧ t.blotter = s.blotter ∧ Answered s t h stWrongState n [])

/-- PARTITION_CONFIG, accepted, on time, in range, with no seal refusal, no change of kind while occupied and room for its
Timed sequences, configures the partition and no other; PARK_AREA_SET gives a configured partition its park area while no
parked page would move; TIMED_REGIME_SET sets the regime while no Timed turn is unfinished; PARK_THRESHOLDS_SET sets both
thresholds. Each completes with SUCCESS. -/
def Obligations.PartitionSettingsTake : Prop :=
  (∀ (h : Hdr) (o : PartitionOps) (s : State), Accepted s h opPartitionConfig → OnTime s h → o.partition < 16 →
      1 ≤ o.share → o.share ≤ 255 → o.timedSequences ≤ 256 → o.sessionsMax ≤ 262144 →
      (if o.drain then 1 ≤ o.drainTimeout ∧ o.drainTimeout ≤ 86400 else o.drainTimeout = 0) →
      ¬ (o.isSealed = true ∧ s.trust.isUnsealed = true) →
      (occupied s o.partition = true → o.timed = (getPartition s o.partition).timed ∧
        o.isSealed = (getPartition s o.partition).isSealed) →
      timedReserve s - (getPartition s o.partition).timedSequences + o.timedSequences ≤ 256 →
      ∃ t, exec (.partitionConfig h o) s = .next t ∧
        getPartition t o.partition =
          { getPartition s o.partition with
            configured := true, timed := o.timed, isSealed := o.isSealed, lateStop := o.lateStop, drain := o.drain,
            share := o.share, timedSequences := o.timedSequences, sessionsMax := o.sessionsMax,
            drainTimeout := o.drainTimeout,
            drainUntil := (if o.drain && !(getPartition s o.partition).drain && swapPending s then
                some (max s.now h.time + o.drainTimeout * 1000000000)
              else (getPartition s o.partition).drainUntil),
            keyGen := keysFor o.isSealed (getPartition s o.partition),
            parkKey := keyFor s o.isSealed (getPartition s o.partition) (getPartition s o.partition).parkKey 0,
            historyKey := keyFor s o.isSealed (getPartition s o.partition) (getPartition s o.partition).historyKey 1 } ∧
        (∀ n, n ≠ o.partition → getPartition t n = getPartition s n) ∧ t.serving.sessions = s.serving.sessions ∧
        Answered s t h stSuccess 0 []) ∧
    (∀ (h : Hdr) (p : Nat) (r : List (Nat × Nat)) (s : State), Accepted s h opParkAreaSet → OnTime s h → p < 16 →
      r.length ≤ 64 → (∀ x ∈ r, x.2 ≠ 0 ∧ x.2 % 2101248 = 0 ∧ x.1 % 4 = 0) → (getPartition s p).configured = true →
      (∀ k ∈ parkedSlots s p, slotAddress (getPartition s p).parkArea k = slotAddress r k) →
      ∃ t, exec (.parkAreaSet h p r) s = .next t ∧ getPartition t p = { getPartition s p with parkArea := r } ∧
        (∀ n, n ≠ p → getPartition t n = getPartition s n) ∧ Answered s t h stSuccess (areaSlots r) []) ∧
    (∀ (h : Hdr) (rows miss pages : Nat) (s : State), Accepted s h opTimedRegimeSet → OnTime s h → 1 ≤ rows → rows ≤ 64 →
      miss ≤ 4 → 1 ≤ pages → pages ≤ 16384 → timedUnfinished s = false →
      ∃ t, exec (.timedRegimeSet h rows miss pages) s = .next t ∧
        t.serving = { s.serving with regime := { rowsT := rows, pagesT := pages, missT := miss } } ∧
        (activeSlot s = none → Answered s t h stSuccess 0 [])) ∧
    (∀ (h : Hdr) (low high : Nat) (s : State), Accepted s h opParkThresholdsSet → OnTime s h → low < high →
      high ≤ s.vellum.layout.kvPages →
      ∃ t, exec (.parkThresholdsSet h low high) s = .next t ∧
        t.serving = { s.serving with parkLow := low, parkHigh := high } ∧ Answered s t h stSuccess 0 [])

/-- On a partition that serves: TENANT_REGISTER gives an unused tenant id a full reservoir of DEPTH tokens at the present
host time, with its rate and depth; RESERVOIR_SET refills the reservoir to now, writes the chosen fields and clamps the
level to the depth; TENANT_DEREGISTER of a tenant with no session and no prefix, whose memory needs no clearing, leaves the
tenant unregistered with its record empty. -/
def Obligations.TenantsAndReservoirs : Prop :=
  (∀ (h : Hdr) (n rate depth : Nat) (s : State), AcceptedVf s h opTenantRegister → OnTime s h → 1 ≤ n → n ≤ 0xFFFF →
      1 ≤ depth → (getTenant s n).registered = false →
      (s.serving.tenants.filter (fun kv => kv.2.registered)).length < 4096 →
      ∃ t, exec (.tenantRegister h n rate depth) s = .next t ∧
        getTenant t n =
          { registered := true, partition := h.func - 1, level := (depth * 256 : Nat), levelAt := max s.now h.time,
            rate := rate, depth := depth } ∧
        (∀ k, k ≠ n → getTenant t k = getTenant s k) ∧ Answered s t h stSuccess 0 []) ∧
    (∀ (h : Hdr) (n : Nat) (r d w : Bool) (rate depth weight : Nat) (s : State), AcceptedVf s h opReservoirSet →
      OnTime s h → n ≤ 0xFFFF → (d = true → 1 ≤ depth) → (w = true → weight ≤ 255) → myTenant s h n = true →
      ∃ t, exec (.reservoirSet h n r d w rate depth weight) s = .next t ∧
        (getTenant t n).rate = (if r then rate else (getTenant s n).rate) ∧
        (getTenant t n).depth = (if d then depth else (getTenant s n).depth) ∧
        (getTenant t n).weight = (if w then weight else (getTenant s n).weight) ∧
        (getTenant t n).level = min (((if d then depth else (getTenant s n).depth) * 256 : Nat) : Int)
          (refill (max s.now h.time) (getTenant s n)).level ∧
        (∀ k, k ≠ n → getTenant t k = getTenant s k) ∧ Answered s t h stSuccess (signedField 64 (getTenant t n).level) []) ∧
    (∀ (h : Hdr) (n : Nat) (s : State), AcceptedVf s h opTenantDeregister → OnTime s h → n ≤ 0xFFFF →
      myTenant s h n = true → tenantBusy s n = false → (getTenant s n).versions = [] → s.images.lines = [] →
      tenantClearing s n = false →
      ∃ t, exec (.tenantDeregister h n) s = .next t ∧ getTenant t n = {} ∧
        (∀ k, k ≠ n → getTenant t k = getTenant s k) ∧ Answered s t h stSuccess 0 [])

/-- On a partition that serves, and for a command that names a session while no turn of it is being ended: SESSION_OPEN
takes the lowest free id and opens it IDLE for the tenant, with the seed given in a partition that is not Sealed;
SESSION_CLOSE of a session with no turn, which no step names, leaves its id free, and completes with SUCCESS where no park,
unpark or prefix registration hangs on the session; SESSION_PARK of an IDLE session with pages starts its park, marks it
PARKING and stays under way; SESSION_UNPARK of a PARKED session starts the return of its pages. -/
def Obligations.SessionsOpenCloseAndPark : Prop :=
  (∀ (h : Hdr) (n id : Nat) (seed : BitVec 256) (s : State), AcceptedVf s h opSessionOpen → OnTime s h → n ≤ 0xFFFF →
      (getPartition s (h.func - 1)).isSealed = false → myTenant s h n = true →
      openCount s (h.func - 1) < (getPartition s (h.func - 1)).sessionsMax → freeSession s = some id →
      ∃ t, exec (.sessionOpen h n seed) s = .next t ∧ (getSession t id).state = .idle ∧ (getSession t id).tenant = n ∧
        (getSession t id).partition = h.func - 1 ∧ (getSession t id).seed = seed ∧ (getSession t id).turn = none ∧
        (∀ k, k ≠ id → getSession t k = getSession s k) ∧ Answered s t h stSuccess id []) ∧
    (∀ (h : Hdr) (id : Nat) (s : State), AcceptedVf s h opSessionClose → OnTime s h → id < 262144 →
      turnEnds (advance s h.time) h id = false →
      openIn s id (h.func - 1) = true → (getSession s id).turn = none → inStep s id = false →
      ∃ t, exec (.sessionClose h id) s = .next t ∧ (getSession t id).state = .free ∧
        (findStarted s 0x0306 id = none → findStarted s 0x0307 id = none →
          (∀ x, (getSession s id).pfx = some x → findStarted s 0x0308 x = none) → Answered s t h stSuccess 0 [])) ∧
    (∀ (h : Hdr) (id : Nat) (s : State), AcceptedVf s h opSessionPark → id < 262144 →
      turnEnds (advance s h.time) h id = false →
      openIn s id (h.func - 1) = true → (getSession s id).state = .idle → (getSession s id).turn = none →
      canPark s (getSession s id) = true → (getSession s id).pages ≠ [] →
      ∃ t, exec (.sessionPark h id) s = .next t ∧ (getSession t id).state = .parking ∧
        (getSession t id).pages = (getSession s id).pages ∧ (∀ k, k ≠ id → getSession t k = getSession s k) ∧
        Started t h opSessionPark id) ∧
    (∀ (h : Hdr) (id : Nat) (s : State), AcceptedVf s h opSessionUnpark → id < 262144 →
      turnEnds (advance s h.time) h id = false →
      openIn s id (h.func - 1) = true → (getSession s id).state = .parked →
      (getSession s id).parked.length ≤ freePages s - reservedPages s → (getSession s id).parked ≠ [] →
      ∃ t, exec (.sessionUnpark h id) s = .next t ∧
        getSession t id = { getSession s id with state := .unparking } ∧
        (∀ k, k ≠ id → getSession t k = getSession s k) ∧ Started t h opSessionUnpark id)

/-- PREFIX_REGISTER of a plain prompt in a partition that is not Sealed, with a slot ACTIVE, a free handle and index, and
pages enough, takes the lowest free index: it is PREFILLING with the prompt's tokens, joins the tenant's queue, and the
command stays under way. PREFIX_RELEASE of a READY handle that sessions still read marks it RELEASING and answers the number
of its readers. -/
def Obligations.PrefixesRegisterAndRelease : Prop :=
  (∀ (h : Hdr) (n handle m x : Nat) (ar : Bool) (segs : List Segment) (s : State), AcceptedVf s h opPrefixRegister →
      n ≤ 0xFFFF → segBytes segs ≤ 4194304 → promptShape (.plain segs) ≠ 0 → promptShape (.plain segs) ≤ 2097151 →
      (getPartition s (h.func - 1)).isSealed = false → myTenant s h n = true → activeSlot s = some m →
      findPfx s n handle = none → freePfx s = some x →
      (promptShape (.plain segs) + 127) / 128 ≤ availablePages s none →
      ∃ t, exec (.prefixRegister h n ar handle (.plain segs)) s = .next t ∧ (getPfx t x).state = .prefilling ∧
        (getPfx t x).tokens = idsOf s m segs ∧ (getPfx t x).handle = handle ∧ (getPfx t x).tenant = n ∧
        (getPfx t x).alwaysRead = ar ∧ (getTenant t n).queue = (getTenant s n).queue ++ [.pfx x] ∧
        (∀ k, k ≠ x → getPfx t k = getPfx s k) ∧ Started t h opPrefixRegister x) ∧
    (∀ (h : Hdr) (n handle x : Nat) (s : State), AcceptedVf s h opPrefixRelease → OnTime s h → n ≤ 0xFFFF →
      myTenant s h n = true → findPfx s n handle = some x → (getPfx s x).readers ≠ 0 →
      ∃ t, exec (.prefixRelease h n handle) s = .next t ∧
        getPfx t x = { getPfx s x with state := .releasing } ∧ (∀ k, k ≠ x → getPfx t k = getPfx s k) ∧
        Answered s t h stSuccess (getPfx s x).readers [])

/-- With the prompt read as the partition reads it, and while nothing of the session is in the command's way: in a partition
that serves and is not Timed, a REQ_SUBMIT that passes the checks puts the turn at the end of its tenant's queue and
completes with RESULT 0. In a Timed partition one that passes every check completes with its promise (the prices of the
first token and of the interval between blocks, and T_acc) before the turn starts. REQ_CANCEL of a session with a turn
starts the turn's end with reason 0x0A, the command staying under way until its END. -/
def Obligations.RequestsAreTaken : Prop :=
  (∀ (h : Hdr) (o' o : ReqOps) (n : Nat) (s : State), AcceptedVf s h opReqSubmit → OnTime s h → Unhindered s h o.session →
      o = { o' with prompt := asRead (getPartition s (h.func - 1)).isSealed o'.prompt } →
      (o.text = false → (getPartition s (h.func - 1)).isSealed = false ∧ o.stopSeqs = []) →
      reqRangeOk s h o = true → submitStatus s h o = none → bindSlot s (getSession s o.session) = some n →
      (getPartition s (h.func - 1)).timed = false →
      ∃ t, exec (.reqSubmit h o') s = .next t ∧ (getTenant t o.tenant).queue = (getTenant s o.tenant).queue ++ [.turn o.session] ∧
        (getSession t o.session).turn = some (newTurn s h o false) ∧
        (∀ k, k ≠ o.session → getSession t k = getSession s k) ∧ (∀ k, k ≠ o.tenant → getTenant t k = getTenant s k) ∧
        Answered s t h stSuccess 0 []) ∧
    (∀ (h : Hdr) (o' o : ReqOps) (n : Nat) (s : State), AcceptedVf s h opReqSubmit → OnTime s h → Unhindered s h o.session →
      o = { o' with prompt := asRead (getPartition s (h.func - 1)).isSealed o'.prompt } →
      (o.text = false → (getPartition s (h.func - 1)).isSealed = false ∧ o.stopSeqs = []) →
      reqRangeOk s h o = true → submitStatus s h o = none → bindSlot s (getSession s o.session) = some n →
      (getPartition s (h.func - 1)).timed = true → timedStatus (advance s h.time) (getSession s o.session) n o = none →
      ∃ u turn ttft itb, exec (.reqSubmit h o') s = .next (startTurn u o.session n turn) ∧ turn.timed = true ∧
        turn.ttft = ttft ∧ turn.itb = itb ∧ ttft ≤ o.ttftLimit ∧ itb ≤ o.itbLimit ∧
        turn.tAcc = max s.now h.time / 4 * 4 ∧ (getSession u o.session).turn = some turn ∧
        Answered s u h stSuccess (ttft + 2 ^ 32 * itb + 2 ^ 64 * turn.tAcc) []) ∧
    (∀ (h : Hdr) (id : Nat) (s : State), AcceptedVf s h opReqCancel → id < 262144 →
      turnEnds (advance s h.time) h id = false → openIn s id (h.func - 1) = true →
      (getSession s id).turn ≠ none →
      ∃ u, exec (.reqCancel h id) s = .next (endTurn u id 0x0A) ∧ u.serving = s.serving ∧ Started u h opReqCancel id)

/-- FOLIO_LOAD into an EMPTY slot with a header that passes checks 1 to 9 makes the slot LOADING and stays under way; a
header that fails is refused and the slot stays EMPTY with the reason. CHUNK_ARRIVAL stores a chunk that matches its leaf on
a site that holds it, and counts a retry for one that does not, up to three; of an export it is one of the bank being read.
FOLIO_LOAD_COMPLETE with every chunk verified, an unchanged generation, checks 11 to 14 passed and room for its stencils in
the lettering region makes the slot READY and ends the load with SUCCESS. FOLIO_UNLOAD of a READY slot starts its clearing
and stays under way. -/
def Obligations.FoliosLoad : Prop :=
  (∀ (h : Hdr) (slot source peer : Nat) (f : FolioHead) (s : State), Accepted s h opFolioLoad → slot < 2 → source < 2 →
      (source = 1 → h.dataLen = 0) → (getSlot s slot).state = .empty →
      (headRefusal s (slotCapacity s.vellum.layout slot) f = none →
        ∃ t, exec (.folioLoad h slot source peer f) s = .next t ∧
          getSlot t slot =
            { state := .loading, head := some f, copies := bSites.filter (siteTakes s),
              fromPeer := if source = 1 then some peer else none,
              pull := if source = 1 then some (f.generation, 0) else none, contentKey := openKey s f } ∧
          getSlot t (1 - slot) = getSlot s (1 - slot) ∧ Started t h opFolioLoad slot) ∧
      (∀ r, headRefusal s (slotCapacity s.vellum.layout slot) f = some r → OnTime s h →
        ∃ t, exec (.folioLoad h slot source peer f) s = .next t ∧ getSlot t slot = { refuse := r } ∧
          getSlot t (1 - slot) = getSlot s (1 - slot) ∧
          Answered s t h (if r = 0x0E then 0x0502 else 0x0501) r [])) ∧
    (∀ (time slot chunk generation bank : Nat) (data : List Byte) (f : FolioHead) (s : State), slot < 2 →
      (getSlot s slot).head = some f → (getSlot s slot).state = .loading → chunk < f.chunkCount →
      (getSlot s slot).verified.contains chunk = false → f.chunkBase + (chunk + 1) * 4194304 ≤ f.sourceBytes →
      (getSlot s slot).pull.all (fun p => p.2 == chunkBank f chunk) = true →
      ¬ ((getSite s (chunkSite chunk)).lost = true ∨ (getSite s (chunkSite chunk)).emptied = true ∨
        (getSite s (chunkSite chunk)).untrained = true) →
      (f.tree[chunk]? = some (leafHash chunk data) →
        ∃ t, exec (.chunkArrival time slot chunk ⟨data, generation, bank⟩) s = .next t ∧
          getSlot t slot =
            { getSlot s slot with
              verified := (getSlot s slot).verified ++ [chunk], tries := tput 0 (getSlot s slot).tries chunk 0 } ∧
          Only [.now, .images, .vellum] s t ∧ getSlot t (1 - slot) = getSlot s (1 - slot)) ∧
      (f.tree[chunk]? ≠ some (leafHash chunk data) → tget 0 (getSlot s slot).tries chunk < 3 →
        ∃ t, exec (.chunkArrival time slot chunk ⟨data, generation, bank⟩) s = .next t ∧
          getSlot t slot =
            { getSlot s slot with
              tries := tput 0 (getSlot s slot).tries chunk (tget 0 (getSlot s slot).tries chunk + 1),
              retries := (getSlot s slot).retries + 1 } ∧
          Only [.now, .images] s t ∧ getSlot t (1 - slot) = getSlot s (1 - slot))) ∧
    (∀ (time slot : Nat) (body : FolioBody) (f : FolioHead) (s : State), slot < 2 → (getSlot s slot).head = some f →
      (getSlot s slot).state = .loading → f.chunkCount ≤ (getSlot s slot).verified.length →
      (getSlot s slot).missing = [] → (getSlot s slot).pull.all (fun p => p.1 == body.generation) = true →
      bodyRefusal s f body = none → folioPages body ≤ stencilSpace s → folioCoPlace f = false →
      ∃ t, exec (.folioLoadComplete time slot body) s = .next t ∧ (getSlot t slot).state = .ready ∧
        (getSlot t slot).head = some f ∧ (getSlot t slot).body = some body ∧ (getSlot t slot).degraded = false ∧
        getSlot t (1 - slot) = getSlot s (1 - slot) ∧
        Ended s t 0x0501 slot stSuccess (loadResult 0 (getSlot s slot))) ∧
    (∀ (h : Hdr) (slot : Nat) (s : State), Accepted s h opFolioUnload → slot < 2 → (getSlot s slot).state = .ready →
      ∃ t, exec (.folioUnload h slot) s = .next t ∧
        getSlot t slot =
          { state := .loading, refuse := (getSlot s slot).refuse, relocated := (getSlot s slot).relocated } ∧
        getSlot t (1 - slot) = getSlot s (1 - slot) ∧ t.serving.clears.contains (.slot slot) = true ∧
        Started t h opFolioUnload slot)

/-- IMAGE_SWITCH to a READY slot waits for a handover that is due; where none is: where no slot is ACTIVE the slot becomes
ACTIVE at the next epoch, its fill begins and the command stays under way; where the other slot is ACTIVE with its whole
placement resident, that one is DRAINING, the slot is ACTIVE at the next epoch, and the command completes with the epoch and
the first step. FIRST_ACTIVATION_FILL makes the placement resident and ends the activation; repair variants in force wait
where a chunk of theirs is missing. MIGRATION_START begins once nothing of the old slot is left, MIGRATION_PART_DONE counts
each island once, in the order of the placement and between its steps, with the share that is resident, and the last one
ends the migration, SLOT_DRAINED returns a slot with nothing bound to READY. -/
def Obligations.ImagesSwitch : Prop :=
  (∀ (h : Hdr) (slot : Nat) (b : FolioBody) (s : State), Accepted s h opImageSwitch → slot < 2 →
      (getSlot s slot).state = .ready → (getSlot s slot).body = some b →
      (s.fw.handover = true → exec (.imageSwitch h slot) s = .next (advance s h.time)) ∧
      (s.fw.handover = false → (getSlot s (1 - slot)).state = .empty ∨ (getSlot s (1 - slot)).state = .loading ∨
          (getSlot s (1 - slot)).state = .ready →
        ∃ t, exec (.imageSwitch h slot) s = .next t ∧ (getSlot t slot).state = .active ∧
          (getSlot t slot).epoch = s.images.epoch + 1 ∧ t.images.epoch = s.images.epoch + 1 ∧
          t.images.activating = some slot ∧ t.images.lines = [] ∧ getSlot t (1 - slot) = getSlot s (1 - slot) ∧
          Started t h opImageSwitch slot) ∧
      (s.fw.handover = false → (getSlot s (1 - slot)).state = .active → 1000 ≤ (getSlot s (1 - slot)).permille → OnTime s h →
        ∃ t, exec (.imageSwitch h slot) s = .next t ∧ (getSlot t slot).state = .active ∧
          (getSlot t slot).epoch = s.images.epoch + 1 ∧ t.images.epoch = s.images.epoch + 1 ∧
          getSlot t (1 - slot) = { getSlot s (1 - slot) with state := .draining } ∧
          Answered s t h stSuccess (s.images.epoch + 1 + 2 ^ 64 * s.serving.nextStep) [])) ∧
    (∀ (time n : Nat) (s : State), s.images.activating = some n → sectionMissing (getSlot s n) [1, 5, 6, 7] = false →
      (getSlot s n).body.isSome = true →
      ∃ t, exec (.firstActivationFill time false) s = .next t ∧ t.images.activating = none ∧
        getSlot t n =
          { getSlot s n with
            permille := 1000, filled := true, streaming := false, reloadDue := false,
            owed := if sectionMissing (getSlot s n) [3, 5] then (getSlot s n).inForce else [] } ∧
        Ended s t 0x0503 n stSuccess ((getSlot s n).epoch + 2 ^ 64 * s.serving.nextStep)) ∧
    (∀ (time old new : Nat) (s : State), s.images.switching = some (old, new) → s.images.migrating = false →
      turnsOn s old = 0 → (∀ st ∈ s.serving.steps, st.slot ≠ old) → drainHolds s old = false →
      sectionMissing (getSlot s new) [1, 5] = false →
      ∃ t, exec (.migrationStart time) s = .next t ∧ t.images.migrating = true ∧ t.images.migrated = [] ∧
        t.images.switching = some (old, new) ∧ getSlot t old = { getSlot s old with permille := 0, filled := false }) ∧
    (∀ (time unit old new : Nat) (load : DmaLoad) (f : FolioHead) (b : FolioBody) (s : State), s.images.switching = some (old, new) →
      new < 2 → old = 1 - new → (getSlot s new).head = some f → (getSlot s new).body = some b → s.images.migrating = true →
      ((footprint b).filter (clusterGood s)).contains unit = true → s.images.migrated.contains unit = false →
      partNext s b unit = true → (getIsland s unit).desc = none → sectionMissing (getSlot s new) [1, 5] = false →
      ∃ t, exec (.migrationPartDone time unit load) s = .next t ∧
        (if ((footprint b).filter (clusterGood s)).all (fun u => (s.images.migrated ++ [unit]).contains u) then
          t.images.switching = none ∧ t.images.migrating = false ∧ (getSlot t new).permille = 1000 ∧
            (getSlot t new).streaming = false
         else
          t.images.switching = some (old, new) ∧ t.images.migrated = s.images.migrated ++ [unit] ∧
            (getSlot t new).permille = residentShare f b (s.images.migrated ++ [unit]))) ∧
    (∀ (time slot : Nat) (s : State), slot < 2 → (getSlot s slot).state = .draining → turnsOn s slot = 0 →
      sessionsOn s slot = 0 →
      ∃ t, exec (.slotDrained time slot) s = .next t ∧ (getSlot t slot).state = .ready ∧
        (getSlot t slot).head = (getSlot s slot).head ∧ getSlot t (1 - slot) = getSlot s (1 - slot))

/-- FOLIO_EXPORT of a loaded Folio that is neither wrapped nor degraded, with the export window open and no other slot
exported, gives the export a new generation; FOLIO_EXPORT_END ends it and keeps the count. COMPAT_SWAP with a Folio that
passes every check and has the ACTIVE slot's shape makes the slot COMPAT at the next epoch and stays under way;
COMPAT_LAYER_REWRITE of the next part in order counts it, and part 64 ends the swap with the new image and its content key
ACTIVE, its command completing where no island of the part waits and no failed cartridge does. -/
def Obligations.ExportAndCompatSwap : Prop :=
  (∀ (h : Hdr) (slot peer : Nat) (f : FolioHead) (s : State), Accepted s h opFolioExport → OnTime s h → slot < 2 →
      peer ≤ 0xFFFF → (getSlot s slot).head = some f →
      (getSlot s slot).state = .ready ∨ (getSlot s slot).state = .active ∨ (getSlot s slot).state = .draining →
      s.link.exportEnable = true → s.link.memSpace = true → folioWrapped f = false → (getSlot s slot).degraded = false →
      s.images.exported.slot ≠ some (1 - slot) →
      ∃ t, exec (.folioExport h slot peer) s = .next t ∧
        t.images.exported =
          { slot := some slot, peer := peer, generation := s.images.exported.count + 1,
            count := s.images.exported.count + 1, bank := 0 } ∧
        getSlot t slot = getSlot s slot ∧
        Answered s t h stSuccess (s.images.exported.count + 1 + 2 ^ 32 * fileFrames f) []) ∧
    (∀ (h : Hdr) (s : State), Accepted s h opFolioExportEnd → OnTime s h → s.images.exported.slot.isSome = true →
      ∃ t, exec (.folioExportEnd h) s = .next t ∧ t.images.exported = { count := s.images.exported.count } ∧
        Answered s t h stSuccess 0 []) ∧
    (∀ (h : Hdr) (f g : FolioHead) (chunks : List (List Byte)) (list : Nat × Nat) (body b : FolioBody) (n : Nat) (s : State),
      Accepted s h opCompatSwap → n < 2 → list.1 % 4 = 0 → list.2 % 16 = 0 → 16 ≤ list.2 → list.2 ≤ 65536 →
      (getSlot s n).state = .active → (n = 1 → s.images.a.state ≠ .active) → (getSlot s n).head = some g →
      (getSlot s n).body = some b → (getSlot s (1 - n)).state ≠ .draining → timedUnfinished s = false →
      headRefusal s (slotCapacity s.vellum.layout n) f = none → folioCompat f = true → f.shapeId = g.shapeId →
      f.chunkCount = g.chunkCount → f.chunkBase + f.chunkCount * 4194304 ≤ f.sourceBytes →
      leavesOf chunks = f.tree.take f.chunkCount → bodyRefusal s f body = none →
      ∃ t, exec (.compatSwap h ⟨f, chunks⟩ ⟨body, list⟩) s = .next t ∧
        getSlot t n = { getSlot s n with state := .compat, epoch := s.images.epoch + 1 } ∧
        t.images.epoch = s.images.epoch + 1 ∧
        t.images.compat =
          some { head := f, body := body, oldHead := g, oldBody := b, oldList := list, inForce := (fitVariants s body).getD [],
                 contentKey := openKey s f } ∧
        Started t h opCompatSwap n) ∧
    (∀ (time layer : Nat) (c : Compat) (s : State), s.images.compat = some c →
      (c.body.layers.map (·.layer) ++ [64])[c.layersDone.length]? = some layer →
      oldEpochIn s (compatSlot s) (partUnits c.body c.inForce layer) = false →
      (getSlot s (compatSlot s)).missing = [] →
      ∃ t, exec (.compatLayerRewrite time layer false) s = .next t ∧
        (layer ≠ 64 → t.images.compat = some { c with layersDone := c.layersDone ++ [layer] } ∧
          getSlot t (1 - compatSlot s) = getSlot s (1 - compatSlot s)) ∧
        (layer = 64 → t.images.compat = none ∧ (getSlot t (compatSlot s)).state = .active ∧
          (getSlot t (compatSlot s)).head = some c.head ∧ (getSlot t (compatSlot s)).body = some c.body ∧
          (getSlot t (compatSlot s)).contentKey = c.contentKey ∧
          (getSlot t (compatSlot s)).epoch = (getSlot s (compatSlot s)).epoch ∧
          ((∀ u ∈ partUnits c.body c.inForce 64, (getIsland s u).gate = none) → (∀ k < 20, (getCart s k).phasesLost < 8) →
            Ended s t 0x0508 (compatSlot s) stSuccess (2 ^ 32 * (getSlot s (compatSlot s)).epoch))))

/-- CHUNK_REFETCH of the lowest missing chunk that has a source, matching its leaf and with a reserve site free, places it
there; one that does not match counts its attempt. REFETCH_TIMEOUT at 60 s makes the slot DEGRADED and ends its export.
REFETCH_SOURCE names the source. ARITH_MODE_SET with no step in flight sets the mode at once. EXPERT_PIN gives one expert of
a layer its pin and leaves every other. STENCIL_LOAD loads a stencil under an unused id while the region has room. -/
def Obligations.ChunksModesPinsStencils : Prop :=
  (∀ (time slot chunk : Nat) (data : List Byte) (s : State), slot < 2 → nextMissing (getSlot s slot) = some chunk →
      (∀ d, (getSlot s slot).head.bind (fun f => f.tree[chunk]?) = some (leafHash chunk data) → relocationSite s = some d →
        ∃ t, exec (.chunkRefetch time slot chunk data) s = .next t ∧
          (getSlot t slot).missing = (getSlot s slot).missing.filter (fun c => c != chunk) ∧
          (getSlot t slot).relocated = tins (getSlot s slot).relocated chunk d ∧
          (getSlot t slot).refetched = (getSlot s slot).refetched + 1 ∧
          Only [.now, .serving, .images, .vellum, .fabric] s t) ∧
      ((getSlot s slot).head.bind (fun f => f.tree[chunk]?) ≠ some (leafHash chunk data) →
        ∃ t, exec (.chunkRefetch time slot chunk data) s = .next t ∧ (getSlot t slot).missing = (getSlot s slot).missing ∧
          tget 0 (getSlot t slot).tries chunk = (nextTry (getSlot s slot) chunk).getD 0 ∧ Only [.now, .images] s t)) ∧
    (∀ (time slot c : Nat) (rest : List Nat) (s : State), slot < 2 → (getSlot s slot).missing = c :: rest →
      (getSlot s slot).degraded = false → (getSlot s slot).missingAt + 60000000000 ≤ max s.now time →
      ∃ t, exec (.refetchTimeout time slot) s = .next t ∧ getSlot t slot = { getSlot s slot with degraded := true } ∧
        (s.images.exported.slot = some slot → t.images.exported.slot = none) ∧
        Only [.link, .mailbox, .blotter, .mgmt, .now, .images] s t) ∧
    (∀ (h : Hdr) (slot kind peer : Nat) (f : FolioHead) (s : State), Accepted s h opRefetchSource → OnTime s h → slot < 2 →
      kind < 3 → (getSlot s slot).state ≠ .empty → (getSlot s slot).head = some f →
      (kind = 1 → folioWrapped f = false) →
      ∃ t, exec (.refetchSource h slot kind peer) s = .next t ∧
        (kind = 0 → getSlot t slot = { getSlot s slot with peer := none }) ∧
        (kind = 1 → getSlot t slot = { getSlot s slot with peer := some peer, tries := [] }) ∧
        (kind = 2 → getSlot t slot =
          { getSlot s slot with hostConfirmed := true, tries := (getSlot s slot).tries.map (fun x => (x.1, min x.2 4)) }) ∧ Answered s t h stSuccess 0 []) ∧
    (∀ (h : Hdr) (slot mode : Nat) (f : FolioHead) (s : State), Accepted s h opArithModeSet → OnTime s h → slot < 2 →
      mode < 2 → (getSlot s slot).state ≠ .empty → (getSlot s slot).state ≠ .loading → (getSlot s slot).head = some f →
      (mode = 1 → folioReference f = true) → s.serving.sessions = [] → s.serving.steps = [] →
      ∃ t, exec (.arithModeSet h slot mode) s = .next t ∧
        getSlot t slot = { getSlot s slot with reference := mode == 1, modeFrom := none } ∧
        Answered s t h stSuccess (2 ^ 64 * s.serving.nextStep) []) ∧
    (∀ (h : Hdr) (slot layer expert pin : Nat) (r : LayerRes) (s : State), Accepted s h opExpertPin → OnTime s h →
      slot < 2 → layer < 64 → expert < 128 → pin < 3 →
      (getSlot s slot).state = .ready ∨ (getSlot s slot).state = .active →
      (getSlot s slot).layers.find? (fun r => r.layer == layer) = some r → expert < r.experts.length →
      (pin = 1 → (r.experts.zipIdx.filter (fun x => x.1.pin == 1 && x.2 != expert)).length <
        (r.experts.filter (·.hot)).length) →
      (pin = 2 → (r.experts.zipIdx.filter (fun x => x.1.pin == 2 && x.2 != expert)).length < 40) →
      ∃ t r', exec (.expertPin h slot layer expert pin) s = .next t ∧
        (getSlot t slot).layers.find? (fun r => r.layer == layer) = some r' ∧
        r'.experts[expert]?.map (·.pin) = some pin ∧ (∀ j, j ≠ expert → r'.experts[j]? = r.experts[j]?) ∧
        Answered s t h stSuccess 0 []) ∧
    (∀ (h : Hdr) (slot id : Nat) (st : Stencil) (b : FolioBody) (s : State), Accepted s h opStencilLoad → OnTime s h →
      slot < 2 → id < 1024 → (getSlot s slot).body = some b →
      (getSlot s slot).stencils.find? (fun kv => kv.1 == id) = none → stencilOk b.lettering st = true →
      stencilPages st b.lettering.vocab.length ≤ stencilSpace s →
      ∃ t, exec (.stencilLoad h slot id (some st)) s = .next t ∧
        getSlot t slot =
          { getSlot s slot with stencils := tins ((getSlot s slot).stencils.filter (fun kv => kv.1 != id)) id st } ∧
        Answered s t h stSuccess st.states.length [])

/-- ADAPTER_LOAD of a good image for a registered tenant with fewer than two versions present and room in the store appends
a version that is loading, and stays under way; ADAPTER_LOAD_DONE ends the load with the version's index. ADAPTER_SWAP to a
stored version makes it current at the tenant's next adapter epoch; ADAPTER_PIN sets the pin; ADAPTER_UNLOAD of a version
that is neither current nor bound frees it. -/
def Obligations.AdaptersLoadSwapAndUnload : Prop :=
  (∀ (h : Hdr) (n d : Nat) (runs : List (Nat × Nat)) (image : AdapterImage) (s : State), Accepted s h opAdapterLoad →
      n ≤ 0xFFFF → adapterOk image = true → (getTenant s n).registered = true →
      ((getTenant s n).versions.filter (·.present)).length < 2 →
      adapterSite s n ((adapterLayers image).map (fun x => x.2.length / 64)).sum = some (d, runs) →
      ∃ t w, exec (.adapterLoad h n image) s = .next t ∧
        (getTenant t n).versions = (getTenant s n).versions.filter (fun x => x.index != w.index) ++ [w] ∧
        w.loading = true ∧ w.modelId = image.modelId ∧ w.site = d ∧ w.extents = runs ∧
        (∀ k, k ≠ n → getTenant t k = getTenant s k) ∧ Started t h opAdapterLoad n) ∧
    (∀ (time n : Nat) (w : AdapterVer) (s : State), (getTenant s n).versions.find? (·.loading) = some w →
      ∃ t, exec (.adapterLoadDone time n) s = .next t ∧
        (getTenant t n).versions =
          (getTenant s n).versions.map (fun x => if x.index = w.index then { x with loading := false } else x) ∧
        (∀ k, k ≠ n → getTenant t k = getTenant s k) ∧ Ended s t 0x0506 n stSuccess w.index) ∧
    (∀ (h : Hdr) (n version : Nat) (s : State), Accepted s h opAdapterSwap → OnTime s h → n ≤ 0xFFFF →
      (getTenant s n).registered = true →
      (getTenant s n).versions.any (fun w => w.index == version && !w.loading) = true →
      ∃ t, exec (.adapterSwap h n version) s = .next t ∧ (getTenant t n).current = some version ∧
        (getTenant t n).adapterEpoch = ((getTenant s n).adapterEpoch + 1) % 65536 ∧
        (∀ k, k ≠ n → getTenant t k = getTenant s k) ∧
        Answered s t h stSuccess (((getTenant s n).adapterEpoch + 1) % 65536) []) ∧
    (∀ (h : Hdr) (n : Nat) (pin : Bool) (s : State), Accepted s h opAdapterPin → OnTime s h → n ≤ 0xFFFF →
      (getTenant s n).registered = true →
      (pin = true → (s.serving.tenants.filter (fun kv => kv.2.pinned && kv.1 != n)).length < 32) →
      ∃ t, exec (.adapterPin h n pin) s = .next t ∧ getTenant t n = { getTenant s n with pinned := pin } ∧
        (∀ k, k ≠ n → getTenant t k = getTenant s k) ∧ Answered s t h stSuccess 0 []) ∧
    (∀ (h : Hdr) (n version : Nat) (w : AdapterVer) (s : State), Accepted s h opAdapterUnload → OnTime s h → n ≤ 0xFFFF →
      (getTenant s n).versions.find? (fun w => w.index == version) = some w → (getTenant s n).current ≠ some version →
      versionBound s n w = false → w.loading = false →
      ∃ t, exec (.adapterUnload h n version) s = .next t ∧
        (getTenant t n).versions = (getTenant s n).versions.filter (fun w => w.index != version) ∧
        (∀ k, k ≠ n → getTenant t k = getTenant s k) ∧ Answered s t h stSuccess 0 [])

/-- POWER_CAP_SET, accepted and at most 18,500 W, puts its cap in force for checks at once. While a step is in flight it
stays under way and the bound cap stays; with none in flight the cap binds at once. CAP_BIND binds a pending cap, and a
bound cap below a set floor gives every unfinished Timed turn without one the forfeit CAP. The PLDM effecter does the same
for a value in range. CAP_FLOOR_SET sets a floor not above the cap in force and not below P_G, and answers P_G. -/
def Obligations.PowerCapsBind : Prop :=
  (∀ (h : Hdr) (w : Nat) (s : State), Accepted s h opPowerCapSet → w ≤ 18500 →
      (s.serving.steps ≠ [] →
        ∃ t, exec (.powerCapSet h w) s = .next t ∧ t.power.hostCap = (if w = 0 then 18500 else w) ∧
          t.power.capPending = true ∧ t.power.boundCap = s.power.boundCap ∧ Started t h opPowerCapSet 0) ∧
      (s.serving.steps = [] →
        ∃ t, exec (.powerCapSet h w) s = .next t ∧ t.power.hostCap = (if w = 0 then 18500 else w) ∧
          t.power.capPending = false ∧ t.power.boundCap = t.power.hostCap)) ∧
    (∀ (time : Nat) (s : State), s.power.capPending = true →
      ∃ t, exec (.capBind time) s = .next t ∧ t.power.boundCap = s.power.hostCap ∧ t.power.capPending = false ∧
        t.power.hostCap = s.power.hostCap) ∧
    (∀ (time w : Nat) (s : State), governorRuns s = true → w ≤ 18500 →
      ∃ t, exec (.powerCapEffecter time w) s = .next t ∧ t.power.hostCap = (if w = 0 then 18500 else w) ∧
        (s.serving.steps = [] → t.power.boundCap = t.power.hostCap ∧ t.power.capPending = false) ∧
        (s.serving.steps ≠ [] → t.power.boundCap = s.power.boundCap ∧ t.power.capPending = true)) ∧
    (∀ (h : Hdr) (w : Nat) (s : State), Accepted s h opCapFloorSet → OnTime s h → w ≤ 18500 →
      (w = 0 → timedUnfinished s = false) → w ≤ s.power.hostCap → (w ≠ 0 → activeGuarantee s ≤ w) →
      ∃ t, exec (.capFloorSet h w) s = .next t ∧ t.power = { s.power with floor := w } ∧
        Answered s t h stSuccess (activeGuarantee s) [])

/-- LATENCY_TOLERANCE_SET stays under way while a step is in flight; with none in flight, as at the next step boundary, it
selects the deepest state whose wake bound is at most the tolerance and answers the state with its wake bound in
microseconds. POWER_READ answers the mean power, the lower of the bound cap and the cooling cap, the state and the number of
registered tenants, with the whole energy entries that fit. -/
def Obligations.PowerStatesAreSelectedAndRead : Prop :=
  (∀ (h : Hdr) (ns : Nat) (s : State), Accepted s h opLatencyToleranceSet → s.board.preparing = [] →
      (3 ≤ powerCode (selectState ns) → s.images.switching = none) →
      (s.serving.steps ≠ [] →
        ∃ t, exec (.latencyToleranceSet h ns) s = .next t ∧ t.power = { s.power with tolDue := some ns } ∧
          Started t h opLatencyToleranceSet 0) ∧
      (s.serving.steps = [] →
        ∃ u t, exec (.latencyToleranceSet h ns) s = .next t ∧ Started u h opLatencyToleranceSet 0 ∧
          t.power.tolerance = ns ∧ t.power.selected = selectState ns ∧ t.power.tolDue = none ∧
          Ended u t 0x0603 0 stSuccess (powerCode (selectState ns) + 2 ^ 32 * (wakeBound (selectState ns) / 1000))) ∧
      (∀ (time : Nat), s.power.capPending = true → s.power.tolDue = some ns →
        ∃ t, exec (.capBind time) s = .next t ∧ t.power.tolerance = ns ∧ t.power.selected = selectState ns ∧
          t.power.tolDue = none) ∧
      (∀ p : PowerState, wakeBound p ≤ ns → powerCode p ≤ powerCode (selectState ns)) ∧ wakeBound (selectState ns) ≤ ns) ∧
    (∀ (h : Hdr) (s : State), Accepted s h opPowerRead → OnTime s h →
      ∃ t, exec (.powerRead h) s = .next t ∧ t.power = s.power ∧
        Answered s t h stSuccess
          (s.power.mean1ms % 2 ^ 32 + 2 ^ 32 * min s.power.boundCap s.thermal.coolingCap +
            2 ^ 64 * powerCode s.power.state +
            2 ^ 80 * ((s.serving.tenants.filter (fun kv => kv.2.registered)).length % 65536))
          (wholeEntries h.dataLen (powerEntries s)))

/-- CARTRIDGE_PREPARE, when every live slot fits without both dies, puts the cartridge under preparation;
CARTRIDGE_PREPARE_DONE, once no page is left, takes both dies' rails away under amber steady and ends the command.
CARTRIDGE_RESTORE of a green cartridge powers it and stays under way; CARTRIDGE_RESTORE_DONE returns both dies to use and
ends it. A cartridge is inserted unpowered, and one under amber steady, or any while the rails are down, is removed with
nothing lost. PHASE_LOST counts each phase. DIE_SHORT darkens the die. -/
def Obligations.CartridgesComeAndGo : Prop :=
  (∀ (h : Hdr) (c : Nat) (s : State), Accepted s h opCartridgePrepare → c < 20 → imagesMoving s = false →
      fitsWithout s c = true → s.board.preparing.contains c = false →
      ∃ t, exec (.cartridgePrepare h c) s = .next t ∧
        t.board = { s.board with preparing := s.board.preparing ++ [c] }) ∧
    (∀ (time c : Nat) (s : State), s.board.preparing.contains c = true → pagesLeft s c = false →
      ∃ t, exec (.cartridgePrepareDone time c) s = .next t ∧
        getCart t c = { getCart s c with lamp := .amber, powered := false } ∧
        (∀ d ∈ cartDies c, t.map.darkDies.contains d = true) ∧
        (∀ d, s.map.darkDies.contains d = true → t.map.darkDies.contains d = true) ∧
        t.board.preparing = s.board.preparing.filter (fun x => x != c) ∧
        Ended s t 0x0606 c stSuccess (msSince (advance s time) 0x0606 c)) ∧
    (∀ (h : Hdr) (c : Nat) (s : State), Accepted s h opCartridgeRestore → c < 20 → (getCart s c).lamp = .green →
      ∃ t, exec (.cartridgeRestore h c) s = .next t ∧ getCart t c = { getCart s c with powered := true } ∧
        Started t h opCartridgeRestore c) ∧
    (∀ (time c : Nat) (r : SelfTestResult) (s : State), (findStarted s 0x0607 c).isSome = true → r.badSegments = [] →
      ∃ t, exec (.cartridgeRestoreDone time c r) s = .next t ∧
        getCart t c = { getCart s c with lamp := usedLamp (getCart s c), powered := true } ∧
        t.map.darkDies = s.map.darkDies.filter (fun d => !((cartDies c).contains d)) ∧
        Ended s t 0x0607 c stSuccess (msSince (advance s time) 0x0607 c)) ∧
    (∀ (time c : Nat) (s : State), c < 20 → (getCart s c).present = false →
      ∃ t, exec (.cartridgeInserted time c) s = .next t ∧ (getCart t c).present = true ∧ (getCart t c).powered = false ∧
        (getCart t c).phasesLost = 0 ∧
        ((getCart t c).lamp = .green ↔ s.board.railsUp = true ∨ s.board.phase = .halted)) ∧
    (∀ (time c : Nat) (s : State), c < 20 → (getCart s c).present = true →
      (getCart s c).lamp = .amber ∨ s.board.railsUp = false →
      ∃ t, exec (.cartridgeRemoved time c) s = .next t ∧ (getCart t c).present = false ∧ (getCart t c).lamp = .off ∧
        t.map = s.map ∧ t.serving = s.serving ∧ t.vellum = s.vellum ∧ t.fabric = s.fabric) ∧
    (∀ (time c : Nat) (s : State), c < 20 → (getCart s c).present = true → (getCart s c).phasesLost < 16 →
      ∃ t, exec (.phaseLost time c) s = .next t ∧ (getCart t c).phasesLost = (getCart s c).phasesLost + 1 ∧
        (getCart t c).present = true ∧ ((getCart s c).powered = true → (getCart t c).lamp = .amberFlash)) ∧
    (∀ (time d : Nat) (s : State), d < 40 → d / 2 ≠ 8 → (getCart s (d / 2)).powered = true →
      s.map.darkDies.contains d = false → governorRuns s = true →
      ∃ t, exec (.dieShort time d) s = .next t ∧ t.map.darkDies.contains d = true)

/-- While the governor runs: a die current above its limit, 10 µs after the last change or with no skipping, costs one more
eighth up to seven. A failed LDO segment is counted for ever, and the third darkens the cluster. A need above the fused
voltage lowers the ceiling by one bin. A droop trip counts a stretch, and one longer than 64 cycles makes a report due; that
report skips, or on a second one within 1 s lowers the bin; the throttle ends after 1 ms or 100 ms. -/
def Obligations.DieLimitsSegmentsAndDroops : Prop :=
  (∀ (time d amps : Nat) (s : State), d < 40 → governorRuns s = true → dieLimit s d < amps →
      (tget 0 s.power.dieSkip d = 0 ∨ tget 0 s.power.dieChanged d + 10000 ≤ max s.now time) →
      ∃ t, exec (.dieCurrentCheck time d amps) s = .next t ∧
        tget 0 t.power.dieSkip d = min 7 (tget 0 s.power.dieSkip d + 1) ∧
        tget 0 t.power.dieChanged d = max s.now time ∧
        (∀ e, e ≠ d → tget 0 t.power.dieSkip e = tget 0 s.power.dieSkip e) ∧ Only [.now, .power] s t) ∧
    (∀ (time u : Nat) (s : State), isCluster u = true → governorRuns s = true → (getIsland s u).dark = false →
      ∃ t, exec (.ldoSegmentFail time u) s = .next t ∧ tget 0 t.nvm.segments u = tget 0 s.nvm.segments u + 1 ∧
        (2 ≤ tget 0 s.nvm.segments u → (getIsland t u).dark = true) ∧
        (∀ v, v ≠ u → tget 0 t.nvm.segments v = tget 0 s.nvm.segments v)) ∧
    (∀ (time u code : Nat) (s : State), isCluster u = true → governorRuns s = true →
      Config.fusedVoltage u (tget 0 s.nvm.ceilings u) < code → tget 0 s.nvm.ceilings u < 5 →
      ∃ t, exec (.ceilingCheck time u code) s = .next t ∧ tget 0 t.nvm.ceilings u = tget 0 s.nvm.ceilings u + 1 ∧
        (∀ v, v ≠ u → tget 0 t.nvm.ceilings v = tget 0 s.nvm.ceilings v)) ∧
    (∀ (u cycles : Nat) (s : State), isCluster u = true →
      ∃ t, exec (.droopTrip u cycles) s = .next t ∧
        getIsland t u =
          { getIsland s u with
            net := { (getIsland s u).net with droopStretches := sat 32 ((getIsland s u).net.droopStretches + 1) },
            droopDue := (getIsland s u).droopDue || decide (64 < cycles) } ∧
        (∀ v, v ≠ u → getIsland t v = getIsland s v) ∧ Only [.fabric] s t) ∧
    (∀ (time u : Nat) (s : State), isCluster u = true → governorRuns s = true → (getIsland s u).droopDue = true →
      ∃ t, exec (.droopReport time u) s = .next t ∧
        (getIsland t u).droops =
          (getIsland s u).droops.filter (fun x => decide (max s.now time < x + 3600000000000)) ++ [max s.now time] ∧
        ((getIsland t u).droopBin = true ↔
          ∃ x ∈ (getIsland s u).droops, max s.now time < x + 3600000000000 ∧ max s.now time ≤ x + 1000000000) ∧
        (getIsland t u).droopSkip = !(getIsland t u).droopBin ∧ (getIsland t u).droopDue = false) ∧
    (∀ (time u x : Nat) (s : State), (getIsland s u).droops.getLast? = some x →
      x + (if (getIsland s u).droopBin then 100000000 else 1000000) ≤ max s.now time →
      ∃ t, exec (.droopThrottleEnd time u) s = .next t ∧
        getIsland t u = { getIsland s u with droopSkip := false, droopBin := false } ∧ Only [.now, .fabric] s t)

/-- INRUSH_SLOT enables one segment of the first waiting cluster while the die's limit has 8 A left. An enable that has
waited 200 µs makes the die skip. ALLOWANCE_RAMP takes the measured means. POWER_STATE_ENTRY times idleness and begins the
descent after 100 µs and ten wake bounds; each DESCENT_MOVE moves one unit, and the last one reaches the state. WAKE with
its trigger present returns to ACTIVE. BASE_ENERGY_SPLIT empties the second's counters. -/
def Obligations.InrushAllowanceStatesEnergy : Prop :=
  (∀ (time d amps u : Nat) (rest : List Nat) (s : State), waitingClusters s d = u :: rest → amps + 8 ≤ dieLimit s d →
      ∃ t, exec (.inrushSlot time d amps) s = .next t ∧
        (getIsland t u).enabledSegments = (getIsland s u).enabledSegments + 1 ∧
        (8 - tget 0 s.nvm.segments u ≤ (getIsland s u).enabledSegments + 1 → (getIsland t u).enableSince = none ∧
          (getIsland t u).parked = false) ∧ Only [.now, .fabric, .power] s t) ∧
    (∀ (time d u x : Nat) (s : State), u ∈ waitingClusters s d → (getIsland s u).enableSince = some x →
      x + 200000 ≤ max s.now time → s.power.inrushSkip.contains d = false →
      ∃ t, exec (.inrushWaitExpiry time d) s = .next t ∧
        t.power = { s.power with inrushSkip := s.power.inrushSkip ++ [d] }) ∧
    (∀ (time a b : Nat) (s : State),
      ∃ t, exec (.allowanceRamp time a b) s = .next t ∧ t.power.mean1ms = a ∧ t.power.mean10ms = b ∧
        t.power.hostCap = s.power.hostCap ∧ t.power.boundCap = s.power.boundCap) ∧
    (∀ (time : Nat) (s : State), isIdle s = true → s.board.phase = .serving →
      ∃ t, exec (.powerStateEntry time) s = .next t ∧
        (s.power.idleSince = none → t.power = { s.power with idleSince := some (max s.now time) }) ∧
        (∀ x, s.power.idleSince = some x → powerCode s.power.state < powerCode s.power.selected →
          s.power.descending = false → x + max 100000 (10 * wakeBound s.power.selected) ≤ max s.now time →
          t.power = { s.power with descending := true, moved := 0 })) ∧
    (∀ (time : Nat) (s : State), s.power.descending = true → isIdle s = true →
      powerCode s.power.state < powerCode s.power.selected →
      ∃ t, exec (.powerStateDescentMove time) s = .next t ∧
        (if unitsOf (deeper s.power.state) ≤ s.power.moved + 1 then
          t.power.state = deeper s.power.state ∧ t.power.moved = 0 ∧
            (t.power.descending = true ↔ deeper s.power.state ≠ s.power.selected)
         else t.power = { s.power with moved := s.power.moved + 1 })) ∧
    (∀ (time : Nat) (w : WakeTrigger) (s : State), s.power.state ≠ .active ∨ s.power.descending = true →
      triggered s w = true →
      ∃ t, exec (.wake time w) s = .next t ∧ t.power.state = .active ∧ t.power.descending = false ∧
        t.power.moved = 0) ∧
    (∀ (time mj : Nat) (s : State),
      ∃ t, exec (.baseEnergySplit time mj) s = .next t ∧ (∀ k, (getTenant t k).energySecond = 0) ∧
        ((∀ kv ∈ s.serving.tenants, kv.2.energySecond = 0) → ∀ p, getPartition t p = getPartition s p) ∧
        Only [.now, .serving] s t)

/-- In a sound state, while the governor runs and no unit was at 115 °C in the sample before, SENSOR_SAMPLE of a pair that
neither jumped takes both values. The envelope check of pairs with fewer than nine consecutive misses fails no sensor. A
flag clears after 10 s within 4 °C. A throttled unit deepens by one stage after 100 µs at 105 °C or more and comes back by
one after 1 ms below 100 °C. The backup comparator at 120 °C on a good sensor stops the module with THERMTRIP_N. -/
def Obligations.SensorsAndThrottles : Prop :=
  (∀ (time u : Nat) (a b : Int) (also : SameSample) (s : State), governorRuns s = true → hasPair u = true →
      sensorsRead s u = true → ThermalSound s.thermal → (∀ v, (getPair s v).hot = 0) →
      jumped (getPair s u).rawA a (getPair s u).rawB b = false →
      jumped (getPair s u).rawB b (getPair s u).rawA a = false →
      ∃ t, exec (.sensorSample time [(u, a, b)] also) s = .next t ∧ (getPair t u).a = a ∧ (getPair t u).b = b ∧
        (getPair t u).rawA = a ∧ (getPair t u).rawB = b ∧
        (∀ v, v ≠ u → (getPair t v).a = (getPair s v).a ∧ (getPair t v).b = (getPair s v).b)) ∧
    (∀ (time : Nat) (s : State), governorRuns s = true → ThermalSound s.thermal →
      (∀ v, (getPair s v).missA < 9 ∧ (getPair s v).missB < 9) →
      ∃ t, exec (.sensorEnvelopeCheck time) s = .next t ∧ Only [.now, .thermal] s t ∧
        (∀ v, (getPair t v).a = (getPair s v).a ∧ (getPair t v).b = (getPair s v).b ∧
          (getPair t v).failedA = (getPair s v).failedA ∧ (getPair t v).failedB = (getPair s v).failedB)) ∧
    (∀ (time u x : Nat) (s : State), (getPair s u).closeSince = some x → (getPair s u).flagged = true →
      x + 10000000000 ≤ max s.now time →
      ∃ t, exec (.sensorFlagClear time u) s = .next t ∧
        getPair t u = { getPair s u with flagged := false, closeSince := none } ∧ Only [.now, .thermal] s t) ∧
    (∀ (time u : Nat) (s : State), governorRuns s = true → canThrottle s u = true → 1 ≤ (getPair s u).stage →
      (getPair s u).stage < 7 → 420 ≤ protReading s u → (getPair s u).stageAt + 100000 ≤ max s.now time →
      ∃ t, exec (.throttleDeepen time u) s = .next t ∧
        getPair t u = { getPair s u with stage := (getPair s u).stage + 1, stageAt := max s.now time }) ∧
    (∀ (time u x : Nat) (s : State), (getPair s u).coolSince = some x → governorRuns s = true →
      1 ≤ (getPair s u).stage → x + 1000000 ≤ max s.now time →
      ∃ t, exec (.throttleRelease time u) s = .next t ∧ (getPair t u).stage = (getPair s u).stage - 1 ∧
        (getPair t u).coolSince = (if (getPair s u).stage = 1 then none else some (max s.now time)) ∧
        Only [.now, .thermal] s t) ∧
    (∀ (time u : Nat) (onB : Bool) (a b : Int) (also : SameSample) (s : State), s.board.railsUp = true → isSensed u = true →
      (if onB then (getPair s u).failedB else (getPair s u).failedA) = false → 480 ≤ (if onB then b else a) →
      sensorsRead s u = true →
      ∃ t, exec (.backupComparatorTrip time u onB a ⟨b, also⟩) s = .next t ∧ t.board.thermtrip = true ∧
        t.board.phase = .stopped ∧ t.board.railsUp = false ∧ t.board.modReady = false ∧ t.serving = {} ∧ t.images = {} ∧
        t.vellum = {} ∧ t.fabric = {})

/-- COOLANT_JUDGE compares the inlet and the flow with the limits once a second. COOLING_CAP_REVISE while the module is
ready takes the cap of R409. COOLANT_FLOW_WRITE takes the tray's flow, and 10 s without one makes it stale. THERMAL_ACK
after a partial shutdown, with no running unit at 60 °C or above, returns the module to service with the rails up. -/
def Obligations.CoolantAndTheReturn : Prop :=
  (∀ (time : Nat) (inlet outlet : Int) (power : Nat) (s : State), governorRuns s = true →
      ∃ t, exec (.coolantJudge time inlet outlet power) s = .next t ∧
        (t.thermal.outside = true ↔
          inlet < 72 ∨ 128 < inlet ∨ 400 < s.thermal.flow ∨ s.thermal.flow < 140 ∨
            s.thermal.flow * 17000 < 280 * power ∨ s.thermal.flowStale = true) ∧
        t.thermal.power = power ∧ t.thermal.pairs = s.thermal.pairs) ∧
    (∀ (time : Nat) (inlet outlet : Int) (power : Nat) (steady : Bool) (s : State), s.board.modReady = true →
      ∃ t, exec (.coolingCapRevise time inlet outlet power steady) s = .next t ∧
        t.thermal.coolingCap = coolingCapOf s inlet outlet power steady ∧ t.thermal.coolingCap ≤ 18500 ∧
        t.thermal.coolingCap % 10 = 0) ∧
    (∀ (time flow : Nat) (s : State), governorRuns s = true →
      ∃ t, exec (.coolantFlowWrite time flow) s = .next t ∧
        t.thermal = { s.thermal with flow := flow, flowAt := max s.now time, flowStale := false } ∧
        Only [.now, .thermal] s t) ∧
    (∀ (time : Nat) (s : State), governorRuns s = true → s.thermal.flowStale = false →
      max s.thermal.flowAt s.board.roseAt + 10000000000 ≤ max s.now time →
      ∃ t, exec (.flowReadingStale time) s = .next t ∧ t.thermal = { s.thermal with flowStale := true }) ∧
    (∀ (h : Hdr) (s : State), Accepted s h opThermalAck → s.thermal.shutdown = true →
      (∀ kv ∈ s.thermal.pairs, isSensed kv.1 = true → sensorsRead s kv.1 = true → protReading s kv.1 < 240) →
      ∃ t, exec (.thermalAck h) s = .next t ∧ t.board.phase = .serving ∧ t.board.modReady = true ∧
        t.board.thermtrip = false ∧ t.board.computeRails = true ∧ t.thermal.shutdown = false ∧
        t.thermal.coolingCap = 18500 ∧ t.power.state = .active)

/-- While the module is not Unsealed, ATTEST answers the report with its two signatures. PUBLISHER_REGISTER of an unknown
publisher with fewer than 64 adds it and extends register 6 with its key digest; PUBLISHER_REVOKE of one that no loaded slot
carries removes it and extends register 6. MEASUREMENT_LOG_READ answers the whole entries of the log that fit. CERT_READ
answers a chain. -/
def Obligations.AttestationAndPublishers : Prop :=
  (∀ (h : Hdr) (nonce : BitVec 256) (s : State), Accepted s h opAttest → OnTime s h → s.trust.isUnsealed = false →
      ∃ t, exec (.attest h nonce) s = .next t ∧ t.trust = s.trust ∧
        Answered s t h stSuccess 39120 (fitEntries 39120 h.dataLen
          (attestBody (advance s h.time) h.func nonce ++ (keyBytes 4 s.free 384 ++ keyBytes 5 s.free 35664)))) ∧
    (∀ (h : Hdr) (p : Nat) (d : Digest) (s : State), Accepted s h opPublisherRegister → OnTime s h → p < 2 ^ 32 →
      s.nvm.publishers.any (fun q => q.1 == p) = false → s.nvm.publishers.length < 64 →
      ∃ t, exec (.publisherRegister h p d) s = .next t ∧
        t.nvm = { s.nvm with publishers := s.nvm.publishers ++ [(p, d)] } ∧ t.trust = (extend s 6 7 p 0 d).trust ∧
        Answered s t h stSuccess 0 []) ∧
    (∀ (h : Hdr) (p : Nat) (x : Nat × Digest) (s : State), Accepted s h opPublisherRevoke → OnTime s h →
      s.nvm.publishers.find? (fun q => q.1 == p) = some x → carries s.images.a p = false → carries s.images.b p = false →
      ∃ t, exec (.publisherRevoke h p) s = .next t ∧
        t.nvm = { s.nvm with publishers := s.nvm.publishers.filter (fun q => q.1 != p) } ∧
        t.trust = (extend s 6 8 p 0 x.2).trust ∧ Answered s t h stSuccess 0 []) ∧
    (∀ (h : Hdr) (s : State), Accepted s h opMeasurementLogRead → OnTime s h →
      ∃ t, exec (.measurementLogRead h) s = .next t ∧ t.trust = s.trust ∧
        Answered s t h stSuccess (64 * s.trust.log.length) (fitEntries 64 h.dataLen (s.trust.log.flatMap logBytes))) ∧
    (∀ (h : Hdr) (key : Nat) (s : State), Accepted s h opCertRead → OnTime s h → key ≤ 1 →
      s.trust.isUnsealed = false → s.trust.stageOne = false →
      ∃ t, exec (.certRead h key) s = .next t ∧ t.trust = s.trust ∧
        Answered s t h stSuccess (chainBytes s key).length (fitEntries (chainBytes s key).length h.dataLen (chainBytes s key)))

/-- With nothing of the session in the command's way: KEY_EXCHANGE_START for an open session of a Sealed partition starts an
exchange with the session's next KX_SEQ and answers the offer. KEY_EXCHANGE_FINISH with a reply whose confirmation is the
one that the exchange's secrets and transcript give ends it and installs the key set that they give. KEY_EXCHANGE_EXPIRY
drops the session's exchange after 60 s and no other. REPROVISION stage 1 enrols the root that the PUF and the mesh give;
stage 2 stores the new certificate chains and leaves the Unsealed state. SEAL_BREAK with the mesh armed destroys the root
and the key store, counts an opening, and leaves every page of a Sealed partition zero and the module Unsealed. -/
def Obligations.KeysAndTheSeal : Prop :=
  (∀ (h : Hdr) (k : Nat) (s : State), Accepted s h opKeyExchangeStart → OnTime s h → k < 2 ^ 18 →
      Unhindered s h k →
      s.trust.isUnsealed = false → (getPartition s (h.func - 1)).isSealed = true → openIn s k (h.func - 1) = true →
      ((exchangesIn (advance s h.time) (h.func - 1)).filter (fun e => e.session != k)).length < 16 →
      ∃ t, exec (.keyExchangeStart h k) s = .next t ∧
        getSession t k = { getSession s k with kxSeq := (getSession s k).kxSeq + 1 } ∧
        (∀ j, j ≠ k → getSession t j = getSession s j) ∧
        t.trust.exchanges = s.trust.exchanges.filter (fun x => x.session != k) ++
          [{ session := k, partition := h.func - 1, seq := (getSession s k).kxSeq + 1, startedAt := max s.now h.time,
             offer := offerBody (advance s h.time) (h.func - 1) k ((getSession s k).kxSeq + 1), eph := s.free }] ∧
        Answered s t h stSuccess 37840 (fitEntries 37840 h.dataLen
          (offerBody (advance s h.time) (h.func - 1) k ((getSession s k).kxSeq + 1) ++ keyBytes 8 s.free 384 ++
            keyBytes 9 s.free 35664))) ∧
    (∀ (h : Hdr) (k : Nat) (r : KxReply) (e : Exchange) (s : State), Accepted s h opKeyExchangeFinish → OnTime s h →
      Unhindered s h k → k < 2 ^ 18 → h.dataLen = 1792 → r.magicOk = true → s.trust.isUnsealed = false →
      (exchangesIn (advance s h.time) (h.func - 1)).find? (fun e => e.session == k) = some e → r.session = k →
      r.kxSeq = e.seq → r.pointOk = true → r.confirm = kxConfirm e r →
      ∃ t, exec (.keyExchangeFinish h k r) s = .next t ∧ getSession t k = installKeys (kxKeys e r) (getSession s k) ∧
        (getSession t k).keySets = (getSession s k).keySets + 1 ∧ (getSession t k).keys = kxKeys e r ∧ (∀ j, j ≠ k → getSession t j = getSession s j) ∧
        t.trust.exchanges = s.trust.exchanges.filter (fun e => e.session != k) ∧ Answered s t h stSuccess 0 []) ∧
    (∀ (time k : Nat) (s : State),
      ∃ t, exec (.keyExchangeExpiry time k) s = .next t ∧
        (∀ e, e ∈ t.trust.exchanges ↔
          e ∈ s.trust.exchanges ∧ ¬ (e.session = k ∧ e.startedAt + 60000000000 ≤ max s.now time)) ∧
        Only [.now, .trust] s t) ∧
    (∀ (h : Hdr) (g : Package) (s : State), Accepted s h opReprovision → OnTime s h → s.trust.isUnsealed = true →
      packageOk s g = true →
      (g.stage = 1 → g.meshWhole = true →
        ∃ t, exec (.reprovision h g) s = .next t ∧ t.nvm.provCounter = g.counter ∧ t.trust.root = some (deriveRoot (Config.pufHelper g.enrol.puf) g.enrol) ∧
          rootOk t g.enrol = true ∧ t.trust.keyStore.isSome = true ∧ t.trust.meshArmed = true ∧ t.trust.stageOne = true ∧ t.trust.isUnsealed = true ∧
          Answered s t h stSuccess 0 []) ∧
      (g.stage = 2 → s.trust.stageOne = true → g.leafKeysOk = true →
        ∃ t, exec (.reprovision h g) s = .next t ∧ t.nvm.provCounter = g.counter ∧ t.trust.isUnsealed = false ∧
          chainBytes t 0 = g.chains.1 ∧ chainBytes t 1 = g.chains.2 ∧ t.trust.stageOne = false ∧ Answered s t h stSuccess 0 [])) ∧
    (∀ (time : Nat) (s : State), s.board.phase ≠ .rails → s.board.railsUp = true → s.trust.meshArmed = true →
      ∃ t, exec (.sealBreak time) s = .next t ∧ t.trust.isUnsealed = true ∧ t.trust.root = none ∧
        t.trust.storeKey = none ∧ t.trust.keyStore = none ∧ t.trust.exchanges = [] ∧ t.nvm.openings = s.nvm.openings + 1 ∧
        (∀ kv ∈ s.vellum.pages, kv.2.isSealed = true → ∀ a, pageBase kv.1 ≤ a → a < pageBase kv.1 + 2097152 →
          mget t.vellum.mem a = 0#8))

/-- RECORD_READ of a known kind, unit and range answers the count with the records that fit. THRESHOLD_SET of good entries
for distinct tensors leaves each in force. BLOTTER_READ answers the next INDEX and the overflow count. TENSOR_UPLOAD and
STROKE_LOAD write their data while no session is open; the upload leaves its counts in the tensor's health record, and
answers SUCCESS where they pass the thresholds (where they do not, an event goes first). Every stroke of the list stands in
the half. DIAG_RUN puts the island's own step, counts and energy back as they stood, and with empty lists completes at once
with a free local cycle count. -/
def Obligations.DiagnosticsAnswer : Prop :=
  (∀ (h : Hdr) (kind unit index count n size : Nat) (s : State), Accepted s h opRecordRead → OnTime s h → 1 ≤ count →
      recordKind kind = some (n, size) → index + count ≤ n → recordUnitOk kind unit = true →
      ∃ t, exec (.recordRead h kind unit index count) s = .next t ∧
        Answered s t h stSuccess count ((List.range (min count (h.dataLen / size))).flatMap
          (fun j => recordBytes (advance s h.time) kind unit (index + j)))) ∧
    (∀ (h : Hdr) (l : List Threshold) (s : State), Accepted s h opThresholdSet → OnTime s h → l ≠ [] → l.length ≤ 1024 →
      l.all thresholdOk = true → l.Pairwise (fun a b => a.tensor ≠ b.tensor) →
      ∃ t, exec (.thresholdSet h l) s = .next t ∧
        (∀ e ∈ l, tget ({ tensor := e.tensor } : Threshold) t.serving.thresholds e.tensor = e) ∧
        (∀ k, (∀ e ∈ l, e.tensor ≠ k) →
          tget ({ tensor := k } : Threshold) t.serving.thresholds k = tget { tensor := k } s.serving.thresholds k) ∧
        Answered s t h stSuccess l.length []) ∧
    (∀ (h : Hdr) (first count : Nat) (s : State), Accepted s h opBlotterRead → OnTime s h → 1 ≤ count →
      ∃ t next, exec (.blotterRead h first count) s = .next t ∧ t.blotter = s.blotter ∧ first ≤ next ∧
        Answered s t h stSuccess (next % 2 ^ 32 + 2 ^ 32 * s.blotter.overflow)
          ((((heldEntries s).filter (fun x => decide (first ≤ x.1))).take (min count (h.dataLen / 64))).flatMap (·.2))) ∧
    (∀ (h : Hdr) (unit space a : Nat) (x : TensorIn) (s : State), Accepted s h opTensorUpload → OnTime s h →
      uploadOk unit space a { x with count := uploadCount x } (uploadRows { x with count := uploadCount x }) = true →
      unitFits (spaceOf space) unit = true → inService s = false →
      ∀ c, c = (convertTensor { x with count := uploadCount x }).2.2 →
      ∃ t, exec (.tensorUpload h unit space a x) s = .next t ∧
        t.fabric = (putUpload s unit space a (uploadRows { x with count := uploadCount x })).fabric ∧
        t.vellum = (putUpload s unit space a (uploadRows { x with count := uploadCount x })).vellum ∧
        (c ≠ {} → (tget ({} : Health) t.serving.health x.tensor).counts = c) ∧
        (exceeds (tget ({ tensor := x.tensor } : Threshold) s.serving.thresholds x.tensor) c = false →
          Answered s t h stSuccess 0 [])) ∧
    (∀ (h : Hdr) (half unit : Nat) (l : List (BitVec 128)) (s : State), Accepted s h opStrokeLoad → OnTime s h →
      half < 2 → isTile unit = true → l.length ≤ strokesOf unit / 2 → inService s = false →
      ∃ t, exec (.strokeLoad h half unit l) s = .next t ∧
        (∀ k, k < strokesOf unit / 2 →
          tget 0 (getTile t unit).strokes (half * (strokesOf unit / 2) + k) = l.getD k 0) ∧
        (∀ k, k / (strokesOf unit / 2) ≠ half → tget 0 (getTile t unit).strokes k = tget 0 (getTile s unit).strokes k) ∧
        (∀ v, v ≠ unit → getTile t v = getTile s v) ∧ Answered s t h stSuccess 0 []) ∧
    (∀ (h : Hdr) (half unit producer forced : Nat) (s : State), Accepted s h opDiagRun → half < 2 → isCluster unit = true →
      inService s = false →
      (∃ t, exec (.diagRun h half unit ⟨producer, forced⟩) s = .next t ∧ (getIsland t unit).desc = (getIsland s unit).desc ∧
        (getIsland t unit).posted = (getIsland s unit).posted ∧ (getIsland t unit).gate = (getIsland s unit).gate ∧
        (getIsland t unit).counts = (getIsland s unit).counts ∧
        (getIsland t unit).energyMj = (getIsland s unit).energyMj) ∧
      (OnTime s h →
        (∀ v ∈ clusterTiles unit, ∀ k, half * (strokesOf v / 2) ≤ k → k < half * (strokesOf v / 2) + strokesOf v / 2 →
          ∀ w, (k, w) ∉ (getTile s v).strokes) →
        ∃ t, exec (.diagRun h half unit ⟨producer, forced⟩) s = .next t ∧ Answered s t h stSuccess (freeNow s).toNat []))

/-- BLOTTER_REPORT with a code and its class, while the governor runs: a report that is not fatal, with fewer than 768
waiting and no coalescing, becomes the newest entry of the ring and takes the next INDEX; a new fatal one goes to the
reserve while that has room. COALESCE_FLUSH writes every key and frees it. COMPLETION_TIMEOUT of a Folio read ends the load
with SOURCE_ERROR, of a descriptor read stops the pair, of a park read brings the page back. -/
def Obligations.ReportsReachTheBlotter : Prop :=
  (∀ (time : Nat) (r : Report) (s : State), governorRuns s = true → (codeClasses r.code).contains r.cls = true →
      (r.cls ≠ 6 → intakeHeld s.blotter (max s.now time) < 768 → s.blotter.coalescing = false →
        ∃ t, exec (.blotterReport time r) s = .next t ∧
          t.blotter.ring = keepRing (s.blotter.ring ++ [mkEntry (advance s time) r false]) ∧
          t.blotter.next = s.blotter.next + 1 ∧ Only [.now, .blotter, .mgmt] s t) ∧
      (r.cls = 6 → s.blotter.reserve.any (fun k => k.report.source == r.source && k.report.code == r.code) = false →
        s.blotter.reserve.length < 63 →
        ∃ t, exec (.blotterReport time r) s = .next t ∧
          t.blotter.reserve = s.blotter.reserve ++ [mkEntry (advance s time) r true] ∧
          t.blotter.next = s.blotter.next + 1 ∧ t.blotter.ring = s.blotter.ring)) ∧
    (∀ (time : Nat) (s : State), s.blotter.coalescing = true →
      ∃ t, exec (.coalesceFlush time) s = .next t ∧ t.blotter.keys = [] ∧
        t.blotter.next = s.blotter.next + s.blotter.keys.length ∧
        (t.blotter.coalescing = true ↔ 256 < intakeHeld s.blotter (max s.now time)) ∧
        Only [.now, .blotter, .mgmt] s t) ∧
    (∀ (time slot : Nat) (s : State), slot < 2 → isLoading (getSlot s slot) = true →
      ∃ t, exec (.completionTimeout time (.folio slot)) s = .next t ∧
        getSlot t slot = { state := .loading, refuse := 0x0E, relocated := (getSlot s slot).relocated } ∧ getSlot t (1 - slot) = getSlot s (1 - slot)) ∧
    (∀ (time func qp : Nat) (s : State), (getQueue s func qp).active = true → (getQueue s func qp).enable = true →
      (getQueue s func qp).stopped = false → (getQueue s func qp).sqHead ≠ (getQueue s func qp).sqTail →
      ∃ t, exec (.completionTimeout time (.descriptor func qp)) s = .next t ∧ (getQueue t func qp).stopped = true) ∧
    (∀ (time k l p slot : Nat) (rest : List (Nat × Nat)) (more : List Nat) (s : State),
      (getSession s k).pages = (l, p) :: rest → (getSession s k).outbound = slot :: more →
      (getPage s p).state = .outbound →
      ∃ t, exec (.completionTimeout time (.park k)) s = .next t ∧ (getPage t p).state = .live ∧
        (getSession t k).outbound = [])

/-- PERST_N and a link-down take the link down with every function's configuration: virtual functions off, no export, no
event cause, every bound function waiting for its token. The port trains at x16 and the highest rate LINK_SEL allows once
PERST_N is high and REFCLK runs; without the clock it does not train. LINK_RETRAIN sets width and rate. A function-level
reset of a virtual function leaves its registers at zero and the function unbound, answering with RRS until its partition is
cleared (during a start the clear has already been done, or is still to come, and it answers at once); one of the physical
function takes every virtual function with it, enabled or not. VF_ENABLE_SET sets NumVFs. D3HOT_ENTRY and D0_RETURN change
that bit of the function and no other. -/
def Obligations.LinkResetsAndFunctions : Prop :=
  (∀ (time : Nat) (s : State),
      (∃ t, exec (.perstNAssert time) s = .next t ∧ t.board.perstHigh = false ∧ t.link.up = false ∧ t.link.rrs = true ∧
        t.link.vfEnable = false ∧ t.link.eventCause = 0 ∧ t.link.exportEnable = false ∧ t.link.ptm.lock = false ∧
        t.images.exported.slot = none) ∧
      (∃ t, exec (.linkDown time) s = .next t ∧ t.board.perstHigh = s.board.perstHigh ∧ t.link.up = false ∧
        t.link.rrs = true ∧ t.link.vfEnable = false ∧ t.link.eventCause = 0 ∧ t.link.exportEnable = false ∧
        t.images.exported.slot = none ∧
        ∀ f, (tget ({} : Binding) t.mailbox.bindings f).bound = true →
          (tget ({} : Binding) t.mailbox.bindings f).waiting = true)) ∧
    (∀ (time : Nat) (s : State), portUp s = true →
      (∃ t, exec (.perstNDeassert ⟨time, true⟩) s = .next t ∧ t.board.perstHigh = true ∧ t.board.refclk = true ∧
        t.link.up = true ∧ t.link.width = 16 ∧ t.link.rate = topRate s ∧ t.link.rrs = false) ∧
      (∃ t, exec (.perstNDeassert ⟨time, false⟩) s = .next t ∧
        t.board = { s.board with perstHigh := true, refclk := false } ∧ Only [.now, .board] s t) ∧
      (s.board.perstHigh = true → s.link.up = false →
        ∃ t, exec (.linkUp ⟨time, true⟩) s = .next t ∧ t.link.up = true ∧ t.link.width = 16 ∧ t.link.rate = topRate s ∧
          t.link.rrs = false)) ∧
    (∀ (time w r : Nat) (s : State), s.link.up = true → trainable s w r = true →
      ∃ t, exec (.linkRetrain time w r) s = .next t ∧ t.link = { s.link with width := w, rate := r } ∧
        Only [.now, .link, .serving] s t) ∧
    (∀ (time f : Nat) (s : State), f ≠ 0 → reachable s f = true →
      ∃ t, exec (.vfFlr time f) s = .next t ∧ (getFn t f).rrs = !starting s ∧ (getFn t f).tokenReg = 0 ∧
        (getFn t f).held = [] ∧ (getFn t f).msixTable = [] ∧ (getFn t f).msixWanted = [] ∧
        ((getFn t f).tdi = .unlocked ∨ (getFn t f).tdi = .error) ∧
        tget ({} : Binding) t.mailbox.bindings f = {}) ∧
    (∀ (time : Nat) (s : State), s.link.up = true →
      ∃ t, exec (.pfFlr time) s = .next t ∧ t.link.vfEnable = false ∧ t.link.exportEnable = false ∧
        t.link.eventCause = 0 ∧ t.images.exported.slot = none ∧ ∀ f, f ≤ 16 → tget ({} : Binding) t.mailbox.bindings f = {}) ∧
    (∀ (time : Nat) (s : State), ∃ t, exec (.vfEnableClear time) s = .next t ∧ t.link.vfEnable = false) ∧
    (∀ (n : Nat) (s : State), s.link.up = true → s.link.vfEnable = false → n ≤ 16 →
      ∃ t, exec (.vfEnableSet n) s = .next t ∧ t.link.vfEnable = true ∧ t.link.numVfs = n ∧ t.serving = s.serving) ∧
    (∀ (time f : Nat) (s : State), reachable s f = true →
      (∃ t, exec (.d3hotEntry time f) s = .next t ∧ getFn t f = { getFn s f with d3hot := true } ∧
        (∀ g, g ≠ f → getFn t g = getFn s g) ∧ Only [.now, .link] s t) ∧
      (∃ t, exec (.d0Return time f) s = .next t ∧ getFn t f = { getFn s f with d3hot := false } ∧
        (∀ g, g ≠ f → getFn t g = getFn s g) ∧ Only [.now, .link] s t))

/-- PTM_ENABLE on a link that is up starts the exchanges; PTM_DISABLE clears the lock at once. A good exchange counts
towards the three that lock while the offsets of all three agree within 200 ns; an offset up to 10 µs is slewed and leaves
host time, a larger one is stepped at once and never backward. A failed exchange breaks the count. PTM_LAPSE after 100 ms
without a good exchange clears the lock. -/
def Obligations.PtmLocksAndLapses : Prop :=
  (∀ (time : Nat) (s : State), s.link.up = true → s.link.ptm.enabled = false →
      ∃ t, exec (.ptmEnable time) s = .next t ∧
        t.link.ptm =
          { s.link.ptm with enabled := true, agree := 0, lapsed := false, lastGood := max s.now time } ∧
        Only [.now, .link] s t) ∧
    (∀ (time : Nat) (s : State),
      ∃ t, exec (.ptmDisable time) s = .next t ∧
        t.link.ptm = { s.link.ptm with enabled := false, lock := false, lapsed := false, agree := 0 } ∧
        Only [.now, .link] s t) ∧
    (∀ (time : Nat) (off : Int) (s : State), s.link.ptm.enabled = true →
      (∃ t, exec (.ptmExchange time off false) s = .next t ∧ t.link.ptm = { s.link.ptm with agree := 0 } ∧
        t.now = max s.now time) ∧
      (∃ t, exec (.ptmExchange time off true) s = .next t ∧
        t.link.ptm.agree =
          (if s.link.ptm.agree = 0 ∨ 200 < (off - s.link.ptm.lastOffset).natAbs then 1
            else if s.link.ptm.agree = 1 ∨ (off - s.link.ptm.priorOffset).natAbs ≤ 200 then s.link.ptm.agree + 1 else 2) ∧
        t.link.ptm.priorOffset = s.link.ptm.lastOffset ∧
        (t.link.ptm.lock = true ↔ s.link.ptm.lock = true ∨ 3 ≤ t.link.ptm.agree) ∧ t.link.ptm.lastOffset = off ∧
        t.link.ptm.lapsed = false ∧ t.link.ptm.slew = (if off.natAbs ≤ 10000 then off else 0) ∧
        t.now = (if off.natAbs ≤ 10000 then max s.now time
          else max (max s.now time) ((max s.now time : Nat) + off : Int).toNat))) ∧
    (∀ (time : Nat) (s : State), s.link.ptm.enabled = true → s.link.ptm.lapsed = false →
      s.link.ptm.lastGood + 100000000 ≤ max s.now time →
      ∃ t, exec (.ptmLapse time) s = .next t ∧
        t.link.ptm = { s.link.ptm with lock := false, lapsed := true, agree := 0 })

/-- IDE_KM in a secured session makes a stream Secure and counts its keys; an integrity failure makes it Insecure, and a
virtual function's then stands reset. LOCK_INTERFACE takes an unlocked interface to LOCKED and locks its BARs where the host
has placed them, START_INTERFACE a locked one to RUN, STOP_INTERFACE with no clearing under way back to UNLOCKED. Each
changes that function and no other. -/
def Obligations.StreamsAndInterfaces : Prop :=
  (∀ (stream : Nat) (s : State), s.link.up = true →
      (stream = 0 → ∃ t, exec (.ideKm stream true) s = .next t ∧
        t.link = { s.link with ideSecure := true, ideKeys := s.link.ideKeys + 1 } ∧ Only [.link] s t) ∧
      (∀ f, stream = f + 1 → f ≤ 16 → ∃ t, exec (.ideKm stream true) s = .next t ∧
        getFn t f = { getFn s f with ideSecure := true, ideKeys := (getFn s f).ideKeys + 1 } ∧
        (∀ g, g ≠ f → getFn t g = getFn s g) ∧ Only [.link] s t)) ∧
    (∀ (time : Nat) (s : State),
      (∃ t, exec (.ideIntegrityFailure time 0) s = .next t ∧ t.link = { s.link with ideSecure := false }) ∧
      ((getFn s 0).ideSecure = true → ∃ t, exec (.ideIntegrityFailure time 1) s = .next t ∧
        getFn t 0 = { getFn s 0 with ideSecure := false } ∧ (∀ g, g ≠ 0 → getFn t g = getFn s g)) ∧
      (∀ f, f ≠ 0 → (getFn s f).ideSecure = true → ∃ t, exec (.ideIntegrityFailure time (f + 1)) s = .next t ∧
        (getFn t f).rrs = !starting s ∧ (getFn t f).tokenReg = 0 ∧
        tget ({} : Binding) t.mailbox.bindings f = {})) ∧
    (∀ (f place : Nat) (s : State), f ≠ 0 → reachable s f = true →
      ((getFn s f).tdi = .unlocked → ∃ t, exec (.lockInterface ⟨f, place⟩) s = .next t ∧
        getFn t f = { getFn s f with tdi := .locked, barPlace := place } ∧ (∀ g, g ≠ f → getFn t g = getFn s g) ∧ Only [.link] s t) ∧
      ((getFn s f).tdi = .locked → ∃ t, exec (.startInterface f) s = .next t ∧
        getFn t f = { getFn s f with tdi := .run } ∧ (∀ g, g ≠ f → getFn t g = getFn s g) ∧ Only [.link] s t) ∧
      (s.serving.clears.contains (.partition (f - 1)) = false → ∃ t, exec (.stopInterface f) s = .next t ∧
        getFn t f = { getFn s f with tdi := .unlocked, stopPending := false } ∧
        (∀ g, g ≠ f → getFn t g = getFn s g) ∧ Only [.link] s t))

/-- A valid SQ_TAIL, CQ_HEAD or TS_HEAD (its index bits alone count) of an active pair (an SQ_TAIL only while the pair is
enabled) moves its index, and consumed entries are freed (a CQ_HEAD lets held completions into the room, each written with
the time and SQ_HEAD of that moment); an SQ_TAIL beyond the ring stops the pair. QUEUE_ENABLE of good sizes, for a function
that is bound, that names the waiting binding's token, or that is unbound with token 0, makes the pair active with every
index 0 and every phase 1. QUEUE_DISABLE of an enabled pair clears ENABLE and drops what the pair holds; QUEUE_DRAINED lets
ACTIVE fall once no command of the pair is left, a virtual function's after 50 ms in any case. -/
def Obligations.DoorbellsMoveTheRings : Prop :=
  (∀ (time f qp v : Nat) (s : State), doorbellOk s f qp = true → (getQueue s f qp).enable = true →
      (v % 65536 < 2 ^ (getQueue s f qp).sqLog2 →
        ringDist (2 ^ (getQueue s f qp).sqLog2) (getQueue s f qp).sqHead (getQueue s f qp).sqTail +
          ringDist (2 ^ (getQueue s f qp).sqLog2) (getQueue s f qp).sqTail (v % 65536) ≤ 2 ^ (getQueue s f qp).sqLog2 - 1 →
        ∃ t, exec (.sqTail time f qp v) s = .next t ∧ getQueue t f qp = { getQueue s f qp with sqTail := v % 65536 } ∧
          (∀ g r, qkey g r ≠ qkey f qp → getQueue t g r = getQueue s g r) ∧ Only [.now, .mailbox] s t) ∧
      (2 ^ (getQueue s f qp).sqLog2 ≤ v % 65536 →
        ∃ t, exec (.sqTail time f qp v) s = .next t ∧ (getQueue t f qp).stopped = true ∧
          (getQueue t f qp).sqTail = (getQueue s f qp).sqTail)) ∧
    (∀ (time f qp v : Nat) (s : State), doorbellOk s f qp = true → v % 65536 < 2 ^ (getQueue s f qp).cqLog2 →
        ringDist (2 ^ (getQueue s f qp).cqLog2) (getQueue s f qp).cqHead (v % 65536) ≤
          ringDist (2 ^ (getQueue s f qp).cqLog2) (getQueue s f qp).cqHead (getQueue s f qp).cqIndex →
        ∃ t, exec (.cqHead time f qp v) s = .next t ∧
          getQueue t f qp = pushHeld (getQueue s f qp).heldCq.length (stamp (advance s time)) { getQueue s f qp with
            cq := (getQueue s f qp).cq.drop
              (ringDist (2 ^ (getQueue s f qp).cqLog2) (getQueue s f qp).cqHead (v % 65536)),
            cqHead := v % 65536 } ∧
          (∀ g r, qkey g r ≠ qkey f qp → getQueue t g r = getQueue s g r) ∧ Only [.now, .mailbox, .link] s t) ∧
    (∀ (time f qp v : Nat) (s : State), doorbellOk s f qp = true → f ≠ 0 → v % 1048576 < 2 ^ (getQueue s f qp).tsLog2 →
      ringDist (2 ^ (getQueue s f qp).tsLog2) (getQueue s f qp).tsHead (v % 1048576) ≤
        ringDist (2 ^ (getQueue s f qp).tsLog2) (getQueue s f qp).tsHead (getQueue s f qp).tsIndex →
      ∃ t, exec (.tsHead time f qp v) s = .next t ∧
        getQueue t f qp = { getQueue s f qp with
          ts := consumeUnits (ringDist (2 ^ (getQueue s f qp).tsLog2) (getQueue s f qp).tsHead (v % 1048576)) (getQueue s f qp).ts,
          tsHead := v % 1048576 } ∧
        (∀ g r, qkey g r ≠ qkey f qp → getQueue t g r = getQueue s g r) ∧ Only [.now, .mailbox] s t) ∧
    (∀ (time f qp : Nat) (b : Binding) (s : State), reachable s f = true → (getQueue s f qp).active = false →
      (getQueue s f qp).enable = false → (getQueue s f qp).resume = false → sizesOk f (getQueue s f qp) = true →
      tget {} s.mailbox.bindings f = b →
      (if b.waiting then (getFn s f).tokenReg = b.token else b.bound = true ∨ (getFn s f).tokenReg = 0) →
      ∃ t, exec (.queueEnable time f qp) s = .next t ∧ (getQueue t f qp).enable = true ∧
        (getQueue t f qp).active = true ∧ (getQueue t f qp).sqTail = 0 ∧ (getQueue t f qp).sqHead = 0 ∧
        (getQueue t f qp).cqIndex = 0 ∧ (getQueue t f qp).cqHead = 0 ∧ (getQueue t f qp).cqPhase = true ∧
        (getQueue t f qp).tsIndex = 0 ∧ (getQueue t f qp).tsPhase = true ∧ (getQueue t f qp).stopped = false ∧
        (tget ({} : Binding) t.mailbox.bindings f).bound = true ∧
        (tget ({} : Binding) t.mailbox.bindings f).waiting = false) ∧
    (∀ (time f qp : Nat) (s : State), reachable s f = true → (getQueue s f qp).enable = true →
      (∀ kv ∈ s.serving.sessions, ∀ u, kv.2.turn = some u → ¬ (u.func = f ∧ u.qp = qp)) →
      ∃ t, exec (.queueDisable time f qp) s = .next t ∧
        getQueue t f qp = 
          { getQueue s f qp with enable := false, disabledAt := max s.now time, holding := [], heldCq := [] } ∧
        (∀ g r, qkey g r ≠ qkey f qp → getQueue t g r = getQueue s g r)) ∧
    (∀ (time f qp : Nat) (s : State), (getQueue s f qp).active = true → (getQueue s f qp).enable = false →
      ((∀ x ∈ s.mailbox.fetched, ¬ (x.func = f ∧ x.qp % 8 = qp)) ∨
        (f ≠ 0 ∧ (getQueue s f qp).disabledAt + 50000000 ≤ max s.now time)) →
      ∃ t, exec (.queueDrained time f qp) s = .next t ∧
        getQueue t f qp = { getQueue s f qp with active := false, stopped := false } ∧
        (∀ g r, qkey g r ≠ qkey f qp → getQueue t g r = getQueue s g r) ∧ Only [.now, .mailbox] s t)

/-- EVENT_CAUSE_CLEAR clears the written bits; writing GOVERNOR acknowledges every warning. EXPORT_ENABLE permits an export
or ends it. HOST_TIME_READ of HOST_TIME returns it (4 bytes: its low half) and latches the high half; any other aligned read
returns what the register holds, and a misaligned one returns zero and is an access fault. A write to a locked or running
interface with its BARs elsewhere than they were locked sends it to ERROR; else an 8-byte write of a 64-bit register gives
it the value, a BASE in units of 4 KiB; a 4-byte write of a low half is held; SIZES of a disabled pair takes its fields.
BANK_WRITE by the named peer below BANKS moves the bank. The window shows the control frame to anyone, and the file, where
its chunk is not missing, to the named peer. -/
def Obligations.RegistersAndTheWindow : Prop :=
  (∀ (time bits : Nat) (s : State), reachable s 0 = true →
      ∃ t, exec (.eventCauseClear time bits) s = .next t ∧
        t.link.eventCause = s.link.eventCause &&& ~~~ (BitVec.ofNat 5 bits) ∧
        ((BitVec.ofNat 5 bits).getLsbD 2 = true → ∀ w ∈ t.blotter.warnings, w.acked = true ∧ w.ended = false) ∧
        ((BitVec.ofNat 5 bits).getLsbD 2 = false → t.blotter = s.blotter)) ∧
    (∀ (time : Nat) (v : Bool) (s : State), reachable s 0 = true →
      ∃ t, exec (.exportEnable time v) s = .next t ∧ t.link = { s.link with exportEnable := v } ∧
        (v = true → t.images = s.images) ∧ (v = false → t.images.exported = { count := s.images.exported.count })) ∧
    (∀ (time f o size : Nat) (s : State), reachable s f = true →
      ((size = 4 ∨ size = 8) → o % size = 0 → ∃ t, exec (.hostTimeRead time ⟨f, ⟨o, size⟩⟩) s = .next t ∧
        Only [.now, .link] s t ∧
        (o = timeOffset f →
          t.link.timeRead = (if size = 8 then stamp (advance s time) else stamp (advance s time) % 2 ^ 32) ∧
          getFn t f = { getFn s f with timeHigh := stamp (advance s time) / 2 ^ 32 } ∧
          (∀ g, g ≠ f → getFn t g = getFn s g)) ∧
        (o ≠ timeOffset f → t.link.fns = s.link.fns ∧
          t.link.timeRead = readBar0 (advance s time) f o +
            (if size = 8 then 2 ^ 32 * readBar0 (advance s time) f (o + 4) else 0))) ∧
      (¬ ((size = 4 ∨ size = 8) ∧ o % size = 0) →
        exec (.hostTimeRead time ⟨f, ⟨o, size⟩⟩) s =
          .next (accessFault { advance s time with link := { s.link with timeRead := 0 } } o f))) ∧
    (∀ (time f offset v : Nat) (c : HostSet) (w : Wide) (s : State), reachable s f = true → offset % 8 = 0 →
      (f = 0 ∨ (getFn s f).barPlace = c.place ∨ ((getFn s f).tdi ≠ .locked ∧ (getFn s f).tdi ≠ .run)) →
      wideAt f offset = some w → blockedWide s f w = false → v < 2 ^ 64 →
      (∃ t, exec (.registerWrite ⟨time, c⟩ f offset 8 v) s = .next t ∧
        wideGet t f w = (if w = .token then v else v / 4096 * 4096)) ∧
      (∃ t, exec (.registerWrite ⟨time, c⟩ f offset 4 v) s = .next t ∧
        tget 0 (getFn t f).held offset = v % 2 ^ 32 + 1 ∧ wideGet t f w = wideGet s f w)) ∧
    (∀ (time qp f v : Nat) (c : HostSet) (s : State), reachable s f = true → f ≠ 0 → qp < 8 →
      (getQueue s f qp).enable = false →
      ((getFn s f).barPlace = c.place ∨ ((getFn s f).tdi ≠ .locked ∧ (getFn s f).tdi ≠ .run)) →
      ∃ t, exec (.registerWrite ⟨time, c⟩ f (0x118 + 0x40 * qp) 4 v) s = .next t ∧
        getQueue t f qp = { getQueue s f qp with
          sqLog2 := v % 256, cqLog2 := v / 256 % 256, tsLog2 := v / 65536 % 256 }) ∧
    (∀ (time f offset size v : Nat) (c : HostSet) (s : State), reachable s f = true → f ≠ 0 →
      (getFn s f).barPlace ≠ c.place → (getFn s f).tdi = .locked ∨ (getFn s f).tdi = .run →
      ∃ t, exec (.registerWrite ⟨time, c⟩ f offset size v) s = .next t ∧ (getFn t f).tdi = .error) ∧
    (∀ (peer v n : Nat) (f : FolioHead) (s : State), s.images.exported.slot = some n → (getSlot s n).head = some f →
      s.images.exported.peer = peer → v < fileBanks f →
      ∃ t, exec (.bankWrite peer (controlFrame + 0x32) 2 v) s = .next t ∧
        t.images = { s.images with exported := { s.images.exported with bank := v } } ∧ Only [.images] s t) ∧
    (∀ (time peer offset : Nat) (s : State),
      (controlFrame ≤ offset → ∃ t, exec (.exportWindowRead time peer offset) s = .next t ∧
        t.link.windowRead =
          .control (leNat (((exportBytes (advance s time)).drop ((offset - controlFrame) / 4 * 4)).take 4)) ∧
        Only [.now, .link] s t) ∧
      (∀ n f, offset < controlFrame → s.images.exported.slot = some n → (getSlot s n).head = some f →
        s.images.exported.peer = peer →
        fileMissing s n f ((s.images.exported.bank * 16383 + offset / 4194304) * 4194304 + offset % 4194304) = false →
        ∃ t, exec (.exportWindowRead time peer offset) s = .next t ∧
          t.link.windowRead =
            (if (s.images.exported.bank * 16383 + offset / 4194304) * 4194304 + offset % 4194304 <
                fileFrames f * 4194304 then
              .file n ((s.images.exported.bank * 16383 + offset / 4194304) * 4194304 + offset % 4194304)
             else .zero)))

/-- DESCRIPTOR_FETCH of a good header, when the pair may fetch, takes the descriptor and moves SQ_HEAD. COMMAND_TIMEOUT of a
command that has not taken effect answers TIMED_OUT, or in the cycle of its completion marks it late. EVENT_BACKLOG_POST
writes a waiting event. MSIX_SEND sends an unmasked message and holds one that its vector or the function masks as pending;
with MSI-X Enable clear it sends nothing and leaves the message waiting. TS_RECORD_WRITE writes the turn's next record and
counts its tokens, once the turn's own REQ_SUBMIT has completed; HOLDING_BUFFER_DRAIN writes one that waits. BINDING_EXPIRY
drops a binding not reclaimed in time. -/
def Obligations.FetchesTimeoutsAndRecords : Prop :=
  (∀ (time f qp : Nat) (d : List Byte) (s : State), (getQueue s f qp).active = true → (getQueue s f qp).enable = true →
      (getQueue s f qp).stopped = false → s.link.up = true → (f = 0 ∨ isDeep s.power.state = false) →
      (getFn s f).d3hot = false → sealedBlocked s f = false → (getQueue s f qp).sqHead ≠ (getQueue s f qp).sqTail →
      fetchWindow s f qp = true → headerStatus s f qp d = none →
      ∃ t x, exec (.descriptorFetch time f qp d true) s = .next t ∧ t.mailbox.fetched = s.mailbox.fetched ++ [x] ∧
        x.func = f ∧ x.qp = qp ∧ x.cid = leNat ((d.drop 2).take 2) ∧ x.opcode = leNat (d.take 2) ∧ x.started = false ∧
        getQueue t f qp = { getQueue s f qp with
          sqHead := ((getQueue s f qp).sqHead + 1) % 2 ^ (getQueue s f qp).sqLog2 } ∧ Only [.now, .mailbox] s t) ∧
    (∀ (time f qp cid : Nat) (x : Fetched) (s : State),
      s.mailbox.fetched.find? (fun x => x.func == f && x.qp == qp && x.cid == cid) = some x → x.deadline ≠ 0 →
      x.deadline ≤ max s.now time → x.started = false →
      (OnTime s { time := time, func := f, qp := qp, cid := cid } →
        ∃ t, exec (.commandTimeout time f qp cid false) s = .next t ∧
          Answered s t { time := time, func := f, qp := qp, cid := cid } stTimedOut 0 []) ∧
      (∃ t, exec (.commandTimeout time f qp cid true) s = .next t ∧
        (∃ y ∈ t.mailbox.fetched, y = { x with lateFlag := true }) ∧ Only [.now, .mailbox] s t)) ∧
    (∀ (time f : Nat) (e : Event) (s : State), eventRoom s f e.qp = true →
      tget [] s.mailbox.backlog f = [e] → tget 0 s.mailbox.overflow f = 0 →
      ∃ t, exec (.eventBacklogPost time f) s = .next t ∧ tget [] t.mailbox.backlog f = [] ∧
        getQueue t f e.qp =
          pushCq (getQueue s f e.qp) (eventEntry (getQueue s f e.qp) (stamp (advance s time)) e)) ∧
    (∀ (time f v : Nat) (c : MsixCtl) (s : State),
      (c.enable = false → ∃ t, exec (.msixSend ⟨time, c⟩ f v) s = .next t ∧
        getFn t f = { getFn s f with msixEnable := false, msixMaskAll := c.maskAll } ∧ Only [.now, .link] s t) ∧
      (c.enable = true → (getFn s f).msixWanted.contains v = true ∨ (getFn s f).msixPending.contains v = true →
        (c.maskAll = true ∨ msixMasked (getFn s f) v = true → ∃ t, exec (.msixSend ⟨time, c⟩ f v) s = .next t ∧
          (getFn t f).msixPending.contains v = true ∧ (getFn t f).msixWanted.contains v = false ∧
          (getFn t f).msixSentAt = (getFn s f).msixSentAt) ∧
        (c.maskAll = false → msixMasked (getFn s f) v = false → tget 0 (getFn s f).msixSentAt v ≤ max s.now time →
          ∃ t, exec (.msixSend ⟨time, c⟩ f v) s = .next t ∧ (getFn t f).msixPending.contains v = false ∧
            (getFn t f).msixWanted.contains v = false ∧
            tget 0 (getFn t f).msixSentAt v = max s.now time + 1000))) ∧
    (∀ (time k : Nat) (u : Turn) (d : Due) (rest : List Due) (s : State), (getSession s k).turn = some u →
      u.due = d :: rest → u.lateStop = false → u.stopAfter = none → submitHeld s k = false → (∀ r, d ≠ .fin r) → (getQueue s u.func u.qp).active = true →
      (getQueue s u.func u.qp).enable = true → (getQueue s u.func u.qp).holding = [] →
      tsFits (getQueue s u.func u.qp) (dueUnits d) = true →
      ∃ t r v, exec (.tsRecordWrite time k) s = .next t ∧ getQueue t u.func u.qp = pushTs (getQueue s u.func u.qp) r ∧
        (getSession t k).turn = some v ∧ v.due = rest ∧ v.delivered = u.delivered + dueTokens d) ∧
    (∀ (time f qp k : Nat) (d : Due) (u : Turn) (s : State), (getQueue s f qp).holding = [(k, d)] →
      (getQueue s f qp).active = true → (getQueue s f qp).enable = true → tsFits (getQueue s f qp) (dueUnits d) = true →
      (getSession s k).turn = some u → (∀ r, d ≠ .fin r) →
      (∀ j w, (getSession s j).turn = some w → w.lateStop = false ∧ w.stopAfter = none ∧ w.ending = none) →
      ∃ t v, exec (.holdingBufferDrain time f qp) s = .next t ∧ (getSession t k).turn = some v ∧
        v.delivered = u.delivered + dueTokens d ∧ (qkey u.func u.qp = qkey f qp → (getQueue t f qp).holding = [])) ∧
    (∀ (time f d : Nat) (s : State), (tget ({} : Binding) s.mailbox.bindings f).dropAt = some d →
      (tget ({} : Binding) s.mailbox.bindings f).waiting = true → d ≤ max s.now time →
      ∃ t, exec (.bindingExpiry time f) s = .next t ∧ tget ({} : Binding) t.mailbox.bindings f = {})

/-- While the endpoint runs: SPDM_REQUEST is answered with the chain or the measurements it asks for, with an ERROR where a
signature is needed and the module is Unsealed; SET_ENDPOINT_ID takes an id from 1 to 254; SET_EVENT_RECEIVER names the
receiver; POLL_EVENT takes the oldest event held, and with an acknowledgement it acknowledges every warning. PLDM_EVENT_SEND
holds the oldest entry for polling while no receiver is set, and sends it while fewer than 100 have gone this second.
PLDM_FIRMWARE_UPDATE stages a good image for the handover. ALERT_RESPONSE_ADDRESS answers with the module's SMBus address
and releases SMB_ALERT_N. -/
def Obligations.SidebandTalks : Prop :=
  (∀ (doe sig : Bool) (ask : SpdmAsk) (s : State), endpointRuns s = true → (doe = true → s.link.up = true) →
      ∃ t, exec (.spdmRequest ⟨doe, ask⟩ sig) s = .next t ∧
        t.mgmt = { s.mgmt with
          spdmOk := some (!(sig && s.trust.isUnsealed)), spdmAnswers := s.mgmt.spdmAnswers + 1,
          spdmBytes := if sig && s.trust.isUnsealed then [] else spdmContent s ask } ∧
        Only [.mgmt] s t) ∧
    (∀ (e : Nat) (s : State), endpointRuns s = true ∨ s.board.phase = .recoveryHold → 1 ≤ e → e ≤ 254 →
      ∃ t, exec (.setEndpointId e) s = .next t ∧ t.mgmt = { s.mgmt with eid := e } ∧ Only [.mgmt] s t) ∧
    (∀ (r : Nat) (s : State), endpointRuns s = true →
      ∃ t, exec (.setEventReceiver r) s = .next t ∧ t.mgmt = { s.mgmt with receiver := some r } ∧ Only [.mgmt] s t) ∧
    (∀ (time : Nat) (s : State), endpointRuns s = true →
      (∃ t, exec (.pollEvent ⟨time, false⟩) s = .next t ∧
        t.mgmt = { s.mgmt with polled := s.mgmt.poll.head?, poll := s.mgmt.poll.drop 1 } ∧ Only [.now, .mgmt] s t) ∧
      (∃ t, exec (.pollEvent ⟨time, true⟩) s = .next t ∧
        t.mgmt = { s.mgmt with polled := s.mgmt.poll.head?, poll := s.mgmt.poll.drop 1 } ∧
        (∀ w ∈ t.blotter.warnings, w.acked = true ∧ w.ended = false) ∧ Only [.now, .blotter, .mgmt] s t)) ∧
    (∀ (time : Nat) (e : Entry) (rest : List Entry) (s : State), endpointRuns s = true → s.mgmt.toSend = e :: rest →
      (s.mgmt.receiver = none →
        ∃ t, exec (.pldmEventSend time) s = .next t ∧ t.mgmt.poll = s.mgmt.poll ++ [e] ∧ t.mgmt.toSend = rest ∧
          t.mgmt.sent = s.mgmt.sent) ∧
      (s.mgmt.receiver.isSome = true → (rollSecond s.mgmt (max s.now time)).inSecond < 100 →
        ∃ t, exec (.pldmEventSend time) s = .next t ∧ t.mgmt.sent = s.mgmt.sent ++ [e] ∧ t.mgmt.toSend = rest ∧
          t.mgmt.poll = s.mgmt.poll ∧ t.mgmt.inSecond = (rollSecond s.mgmt (max s.now time)).inSecond + 1)) ∧
    (∀ (time : Nat) (g : FwImage) (s : State), imageOk s g = true → governorRuns s = true → s.fw.staging = none →
      s.fw.handover = false → s.fw.pldm = false →
      ∃ t, exec (.pldmFirmwareUpdate time g) s = .next t ∧
        t.fw = { s.fw with staged := some g, handover := true, pldm := true } ∧ Only [.now, .fw] s t) ∧
    (∀ (time : Nat) (s : State), s.board.smbAlert = true →
      ∃ t, exec (.alertResponseAddress time) s = .next t ∧ t.board = { s.board with smbAlert := false } ∧
        t.mgmt = { s.mgmt with arpAnswer := some (smbusAddress s), arpAnswers := s.mgmt.arpAnswers + 1 })

/-- MOD_EN rising with a feed present begins the start, or waits out the rest of the second after its fall; with no feed
present it waits for one. MOD_EN falling leaves nothing powered and nothing volatile. Three strap samples that agree are
latched and the start waits for flow and a feed; samples that disagree are a strap fault. A flow loss after MOD_READY stops
the module; before it the start waits again, or, with the thermal trip in the same sample, stops with THERMTRIP_N held. A
feed of 48.0 to 58.0 V is in use; below 46.0 V or above 60.0 V it is lost: one feed lost beside another in use raises no
stop; with none left the module is dark. Ten seconds with no feed in use raise FAULT_N. -/
def Obligations.StartBegins : Prop :=
  (∀ (time va vb : Nat) (s : State), s.board.modEn = false →
      ∃ t, exec (.modEnRise ⟨time, va, vb⟩) s = .next t ∧ t.board.modEn = true ∧ t.board.roseAt = max s.now time ∧
        (∀ k, k < 2 → getFeed t k = feedLevel (getFeed s k) (if k = 0 then va else vb)) ∧
        t.board.phase =
          (if feedPresent (feedLevel s.board.feedA va) = false ∧ feedPresent (feedLevel s.board.feedB vb) = false then s.board.phase
            else match s.board.fellAt with
            | some f => if max s.now time < f + 1000000000 then Phase.discharge else Phase.straps
            | none => Phase.straps) ∧ Only [.now, .board] s t) ∧
    (∀ (time f : Nat) (s : State), s.board.fellAt = some f → s.board.phase = .discharge →
      f + 1000000000 ≤ max s.now time →
      ∃ t, exec (.dischargeDelayEnd time) s = .next t ∧ t.board.phase = .straps ∧ t.board.outputsHeld = true ∧
        Only [.now, .board] s t) ∧
    (∀ (time : Nat) (also : SameSample) (s : State), s.board.modEn = true →
      ∃ t, exec (.modEnFall time also) s = .next t ∧ t.board.modEn = false ∧ t.board.phase = .dark ∧
        t.board.railsUp = false ∧ t.board.modReady = false ∧ t.board.outputsHeld = false ∧
        t.board.fellAt = some (max s.now time) ∧ t.serving = {} ∧ t.images = {} ∧ t.vellum = {} ∧ t.fabric = {} ∧
        t.blotter = {} ∧ t.link = {} ∧ t.mailbox = {} ∧ t.nvm.layout = s.nvm.layout) ∧
    (∀ (time a b c : Nat) (s : State), s.board.phase = .straps →
      (a = b → b = c → ∃ t, exec (.strapSample time a b c) s = .next t ∧ t.board.straps = BitVec.ofNat 6 a ∧
        t.board.phase = .waiting ∧ t.board.faultHold = !s.board.flowOk ∧
        t.nvm.strapWarning = (s.nvm.strapWarning || decide (a % 4 = 3))) ∧
      (¬ (a = b ∧ b = c) → ∃ t, exec (.strapSample time a b c) s = .next t ∧ t.board.phase = .strapFault ∧
        t.board.faultHold = true ∧ t.nvm.strapFaults = s.nvm.strapFaults + 1)) ∧
    (∀ (time : Nat) (also : SameSample) (s : State),
      (s.board.phase = .serving ∨ s.board.phase = .resetting ∨ s.board.phase = .partialShutdown →
        ∃ t, exec (.flowLoss time also) s = .next t ∧ t.board.phase = .stopped ∧ t.board.flowOk = false ∧
          t.board.faultHold = true ∧ t.board.thermtrip = (s.board.thermtrip || also.thermal) ∧ t.board.modReady = false ∧
          t.board.railsUp = false) ∧
      (s.board.phase = .rails ∨ s.board.phase = .booted ∨ s.board.phase = .tested →
        ∃ t, exec (.flowLoss time also) s = .next t ∧ t.board.flowOk = false ∧ t.board.faultHold = true ∧
          t.board.railsUp = false ∧ t.board.phase = (if also.thermal = true then Phase.stopped else Phase.waiting) ∧
          (also.thermal = true → t.board.thermtrip = true))) ∧
    (∀ (time : Nat) (s : State), ∃ t, exec (.flowRestored time) s = .next t ∧ t.board.flowOk = true ∧
      t.board.phase = s.board.phase ∧ (s.board.phase = .waiting → t.board.faultHold = s.board.feedWaited) ∧
      Only [.now, .board] s t) ∧
    (∀ (time k v : Nat) (s : State), k < 2 → 4800 ≤ v → v ≤ 5800 →
      ∃ t, exec (.feedInUse time k v) s = .next t ∧ getFeed t k = { volts := v, inUse := true } ∧
        getFeed t (1 - k) = getFeed s (1 - k) ∧
        (s.board.modEn = true → s.board.phase = .dark → t.board.roseAt = max s.now time ∧
          t.board.phase = (match s.board.fellAt with
            | some f => if max s.now time < f + 1000000000 then Phase.discharge else Phase.straps
            | none => Phase.straps))) ∧
    (∀ (time k v : Nat) (also : SameSample) (s : State), k < 2 → (getFeed s k).inUse = true → v < 4600 ∨ 6000 < v →
      (s.board.modEn = true → also.bothFeeds = false → (getFeed s (1 - k)).inUse = true →
        ∃ t, exec (.feedLost time k v also) s = .next t ∧ getFeed t k = { volts := v, lost := s.board.outputsHeld } ∧
          getFeed t (1 - k) = getFeed s (1 - k) ∧ t.board.phase = s.board.phase) ∧
      (s.board.modEn = true → (getFeed s (1 - k)).inUse = false →
        ∃ t, exec (.feedLost time k v also) s = .next t ∧ t.board.phase = .dark ∧ t.board.outputsHeld = false ∧
          t.board.railsUp = false ∧ t.board.feedA.inUse = false ∧ t.board.feedB.inUse = false)) ∧
    (∀ (time k v : Nat) (s : State), k < 2 → (getFeed s k).inUse = true → 4600 ≤ v → v < 4800 →
      ∃ t, exec (.feedWarning time k v) s = .next t ∧ getFeed t k = { getFeed s k with volts := v } ∧
        getFeed t (1 - k) = getFeed s (1 - k)) ∧
    (∀ (time : Nat) (s : State), s.board.phase = .waiting → feedOn s = false → s.board.feedWaited = false →
      s.board.roseAt + 10000000000 ≤ max s.now time →
      ∃ t, exec (.feedWaitTimeout time) s = .next t ∧ t.board.feedWaited = true ∧ t.board.faultHold = true ∧
        t.board.phase = .waiting)

/-- With flow and a feed in use RAIL_WAVES powers the rails. BOOT with a bank that verifies runs it, with the root that the
PUF and the mesh give held when it passes its check on a sealed module (or after the first stage of a repair); with no bank
that boots it is the recovery hold. SELF_TEST that finds nothing that refuses the start goes on, every failed cartridge
unpowered; a failed spine block refuses it with cause 1; in an admin reset it ends the reset in service. VELLUM_TRAINING
with the S-die's site good and every failed cartridge unpowered zeroes every unit and takes the module into service with the
allowance at the wake step. -/
def Obligations.StartReachesService : Prop :=
  (∀ (time : Nat) (s : State), s.board.phase = .waiting → s.board.flowOk = true → feedOn s = true →
      ∃ t, exec (.railWaves time) s = .next t ∧ t.board.phase = .rails ∧ t.board.railsUp = true ∧
        t.board.computeRails = true ∧ t.board.faultHold = false ∧
        (∀ c, c < 20 → (getCart t c).powered = (getCart s c).present)) ∧
    (∀ (time : Nat) (refclk : Bool) (bad : List (Nat × Nat)) (g : RootIn) (rom : Digest) (p r : FlashBank) (s : State), s.board.phase = .rails →
      (∀ b rec, pickBank s p r = some (b, rec) →
        ∃ t, exec (.boot ⟨time, (refclk, bad)⟩ g rom p r) s = .next t ∧ t.board.refclk = refclk ∧
          t.trust.root = (if rootOk s g && (!s.trust.isUnsealed || s.trust.stageOne) then some (deriveRoot s.nvm.helper g) else none) ∧
          t.board.phase = .booted ∧ t.board.faultHold = false ∧
          t.fw.running = b.scribe.version ∧ t.trust.recoveryBank = rec ∧ t.trust.meshArmed = true ∧
          t.trust.isUnsealed = !(rootOk s g && !s.trust.isUnsealed) ∧
          (s.board.perstHigh = true → refclk = true → t.link.up = true) ∧ (refclk = false → t.link.up = s.link.up)) ∧
      (pickBank s p r = none →
        ∃ t, exec (.boot ⟨time, (refclk, bad)⟩ g rom p r) s = .next t ∧ t.board.refclk = refclk ∧
          t.trust.root = (if rootOk s g && (!s.trust.isUnsealed || s.trust.stageOne) then some (deriveRoot s.nvm.helper g) else none) ∧
          t.board.phase = .recoveryHold ∧ t.board.faultHold = true ∧
          t.trust.meshArmed = true)) ∧
    (∀ (time : Nat) (r : SelfTestResult) (s : State),
      (s.board.phase = .booted →
        (refuseCause (applySelfTest (restFailed
            { advance s time with map := { s.map with darkDies := darkAtStart s, badBlocks := r.failedBlocks } }) r) r = 0 →
          ∃ t, exec (.selfTest time r) s = .next t ∧ t.board.phase = .tested ∧ t.map.refused = false ∧ t.map.cause = 0 ∧
            t.map.ms = r.ms ∧ t.map.darkDies = darkAtStart s ∧
            (∀ c, c < 20 → c ≠ 8 → cartFailed (getCart t c) = true → (getCart t c).present = true → (getCart t c).powered = false)) ∧
        (r.failedBlocks ≠ [] →
          ∃ t, exec (.selfTest time r) s = .next t ∧ t.board.phase = .refused ∧ t.map.refused = true ∧
            t.map.cause = 1)) ∧
      (s.board.phase = .resetting →
        ∃ t, exec (.selfTest time r) s = .next t ∧ t.board.phase = .serving ∧ t.board.modReady = true ∧
          t.thermal.coolingCap = 18500 ∧ t.power.allowance = 7000)) ∧
    (∀ (time : Nat) (bad : List Nat) (s : State), s.board.phase = .tested →
      (bad.contains sDie = false → channelsDead s sDie = false →
        (∀ c, c < 20 → cartFailed (getCart s c) = true → (getCart s c).powered = false) →
        ∃ t, exec (.vellumTraining time bad) s = .next t ∧ t.board.phase = .serving ∧ t.board.modReady = true ∧
          t.board.trained = true ∧ (∀ a, mget t.vellum.mem a = 0#8) ∧ t.vellum.layout = s.nvm.layout.getD {} ∧
          (∀ d ∈ bad, d < 40 → (getSite t d).untrained = true) ∧
          (∀ p, (getPage t p).state = .free ∨ (getPage t p).state = .retired) ∧ t.power.allowance = 7000) ∧
      (bad.contains sDie = true ∨ channelsDead s sDie = true →
        ∃ t, exec (.vellumTraining time bad) s = .next t ∧ t.board.phase = .refused ∧ t.map.cause = 2))

/-- On a site that serves: REFRESH counts the accesses that waited; PATROL_SCRUB of the site's next unit counts the unit
read and moves on, or completes a pass at the last unit; VELLUM_READ that R143 allows counts the unit at the site that holds
it (a page that R174 did not select is not read), and a corrected one waits for its write-back; VELLUM_WRITE_BACK writes it.
One that R143 refuses leaves the site. GRANULE_COPY_DONE puts the granule among the site's remaps. -/
def Obligations.VellumUnitsAreReadAndRepaired : Prop :=
  (∀ (d ch bank n : Nat) (s : State), siteServes s d = true → ch < 16 →
      ∃ t, exec (.refresh d ch bank n) s = .next t ∧
        getSite t d = { getSite s d with refreshWaits := sat 32 ((getSite s d).refreshWaits + n) } ∧
        (∀ e, e ≠ d → getSite t e = getSite s e) ∧ Only [.vellum] s t) ∧
    (∀ (time d u : Nat) (copyHeld : Bool) (s : State), siteServes s d = true → s.power.state ≠ .vellumOnly → u = (getSite s d).scrubUnit →
      u < siteUnits →
      ∃ t, exec (.patrolScrub time d u ⟨.clean, copyHeld⟩) s = .next t ∧
        getSite t d = { getSite s d with
          readUnits := sat 64 ((getSite s d).readUnits + 1),
          scrubPasses := if u + 1 = siteUnits then sat 32 ((getSite s d).scrubPasses + 1) else (getSite s d).scrubPasses,
          scrubUnit := if u + 1 = siteUnits then 0 else u + 1,
          scrubPosition := if u + 1 = siteUnits then 0 else (u + 1) / granuleUnits } ∧
        (∀ e, e ≠ d → getSite t e = getSite s e) ∧ Only [.now, .vellum] s t) ∧
    (∀ (time bits : Nat) (r : VellumRef) (s : State), siteServes s (holdingSite s r.site r.unit) = true → r.unit < siteUnits →
      unselectedRead s r = false →
      (readAllowed s r = true →
        (∃ t, exec (.vellumRead time r .clean) s = .next t ∧
          (getSite t (holdingSite s r.site r.unit)).readUnits = sat 64 ((getSite s (holdingSite s r.site r.unit)).readUnits + 1) ∧
          (getSite t (holdingSite s r.site r.unit)).specClamped =
            sat 32 ((getSite s (holdingSite s r.site r.unit)).specClamped + bit (r.attention && clampedUnit s r.site r.unit)) ∧
          (∀ e, e ≠ holdingSite s r.site r.unit → getSite t e = getSite s e) ∧ Only [.now, .vellum] s t) ∧
        (channelFailed s (holding s r.site r.unit).1 (holding s r.site r.unit).2 ≤ 1 →
          ∃ t, exec (.vellumRead time r (.corrected bits 0 [])) s = .next t ∧
          (getSite t (holding s r.site r.unit).1).arrayCorrections =
            sat 32 ((getSite s (holding s r.site r.unit).1).arrayCorrections + bits) ∧
          (getSite t (holding s r.site r.unit).1).writeBacks.contains (holding s r.site r.unit).2 = true ∧
          Only [.now, .vellum] s t)) ∧
      (readAllowed s r = false →
        ∃ t, exec (.vellumRead time r .clean) s = .next t ∧ t.vellum = s.vellum ∧
          Only [.now, .link, .mailbox, .fabric, .blotter, .mgmt] s t)) ∧
    (∀ (d u : Nat) (s : State), siteServes s d = true → (getSite s d).writeBacks.contains u = true →
      ∃ t, exec (.vellumWriteBack d u) s = .next t ∧
        getSite t d = { getSite s d with
          writeBacks := (getSite s d).writeBacks.filter (fun x => x != u),
          writeUnits := sat 64 ((getSite s d).writeUnits + 1) } ∧
        (∀ e, e ≠ d → getSite t e = getSite s e) ∧ Only [.vellum] s t) ∧
    (∀ (time d g : Nat) (s : State), siteServes s d = true → (getSite s d).copying.contains g = true →
      (tget [] s.nvm.remaps d).contains g = false → (tget [] s.nvm.remaps d).length < 512 →
      ∃ t, exec (.granuleCopyDone time d g) s = .next t ∧ tget [] t.nvm.remaps d = tget [] s.nvm.remaps d ++ [g] ∧
        (∀ e, e ≠ d → tget [] t.nvm.remaps e = tget [] s.nvm.remaps e) ∧ (getSite t d).copying.contains g = false)

/-- TOKEN_ARRIVAL takes the oldest transfer of the crossing for a tile (a ligature's result apart) out of flight, counts its
flits at a consumer that is not fenced and keeps it for the tile's RECV, or writes it where it says; of a fenced consumer
the data waits at the die boundary. SEND_ACK lets the stalled producer resume and counts the cycles it was gated. WATCHDOG
with no token fences the producer's cluster; with the token in the same cycle it counts a near miss and fences nothing.
FLIT_RETRY counts the link's retry; SUBLINK_OUT marks a due sublink bad. MERGE_WINDOW_CLOSE closes the row's oldest window,
its one response flit going out to every reader and engine that joined. -/
def Obligations.TransfersArriveAndLinksFail : Prop :=
  (∀ (consumer crossing n : Nat) (x : Transfer) (rest : List Transfer) (s : State),
      takeFirst (fun (t : Transfer) => t.consumer == consumer && t.crossing == crossing) s.fabric.inFlight =
        some (x, rest) →
      (isSite consumer = false → x.consumer = consumer → x.node = none →
        (getIsland s (clusterOf consumer)).fenced = false → (getIsland s (clusterOf consumer)).gate = none →
        frameRoom s (clusterOf consumer) x.step = true ∨ x.writeAt.isSome = true →
        ∃ t, exec (.tokenArrival consumer crossing n) s = .next t ∧
          (∃ l, t.fabric.inFlight = rest ++ l ∧ (x.writeAt = none → x.forDma = none → l = [])) ∧
          (getIsland t (clusterOf consumer)).net.flitsIn =
            sat 64 ((getIsland s (clusterOf consumer)).net.flitsIn + flitCount x.flits) ∧
          (x.writeAt = none →
            tget ({ total := 0 } : Flits) (getIsland t (clusterOf consumer)).inbox (boxKey consumer x.crossing) =
              joinFlits (tget { total := 0 } (getIsland s (clusterOf consumer)).inbox (boxKey consumer x.crossing))
                { x.flits with step := x.step })) ∧
      ((getIsland s (clusterOf consumer)).fenced = true →
        ∃ t, exec (.tokenArrival consumer crossing n) s = .next t ∧ t.fabric.inFlight = rest ∧
          t.fabric.refused = s.fabric.refused ++ [x] ∧ t.fabric.islands = s.fabric.islands ∧ Only [.fabric] s t)) ∧
    (∀ (producer crossing n : Nat) (s : State), (getIsland s (clusterOf producer)).stalled = some crossing →
      (getIsland s (clusterOf producer)).heldPartial = none → (getIsland s (clusterOf producer)).deferred = [] →
      ∃ t, exec (.sendAck producer ⟨crossing, n⟩) s = .next t ∧
        getIsland t (clusterOf producer) = { getIsland s (clusterOf producer) with
          stalled := none,
          net := { (getIsland s (clusterOf producer)).net with
            lateStall := sat 64 ((getIsland s (clusterOf producer)).net.lateStall + n) } } ∧
        (∀ v, v ≠ clusterOf producer → getIsland t v = getIsland s v) ∧ Only [.fabric] s t) ∧
    (∀ (time consumer producer crossing : Nat) (s : State), watching s consumer crossing = true →
      watchdogHeld s consumer = false →
      ((getIsland s (clusterOf producer)).fenced = false →
        ∃ t, exec (.watchdog time consumer producer crossing false) s = .next t ∧
          (getIsland t (clusterOf producer)).fenced = true) ∧
      (takeFirst (fun (x : Transfer) => x.consumer == consumer && x.crossing == crossing) s.fabric.inFlight = none →
        ∃ t, exec (.watchdog time consumer producer crossing true) s = .next t ∧
          getIsland t (clusterOf consumer) = { getIsland s (clusterOf consumer) with
            net := { (getIsland s (clusterOf consumer)).net with
              nearMisses := sat 32 ((getIsland s (clusterOf consumer)).net.nearMisses + 1) } } ∧
          (∀ v, v ≠ clusterOf consumer → getIsland t v = getIsland s v) ∧
          Only [.now, .link, .mailbox, .blotter, .mgmt, .fabric] s t)) ∧
    (∀ (time die dir sub : Nat) (s : State), (neighbour die dir).isSome = true → sub < 16 →
      ∃ t, exec (.flitRetry time die dir sub) s = .next t ∧
        (tget ({} : Edge) t.fabric.edges (linkKey die dir)).retries =
          (tget ({} : Edge) s.fabric.edges (linkKey die dir)).retries + 1 ∧
        (∀ k, k ≠ linkKey die dir → tget ({} : Edge) t.fabric.edges k = tget {} s.fabric.edges k) ∧
        Only [.now, .fabric] s t) ∧
    (∀ (time die dir sub : Nat) (s : State), sub < 16 →
      (tget ({} : Edge) s.fabric.edges (linkKey die dir)).outDue.contains sub = true →
      ∃ t, exec (.sublinkOut time die dir sub) s = .next t ∧
        (tget ({} : Edge) t.fabric.edges (linkKey die dir)).bad.getLsbD sub = true) ∧
    (∀ (u row : Nat) (w : Window) (rest : List Window) (s : State),
      takeFirst (fun (x : Window) => x.row == row) (getIsland s u).windows = some (w, rest) →
      ∃ t, exec (.mergeWindowClose u row) s = .next t ∧ (getIsland t u).windows = rest ∧
        (∃ l m, t.fabric.inFlight = s.fabric.inFlight ++ (l ++ m) ∧ l.map (·.consumer) = w.members.map (·.tile) ∧
          l.map (·.crossing) = w.members.map (·.crossing) ∧ (∀ x ∈ l, x.producer = u ∧ x.flits.poisoned = w.poisoned) ∧
          m.map (·.consumer) = w.engines.map (·.consumer) ∧ m.map (·.writeAt) = w.engines.map (·.writeAt) ∧
          (∀ x ∈ m, x.producer = u ∧ x.flits = oneFlit w.data w.poisoned)) ∧
        (getIsland t u).net.flitsOut = sat 64 ((getIsland s u).net.flitsOut + 1) ∧ Only [.fabric] s t)

/-- LIGATURE_COMBINE with every expected input at a node that is not fenced takes the inputs and its result goes to the next
node, its flits counted; with no room left there it waits; to a fenced one it waits at the die boundary. DMA_COMPLETE of an
engine that waits for no merged row takes the oldest descriptor that no missing chunk holds back. CORRECTED_WRITE_BACK
writes the row. SCRUB_READ counts what it corrected and the forced wins. CLEAR_COMPLETE of a page leaves its memory zero and
the page FREE with its generation kept, of a scratchpad counts the clear, and of a partition with nothing left to clear ends
RRS. -/
def Obligations.LigaturesDmaScrubsAndClears : Prop :=
  (∀ (u tag n slot : Nat) (e : LigEntry) (ins : List Flits) (f : Flits) (s : State),
      nodeEntry s u tag = some (slot, e) → nodeInputs (getIsland s u) slot e = some ins →
      f = { combine e ins with nans := nanMet e ins, step := ins.findSome? (·.step) } →
      (getIsland s u).fenced = false → clusterOf u = u → clusterOf e.dest = e.dest → e.dest ≠ u → e.final = false →
      ((getIsland s e.dest).fenced = false →
        nodeRoom s e.dest { tag := e.tag, input := e.into, flits := f, slot := slot } = true →
        ∃ t, exec (.ligatureCombine u tag n) s = .next t ∧
          (getIsland t u).partials = (dropPartials (getIsland s u) slot e).partials ∧
          (getIsland t u).net.flitsOut = sat 64 ((getIsland s u).net.flitsOut + flitCount f) ∧
          (getIsland t e.dest).partials = (getIsland s e.dest).partials ++
            [{ tag := e.tag, input := e.into, flits := f, slot := slot }] ∧ Only [.fabric] s t) ∧
      ((getIsland s e.dest).fenced = true →
        nodeRoom s e.dest { tag := e.tag, input := e.into, flits := f, slot := slot } = true →
        ∃ t x, exec (.ligatureCombine u tag n) s = .next t ∧
          (getIsland t u).partials = (dropPartials (getIsland s u) slot e).partials ∧
          t.fabric.refused = s.fabric.refused ++ [x] ∧ x.consumer = e.dest ∧ x.crossing = e.tag ∧ x.flits = f ∧
          (getIsland t e.dest).partials = (getIsland s e.dest).partials ∧ Only [.fabric] s t) ∧
      (nodeRoom s e.dest { tag := e.tag, input := e.into, flits := f, slot := slot } = false →
        ∃ t, exec (.ligatureCombine u tag n) s = .next t ∧ t = s)) ∧
    (∀ (time c tile index : Nat) (d : BitVec 256) (rest : List (Nat × BitVec 256)) (l : DmaLoad) (s : State),
      tile < 16 → engineWaits s c tile = false → (getTile s (c + tile)).dmaQueue = (index, d) :: rest → waitsForChunk s (dmaFields s c d) = false →
      ∃ t, exec (.dmaComplete time c tile ⟨[], []⟩ l) s = .next t ∧ (getTile t (c + tile)).dmaQueue = rest) ∧
    (∀ (time c tile : Nat) (d : BitVec 256) (rest : List (BitVec 256)) (l : DmaLoad) (s : State),
      16 ≤ tile → engineWaits s c 16 = false → (getIsland s c).scribeDma = d :: rest → waitsForChunk s (dmaFields s c d) = false →
      ∃ t, exec (.dmaComplete time c tile ⟨[], []⟩ l) s = .next t ∧ (getIsland t c).scribeDma = rest) ∧
    (∀ (u row n : Nat) (s : State), (getIsland s u).writeBacks.contains row = true →
      ∃ t, exec (.correctedWriteBack u ⟨row, n⟩) s = .next t ∧
        getIsland t u = { getIsland s u with
          writeBacks := (getIsland s u).writeBacks.filter (fun k => k != row),
          mem := { (getIsland s u).mem with forcedWins := sat 32 ((getIsland s u).mem.forcedWins + n) } } ∧
        (∀ v, v ≠ u → getIsland t v = getIsland s v) ∧ Only [.fabric] s t) ∧
    (∀ (u row n : Nat) (e : RowEcc) (s : State),
      (∃ t, exec (.scrubRead u row ⟨[], n⟩) s = .next t ∧ t = s) ∧
      (rowBad (.slice u (row * 64)) e = false → eccCorrects e = true ∨ 0 < eccWords e →
        ∃ t, exec (.scrubRead u row ⟨[e], n⟩) s = .next t ∧
          getIsland t u = { getIsland s u with mem := { (getIsland s u).mem with
            secded := sat 64 ((getIsland s u).mem.secded + eccWords e),
            scrubCorrections := sat 32 ((getIsland s u).mem.scrubCorrections + 1),
            forcedWins := sat 32 ((getIsland s u).mem.forcedWins + n) } } ∧
          (∀ v, v ≠ u → getIsland t v = getIsland s v) ∧ Only [.fabric] s t)) ∧
    (∀ (time k n : Nat) (s : State),
      (∀ p, s.serving.clears[k]? = some (.page p) →
        ∃ t, exec (.clearComplete time k ⟨none, n⟩) s = .next t ∧ t.serving.clears = s.serving.clears.eraseIdx k ∧
          getPage t p = { generation := (getPage s p).generation } ∧
          (∀ a, pageBase p ≤ a → a < pageBase p + 2097152 → mget t.vellum.mem a = 0#8) ∧
          (∀ a, ¬ (pageBase p ≤ a ∧ a < pageBase p + 2097152) → mget t.vellum.mem a = mget s.vellum.mem a)) ∧
      (∀ u, s.serving.clears[k]? = some (.scratch u) → (getIsland s u).desc = none →
        ∃ t, exec (.clearComplete time k ⟨none, n⟩) s = .next t ∧ t.serving.clears = s.serving.clears.eraseIdx k ∧
          (getIsland t u).mem.clearsDone = sat 32 ((getIsland s u).mem.clearsDone + 1)) ∧
      (∀ i, s.serving.clears[k]? = some (.slot i) →
        ∃ t, exec (.clearComplete time k ⟨none, n⟩) s = .next t ∧ t.serving.clears = s.serving.clears.eraseIdx k ∧
          getSlot t i = { refuse := (getSlot s i).refuse }) ∧
      (∀ i, s.serving.clears[k]? = some (.partition i) → partitionWaits s i = false →
        ∃ t, exec (.clearComplete time k ⟨none, n⟩) s = .next t ∧ t.serving.clears = s.serving.clears.eraseIdx k ∧
          (getFn t (i + 1)).rrs = false ∧ (getPartition t i).keyGen = (getPartition s i).keyGen + 1))

/-- A stroke of a tile whose island cannot issue changes nothing; one that issues first lets the writes held back for the
island land. One whose predicate fails moves the tile's local cycle on and, but for SEND and LIG_SEND, does nothing more.
NOP only issues. LOOP_BEGIN gives the counter its count; LOOP_END takes one. STEP_BEGIN takes the island's next descriptor
with the weight half of its step, or gates the island with none; a tile whose island has begun starts at cycle 0. STEP_END
ends the island's step and clears its counts. PRED_LOAD sets registers 1 to 15 from a descriptor bit and leaves register 0.
-/
def Obligations.StrokesIssueAndControl : Prop :=
  (∀ (h : StrokeHdr) (s : State), canIssue s h.tile = false → ∀ a b c d,
      exec (.nop h) s = .next s ∧ exec (.store h a b) s = .next s ∧ exec (.stepEnd h a) s = .next s ∧
        exec (.send h a b c d 0 ⟨false, []⟩) s = .next s) ∧
    (∀ (h : StrokeHdr) (s0 s : State), canIssue s0 h.tile = true → s = landIsland s0 (clusterOf h.tile) →
      predHolds (modTile s h.tile (fun t => { t with cycle := t.cycle + h.delta })) h = false → ∀ a b,
      exec (.store h a b) s0 = .next (modTile s h.tile (fun t => { t with cycle := t.cycle + h.delta })) ∧
        exec (.dmaPost h a) s0 = .next (modTile s h.tile (fun t => { t with cycle := t.cycle + h.delta }))) ∧
    (∀ (h : StrokeHdr) (s0 s : State), canIssue s0 h.tile = true → s = landIsland s0 (clusterOf h.tile) →
      ∃ t, exec (.nop h) s0 = .next t ∧
        getTile t h.tile = { getTile s h.tile with cycle := (getTile s h.tile).cycle + h.delta } ∧
        (∀ v, v ≠ h.tile → getTile t v = getTile s v) ∧ Only [.fabric] s t) ∧
    (∀ (h : StrokeHdr) (s0 s u : State), canIssue s0 h.tile = true →
      s = landIsland s0 (clusterOf h.tile) → u = modTile s h.tile (fun t => { t with cycle := t.cycle + h.delta }) → predHolds u h = true →
      (∀ c n fromDesc, ∃ t, exec (.loopBegin h c n fromDesc) s0 = .next t ∧
        tget {} (getTile t h.tile).loops c =
          (if fromDesc then
            { total := descWord s (clusterOf h.tile) n, left := descWord s (clusterOf h.tile) n : LoopCtr }
           else { total := n, left := n }) ∧ Only [.fabric] s t) ∧
      (∀ c, ∃ t, exec (.loopEnd h c) s0 = .next t ∧
        (tget {} (getTile t h.tile).loops c).left = (tget {} (getTile s h.tile).loops c).left - 1 ∧
        (tget {} (getTile t h.tile).loops c).total = (tget {} (getTile s h.tile).loops c).total ∧ Only [.fabric] s t) ∧
      ((getIsland s (clusterOf h.tile)).desc.isSome = true → ∃ t, exec (.stepBegin h) s0 = .next t ∧
        getTile t h.tile = { getTile s h.tile with cycle := 0 } ∧ Only [.fabric] s t) ∧
      (∀ d rest, (getIsland s (clusterOf h.tile)).desc = none → (getIsland s (clusterOf h.tile)).posted = d :: rest →
        barred s (clusterOf h.tile) d.step = false → ∃ t, exec (.stepBegin h) s0 = .next t ∧ (getIsland t (clusterOf h.tile)).desc = some { d with half := stepHalf u (getIsland u (clusterOf h.tile)) d } ∧
          (getIsland t (clusterOf h.tile)).posted = rest ∧ Only [.fabric, .serving] s t) ∧
      ((getIsland s (clusterOf h.tile)).desc = none → (getIsland s (clusterOf h.tile)).posted = [] →
        ∃ t, exec (.stepBegin h) s0 = .next t ∧ (getIsland t (clusterOf h.tile)).gate = some .descriptor ∧
          Only [.fabric] s t) ∧
      (∀ d mj, (getIsland s (clusterOf h.tile)).desc = some d → ∃ t, exec (.stepEnd h mj) s0 = .next t ∧
        (getIsland t (clusterOf h.tile)).desc = none ∧ (getIsland t (clusterOf h.tile)).counts = [] ∧
        (getIsland t (clusterOf h.tile)).energyMj = 0) ∧
      (∀ p w b, 1 ≤ p → p ≤ 15 → ∃ t, exec (.predLoad h p ⟨.descBit w b, []⟩) s0 = .next t ∧
        (∀ i, i < 16 → (getTile t h.tile).preds.getLsbD i =
          (if i = p then Nat.testBit (descWord s (clusterOf h.tile) w) b else (getTile s h.tile).preds.getLsbD i)) ∧
        Only [.fabric] s t) ∧
      (∀ w b, ∃ t, exec (.predLoad h 0 ⟨.descBit w b, []⟩) s0 = .next t ∧
        (getTile t h.tile).preds = (getTile s h.tile).preds))

/-- A stroke that issues, once the writes held back for its island have landed: MAC with latched weights and activations of
which some scale is not zero leaves in every latched lane the accumulator with its contributions, in order, and counts a
skip where every scale is zero; a number that the mode does not have is not accumulated (log entry 40), and an address
outside every entry of the tensor table does nothing (log entry 40). DRAIN writes the lanes' results and returns the
accumulators to +0. Marks of poisoned data go with the data. VALU, VXCEND and NARROW and WIDEN write what their functions
give for each lane. -/
def Obligations.StrokesCompute : Prop :=
  ∀ (h : StrokeHdr) (s0 s u : State), canIssue s0 h.tile = true →
      s = landIsland s0 (clusterOf h.tile) → u = modTile s h.tile (fun t => { t with cycle := t.cycle + h.delta }) → predHolds u h = true →
      (∀ act acc, entryAt u (clusterOf h.tile) false act = none → exec (.mac h act .latched ⟨acc, []⟩) s0 = .next u) ∧
      (∀ act acc e r, entryAt u (clusterOf h.tile) false act = some e →
        r = readActs u h.tile e (blockIndex e.fmt e.elemBase act) (spanOf (latchOf s h.tile 0).sparsity) →
        ∃ t, exec (.mac h act .latched ⟨acc, []⟩) s0 = .next t ∧
          (if r.1.all zeroScale then
            (getTile t h.tile).accs = (getTile s h.tile).accs ∧
              (getIsland t (clusterOf h.tile)).mem.zeroScaleSkips =
                sat 64 ((getIsland r.2 (clusterOf h.tile)).mem.zeroScaleSkips + 1)
           else if accCount r.2 h.tile ≤ acc then (getTile t h.tile).accs = (getTile s h.tile).accs
           else ∀ l x, l < lanesOf h.tile →
            x = laneMac (inReference r.2 (clusterOf h.tile)) (latchOf s h.tile l) (aget s h.tile acc l) 0
              (r.1.take (spanOf (latchOf s h.tile l).sparsity)) →
            aget t h.tile acc l =
              { x.1 with tainted := x.1.tainted || r.1.any (·.poisoned) || (latchOf s h.tile l).tainted })) ∧
      (∀ dst acc scale b m, m = (List.range (lanesOf h.tile)).any (fun l => (aget s h.tile acc l).tainted) →
        (acc < accCount u h.tile → b = (List.range (lanesOf h.tile)).flatMap (fun l =>
            drainLane (inReference u (clusterOf h.tile)) (aget s h.tile acc l) scale) →
          ∃ c, (∀ l, l < lanesOf h.tile → aget c h.tile acc l = {}) ∧ Only [.fabric] s c ∧
            c.fabric.sram = s.fabric.sram ∧ exec (.drain h dst acc scale) s0 =
              .next (writeRows c (clusterOf h.tile) (.scratch h.tile dst) m ((b.length + 63) / 64) b)) ∧
        (accCount u h.tile ≤ acc → b = (List.range (lanesOf h.tile)).flatMap (fun _ =>
            drainLane (inReference u (clusterOf h.tile)) {} scale) →
          exec (.drain h dst acc scale) s0 =
            .next (writeRows u (clusterOf h.tile) (.scratch h.tile dst) m ((b.length + 63) / 64) b))) ∧
      (∀ dst srcs code, ∃ t, exec (.valu h dst srcs (.other code)) s0 = .next t ∧ Only [.fabric] s t ∧
        ∀ i, i < vectorLanes h.tile →
          vget t h.tile dst i = fpCanon (Config.valuLane code (srcs.map (fun r => vget s h.tile r i)))) ∧
      (∀ dst srcs, (∃ t, exec (.valu h dst srcs .sum) s0 = .next t ∧ vget t h.tile dst 0 =
          fpCanon (reduceTree fpAdd (Nat.log2 (vectorLanes h.tile)) (vreg s h.tile (srcs.headD 0)))) ∧
        (∃ t, exec (.valu h dst srcs .max) s0 = .next t ∧ vget t h.tile dst 0 =
          fpCanon (reduceTree fpMax (Nat.log2 (vectorLanes h.tile)) (vreg s h.tile (srcs.headD 0))))) ∧
      (∀ dst src fn, ∃ t, exec (.vxcend h dst src fn) s0 = .next t ∧ Only [.fabric] s t ∧
        ∀ i, i < vectorLanes h.tile → vget t h.tile dst i = fpTrans fn (vget s h.tile src i)) ∧
      (∀ dst src opc f r m, fmtOf ((BitVec.extractLsb' 19 3 opc).toNat) = some f →
        r = narrowRow f (opc.getLsbD 18) ((List.range (16 * blocksPerRow f)).map (vget s h.tile src)) →
        m = vtainted s h.tile src (16 * blocksPerRow f) →
          exec (.narrow h dst src opc) s0 = .next (countIn
            (writeSpan (writeRow u (clusterOf h.tile) (.scratch h.tile dst) r.1 m) h.tile
              ((BitVec.extractLsb' 0 18 opc).toNat * 4) m 16 r.2.1)
            (clusterOf h.tile) (BitVec.extractLsb' 22 10 opc).toNat r.2.2)) ∧
      (∀ dst src a f, ∃ t row sc, row = readRow u (clusterOf h.tile) (.scratch h.tile src) ∧
        sc = readSpan row.state h.tile a (blocksPerRow f) ∧ exec (.widen h dst src a ⟨f, []⟩) s0 = .next t ∧
        ∀ i, i < (widenRow f row.bytes sc.bytes).1.length → i < vectorLanes h.tile →
          vget t h.tile dst i = (widenRow f row.bytes sc.bytes).1.getD i 0)

/-- A stroke that issues, once the writes held back for its island have landed: LOAD leaves the rows read in the vector
register, STORE writes the register's rows. SLICE_READ and SLICE_WRITE of the own cluster's slices move the rows at once; of
another cluster's, without a merge, they put one transfer in flight, whose full buffer at the consumer stalls the writer; of
a fenced cluster a read changes nothing and a write waits at the die boundary. A unit that is no cluster of a compute die is
not accessed. -/
def Obligations.StrokesMoveRows : Prop :=
  ∀ (h : StrokeHdr) (s0 s u : State), canIssue s0 h.tile = true →
      s = landIsland s0 (clusterOf h.tile) → u = modTile s h.tile (fun t => { t with cycle := t.cycle + h.delta }) → predHolds u h = true →
      (∀ reg a, ∃ t, exec (.load h reg a []) s0 = .next t ∧ ∀ i, i < vectorLanes h.tile →
        vget t h.tile reg i =
          (fpList (vectorLanes h.tile)
            (readRows u (clusterOf h.tile) (.scratch h.tile a) (vectorLanes h.tile / 16)).bytes).getD i 0) ∧
      (∀ reg a, exec (.store h reg a) s0 = .next (writeRows u (clusterOf h.tile) (.scratch h.tile a)
        (vtainted s h.tile reg (vectorLanes h.tile)) (vectorLanes h.tile / 16) ((vreg s h.tile reg).flatMap fpBytes))) ∧
      (∀ dst a unit rows c merge full, isCluster unit = false →
        exec (.sliceRead h dst a unit rows c merge []) s0 = .next u ∧
        exec (.sliceWrite h dst a unit rows ⟨c, full, []⟩) s0 = .next u) ∧
      (∀ dst a rows c merge r, isCluster (clusterOf h.tile) = true →
        r = readRows u (clusterOf h.tile) (.slice (clusterOf h.tile) a) rows →
        exec (.sliceRead h dst a (clusterOf h.tile) rows c merge []) s0 =
          .next (writeRows r.state (clusterOf h.tile) (.scratch h.tile dst) r.poisoned rows r.bytes)) ∧
      (∀ dst a unit rows c r, isCluster unit = true → unit ≠ clusterOf h.tile → (getIsland s unit).fenced = false →
        r = readRows (routed u (runSlot u (clusterOf h.tile)) (clusterOf h.tile) unit 1) (clusterOf h.tile) (.slice unit a) rows →
        exec (.sliceRead h dst a unit rows c false []) s0 =
          .next (transmit r.state unit { consumer := h.tile, crossing := c, flits := oneFlit r.bytes r.poisoned } rows)) ∧
      (∀ dst a unit rows c merge, isCluster unit = true → unit ≠ clusterOf h.tile → (getIsland s unit).fenced = true →
        exec (.sliceRead h dst a unit rows c merge []) s0 = .next u) ∧
      (∀ src a rows c full r, isCluster (clusterOf h.tile) = true →
        r = readRows u (clusterOf h.tile) (.scratch h.tile src) rows →
        exec (.sliceWrite h src a (clusterOf h.tile) rows ⟨c, full, []⟩) s0 =
          .next (writeRows r.state (clusterOf h.tile) (.slice (clusterOf h.tile) a) r.poisoned rows r.bytes)) ∧
      (∀ src a unit rows c full r x, isCluster unit = true → unit ≠ clusterOf h.tile →
        r = readRows u (clusterOf h.tile) (.scratch h.tile src) rows →
        x = ({ consumer := unit, crossing := c, flits := oneFlit r.bytes r.poisoned, writeAt := some a, producer := h.tile,
               step := sendStep r.state h.tile, path := unitPath r.state (runSlot r.state (clusterOf h.tile)) h.tile unit } : Transfer) →
        ∃ t, exec (.sliceWrite h src a unit rows ⟨c, full, []⟩) s0 = .next t ∧
          (if (getIsland r.state unit).fenced then
            t.fabric.inFlight = r.state.fabric.inFlight ∧ t.fabric.refused = r.state.fabric.refused ++ [x]
           else t.fabric.inFlight = r.state.fabric.inFlight ++ [x] ∧
            (full = true → (getIsland t (clusterOf h.tile)).stalled = some c) ∧
            (full = false → (getIsland t (clusterOf h.tile)).stalled = none)))

/-- A stroke that issues, once the writes held back for its island have landed: SEND puts its rows in flight to a consumer
that is not fenced, and a full buffer or frame there stalls the producer; to a fenced one they wait at the die boundary;
with its predicate false it sends one EMPTY flit. A SEND or LIG_SEND to a unit that is no tile or cluster of a compute die
sends nothing. RECV with its token present takes it, and gates the island without it (the tail of a decode step waits for a
compatible swap's barrier). LIG_SEND enters its node as the tile's input, or holds it stalled while there is no room;
LIG_RECV gates the island until the result is there. DMA_POST queues up to 8 descriptors of the table of its step's weight
half. DMA_WAIT takes its count from the counter, or gates the island. -/
def Obligations.StrokesCrossTheNetwork : Prop :=
  ∀ (h : StrokeHdr) (s0 s u : State), canIssue s0 h.tile = true →
      s = landIsland s0 (clusterOf h.tile) → u = modTile s h.tile (fun t => { t with cycle := t.cycle + h.delta }) →
      (predHolds u h = true →
        (∀ src unit a rows c full r x, sendUnitOk unit = true →
          r = readRows u (clusterOf h.tile) (.scratch h.tile src) rows →
          x = ({ consumer := unit, crossing := c, flits := oneFlit r.bytes r.poisoned, addr := a, producer := h.tile,
                 step := sendStep r.state h.tile, path := unitPath r.state (runSlot r.state (clusterOf h.tile)) h.tile unit } : Transfer) →
          ∃ t, exec (.send h src unit a rows c ⟨full, []⟩) s0 = .next t ∧
            (if (getIsland r.state (clusterOf unit)).fenced then
              t.fabric.inFlight = r.state.fabric.inFlight ∧ t.fabric.refused = r.state.fabric.refused ++ [x] ∧
                (getIsland t (clusterOf h.tile)).stalled = none
             else t.fabric.inFlight = r.state.fabric.inFlight ++ [x] ∧
              (getIsland t (clusterOf h.tile)).stalled =
                (if full = true ∨ frameRoom r.state (clusterOf unit) (sendStep r.state h.tile) = false then some c else none))) ∧
        (∀ src unit a tag rows full, sendUnitOk unit = false →
          exec (.send h src unit a rows tag ⟨full, []⟩) s0 = .next u ∧ exec (.ligSend h src unit a tag ⟨rows, []⟩) s0 = .next u) ∧
        (∀ dst c kv, swapTail u (clusterOf h.tile) = false → (getIsland s (clusterOf h.tile)).inbox.find?
            (fun kv => kv.1 == boxKey h.tile c && wholeFlits kv.2) = some kv →
          exec (.recv h dst c) s0 = .next (receive (putIsland u (clusterOf h.tile)
            { getIsland s (clusterOf h.tile) with
              inbox := terase (getIsland s (clusterOf h.tile)).inbox (boxKey h.tile c), gate := none })
            h.tile dst kv.2)) ∧
        (∀ dst c, (swapTail u (clusterOf h.tile) = true ∨ (getIsland s (clusterOf h.tile)).inbox.find?
            (fun kv => kv.1 == boxKey h.tile c && wholeFlits kv.2) = none) →
          ∃ t, exec (.recv h dst c) s0 = .next t ∧
            (getIsland t (clusterOf h.tile)).gate = some (.crossing h.tile dst c) ∧ Only [.fabric] s t) ∧
        (∀ src unit a tag rows r f q, sendUnitOk unit = true →
          r = readRows u (clusterOf h.tile) (.scratch h.tile src) rows →
          f = { linkForm r.state (clusterOf h.tile) (runSlot r.state (clusterOf h.tile)) tag (oneFlit r.bytes r.poisoned) with
              step := sendStep r.state h.tile } →
          q = ({ tag := tag, input := .tile (unitTile h.tile), flits := f, slot := runSlot r.state (clusterOf h.tile),
                 unit := unit, addr := a } : Partial) →
          ∃ t, exec (.ligSend h src unit a tag ⟨rows, []⟩) s0 = .next t ∧
            (getIsland t (clusterOf h.tile)).net = (getIsland r.state (clusterOf h.tile)).net ∧
            (if nodeRoom r.state (clusterOf h.tile) q then
              (getIsland t (clusterOf h.tile)).partials = (getIsland s (clusterOf h.tile)).partials ++ [q]
             else (getIsland t (clusterOf h.tile)).partials = (getIsland s (clusterOf h.tile)).partials ∧
              (getIsland t (clusterOf h.tile)).heldPartial = some q ∧
              (getIsland t (clusterOf h.tile)).stalled = some tag)) ∧
        (∀ dst tag scale kv, swapTail u (clusterOf h.tile) = false →
          (getIsland s (clusterOf h.tile)).ligResults.find? (fun kv => kv.1 == tag) = some kv →
          exec (.ligRecv h dst tag scale) s0 = .next (ligReceive (putIsland u (clusterOf h.tile)
            { getIsland s (clusterOf h.tile) with gate := none }) h.tile dst tag scale kv.2)) ∧
        (∀ dst tag scale, (swapTail u (clusterOf h.tile) = true ∨
            (getIsland s (clusterOf h.tile)).ligResults.find? (fun kv => kv.1 == tag) = none) →
          ∃ t, exec (.ligRecv h dst tag scale) s0 = .next t ∧
            (getIsland t (clusterOf h.tile)).gate = some (.ligature h.tile dst tag scale) ∧ Only [.fabric] s t) ∧
        (∀ i, ∃ t, exec (.dmaPost h i) s0 = .next t ∧
          (getTile t h.tile).dmaQueue =
            (if (getTile s h.tile).dmaQueue.length < 8 then
              (getTile s h.tile).dmaQueue ++ [(i, tget 0 (getTile s h.tile).dmaTable (runHalf u (clusterOf h.tile) * 64 + i))]
             else (getTile s h.tile).dmaQueue) ∧ Only [.fabric] s t) ∧
        (∀ c n, ∃ t, exec (.dmaWait h c n) s0 = .next t ∧ Only [.fabric] s t ∧
          (if n ≤ tget 0 (getTile s h.tile).done c then
            tget 0 (getTile t h.tile).done c = tget 0 (getTile s h.tile).done c - n ∧
              (getIsland t (clusterOf h.tile)).gate = none
           else (getIsland t (clusterOf h.tile)).gate = some (.dma h.tile c n) ∧
            (getTile t h.tile).done = (getTile s h.tile).done))) ∧
      (predHolds u h = false →
        ∀ src unit a tag rows c full, sendUnitOk unit = true →
        (exec (.send h src unit a rows c ⟨full, []⟩) s0 = .next (sendTile u h.tile unit a c emptyFlit 1 full)) ∧
        (exec (.ligSend h src unit a tag ⟨rows, []⟩) s0 = .next (ligSendTile u h.tile unit a tag emptyFlit)))

/-- PREFETCH_ISSUE that R143 allows, of pages that the step attends to (R174), keeps the bytes read for the newest posted
step while the buffer has room, and at most one predicted expert after it. STEP_ISSUE of rows that may run gives the step
the next number (which no step in flight has), its rows their sampler clusters in order, and puts it in flight. SAMPLE_ROW
of an unsampled row of a whole decode step marks it sampled with its energy, takes the session's token, and ends the step if
it was the last. PREFILL_HANDOFF of a prefill step that every island has ended takes it out of flight. HEALTH_TEST of an
ended step empties its counts into the records. STEP_REPLAY of a faulty step tries again, at most four times. -/
def Obligations.StepsIssueSampleAndReplay : Prop :=
  (∀ (time u n : Nat) (r : FetchRead) (ahead : Lookahead) (s : State), newestStep (getIsland s u) = some n →
      prefetchAllowed s n r.units r.ref = true → unattended s n r.ref.site r.ref.unit r.units = false → r.found = [] → ahead.found = [] →
      (tget [] s.vellum.prefetch u).any (fun e => e.step == n && e.ref.site == r.ref.site && e.ref.unit == r.ref.unit &&
        e.units == r.units) = false →
      (tget [] s.vellum.prefetch u).length < 16 → ((tget [] s.vellum.prefetch u).map (·.units)).sum + r.units ≤ 8192 →
      ∃ t e l, exec (.prefetchIssue time u ⟨[r], ahead⟩) s = .next t ∧
        tget [] t.vellum.prefetch u = tget [] s.vellum.prefetch u ++ [e] ++ l ∧ l.length ≤ 1 ∧
        e.step = n ∧ e.units = r.units ∧ e.ref.site = r.ref.site ∧ e.ref.unit = r.ref.unit ∧ e.ref.reader = some u ∧
        e.data = vellumBytes (advance s time) u r.ref.site r.ref.unit (r.units * 64) ∧
        e.poisoned = (List.range r.units).any (fun j => tget false s.vellum.poisoned (r.ref.site * siteUnits + r.ref.unit + j)) ∧
        Only [.now, .serving, .vellum, .fabric] s t) ∧
    (∀ (time : Nat) (kind : StepKind) (rows : List (RowRef × Nat)) (p : RowPlan) (ps : List RowPlan) (s : State),
      planStep (stepBoundary (advance s time)) kind rows = some (p :: ps) →
      (∀ x ∈ (stepBoundary (advance s time)).serving.steps, x.num ≠ (stepBoundary (advance s time)).serving.nextStep) →
      ∃ t st, exec (.stepIssue time kind rows) s = .next t ∧
        t.serving.steps = (stepBoundary (advance s time)).serving.steps ++ [st] ∧
        st.num = (stepBoundary (advance s time)).serving.nextStep ∧ st.kind = kind ∧ st.slot = p.slot ∧
        st.epoch = p.epoch ∧
        st.rows = (p :: ps).zipIdx.map (fun x => { x.1.row with
          sampler := mkUnit sDie (4 + x.2 % 16) 0,
          charged := rowCharge (bindMode (stepBoundary (advance s time)) p.slot (stepBoundary (advance s time)).serving.nextStep) kind x.1.row,
          pages := x.1.pages }) ∧ st.faulty = false ∧ st.ended = [] ∧
        t.serving.nextStep = (stepBoundary (advance s time)).serving.nextStep + 1) ∧
    (∀ (time n id : Nat) (row : Met Nat Nat) (logits : List (List Fp32)) (st : Step) (r : StepRow) (s : State), findStep s n = some st →
      st.rows[row.val]? = some r → st.faulty = false → r.sampled = false → st.kind = .decode → r.ref = .session id →
      r.discarded = false → (getSession s id).turn.bind (·.step) = some n → metNan s .decode r logits = 0 →
      logits.length = r.count → (∀ l ∈ logits, l.length =
        ((getSlot s st.slot).body.map (fun b => b.lettering.vocab.length)).getD 0) →
      exec (.sampleRow time n row logits) s =
        .next (finishStep (decodeRow (markSampled (advance s time) n row) id r.verify logits) n)) ∧
    (∀ (time n : Nat) (st : Step) (s : State), findStep s n = some st → st.kind = .prefill →
      islandsDone s st = true → st.faulty = false →
      ∃ t, exec (.prefillHandoff time n) s = .next t ∧ findStep t n = none) ∧
    (∀ (time n x : Nat) (c : Counts) (s : State), findStep s n = none →
      s.serving.counting.filter (fun y => y.1 == n) = [(n, x, c)] → c ≠ {} →
      ∃ t, exec (.healthTest time n) s = .next t ∧
        t.serving.counting = s.serving.counting.filter (fun y => y.1 != n) ∧
        (tget ({} : Health) t.serving.health x).step = n ∧ (tget ({} : Health) t.serving.health x).counts = c ∧
        (tget ({} : Health) t.serving.health x).events =
          sat 32 ((tget ({} : Health) s.serving.health x).events +
            bit (exceeds (tget ({ tensor := x } : Threshold) s.serving.thresholds x) c))) ∧
    (∀ (time n die : Nat) (st : Step) (s : State), findStep s n = some st → st.faulty = true → st.attempts < 4 →
      ∃ t st', exec (.stepReplay time n die) s = .next t ∧ findStep t n = some st' ∧ st'.faulty = false ∧
        st'.attempts = st.attempts + 1 ∧ st'.rows = st.rows ∧ st'.energyMj = 0)

/-- RESIDENCY_REVISE ends the window of every layer of a live slot; SEAT_RELEASE goes on with a layer whose seats are being
released. ADAPTER_LINE_LOAD gives a wanted version the first free line while fewer than two lines load. ADMISSION_ROUND
while the module is ready and sheds nothing runs the round. AUTO_PARK with pages enough lets skipped sessions be tried
again, and below PARK_LOW, or where accepted turns have reserved more than is free, parks the oldest. PARK_PAGE_CONFIRM
parks the page with its bytes and frees it. UNPARK_PAGE_CHECK brings one page back. DRAIN_TIMEOUT ends the wait of the
partition. -/
def Obligations.ResidencyAdmissionAndParking : Prop :=
  (∀ (time n : Nat) (s : State), n < 2 → slotLive (getSlot s n) = true →
      ∃ t, exec (.residencyRevise time) s = .next t ∧
        (getSlot t n).layers.map (·.window) = (getSlot s n).layers.map (fun r => sat 32 (r.window + 1)) ∧
        (getSlot t n).layers.map (·.layer) = (getSlot s n).layers.map (·.layer)) ∧
    (∀ (time layer : Nat) (s : State), slotLive (getSlot s 1) = false → slotLive (getSlot s 0) = true →
      (getSlot s 0).layers.any (fun r => r.layer == layer && !r.releasing.isEmpty) = true →
      exec (.seatRelease time layer) s = .next (exchanges 0 layer 5 (advance s time))) ∧
    (∀ (time n l : Nat) (w : AdapterVer) (rest : List Nat) (s : State), wantedVersion s n = some w →
      siteServes s w.site = true → ((List.range 40).filter (lineLoading s)).length < 2 →
      (List.range 40).filter (fun l => decide (tget ({} : Line) s.images.lines l = {}) &&
        !(s.serving.clears.contains (.adapterLine l)) && !(lineRetired s l)) = l :: rest →
      ∃ t, exec (.adapterLineLoad time n) s = .next t ∧
        tget ({} : Line) t.images.lines l =
          { tenant := n, version := w.index, lastUse := stamp (advance s time) } ∧
        (∀ k, k ≠ l → tget ({} : Line) t.images.lines k = tget {} s.images.lines k) ∧
        Only [.now, .images, .fabric] s t) ∧
    (∀ (time : Nat) (s : State), s.board.modReady = true → s.board.phase = .serving →
      shedding (advance s time) = false →
      exec (.admissionRound time) s =
        .next (round (8200 * ((s.serving.tenants.map (fun kv => kv.2.queue.length)).sum + 1)) (testLevels (advance s time)))) ∧
    (∀ (time : Nat) (s : State), s.board.modReady = true →
      (s.serving.parkLow ≤ freePages s → reservedPages s ≤ freePages s →
        ∃ t, exec (.autoPark time) s = .next t ∧ Only [.now, .serving] s t ∧ ∀ k, (getSession t k).parkSkip = false) ∧
      (freePages s < s.serving.parkLow → s.serving.parkLow ≤ s.serving.parkHigh → exec (.autoPark time) s =
        .next (parkOldest (max s.serving.parkHigh (reservedPages s)) (parkOrder s) (freePages s + clearingPages s) (advance s time))) ∧
      (s.serving.parkLow ≤ freePages s → freePages s < reservedPages s → exec (.autoPark time) s =
        .next (parkOldest (reservedPages s) (parkOrder s) (freePages s + clearingPages s) (advance s time)))) ∧
    (∀ (time k l p slot : Nat) (rest : List (Nat × Nat)) (more : List Nat) (s : State),
      (getSession s k).pages = (l, p) :: rest → (getSession s k).outbound = slot :: more →
      (getPage s p).state = .outbound → engaged (getSession s k) = false → (getSession s k).state = .parking →
      s.serving.steps.any (fun st => stepNames s st p) = false → (more = [] → rest = []) →
      ∃ t e, exec (.parkPageConfirm time k true) s = .next t ∧ (getSession t k).pages = rest ∧
        (getSession t k).parked = (getSession s k).parked ++ [e] ∧ e.logical = l ∧ e.slot = slot ∧
        e.version = s.serving.parkVersion + 1 ∧
        e.data = mcut s.vellum.mem (pageBase p) ((getPage s p).committed * positionBytes) ∧ t.serving.parkVersion = s.serving.parkVersion + 1 ∧
        t.serving.clears.contains (.page p) = true ∧ (rest = [] → (getSession t k).state = .parked)) ∧
    (∀ (time k : Nat) (e : ParkedPage) (rest : List ParkedPage) (s : State), (getSession s k).state = .unparking →
      (getSession s k).parked = e :: rest →
      (getSession (giveSessionPage (advance s time) k e.logical) k).pages.length ≠ (getSession s k).pages.length →
      ∃ t, exec (.unparkPageCheck time k .ok) s = .next t ∧ (getSession t k).parked = rest ∧
        (getSession t k).pages.length = (getSession s k).pages.length + 1 ∧
        (rest = [] → (getSession t k).state = (if engaged (getSession t k) then .turn else .idle))) ∧
    (∀ (time p d : Nat) (s : State), (getPartition s p).drainUntil = some d → d ≤ max s.now time →
      ∃ t, exec (.drainTimeout time p) s = .next t ∧
        getPartition t p = { getPartition s p with drainUntil := none } ∧
        (∀ q, q ≠ p → getPartition t q = getPartition s q) ∧ Only [.now, .serving] s t)

/-- The 512-bit word of a blotter entry carries INDEX, the two times, COUNT, CODE, SOURCE, CLASS, the four flags, STEP,
SESSION, TENANT, PARTITION, ADDRESS and AUX at the bits that R432 gives, all ones where a step or session is absent and 0xFF
where a partition is, and its two reserved fields read 0. -/
def Obligations.BlotterEntryLayout : Prop :=
  ∀ e : Entry, entryNat e < 2 ^ 512 ∧ entryNat e / 2 ^ 480 = e.index % 2 ^ 32 ∧
      entryNat e / 2 ^ 416 % 2 ^ 64 = e.firstTime % 2 ^ 64 ∧ entryNat e / 2 ^ 352 % 2 ^ 64 = e.lastTime % 2 ^ 64 ∧
      entryNat e / 2 ^ 336 % 2 ^ 16 = e.count % 2 ^ 16 ∧ entryNat e / 2 ^ 320 % 2 ^ 16 = e.report.code % 2 ^ 16 ∧
      entryNat e / 2 ^ 304 % 2 ^ 16 = e.report.source % 2 ^ 16 ∧ entryNat e / 2 ^ 300 % 2 ^ 4 = e.report.cls % 2 ^ 4 ∧
      (entryNat e).testBit 299 = e.coalesced ∧ (entryNat e).testBit 298 = e.uptime ∧
      (entryNat e).testBit 297 = e.active ∧ (entryNat e).testBit 296 = e.stop.isSome ∧
      entryNat e / 2 ^ 256 % 2 ^ 40 = 0 ∧
      entryNat e / 2 ^ 192 % 2 ^ 64 = (match e.report.step with | some n => n % 2 ^ 64 | none => 2 ^ 64 - 1) ∧
      entryNat e / 2 ^ 160 % 2 ^ 32 = (match e.report.session with | some n => n % 2 ^ 32 | none => 2 ^ 32 - 1) ∧
      entryNat e / 2 ^ 144 % 2 ^ 16 = e.report.tenant % 2 ^ 16 ∧
      entryNat e / 2 ^ 136 % 2 ^ 8 = (match e.report.partition with | some n => n % 2 ^ 8 | none => 0xFF) ∧
      entryNat e / 2 ^ 128 % 2 ^ 8 = 0 ∧ entryNat e / 2 ^ 64 % 2 ^ 64 = e.report.address % 2 ^ 64 ∧
      entryNat e % 2 ^ 64 = e.report.aux % 2 ^ 64

/-- The 32 bytes of a completion entry hold CID, SQ_HEAD, STATUS, the PHASE, EVENT and LATE_COMPLETION bits of byte 6 with
its other bits and byte 7 reading 0, TIME and RESULT at the places that R306 gives, each least significant byte first. -/
def Obligations.CompletionEntryLayout : Prop :=
  ∀ e : CqEntry, (cqBytes e).length = 32 ∧ leNat ((cqBytes e).take 2) = e.cid % 2 ^ 16 ∧
      leNat (((cqBytes e).drop 2).take 2) = e.sqHead % 2 ^ 16 ∧ leNat (((cqBytes e).drop 4).take 2) = e.status % 2 ^ 16 ∧
      leNat (((cqBytes e).drop 6).take 1) = bit e.phase + 2 * bit e.event + 4 * bit e.late ∧
      leNat (((cqBytes e).drop 7).take 1) = 0 ∧ leNat (((cqBytes e).drop 8).take 8) = e.time % 2 ^ 64 ∧
      leNat ((cqBytes e).drop 16) = e.result % 2 ^ 128

/-- Every record that RECORD_READ can answer has its kind's bytes. While the eight measurement registers stand, an
attestation report's body is 3,072 bytes for any function and nonce, and an offer's 1,792; the stop record's word has 512
bits and its bits [511:480] are SEQ. -/
def Obligations.RecordsKeepTheirSizes : Prop :=
  (∀ (s : State) (kind unit i n size : Nat), recordKind kind = some (n, size) → (recordBytes s kind unit i).length = size) ∧
    (∀ (s : State) (f : Nat) (nonce : BitVec 256), TrustSound s.trust → (attestBody s f nonce).length = 3072) ∧
    (∀ (s : State) (p k q : Nat), (offerBody s p k q).length = 1792) ∧
    (∀ r : StopRecord, stopNat r < 2 ^ 512 ∧ stopNat r / 2 ^ 480 = r.seq % 2 ^ 32 ∧
      stopNat r / 2 ^ 376 % 2 ^ 8 = r.type % 2 ^ 8 ∧ stopNat r / 2 ^ 352 % 2 ^ 16 = r.unit % 2 ^ 16)

/-- An event posted on the admin queue sets its bit in EVENT_CAUSE and clears none. EVENT_CAUSE_CLEAR that writes GOVERNOR
acknowledges every warning that is pending, so that those whose condition has ended are pending no more and ALERT_N is
released when none is left; one that does not write GOVERNOR acknowledges none, and only clears the bits written. -/
def Obligations.EventsAndAcknowledgement : Prop :=
  (∀ (s : State) (code detail : Nat),
      (postEvent s 0 code detail).link.eventCause = s.link.eventCause ||| causeBit code) ∧
    (∀ (time bits : Nat) (s : State), reachable s 0 = true → (BitVec.ofNat 5 bits).getLsbD 2 = true →
      ∃ t, exec (.eventCauseClear time bits) s = .next t ∧
        t.blotter.warnings = (s.blotter.warnings.filter (fun w => !w.ended)).map (fun w => { w with acked := true }) ∧
        t.link.eventCause = s.link.eventCause &&& ~~~ (BitVec.ofNat 5 bits) ∧
        ((∀ w ∈ s.blotter.warnings, w.ended = true) → pinAlertN t = false)) ∧
    (∀ (time bits : Nat) (s : State), reachable s 0 = true → (BitVec.ofNat 5 bits).getLsbD 2 = false →
      ∃ t, exec (.eventCauseClear time bits) s = .next t ∧ t.blotter = s.blotter ∧
        t.link.eventCause = s.link.eventCause &&& ~~~ (BitVec.ofNat 5 bits) ∧ pinAlertN t = pinAlertN s)

/-- WATCHDOG of a consumer whose island has no step in flight (it holds no descriptor, and every step in flight whose path
has the island has ended there) changes nothing but the time, whatever else it names and whatever steps other islands run.
-/
def Obligations.NoStepNoWatchdog : Prop :=
  ∀ (time consumer producer crossing : Nat) (same : Bool) (s : State), (getIsland s (clusterOf consumer)).desc = none →
      (∀ st ∈ s.serving.steps, (stepPath s st).contains (clusterOf consumer) = true → st.ended.contains (clusterOf consumer) = true) →
      exec (.watchdog time consumer producer crossing same) s = .next (advance s time)

/-- Token k of a Timed turn is due k − 1 inter-token times after the first, which is due TTFT after acceptance; a turn that
is not Timed gives every token its DEADLINE. TS_RECORD_WRITE of a token's record carries LATE exactly when the tick of the
write is later than the tick of the token's deadline. -/
def Obligations.DeadlinesAndLateTokens : Prop :=
  (∀ (u : Turn) (k : Nat), u.timed = true → deadlineOf u 1 = some (u.tAcc + u.ttft * 1000) ∧
      deadlineOf u (k + 2) = (deadlineOf u (k + 1)).map (fun d => d + u.itb * 1000)) ∧
    (∀ (u : Turn) (j k : Nat), u.timed = false → deadlineOf u j = deadlineOf u k ∧
      (u.ops.deadline ≠ 0 → deadlineOf u k = some u.ops.deadline)) ∧
    (∀ (time k x : Nat) (sp : Bool) (u : Turn) (rest : List Due) (s : State), (getSession s k).turn = some u →
      u.due = .token x sp :: rest → u.lateStop = false → u.stopAfter = none → submitHeld s k = false → (getQueue s u.func u.qp).active = true →
      (getQueue s u.func u.qp).enable = true → (getQueue s u.func u.qp).holding = [] →
      tsFits (getQueue s u.func u.qp) 1 = true →
      ∃ t late, exec (.tsRecordWrite time k) s = .next t ∧
        getQueue t u.func u.qp =
          pushTs (getQueue s u.func u.qp) (.token (stamp (advance s time)) k u.delivered x sp late) ∧
        (late = true ↔ ∃ d, deadlineOf u (u.delivered + 1) = some d ∧ d / 4 < max s.now time / 4))

/-- The values of N4 and N3 elements, in units of 2^-16: every N4 code has the value of its table, and an N3 element is its
sign and one of 0, 0.5, 1 and 2, with code 100 read as 0. -/
def Obligations.ElementFormats : Prop :=
  (List.range 16).map (elemVal .n4) =
      [0, 32768, 65536, 98304, 131072, 196608, 262144, 393216, 0, -32768, -65536, -98304, -131072, -196608, -262144,
        -393216].map some ∧
    (List.range 8).map (elemVal .n3) = [0, 32768, 65536, 131072, 0, -32768, -65536, -131072].map some

/-- A flagged read of a row with an open window of fewer than 64 requesters joins it. One with no such window, a 65th
requester among them, opens a window for the row while fewer than 8 are open in the slice; otherwise it is counted as
declined, no window changes, and its data is put in flight at once. -/
def Obligations.MergeEntries : Prop :=
  ∀ (s : State) (c : Nat) (a : Nat) (m : Member),
      (∀ w rest, takeFirst (joinable (Place.slice c a).row) (getIsland s c).windows = some (w, rest) →
        (getIsland (mergeRow s c (.slice c a) m []) c).windows = rest ++ [{ w with members := w.members ++ [m] }] ∧
          w.members.length + w.engines.length + 1 ≤ 64 ∧
          (getIsland (mergeRow s c (.slice c a) m []) c).net.mergedReads =
            sat 32 ((getIsland s c).net.mergedReads + 1)) ∧
      ((∀ w ∈ (getIsland s c).windows, w.row = (Place.slice c a).row → 64 ≤ w.members.length + w.engines.length) →
        (if ((getIsland s c).windows.filter (fun w => w.row / 2097152 == (Place.slice c a).row / 2097152)).length < 8 then
          ∃ w, (getIsland (mergeRow s c (.slice c a) m []) c).windows = (getIsland s c).windows ++ [w] ∧
            w.row = (Place.slice c a).row ∧ w.members = [m] ∧ w.engines = []
         else
          (getIsland (mergeRow s c (.slice c a) m []) c).windows = (getIsland s c).windows ∧
            (getIsland (mergeRow s c (.slice c a) m []) c).net.mergeDeclined =
              sat 32 ((getIsland s c).net.mergeDeclined + 1) ∧
            ((getIsland s (clusterOf m.tile)).fenced = false →
              ∃ x, (mergeRow s c (.slice c a) m []).fabric.inFlight = s.fabric.inFlight ++ [x] ∧ x.consumer = m.tile ∧
                x.crossing = m.crossing)))

/-- After reset MOD_EN is low and the module unpowered: no rails, no output driven, nothing ready, no command waiting or
under way, no session, page or step, every KV page FREE, the vellum and SRAM reading zero, and no stop record. The reset
values of registers for which the manual gives none are the model's choice (log entry 2). -/
def Obligations.ResetLeavesTheModuleDark : Prop :=
  State.reset.pending = [] ∧ State.reset.board.modEn = false ∧ State.reset.board.phase = .dark ∧
      State.reset.board.railsUp = false ∧ State.reset.board.outputsHeld = false ∧ pinModReady State.reset = false ∧
      pinFaultN State.reset = false ∧ pinAlertN State.reset = false ∧ State.reset.mailbox.fetched = [] ∧
      (∀ k, (getSession State.reset k).state = .free ∧ (getSession State.reset k).turn = none) ∧
      (∀ p, (getPage State.reset p).state = .free) ∧ State.reset.serving.steps = [] ∧
      (∀ a, mget State.reset.vellum.mem a = 0#8 ∧ mget State.reset.fabric.sram a = 0#8) ∧
      State.reset.nvm.stopRecords = [] ∧ (∀ f q, (getQueue State.reset f q).active = false)

/-- Each of these commands answers a next state with its own effect, under conditions on the state and its operands alone:
EXPORT_ENABLE and HOST_TIME_READ of HOST_TIME of a function that answers; REGISTER_WRITE of SIZES of a disabled queue pair
with the BARs where they were locked; BANK_WRITE of the named peer; EXPORT_WINDOW_READ of the control frame; MOD_EN_RISE
with MOD_EN low; DISCHARGE_DELAY_END once the second is over; MOD_EN_FALL with MOD_EN high; STRAP_SAMPLE of three equal
samples; FLOW_LOSS in service; FLOW_RESTORED; FEED_IN_USE at 48.0 to 58.0 V; FEED_LOST beside another feed; FEED_WARNING
between 46.0 and 48.0 V; FEED_WAIT_TIMEOUT after ten seconds; TOKEN_ARRIVAL of a transfer in flight to a fenced cluster;
SEND_ACK of a stalled producer; WATCHDOG of a watched consumer; FLIT_RETRY of a sublink; SUBLINK_OUT of a due sublink;
MERGE_WINDOW_CLOSE of an open window. -/
def Obligations.StartRegistersAndLinksComplete : Prop :=
  (∀ (time : Nat) (v : Bool) (s : State), reachable s 0 = true →
      ∃ t, exec (.exportEnable time v) s = .next t ∧ t.link.exportEnable = v) ∧
    (∀ (time f : Nat) (s : State), reachable s f = true →
      ∃ t, exec (.hostTimeRead time ⟨f, ⟨timeOffset f, 4⟩⟩) s = .next t ∧ t.link.timeRead = stamp (advance s time) % 2 ^ 32) ∧
    (∀ (time qp f v : Nat) (c : HostSet) (s : State), reachable s f = true → f ≠ 0 → qp < 8 → (getQueue s f qp).enable = false →
      (getFn s f).barPlace = c.place →
      ∃ t, exec (.registerWrite ⟨time, c⟩ f (0x118 + 0x40 * qp) 4 v) s = .next t ∧ (getQueue t f qp).sqLog2 = v % 256) ∧
    (∀ (peer v n : Nat) (f : FolioHead) (s : State), s.images.exported.slot = some n → (getSlot s n).head = some f →
      s.images.exported.peer = peer → v < fileBanks f →
      ∃ t, exec (.bankWrite peer (controlFrame + 0x32) 2 v) s = .next t ∧ t.images.exported.bank = v) ∧
    (∀ (time peer offset : Nat) (s : State), controlFrame ≤ offset →
      ∃ t n, exec (.exportWindowRead time peer offset) s = .next t ∧ t.link.windowRead = .control n ∧ Only [.now, .link] s t) ∧
    (∀ (time va vb : Nat) (s : State), s.board.modEn = false →
      ∃ t, exec (.modEnRise ⟨time, va, vb⟩) s = .next t ∧ t.board.modEn = true ∧ Only [.now, .board] s t) ∧
    (∀ (time f : Nat) (s : State), s.board.fellAt = some f → s.board.phase = .discharge →
      f + 1000000000 ≤ max s.now time →
      ∃ t, exec (.dischargeDelayEnd time) s = .next t ∧ t.board.phase = .straps ∧ Only [.now, .board] s t) ∧
    (∀ (time : Nat) (also : SameSample) (s : State), s.board.modEn = true →
      ∃ t, exec (.modEnFall time also) s = .next t ∧ t.board.modEn = false ∧ t.board.phase = .dark) ∧
    (∀ (time a : Nat) (s : State), s.board.phase = .straps →
      ∃ t, exec (.strapSample time a a a) s = .next t ∧ t.board.straps = BitVec.ofNat 6 a ∧ t.board.phase = .waiting) ∧
    (∀ (time : Nat) (also : SameSample) (s : State), s.board.phase = .serving →
      ∃ t, exec (.flowLoss time also) s = .next t ∧ t.board.phase = .stopped ∧ t.board.flowOk = false) ∧
    (∀ (time : Nat) (s : State),
      ∃ t, exec (.flowRestored time) s = .next t ∧ t.board.flowOk = true ∧ Only [.now, .board] s t) ∧
    (∀ (time k v : Nat) (s : State), k < 2 → 4800 ≤ v → v ≤ 5800 →
      ∃ t, exec (.feedInUse time k v) s = .next t ∧ (getFeed t k).inUse = true ∧ (getFeed t k).volts = v) ∧
    (∀ (time k v : Nat) (also : SameSample) (s : State), k < 2 → (getFeed s k).inUse = true → v < 4600 ∨ 6000 < v →
      also.bothFeeds = false → (getFeed s (1 - k)).inUse = true →
      ∃ t, exec (.feedLost time k v also) s = .next t ∧ (getFeed t k).inUse = false ∧
        getFeed t (1 - k) = getFeed s (1 - k)) ∧
    (∀ (time k v : Nat) (s : State), k < 2 → (getFeed s k).inUse = true → 4600 ≤ v → v < 4800 →
      ∃ t, exec (.feedWarning time k v) s = .next t ∧ (getFeed t k).inUse = true ∧ (getFeed t k).volts = v) ∧
    (∀ (time : Nat) (s : State), s.board.phase = .waiting → feedOn s = false → s.board.feedWaited = false →
      s.board.roseAt + 10000000000 ≤ max s.now time →
      ∃ t, exec (.feedWaitTimeout time) s = .next t ∧ t.board.feedWaited = true ∧ t.board.faultHold = true) ∧
    (∀ (consumer crossing n : Nat) (x : Transfer) (rest : List Transfer) (s : State),
      takeFirst (fun (t : Transfer) => t.consumer == consumer && t.crossing == crossing) s.fabric.inFlight =
        some (x, rest) → (getIsland s (clusterOf consumer)).fenced = true →
      ∃ t, exec (.tokenArrival consumer crossing n) s = .next t ∧ t.fabric.inFlight = rest ∧ Only [.fabric] s t) ∧
    (∀ (producer crossing n : Nat) (s : State), (getIsland s (clusterOf producer)).stalled = some crossing →
      (getIsland s (clusterOf producer)).heldPartial = none →
      ∃ t, exec (.sendAck producer ⟨crossing, n⟩) s = .next t ∧ (getIsland t (clusterOf producer)).stalled = none) ∧
    (∀ (time consumer producer crossing : Nat) (s : State), watching s consumer crossing = true →
      watchdogHeld s consumer = false → (getIsland s (clusterOf producer)).fenced = false →
      clusterOf consumer ≠ clusterOf producer →
      ∃ t, exec (.watchdog time consumer producer crossing false) s = .next t ∧
        (getIsland t (clusterOf consumer)).net.watchdogFires =
          sat 32 ((getIsland s (clusterOf consumer)).net.watchdogFires + 1)) ∧
    (∀ (time die dir sub : Nat) (s : State), (neighbour die dir).isSome = true → sub < 16 →
      ∃ t, exec (.flitRetry time die dir sub) s = .next t ∧
        (tget ({} : Edge) t.fabric.edges (linkKey die dir)).retries =
          (tget ({} : Edge) s.fabric.edges (linkKey die dir)).retries + 1) ∧
    (∀ (time die dir sub : Nat) (s : State), sub < 16 →
      (tget ({} : Edge) s.fabric.edges (linkKey die dir)).outDue.contains sub = true →
      ∃ t, exec (.sublinkOut time die dir sub) s = .next t ∧
        (tget ({} : Edge) t.fabric.edges (linkKey die dir)).bad.getLsbD sub = true) ∧
    (∀ (u row : Nat) (w : Window) (rest : List Window) (s : State),
      takeFirst (fun (x : Window) => x.row == row) (getIsland s u).windows = some (w, rest) →
      ∃ t, exec (.mergeWindowClose u row) s = .next t ∧ (getIsland t u).windows = rest ∧ Only [.fabric] s t)
end

