-- ==== Sys2Proof/Laws/Table.lean ====
section
/-! SUPPORT. What the sparse tables and byte memories do: a read after a write, and the canonical form that every
operation keeps. -/

namespace Sys2Proof.Laws

set_option Elab.async false

open Sys2Proof.Machine

variable {α : Type}

theorem tget_terase_same (d : α) (t : Table α) (k : Nat) : tget d (terase t k) k = d := by
  induction t with
  | nil => rfl
  | cons e t ih =>
    obtain ⟨k', v⟩ := e
    by_cases h : k' = k <;> simp [terase, tget, h, ih]

theorem tget_terase_ne (d : α) (t : Table α) {k j : Nat} (hj : j ≠ k) : tget d (terase t k) j = tget d t j := by
  induction t with
  | nil => rfl
  | cons e t ih =>
    obtain ⟨k', v⟩ := e
    by_cases h : k' = k
    · subst h
      simp [terase, tget, ih, Ne.symm hj]
    · simp [terase, tget, h, ih]

theorem tget_tins_same (d : α) (t : Table α) (k : Nat) (v : α) : tget d (tins t k v) k = v := by
  induction t with
  | nil => simp [tins, tget]
  | cons e t ih =>
    obtain ⟨k', v'⟩ := e
    unfold tins
    split
    · rename_i h
      simp [tget, ih, Nat.ne_of_lt h]
    · split <;> simp [tget]

theorem tget_tins_ne (d : α) (t : Table α) {k j : Nat} (v : α) (hj : j ≠ k) :
    tget d (tins t k v) j = tget d t j := by
  induction t with
  | nil => simp [tins, tget, Ne.symm hj]
  | cons e t ih =>
    obtain ⟨k', v'⟩ := e
    unfold tins
    split
    · simp [tget, ih]
    · split
      · rename_i h
        subst h
        simp [tget, Ne.symm hj]
      · simp [tget, Ne.symm hj]

variable [DecidableEq α]

/-- A read after a write at the same key. -/
@[simp] theorem tget_tput_same (d : α) (t : Table α) (k : Nat) (v : α) : tget d (tput d t k v) k = v := by
  unfold tput
  split
  · rename_i h
    rw [tget_terase_same, h]
  · exact tget_tins_same d t k v

/-- A write leaves every other key alone. -/
theorem tget_tput_ne (d : α) (t : Table α) {k j : Nat} (v : α) (hj : j ≠ k) :
    tget d (tput d t k v) j = tget d t j := by
  unfold tput
  split
  · exact tget_terase_ne d t hj
  · exact tget_tins_ne d t v hj

theorem tget_tput (d : α) (t : Table α) (k j : Nat) (v : α) :
    tget d (tput d t k v) j = if j = k then v else tget d t j := by
  split
  · rename_i h
    subst h
    exact tget_tput_same d t j v
  · rename_i h
    exact tget_tput_ne d t v h

/-! ## The canonical form -/

theorem twfFrom_weaken {d : α} {lo lo' : Nat} {t : Table α} (hlo : lo' ≤ lo) (h : twfFrom d lo t = true) :
    twfFrom d lo' t = true := by
  cases t with
  | nil => rfl
  | cons e t =>
    obtain ⟨k, v⟩ := e
    simp only [twfFrom, Bool.and_eq_true, decide_eq_true_eq] at h ⊢
    exact ⟨⟨Nat.le_trans hlo h.1.1, h.1.2⟩, h.2⟩

theorem twfFrom_terase {d : α} {lo : Nat} {t : Table α} (k : Nat) (h : twfFrom d lo t = true) :
    twfFrom d lo (terase t k) = true := by
  induction t generalizing lo with
  | nil => rfl
  | cons e t ih =>
    obtain ⟨k', v⟩ := e
    simp only [twfFrom, Bool.and_eq_true, decide_eq_true_eq] at h
    unfold terase
    split
    · exact twfFrom_weaken (by omega) (ih h.2)
    · simp only [twfFrom, Bool.and_eq_true, decide_eq_true_eq]
      exact ⟨h.1, ih h.2⟩

theorem twfFrom_tins {d : α} {lo k : Nat} {t : Table α} {v : α} (hk : lo ≤ k) (hv : v ≠ d)
    (h : twfFrom d lo t = true) : twfFrom d lo (tins t k v) = true := by
  induction t generalizing lo with
  | nil => simp [tins, twfFrom, hk, hv]
  | cons e t ih =>
    obtain ⟨k', v'⟩ := e
    simp only [twfFrom, Bool.and_eq_true, decide_eq_true_eq] at h
    unfold tins
    split
    · rename_i hlt
      simp only [twfFrom, Bool.and_eq_true, decide_eq_true_eq]
      exact ⟨h.1, ih hlt h.2⟩
    · split
      · rename_i he
        subst he
        simp only [twfFrom, Bool.and_eq_true, decide_eq_true_eq]
        exact ⟨⟨h.1.1, hv⟩, h.2⟩
      · simp only [twfFrom, Bool.and_eq_true, decide_eq_true_eq]
        exact ⟨⟨hk, hv⟩, ⟨by omega, h.1.2⟩, h.2⟩

/-- Writing keeps the canonical form. -/
theorem twf_tput {d : α} {t : Table α} (k : Nat) (v : α) (h : twf d t = true) : twf d (tput d t k v) = true := by
  unfold tput
  split
  · exact twfFrom_terase k h
  · rename_i hv
    exact twfFrom_tins (Nat.zero_le k) hv h

theorem twfFrom_filter {d : α} {lo : Nat} {t : Table α} (p : Nat × α → Bool) (h : twfFrom d lo t = true) :
    twfFrom d lo (t.filter p) = true := by
  induction t generalizing lo with
  | nil => rfl
  | cons e t ih =>
    obtain ⟨k', v⟩ := e
    simp only [twfFrom, Bool.and_eq_true, decide_eq_true_eq] at h
    by_cases hp : p (k', v) = true
    · rw [List.filter_cons_of_pos hp]
      simp only [twfFrom, Bool.and_eq_true, decide_eq_true_eq]
      exact ⟨h.1, ih h.2⟩
    · rw [List.filter_cons_of_neg hp]
      exact twfFrom_weaken (by omega) (ih h.2)

/-- Leaving entries out keeps the canonical form. -/
theorem twf_filter {d : α} {t : Table α} (p : Nat × α → Bool) (h : twf d t = true) : twf d (t.filter p) = true :=
  twfFrom_filter p h

theorem twf_foldl_tput {d : α} {β : Type} (key : β → Nat) (val : β → α) (l : List β) {t : Table α} (h : twf d t = true) :
    twf d (l.foldl (fun acc x => tput d acc (key x) (val x)) t) = true := by
  induction l generalizing t with
  | nil => exact h
  | cons x l ih => exact ih (twf_tput _ _ h)

/-- An update of every listed value keeps the canonical form. -/
theorem twf_tmap {d : α} (f : Nat → α → α) {t : Table α} (h : twf d t = true) : twf d (tmap d f t) = true :=
  twf_foldl_tput (fun kv : Nat × α => kv.1) (fun kv => f kv.1 kv.2) t h

/-! ## Byte memories -/

theorem mget_mput (m : Memory) (a b : Nat) (v : Byte) : mget (mput m a v) b = if b = a then v else mget m b :=
  tget_tput 0#8 m a b v

theorem mwf_mput {m : Memory} (a : Nat) (v : Byte) (h : mwf m = true) : mwf (mput m a v) = true := twf_tput a v h

/-- Writing bytes keeps the canonical form. -/
theorem mwf_mwrite {m : Memory} (a : Nat) (bs : List Byte) (h : mwf m = true) : mwf (mwrite m a bs) = true := by
  induction bs generalizing m a with
  | nil => exact h
  | cons b bs ih => exact ih (a + 1) (mwf_mput a b h)

/-- Clearing bytes keeps the canonical form. -/
theorem mwf_mclear {m : Memory} (a n : Nat) (h : mwf m = true) : mwf (mclear m a n) = true := twf_filter _ h

/-- Steps that each keep the canonical form keep it together. -/
theorem mwf_foldl {α : Type} {f : Memory → α → Memory} {l : List α} {m : Memory}
    (hf : ∀ m x, mwf m = true → mwf (f m x) = true) (h : mwf m = true) : mwf (l.foldl f m) = true := by
  induction l generalizing m with
  | nil => exact h
  | cons x l ih => exact ih (hf m x h)

/-- Writing a cut-out stretch elsewhere keeps the canonical form. -/
theorem mwf_mpaste {m : Memory} (a n : Nat) (c : Memory) (h : mwf m = true) : mwf (mpaste m a n c) = true :=
  mwf_foldl (fun _ _ hm => mwf_mput _ _ hm) (mwf_mclear a n h)

/-- A write of bytes leaves every byte below it alone. -/
theorem mget_mwrite_lt (m : Memory) (a b : Nat) (bs : List Byte) (h : b < a) : mget (mwrite m a bs) b = mget m b := by
  induction bs generalizing m a with
  | nil => rfl
  | cons v bs ih =>
    rw [mwrite, ih (mput m a v) (a + 1) (by omega), mget_mput, if_neg (by omega)]

/-- What a byte reads after bytes were written. -/
theorem mget_mwrite (m : Memory) (a b : Nat) (bs : List Byte) :
    mget (mwrite m a bs) b = if a ≤ b ∧ b < a + bs.length then bs.getD (b - a) 0 else mget m b := by
  induction bs generalizing m a with
  | nil => rw [if_neg (by simp only [List.length_nil]; omega)]; rfl
  | cons v bs ih =>
    rw [mwrite, ih]
    by_cases hb : b = a
    · subst hb
      rw [if_neg (by omega), mget_mput, if_pos rfl, if_pos (by simp only [List.length_cons]; omega)]
      simp
    · by_cases hc : a + 1 ≤ b ∧ b < a + 1 + bs.length
      · rw [if_pos hc, if_pos (by simp only [List.length_cons]; omega)]
        have : b - a = (b - (a + 1)) + 1 := by omega
        rw [this, List.getD_cons_succ]
      · rw [if_neg hc, mget_mput, if_neg hb, if_neg (by simp only [List.length_cons]; omega)]

end Sys2Proof.Laws
end

