-- ==== Sys2Proof/Laws/Kept.lean ====
section
/-! SUPPORT. What every function on states is shown to do: it changes no part beside those listed, host time does not fall, and
a sound state stays sound. How updates of the state keep that. -/

namespace Sys2Proof.Laws

set_option Elab.async false

open Sys2Proof Sys2Proof.Machine

/-! ## Lists of parts -/

/-- Every part of one list is in the other. -/
def Sub (P Q : List Part) : Prop := (P.all fun p => Q.contains p) = true

theorem Sub.up {P Q R : List Part} (h : Sub Q R := by assumption) (k : Sub P Q := by with_unfolding_all rfl) : Sub P R := by
  unfold Sub at *
  rw [List.all_eq_true] at *
  intro p hp
  have hq := k p hp
  rw [List.contains_iff_mem] at hq
  exact h p hq

theorem Sub.mem {P Q : List Part} {p : Part} (h : Sub P Q) (k : P.contains p = true) : p ∈ Q := by
  unfold Sub at h
  rw [List.all_eq_true] at h
  rw [List.contains_iff_mem] at k
  have hq := h p k
  rwa [List.contains_iff_mem] at hq

/-! ## The predicate -/

/-- From `z` to `s` no part changes but those listed, host time does not fall, and soundness is kept. -/
structure Held (ps : List Part) (z s : State) : Prop where
  only : Only ps z s
  time : z.now ≤ s.now
  sound : Sound z → Sound s

variable {pts : List Part} {z s : State}

theorem held_self (pts : List Part) (s : State) : Held pts s s := ⟨fun p _ => by cases p <;> rfl, Nat.le_refl _, fun h => h⟩

theorem Part.same_trans {a b c : State} (p : Part) (h1 : p.same a b) (h2 : p.same b c) : p.same a c := by
  cases p <;> exact h2.trans h1

theorem Only.trans {ps : List Part} {a b c : State} (h1 : Only ps a b) (h2 : Only ps b c) : Only ps a c :=
  fun p hp => Part.same_trans p (h1 p hp) (h2 p hp)

/-- What soundness says of the parts of the state. -/
theorem Sound.parts (h : Sound s) : NvmSound s.nvm ∧ mwf s.vellum.mem = true ∧ mwf s.fabric.sram = true ∧
    PowerSound s.power ∧ ThermalSound s.thermal ∧ BlotterSound s.blotter ∧ s.mgmt.inSecond ≤ 100 ∧
    TrustSound s.trust :=
  ⟨h.nvm, h.vellum, h.sram, h.power, h.thermal, h.blotter, h.events, h.trust⟩

/-- Each part of an update is listed, or as it was. -/
structure Listed (pts : List Part) (s : State) (free : Nat) (board : Board) (nvm : Nvm) (link : Link) (mailbox : Mailbox)
    (serving : Serving) (images : Images) (vellum : Vellum) (fabric : Fabric) (power : Power) (thermal : Thermal)
    (blotter : Blotter) (mgmt : Mgmt) (trust : Trust) (fw : Fw) (map : GoodMap) : Prop where
  h0 : Part.free ∈ pts ∨ free = s.free
  h1 : Part.board ∈ pts ∨ board = s.board
  h2 : Part.nvm ∈ pts ∨ nvm = s.nvm
  h3 : Part.link ∈ pts ∨ link = s.link
  h4 : Part.mailbox ∈ pts ∨ mailbox = s.mailbox
  h5 : Part.serving ∈ pts ∨ serving = s.serving
  h6 : Part.images ∈ pts ∨ images = s.images
  h7 : Part.vellum ∈ pts ∨ vellum = s.vellum
  h8 : Part.fabric ∈ pts ∨ fabric = s.fabric
  h9 : Part.power ∈ pts ∨ power = s.power
  h10 : Part.thermal ∈ pts ∨ thermal = s.thermal
  h11 : Part.blotter ∈ pts ∨ blotter = s.blotter
  h12 : Part.mgmt ∈ pts ∨ mgmt = s.mgmt
  h13 : Part.trust ∈ pts ∨ trust = s.trust
  h14 : Part.fw ∈ pts ∨ fw = s.fw
  h15 : Part.map ∈ pts ∨ map = s.map

theorem Listed.only {s : State} {free board nvm link mailbox serving images vellum fabric power thermal blotter mgmt trust fw
    map} (h : Listed pts s free board nvm link mailbox serving images vellum fabric power thermal blotter mgmt trust fw map) :
    Only pts s (State.mk s.pending s.now free board nvm link mailbox serving images vellum fabric power thermal blotter mgmt
      trust fw map) := by
  obtain ⟨h0, h1, h2, h3, h4, h5, h6, h7, h8, h9, h10, h11, h12, h13, h14, h15⟩ := h
  intro p hp
  cases p
  · exact rfl
  · exact rfl
  · exact h0.resolve_left hp
  · exact h1.resolve_left hp
  · exact h2.resolve_left hp
  · exact h3.resolve_left hp
  · exact h4.resolve_left hp
  · exact h5.resolve_left hp
  · exact h6.resolve_left hp
  · exact h7.resolve_left hp
  · exact h8.resolve_left hp
  · exact h9.resolve_left hp
  · exact h10.resolve_left hp
  · exact h11.resolve_left hp
  · exact h12.resolve_left hp
  · exact h13.resolve_left hp
  · exact h14.resolve_left hp
  · exact h15.resolve_left hp

/-- An update of any listed part, when the new parts are sound. -/
theorem held_set (h : Held pts z s) {free board nvm link mailbox serving images vellum fabric power thermal blotter mgmt trust
    fw map}
    (k : Sound s → NvmSound nvm ∧ mwf vellum.mem = true ∧ mwf fabric.sram = true ∧ PowerSound power ∧
      ThermalSound thermal ∧ BlotterSound blotter ∧ mgmt.inSecond ≤ 100 ∧ TrustSound trust)
    (o : Listed pts s free board nvm link mailbox serving images vellum fabric power thermal blotter mgmt trust fw map := by
      (constructor <;> first
        | with_reducible exact Or.inr rfl
        | with_unfolding_all exact Or.inl (Sub.mem (by assumption) rfl))) :
    Held pts z (State.mk s.pending s.now free board nvm link mailbox serving images vellum fabric power thermal blotter mgmt
      trust fw map) :=
  ⟨Only.trans h.only o.only, h.time, fun hz =>
    have w := k (h.sound hz)
    ⟨w.2.1, w.2.2.1, w.1, w.2.2.2.1, w.2.2.2.2.1, w.2.2.2.2.2.1, w.2.2.2.2.2.2.1, w.2.2.2.2.2.2.2⟩⟩

/-- An update of listed parts that soundness does not speak of. -/
theorem held_free (h : Held pts z s) {free board link mailbox serving images fw map}
    (o : Listed pts s free board s.nvm link mailbox serving images s.vellum s.fabric s.power s.thermal s.blotter s.mgmt
      s.trust fw map := by
      (constructor <;> first
        | with_reducible exact Or.inr rfl
        | with_unfolding_all exact Or.inl (Sub.mem (by assumption) rfl))) :
    Held pts z (State.mk s.pending s.now free board s.nvm link mailbox serving images s.vellum s.fabric s.power s.thermal
      s.blotter s.mgmt s.trust fw map) :=
  held_set h Sound.parts o

/-- What a meaning answers. -/
def OutHeld (pts : List Part) (z : State) (o : Host.Outcome State Fault Refusal) : Prop :=
  ∀ t, o = .next t → Held pts z t

theorem outHeld_next (h : Held pts z s) : OutHeld pts z (.next s) := by
  intro t ht
  cases ht
  exact h

theorem foldl_held {α : Type} {f : State → α → State} {l : List α} (hf : ∀ s x, Held pts z s → Held pts z (f s x))
    (h : Held pts z s) : Held pts z (l.foldl f s) := by
  induction l generalizing s with
  | nil => exact h
  | cons x l ih => exact ih (hf s x h)

end Sys2Proof.Laws
end

