-- ==== Sys2Proof/Laws/KeepOps.lean ====
section
/-! SUPPORT. What the functions of Machine/Ops.lean do, as Laws/Kept.lean says it: the parts that each one may change. -/

namespace Sys2Proof.Laws

set_option Elab.async false

open Sys2Proof Sys2Proof.Machine

variable {pts : List Part} {z : State}

theorem length_modWhere {α : Type} (p : α → Bool) (f : α → α) (l : List α) : (modWhere p f l).length = l.length := by
  simp [modWhere]

theorem mem_held {s : State} {v : Vellum} (hS : Held pts z s) (hv : mwf s.vellum.mem = true → mwf v.mem = true)
    (hp : Sub [.vellum] pts := by exact Sub.up) : Held pts z { s with vellum := v } :=
  held_set hS (fun hh => ⟨hh.nvm, hv hh.vellum, hh.sram, hh.power, hh.thermal,
    hh.blotter, hh.events, hh.trust⟩)

theorem sram_held {s : State} {v : Fabric} (hS : Held pts z s) (hv : mwf s.fabric.sram = true → mwf v.sram = true)
    (hp : Sub [.fabric] pts := by exact Sub.up) : Held pts z { s with fabric := v } :=
  held_set hS (fun hh => ⟨hh.nvm, hh.vellum, hv hh.sram, hh.power, hh.thermal,
    hh.blotter, hh.events, hh.trust⟩)

theorem nvmSound_reported {v w : Nvm} (h : NvmSound v)
    (hw : w = { v with stopRecords := v.stopRecords.map (fun r => { r with reported := true }) }) : NvmSound w := by
  subst hw
  refine ⟨by simpa using h.1, ?_, ?_, h.2.2.2⟩
  · show (v.stopRecords.map _).Pairwise _
    rw [List.pairwise_map]
    exact h.2.1
  · intro r hr
    obtain ⟨x, hx, rfl⟩ := List.mem_map.mp hr
    exact h.2.2.1 x hx

theorem powerSound_default : PowerSound {} := ⟨by decide, by decide, by decide, by decide⟩

theorem blotterSound_default : BlotterSound {} := ⟨by decide, by decide, by decide⟩

theorem trustSound_default {u o : Bool} : TrustSound { isUnsealed := u, stageOne := o } :=
  ⟨rfl, Nat.zero_le _⟩

theorem putQueue_held {s : State} {func : Nat} {qp : Nat} {q : Queue} (hS : Held pts z s)
    (hp : Sub [.mailbox] pts := by exact Sub.up) : Held pts z (putQueue s func qp q) := by
  unfold putQueue
  iterate 45 all_goals try first
    | with_reducible assumption
    | (intro x; clear_value x)
    | lift_lets
    | with_reducible refine held_free ?_

theorem putFn_held {s : State} {f : Nat} {v : Fn} (hS : Held pts z s) (hp : Sub [.link] pts := by exact Sub.up)
    : Held pts z (putFn s f v) := by
  unfold putFn
  iterate 45 all_goals try first
    | with_reducible assumption
    | (intro x; clear_value x)
    | lift_lets
    | with_reducible refine held_free ?_

theorem putPartition_held {s : State} {p : Nat} {v : Partition} (hS : Held pts z s)
    (hp : Sub [.serving] pts := by exact Sub.up) : Held pts z (putPartition s p v) := by
  unfold putPartition
  iterate 45 all_goals try first
    | with_reducible assumption
    | (intro x; clear_value x)
    | lift_lets
    | with_reducible refine held_free ?_

theorem putTenant_held {s : State} {t : Nat} {v : Tenant} (hS : Held pts z s) (hp : Sub [.serving] pts := by exact Sub.up)
    : Held pts z (putTenant s t v) := by
  unfold putTenant
  iterate 45 all_goals try first
    | with_reducible assumption
    | (intro x; clear_value x)
    | lift_lets
    | with_reducible refine held_free ?_

theorem putSession_held {s : State} {i : Nat} {v : Session} (hS : Held pts z s)
    (hp : Sub [.serving] pts := by exact Sub.up) : Held pts z (putSession s i v) := by
  unfold putSession
  iterate 45 all_goals try first
    | with_reducible assumption
    | (intro x; clear_value x)
    | lift_lets
    | with_reducible refine held_free ?_

theorem putPfx_held {s : State} {i : Nat} {v : Pfx} (hS : Held pts z s) (hp : Sub [.serving] pts := by exact Sub.up)
    : Held pts z (putPfx s i v) := by
  unfold putPfx
  iterate 45 all_goals try first
    | with_reducible assumption
    | (intro x; clear_value x)
    | lift_lets
    | with_reducible refine held_free ?_

theorem putPage_held {s : State} {p : Nat} {v : Page} (hS : Held pts z s) (hp : Sub [.vellum] pts := by exact Sub.up)
    : Held pts z (putPage s p v) := by
  unfold putPage
  iterate 45 all_goals try first
    | with_reducible assumption
    | (intro x; have hx : Vellum := x; clear hx; subst x)
    | lift_lets
    | ((with_reducible refine held_set ?_ ?_); rotate_left; exact Sound.parts)

theorem putSite_held {s : State} {d : Nat} {v : Site} (hS : Held pts z s) (hp : Sub [.vellum] pts := by exact Sub.up)
    : Held pts z (putSite s d v) := by
  unfold putSite
  iterate 45 all_goals try first
    | with_reducible assumption
    | (intro x; have hx : Vellum := x; clear hx; subst x)
    | lift_lets
    | ((with_reducible refine held_set ?_ ?_); rotate_left; exact Sound.parts)

theorem putIsland_held {s : State} {u : Nat} {v : Island} (hS : Held pts z s) (hp : Sub [.fabric] pts := by exact Sub.up)
    : Held pts z (putIsland s u v) := by
  unfold putIsland
  iterate 45 all_goals try first
    | with_reducible assumption
    | (intro x; have hx : Fabric := x; clear hx; subst x)
    | lift_lets
    | ((with_reducible refine held_set ?_ ?_); rotate_left; exact Sound.parts)

theorem putTile_held {s : State} {u : Nat} {v : Tile} (hS : Held pts z s) (hp : Sub [.fabric] pts := by exact Sub.up)
    : Held pts z (putTile s u v) := by
  unfold putTile
  iterate 45 all_goals try first
    | with_reducible assumption
    | (intro x; have hx : Fabric := x; clear hx; subst x)
    | lift_lets
    | ((with_reducible refine held_set ?_ ?_); rotate_left; exact Sound.parts)

theorem putCart_held {s : State} {c : Nat} {v : Cartridge} (hS : Held pts z s) (hp : Sub [.board] pts := by exact Sub.up)
    : Held pts z (putCart s c v) := by
  unfold putCart
  iterate 45 all_goals try first
    | with_reducible assumption
    | (intro x; clear_value x)
    | lift_lets
    | with_reducible refine held_free ?_

theorem putPair_held {s : State} {u : Nat} {v : Pair} (hS : Held pts z s) (hp : Sub [.thermal] pts := by exact Sub.up)
    : Held pts z (putPair s u v) :=
  held_set hS (fun hh => ⟨hh.nvm, hh.vellum, hh.sram, hh.power, ⟨hh.thermal.1, twf_tput _ _ hh.thermal.2⟩,
    hh.blotter, hh.events, hh.trust⟩)

theorem putSlot_held {s : State} {n : Nat} {v : Slot} (hS : Held pts z s) (hp : Sub [.images] pts := by exact Sub.up)
    : Held pts z (putSlot s n v) := by
  unfold putSlot
  iterate 45 all_goals try first
    | with_reducible assumption
    | (intro x; clear_value x)
    | lift_lets
    | split
    | with_reducible refine held_free ?_

theorem advance_held {s : State} {t : Nat} (h : Held pts z s) (hp : Sub [.now] pts := by exact Sub.up)
    : Held pts z (advance s t) :=
  ⟨Only.trans h.only (fun p hn => by cases p <;> first | exact absurd (Sub.mem hp rfl) hn | exact rfl),
    Nat.le_trans h.time (Nat.le_max_left _ _), fun hz =>
    have w := h.sound hz
    ⟨w.vellum, w.sram, w.nvm, w.power, w.thermal, w.blotter, w.events, w.trust⟩⟩

theorem drewFree_held {s : State} (hS : Held pts z s) (hp : Sub [.free] pts := by exact Sub.up) : Held pts z (drewFree s) := by
  unfold drewFree
  iterate 45 all_goals try first
    | with_reducible assumption
    | with_reducible refine held_free ?_

theorem drewKeys_held {s : State} {n : Nat} (hS : Held pts z s) (hp : Sub [.free] pts := by exact Sub.up)
    : Held pts z (drewKeys s n) := by
  unfold drewKeys
  iterate 45 all_goals try first
    | with_reducible assumption
    | with_reducible refine held_free ?_

theorem wantVector_held {s : State} {func : Nat} {vec : Nat} (hS : Held pts z s) (hp : Sub [.link] pts := by exact Sub.up)
    : Held pts z (wantVector s func vec) := by
  unfold wantVector
  iterate 45 all_goals try first
    | with_reducible assumption
    | with_reducible refine putFn_held ?_
    | (intro x; clear_value x)
    | lift_lets
    | split

theorem backlogAdd_held {s : State} {func : Nat} {e : Event} (hS : Held pts z s)
    (hp : Sub [.mailbox] pts := by exact Sub.up) : Held pts z (backlogAdd s func e) := by
  unfold backlogAdd
  iterate 45 all_goals try first
    | with_reducible assumption
    | (intro x; clear_value x)
    | lift_lets
    | split
    | with_reducible refine held_free ?_

theorem raiseCause_held {s : State} {code : Nat} (hS : Held pts z s) (hp : Sub [.link] pts := by exact Sub.up)
    : Held pts z (raiseCause s code) := by
  unfold raiseCause
  iterate 45 all_goals try first
    | with_reducible assumption
    | with_reducible refine wantVector_held ?_
    | (intro x; first
        | (refine (fun (hx : Held pts z x) => ?_) ?_ <;> [clear_value x; subst x])
        | clear_value x)
    | lift_lets
    | split
    | with_reducible refine held_free ?_

theorem postEvent_held {s : State} {func : Nat} {code : Nat} {detail : Nat} (hS : Held pts z s)
    (hp : Sub [.link, .mailbox] pts := by exact Sub.up) : Held pts z (postEvent s func code detail) := by
  unfold postEvent
  iterate 45 all_goals try first
    | with_reducible assumption
    | with_reducible refine putQueue_held ?_
    | with_reducible refine wantVector_held ?_
    | with_reducible refine backlogAdd_held ?_
    | with_reducible refine raiseCause_held ?_
    | (intro x; first
        | (refine (fun (hx : Held pts z x) => ?_) ?_ <;> [clear_value x; subst x])
        | clear_value x)
    | lift_lets
    | split

theorem keepRing_le (l : List Entry) : ((keepRing l).map entrySize).sum ≤ 8128 := by
  induction l with
  | nil => simp [keepRing]
  | cons e l ih =>
    unfold keepRing
    split
    · assumption
    · exact ih

theorem tellMgmt_inSecond (m : Mgmt) (e : Entry) : (tellMgmt m e).inSecond = m.inSecond := by
  unfold tellMgmt
  split <;> rfl

theorem writeEntry_held {s : State} {e : Entry} (h : Held pts z s) (hp : Sub [.blotter, .mgmt] pts := by exact Sub.up)
    : Held pts z (writeEntry s e) := by
  unfold writeEntry
  refine held_set h (fun hh => ⟨hh.nvm, hh.vellum, hh.sram, hh.power, hh.thermal,
    ⟨keepRing_le _, hh.blotter.2⟩, ?_, hh.trust⟩)
  rw [tellMgmt_inSecond]
  exact hh.events

theorem writeStopEntry_held {s : State} {r : StopRecord} (h : Held pts z s)
    (hp : Sub [.link, .mailbox, .blotter, .mgmt] pts := by exact Sub.up) : Held pts z (writeStopEntry s r) := by
  unfold writeStopEntry
  lift_lets
  intro bad rep e s1
  refine wantVector_held (postEvent_held ?_)
  exact held_set h (fun hh => ⟨hh.nvm, hh.vellum, hh.sram, hh.power, hh.thermal,
    ⟨keepRing_le _, hh.blotter.2⟩, hh.events, hh.trust⟩)

theorem blotter_held {s : State} {b : Blotter} (h : Held pts z s) (hb : BlotterSound s.blotter → BlotterSound b)
    (hp : Sub [.blotter] pts := by exact Sub.up) : Held pts z { s with blotter := b } :=
  held_set h (fun hh => ⟨hh.nvm, hh.vellum, hh.sram, hh.power, hh.thermal,
    hb hh.blotter, hh.events, hh.trust⟩)

theorem reportPlain_held {s : State} {r : Report} (h : Held pts z s) (hp : Sub [.blotter, .mgmt] pts := by exact Sub.up)
    : Held pts z (reportPlain s r) := by
  unfold reportPlain
  extract_lets held b0 lostOne s1 isKey bump b1 e1 s2
  have h1 : Held pts z s1 := blotter_held h (fun hb => hb)
  split
  · exact blotter_held h (fun hb => hb)
  · split
    · split
      · exact blotter_held h1 (fun hb => ⟨hb.1, hb.2.1, by rw [length_modWhere]; exact hb.2.2⟩)
      · split
        · rename_i hk
          exact blotter_held h1 (fun hb => ⟨hb.1, hb.2.1, by rw [List.length_append]; exact hk⟩)
        · exact blotter_held h1 (fun hb => hb)
    · exact writeEntry_held (blotter_held h (fun hb => hb))

theorem fatalReached_held {s : State} (hS : Held pts z s) (hp : Sub [.link] pts := by exact Sub.up)
    : Held pts z (fatalReached s) := by
  unfold fatalReached
  iterate 45 all_goals try first
    | with_reducible assumption
    | with_reducible refine wantVector_held ?_
    | with_reducible refine raiseCause_held ?_

theorem reportFatal_held {s : State} {r : Report} {active : Bool} (h : Held pts z s)
    (hp : Sub [.link, .mailbox, .blotter, .mgmt] pts := by exact Sub.up) : Held pts z (reportFatal s r active) := by
  unfold reportFatal
  extract_lets same bump r1 e s1
  split
  · exact fatalReached_held (blotter_held h (fun hb => ⟨hb.1, by rw [length_modWhere]; exact hb.2.1, hb.2.2⟩))
  · split
    · refine fatalReached_held (blotter_held h (fun hb => ⟨hb.1, ?_, hb.2.2⟩))
      have := hb.2.1
      simp only [List.length_append, List.length_take, List.length_map, List.length_drop]
      omega
    · rename_i hn
      refine wantVector_held (postEvent_held (held_set h (fun hh => ⟨hh.nvm, hh.vellum, hh.sram,
        hh.power, hh.thermal, ⟨hh.blotter.1, ?_, hh.blotter.2.2⟩, hh.events,
        hh.trust⟩)))
      rw [List.length_append, List.length_singleton]
      omega

theorem report_held {s : State} {r : Report} (hS : Held pts z s)
    (hp : Sub [.link, .mailbox, .blotter, .mgmt] pts := by exact Sub.up) : Held pts z (report s r) := by
  unfold report
  iterate 45 all_goals try first
    | with_reducible assumption
    | with_reducible refine reportPlain_held ?_
    | with_reducible refine reportFatal_held ?_
    | split

theorem note_held {s : State} {code : Nat} {cls : Nat} {source : Nat} {address : Nat} {aux : Nat} (hS : Held pts z s)
    (hp : Sub [.link, .mailbox, .blotter, .mgmt] pts := by exact Sub.up) : Held pts z (note s code cls source address aux) := by
  unfold note
  iterate 45 all_goals try first
    | with_reducible assumption
    | with_reducible refine report_held ?_

theorem warn_held {s : State} {cause : Nat} {unit : Nat} (hS : Held pts z s)
    (hp : Sub [.board, .link, .mailbox, .blotter] pts := by exact Sub.up) : Held pts z (warn s cause unit) := by
  unfold warn
  iterate 45 all_goals try first
    | with_reducible assumption
    | with_reducible refine wantVector_held ?_
    | with_reducible refine postEvent_held ?_
    | (intro x; first
        | (refine (fun (hx : Held pts z x) => ?_) ?_ <;> [clear_value x; subst x])
        | (have hx : Blotter := x; clear hx; subst x)
        | clear_value x)
    | lift_lets
    | split
    | ((with_reducible refine held_set ?_ ?_); rotate_left; exact Sound.parts)

theorem endWarning_held {s : State} {cause : Nat} {unit : Nat} (hS : Held pts z s)
    (hp : Sub [.blotter] pts := by exact Sub.up) : Held pts z (endWarning s cause unit) := by
  unfold endWarning
  iterate 45 all_goals try first
    | with_reducible assumption
    | (intro x; first
        | (have hx : Blotter := x; clear hx; subst x)
        | clear_value x)
    | lift_lets
    | ((with_reducible refine held_set ?_ ?_); rotate_left; exact Sound.parts)

theorem ackWarnings_held {s : State} (hS : Held pts z s) (hp : Sub [.blotter] pts := by exact Sub.up)
    : Held pts z (ackWarnings s) := by
  unfold ackWarnings
  iterate 45 all_goals try first
    | with_reducible assumption
    | (intro x; first
        | (have hx : Blotter := x; clear hx; subst x)
        | clear_value x)
    | lift_lets
    | ((with_reducible refine held_set ?_ ?_); rotate_left; exact Sound.parts)

theorem length_keepLast {α : Type} (n : Nat) (l : List α) : (keepLast n l).length ≤ n := by
  unfold keepLast
  rw [List.length_drop]
  omega

theorem keepLast_sublist {α : Type} (n : Nat) (l : List α) : (keepLast n l).Sublist l := List.drop_sublist _ _

theorem addStop_held {s : State} {r : StopRecord} (hr : r.seq = s.nvm.stopSeq + 1) (h : Held pts z s)
    (hp : Sub [.nvm] pts := by exact Sub.up) : Held pts z (addStop s r) := by
  unfold addStop
  have h1 := length_keepLast 1024 (s.nvm.stopRecords ++ [r])
  have h2 := keepLast_sublist 1024 (s.nvm.stopRecords ++ [r])
  generalize keepLast 1024 (s.nvm.stopRecords ++ [r]) = l at h1 h2 ⊢
  refine held_set h (fun hh => ⟨⟨h1, ?_, ?_, hh.nvm.2.2.2⟩, hh.vellum, hh.sram,
    hh.power, hh.thermal, hh.blotter, hh.events, hh.trust⟩)
  · refine List.Pairwise.sublist h2 ?_
    rw [List.pairwise_append]
    refine ⟨hh.nvm.2.1, List.pairwise_singleton _ _, ?_⟩
    intro a ha b hb
    rw [List.mem_singleton] at hb
    subst hb
    have := hh.nvm.2.2.1 a ha
    omega
  · intro a ha
    have ha := h2.subset ha
    rw [List.mem_append, List.mem_singleton] at ha
    rcases ha with ha | ha
    · have := hh.nvm.2.2.1 a ha
      show a.seq ≤ r.seq
      omega
    · rw [ha]

theorem writeStop_held {s : State} {type also : Nat} (h : Held pts z s) (hp : Sub [.nvm] pts := by exact Sub.up)
    : Held pts z (writeStop s type also) :=
  addStop_held rfl h

theorem deliverCq_held {s : State} {func : Nat} {qp : Nat} {e : CqEntry} (hS : Held pts z s)
    (hp : Sub [.link, .mailbox] pts := by exact Sub.up) : Held pts z (deliverCq s func qp e) := by
  unfold deliverCq
  iterate 45 all_goals try first
    | with_reducible assumption
    | with_reducible refine putQueue_held ?_
    | with_reducible refine wantVector_held ?_
    | (intro x; clear_value x)
    | lift_lets
    | split

theorem dropFetched_held {s : State} {func : Nat} {qp : Nat} {cid : Nat} (hS : Held pts z s)
    (hp : Sub [.mailbox] pts := by exact Sub.up) : Held pts z (dropFetched s func qp cid) := by
  unfold dropFetched
  iterate 45 all_goals try first
    | with_reducible assumption
    | (intro x; clear_value x)
    | lift_lets
    | with_reducible refine held_free ?_

theorem completeAt_held {s : State} {func : Nat} {qp : Nat} {cid : Nat} {status : Nat} {result : Nat} {data : List Byte}
    (hS : Held pts z s) (hp : Sub [.link, .mailbox, .blotter, .mgmt] pts := by exact Sub.up)
    : Held pts z (completeAt s func qp cid status result data) := by
  unfold completeAt
  iterate 45 all_goals try first
    | with_reducible assumption
    | with_reducible refine note_held ?_
    | with_reducible refine deliverCq_held ?_
    | with_reducible refine dropFetched_held ?_
    | (intro x; first
        | (refine (fun (hx : Held pts z x) => ?_) ?_ <;> [clear_value x; subst x])
        | clear_value x)
    | lift_lets
    | split

theorem complete_held {s : State} {h : Hdr} {status : Nat} {result : Nat} {data : List Byte} (hS : Held pts z s)
    (hp : Sub [.link, .mailbox, .blotter, .mgmt] pts := by exact Sub.up) : Held pts z (complete s h status result data) := by
  unfold complete
  iterate 45 all_goals try first
    | with_reducible assumption
    | with_reducible refine completeAt_held ?_

theorem answerCid_held {s : State} {func : Nat} {qp : Nat} {cid : Nat} {status : Nat} (hS : Held pts z s)
    (hp : Sub [.link, .mailbox] pts := by exact Sub.up) : Held pts z (answerCid s func qp cid status) := by
  unfold answerCid
  iterate 45 all_goals try first
    | with_reducible assumption
    | with_reducible refine deliverCq_held ?_

theorem done_held {s : State} {h : Hdr} {result : Nat} (hS : Held pts z s)
    (hp : Sub [.link, .mailbox, .blotter, .mgmt] pts := by exact Sub.up) : Held pts z (done s h result) := by
  unfold done
  iterate 45 all_goals try first
    | with_reducible assumption
    | with_reducible refine complete_held ?_

theorem refuse_held {s : State} {h : Hdr} {status : Nat} (hS : Held pts z s)
    (hp : Sub [.link, .mailbox, .blotter, .mgmt] pts := by exact Sub.up) : Held pts z (refuse s h status) := by
  unfold refuse
  iterate 45 all_goals try first
    | with_reducible assumption
    | with_reducible refine complete_held ?_

theorem startLater_held {s : State} {h : Hdr} {op : Opcode} {arg : Nat} (hS : Held pts z s)
    (hp : Sub [.mailbox] pts := by exact Sub.up) : Held pts z (startLater s h op arg) := by
  unfold startLater
  iterate 45 all_goals try first
    | with_reducible assumption
    | with_reducible refine dropFetched_held ?_
    | (intro x; first
        | (refine (fun (hx : Held pts z x) => ?_) ?_ <;> [clear_value x; subst x])
        | clear_value x)
    | lift_lets
    | split
    | with_reducible refine held_free ?_

theorem notIdle_held {s : State} (hS : Held pts z s) (hp : Sub [.power] pts := by exact Sub.up) : Held pts z (notIdle s) := by
  unfold notIdle
  iterate 45 all_goals try first
    | with_reducible assumption
    | (intro x; have hx : Power := x; clear hx; subst x)
    | lift_lets
    | ((with_reducible refine held_set ?_ ?_); rotate_left; exact Sound.parts)

theorem answerWith_held {s : State} {h : Hdr} {op : Opcode} {session : Nat} {status : Nat} {result : Nat}
    {data : List Byte} (hS : Held pts z s) (hp : Sub [.link, .mailbox, .blotter, .mgmt] pts := by exact Sub.up)
    : Held pts z (answerWith s h op session status result data) := by
  unfold answerWith
  iterate 45 all_goals try first
    | with_reducible assumption
    | with_reducible refine complete_held ?_
    | with_reducible refine startLater_held ?_
    | (intro x; first
        | (refine (fun (hx : Held pts z x) => ?_) ?_ <;> [clear_value x; subst x])
        | clear_value x)
    | lift_lets
    | split
    | with_reducible refine held_free ?_

theorem answerFor_held {s : State} {h : Hdr} {op : Opcode} {session : Nat} {status : Nat} {result : Nat}
    (hS : Held pts z s) (hp : Sub [.link, .mailbox, .blotter, .mgmt] pts := by exact Sub.up)
    : Held pts z (answerFor s h op session status result) := by
  unfold answerFor
  iterate 45 all_goals try first
    | with_reducible assumption
    | with_reducible refine answerWith_held ?_

theorem releaseAnswers_held {s : State} {func : Nat} {qp : Nat} {session : Nat} (hS : Held pts z s)
    (hp : Sub [.link, .mailbox, .blotter, .mgmt] pts := by exact Sub.up) : Held pts z (releaseAnswers s func qp session) := by
  unfold releaseAnswers
  iterate 45 all_goals try first
    | with_reducible assumption
    | with_reducible refine completeAt_held ?_
    | with_reducible refine foldl_held (fun _ _ _ => ?_) ?_
    | lift_lets
    | split

theorem completeStarted_held {s : State} {opcode : Nat} {arg : Nat} {status : Nat} {result : Nat} (hS : Held pts z s)
    (hp : Sub [.link, .mailbox, .power, .blotter, .mgmt] pts := by exact Sub.up)
    : Held pts z (completeStarted s opcode arg status result) := by
  unfold completeStarted
  iterate 45 all_goals try first
    | with_reducible assumption
    | with_reducible refine completeAt_held ?_
    | with_reducible refine notIdle_held ?_
    | with_reducible refine releaseAnswers_held ?_
    | (intro x; refine (fun (hx : Held pts z x) => ?_) ?_ <;> [clear_value x; subst x])
    | lift_lets
    | split

theorem runCommand_held {s : State} {hd : Hdr} {op : Opcode} {invalid : Bool} {body : State → State}
    (hb : ∀ s, invalid = false → Held pts z s → Held pts z (body s)) (h : Held pts z s)
    (hp : Sub [.now, .link, .mailbox, .blotter, .mgmt] pts := by exact Sub.up)
    : Held pts z (runCommand s hd op invalid body) := by
  unfold runCommand
  lift_lets
  intro s1
  have h1 : Held pts z s1 := advance_held h
  clear_value s1
  split
  · split
    · split
      · exact answerCid_held h1
      · exact refuse_held h1
    · split
      · exact refuse_held h1
      · exact hb _ (by simpa using ‹¬invalid = true›) h1
  · exact h1

theorem runVf_held {s : State} {hd : Hdr} {op : Opcode} {invalid : Bool} {body : State → State}
    (hb : ∀ s, invalid = false → Held pts z s → Held pts z (body s)) (h : Held pts z s)
    (hp : Sub [.now, .link, .mailbox, .blotter, .mgmt] pts := by exact Sub.up) : Held pts z (runVf s hd op invalid body) := by
  unfold runVf
  refine runCommand_held (fun s1 hi h1 => ?_) h
  lift_lets
  intro p
  split
  · exact refuse_held h1
  · split
    · exact refuse_held h1
    · exact hb _ hi h1

theorem runNamed_held {s : State} {hd : Hdr} {op : Opcode} {session : Nat} {invalid : Bool} {body : State → State}
    (hb : ∀ s, invalid = false → Held pts z s → Held pts z (body s)) (h : Held pts z s)
    (hp : Sub [.now, .link, .mailbox, .blotter, .mgmt] pts := by exact Sub.up)
    : Held pts z (runNamed s hd op session invalid body) := by
  unfold runNamed
  lift_lets
  intro s1
  have h1 : Held pts z s1 := advance_held h
  clear_value s1
  split
  · split
    · split
      · exact answerCid_held h1
      · exact answerFor_held h1
    · split
      · exact answerFor_held h1
      · exact hb _ (by simpa using ‹¬invalid = true›) h1
  · exact h1

theorem runSession_held {s : State} {hd : Hdr} {op : Opcode} {session : Nat} {invalid : Bool} {body : State → State}
    (hb : ∀ s, invalid = false → Held pts z s → Held pts z (body s)) (h : Held pts z s)
    (hp : Sub [.now, .link, .mailbox, .blotter, .mgmt] pts := by exact Sub.up)
    : Held pts z (runSession s hd op session invalid body) := by
  unfold runSession
  refine runNamed_held (fun s1 hi h1 => ?_) h
  lift_lets
  intro p
  split
  · exact answerFor_held h1
  · split
    · exact answerFor_held h1
    · exact hb _ hi h1

end Sys2Proof.Laws
end

