-- ==== Sys2Proof/Laws/State.lean ====
section
/-! SUPPORT. What the named updates of the state do to each of its parts, and a read after a write of each of its tables. -/

namespace Sys2Proof.Laws

set_option Elab.async false

open Sys2Proof Sys2Proof.Machine

variable (s : State)

@[simp] theorem putQueue_pending (func qp : Nat) (v : Queue) : (putQueue s func qp v).pending = s.pending := rfl
@[simp] theorem putQueue_now (func qp : Nat) (v : Queue) : (putQueue s func qp v).now = s.now := rfl
@[simp] theorem putQueue_free (func qp : Nat) (v : Queue) : (putQueue s func qp v).free = s.free := rfl
@[simp] theorem putQueue_board (func qp : Nat) (v : Queue) : (putQueue s func qp v).board = s.board := rfl
@[simp] theorem putQueue_nvm (func qp : Nat) (v : Queue) : (putQueue s func qp v).nvm = s.nvm := rfl
@[simp] theorem putQueue_link (func qp : Nat) (v : Queue) : (putQueue s func qp v).link = s.link := rfl
@[simp] theorem putQueue_serving (func qp : Nat) (v : Queue) : (putQueue s func qp v).serving = s.serving := rfl
@[simp] theorem putQueue_images (func qp : Nat) (v : Queue) : (putQueue s func qp v).images = s.images := rfl
@[simp] theorem putQueue_vellum (func qp : Nat) (v : Queue) : (putQueue s func qp v).vellum = s.vellum := rfl
@[simp] theorem putQueue_fabric (func qp : Nat) (v : Queue) : (putQueue s func qp v).fabric = s.fabric := rfl
@[simp] theorem putQueue_power (func qp : Nat) (v : Queue) : (putQueue s func qp v).power = s.power := rfl
@[simp] theorem putQueue_thermal (func qp : Nat) (v : Queue) : (putQueue s func qp v).thermal = s.thermal := rfl
@[simp] theorem putQueue_blotter (func qp : Nat) (v : Queue) : (putQueue s func qp v).blotter = s.blotter := rfl
@[simp] theorem putQueue_mgmt (func qp : Nat) (v : Queue) : (putQueue s func qp v).mgmt = s.mgmt := rfl
@[simp] theorem putQueue_trust (func qp : Nat) (v : Queue) : (putQueue s func qp v).trust = s.trust := rfl
@[simp] theorem putQueue_fw (func qp : Nat) (v : Queue) : (putQueue s func qp v).fw = s.fw := rfl
@[simp] theorem putQueue_map (func qp : Nat) (v : Queue) : (putQueue s func qp v).map = s.map := rfl

@[simp] theorem putFn_pending (k : Nat) (v : Fn) : (putFn s k v).pending = s.pending := rfl
@[simp] theorem putFn_now (k : Nat) (v : Fn) : (putFn s k v).now = s.now := rfl
@[simp] theorem putFn_free (k : Nat) (v : Fn) : (putFn s k v).free = s.free := rfl
@[simp] theorem putFn_board (k : Nat) (v : Fn) : (putFn s k v).board = s.board := rfl
@[simp] theorem putFn_nvm (k : Nat) (v : Fn) : (putFn s k v).nvm = s.nvm := rfl
@[simp] theorem putFn_mailbox (k : Nat) (v : Fn) : (putFn s k v).mailbox = s.mailbox := rfl
@[simp] theorem putFn_serving (k : Nat) (v : Fn) : (putFn s k v).serving = s.serving := rfl
@[simp] theorem putFn_images (k : Nat) (v : Fn) : (putFn s k v).images = s.images := rfl
@[simp] theorem putFn_vellum (k : Nat) (v : Fn) : (putFn s k v).vellum = s.vellum := rfl
@[simp] theorem putFn_fabric (k : Nat) (v : Fn) : (putFn s k v).fabric = s.fabric := rfl
@[simp] theorem putFn_power (k : Nat) (v : Fn) : (putFn s k v).power = s.power := rfl
@[simp] theorem putFn_thermal (k : Nat) (v : Fn) : (putFn s k v).thermal = s.thermal := rfl
@[simp] theorem putFn_blotter (k : Nat) (v : Fn) : (putFn s k v).blotter = s.blotter := rfl
@[simp] theorem putFn_mgmt (k : Nat) (v : Fn) : (putFn s k v).mgmt = s.mgmt := rfl
@[simp] theorem putFn_trust (k : Nat) (v : Fn) : (putFn s k v).trust = s.trust := rfl
@[simp] theorem putFn_fw (k : Nat) (v : Fn) : (putFn s k v).fw = s.fw := rfl
@[simp] theorem putFn_map (k : Nat) (v : Fn) : (putFn s k v).map = s.map := rfl

@[simp] theorem putPartition_pending (k : Nat) (v : Partition) : (putPartition s k v).pending = s.pending := rfl
@[simp] theorem putPartition_now (k : Nat) (v : Partition) : (putPartition s k v).now = s.now := rfl
@[simp] theorem putPartition_free (k : Nat) (v : Partition) : (putPartition s k v).free = s.free := rfl
@[simp] theorem putPartition_board (k : Nat) (v : Partition) : (putPartition s k v).board = s.board := rfl
@[simp] theorem putPartition_nvm (k : Nat) (v : Partition) : (putPartition s k v).nvm = s.nvm := rfl
@[simp] theorem putPartition_link (k : Nat) (v : Partition) : (putPartition s k v).link = s.link := rfl
@[simp] theorem putPartition_mailbox (k : Nat) (v : Partition) : (putPartition s k v).mailbox = s.mailbox := rfl
@[simp] theorem putPartition_images (k : Nat) (v : Partition) : (putPartition s k v).images = s.images := rfl
@[simp] theorem putPartition_vellum (k : Nat) (v : Partition) : (putPartition s k v).vellum = s.vellum := rfl
@[simp] theorem putPartition_fabric (k : Nat) (v : Partition) : (putPartition s k v).fabric = s.fabric := rfl
@[simp] theorem putPartition_power (k : Nat) (v : Partition) : (putPartition s k v).power = s.power := rfl
@[simp] theorem putPartition_thermal (k : Nat) (v : Partition) : (putPartition s k v).thermal = s.thermal := rfl
@[simp] theorem putPartition_blotter (k : Nat) (v : Partition) : (putPartition s k v).blotter = s.blotter := rfl
@[simp] theorem putPartition_mgmt (k : Nat) (v : Partition) : (putPartition s k v).mgmt = s.mgmt := rfl
@[simp] theorem putPartition_trust (k : Nat) (v : Partition) : (putPartition s k v).trust = s.trust := rfl
@[simp] theorem putPartition_fw (k : Nat) (v : Partition) : (putPartition s k v).fw = s.fw := rfl
@[simp] theorem putPartition_map (k : Nat) (v : Partition) : (putPartition s k v).map = s.map := rfl

@[simp] theorem putTenant_pending (k : Nat) (v : Tenant) : (putTenant s k v).pending = s.pending := rfl
@[simp] theorem putTenant_now (k : Nat) (v : Tenant) : (putTenant s k v).now = s.now := rfl
@[simp] theorem putTenant_free (k : Nat) (v : Tenant) : (putTenant s k v).free = s.free := rfl
@[simp] theorem putTenant_board (k : Nat) (v : Tenant) : (putTenant s k v).board = s.board := rfl
@[simp] theorem putTenant_nvm (k : Nat) (v : Tenant) : (putTenant s k v).nvm = s.nvm := rfl
@[simp] theorem putTenant_link (k : Nat) (v : Tenant) : (putTenant s k v).link = s.link := rfl
@[simp] theorem putTenant_mailbox (k : Nat) (v : Tenant) : (putTenant s k v).mailbox = s.mailbox := rfl
@[simp] theorem putTenant_images (k : Nat) (v : Tenant) : (putTenant s k v).images = s.images := rfl
@[simp] theorem putTenant_vellum (k : Nat) (v : Tenant) : (putTenant s k v).vellum = s.vellum := rfl
@[simp] theorem putTenant_fabric (k : Nat) (v : Tenant) : (putTenant s k v).fabric = s.fabric := rfl
@[simp] theorem putTenant_power (k : Nat) (v : Tenant) : (putTenant s k v).power = s.power := rfl
@[simp] theorem putTenant_thermal (k : Nat) (v : Tenant) : (putTenant s k v).thermal = s.thermal := rfl
@[simp] theorem putTenant_blotter (k : Nat) (v : Tenant) : (putTenant s k v).blotter = s.blotter := rfl
@[simp] theorem putTenant_mgmt (k : Nat) (v : Tenant) : (putTenant s k v).mgmt = s.mgmt := rfl
@[simp] theorem putTenant_trust (k : Nat) (v : Tenant) : (putTenant s k v).trust = s.trust := rfl
@[simp] theorem putTenant_fw (k : Nat) (v : Tenant) : (putTenant s k v).fw = s.fw := rfl
@[simp] theorem putTenant_map (k : Nat) (v : Tenant) : (putTenant s k v).map = s.map := rfl

@[simp] theorem putSession_pending (k : Nat) (v : Session) : (putSession s k v).pending = s.pending := rfl
@[simp] theorem putSession_now (k : Nat) (v : Session) : (putSession s k v).now = s.now := rfl
@[simp] theorem putSession_free (k : Nat) (v : Session) : (putSession s k v).free = s.free := rfl
@[simp] theorem putSession_board (k : Nat) (v : Session) : (putSession s k v).board = s.board := rfl
@[simp] theorem putSession_nvm (k : Nat) (v : Session) : (putSession s k v).nvm = s.nvm := rfl
@[simp] theorem putSession_link (k : Nat) (v : Session) : (putSession s k v).link = s.link := rfl
@[simp] theorem putSession_mailbox (k : Nat) (v : Session) : (putSession s k v).mailbox = s.mailbox := rfl
@[simp] theorem putSession_images (k : Nat) (v : Session) : (putSession s k v).images = s.images := rfl
@[simp] theorem putSession_vellum (k : Nat) (v : Session) : (putSession s k v).vellum = s.vellum := rfl
@[simp] theorem putSession_fabric (k : Nat) (v : Session) : (putSession s k v).fabric = s.fabric := rfl
@[simp] theorem putSession_power (k : Nat) (v : Session) : (putSession s k v).power = s.power := rfl
@[simp] theorem putSession_thermal (k : Nat) (v : Session) : (putSession s k v).thermal = s.thermal := rfl
@[simp] theorem putSession_blotter (k : Nat) (v : Session) : (putSession s k v).blotter = s.blotter := rfl
@[simp] theorem putSession_mgmt (k : Nat) (v : Session) : (putSession s k v).mgmt = s.mgmt := rfl
@[simp] theorem putSession_trust (k : Nat) (v : Session) : (putSession s k v).trust = s.trust := rfl
@[simp] theorem putSession_fw (k : Nat) (v : Session) : (putSession s k v).fw = s.fw := rfl
@[simp] theorem putSession_map (k : Nat) (v : Session) : (putSession s k v).map = s.map := rfl

@[simp] theorem putPfx_pending (k : Nat) (v : Pfx) : (putPfx s k v).pending = s.pending := rfl
@[simp] theorem putPfx_now (k : Nat) (v : Pfx) : (putPfx s k v).now = s.now := rfl
@[simp] theorem putPfx_free (k : Nat) (v : Pfx) : (putPfx s k v).free = s.free := rfl
@[simp] theorem putPfx_board (k : Nat) (v : Pfx) : (putPfx s k v).board = s.board := rfl
@[simp] theorem putPfx_nvm (k : Nat) (v : Pfx) : (putPfx s k v).nvm = s.nvm := rfl
@[simp] theorem putPfx_link (k : Nat) (v : Pfx) : (putPfx s k v).link = s.link := rfl
@[simp] theorem putPfx_mailbox (k : Nat) (v : Pfx) : (putPfx s k v).mailbox = s.mailbox := rfl
@[simp] theorem putPfx_images (k : Nat) (v : Pfx) : (putPfx s k v).images = s.images := rfl
@[simp] theorem putPfx_vellum (k : Nat) (v : Pfx) : (putPfx s k v).vellum = s.vellum := rfl
@[simp] theorem putPfx_fabric (k : Nat) (v : Pfx) : (putPfx s k v).fabric = s.fabric := rfl
@[simp] theorem putPfx_power (k : Nat) (v : Pfx) : (putPfx s k v).power = s.power := rfl
@[simp] theorem putPfx_thermal (k : Nat) (v : Pfx) : (putPfx s k v).thermal = s.thermal := rfl
@[simp] theorem putPfx_blotter (k : Nat) (v : Pfx) : (putPfx s k v).blotter = s.blotter := rfl
@[simp] theorem putPfx_mgmt (k : Nat) (v : Pfx) : (putPfx s k v).mgmt = s.mgmt := rfl
@[simp] theorem putPfx_trust (k : Nat) (v : Pfx) : (putPfx s k v).trust = s.trust := rfl
@[simp] theorem putPfx_fw (k : Nat) (v : Pfx) : (putPfx s k v).fw = s.fw := rfl
@[simp] theorem putPfx_map (k : Nat) (v : Pfx) : (putPfx s k v).map = s.map := rfl

@[simp] theorem putPage_pending (k : Nat) (v : Page) : (putPage s k v).pending = s.pending := rfl
@[simp] theorem putPage_now (k : Nat) (v : Page) : (putPage s k v).now = s.now := rfl
@[simp] theorem putPage_free (k : Nat) (v : Page) : (putPage s k v).free = s.free := rfl
@[simp] theorem putPage_board (k : Nat) (v : Page) : (putPage s k v).board = s.board := rfl
@[simp] theorem putPage_nvm (k : Nat) (v : Page) : (putPage s k v).nvm = s.nvm := rfl
@[simp] theorem putPage_link (k : Nat) (v : Page) : (putPage s k v).link = s.link := rfl
@[simp] theorem putPage_mailbox (k : Nat) (v : Page) : (putPage s k v).mailbox = s.mailbox := rfl
@[simp] theorem putPage_serving (k : Nat) (v : Page) : (putPage s k v).serving = s.serving := rfl
@[simp] theorem putPage_images (k : Nat) (v : Page) : (putPage s k v).images = s.images := rfl
@[simp] theorem putPage_fabric (k : Nat) (v : Page) : (putPage s k v).fabric = s.fabric := rfl
@[simp] theorem putPage_power (k : Nat) (v : Page) : (putPage s k v).power = s.power := rfl
@[simp] theorem putPage_thermal (k : Nat) (v : Page) : (putPage s k v).thermal = s.thermal := rfl
@[simp] theorem putPage_blotter (k : Nat) (v : Page) : (putPage s k v).blotter = s.blotter := rfl
@[simp] theorem putPage_mgmt (k : Nat) (v : Page) : (putPage s k v).mgmt = s.mgmt := rfl
@[simp] theorem putPage_trust (k : Nat) (v : Page) : (putPage s k v).trust = s.trust := rfl
@[simp] theorem putPage_fw (k : Nat) (v : Page) : (putPage s k v).fw = s.fw := rfl
@[simp] theorem putPage_map (k : Nat) (v : Page) : (putPage s k v).map = s.map := rfl

@[simp] theorem putSite_pending (k : Nat) (v : Site) : (putSite s k v).pending = s.pending := rfl
@[simp] theorem putSite_now (k : Nat) (v : Site) : (putSite s k v).now = s.now := rfl
@[simp] theorem putSite_free (k : Nat) (v : Site) : (putSite s k v).free = s.free := rfl
@[simp] theorem putSite_board (k : Nat) (v : Site) : (putSite s k v).board = s.board := rfl
@[simp] theorem putSite_nvm (k : Nat) (v : Site) : (putSite s k v).nvm = s.nvm := rfl
@[simp] theorem putSite_link (k : Nat) (v : Site) : (putSite s k v).link = s.link := rfl
@[simp] theorem putSite_mailbox (k : Nat) (v : Site) : (putSite s k v).mailbox = s.mailbox := rfl
@[simp] theorem putSite_serving (k : Nat) (v : Site) : (putSite s k v).serving = s.serving := rfl
@[simp] theorem putSite_images (k : Nat) (v : Site) : (putSite s k v).images = s.images := rfl
@[simp] theorem putSite_fabric (k : Nat) (v : Site) : (putSite s k v).fabric = s.fabric := rfl
@[simp] theorem putSite_power (k : Nat) (v : Site) : (putSite s k v).power = s.power := rfl
@[simp] theorem putSite_thermal (k : Nat) (v : Site) : (putSite s k v).thermal = s.thermal := rfl
@[simp] theorem putSite_blotter (k : Nat) (v : Site) : (putSite s k v).blotter = s.blotter := rfl
@[simp] theorem putSite_mgmt (k : Nat) (v : Site) : (putSite s k v).mgmt = s.mgmt := rfl
@[simp] theorem putSite_trust (k : Nat) (v : Site) : (putSite s k v).trust = s.trust := rfl
@[simp] theorem putSite_fw (k : Nat) (v : Site) : (putSite s k v).fw = s.fw := rfl
@[simp] theorem putSite_map (k : Nat) (v : Site) : (putSite s k v).map = s.map := rfl

@[simp] theorem putIsland_pending (k : Nat) (v : Island) : (putIsland s k v).pending = s.pending := rfl
@[simp] theorem putIsland_now (k : Nat) (v : Island) : (putIsland s k v).now = s.now := rfl
@[simp] theorem putIsland_free (k : Nat) (v : Island) : (putIsland s k v).free = s.free := rfl
@[simp] theorem putIsland_board (k : Nat) (v : Island) : (putIsland s k v).board = s.board := rfl
@[simp] theorem putIsland_nvm (k : Nat) (v : Island) : (putIsland s k v).nvm = s.nvm := rfl
@[simp] theorem putIsland_link (k : Nat) (v : Island) : (putIsland s k v).link = s.link := rfl
@[simp] theorem putIsland_mailbox (k : Nat) (v : Island) : (putIsland s k v).mailbox = s.mailbox := rfl
@[simp] theorem putIsland_serving (k : Nat) (v : Island) : (putIsland s k v).serving = s.serving := rfl
@[simp] theorem putIsland_images (k : Nat) (v : Island) : (putIsland s k v).images = s.images := rfl
@[simp] theorem putIsland_vellum (k : Nat) (v : Island) : (putIsland s k v).vellum = s.vellum := rfl
@[simp] theorem putIsland_power (k : Nat) (v : Island) : (putIsland s k v).power = s.power := rfl
@[simp] theorem putIsland_thermal (k : Nat) (v : Island) : (putIsland s k v).thermal = s.thermal := rfl
@[simp] theorem putIsland_blotter (k : Nat) (v : Island) : (putIsland s k v).blotter = s.blotter := rfl
@[simp] theorem putIsland_mgmt (k : Nat) (v : Island) : (putIsland s k v).mgmt = s.mgmt := rfl
@[simp] theorem putIsland_trust (k : Nat) (v : Island) : (putIsland s k v).trust = s.trust := rfl
@[simp] theorem putIsland_fw (k : Nat) (v : Island) : (putIsland s k v).fw = s.fw := rfl
@[simp] theorem putIsland_map (k : Nat) (v : Island) : (putIsland s k v).map = s.map := rfl

@[simp] theorem putTile_pending (k : Nat) (v : Tile) : (putTile s k v).pending = s.pending := rfl
@[simp] theorem putTile_now (k : Nat) (v : Tile) : (putTile s k v).now = s.now := rfl
@[simp] theorem putTile_free (k : Nat) (v : Tile) : (putTile s k v).free = s.free := rfl
@[simp] theorem putTile_board (k : Nat) (v : Tile) : (putTile s k v).board = s.board := rfl
@[simp] theorem putTile_nvm (k : Nat) (v : Tile) : (putTile s k v).nvm = s.nvm := rfl
@[simp] theorem putTile_link (k : Nat) (v : Tile) : (putTile s k v).link = s.link := rfl
@[simp] theorem putTile_mailbox (k : Nat) (v : Tile) : (putTile s k v).mailbox = s.mailbox := rfl
@[simp] theorem putTile_serving (k : Nat) (v : Tile) : (putTile s k v).serving = s.serving := rfl
@[simp] theorem putTile_images (k : Nat) (v : Tile) : (putTile s k v).images = s.images := rfl
@[simp] theorem putTile_vellum (k : Nat) (v : Tile) : (putTile s k v).vellum = s.vellum := rfl
@[simp] theorem putTile_power (k : Nat) (v : Tile) : (putTile s k v).power = s.power := rfl
@[simp] theorem putTile_thermal (k : Nat) (v : Tile) : (putTile s k v).thermal = s.thermal := rfl
@[simp] theorem putTile_blotter (k : Nat) (v : Tile) : (putTile s k v).blotter = s.blotter := rfl
@[simp] theorem putTile_mgmt (k : Nat) (v : Tile) : (putTile s k v).mgmt = s.mgmt := rfl
@[simp] theorem putTile_trust (k : Nat) (v : Tile) : (putTile s k v).trust = s.trust := rfl
@[simp] theorem putTile_fw (k : Nat) (v : Tile) : (putTile s k v).fw = s.fw := rfl
@[simp] theorem putTile_map (k : Nat) (v : Tile) : (putTile s k v).map = s.map := rfl

@[simp] theorem putCart_pending (k : Nat) (v : Cartridge) : (putCart s k v).pending = s.pending := rfl
@[simp] theorem putCart_now (k : Nat) (v : Cartridge) : (putCart s k v).now = s.now := rfl
@[simp] theorem putCart_free (k : Nat) (v : Cartridge) : (putCart s k v).free = s.free := rfl
@[simp] theorem putCart_nvm (k : Nat) (v : Cartridge) : (putCart s k v).nvm = s.nvm := rfl
@[simp] theorem putCart_link (k : Nat) (v : Cartridge) : (putCart s k v).link = s.link := rfl
@[simp] theorem putCart_mailbox (k : Nat) (v : Cartridge) : (putCart s k v).mailbox = s.mailbox := rfl
@[simp] theorem putCart_serving (k : Nat) (v : Cartridge) : (putCart s k v).serving = s.serving := rfl
@[simp] theorem putCart_images (k : Nat) (v : Cartridge) : (putCart s k v).images = s.images := rfl
@[simp] theorem putCart_vellum (k : Nat) (v : Cartridge) : (putCart s k v).vellum = s.vellum := rfl
@[simp] theorem putCart_fabric (k : Nat) (v : Cartridge) : (putCart s k v).fabric = s.fabric := rfl
@[simp] theorem putCart_power (k : Nat) (v : Cartridge) : (putCart s k v).power = s.power := rfl
@[simp] theorem putCart_thermal (k : Nat) (v : Cartridge) : (putCart s k v).thermal = s.thermal := rfl
@[simp] theorem putCart_blotter (k : Nat) (v : Cartridge) : (putCart s k v).blotter = s.blotter := rfl
@[simp] theorem putCart_mgmt (k : Nat) (v : Cartridge) : (putCart s k v).mgmt = s.mgmt := rfl
@[simp] theorem putCart_trust (k : Nat) (v : Cartridge) : (putCart s k v).trust = s.trust := rfl
@[simp] theorem putCart_fw (k : Nat) (v : Cartridge) : (putCart s k v).fw = s.fw := rfl
@[simp] theorem putCart_map (k : Nat) (v : Cartridge) : (putCart s k v).map = s.map := rfl

@[simp] theorem putPair_pending (k : Nat) (v : Pair) : (putPair s k v).pending = s.pending := rfl
@[simp] theorem putPair_now (k : Nat) (v : Pair) : (putPair s k v).now = s.now := rfl
@[simp] theorem putPair_free (k : Nat) (v : Pair) : (putPair s k v).free = s.free := rfl
@[simp] theorem putPair_board (k : Nat) (v : Pair) : (putPair s k v).board = s.board := rfl
@[simp] theorem putPair_nvm (k : Nat) (v : Pair) : (putPair s k v).nvm = s.nvm := rfl
@[simp] theorem putPair_link (k : Nat) (v : Pair) : (putPair s k v).link = s.link := rfl
@[simp] theorem putPair_mailbox (k : Nat) (v : Pair) : (putPair s k v).mailbox = s.mailbox := rfl
@[simp] theorem putPair_serving (k : Nat) (v : Pair) : (putPair s k v).serving = s.serving := rfl
@[simp] theorem putPair_images (k : Nat) (v : Pair) : (putPair s k v).images = s.images := rfl
@[simp] theorem putPair_vellum (k : Nat) (v : Pair) : (putPair s k v).vellum = s.vellum := rfl
@[simp] theorem putPair_fabric (k : Nat) (v : Pair) : (putPair s k v).fabric = s.fabric := rfl
@[simp] theorem putPair_power (k : Nat) (v : Pair) : (putPair s k v).power = s.power := rfl
@[simp] theorem putPair_blotter (k : Nat) (v : Pair) : (putPair s k v).blotter = s.blotter := rfl
@[simp] theorem putPair_mgmt (k : Nat) (v : Pair) : (putPair s k v).mgmt = s.mgmt := rfl
@[simp] theorem putPair_trust (k : Nat) (v : Pair) : (putPair s k v).trust = s.trust := rfl
@[simp] theorem putPair_fw (k : Nat) (v : Pair) : (putPair s k v).fw = s.fw := rfl
@[simp] theorem putPair_map (k : Nat) (v : Pair) : (putPair s k v).map = s.map := rfl

@[simp] theorem putSlot_pending (k : Nat) (v : Slot) : (putSlot s k v).pending = s.pending := rfl
@[simp] theorem putSlot_now (k : Nat) (v : Slot) : (putSlot s k v).now = s.now := rfl
@[simp] theorem putSlot_free (k : Nat) (v : Slot) : (putSlot s k v).free = s.free := rfl
@[simp] theorem putSlot_board (k : Nat) (v : Slot) : (putSlot s k v).board = s.board := rfl
@[simp] theorem putSlot_nvm (k : Nat) (v : Slot) : (putSlot s k v).nvm = s.nvm := rfl
@[simp] theorem putSlot_link (k : Nat) (v : Slot) : (putSlot s k v).link = s.link := rfl
@[simp] theorem putSlot_mailbox (k : Nat) (v : Slot) : (putSlot s k v).mailbox = s.mailbox := rfl
@[simp] theorem putSlot_serving (k : Nat) (v : Slot) : (putSlot s k v).serving = s.serving := rfl
@[simp] theorem putSlot_vellum (k : Nat) (v : Slot) : (putSlot s k v).vellum = s.vellum := rfl
@[simp] theorem putSlot_fabric (k : Nat) (v : Slot) : (putSlot s k v).fabric = s.fabric := rfl
@[simp] theorem putSlot_power (k : Nat) (v : Slot) : (putSlot s k v).power = s.power := rfl
@[simp] theorem putSlot_thermal (k : Nat) (v : Slot) : (putSlot s k v).thermal = s.thermal := rfl
@[simp] theorem putSlot_blotter (k : Nat) (v : Slot) : (putSlot s k v).blotter = s.blotter := rfl
@[simp] theorem putSlot_mgmt (k : Nat) (v : Slot) : (putSlot s k v).mgmt = s.mgmt := rfl
@[simp] theorem putSlot_trust (k : Nat) (v : Slot) : (putSlot s k v).trust = s.trust := rfl
@[simp] theorem putSlot_fw (k : Nat) (v : Slot) : (putSlot s k v).fw = s.fw := rfl
@[simp] theorem putSlot_map (k : Nat) (v : Slot) : (putSlot s k v).map = s.map := rfl

@[simp] theorem advance_pending (k : Nat) : (advance s k).pending = s.pending := rfl
@[simp] theorem advance_free (k : Nat) : (advance s k).free = s.free := rfl
@[simp] theorem advance_board (k : Nat) : (advance s k).board = s.board := rfl
@[simp] theorem advance_nvm (k : Nat) : (advance s k).nvm = s.nvm := rfl
@[simp] theorem advance_link (k : Nat) : (advance s k).link = s.link := rfl
@[simp] theorem advance_mailbox (k : Nat) : (advance s k).mailbox = s.mailbox := rfl
@[simp] theorem advance_serving (k : Nat) : (advance s k).serving = s.serving := rfl
@[simp] theorem advance_images (k : Nat) : (advance s k).images = s.images := rfl
@[simp] theorem advance_vellum (k : Nat) : (advance s k).vellum = s.vellum := rfl
@[simp] theorem advance_fabric (k : Nat) : (advance s k).fabric = s.fabric := rfl
@[simp] theorem advance_power (k : Nat) : (advance s k).power = s.power := rfl
@[simp] theorem advance_thermal (k : Nat) : (advance s k).thermal = s.thermal := rfl
@[simp] theorem advance_blotter (k : Nat) : (advance s k).blotter = s.blotter := rfl
@[simp] theorem advance_mgmt (k : Nat) : (advance s k).mgmt = s.mgmt := rfl
@[simp] theorem advance_trust (k : Nat) : (advance s k).trust = s.trust := rfl
@[simp] theorem advance_fw (k : Nat) : (advance s k).fw = s.fw := rfl
@[simp] theorem advance_map (k : Nat) : (advance s k).map = s.map := rfl

@[simp] theorem drewFree_pending : (drewFree s).pending = s.pending := rfl
@[simp] theorem drewFree_now : (drewFree s).now = s.now := rfl
@[simp] theorem drewFree_board : (drewFree s).board = s.board := rfl
@[simp] theorem drewFree_nvm : (drewFree s).nvm = s.nvm := rfl
@[simp] theorem drewFree_link : (drewFree s).link = s.link := rfl
@[simp] theorem drewFree_mailbox : (drewFree s).mailbox = s.mailbox := rfl
@[simp] theorem drewFree_serving : (drewFree s).serving = s.serving := rfl
@[simp] theorem drewFree_images : (drewFree s).images = s.images := rfl
@[simp] theorem drewFree_vellum : (drewFree s).vellum = s.vellum := rfl
@[simp] theorem drewFree_fabric : (drewFree s).fabric = s.fabric := rfl
@[simp] theorem drewFree_power : (drewFree s).power = s.power := rfl
@[simp] theorem drewFree_thermal : (drewFree s).thermal = s.thermal := rfl
@[simp] theorem drewFree_blotter : (drewFree s).blotter = s.blotter := rfl
@[simp] theorem drewFree_mgmt : (drewFree s).mgmt = s.mgmt := rfl
@[simp] theorem drewFree_trust : (drewFree s).trust = s.trust := rfl
@[simp] theorem drewFree_fw : (drewFree s).fw = s.fw := rfl
@[simp] theorem drewFree_map : (drewFree s).map = s.map := rfl

@[simp] theorem getFn_putFn (k : Nat) (v : Fn) : getFn (putFn s k v) k = v := tget_tput_same _ _ _ _
theorem getFn_putFn_ne {k j : Nat} (v : Fn) (h : j ≠ k) : getFn (putFn s k v) j = getFn s j := tget_tput_ne _ _ _ h
@[simp] theorem getPartition_putPartition (k : Nat) (v : Partition) : getPartition (putPartition s k v) k = v := tget_tput_same _ _ _ _
theorem getPartition_putPartition_ne {k j : Nat} (v : Partition) (h : j ≠ k) : getPartition (putPartition s k v) j = getPartition s j := tget_tput_ne _ _ _ h
@[simp] theorem getTenant_putTenant (k : Nat) (v : Tenant) : getTenant (putTenant s k v) k = v := tget_tput_same _ _ _ _
theorem getTenant_putTenant_ne {k j : Nat} (v : Tenant) (h : j ≠ k) : getTenant (putTenant s k v) j = getTenant s j := tget_tput_ne _ _ _ h
@[simp] theorem getSession_putSession (k : Nat) (v : Session) : getSession (putSession s k v) k = v := tget_tput_same _ _ _ _
theorem getSession_putSession_ne {k j : Nat} (v : Session) (h : j ≠ k) : getSession (putSession s k v) j = getSession s j := tget_tput_ne _ _ _ h
@[simp] theorem getPfx_putPfx (k : Nat) (v : Pfx) : getPfx (putPfx s k v) k = v := tget_tput_same _ _ _ _
theorem getPfx_putPfx_ne {k j : Nat} (v : Pfx) (h : j ≠ k) : getPfx (putPfx s k v) j = getPfx s j := tget_tput_ne _ _ _ h
@[simp] theorem getPage_putPage (k : Nat) (v : Page) : getPage (putPage s k v) k = v := tget_tput_same _ _ _ _
theorem getPage_putPage_ne {k j : Nat} (v : Page) (h : j ≠ k) : getPage (putPage s k v) j = getPage s j := tget_tput_ne _ _ _ h
@[simp] theorem getSite_putSite (k : Nat) (v : Site) : getSite (putSite s k v) k = v := tget_tput_same _ _ _ _
theorem getSite_putSite_ne {k j : Nat} (v : Site) (h : j ≠ k) : getSite (putSite s k v) j = getSite s j := tget_tput_ne _ _ _ h
@[simp] theorem getIsland_putIsland (k : Nat) (v : Island) : getIsland (putIsland s k v) k = v := tget_tput_same _ _ _ _
theorem getIsland_putIsland_ne {k j : Nat} (v : Island) (h : j ≠ k) : getIsland (putIsland s k v) j = getIsland s j := tget_tput_ne _ _ _ h
@[simp] theorem getTile_putTile (k : Nat) (v : Tile) : getTile (putTile s k v) k = v := tget_tput_same _ _ _ _
theorem getTile_putTile_ne {k j : Nat} (v : Tile) (h : j ≠ k) : getTile (putTile s k v) j = getTile s j := tget_tput_ne _ _ _ h
@[simp] theorem getCart_putCart (k : Nat) (v : Cartridge) : getCart (putCart s k v) k = v := tget_tput_same _ _ _ _
theorem getCart_putCart_ne {k j : Nat} (v : Cartridge) (h : j ≠ k) : getCart (putCart s k v) j = getCart s j := tget_tput_ne _ _ _ h
@[simp] theorem getPair_putPair (k : Nat) (v : Pair) : getPair (putPair s k v) k = v := tget_tput_same _ _ _ _
theorem getPair_putPair_ne {k j : Nat} (v : Pair) (h : j ≠ k) : getPair (putPair s k v) j = getPair s j := tget_tput_ne _ _ _ h

@[simp] theorem getQueue_putQueue (func qp : Nat) (v : Queue) : getQueue (putQueue s func qp v) func qp = v :=
  tget_tput_same _ _ _ _

theorem getQueue_putQueue_ne {func qp func' qp' : Nat} (v : Queue) (h : qkey func' qp' ≠ qkey func qp) :
    getQueue (putQueue s func qp v) func' qp' = getQueue s func' qp' := by
  unfold getQueue putQueue tput
  dsimp only
  split
  · exact tget_terase_ne _ _ h
  · exact tget_tins_ne _ _ _ h

@[simp] theorem getSlot_putSlot (k : Nat) (v : Slot) : getSlot (putSlot s k v) k = v := by
  unfold getSlot putSlot
  split <;> rfl

theorem getSlot_putSlot_ne {k j : Nat} (v : Slot) (h : (j = 0) ≠ (k = 0)) : getSlot (putSlot s k v) j = getSlot s j := by
  unfold getSlot putSlot
  by_cases hk : k = 0 <;> by_cases hj : j = 0 <;> simp_all

end Sys2Proof.Laws
end

