-- ==== Sys2Proof/Laws/Answer.lean ====
section
/-! SUPPORT. What the shared frame of a mailbox command does: when its own effect runs, how it is answered, and what an
answer leaves alone. -/

namespace Sys2Proof.Laws

set_option Elab.async false

open Sys2Proof Sys2Proof.Machine

variable {s t u : State} {h : Hdr} {op : Opcode}

/-! ## Parts left alone -/

theorem Only.refl (ps : List Part) (s : State) : Only ps s s := fun p _ => by cases p <;> rfl

theorem Only.mono {ps qs : List Part} (h : Only ps s t) (hs : ∀ p ∈ ps, p ∈ qs) : Only qs s t :=
  fun p hp => h p (fun hq => hp (hs p hq))

/-! ## Running a command -/

/-- An accepted command whose operands are in range has its own effect, at its own time. -/
theorem runCommand_accepted {invalid : Bool} {body : State → State} (ha : Accepted s h op) (hi : invalid = false) :
    runCommand s h op invalid body = body (advance s h.time) := by
  unfold runCommand
  rw [hi]
  simp only [ha.1, ha.2, if_true, Bool.false_eq_true, if_false]

/-- So has a virtual function's command that its partition serves. -/
theorem runVf_accepted {invalid : Bool} {body : State → State} (ha : AcceptedVf s h op) (hi : invalid = false) :
    runVf s h op invalid body = body (advance s h.time) := by
  unfold runVf
  rw [runCommand_accepted ha.1 hi]
  have hc : (getPartition (advance s h.time) (h.func - 1)).configured = true := ha.2.1
  have hs : ¬ ((getPartition (advance s h.time) (h.func - 1)).isSealed = true ∧ (advance s h.time).trust.isUnsealed = true) :=
    ha.2.2
  simp only [hc, Bool.true_eq_false, if_false, if_neg hs]

/-- So has a command that names a session, when nothing of that session is in its way. -/
theorem runSession_accepted {session : Nat} {invalid : Bool} {body : State → State} (ha : AcceptedVf s h op)
    (hn : Unhindered s h session) (hi : invalid = false) :
    runSession s h op session invalid body = body (advance s h.time) := by
  have hc : (getPartition (advance s h.time) (h.func - 1)).configured = true := ha.2.1
  have hs : ¬ ((getPartition (advance s h.time) (h.func - 1)).isSealed = true ∧ (advance s h.time).trust.isUnsealed = true) :=
    ha.2.2
  unfold runSession runNamed
  rw [hi]
  simp only [ha.1.1, ha.1.2, hn.1, hc, Bool.not_false, Bool.and_true, if_true, Bool.false_eq_true, Bool.true_eq_false, if_false,
    if_neg hs]

/-- Its answer does not wait behind the session's park or unpark. -/
theorem answerFor_complete {v : State} {session : Nat} (hn : Unhindered s h session) (hv : v.mailbox = s.mailbox) (st r : Nat) :
    answerFor v h op session st r = complete v h st r [] := by
  unfold answerFor answerWith
  rw [hv, hn.2]
  rfl

/-! ## Answers -/

theorem wantVector_only (s : State) (func v : Nat) : Only [.link] s (wantVector s func v) := by
  intro p hp
  unfold wantVector
  dsimp only
  split
  · cases p <;> rfl
  · cases p <;> first | rfl | exact absurd (by decide) hp

@[simp] theorem wantVector_mailbox (s : State) (func v : Nat) : (wantVector s func v).mailbox = s.mailbox :=
  wantVector_only s func v .mailbox (by decide)

theorem deliverCq_only (s : State) (func qp : Nat) (e : CqEntry) : Only [.mailbox, .link] s (deliverCq s func qp e) := by
  have hq : ∀ v, Only [.mailbox, .link] s (putQueue s func qp v) := fun v p hp => by
    cases p <;> first | rfl | exact absurd (by decide) hp
  unfold deliverCq
  dsimp only
  split
  · exact Only.refl _ _
  split
  · exact Only.trans (hq _) (Only.mono (wantVector_only _ _ _) (by decide))
  split
  · exact hq _
  · exact Only.refl _ _

/-- A command that is not late is answered with no report. -/
theorem onTime_late {v : State} (ht : OnTime s h) (hv : v.mailbox.fetched = s.mailbox.fetched) :
    isLate (v.mailbox.fetched.find? (fun f => f.func == h.func && f.qp == h.qp && f.cid == h.cid)) = false := by
  rw [hv]
  unfold isLate
  split
  · rename_i f hf
    have hp := List.find?_some hf
    simp only [Bool.and_eq_true, beq_iff_eq] at hp
    exact ht f (List.mem_of_find?_eq_some hf) hp.1.1 hp.1.2 hp.2
  · rfl

theorem complete_eq (ht : OnTime s h) {v : State} (hv : v.mailbox.fetched = s.mailbox.fetched) (st r : Nat)
    (d : List Byte) :
    complete v h st r d = if isMuted (v.mailbox.fetched.find? (isFor h)) then dropFetched v h.func h.qp h.cid
      else deliverCq (dropFetched v h.func h.qp h.cid) h.func h.qp
        (answerEntry (getQueue v h.func h.qp) h (stamp v) st r d) := by
  unfold complete completeAt
  dsimp only
  rw [onTime_late ht hv]
  rfl

/-- An answer changes nothing but the mailbox, and the vector state of the link. -/
theorem complete_only (ht : OnTime s h) {v : State} (hv : v.mailbox.fetched = s.mailbox.fetched) (st r : Nat)
    (d : List Byte) : Only [.mailbox, .link] v (complete v h st r d) := by
  have hd : Only [.mailbox, .link] v (dropFetched v h.func h.qp h.cid) := fun p hp => by
    cases p <;> first | rfl | exact absurd (by decide) hp
  rw [complete_eq ht hv]
  split
  · exact hd
  · exact Only.trans hd (deliverCq_only _ _ _ _)

@[simp] theorem wantVector_getQueue (s : State) (f v func qp : Nat) :
    getQueue (wantVector s f v) func qp = getQueue s func qp := by
  unfold getQueue
  rw [wantVector_mailbox]

/-- What a delivery leaves of the mailbox. -/
theorem deliverCq_mailbox (s : State) (func qp : Nat) (e : CqEntry) :
    (deliverCq s func qp e).mailbox.fetched = s.mailbox.fetched ∧
      (deliverCq s func qp e).mailbox.backlog = s.mailbox.backlog ∧
      (deliverCq s func qp e).mailbox.overflow = s.mailbox.overflow ∧
      (deliverCq s func qp e).mailbox.bindings = s.mailbox.bindings := by
  unfold deliverCq
  dsimp only
  split
  · exact ⟨rfl, rfl, rfl, rfl⟩
  split
  · rw [wantVector_mailbox]
    exact ⟨rfl, rfl, rfl, rfl⟩
  split
  · exact ⟨rfl, rfl, rfl, rfl⟩
  · exact ⟨rfl, rfl, rfl, rfl⟩

theorem deliverCq_same {s : State} {func qp : Nat} (e : CqEntry) (ha : (getQueue s func qp).active = true)
    (he : (getQueue s func qp).enable = true) :
    getQueue (deliverCq s func qp e) func qp =
      if (getQueue s func qp).heldCq.isEmpty && cqRoom (getQueue s func qp) then pushCq (getQueue s func qp) e
      else { getQueue s func qp with heldCq := (getQueue s func qp).heldCq ++ [e] } := by
  unfold deliverCq
  dsimp only
  rw [ha, he]
  simp only [Bool.not_true, Bool.and_false, Bool.false_eq_true, if_false, Bool.true_and, Bool.true_or, if_true]
  split
  · rw [wantVector_getQueue, getQueue_putQueue]
  · rw [getQueue_putQueue]

theorem deliverCq_other (s : State) {func qp func' qp' : Nat} (e : CqEntry) (h : qkey func' qp' ≠ qkey func qp) :
    getQueue (deliverCq s func qp e) func' qp' = getQueue s func' qp' := by
  unfold deliverCq
  dsimp only
  split
  · rfl
  split
  · rw [wantVector_getQueue, getQueue_putQueue_ne _ _ h]
  split
  · rw [getQueue_putQueue_ne _ _ h]
  · rfl

/-- An answer to a command that is not late is as R306 says. -/
theorem complete_answered (ht : OnTime s h) {v : State} (hv : v.mailbox = s.mailbox) (st r : Nat) (d : List Byte) :
    Answered s (complete v h st r d) h st r d := by
  have hq : ∀ func qp, getQueue (dropFetched v h.func h.qp h.cid) func qp = getQueue s func qp := fun func qp => by
    unfold getQueue
    rw [← hv]
    rfl
  have hn : stamp (complete v h st r d) = stamp v := by
    have := complete_only ht (congrArg Mailbox.fetched hv) st r d .now (by decide)
    exact congrArg (fun n => n / 4 * 4) this
  have hf := congrArg Mailbox.fetched hv
  unfold Answered
  dsimp only
  rw [hn]
  have hv' : ∀ func qp, getQueue v func qp = getQueue s func qp := fun func qp => by
    unfold getQueue
    rw [hv]
  rw [complete_eq ht hf, hf]
  cases hm : isMuted (s.mailbox.fetched.find? (isFor h))
  · rw [if_neg (by decide)]
    obtain ⟨m1, m2, m3, m4⟩ := deliverCq_mailbox (dropFetched v h.func h.qp h.cid) h.func h.qp
      (answerEntry (getQueue v h.func h.qp) h (stamp v) st r d)
    refine ⟨?_, ?_, ?_, ?_, ?_, ?_, ?_⟩
    · rw [m1, ← hv]
      rfl
    · intro _ ha he
      rw [deliverCq_same _ (by rw [hq]; exact ha) (by rw [hq]; exact he), hq, hv']
    · exact nofun
    · intro func qp hne
      rw [deliverCq_other _ _ hne, hq]
    · rw [m2, ← hv]
      rfl
    · rw [m3, ← hv]
      rfl
    · rw [m4, ← hv]
      rfl
  · rw [if_pos rfl]
    refine ⟨?_, nofun, fun _ => hq _ _, fun func qp _ => hq _ _, ?_, ?_, ?_⟩
    · rw [← hv]
      rfl
    all_goals
      rw [← hv]
      rfl

/-- So is a command that was started earlier. -/
theorem completeStarted_ended {v : State} (hv : v.mailbox = s.mailbox) (opcode arg st r : Nat)
    (ho : ¬ (opcode = 0x0306 ∨ opcode = 0x0307)) :
    Ended s (completeStarted v opcode arg st r) opcode arg st r := by
  intro f hf ht
  have hf' : findStarted v opcode arg = some f := by
    unfold findStarted at hf ⊢
    rw [hv]
    exact hf
  unfold completeStarted
  rw [hf']
  dsimp only
  rw [if_neg ho]
  exact complete_answered ht hv st r []

/-- A command that goes on after it has taken effect stays under way, started. -/
theorem startLater_started (v : State) (h : Hdr) (op : Opcode) (arg : Nat) : Started (startLater v h op arg) h op arg :=
  ⟨_, List.mem_append_right _ (List.mem_singleton.mpr rfl), rfl, rfl, rfl, rfl, rfl, rfl, rfl, rfl⟩

theorem startLater_only (v : State) (h : Hdr) (op : Opcode) (arg : Nat) : Only [.mailbox] v (startLater v h op arg) := by
  intro p hp
  cases p <;> first | rfl | exact absurd (by decide) hp

/-! ## Commands from acceptance to answer -/

/-- A command whose own effect ends in an answer: it leaves the parts of `v` but the mailbox and the link, and it is answered. -/
theorem answers {c : Instr} {invalid : Bool} {body : State → State} {v : State} {st r : Nat} {d : List Byte}
    (he : exec c s = .next (runCommand s h op invalid body)) (ha : Accepted s h op) (ht : OnTime s h)
    (hi : invalid = false) (hb : body (advance s h.time) = complete v h st r d) (hv : v.mailbox = s.mailbox) :
    ∃ t, exec c s = .next t ∧ Only [.mailbox, .link] v t ∧ Answered s t h st r d := by
  rw [runCommand_accepted ha hi, hb] at he
  exact ⟨_, he, complete_only ht (congrArg Mailbox.fetched hv) st r d, complete_answered ht hv st r d⟩

theorem answersVf {c : Instr} {invalid : Bool} {body : State → State} {v : State} {st r : Nat} {d : List Byte}
    (he : exec c s = .next (runVf s h op invalid body)) (ha : AcceptedVf s h op) (ht : OnTime s h)
    (hi : invalid = false) (hb : body (advance s h.time) = complete v h st r d) (hv : v.mailbox = s.mailbox) :
    ∃ t, exec c s = .next t ∧ Only [.mailbox, .link] v t ∧ Answered s t h st r d := by
  rw [runVf_accepted ha hi, hb] at he
  exact ⟨_, he, complete_only ht (congrArg Mailbox.fetched hv) st r d, complete_answered ht hv st r d⟩

/-- A command whose own effect goes on: it leaves the parts of `v` but the mailbox, and stays under way. -/
theorem starts {c : Instr} {invalid : Bool} {body : State → State} {v : State} {arg : Nat}
    (he : exec c s = .next (runCommand s h op invalid body)) (ha : Accepted s h op) (hi : invalid = false)
    (hb : body (advance s h.time) = startLater v h op arg) :
    ∃ t, exec c s = .next t ∧ Only [.mailbox] v t ∧ Started t h op arg := by
  rw [runCommand_accepted ha hi, hb] at he
  exact ⟨_, he, startLater_only _ _ _ _, startLater_started _ _ _ _⟩

theorem startsVf {c : Instr} {invalid : Bool} {body : State → State} {v : State} {arg : Nat}
    (he : exec c s = .next (runVf s h op invalid body)) (ha : AcceptedVf s h op) (hi : invalid = false)
    (hb : body (advance s h.time) = startLater v h op arg) :
    ∃ t, exec c s = .next t ∧ Only [.mailbox] v t ∧ Started t h op arg := by
  rw [runVf_accepted ha hi, hb] at he
  exact ⟨_, he, startLater_only _ _ _ _, startLater_started _ _ _ _⟩

/-- A command that ends one that was started earlier. -/
theorem ends {c : Instr} {v : State} {opcode arg st r : Nat} (he : exec c s = .next (completeStarted v opcode arg st r))
    (hv : v.mailbox = s.mailbox) (ho : ¬ (opcode = 0x0306 ∨ opcode = 0x0307)) :
    ∃ t, exec c s = .next t ∧ Only [.link, .mailbox, .power, .blotter, .mgmt] v t ∧ Ended s t opcode arg st r :=
  ⟨_, he, (completeStarted_held (held_self _ v) (by rfl)).only, completeStarted_ended hv _ _ _ _ ho⟩

/-- A report changes the blotter, what the sideband has to send, and for a fatal one the event queue of the host. -/
theorem note_only (v : State) (a b c d e : Nat) : Only [.link, .mailbox, .blotter, .mgmt] v (note v a b c d e) :=
  (note_held (held_self _ v) (by rfl)).only

end Sys2Proof.Laws
end

