-- ==== Sys2Proof/Laws/KeepTurns.lean ====
section
/-! SUPPORT. What the functions of Machine/Turns.lean do, as Laws/Kept.lean says it: the parts that each one may change. -/

namespace Sys2Proof.Laws

set_option Elab.async false

open Sys2Proof Sys2Proof.Machine

variable {pts : List Part} {z : State}

theorem modSession_held {s : State} {id : Nat} {f : Session → Session} (hS : Held pts z s)
    (hp : Sub [.serving] pts := by exact Sub.up) : Held pts z (modSession s id f) := by
  unfold modSession
  iterate 45 all_goals try first
    | with_reducible assumption
    | with_reducible refine putSession_held ?_

theorem modTurn_held {s : State} {id : Nat} {f : Turn → Turn} (hS : Held pts z s)
    (hp : Sub [.serving] pts := by exact Sub.up) : Held pts z (modTurn s id f) := by
  unfold modTurn
  iterate 45 all_goals try first
    | with_reducible assumption
    | with_reducible refine modSession_held ?_

theorem mapSessions_held {s : State} {f : Nat → Session → Session} (hS : Held pts z s)
    (hp : Sub [.serving] pts := by exact Sub.up) : Held pts z (mapSessions s f) := by
  unfold mapSessions
  iterate 45 all_goals try first
    | with_reducible assumption
    | (intro x; clear_value x)
    | lift_lets
    | with_reducible refine held_free ?_

theorem charge_held {s : State} {tenant : Nat} {units : Nat} (hS : Held pts z s)
    (hp : Sub [.serving] pts := by exact Sub.up) : Held pts z (charge s tenant units) := by
  unfold charge
  iterate 45 all_goals try first
    | with_reducible assumption
    | with_reducible refine putTenant_held ?_

theorem uncharge_held {s : State} {tenant : Nat} {units : Nat} (hS : Held pts z s)
    (hp : Sub [.serving] pts := by exact Sub.up) : Held pts z (uncharge s tenant units) := by
  unfold uncharge
  iterate 45 all_goals try first
    | with_reducible assumption
    | with_reducible refine putTenant_held ?_
    | (intro x; clear_value x)
    | lift_lets
    | split

theorem discardRows_held {s : State} {ref : RowRef} (hS : Held pts z s) (hp : Sub [.serving] pts := by exact Sub.up)
    : Held pts z (discardRows s ref) := by
  unfold discardRows
  iterate 45 all_goals try first
    | with_reducible assumption
    | with_reducible refine uncharge_held ?_
    | with_reducible refine foldl_held (fun _ _ _ => ?_) ?_
    | (intro x; clear_value x)
    | lift_lets
    | with_reducible refine held_free ?_

theorem takePage_held {s s' : State} {last : Option Nat} {f : Page → Page} {p : Nat} (hS : Held pts z s)
    (he : takePage s last f = some (p, s')) (hp : Sub [.vellum] pts := by exact Sub.up) : Held pts z s' := by
  unfold takePage at he
  rw [Option.map_eq_some_iff] at he
  obtain ⟨x, -, hx⟩ := he
  simp only [Prod.mk.injEq] at hx
  rw [← hx.2]
  exact held_set (putPage_held hS) (fun hh => ⟨hh.nvm, hh.vellum, hh.sram, hh.power,
    hh.thermal, hh.blotter, hh.events, hh.trust⟩)

theorem freePage_held {s : State} {p : Nat} (hS : Held pts z s) (hp : Sub [.serving, .vellum] pts := by exact Sub.up)
    : Held pts z (freePage s p) := by
  unfold freePage
  iterate 45 all_goals try first
    | with_reducible assumption
    | with_reducible refine putPage_held ?_
    | (intro x; first
        | (refine (fun (hx : Held pts z x) => ?_) ?_ <;> [clear_value x; subst x])
        | (have hx : Vellum := x; clear hx; subst x)
        | clear_value x)
    | lift_lets
    | split
    | with_reducible refine held_free ?_
    | ((with_reducible refine held_set ?_ ?_); rotate_left; exact Sound.parts)

theorem freeWaiting_held {s : State} (hS : Held pts z s) (hp : Sub [.serving, .vellum] pts := by exact Sub.up)
    : Held pts z (freeWaiting s) := by
  unfold freeWaiting
  iterate 45 all_goals try first
    | with_reducible assumption
    | with_reducible refine freePage_held ?_
    | with_reducible refine foldl_held (fun _ _ _ => ?_) ?_
    | (intro x; have hx : Vellum := x; clear hx; subst x)
    | lift_lets
    | ((with_reducible refine held_set ?_ ?_); rotate_left; exact Sound.parts)

theorem countReads_held {s : State} {d : Nat} {n : Nat} (hS : Held pts z s) (hp : Sub [.vellum] pts := by exact Sub.up)
    : Held pts z (countReads s d n) := by
  unfold countReads
  iterate 45 all_goals try first
    | with_reducible assumption
    | with_reducible refine putSite_held ?_

theorem wroteUnits_held {s : State} {d : Nat} {unit : Nat} {n : Nat} {poisoned : Bool} (hS : Held pts z s)
    (hp : Sub [.vellum] pts := by exact Sub.up) : Held pts z (wroteUnits s d unit n poisoned) := by
  unfold wroteUnits
  iterate 45 all_goals try first
    | with_reducible assumption
    | with_reducible refine putSite_held ?_
    | (intro x; have hx : Vellum := x; clear hx; subst x)
    | lift_lets
    | split
    | ((with_reducible refine held_set ?_ ?_); rotate_left; exact Sound.parts)

theorem writeUnits_held {s : State} {d : Nat} {unit : Nat} {b : List Byte} (hS : Held pts z s)
    (hp : Sub [.vellum] pts := by exact Sub.up) : Held pts z (writeUnits s d unit b) := by
  unfold writeUnits
  iterate 45 all_goals try first
    | with_reducible assumption
    | with_reducible refine wroteUnits_held ?_
    | (intro x; have hx : Vellum := x; clear hx; subst x)
    | lift_lets
    | ((with_reducible refine held_set ?_ ?_); rotate_left
       exact fun hh => ⟨hh.nvm, mwf_mwrite _ _ hh.vellum, hh.sram, hh.power,
         hh.thermal, hh.blotter, hh.events, hh.trust⟩)

theorem clearUnits_held {s : State} {d : Nat} {unit : Nat} {n : Nat} (hS : Held pts z s)
    (hp : Sub [.vellum] pts := by exact Sub.up) : Held pts z (clearUnits s d unit n) := by
  unfold clearUnits
  iterate 45 all_goals try first
    | with_reducible assumption
    | with_reducible refine wroteUnits_held ?_
    | (intro x; have hx : Vellum := x; clear hx; subst x)
    | lift_lets
    | ((with_reducible refine held_set ?_ ?_); rotate_left
       exact fun hh => ⟨hh.nvm, mwf_mclear _ _ hh.vellum, hh.sram, hh.power,
         hh.thermal, hh.blotter, hh.events, hh.trust⟩)

theorem clearPage_held {s : State} {p : Nat} (hS : Held pts z s) (hp : Sub [.vellum] pts := by exact Sub.up)
    : Held pts z (clearPage s p) := by
  unfold clearPage
  iterate 45 all_goals try first
    | with_reducible assumption
    | with_reducible refine clearUnits_held ?_

theorem moveUnits_held {s : State} {d : Nat} {unit : Nat} {e : Nat} {unit' : Nat} {n : Nat} (hS : Held pts z s)
    (hp : Sub [.vellum] pts := by exact Sub.up) : Held pts z (moveUnits s d unit e unit' n) := by
  unfold moveUnits
  dsimp only
  iterate 45 all_goals try first
    | with_reducible assumption
    | with_reducible refine countReads_held ?_
    | with_reducible refine wroteUnits_held ?_
    | ((with_reducible refine held_set ?_ ?_); rotate_left; exact Sound.parts)
    | ((with_reducible refine held_set ?_ ?_); rotate_left
       exact fun hh => ⟨hh.nvm, mwf_mpaste _ _ _ hh.vellum, hh.sram, hh.power,
         hh.thermal, hh.blotter, hh.events, hh.trust⟩)

theorem writeSummary_held {s : State} {p : Nat} (hS : Held pts z s) (hp : Sub [.vellum] pts := by exact Sub.up)
    : Held pts z (writeSummary s p) := by
  unfold writeSummary
  iterate 45 all_goals try first
    | with_reducible assumption
    | with_reducible refine writeUnits_held ?_

theorem freePagesOf_held {s : State} {l : List Nat} (hS : Held pts z s)
    (hp : Sub [.serving, .vellum] pts := by exact Sub.up) : Held pts z (freePagesOf s l) := by
  unfold freePagesOf
  iterate 45 all_goals try first
    | with_reducible assumption
    | with_reducible refine freePage_held ?_
    | with_reducible refine foldl_held (fun _ _ _ => ?_) ?_

theorem giveSessionPage_held {s : State} {id : Nat} {logical : Nat} (hS : Held pts z s)
    (hp : Sub [.serving, .vellum] pts := by exact Sub.up) : Held pts z (giveSessionPage s id logical) := by
  unfold giveSessionPage
  iterate 45 all_goals try first
    | with_reducible assumption
    | with_reducible refine modSession_held ?_
    | with_reducible refine takePage_held (he := by assumption) ?_
    | (intro x; clear_value x)
    | lift_lets
    | split

theorem ensurePages_held {s : State} {id : Nat} {upTo : Nat} (hS : Held pts z s)
    (hp : Sub [.serving, .vellum] pts := by exact Sub.up) : Held pts z (ensurePages s id upTo) := by
  unfold ensurePages
  iterate 45 all_goals try first
    | with_reducible assumption
    | with_reducible refine giveSessionPage_held ?_
    | with_reducible refine foldl_held (fun _ _ _ => ?_) ?_

theorem commitPage_held {s : State} {p : Nat} {c : Nat} (hS : Held pts z s) (hp : Sub [.vellum] pts := by exact Sub.up)
    : Held pts z (commitPage s p c) := by
  unfold commitPage
  iterate 45 all_goals try first
    | with_reducible assumption
    | with_reducible refine putPage_held ?_
    | with_reducible refine writeSummary_held ?_
    | (intro x; first
        | (refine (fun (hx : Held pts z x) => ?_) ?_ <;> [clear_value x; subst x])
        | clear_value x)
    | lift_lets
    | split

theorem commitPages_held {s : State} {id : Nat} {positions : Nat} (hS : Held pts z s)
    (hp : Sub [.vellum] pts := by exact Sub.up) : Held pts z (commitPages s id positions) := by
  unfold commitPages
  iterate 45 all_goals try first
    | with_reducible assumption
    | with_reducible refine commitPage_held ?_
    | with_reducible refine foldl_held (fun _ _ _ => ?_) ?_

theorem giveExtent_held {s : State} {id : Nat} {o : Option Nat} (hS : Held pts z s)
    (hp : Sub [.serving] pts := by exact Sub.up) : Held pts z (giveExtent s id o) := by
  unfold giveExtent
  iterate 45 all_goals try first
    | with_reducible assumption
    | with_reducible refine modSession_held ?_
    | split

theorem addExtent_held {s : State} {id : Nat} (hS : Held pts z s) (hp : Sub [.serving] pts := by exact Sub.up)
    : Held pts z (addExtent s id) := by
  unfold addExtent
  exact giveExtent_held hS

theorem growHistory_held {s : State} {id : Nat} {n : Nat} (hS : Held pts z s) (hp : Sub [.serving] pts := by exact Sub.up)
    : Held pts z (growHistory s id n) := by
  unfold growHistory
  iterate 45 all_goals try first
    | with_reducible assumption
    | with_reducible refine addExtent_held ?_
    | with_reducible refine foldl_held (fun _ _ _ => ?_) ?_

theorem writeHistory_held {s : State} {id : Nat} {k : Nat} (hS : Held pts z s) (hp : Sub [.vellum] pts := by exact Sub.up)
    : Held pts z (writeHistory s id k) := by
  unfold writeHistory
  iterate 45 all_goals try first
    | with_reducible assumption
    | with_reducible refine writeUnits_held ?_
    | split

theorem clearExtents_held {s : State} {l : List Nat} (hS : Held pts z s) (hp : Sub [.vellum] pts := by exact Sub.up)
    : Held pts z (clearExtents s l) := by
  unfold clearExtents
  iterate 45 all_goals try first
    | with_reducible assumption
    | with_reducible refine clearUnits_held ?_
    | with_reducible refine foldl_held (fun _ _ _ => ?_) ?_

theorem setHistory_held {s : State} {id : Nat} {h : List Nat} (hS : Held pts z s)
    (hp : Sub [.serving, .vellum] pts := by exact Sub.up) : Held pts z (setHistory s id h) := by
  unfold setHistory
  iterate 45 all_goals try first
    | with_reducible assumption
    | with_reducible refine putSession_held ?_
    | with_reducible refine growHistory_held ?_
    | with_reducible refine writeHistory_held ?_
    | with_reducible refine clearExtents_held ?_
    | with_reducible refine foldl_held (fun _ _ _ => ?_) ?_
    | (intro x; first
        | (refine (fun (hx : Held pts z x) => ?_) ?_ <;> [clear_value x; subst x])
        | clear_value x)
    | lift_lets
    | split

theorem releasePfx_held {s : State} {x : Nat} (hS : Held pts z s) (hp : Sub [.serving, .vellum] pts := by exact Sub.up)
    : Held pts z (releasePfx s x) := by
  unfold releasePfx
  iterate 45 all_goals try first
    | with_reducible assumption
    | with_reducible refine putPfx_held ?_
    | with_reducible refine freePagesOf_held ?_

theorem unqueue_held {s : State} {tenant : Nat} {w : Queued} (hS : Held pts z s)
    (hp : Sub [.serving] pts := by exact Sub.up) : Held pts z (unqueue s tenant w) := by
  unfold unqueue
  iterate 45 all_goals try first
    | with_reducible assumption
    | with_reducible refine putTenant_held ?_

theorem endPfx_held {s : State} {x : Nat} (hS : Held pts z s)
    (hp : Sub [.link, .mailbox, .serving, .vellum, .power, .blotter, .mgmt] pts := by exact Sub.up)
    : Held pts z (endPfx s x) := by
  unfold endPfx
  iterate 45 all_goals try first
    | with_reducible assumption
    | with_reducible refine completeStarted_held ?_
    | with_reducible refine discardRows_held ?_
    | with_reducible refine releasePfx_held ?_
    | with_reducible refine unqueue_held ?_

theorem dropReader_held {s : State} {x : Nat} (hS : Held pts z s)
    (hp : Sub [.link, .mailbox, .serving, .vellum, .power, .blotter, .mgmt] pts := by exact Sub.up)
    : Held pts z (dropReader s x) := by
  unfold dropReader
  iterate 45 all_goals try first
    | with_reducible assumption
    | with_reducible refine putPfx_held ?_
    | with_reducible refine endPfx_held ?_
    | (intro x; first
        | (refine (fun (hx : Held pts z x) => ?_) ?_ <;> [clear_value x; subst x])
        | clear_value x)
    | lift_lets
    | split

theorem queueClear_held {s : State} {k : ClearKind} (hS : Held pts z s) (hp : Sub [.serving] pts := by exact Sub.up)
    : Held pts z (queueClear s k) := by
  unfold queueClear
  iterate 45 all_goals try first
    | with_reducible assumption
    | (intro x; clear_value x)
    | lift_lets
    | split
    | with_reducible refine held_free ?_

theorem releaseStore_held {s : State} {tenant : Nat} {l : List AdapterVer} (hS : Held pts z s)
    (hp : Sub [.serving, .vellum] pts := by exact Sub.up) : Held pts z (releaseStore s tenant l) := by
  unfold releaseStore
  iterate 45 all_goals try first
    | with_reducible assumption
    | with_reducible refine queueClear_held ?_
    | (intro x; have hx : Vellum := x; clear hx; subst x)
    | lift_lets
    | split
    | ((with_reducible refine held_set ?_ ?_); rotate_left; exact Sound.parts)

theorem dropVersion_held {s : State} {tenant : Nat} {index : Nat} (hS : Held pts z s)
    (hp : Sub [.serving, .images, .vellum] pts := by exact Sub.up) : Held pts z (dropVersion s tenant index) := by
  unfold dropVersion
  iterate 45 all_goals try first
    | with_reducible assumption
    | with_reducible refine putTenant_held ?_
    | with_reducible refine queueClear_held ?_
    | with_reducible refine releaseStore_held ?_
    | with_reducible refine foldl_held (fun _ _ _ => ?_) ?_
    | (intro x; clear_value x)
    | lift_lets
    | with_reducible refine held_free ?_

theorem releaseOld_held {s : State} {tenant : Nat} (hS : Held pts z s)
    (hp : Sub [.serving, .images, .vellum] pts := by exact Sub.up) : Held pts z (releaseOld s tenant) := by
  unfold releaseOld
  iterate 45 all_goals try first
    | with_reducible assumption
    | with_reducible refine dropVersion_held ?_
    | (intro x; clear_value x)
    | lift_lets
    | split

theorem sweepPfx_held {s : State} {x : Nat} (hS : Held pts z s) (hp : Sub [.serving, .vellum] pts := by exact Sub.up)
    : Held pts z (sweepPfx s x) := by
  unfold sweepPfx
  iterate 45 all_goals try first
    | with_reducible assumption
    | with_reducible refine putPfx_held ?_
    | with_reducible refine freePagesOf_held ?_
    | (intro x; clear_value x)
    | lift_lets
    | split

theorem forfeitAll_held {s : State} {code : Nat} (hS : Held pts z s) (hp : Sub [.serving] pts := by exact Sub.up)
    : Held pts z (forfeitAll s code) := by
  unfold forfeitAll
  iterate 45 all_goals try first
    | with_reducible assumption
    | with_reducible refine mapSessions_held ?_

theorem forfeitOne_held {s : State} {id : Nat} {code : Nat} (hS : Held pts z s)
    (hp : Sub [.serving] pts := by exact Sub.up) : Held pts z (forfeitOne s id code) := by
  unfold forfeitOne
  iterate 45 all_goals try first
    | with_reducible assumption
    | with_reducible refine modTurn_held ?_

theorem setDraft_held {s : State} {id : Nat} {n : Nat} (hS : Held pts z s)
    (hp : Sub [.serving, .vellum] pts := by exact Sub.up) : Held pts z (setDraft s id n) := by
  unfold setDraft
  iterate 45 all_goals try first
    | with_reducible assumption
    | with_reducible refine clearUnits_held ?_
    | with_reducible refine foldl_held (fun _ _ _ => ?_) ?_
    | (intro x; clear_value x)
    | lift_lets
    | with_reducible refine held_free ?_

theorem cutPark_held {s : State} {id : Nat} (hS : Held pts z s)
    (hp : Sub [.link, .mailbox, .power, .blotter, .mgmt] pts := by exact Sub.up) : Held pts z (cutPark s id) := by
  unfold cutPark
  iterate 45 all_goals try first
    | with_reducible assumption
    | with_reducible refine completeStarted_held ?_

theorem releaseSession_held {s : State} {id : Nat} (hS : Held pts z s)
    (hp : Sub [.link, .mailbox, .serving, .images, .vellum, .power, .blotter, .mgmt, .trust] pts := by exact Sub.up)
    : Held pts z (releaseSession s id) := by
  unfold releaseSession
  iterate 45 all_goals try first
    | with_reducible assumption
    | with_reducible refine putPartition_held ?_
    | with_reducible refine putSession_held ?_
    | with_reducible refine freePagesOf_held ?_
    | with_reducible refine clearExtents_held ?_
    | with_reducible refine dropReader_held ?_
    | with_reducible refine releaseOld_held ?_
    | with_reducible refine sweepPfx_held ?_
    | with_reducible refine setDraft_held ?_
    | with_reducible refine cutPark_held ?_
    | (intro x; first
        | (refine (fun (hx : Held pts z x) => ?_) ?_ <;> [clear_value x; subst x])
        | (have hx : Trust := x; clear hx; subst x)
        | clear_value x)
    | lift_lets
    | split
    | ((with_reducible refine held_set ?_ ?_); rotate_left; exact Sound.parts)

theorem finishClose_held {s : State} {id : Nat} (hS : Held pts z s)
    (hp : Sub [.link, .mailbox, .serving, .images, .vellum, .power, .blotter, .mgmt, .trust] pts := by exact Sub.up)
    : Held pts z (finishClose s id) := by
  unfold finishClose
  iterate 45 all_goals try first
    | with_reducible assumption
    | with_reducible refine releaseSession_held ?_
    | (intro x; clear_value x)
    | lift_lets
    | split

theorem leaveTurn_held {s : State} {t : Turn} (hS : Held pts z s)
    (hp : Sub [.link, .mailbox, .serving, .vellum, .power, .blotter, .mgmt] pts := by exact Sub.up)
    : Held pts z (leaveTurn s t) := by
  unfold leaveTurn
  iterate 45 all_goals try first
    | with_reducible assumption
    | with_reducible refine freePagesOf_held ?_
    | with_reducible refine dropReader_held ?_
    | lift_lets
    | split

theorem closeTurn_held {s : State} {id : Nat} (hS : Held pts z s)
    (hp : Sub [.link, .mailbox, .serving, .images, .vellum, .power, .blotter, .mgmt, .trust] pts := by exact Sub.up)
    : Held pts z (closeTurn s id) := by
  unfold closeTurn
  iterate 45 all_goals try first
    | with_reducible assumption
    | with_reducible refine putSession_held ?_
    | with_reducible refine postEvent_held ?_
    | with_reducible refine report_held ?_
    | with_reducible refine notIdle_held ?_
    | with_reducible refine completeStarted_held ?_
    | with_reducible refine setHistory_held ?_
    | with_reducible refine releaseOld_held ?_
    | with_reducible refine finishClose_held ?_
    | with_reducible refine leaveTurn_held ?_
    | (intro x; clear_value x)
    | lift_lets
    | split

theorem notePending_held {s : State} {id : Nat} (hS : Held pts z s) (hp : Sub [.serving, .vellum] pts := by exact Sub.up)
    : Held pts z (notePending s id) := by
  unfold notePending
  iterate 45 all_goals try first
    | with_reducible assumption
    | with_reducible refine putSession_held ?_
    | with_reducible refine setHistory_held ?_
    | (intro x; clear_value x)
    | lift_lets
    | split

theorem issueDue_held {s : State} {id : Nat} {d : Due} (hS : Held pts z s)
    (hp : Sub [.link, .mailbox, .serving, .images, .vellum, .power, .blotter, .mgmt, .trust] pts := by exact Sub.up)
    : Held pts z (issueDue s id d) := by
  unfold issueDue
  iterate 45 all_goals try first
    | with_reducible assumption
    | with_reducible refine putQueue_held ?_
    | with_reducible refine putSession_held ?_
    | with_reducible refine wantVector_held ?_
    | with_reducible refine charge_held ?_
    | with_reducible refine closeTurn_held ?_
    | with_reducible refine notePending_held ?_
    | (intro x; first
        | (refine (fun (hx : Held pts z x) => ?_) ?_ <;> [clear_value x; subst x])
        | clear_value x)
    | lift_lets
    | split

theorem pump_held {s : State} {id : Nat} (hS : Held pts z s)
    (hp : Sub [.link, .mailbox, .serving, .images, .vellum, .power, .blotter, .mgmt, .trust] pts := by exact Sub.up)
    : Held pts z (pump s id) := by
  unfold pump
  iterate 45 all_goals try first
    | with_reducible assumption
    | with_reducible refine putQueue_held ?_
    | with_reducible refine modTurn_held ?_
    | with_reducible refine forfeitOne_held ?_
    | with_reducible refine closeTurn_held ?_
    | with_reducible refine issueDue_held ?_
    | (intro x; first
        | (refine (fun (hx : Held pts z x) => ?_) ?_ <;> [clear_value x; subst x])
        | clear_value x)
    | lift_lets
    | split
    | with_reducible refine held_free ?_

theorem pumpAll_held {n : Nat} {s : State} {id : Nat} (hS : Held pts z s)
    (hp : Sub [.link, .mailbox, .serving, .images, .vellum, .power, .blotter, .mgmt, .trust] pts := by exact Sub.up)
    : Held pts z (pumpAll n s id) := by
  induction n generalizing s with
  | zero => exact hS
  | succ n ih => exact ih (pump_held hS)

theorem countFlush_held {s : State} {t : Turn} (hS : Held pts z s) (hp : Sub [.serving] pts := by exact Sub.up)
    : Held pts z (countFlush s t) := by
  unfold countFlush
  iterate 45 all_goals try first
    | with_reducible assumption
    | (intro x; clear_value x)
    | lift_lets
    | split
    | with_reducible refine held_free ?_

theorem endTurn_held {s : State} {id : Nat} {reason : Nat} (hS : Held pts z s)
    (hp : Sub [.link, .mailbox, .serving, .images, .vellum, .power, .blotter, .mgmt, .trust] pts := by exact Sub.up)
    : Held pts z (endTurn s id reason) := by
  unfold endTurn
  iterate 45 all_goals try first
    | with_reducible assumption
    | with_reducible refine modTurn_held ?_
    | with_reducible refine discardRows_held ?_
    | with_reducible refine pumpAll_held ?_
    | with_reducible refine countFlush_held ?_
    | with_reducible refine unqueue_held ?_
    | (intro x; first
        | (refine (fun (hx : Held pts z x) => ?_) ?_ <;> [clear_value x; subst x])
        | clear_value x)
    | lift_lets
    | split

theorem dropHeld_held {s : State} {id : Nat} {t : Turn} (hS : Held pts z s) (hp : Sub [.mailbox] pts := by exact Sub.up)
    : Held pts z (dropHeld s id t) := by
  unfold dropHeld
  iterate 45 all_goals try first
    | with_reducible assumption
    | with_reducible refine putQueue_held ?_

theorem lateStop_held {s : State} {id : Nat} (hS : Held pts z s)
    (hp : Sub [.link, .mailbox, .serving, .images, .vellum, .power, .blotter, .mgmt, .trust] pts := by exact Sub.up)
    : Held pts z (lateStop s id) := by
  unfold lateStop
  iterate 45 all_goals try first
    | with_reducible assumption
    | with_reducible refine modTurn_held ?_
    | with_reducible refine endTurn_held ?_
    | with_reducible refine dropHeld_held ?_
    | (intro x; clear_value x)
    | lift_lets
    | split

theorem drainHolding_held {n : Nat} {s : State} {m : Nat} {k : Nat} (hS : Held pts z s)
    (hp : Sub [.link, .mailbox, .serving, .images, .vellum, .power, .blotter, .mgmt, .trust] pts := by exact Sub.up)
    : Held pts z (drainHolding n s m k) := by
  induction n generalizing s m k with
  | zero => exact hS
  | succ n ih =>
    unfold drainHolding
    iterate 20 all_goals try first
      | with_reducible assumption
      | with_reducible refine ih ?_
      | with_reducible refine putQueue_held ?_
      | with_reducible refine issueDue_held ?_
      | with_reducible refine lateStop_held ?_
      | with_reducible refine foldl_held (fun _ _ _ => ?_) ?_
      | (intro x
         first
           | (refine (fun (hx : Held pts z x) => ?_) ?_ <;> [clear_value x; subst x])
           | (refine (fun (hx : ∀ s, Held pts z s → Held pts z (x s)) => ?_) ?_ <;> [clear_value x; (subst x; intro _ _; dsimp only)])
           | (refine (fun (hx : ∀ s a, Held pts z s → Held pts z (x s a)) => ?_) ?_ <;> [clear_value x; (subst x; intro _ _ _; dsimp only)])
           | (refine (fun (hx : ∀ a, Held pts z (x a)) => ?_) ?_ <;> [clear_value x; (subst x; intro _; dsimp only)])
           | (refine (fun (hx : Held pts z x.state) => ?_) ?_ <;> [clear_value x; (subst x; try dsimp only)])
           | (refine (fun (hx : Held pts z x.2) => ?_) ?_ <;> [clear_value x; (subst x; try dsimp only)])
           | (have hx : Vellum := x; clear hx; subst x)
           | (have hx : Fabric := x; clear hx; subst x)
           | (have hx : Power := x; clear hx; subst x)
           | (have hx : Thermal := x; clear hx; subst x)
           | (have hx : Blotter := x; clear hx; subst x)
           | (have hx : Mgmt := x; clear hx; subst x)
           | (have hx : Trust := x; clear hx; subst x)
           | (have hx : Nvm := x; clear hx; subst x)
           | clear_value x
           | subst x)
      | lift_lets
      | split
      | with_reducible refine held_free ?_
      | ((with_reducible refine held_set ?_ ?_); rotate_left; exact Sound.parts)
      | ((with_reducible refine held_set ?_ ?_); rotate_left
         exact fun hh => ⟨(by first
             | exact hh.nvm
             | exact nvmSound_reported hh.nvm rfl
             | exact ⟨hh.nvm.1, hh.nvm.2.1, hh.nvm.2.2.1, Nat.le_trans (List.length_filter_le _ _) hh.nvm.2.2.2⟩),
           (by first
             | exact hh.vellum
             | exact mwf_mpaste _ _ _ hh.vellum
             | exact mwf_foldl (fun _ _ hm => mwf_mclear _ _ hm) hh.vellum
             | exact mwf_foldl (fun _ _ hm => mwf_mwrite _ _ hm) hh.vellum
             | exact mwf_foldl (fun _ _ hm => mwf_mput _ _ hm) hh.vellum
             | exact rfl
             | exact mwf_mwrite _ _ hh.vellum
             | exact mwf_mclear _ _ hh.vellum),
           (by first
             | exact hh.sram
             | exact mwf_mpaste _ _ _ hh.sram
             | exact mwf_foldl (fun _ _ hm => mwf_mclear _ _ hm) hh.sram
             | exact mwf_foldl (fun _ _ hm => mwf_mwrite _ _ hm) hh.sram
             | exact mwf_foldl (fun _ _ hm => mwf_mput _ _ hm) hh.sram
             | exact rfl
             | exact mwf_mwrite _ _ hh.sram
             | exact mwf_mclear _ _ hh.sram
             | exact twf_filter _ hh.sram),
           (by first
             | exact hh.power
             | exact powerSound_default
             | exact ⟨hh.power.1, hh.power.1, hh.power.2.2⟩
             | exact ⟨hh.power.1, hh.power.1, (by decide : 1 ≤ 6), (by decide : 6 ≤ 14)⟩),
           (by first
             | exact hh.thermal
             | exact ⟨Nat.le_refl 18500, rfl⟩),
           (by first
             | exact hh.blotter
             | exact blotterSound_default
             | exact ⟨hh.blotter.1, hh.blotter.2.1, Nat.zero_le _⟩
             | exact ⟨keepRing_le _, Nat.zero_le _, hh.blotter.2.2⟩),
           (by first
             | exact hh.events
             | exact Nat.zero_le _),
           (by first
             | exact hh.trust
             | exact trustSound_default)⟩)

theorem drainAll_held {s : State} {func : Nat} {qp : Nat} (hS : Held pts z s)
    (hp : Sub [.link, .mailbox, .serving, .images, .vellum, .power, .blotter, .mgmt, .trust] pts := by exact Sub.up)
    : Held pts z (drainAll s func qp) := by
  unfold drainAll
  iterate 45 all_goals try first
    | with_reducible assumption
    | with_reducible refine drainHolding_held ?_

theorem dropTurn_held {s : State} {id : Nat} (hS : Held pts z s)
    (hp : Sub [.link, .mailbox, .serving, .images, .vellum, .power, .blotter, .mgmt, .trust] pts := by exact Sub.up)
    : Held pts z (dropTurn s id) := by
  unfold dropTurn
  iterate 45 all_goals try first
    | with_reducible assumption
    | with_reducible refine modTurn_held ?_
    | with_reducible refine discardRows_held ?_
    | with_reducible refine unqueue_held ?_
    | with_reducible refine closeTurn_held ?_
    | with_reducible refine dropHeld_held ?_
    | (intro x; clear_value x)
    | lift_lets
    | split

theorem endSession_held {s : State} {id : Nat} {reason : Nat} (hS : Held pts z s)
    (hp : Sub [.link, .mailbox, .serving, .images, .vellum, .power, .blotter, .mgmt, .trust] pts := by exact Sub.up)
    : Held pts z (endSession s id reason) := by
  unfold endSession
  iterate 45 all_goals try first
    | with_reducible assumption
    | with_reducible refine putSession_held ?_
    | with_reducible refine postEvent_held ?_
    | with_reducible refine finishClose_held ?_
    | with_reducible refine endTurn_held ?_
    | (intro x; first
        | (refine (fun (hx : Held pts z x) => ?_) ?_ <;> [clear_value x; subst x])
        | clear_value x)
    | lift_lets
    | split

theorem endTurns_held {s : State} {p : Session → Bool} {reason : Nat} (hS : Held pts z s)
    (hp : Sub [.link, .mailbox, .serving, .images, .vellum, .power, .blotter, .mgmt, .trust] pts := by exact Sub.up)
    : Held pts z (endTurns s p reason) := by
  unfold endTurns
  iterate 45 all_goals try first
    | with_reducible assumption
    | with_reducible refine endTurn_held ?_
    | with_reducible refine foldl_held (fun _ _ _ => ?_) ?_

theorem dropTurns_held {s : State} {p : Session → Bool} (hS : Held pts z s)
    (hp : Sub [.link, .mailbox, .serving, .images, .vellum, .power, .blotter, .mgmt, .trust] pts := by exact Sub.up)
    : Held pts z (dropTurns s p) := by
  unfold dropTurns
  iterate 45 all_goals try first
    | with_reducible assumption
    | with_reducible refine dropTurn_held ?_
    | with_reducible refine foldl_held (fun _ _ _ => ?_) ?_

theorem countFor_held {s : State} {step : Nat} {tensor : Nat} {c : Counts} (hS : Held pts z s)
    (hp : Sub [.serving] pts := by exact Sub.up) : Held pts z (countFor s step tensor c) := by
  unfold countFor
  iterate 45 all_goals try first
    | with_reducible assumption
    | (intro x; clear_value x)
    | lift_lets
    | with_reducible refine held_free ?_

end Sys2Proof.Laws
end

