-- ==== Sys2Proof/Laws/KeepAdmission.lean ====
section
/-! SUPPORT. What the functions of Machine/Admission.lean do, as Laws/Kept.lean says it: the parts that each one may change. -/

namespace Sys2Proof.Laws

set_option Elab.async false

open Sys2Proof Sys2Proof.Machine

variable {pts : List Part} {z : State}

theorem copyPositions_held {s : State} {from_ : Nat} {to_ : Nat} {n : Nat} (hS : Held pts z s)
    (hp : Sub [.vellum] pts := by exact Sub.up) : Held pts z (copyPositions s from_ to_ n) := by
  unfold copyPositions
  iterate 45 all_goals try first
    | with_reducible assumption
    | with_reducible refine moveUnits_held ?_

theorem attachPrefix_held {s : State} {id : Nat} {x : Nat} (hS : Held pts z s)
    (hp : Sub [.serving, .vellum] pts := by exact Sub.up) : Held pts z (attachPrefix s id x) := by
  unfold attachPrefix
  iterate 45 all_goals try first
    | with_reducible assumption
    | with_reducible refine modSession_held ?_
    | with_reducible refine giveSessionPage_held ?_
    | with_reducible refine commitPages_held ?_
    | with_reducible refine setHistory_held ?_
    | with_reducible refine copyPositions_held ?_
    | (intro x; first
        | (refine (fun (hx : Held pts z x) => ?_) ?_ <;> [clear_value x; subst x])
        | clear_value x)
    | lift_lets
    | split

theorem attachWaiting_held {s : State} {x : Nat} (hS : Held pts z s) (hp : Sub [.serving, .vellum] pts := by exact Sub.up)
    : Held pts z (attachWaiting s x) := by
  unfold attachWaiting
  iterate 45 all_goals try first
    | with_reducible assumption
    | with_reducible refine attachPrefix_held ?_
    | with_reducible refine foldl_held (fun _ _ _ => ?_) ?_

theorem startPark_held {s : State} {id : Nat} (hS : Held pts z s) (hp : Sub [.serving, .vellum] pts := by exact Sub.up)
    : Held pts z (startPark s id) := by
  unfold startPark
  iterate 45 all_goals try first
    | with_reducible assumption
    | with_reducible refine putPartition_held ?_
    | with_reducible refine putSession_held ?_
    | with_reducible refine putPage_held ?_
    | (intro x; first
        | (refine (fun (hx : Held pts z x) => ?_) ?_ <;> [clear_value x; subst x])
        | clear_value x)
    | lift_lets
    | split

theorem startUnpark_held {s : State} {id : Nat} (hS : Held pts z s) (hp : Sub [.serving] pts := by exact Sub.up)
    : Held pts z (startUnpark s id) := by
  unfold startUnpark
  iterate 45 all_goals try first
    | with_reducible assumption
    | with_reducible refine modSession_held ?_

theorem parkOldest_held {goal : Nat} {l : List (Nat × Nat)} {k : Nat} {s : State} (hS : Held pts z s)
    (hp : Sub [.serving, .vellum] pts := by exact Sub.up) : Held pts z (parkOldest goal l k s) := by
  induction l generalizing k s with
  | nil => exact hS
  | cons x l ih =>
    unfold parkOldest
    dsimp only
    split
    · exact hS
    · split
      · exact ih (startPark_held hS)
      · exact ih hS

theorem countText_held {s : State} {bytes : Nat} {tokens : Nat} (hS : Held pts z s)
    (hp : Sub [.serving] pts := by exact Sub.up) : Held pts z (countText s bytes tokens) := by
  unfold countText
  iterate 45 all_goals try first
    | with_reducible assumption
    | (intro x; clear_value x)
    | lift_lets
    | with_reducible refine held_free ?_

theorem countPrompt_held {s : State} {slot : Nat} {p : Prompt} (hS : Held pts z s)
    (hp : Sub [.serving] pts := by exact Sub.up) : Held pts z (countPrompt s slot p) := by
  unfold countPrompt
  iterate 45 all_goals try first
    | with_reducible assumption
    | with_reducible refine countText_held ?_

theorem startTurn_held {s : State} {id : Nat} {slot : Nat} {kept : Turn} (hS : Held pts z s)
    (hp : Sub [.link, .mailbox, .serving, .images, .vellum, .power, .blotter, .mgmt, .trust] pts := by exact Sub.up)
    : Held pts z (startTurn s id slot kept) := by
  unfold startTurn
  iterate 45 all_goals try first
    | with_reducible assumption
    | with_reducible refine putPartition_held ?_
    | with_reducible refine putSession_held ?_
    | with_reducible refine completeStarted_held ?_
    | with_reducible refine modSession_held ?_
    | with_reducible refine setHistory_held ?_
    | with_reducible refine dropReader_held ?_
    | with_reducible refine releaseOld_held ?_
    | with_reducible refine sweepPfx_held ?_
    | with_reducible refine endTurn_held ?_
    | with_reducible refine attachPrefix_held ?_
    | with_reducible refine startUnpark_held ?_
    | with_reducible refine countText_held ?_
    | with_reducible refine countPrompt_held ?_
    | (intro x; first
        | (refine (fun (hx : Held pts z x) => ?_) ?_ <;> [clear_value x; subst x])
        | clear_value x
        | subst x)
    | lift_lets
    | split
    | with_reducible refine held_free ?_

theorem acceptTurn_held {s : State} {tenant : Nat} {w : Queued} (hS : Held pts z s)
    (hp : Sub [.link, .mailbox, .serving, .images, .vellum, .power, .blotter, .mgmt, .trust] pts := by exact Sub.up)
    : Held pts z (acceptTurn s tenant w) := by
  unfold acceptTurn
  iterate 45 all_goals try first
    | with_reducible assumption
    | with_reducible refine putPfx_held ?_
    | with_reducible refine unqueue_held ?_
    | with_reducible refine startTurn_held ?_
    | (intro x; refine (fun (hx : Held pts z x) => ?_) ?_ <;> [clear_value x; subst x])
    | lift_lets
    | split

theorem spend_held {p n : Nat} {s : State} (hS : Held pts z s)
    (hp : Sub [.link, .mailbox, .serving, .images, .vellum, .power, .blotter, .mgmt, .trust] pts := by exact Sub.up)
    : Held pts z (spend p n s) := by
  induction n generalizing s with
  | zero => exact hS
  | succ n ih =>
    unfold spend
    split
    · exact putPartition_held hS
    · split
      · exact hS
      · dsimp only
        split
        · exact hS
        · exact ih (acceptTurn_held (putPartition_held hS))

theorem testLevels_held {s : State} (hS : Held pts z s) (hp : Sub [.serving] pts := by exact Sub.up)
    : Held pts z (testLevels s) := by
  unfold testLevels
  iterate 45 all_goals try first
    | with_reducible assumption
    | with_reducible refine held_free ?_

theorem round_held {n : Nat} {s : State} (hS : Held pts z s)
    (hp : Sub [.link, .mailbox, .serving, .images, .vellum, .power, .blotter, .mgmt, .trust] pts := by exact Sub.up)
    : Held pts z (Machine.round n s) := by
  induction n generalizing s with
  | zero => exact hS
  | succ n ih =>
    unfold Machine.round
    split
    · exact hS
    · exact ih (spend_held (held_free (putPartition_held hS)))

end Sys2Proof.Laws
end

