-- ==== Sys2Proof/Laws/KeepLinkOps.lean ====
section
/-! SUPPORT. What the functions of Machine/LinkOps.lean do, as Laws/Kept.lean says it: the parts that each one may change. -/

namespace Sys2Proof.Laws

set_option Elab.async false

open Sys2Proof Sys2Proof.Machine

variable {pts : List Part} {z : State}

theorem accessFault_held {s : State} {address : Nat} {func : Nat} (hS : Held pts z s)
    (hp : Sub [.link, .mailbox, .blotter, .mgmt] pts := by exact Sub.up) : Held pts z (accessFault s address func) := by
  unfold accessFault
  iterate 45 all_goals try first
    | with_reducible assumption
    | with_reducible refine note_held ?_

theorem aerError_held {s : State} {bit : Nat} (hS : Held pts z s) (hp : Sub [.link] pts := by exact Sub.up)
    : Held pts z (aerError s bit) := by
  unfold aerError
  iterate 45 all_goals try first
    | with_reducible assumption
    | (intro x; clear_value x)
    | lift_lets
    | with_reducible refine held_free ?_

theorem writeEvent_held {s : State} {func : Nat} {e : Event} (hS : Held pts z s)
    (hp : Sub [.link, .mailbox] pts := by exact Sub.up) : Held pts z (writeEvent s func e) :=
  wantVector_held (putQueue_held hS)

theorem postWaiting_held {func n : Nat} {s : State} (hS : Held pts z s)
    (hp : Sub [.link, .mailbox] pts := by exact Sub.up) : Held pts z (postWaiting func n s) := by
  induction n generalizing s with
  | zero => exact hS
  | succ n ih =>
    unfold postWaiting
    split
    · exact ih (held_free (writeEvent_held hS))
    · dsimp only
      split
      · exact held_free (writeEvent_held hS)
      · exact hS

theorem postBacklog_held {s : State} {func : Nat} (hS : Held pts z s) (hp : Sub [.link, .mailbox] pts := by exact Sub.up)
    : Held pts z (postBacklog s func) := by
  unfold postBacklog
  iterate 45 all_goals try first
    | with_reducible assumption
    | with_reducible refine postWaiting_held ?_

theorem flushHeld_held {s : State} {func : Nat} {qp : Nat} (hS : Held pts z s)
    (hp : Sub [.link, .mailbox] pts := by exact Sub.up) : Held pts z (flushHeld s func qp) := by
  unfold flushHeld
  iterate 45 all_goals try first
    | with_reducible assumption
    | with_reducible refine putQueue_held ?_
    | with_reducible refine wantVector_held ?_
    | (intro x; first
        | (refine (fun (hx : Held pts z x) => ?_) ?_ <;> [clear_value x; subst x])
        | clear_value x)
    | lift_lets
    | split

theorem postPairEvent_held {s : State} {func : Nat} {qp : Nat} {e : Event} (hS : Held pts z s)
    (hp : Sub [.link, .mailbox] pts := by exact Sub.up) : Held pts z (postPairEvent s func qp e) := by
  unfold postPairEvent
  dsimp only
  split
  · exact writeEvent_held hS
  · exact backlogAdd_held hS

theorem queueError_held {s : State} {func : Nat} {qp : Nat} {cause : Nat} (hS : Held pts z s)
    (hp : Sub [.link, .mailbox, .blotter, .mgmt] pts := by exact Sub.up) : Held pts z (queueError s func qp cause) := by
  unfold queueError
  iterate 45 all_goals try first
    | with_reducible assumption
    | with_reducible refine putQueue_held ?_
    | with_reducible refine note_held ?_
    | with_reducible refine postPairEvent_held ?_

theorem discardHeld_held {s : State} {func : Nat} (hS : Held pts z s) (hp : Sub [.mailbox] pts := by exact Sub.up)
    : Held pts z (discardHeld s func) := by
  unfold discardHeld
  iterate 45 all_goals try first
    | with_reducible assumption
    | with_reducible refine putQueue_held ?_
    | with_reducible refine foldl_held (fun _ _ _ => ?_) ?_
    | (intro x; first
        | (refine (fun (hx : Held pts z x) => ?_) ?_ <;> [clear_value x; subst x])
        | clear_value x)
    | lift_lets
    | with_reducible refine held_free ?_

theorem dropFunctionTurns_held {s : State} {func : Nat} (hS : Held pts z s)
    (hp : Sub [.link, .mailbox, .serving, .images, .vellum, .power, .blotter, .mgmt, .trust] pts := by exact Sub.up)
    : Held pts z (dropFunctionTurns s func) := by
  unfold dropFunctionTurns
  iterate 45 all_goals try first
    | with_reducible assumption
    | with_reducible refine dropTurns_held ?_
    | split

theorem dropBinding_held {s : State} {func : Nat} (hS : Held pts z s)
    (hp : Sub [.link, .mailbox, .serving, .images, .vellum, .power, .blotter, .mgmt, .trust] pts := by exact Sub.up)
    : Held pts z (dropBinding s func) := by
  unfold dropBinding
  iterate 45 all_goals try first
    | with_reducible assumption
    | with_reducible refine discardHeld_held ?_
    | with_reducible refine dropFunctionTurns_held ?_
    | (intro x; first
        | (refine (fun (hx : Held pts z x) => ?_) ?_ <;> [clear_value x; subst x])
        | clear_value x)
    | lift_lets
    | with_reducible refine held_free ?_

theorem setToken_held {s : State} {func : Nat} {tok : Nat} (hS : Held pts z s) (hp : Sub [.link] pts := by exact Sub.up)
    : Held pts z (setToken s func tok) := by
  unfold setToken
  iterate 45 all_goals try first
    | with_reducible assumption
    | with_reducible refine putFn_held ?_

theorem bindFresh_held {s : State} {func : Nat} (hS : Held pts z s)
    (hp : Sub [.free, .link, .mailbox] pts := by exact Sub.up) : Held pts z (bindFresh s func) := by
  unfold bindFresh
  iterate 45 all_goals try first
    | with_reducible assumption
    | with_reducible refine drewFree_held ?_
    | with_reducible refine setToken_held ?_
    | (intro x; first
        | (refine (fun (hx : Held pts z x) => ?_) ?_ <;> [clear_value x; subst x])
        | clear_value x)
    | lift_lets
    | with_reducible refine held_free ?_

theorem endExport_held {s : State} (hS : Held pts z s) (hp : Sub [.images] pts := by exact Sub.up)
    : Held pts z (endExport s) := by
  unfold endExport
  iterate 45 all_goals try first
    | with_reducible assumption
    | (intro x; clear_value x)
    | lift_lets
    | with_reducible refine held_free ?_

theorem releaseAdapters_held {s : State} {tenant : Nat} (hS : Held pts z s)
    (hp : Sub [.serving, .images, .vellum] pts := by exact Sub.up) : Held pts z (releaseAdapters s tenant) := by
  unfold releaseAdapters
  iterate 45 all_goals try first
    | with_reducible assumption
    | with_reducible refine putTenant_held ?_
    | with_reducible refine queueClear_held ?_
    | with_reducible refine releaseStore_held ?_
    | with_reducible refine foldl_held (fun _ _ _ => ?_) ?_
    | (intro x; clear_value x)
    | lift_lets
    | with_reducible refine held_free ?_

theorem resetQueue_held {s : State} {func : Nat} {qp : Nat} {hold : Bool} (hS : Held pts z s)
    (hp : Sub [.mailbox] pts := by exact Sub.up) : Held pts z (resetQueue s func qp hold) := by
  unfold resetQueue
  iterate 45 all_goals try first
    | with_reducible assumption
    | with_reducible refine putQueue_held ?_

theorem resetFn_held {s : State} {func : Nat} {hold : Bool} (hS : Held pts z s)
    (hp : Sub [.link, .mailbox] pts := by exact Sub.up) : Held pts z (resetFn s func hold) := by
  unfold resetFn
  iterate 45 all_goals try first
    | with_reducible assumption
    | with_reducible refine putFn_held ?_
    | with_reducible refine resetQueue_held ?_
    | with_reducible refine foldl_held (fun _ _ _ => ?_) ?_

theorem clearPartition_held {s : State} {n : Nat} (hS : Held pts z s)
    (hp : Sub [.link, .mailbox, .serving, .images, .vellum, .power, .blotter, .mgmt, .trust] pts := by exact Sub.up)
    : Held pts z (clearPartition s n) := by
  unfold clearPartition
  iterate 45 all_goals try first
    | with_reducible assumption
    | with_reducible refine putPartition_held ?_
    | with_reducible refine modSession_held ?_
    | with_reducible refine discardRows_held ?_
    | with_reducible refine releasePfx_held ?_
    | with_reducible refine unqueue_held ?_
    | with_reducible refine queueClear_held ?_
    | with_reducible refine finishClose_held ?_
    | with_reducible refine dropTurns_held ?_
    | with_reducible refine releaseAdapters_held ?_
    | with_reducible refine foldl_held (fun _ _ _ => ?_) ?_
    | (intro x; first
        | (refine (fun (hx : Held pts z x) => ?_) ?_ <;> [clear_value x; subst x])
        | clear_value x)
    | lift_lets
    | split

theorem flrVf_held {s : State} {func : Nat} (hS : Held pts z s)
    (hp : Sub [.link, .mailbox, .serving, .images, .vellum, .power, .blotter, .mgmt, .trust] pts := by exact Sub.up)
    : Held pts z (flrVf s func) := by
  unfold flrVf
  iterate 45 all_goals try first
    | with_reducible assumption
    | with_reducible refine putFn_held ?_
    | with_reducible refine discardHeld_held ?_
    | with_reducible refine resetFn_held ?_
    | with_reducible refine clearPartition_held ?_
    | (intro x; first
        | (refine (fun (hx : Held pts z x) => ?_) ?_ <;> [clear_value x; subst x])
        | clear_value x)
    | lift_lets
    | with_reducible refine held_free ?_

theorem clearVfs_held {s : State} (hS : Held pts z s)
    (hp : Sub [.link, .mailbox, .serving, .images, .vellum, .power, .blotter, .mgmt, .trust] pts := by exact Sub.up)
    : Held pts z (clearVfs s) := by
  unfold clearVfs
  iterate 45 all_goals try first
    | with_reducible assumption
    | with_reducible refine flrVf_held ?_
    | with_reducible refine foldl_held (fun _ _ _ => ?_) ?_
    | (intro x; first
        | (refine (fun (hx : Held pts z x) => ?_) ?_ <;> [clear_value x; subst x])
        | clear_value x)
    | lift_lets
    | split
    | with_reducible refine held_free ?_

theorem tdiError_held {s : State} {func : Nat} (hS : Held pts z s)
    (hp : Sub [.link, .mailbox, .serving, .images, .vellum, .power, .blotter, .mgmt, .trust] pts := by exact Sub.up)
    : Held pts z (tdiError s func) := by
  unfold tdiError
  iterate 45 all_goals try first
    | with_reducible assumption
    | with_reducible refine putFn_held ?_
    | with_reducible refine flrVf_held ?_

theorem linkReset_held {s : State} (hS : Held pts z s)
    (hp : Sub [.link, .mailbox, .serving, .images] pts := by exact Sub.up) : Held pts z (linkReset s) := by
  unfold linkReset
  iterate 45 all_goals try first
    | with_reducible assumption
    | with_reducible refine putFn_held ?_
    | with_reducible refine forfeitAll_held ?_
    | with_reducible refine endExport_held ?_
    | with_reducible refine resetFn_held ?_
    | with_reducible refine foldl_held (fun _ _ _ => ?_) ?_
    | (intro x; first
        | (refine (fun (hx : Held pts z x) => ?_) ?_ <;> [clear_value x; subst x])
        | clear_value x)
    | lift_lets
    | with_reducible refine held_free ?_

theorem endRrs_held {s : State} (hS : Held pts z s) (hp : Sub [.link, .mailbox] pts := by exact Sub.up)
    : Held pts z (endRrs s) := by
  unfold endRrs
  iterate 45 all_goals try first
    | with_reducible assumption
    | (intro x; clear_value x)
    | lift_lets
    | with_reducible refine held_free ?_

theorem flrPf_held {s : State} (hS : Held pts z s)
    (hp : Sub [.link, .mailbox, .serving, .images, .vellum, .power, .blotter, .mgmt, .trust] pts := by exact Sub.up)
    : Held pts z (flrPf s) := by
  unfold flrPf
  iterate 45 all_goals try first
    | with_reducible assumption
    | with_reducible refine discardHeld_held ?_
    | with_reducible refine endExport_held ?_
    | with_reducible refine resetFn_held ?_
    | with_reducible refine flrVf_held ?_
    | with_reducible refine foldl_held (fun _ _ _ => ?_) ?_
    | (intro x; first
        | (refine (fun (hx : Held pts z x) => ?_) ?_ <;> [clear_value x; subst x])
        | clear_value x)
    | lift_lets
    | with_reducible refine held_free ?_

end Sys2Proof.Laws
end

