-- ==== Sys2Proof/Laws/KeepRecords.lean ====
section
/-! SUPPORT. What the functions of Machine/Records.lean do, as Laws/Kept.lean says it: the parts that each one may change. -/

namespace Sys2Proof.Laws

set_option Elab.async false

open Sys2Proof Sys2Proof.Machine

variable {pts : List Part} {z : State}

theorem mapChanged_held {s : State} (hS : Held pts z s) (hp : Sub [.map] pts := by exact Sub.up)
    : Held pts z (mapChanged s) := by
  unfold mapChanged
  iterate 45 all_goals try first
    | with_reducible assumption
    | (intro x; clear_value x)
    | lift_lets
    | split
    | with_reducible refine held_free ?_

end Sys2Proof.Laws
end

