-- ==== Sys2Proof/Laws/KeepRepair.lean ====
section
/-! SUPPORT. What the functions of Machine/Repair.lean do, as Laws/Kept.lean says it: the parts that each one may change. -/

namespace Sys2Proof.Laws

set_option Elab.async false

open Sys2Proof Sys2Proof.Machine

variable {pts : List Part} {z : State}

theorem modStep_held {s : State} {n : Nat} {f : Step → Step} (hS : Held pts z s)
    (hp : Sub [.serving] pts := by exact Sub.up) : Held pts z (modStep s n f) := by
  unfold modStep
  iterate 45 all_goals try first
    | with_reducible assumption
    | (intro x; clear_value x)
    | lift_lets
    | with_reducible refine held_free ?_

theorem leaveFlight_held {s : State} {st : Step} (hS : Held pts z s)
    (hp : Sub [.link, .mailbox, .serving, .images, .vellum, .power, .blotter, .mgmt, .trust] pts := by exact Sub.up)
    : Held pts z (leaveFlight s st) := by
  unfold leaveFlight
  iterate 45 all_goals try first
    | with_reducible assumption
    | with_reducible refine notIdle_held ?_
    | with_reducible refine freeWaiting_held ?_
    | with_reducible refine finishClose_held ?_
    | with_reducible refine foldl_held (fun _ _ _ => ?_) ?_
    | (intro x; clear_value x)
    | lift_lets
    | with_reducible refine held_free ?_

theorem markFaulty_held {s : State} {units : List Nat} (hS : Held pts z s) (hp : Sub [.serving] pts := by exact Sub.up)
    : Held pts z (markFaulty s units) := by
  unfold markFaulty
  iterate 45 all_goals try first
    | with_reducible assumption
    | (intro x; clear_value x)
    | lift_lets
    | with_reducible refine held_free ?_

theorem point14_held {s : State} (hS : Held pts z s) (hp : Sub [.power] pts := by exact Sub.up)
    : Held pts z { s with power := { s.power with point := 14 } } :=
  held_set hS (fun hh => ⟨hh.nvm, hh.vellum, hh.sram,
    ⟨hh.power.1, hh.power.2.1, (by decide : 1 ≤ 14), (by decide : 14 ≤ 14)⟩, hh.thermal, hh.blotter, hh.events,
    hh.trust⟩)

theorem clearIdle_held {s : State} {us : List Nat} (hS : Held pts z s) (hp : Sub [.fabric] pts := by exact Sub.up)
    : Held pts z (clearIdle s us) :=
  held_set hS (fun hh => ⟨hh.nvm, hh.vellum, twf_filter _ hh.sram, hh.power, hh.thermal, hh.blotter, hh.events, hh.trust⟩)

theorem clearCluster_held {s : State} {u : Nat} (hS : Held pts z s) (hp : Sub [.serving, .fabric] pts := by exact Sub.up)
    : Held pts z (clearCluster s u) := by
  unfold clearCluster
  iterate 45 all_goals try first
    | with_reducible assumption
    | with_reducible refine putIsland_held ?_
    | with_reducible refine clearIdle_held ?_
    | (intro x; clear_value x)
    | lift_lets
    | with_reducible refine held_free ?_

theorem writeHalf_held {s : State} {tile : Nat} {h : Nat} {l : List (BitVec 128)} (hS : Held pts z s)
    (hp : Sub [.fabric] pts := by exact Sub.up) : Held pts z (writeHalf s tile h l) := by
  unfold writeHalf
  iterate 45 all_goals try first
    | with_reducible assumption
    | with_reducible refine putTile_held ?_

theorem writeSet_held {s : State} {n : Nat} {u : Nat} {v : Nat} {h : Nat} {b : FolioBody} {streaming : Bool}
    (hS : Held pts z s) (hp : Sub [.fabric] pts := by exact Sub.up) : Held pts z (writeSet s n u v h b streaming) := by
  unfold writeSet
  iterate 45 all_goals try first
    | with_reducible assumption
    | with_reducible refine putIsland_held ?_
    | with_reducible refine putTile_held ?_
    | with_reducible refine writeHalf_held ?_
    | with_reducible refine foldl_held (fun _ _ _ => ?_) ?_

theorem placeSet_held {s : State} {n : Nat} {u : Nat} {v : Nat} {h : Nat} {b : FolioBody} {streaming : Bool}
    (hS : Held pts z s) (hp : Sub [.fabric] pts := by exact Sub.up) : Held pts z (placeSet s n u v h b streaming) := by
  unfold placeSet
  iterate 45 all_goals try first
    | with_reducible assumption
    | with_reducible refine writeSet_held ?_
    | (intro x; clear_value x)
    | lift_lets
    | split

theorem refillSeats_held {s : State} {n : Nat} {at_ : Nat → Bool} (hS : Held pts z s)
    (hp : Sub [.fabric] pts := by exact Sub.up) : Held pts z (refillSeats s n at_) := by
  unfold refillSeats
  iterate 45 all_goals try first
    | with_reducible assumption
    | with_reducible refine foldl_held (fun _ _ _ => ?_) ?_
    | (intro x; clear_value x)
    | lift_lets
    | split
    | ((with_reducible refine held_set ?_ ?_); rotate_left
       exact fun hh => ⟨hh.nvm, hh.vellum, mwf_mwrite _ _ hh.sram, hh.power,
         hh.thermal, hh.blotter, hh.events, hh.trust⟩)

theorem setRegions_held {s : State} {p : ClusterPlan} (hS : Held pts z s) (hp : Sub [.fabric] pts := by exact Sub.up)
    : Held pts z (setRegions s p) := by
  unfold setRegions
  iterate 45 all_goals try first
    | with_reducible assumption
    | (intro x; first
        | (have hx : Fabric := x; clear hx; subst x)
        | clear_value x)
    | lift_lets
    | ((with_reducible refine held_set ?_ ?_); rotate_left; exact Sound.parts)

theorem coverWith_held {s : State} {n : Nat} {b : FolioBody} {c : ClusterPlan} {v : Nat} (hS : Held pts z s)
    (hp : Sub [.serving, .fabric] pts := by exact Sub.up) : Held pts z (coverWith s n b c v) := by
  unfold coverWith
  iterate 45 all_goals try first
    | with_reducible assumption
    | with_reducible refine putIsland_held ?_
    | with_reducible refine clearCluster_held ?_
    | with_reducible refine writeSet_held ?_
    | with_reducible refine refillSeats_held ?_
    | with_reducible refine setRegions_held ?_
    | (intro x; first
        | (refine (fun (hx : Held pts z x) => ?_) ?_ <;> [clear_value x; subst x])
        | (have hx : Fabric := x; clear hx; subst x))
    | lift_lets
    | split
    | ((with_reducible refine held_set ?_ ?_); rotate_left
       exact fun hh => ⟨hh.nvm, hh.vellum, mwf_foldl (fun _ _ hm => mwf_mwrite _ _ hm) hh.sram, hh.power,
         hh.thermal, hh.blotter, hh.events, hh.trust⟩)

theorem moveTables_held {s : State} {n : Nat} {b : FolioBody} {w : Variant} (hS : Held pts z s)
    (hp : Sub [.serving, .fabric] pts := by exact Sub.up) : Held pts z (moveTables s n b w) := by
  unfold moveTables
  iterate 45 all_goals try first
    | with_reducible assumption
    | with_reducible refine coverWith_held ?_
    | with_reducible refine foldl_held (fun _ _ _ => ?_) ?_
    | lift_lets
    | split

theorem enforce_held {s : State} {n : Nat} {b : FolioBody} {l : List Variant} (hS : Held pts z s)
    (hp : Sub [.serving, .images, .fabric] pts := by exact Sub.up) : Held pts z (enforce s n b l) := by
  unfold enforce
  iterate 45 all_goals try first
    | with_reducible assumption
    | with_reducible refine putSlot_held ?_
    | with_reducible refine moveTables_held ?_
    | with_reducible refine foldl_held (fun _ _ _ => ?_) ?_
    | (intro x; clear_value x)
    | lift_lets
    | split

theorem noVariant_held {s : State} {n : Nat} {unit : Nat} (hS : Held pts z s)
    (hp : Sub [.link, .mailbox, .serving, .images, .vellum, .power, .blotter, .mgmt, .trust] pts := by exact Sub.up)
    : Held pts z (noVariant s n unit) := by
  unfold noVariant
  iterate 45 all_goals try first
    | with_reducible assumption
    | with_reducible refine putSlot_held ?_
    | with_reducible refine note_held ?_
    | with_reducible refine endTurns_held ?_

theorem coverSlot_held {s : State} {n : Nat} {unit : Nat} {lost : List Nat} (hS : Held pts z s)
    (hp : Sub [.link, .mailbox, .serving, .images, .vellum, .fabric, .power, .blotter, .mgmt,
      .trust] pts := by exact Sub.up)
    : Held pts z (coverSlot s n unit lost) := by
  unfold coverSlot
  iterate 45 all_goals try first
    | with_reducible assumption
    | with_reducible refine enforce_held ?_
    | with_reducible refine noVariant_held ?_
    | (intro x; clear_value x)
    | lift_lets
    | split

theorem coverLoss_held {s : State} {unit : Nat} {lost : List Nat} (hS : Held pts z s)
    (hp : Sub [.link, .mailbox, .serving, .images, .vellum, .fabric, .power, .blotter, .mgmt,
      .trust] pts := by exact Sub.up)
    : Held pts z (coverLoss s unit lost) := by
  unfold coverLoss
  iterate 45 all_goals try first
    | with_reducible assumption
    | with_reducible refine coverSlot_held ?_

theorem refuseTo_held {s : State} {u : Nat} (hS : Held pts z s) (hp : Sub [.fabric] pts := by exact Sub.up)
    : Held pts z (refuseTo s u) := by
  unfold refuseTo
  iterate 45 all_goals try first
    | with_reducible assumption
    | with_reducible refine putIsland_held ?_
    | with_reducible refine foldl_held (fun _ _ _ => ?_) ?_
    | (intro x; first
        | (have hx : Fabric := x; clear hx; subst x)
        | clear_value x)
    | lift_lets
    | split
    | ((with_reducible refine held_set ?_ ?_); rotate_left; exact Sound.parts)

theorem fenceOnly_held {s : State} {u : Nat} {cause : Nat} (hS : Held pts z s)
    (hp : Sub [.link, .mailbox, .serving, .fabric, .blotter, .mgmt, .map] pts := by exact Sub.up)
    : Held pts z (fenceOnly s u cause) := by
  unfold fenceOnly
  iterate 45 all_goals try first
    | with_reducible assumption
    | with_reducible refine putIsland_held ?_
    | with_reducible refine note_held ?_
    | with_reducible refine mapChanged_held ?_
    | with_reducible refine forfeitAll_held ?_
    | with_reducible refine markFaulty_held ?_
    | with_reducible refine refuseTo_held ?_
    | (intro x; first
        | (refine (fun (hx : Held pts z x) => ?_) ?_ <;> [clear_value x; subst x])
        | clear_value x)
    | lift_lets
    | split

theorem fenceCluster_held {s : State} {u : Nat} {cause : Nat} (hS : Held pts z s)
    (hp : Sub [.link, .mailbox, .serving, .images, .vellum, .fabric, .power, .blotter, .mgmt, .trust,
      .map] pts := by exact Sub.up)
    : Held pts z (fenceCluster s u cause) := by
  unfold fenceCluster
  iterate 45 all_goals try first
    | with_reducible assumption
    | with_reducible refine coverLoss_held ?_
    | with_reducible refine fenceOnly_held ?_
    | split

theorem retireCluster_held {s : State} {u : Nat} {fence : Bool} (hS : Held pts z s)
    (hp : Sub [.link, .mailbox, .serving, .images, .vellum, .fabric, .power, .blotter, .mgmt, .trust,
      .map] pts := by exact Sub.up)
    : Held pts z (retireCluster s u fence) := by
  unfold retireCluster
  iterate 45 all_goals try first
    | with_reducible assumption
    | with_reducible refine putIsland_held ?_
    | with_reducible refine note_held ?_
    | with_reducible refine mapChanged_held ?_
    | with_reducible refine forfeitAll_held ?_
    | with_reducible refine coverLoss_held ?_
    | (intro x; first
        | (refine (fun (hx : Held pts z x) => ?_) ?_ <;> [clear_value x; subst x])
        | clear_value x)
    | lift_lets
    | split

theorem retireDue_held {s : State} (hS : Held pts z s)
    (hp : Sub [.link, .mailbox, .serving, .images, .vellum, .fabric, .power, .blotter, .mgmt, .trust,
      .map] pts := by exact Sub.up)
    : Held pts z (retireDue s) := by
  unfold retireDue
  iterate 45 all_goals try first
    | with_reducible assumption
    | with_reducible refine retireCluster_held ?_
    | with_reducible refine foldl_held (fun _ _ _ => ?_) ?_
    | (intro x; have hx : Power := x; clear hx; subst x)
    | lift_lets
    | ((with_reducible refine held_set ?_ ?_); rotate_left; exact Sound.parts)

theorem rewindSession_held {s : State} {id : Nat} {logical : Nat} (hS : Held pts z s)
    (hp : Sub [.serving, .vellum] pts := by exact Sub.up) : Held pts z (rewindSession s id logical) := by
  unfold rewindSession
  iterate 45 all_goals try first
    | with_reducible assumption
    | with_reducible refine putSession_held ?_
    | with_reducible refine discardRows_held ?_
    | with_reducible refine freePagesOf_held ?_

theorem pullRow_held {s : State} {id : Nat} (hS : Held pts z s) (hp : Sub [.serving] pts := by exact Sub.up)
    : Held pts z (pullRow s id) := by
  unfold pullRow
  iterate 45 all_goals try first
    | with_reducible assumption
    | with_reducible refine modTurn_held ?_
    | with_reducible refine discardRows_held ?_
    | split

theorem rewindPfxFrom_held {s : State} {x : Nat} {l : Nat} (hS : Held pts z s)
    (hp : Sub [.serving, .vellum] pts := by exact Sub.up) : Held pts z (rewindPfxFrom s x l) := by
  unfold rewindPfxFrom
  iterate 45 all_goals try first
    | with_reducible assumption
    | with_reducible refine putPfx_held ?_
    | with_reducible refine discardRows_held ?_
    | with_reducible refine freePagesOf_held ?_
    | with_reducible refine pullRow_held ?_
    | with_reducible refine foldl_held (fun _ _ _ => ?_) ?_

theorem rewindPfx_held {s : State} {x : Nat} {site : Nat} (hS : Held pts z s)
    (hp : Sub [.serving, .vellum] pts := by exact Sub.up) : Held pts z (rewindPfx s x site) := by
  unfold rewindPfx
  iterate 45 all_goals try first
    | with_reducible assumption
    | with_reducible refine rewindPfxFrom_held ?_
    | split

theorem loseChunks_held {s : State} {n : Nat} {site : Nat} (hS : Held pts z s)
    (hp : Sub [.link, .mailbox, .images] pts := by exact Sub.up) : Held pts z (loseChunks s n site) := by
  unfold loseChunks
  iterate 45 all_goals try first
    | with_reducible assumption
    | with_reducible refine putSlot_held ?_
    | with_reducible refine postEvent_held ?_
    | (intro x; first
        | (refine (fun (hx : Held pts z x) => ?_) ?_ <;> [clear_value x; subst x])
        | clear_value x)
    | lift_lets
    | split

theorem loseAdapters_held {s : State} {site : Nat} (hS : Held pts z s)
    (hp : Sub [.link, .mailbox, .serving] pts := by exact Sub.up) : Held pts z (loseAdapters s site) := by
  unfold loseAdapters
  iterate 45 all_goals try first
    | with_reducible assumption
    | with_reducible refine putTenant_held ?_
    | with_reducible refine postEvent_held ?_
    | with_reducible refine foldl_held (fun _ _ _ => ?_) ?_

theorem writeCopy_held {s : State} {n : Nat} {a : ColdArea} {e : Nat} {place : Nat} (hS : Held pts z s)
    (hp : Sub [.vellum] pts := by exact Sub.up) : Held pts z (writeCopy s n a e place) := by
  unfold writeCopy
  iterate 45 all_goals try first
    | with_reducible assumption
    | with_reducible refine writeUnits_held ?_

theorem writeArea_held {s : State} {n : Nat} {a : ColdArea} (hS : Held pts z s)
    (hp : Sub [.vellum] pts := by exact Sub.up) : Held pts z (writeArea s n a) := by
  unfold writeArea
  iterate 45 all_goals try first
    | with_reducible assumption
    | with_reducible refine writeCopy_held ?_
    | with_reducible refine foldl_held (fun _ _ _ => ?_) ?_

theorem finishAreas_held {s : State} {n : Nat} (hS : Held pts z s) (hp : Sub [.images, .vellum] pts := by exact Sub.up)
    : Held pts z (finishAreas s n) := by
  unfold finishAreas
  iterate 45 all_goals try first
    | with_reducible assumption
    | with_reducible refine putSlot_held ?_
    | with_reducible refine writeArea_held ?_
    | with_reducible refine foldl_held (fun _ _ _ => ?_) ?_
    | (intro x; clear_value x)
    | lift_lets
    | split

theorem moveAreas_held {s : State} {n : Nat} {d : Nat} (hS : Held pts z s) (hp : Sub [.images] pts := by exact Sub.up)
    : Held pts z (moveAreas s n d) := by
  unfold moveAreas
  iterate 45 all_goals try first
    | with_reducible assumption
    | with_reducible refine putSlot_held ?_
    | with_reducible refine foldl_held (fun _ _ _ => ?_) ?_
    | (intro x; clear_value x)
    | lift_lets
    | split

theorem loseCopies_held {s : State} {d : Nat} (hS : Held pts z s) (hp : Sub [.images] pts := by exact Sub.up)
    : Held pts z (loseCopies s d) := by
  unfold loseCopies
  iterate 45 all_goals try first
    | with_reducible assumption
    | (intro x; clear_value x)
    | lift_lets
    | with_reducible refine held_free ?_

theorem sdieLost_held {s : State} {address : Nat} (hS : Held pts z s)
    (hp : Sub [.board, .link, .mailbox, .serving, .blotter, .mgmt] pts := by exact Sub.up)
    : Held pts z (sdieLost s address) := by
  unfold sdieLost
  iterate 45 all_goals try first
    | with_reducible assumption
    | with_reducible refine report_held ?_
    | with_reducible refine forfeitAll_held ?_
    | (intro x; first
        | (refine (fun (hx : Held pts z x) => ?_) ?_ <;> [clear_value x; subst x])
        | clear_value x)
    | lift_lets
    | with_reducible refine held_free ?_

theorem rewindAll_held {s : State} {site : Nat} (hS : Held pts z s) (hp : Sub [.serving, .vellum] pts := by exact Sub.up)
    : Held pts z (rewindAll s site) := by
  unfold rewindAll
  iterate 45 all_goals try first
    | with_reducible assumption
    | with_reducible refine rewindSession_held ?_
    | with_reducible refine rewindPfx_held ?_
    | with_reducible refine foldl_held (fun _ _ _ => ?_) ?_
    | lift_lets
    | split

theorem markDiscarded_held {s : State} {mine : StepRow → Bool} {confined : Bool} (hS : Held pts z s)
    (hp : Sub [.serving] pts := by exact Sub.up) : Held pts z (markDiscarded s mine confined) := by
  unfold markDiscarded
  iterate 45 all_goals try first
    | with_reducible assumption
    | (intro x; clear_value x)
    | lift_lets
    | with_reducible refine held_free ?_

theorem siteLost_held {s : State} {d : Nat} {cause : Nat} (hS : Held pts z s)
    (hp : Sub [.board, .link, .mailbox, .serving, .images, .vellum, .blotter, .mgmt, .map] pts := by exact Sub.up)
    : Held pts z (siteLost s d cause) := by
  unfold siteLost
  iterate 45 all_goals try first
    | with_reducible assumption
    | with_reducible refine putSite_held ?_
    | with_reducible refine note_held ?_
    | with_reducible refine mapChanged_held ?_
    | with_reducible refine forfeitAll_held ?_
    | with_reducible refine loseChunks_held ?_
    | with_reducible refine loseAdapters_held ?_
    | with_reducible refine finishAreas_held ?_
    | with_reducible refine moveAreas_held ?_
    | with_reducible refine loseCopies_held ?_
    | with_reducible refine sdieLost_held ?_
    | with_reducible refine rewindAll_held ?_
    | with_reducible refine markDiscarded_held ?_
    | (intro x; first
        | (refine (fun (hx : Held pts z x) => ?_) ?_ <;> [clear_value x; subst x])
        | clear_value x)
    | lift_lets
    | split

theorem darkenDie_held {s : State} {d : Nat} {cause : Nat} (hS : Held pts z s)
    (hp : Sub [.board, .link, .mailbox, .serving, .images, .vellum, .fabric, .power, .blotter, .mgmt, .trust,
      .map] pts := by exact Sub.up)
    : Held pts z (darkenDie s d cause) := by
  unfold darkenDie
  iterate 45 all_goals try first
    | with_reducible assumption
    | with_reducible refine putSite_held ?_
    | with_reducible refine putIsland_held ?_
    | with_reducible refine note_held ?_
    | with_reducible refine mapChanged_held ?_
    | with_reducible refine forfeitAll_held ?_
    | with_reducible refine markFaulty_held ?_
    | with_reducible refine coverLoss_held ?_
    | with_reducible refine siteLost_held ?_
    | with_reducible refine foldl_held (fun _ _ _ => ?_) ?_
    | (intro x; first
        | (refine (fun (hx : Held pts z x) => ?_) ?_ <;> [clear_value x; subst x])
        | clear_value x)
    | lift_lets
    | split
    | with_reducible refine held_free ?_

theorem sdieDark_held {s : State} (hS : Held pts z s)
    (hp : Sub [.link, .mailbox, .serving, .trust] pts := by exact Sub.up) : Held pts z (sdieDark s) := by
  unfold sdieDark
  iterate 45 all_goals try first
    | with_reducible assumption
    | (intro x; have hx : Trust := x; clear hx; subst x)
    | lift_lets
    | ((with_reducible refine held_set ?_ ?_); rotate_left; exact Sound.parts)

theorem diesLost_held {s : State} {dies : List Nat} {cartridge : Nat} {cause : Nat} (hS : Held pts z s)
    (hp : Sub [.board, .link, .mailbox, .serving, .images, .vellum, .fabric, .power, .blotter, .mgmt, .trust,
      .map] pts := by exact Sub.up)
    : Held pts z (diesLost s dies cartridge cause) := by
  unfold diesLost
  iterate 45 all_goals try first
    | with_reducible assumption
    | with_reducible refine note_held ?_
    | with_reducible refine sdieLost_held ?_
    | with_reducible refine darkenDie_held ?_
    | with_reducible refine sdieDark_held ?_
    | with_reducible refine foldl_held (fun _ _ _ => ?_) ?_
    | (intro x; refine (fun (hx : Held pts z x) => ?_) ?_ <;> [clear_value x; subst x])
    | lift_lets
    | split

end Sys2Proof.Laws
end

