-- ==== Sys2Proof/Laws/KeepOperands.lean ====
section
/-! SUPPORT. What the functions of Machine/Operands.lean do, as Laws/Kept.lean says it: the parts that each one may change. -/

namespace Sys2Proof.Laws

set_option Elab.async false

open Sys2Proof Sys2Proof.Machine

variable {pts : List Part} {z : State}

theorem countIn_held {s : State} {cluster : Nat} {tensor : Nat} {c : Counts} (hS : Held pts z s)
    (hp : Sub [.fabric] pts := by exact Sub.up) : Held pts z (countIn s cluster tensor c) := by
  unfold countIn
  iterate 45 all_goals try first
    | with_reducible assumption
    | with_reducible refine putIsland_held ?_
    | (intro x; clear_value x)
    | lift_lets
    | split

theorem modMem_held {s : State} {cluster : Nat} {f : MemCounters → MemCounters} (hS : Held pts z s)
    (hp : Sub [.fabric] pts := by exact Sub.up) : Held pts z (modMem s cluster f) := by
  unfold modMem
  iterate 45 all_goals try first
    | with_reducible assumption
    | with_reducible refine putIsland_held ?_

theorem modNet_held {s : State} {cluster : Nat} {f : NetCounters → NetCounters} (hS : Held pts z s)
    (hp : Sub [.fabric] pts := by exact Sub.up) : Held pts z (modNet s cluster f) := by
  unfold modNet
  iterate 45 all_goals try first
    | with_reducible assumption
    | with_reducible refine putIsland_held ?_

theorem reportFlit_held {s : State} {cluster : Nat} (hS : Held pts z s) (hp : Sub [.fabric] pts := by exact Sub.up)
    : Held pts z (reportFlit s cluster) := by
  unfold reportFlit
  iterate 45 all_goals try first
    | with_reducible assumption
    | with_reducible refine modNet_held ?_

theorem isolationFault_held {s : State} {p : Place} {aux : Nat} (hS : Held pts z s)
    (hp : Sub [.link, .mailbox, .fabric, .blotter, .mgmt] pts := by exact Sub.up) : Held pts z (isolationFault s p aux) := by
  unfold isolationFault
  iterate 45 all_goals try first
    | with_reducible assumption
    | with_reducible refine note_held ?_
    | with_reducible refine modMem_held ?_
    | with_reducible refine reportFlit_held ?_

theorem readRow_held {s : State} {runner : Nat} {p : Place} (hS : Held pts z s)
    (hp : Sub [.link, .mailbox, .fabric, .blotter, .mgmt] pts := by exact Sub.up) : Held pts z (readRow s runner p).state := by
  unfold readRow
  iterate 45 all_goals try first
    | with_reducible assumption
    | with_reducible refine modMem_held ?_
    | with_reducible refine isolationFault_held ?_
    | split

theorem readRows_held {s : State} {runner : Nat} {p : Place} {n : Nat} (hS : Held pts z s)
    (hp : Sub [.link, .mailbox, .fabric, .blotter, .mgmt] pts := by exact Sub.up)
    : Held pts z (readRows s runner p n).state := by
  induction n generalizing s p with
  | zero => exact hS
  | succ n ih => exact ih (readRow_held hS)

theorem putRow_held {s : State} {p : Place} {bytes : List Byte} {poisoned : Bool} (hS : Held pts z s)
    (hp : Sub [.fabric] pts := by exact Sub.up) : Held pts z (putRow s p bytes poisoned) :=
  held_set hS (fun hh => ⟨hh.nvm, hh.vellum, mwf_mwrite _ _ hh.sram, hh.power, hh.thermal,
    hh.blotter, hh.events, hh.trust⟩)

theorem carry_held {s : State} {links : List Nat} {flits : Nat} (hS : Held pts z s)
    (hp : Sub [.fabric] pts := by exact Sub.up) : Held pts z (carry s links flits) := by
  unfold carry
  iterate 45 all_goals try first
    | with_reducible assumption
    | (intro x; have hx : Fabric := x; clear hx; subst x)
    | lift_lets
    | ((with_reducible refine held_set ?_ ?_); rotate_left; exact Sound.parts)

theorem sendWindow_held {s : State} {cluster : Nat} {w : Window} (hS : Held pts z s)
    (hp : Sub [.fabric] pts := by exact Sub.up) : Held pts z (sendWindow s cluster w) := by
  unfold sendWindow
  iterate 45 all_goals try first
    | with_reducible assumption
    | with_reducible refine modNet_held ?_
    | with_reducible refine carry_held ?_
    | (intro x; first
        | (refine (fun (hx : Held pts z x) => ?_) ?_ <;> [clear_value x; subst x])
        | (have hx : Fabric := x; clear hx; subst x)
        | clear_value x)
    | lift_lets
    | ((with_reducible refine held_set ?_ ?_); rotate_left; exact Sound.parts)

theorem closeWindow_held {s : State} {cluster : Nat} {row : Nat} (hS : Held pts z s)
    (hp : Sub [.fabric] pts := by exact Sub.up) : Held pts z (closeWindow s cluster row) := by
  unfold closeWindow
  iterate 45 all_goals try first
    | with_reducible assumption
    | with_reducible refine putIsland_held ?_
    | with_reducible refine sendWindow_held ?_
    | (intro x; clear_value x)
    | lift_lets
    | split

theorem closeWindows_held {s : State} {cluster : Nat} {row : Nat} (hS : Held pts z s)
    (hp : Sub [.fabric] pts := by exact Sub.up) : Held pts z (closeWindows s cluster row) := by
  unfold closeWindows
  iterate 45 all_goals try first
    | with_reducible assumption
    | with_reducible refine putIsland_held ?_
    | with_reducible refine sendWindow_held ?_
    | with_reducible refine foldl_held (fun _ _ _ => ?_) ?_

theorem beforeWrite_held {s : State} {p : Place} (hS : Held pts z s) (hp : Sub [.fabric] pts := by exact Sub.up)
    : Held pts z (beforeWrite s p) := by
  unfold beforeWrite
  iterate 45 all_goals try first
    | with_reducible assumption
    | with_reducible refine putIsland_held ?_
    | with_reducible refine closeWindows_held ?_
    | (intro x; first
        | (refine (fun (hx : Held pts z x) => ?_) ?_ <;> [clear_value x; subst x])
        | clear_value x)
    | lift_lets
    | split

theorem writeRow_held {s : State} {runner : Nat} {p : Place} {bytes : List Byte} {poisoned : Bool} (hS : Held pts z s)
    (hp : Sub [.link, .mailbox, .fabric, .blotter, .mgmt] pts := by exact Sub.up)
    : Held pts z (writeRow s runner p bytes poisoned) := by
  unfold writeRow
  iterate 45 all_goals try first
    | with_reducible assumption
    | with_reducible refine isolationFault_held ?_
    | with_reducible refine putRow_held ?_
    | with_reducible refine beforeWrite_held ?_
    | split

theorem writeRows_held {s : State} {runner : Nat} {p : Place} {poisoned : Bool} {n : Nat} {bytes : List Byte}
    (hS : Held pts z s) (hp : Sub [.link, .mailbox, .fabric, .blotter, .mgmt] pts := by exact Sub.up)
    : Held pts z (writeRows s runner p poisoned n bytes) := by
  induction n generalizing s p bytes with
  | zero => exact hS
  | succ n ih => exact ih (writeRow_held hS)

theorem writeBytes_held {s : State} {runner : Nat} {p : Place} {off : Nat} {bytes : List Byte} {poisoned : Bool}
    (hS : Held pts z s) (hp : Sub [.link, .mailbox, .fabric, .blotter, .mgmt] pts := by exact Sub.up)
    : Held pts z (writeBytes s runner p off bytes poisoned) := by
  unfold writeBytes
  iterate 45 all_goals try first
    | with_reducible assumption
    | with_reducible refine isolationFault_held ?_
    | with_reducible refine putRow_held ?_
    | with_reducible refine beforeWrite_held ?_
    | (intro x; first
        | (refine (fun (hx : Held pts z x) => ?_) ?_ <;> [clear_value x; subst x])
        | clear_value x)
    | lift_lets
    | split

theorem writeSpan_held {s : State} {tile addr : Nat} {poisoned : Bool} {n : Nat} {bytes : List Byte} (hS : Held pts z s)
    (hp : Sub [.link, .mailbox, .fabric, .blotter, .mgmt] pts := by exact Sub.up)
    : Held pts z (writeSpan s tile addr poisoned n bytes) := by
  induction n generalizing s addr bytes with
  | zero => exact hS
  | succ n ih =>
    unfold writeSpan
    split
    · exact hS
    · exact ih (writeBytes_held hS)

theorem readSpan_held {s : State} {tile : Nat} {addr : Nat} {n : Nat} (hS : Held pts z s)
    (hp : Sub [.link, .mailbox, .fabric, .blotter, .mgmt] pts := by exact Sub.up)
    : Held pts z (readSpan s tile addr n).state := by
  unfold readSpan
  iterate 45 all_goals try first
    | with_reducible assumption
    | with_reducible refine readRows_held ?_

theorem refilled_held {s : State} {cluster : Nat} {cause : Nat} (hS : Held pts z s)
    (hp : Sub [.link, .mailbox, .serving, .fabric, .blotter, .mgmt, .map] pts := by exact Sub.up)
    : Held pts z (refilled s cluster cause) := by
  unfold refilled
  iterate 45 all_goals try first
    | with_reducible assumption
    | with_reducible refine putIsland_held ?_
    | with_reducible refine mapChanged_held ?_
    | with_reducible refine fenceOnly_held ?_
    | (intro x; first
        | (refine (fun (hx : Held pts z x) => ?_) ?_ <;> [clear_value x; subst x])
        | clear_value x)
    | lift_lets
    | split

theorem sramUncorrectable_held {s : State} {p : Place} {refillClean : Bool} (hS : Held pts z s)
    (hp : Sub [.link, .mailbox, .serving, .images, .vellum, .fabric, .power, .blotter, .mgmt, .trust,
      .map] pts := by exact Sub.up)
    : Held pts z (sramUncorrectable s p refillClean) := by
  unfold sramUncorrectable
  iterate 45 all_goals try first
    | with_reducible assumption
    | with_reducible refine putIsland_held ?_
    | with_reducible refine note_held ?_
    | with_reducible refine refilled_held ?_
    | with_reducible refine fenceCluster_held ?_
    | with_reducible refine modMem_held ?_
    | (intro x; first
        | (refine (fun (hx : Held pts z x) => ?_) ?_ <;> [clear_value x; subst x])
        | (have hx : Fabric := x; clear hx; subst x)
        | clear_value x)
    | lift_lets
    | split
    | ((with_reducible refine held_set ?_ ?_); rotate_left; exact Sound.parts)

theorem applyRowEcc_held {s : State} {p : Place} {e : RowEcc} (hS : Held pts z s)
    (hp : Sub [.link, .mailbox, .serving, .images, .vellum, .fabric, .power, .blotter, .mgmt, .trust,
      .map] pts := by exact Sub.up)
    : Held pts z (applyRowEcc s p e) := by
  unfold applyRowEcc
  iterate 45 all_goals try first
    | with_reducible assumption
    | with_reducible refine putIsland_held ?_
    | with_reducible refine modMem_held ?_
    | with_reducible refine sramUncorrectable_held ?_
    | (intro x; first
        | (refine (fun (hx : Held pts z x) => ?_) ?_ <;> [clear_value x; subst x])
        | clear_value x)
    | lift_lets
    | split

theorem applyEcc_held {s : State} {p : Place} {e : Ecc} (hS : Held pts z s)
    (hp : Sub [.link, .mailbox, .serving, .images, .vellum, .fabric, .power, .blotter, .mgmt, .trust,
      .map] pts := by exact Sub.up)
    : Held pts z (applyEcc s p e) := by
  unfold applyEcc
  iterate 45 all_goals try first
    | with_reducible assumption
    | with_reducible refine applyRowEcc_held ?_
    | with_reducible refine foldl_held (fun _ _ _ => ?_) ?_

theorem applyFound_held {s : State} {tile : Nat} {l : List Found} (hS : Held pts z s)
    (hp : Sub [.link, .mailbox, .serving, .images, .vellum, .fabric, .power, .blotter, .mgmt, .trust,
      .map] pts := by exact Sub.up)
    : Held pts z (applyFound s tile l) := by
  unfold applyFound
  iterate 45 all_goals try first
    | with_reducible assumption
    | with_reducible refine applyRowEcc_held ?_
    | with_reducible refine foldl_held (fun _ _ _ => ?_) ?_

theorem modTile_held {s : State} {t : Nat} {f : Tile → Tile} (hS : Held pts z s)
    (hp : Sub [.fabric] pts := by exact Sub.up) : Held pts z (modTile s t f) := by
  unfold modTile
  iterate 45 all_goals try first
    | with_reducible assumption
    | with_reducible refine putTile_held ?_

theorem vput_held {s : State} {tile : Nat} {reg : Nat} {xs : List Fp32} {tainted : Bool} (hS : Held pts z s)
    (hp : Sub [.fabric] pts := by exact Sub.up) : Held pts z (vput s tile reg xs tainted) := by
  unfold vput
  iterate 45 all_goals try first
    | with_reducible assumption
    | with_reducible refine modTile_held ?_

theorem aput_held {s : State} {tile : Nat} {acc : Nat} {lane : Nat} {v : Acc} (hS : Held pts z s)
    (hp : Sub [.fabric] pts := by exact Sub.up) : Held pts z (aput s tile acc lane v) := by
  unfold aput
  iterate 45 all_goals try first
    | with_reducible assumption
    | with_reducible refine modTile_held ?_

theorem transmit_held {s : State} {producer : Nat} {t : Transfer} {flits : Nat} (hS : Held pts z s)
    (hp : Sub [.fabric] pts := by exact Sub.up) : Held pts z (transmit s producer t flits) := by
  unfold transmit
  iterate 45 all_goals try first
    | with_reducible assumption
    | with_reducible refine modNet_held ?_
    | with_reducible refine carry_held ?_
    | (intro x; first
        | (refine (fun (hx : Held pts z x) => ?_) ?_ <;> [clear_value x; subst x])
        | (have hx : Fabric := x; clear hx; subst x)
        | clear_value x)
    | lift_lets
    | split
    | ((with_reducible refine held_set ?_ ?_); rotate_left; exact Sound.parts)

theorem routed_held {s : State} {slot : Nat} {a : Nat} {b : Nat} {flits : Nat} (hS : Held pts z s)
    (hp : Sub [.fabric] pts := by exact Sub.up) : Held pts z (routed s slot a b flits) := by
  unfold routed
  iterate 45 all_goals try first
    | with_reducible assumption
    | with_reducible refine modNet_held ?_
    | with_reducible refine carry_held ?_

theorem dmaRows_held {s : State} {p : Place} {poisoned : Bool} {n : Nat} {b : List Byte} (hS : Held pts z s)
    (hp : Sub [.fabric] pts := by exact Sub.up) : Held pts z (dmaRows s p poisoned n b) := by
  induction n generalizing s p b with
  | zero => exact hS
  | succ n ih => exact ih (putRow_held (beforeWrite_held hS))

theorem landWrite_held {s : State} {t : Transfer} (hS : Held pts z s)
    (hp : Sub [.link, .mailbox, .fabric, .blotter, .mgmt] pts := by exact Sub.up) : Held pts z (landWrite s t) := by
  unfold landWrite
  iterate 45 all_goals try first
    | with_reducible assumption
    | with_reducible refine writeRows_held ?_
    | with_reducible refine dmaRows_held ?_
    | (intro x; clear_value x)
    | lift_lets
    | split

theorem landIsland_held {s : State} {u : Nat} (hS : Held pts z s)
    (hp : Sub [.link, .mailbox, .fabric, .blotter, .mgmt] pts := by exact Sub.up) : Held pts z (landIsland s u) := by
  unfold landIsland
  iterate 45 all_goals try first
    | with_reducible assumption
    | with_reducible refine putIsland_held ?_
    | with_reducible refine landWrite_held ?_
    | with_reducible refine foldl_held (fun _ _ _ => ?_) ?_
    | (intro x; clear_value x)
    | lift_lets
    | split

theorem bringWrite_held {s : State} {t : Transfer} (hS : Held pts z s)
    (hp : Sub [.link, .mailbox, .fabric, .blotter, .mgmt] pts := by exact Sub.up) : Held pts z (bringWrite s t) := by
  unfold bringWrite
  iterate 45 all_goals try first
    | with_reducible assumption
    | with_reducible refine putIsland_held ?_
    | with_reducible refine landWrite_held ?_
    | with_reducible refine landIsland_held ?_
    | (intro x; clear_value x)
    | lift_lets
    | split

theorem scribeWrite_held {s : State} {u : Nat} {addr : Nat} {b : List Byte} (hS : Held pts z s)
    (hp : Sub [.link, .mailbox, .fabric, .blotter, .mgmt] pts := by exact Sub.up) : Held pts z (scribeWrite s u addr b) := by
  unfold scribeWrite
  iterate 45 all_goals try first
    | with_reducible assumption
    | with_reducible refine putIsland_held ?_
    | with_reducible refine landWrite_held ?_
    | with_reducible refine landIsland_held ?_
    | (intro x; clear_value x)
    | lift_lets
    | split

theorem issue_held {s : State} {hd : StrokeHdr} {body failing : State → State}
    (hb : ∀ s, Held pts z s → Held pts z (body s)) (hf : ∀ s, Held pts z s → Held pts z (failing s)) (hS : Held pts z s)
    (hp : Sub [.link, .mailbox, .fabric, .blotter, .mgmt] pts := by exact Sub.up) : Held pts z (issue s hd body failing) := by
  unfold issue
  split
  · lift_lets
    intro s1 s2
    have h2 : Held pts z s2 := modTile_held (landIsland_held hS)
    clear_value s2
    split
    · exact hb _ h2
    · exact hf _ h2
  · exact hS

theorem keepInput_held {s : State} {t : Transfer} (hS : Held pts z s) (hp : Sub [.fabric] pts := by exact Sub.up)
    : Held pts z (keepInput s t) := by
  unfold keepInput
  iterate 45 all_goals try first
    | with_reducible assumption
    | with_reducible refine putIsland_held ?_
    | (intro x; clear_value x)
    | lift_lets
    | split

theorem dropFrames_held {s : State} {us : List Nat} {step : Nat} (hS : Held pts z s)
    (hp : Sub [.fabric] pts := by exact Sub.up) : Held pts z (dropFrames s us step) := by
  unfold dropFrames
  iterate 45 all_goals try first
    | with_reducible assumption
    | with_reducible refine putIsland_held ?_
    | with_reducible refine foldl_held (fun _ _ _ => ?_) ?_
    | (intro x; clear_value x)
    | lift_lets
    | split

theorem stallFor_held {s : State} {tile : Nat} {crossing : Nat} {full : Bool} (hS : Held pts z s)
    (hp : Sub [.fabric] pts := by exact Sub.up) : Held pts z (stallFor s tile crossing full) := by
  unfold stallFor
  iterate 45 all_goals try first
    | with_reducible assumption
    | with_reducible refine putIsland_held ?_
    | (intro x; clear_value x)
    | lift_lets
    | split

theorem receive_held {s : State} {tile : Nat} {dst : Nat} {f : Flits} (hS : Held pts z s)
    (hp : Sub [.link, .mailbox, .fabric, .blotter, .mgmt] pts := by exact Sub.up) : Held pts z (receive s tile dst f) := by
  unfold receive
  iterate 45 all_goals try first
    | with_reducible assumption
    | with_reducible refine writeRows_held ?_
    | (intro x; clear_value x)
    | lift_lets
    | split

end Sys2Proof.Laws
end

