-- ==== Sys2Proof/Laws/KeepStrokeOps.lean ====
section
/-! SUPPORT. What the functions of Machine/StrokeOps.lean do, as Laws/Kept.lean says it: the parts that each one may change. -/

namespace Sys2Proof.Laws

set_option Elab.async false

open Sys2Proof Sys2Proof.Machine

variable {pts : List Part} {z : State}

theorem tensorBytes_held {s : State} {tile : Nat} {inSlice : Bool} {addr : Nat} {n : Nat} (hS : Held pts z s)
    (hp : Sub [.link, .mailbox, .fabric, .blotter, .mgmt] pts := by exact Sub.up)
    : Held pts z (tensorBytes s tile inSlice addr n).state := by
  unfold tensorBytes
  iterate 45 all_goals try first
    | with_reducible assumption
    | with_reducible refine readRows_held ?_

theorem readBlock_held {s : State} {tile : Nat} {e : TensorEntry} {k : Nat} (hS : Held pts z s)
    (hp : Sub [.link, .mailbox, .fabric, .blotter, .mgmt] pts := by exact Sub.up)
    : Held pts z (readBlock s tile e k).state := by
  unfold readBlock
  iterate 45 all_goals try first
    | with_reducible assumption
    | with_reducible refine tensorBytes_held ?_
    | (intro x; refine (fun (hx : Held pts z x.state) => ?_) ?_ <;> [clear_value x; (subst x; try dsimp only)])
    | lift_lets
    | split

theorem latchLane_held {s : State} {tile : Nat} {e : TensorEntry} {k : Nat} {bad : Bool} {lane : Nat} (hS : Held pts z s)
    (hp : Sub [.link, .mailbox, .fabric, .blotter, .mgmt] pts := by exact Sub.up)
    : Held pts z (latchLane s tile e k bad lane) := by
  unfold latchLane
  iterate 45 all_goals try first
    | with_reducible assumption
    | with_reducible refine countIn_held ?_
    | with_reducible refine modTile_held ?_
    | with_reducible refine readBlock_held ?_

theorem latchAll_held {s : State} {tile : Nat} {e : TensorEntry} {k : Nat} {bad : Bool} (hS : Held pts z s)
    (hp : Sub [.link, .mailbox, .fabric, .blotter, .mgmt] pts := by exact Sub.up) : Held pts z (latchAll s tile e k bad) := by
  unfold latchAll
  iterate 45 all_goals try first
    | with_reducible assumption
    | with_reducible refine latchLane_held ?_
    | with_reducible refine foldl_held (fun _ _ _ => ?_) ?_

theorem readActs_held {s : State} {tile : Nat} {e : TensorEntry} {k n : Nat} (hS : Held pts z s)
    (hp : Sub [.link, .mailbox, .fabric, .blotter, .mgmt] pts := by exact Sub.up) : Held pts z (readActs s tile e k n).2 := by
  induction n generalizing s k with
  | zero => exact hS
  | succ n ih => exact ih (readBlock_held hS)

theorem evalLanes_held {s : State} {tile : Nat} {acc : Nat} {acts : List ActBlock} {bad : Bool} (hS : Held pts z s)
    (hp : Sub [.fabric] pts := by exact Sub.up) : Held pts z (evalLanes s tile acc acts bad) := by
  unfold evalLanes
  iterate 45 all_goals try first
    | with_reducible assumption
    | with_reducible refine countIn_held ?_
    | with_reducible refine aput_held ?_
    | with_reducible refine foldl_held (fun _ _ _ => ?_) ?_

theorem loadWeights_held {s : State} {tile : Nat} {w : WeightSrc} {bad : Bool} (hS : Held pts z s)
    (hp : Sub [.link, .mailbox, .fabric, .blotter, .mgmt] pts := by exact Sub.up) : Held pts z (loadWeights s tile w bad) := by
  unfold loadWeights
  iterate 45 all_goals try first
    | with_reducible assumption
    | with_reducible refine latchAll_held ?_
    | split

theorem macTile_held {s : State} {tile : Nat} {act : Nat} {w : WeightSrc} {acc : Nat} {found : List Found}
    (hS : Held pts z s)
    (hp : Sub [.link, .mailbox, .serving, .images, .vellum, .fabric, .power, .blotter, .mgmt, .trust,
      .map] pts := by exact Sub.up)
    : Held pts z (macTile s tile act w acc found) := by
  unfold macTile
  iterate 45 all_goals try first
    | with_reducible assumption
    | with_reducible refine countIn_held ?_
    | with_reducible refine modMem_held ?_
    | with_reducible refine applyFound_held ?_
    | with_reducible refine readActs_held ?_
    | with_reducible refine evalLanes_held ?_
    | with_reducible refine loadWeights_held ?_
    | (intro x; first
        | (refine (fun (hx : Held pts z x) => ?_) ?_ <;> [clear_value x; subst x])
        | (refine (fun (hx : Held pts z x.2) => ?_) ?_ <;> [clear_value x; (subst x; try dsimp only)])
        | clear_value x)
    | lift_lets
    | split

theorem drainTile_held {s : State} {tile : Nat} {dst : Nat} {acc : Nat} {t : Option Fp32} (hS : Held pts z s)
    (hp : Sub [.link, .mailbox, .fabric, .blotter, .mgmt] pts := by exact Sub.up)
    : Held pts z (drainTile s tile dst acc t) := by
  unfold drainTile
  iterate 45 all_goals try first
    | with_reducible assumption
    | with_reducible refine writeRows_held ?_
    | with_reducible refine aput_held ?_
    | with_reducible refine foldl_held (fun _ _ _ => ?_) ?_
    | lift_lets
    | split

theorem valuTile_held {s : State} {tile : Nat} {dst : Nat} {srcs : List Nat} {fn : ValuFn} (hS : Held pts z s)
    (hp : Sub [.free, .fabric] pts := by exact Sub.up) : Held pts z (valuTile s tile dst srcs fn) := by
  unfold valuTile
  iterate 45 all_goals try first
    | with_reducible assumption
    | with_reducible refine vput_held ?_
    | (intro x; first
        | (refine (fun (hx : ∀ a, Held pts z (x a)) => ?_) ?_ <;> [clear_value x; (subst x; intro _; dsimp only)])
        | clear_value x)
    | lift_lets
    | with_reducible apply_assumption -exfalso -symm
    | split
    | with_reducible refine held_free ?_

theorem narrowTile_held {s : State} {tile : Nat} {dst : Nat} {src : Nat} {opc : BitVec 32} (hS : Held pts z s)
    (hp : Sub [.link, .mailbox, .fabric, .blotter, .mgmt] pts := by exact Sub.up)
    : Held pts z (narrowTile s tile dst src opc) := by
  unfold narrowTile
  iterate 45 all_goals try first
    | with_reducible assumption
    | with_reducible refine countIn_held ?_
    | with_reducible refine writeRow_held ?_
    | with_reducible refine writeSpan_held ?_
    | split

theorem widenTile_held {s : State} {tile : Nat} {dst : Nat} {src : Nat} {scaleAddr : Nat} {f : Fmt} {found : List Found}
    (hS : Held pts z s)
    (hp : Sub [.link, .mailbox, .serving, .images, .vellum, .fabric, .power, .blotter, .mgmt, .trust,
      .map] pts := by exact Sub.up)
    : Held pts z (widenTile s tile dst src scaleAddr f found) := by
  unfold widenTile
  iterate 45 all_goals try first
    | with_reducible assumption
    | with_reducible refine countIn_held ?_
    | with_reducible refine readRow_held ?_
    | with_reducible refine readSpan_held ?_
    | with_reducible refine applyFound_held ?_
    | with_reducible refine vput_held ?_

theorem loadTile_held {s : State} {tile : Nat} {reg : Nat} {addr : Nat} {e : Ecc} (hS : Held pts z s)
    (hp : Sub [.link, .mailbox, .serving, .images, .vellum, .fabric, .power, .blotter, .mgmt, .trust,
      .map] pts := by exact Sub.up)
    : Held pts z (loadTile s tile reg addr e) := by
  unfold loadTile
  iterate 45 all_goals try first
    | with_reducible assumption
    | with_reducible refine readRows_held ?_
    | with_reducible refine applyEcc_held ?_
    | with_reducible refine vput_held ?_

theorem storeTile_held {s : State} {tile : Nat} {reg : Nat} {addr : Nat} (hS : Held pts z s)
    (hp : Sub [.link, .mailbox, .fabric, .blotter, .mgmt] pts := by exact Sub.up) : Held pts z (storeTile s tile reg addr) := by
  unfold storeTile
  iterate 45 all_goals try first
    | with_reducible assumption
    | with_reducible refine writeRows_held ?_

theorem mergeRow_held {s : State} {cluster : Nat} {p : Place} {m : Member} {e : Ecc} (hS : Held pts z s)
    (hp : Sub [.link, .mailbox, .serving, .images, .vellum, .fabric, .power, .blotter, .mgmt, .trust,
      .map] pts := by exact Sub.up)
    : Held pts z (mergeRow s cluster p m e) := by
  unfold mergeRow
  iterate 45 all_goals try first
    | with_reducible assumption
    | with_reducible refine putIsland_held ?_
    | with_reducible refine modNet_held ?_
    | with_reducible refine readRow_held ?_
    | with_reducible refine applyEcc_held ?_
    | with_reducible refine transmit_held ?_
    | (intro x; first
        | (refine (fun (hx : Held pts z x) => ?_) ?_ <;> [clear_value x; subst x])
        | (refine (fun (hx : Held pts z x.state) => ?_) ?_ <;> [clear_value x; (subst x; try dsimp only)])
        | clear_value x)
    | lift_lets
    | split

theorem sliceReadTile_held {s : State} {tile : Nat} {dst : Nat} {addr : Nat} {unit : Nat} {rows : Nat} {crossing : Nat}
    {merge : Bool} {e : Ecc} (hS : Held pts z s)
    (hp : Sub [.link, .mailbox, .serving, .images, .vellum, .fabric, .power, .blotter, .mgmt, .trust,
      .map] pts := by exact Sub.up)
    : Held pts z (sliceReadTile s tile dst addr unit rows crossing merge e) := by
  unfold sliceReadTile
  iterate 45 all_goals try first
    | with_reducible assumption
    | with_reducible refine readRows_held ?_
    | with_reducible refine writeRows_held ?_
    | with_reducible refine applyEcc_held ?_
    | with_reducible refine transmit_held ?_
    | with_reducible refine routed_held ?_
    | with_reducible refine mergeRow_held ?_
    | with_reducible refine foldl_held (fun _ _ _ => ?_) ?_
    | (intro x; first
        | (refine (fun (hx : Held pts z x) => ?_) ?_ <;> [clear_value x; subst x])
        | (refine (fun (hx : Held pts z x.state) => ?_) ?_ <;> [clear_value x; (subst x; try dsimp only)])
        | clear_value x)
    | lift_lets
    | split

theorem sliceWriteTile_held {s : State} {tile : Nat} {src : Nat} {addr : Nat} {unit : Nat} {rows : Nat} {crossing : Nat}
    {full : Bool} {e : Ecc} (hS : Held pts z s)
    (hp : Sub [.link, .mailbox, .serving, .images, .vellum, .fabric, .power, .blotter, .mgmt, .trust,
      .map] pts := by exact Sub.up)
    : Held pts z (sliceWriteTile s tile src addr unit rows crossing full e) := by
  unfold sliceWriteTile
  iterate 45 all_goals try first
    | with_reducible assumption
    | with_reducible refine readRows_held ?_
    | with_reducible refine writeRows_held ?_
    | with_reducible refine applyEcc_held ?_
    | with_reducible refine transmit_held ?_
    | with_reducible refine stallFor_held ?_
    | (intro x; first
        | (refine (fun (hx : Held pts z x) => ?_) ?_ <;> [clear_value x; subst x])
        | (refine (fun (hx : Held pts z x.state) => ?_) ?_ <;> [clear_value x; (subst x; try dsimp only)])
        | clear_value x)
    | lift_lets
    | split

theorem recvTile_held {s : State} {tile : Nat} {dst : Nat} {crossing : Nat} (hS : Held pts z s)
    (hp : Sub [.link, .mailbox, .fabric, .blotter, .mgmt] pts := by exact Sub.up)
    : Held pts z (recvTile s tile dst crossing) := by
  unfold recvTile
  iterate 45 all_goals try first
    | with_reducible assumption
    | with_reducible refine putIsland_held ?_
    | with_reducible refine receive_held ?_
    | (intro x; clear_value x)
    | lift_lets
    | split

theorem enterNode_held {s : State} {cluster : Nat} {p : Partial} (hS : Held pts z s)
    (hp : Sub [.fabric] pts := by exact Sub.up) : Held pts z (enterNode s cluster p) := by
  unfold enterNode
  iterate 45 all_goals try first
    | with_reducible assumption
    | with_reducible refine putIsland_held ?_

theorem ligSendTile_held {s : State} {tile : Nat} {unit : Nat} {addr : Nat} {tag : Nat} {f : Flits} (hS : Held pts z s)
    (hp : Sub [.fabric] pts := by exact Sub.up) : Held pts z (ligSendTile s tile unit addr tag f) := by
  unfold ligSendTile
  iterate 45 all_goals try first
    | with_reducible assumption
    | with_reducible refine putIsland_held ?_
    | with_reducible refine enterNode_held ?_
    | (intro x; clear_value x)
    | lift_lets
    | split

theorem routeWords_held {s : State} {u : Nat} {bytes : List Byte} (hS : Held pts z s)
    (hp : Sub [.fabric] pts := by exact Sub.up) : Held pts z (routeWords s u bytes) := by
  unfold routeWords
  iterate 45 all_goals try first
    | with_reducible assumption
    | with_reducible refine putIsland_held ?_

theorem ligReceive_held {s : State} {tile : Nat} {dst : Nat} {tag : Nat} {t : Option Fp32} {f : Flits} (hS : Held pts z s)
    (hp : Sub [.link, .mailbox, .fabric, .blotter, .mgmt] pts := by exact Sub.up)
    : Held pts z (ligReceive s tile dst tag t f) := by
  unfold ligReceive
  iterate 45 all_goals try first
    | with_reducible assumption
    | with_reducible refine putIsland_held ?_
    | with_reducible refine receive_held ?_
    | with_reducible refine routeWords_held ?_
    | (intro x; first
        | (refine (fun (hx : Held pts z x) => ?_) ?_ <;> [clear_value x; subst x])
        | clear_value x)
    | lift_lets
    | split

theorem ligRecvTile_held {s : State} {tile : Nat} {dst : Nat} {tag : Nat} {t : Option Fp32} (hS : Held pts z s)
    (hp : Sub [.link, .mailbox, .fabric, .blotter, .mgmt] pts := by exact Sub.up)
    : Held pts z (ligRecvTile s tile dst tag t) := by
  unfold ligRecvTile
  iterate 45 all_goals try first
    | with_reducible assumption
    | with_reducible refine putIsland_held ?_
    | with_reducible refine ligReceive_held ?_
    | (intro x; clear_value x)
    | lift_lets
    | split

theorem dmaPostTile_held {s : State} {tile : Nat} {index : Nat} (hS : Held pts z s)
    (hp : Sub [.fabric] pts := by exact Sub.up) : Held pts z (dmaPostTile s tile index) := by
  unfold dmaPostTile
  iterate 45 all_goals try first
    | with_reducible assumption
    | with_reducible refine modTile_held ?_

theorem dmaWaitTile_held {s : State} {tile : Nat} {ctr : Nat} {count : Nat} (hS : Held pts z s)
    (hp : Sub [.fabric] pts := by exact Sub.up) : Held pts z (dmaWaitTile s tile ctr count) := by
  unfold dmaWaitTile
  iterate 45 all_goals try first
    | with_reducible assumption
    | with_reducible refine putIsland_held ?_
    | with_reducible refine modTile_held ?_
    | (intro x; clear_value x)
    | lift_lets
    | split

end Sys2Proof.Laws
end

