-- ==== Sys2Proof/Laws/KeepVellumOps.lean ====
section
/-! SUPPORT. What the functions of Machine/VellumOps.lean do, as Laws/Kept.lean says it: the parts that each one may change. -/

namespace Sys2Proof.Laws

set_option Elab.async false

open Sys2Proof Sys2Proof.Machine

variable {pts : List Part} {z : State}

theorem modSite_held {s : State} {d : Nat} {f : Site → Site} (hS : Held pts z s)
    (hp : Sub [.vellum] pts := by exact Sub.up) : Held pts z (modSite s d f) := by
  unfold modSite
  iterate 45 all_goals try first
    | with_reducible assumption
    | with_reducible refine putSite_held ?_

theorem giveUpPage_held {s : State} {d : Nat} (hS : Held pts z s) (hp : Sub [.nvm, .vellum] pts := by exact Sub.up)
    : Held pts z (giveUpPage s d) := by
  unfold giveUpPage
  iterate 45 all_goals try first
    | with_reducible assumption
    | with_reducible refine putPage_held ?_
    | (intro x; have hx : Nvm := x; clear hx; subst x)
    | lift_lets
    | split
    | ((with_reducible refine held_set ?_ ?_); rotate_left; exact Sound.parts)

theorem retireGranule_held {s : State} {d : Nat} {granule : Nat} {aux : Nat} (hS : Held pts z s)
    (hp : Sub [.board, .nvm, .link, .mailbox, .serving, .images, .vellum, .blotter, .mgmt, .map] pts := by exact Sub.up)
    : Held pts z (retireGranule s d granule aux) := by
  unfold retireGranule
  iterate 45 all_goals try first
    | with_reducible assumption
    | with_reducible refine note_held ?_
    | with_reducible refine siteLost_held ?_
    | with_reducible refine giveUpPage_held ?_
    | (intro x; first
        | (refine (fun (hx : Held pts z x) => ?_) ?_ <;> [clear_value x; subst x])
        | (have hx : Nvm := x; clear hx; subst x)
        | clear_value x)
    | lift_lets
    | split
    | ((with_reducible refine held_set ?_ ?_); rotate_left; exact Sound.parts)

theorem alertOnly_held {s : State} {unit : Nat} (hS : Held pts z s) (hp : Sub [.blotter] pts := by exact Sub.up)
    : Held pts z (alertOnly s unit) := by
  unfold alertOnly
  iterate 45 all_goals try first
    | with_reducible assumption
    | (intro x; have hx : Blotter := x; clear hx; subst x)
    | lift_lets
    | split
    | ((with_reducible refine held_set ?_ ?_); rotate_left; exact Sound.parts)

theorem failArray_held {s : State} {d : Nat} {a : Nat} (hS : Held pts z s)
    (hp : Sub [.board, .nvm, .link, .mailbox, .serving, .images, .vellum, .blotter, .mgmt, .map] pts := by exact Sub.up)
    : Held pts z (failArray s d a) := by
  unfold failArray
  iterate 45 all_goals try first
    | with_reducible assumption
    | with_reducible refine note_held ?_
    | with_reducible refine siteLost_held ?_
    | with_reducible refine alertOnly_held ?_
    | (intro x; first
        | (refine (fun (hx : Held pts z x) => ?_) ?_ <;> [clear_value x; subst x])
        | (have hx : Nvm := x; clear hx; subst x)
        | clear_value x)
    | lift_lets
    | split
    | ((with_reducible refine held_set ?_ ?_); rotate_left; exact Sound.parts)

theorem markArray_held {s : State} {d : Nat} {unit : Nat} {arr : Nat} (hS : Held pts z s)
    (hp : Sub [.board, .nvm, .link, .mailbox, .serving, .images, .vellum, .blotter, .mgmt, .map] pts := by exact Sub.up)
    : Held pts z (markArray s d unit arr) := by
  unfold markArray
  iterate 45 all_goals try first
    | with_reducible assumption
    | with_reducible refine putSite_held ?_
    | with_reducible refine failArray_held ?_
    | (intro x; first
        | (refine (fun (hx : Held pts z x) => ?_) ?_ <;> [clear_value x; subst x])
        | clear_value x)
    | lift_lets
    | split

theorem heavyUnit_held {s : State} {d : Nat} {unit : Nat} (hS : Held pts z s) (hp : Sub [.vellum] pts := by exact Sub.up)
    : Held pts z (heavyUnit s d unit) := by
  unfold heavyUnit
  iterate 45 all_goals try first
    | with_reducible assumption
    | with_reducible refine putSite_held ?_

theorem loseChunk_held {s : State} {n : Nat} {c : Nat} (hS : Held pts z s)
    (hp : Sub [.link, .mailbox, .images] pts := by exact Sub.up) : Held pts z (loseChunk s n c) := by
  unfold loseChunk
  iterate 45 all_goals try first
    | with_reducible assumption
    | with_reducible refine putSlot_held ?_
    | with_reducible refine postEvent_held ?_
    | (intro x; first
        | (refine (fun (hx : Held pts z x) => ?_) ?_ <;> [clear_value x; subst x])
        | clear_value x)
    | lift_lets
    | split

theorem pageFault_held {s : State} {ref : RowRef} (hS : Held pts z s) (hp : Sub [.serving] pts := by exact Sub.up)
    : Held pts z (pageFault s ref) := by
  unfold pageFault
  iterate 45 all_goals try first
    | with_reducible assumption
    | with_reducible refine forfeitOne_held ?_
    | with_reducible refine markDiscarded_held ?_
    | with_reducible refine foldl_held (fun _ _ _ => ?_) ?_

theorem losePage_held {s : State} {p : Nat} (hS : Held pts z s) (hp : Sub [.serving, .vellum] pts := by exact Sub.up)
    : Held pts z (losePage s p) := by
  unfold losePage
  iterate 45 all_goals try first
    | with_reducible assumption
    | with_reducible refine rewindSession_held ?_
    | with_reducible refine rewindPfxFrom_held ?_
    | with_reducible refine pageFault_held ?_
    | (intro x; clear_value x)
    | lift_lets
    | split

theorem loseVersion_held {s : State} {d : Nat} {unit : Nat} {tenant : Nat} (hS : Held pts z s)
    (hp : Sub [.link, .mailbox, .serving, .images, .vellum, .blotter, .mgmt] pts := by exact Sub.up)
    : Held pts z (loseVersion s d unit tenant) := by
  unfold loseVersion
  iterate 45 all_goals try first
    | with_reducible assumption
    | with_reducible refine putTenant_held ?_
    | with_reducible refine postEvent_held ?_
    | with_reducible refine report_held ?_
    | with_reducible refine queueClear_held ?_
    | with_reducible refine releaseStore_held ?_
    | with_reducible refine foldl_held (fun _ _ _ => ?_) ?_
    | (intro x; clear_value x)
    | lift_lets
    | split
    | with_reducible refine held_free ?_

theorem loseVersions_held {s : State} {d : Nat} {unit : Nat} (hS : Held pts z s)
    (hp : Sub [.link, .mailbox, .serving, .images, .vellum, .blotter, .mgmt] pts := by exact Sub.up)
    : Held pts z (loseVersions s d unit) := by
  unfold loseVersions
  iterate 45 all_goals try first
    | with_reducible assumption
    | with_reducible refine loseVersion_held ?_
    | with_reducible refine foldl_held (fun _ _ _ => ?_) ?_

theorem rebuildCopy_held {s : State} {n : Nat} {d : Nat} {unit : Nat} (hS : Held pts z s)
    (hp : Sub [.images, .vellum] pts := by exact Sub.up) : Held pts z (rebuildCopy s n d unit) := by
  unfold rebuildCopy
  iterate 45 all_goals try first
    | with_reducible assumption
    | with_reducible refine putSlot_held ?_
    | with_reducible refine writeCopy_held ?_
    | with_reducible refine foldl_held (fun _ _ _ => ?_) ?_
    | (intro x; clear_value x)
    | lift_lets
    | split

theorem loseDraft_held {s : State} {q : DraftPage} (hS : Held pts z s)
    (hp : Sub [.serving, .vellum] pts := by exact Sub.up) : Held pts z (loseDraft s q) := by
  unfold loseDraft
  iterate 45 all_goals try first
    | with_reducible assumption
    | with_reducible refine setDraft_held ?_
    | with_reducible refine pullRow_held ?_
    | with_reducible refine pageFault_held ?_

theorem repairReserve_held {s : State} {d : Nat} {unit : Nat} (hS : Held pts z s)
    (hp : Sub [.link, .mailbox, .serving, .images, .vellum] pts := by exact Sub.up) : Held pts z (repairReserve s d unit) := by
  unfold repairReserve
  iterate 45 all_goals try first
    | with_reducible assumption
    | with_reducible refine loseChunk_held ?_
    | with_reducible refine rebuildCopy_held ?_
    | with_reducible refine loseDraft_held ?_
    | split

theorem loseHistory_held {s : State} {d : Nat} {unit : Nat} (hS : Held pts z s)
    (hp : Sub [.link, .mailbox, .serving, .images, .vellum, .power, .blotter, .mgmt, .trust] pts := by exact Sub.up)
    : Held pts z (loseHistory s d unit) := by
  unfold loseHistory
  iterate 45 all_goals try first
    | with_reducible assumption
    | with_reducible refine report_held ?_
    | with_reducible refine endSession_held ?_
    | with_reducible refine foldl_held (fun _ _ _ => ?_) ?_

theorem repairUnit_held {s : State} {r : VellumRef} (hS : Held pts z s)
    (hp : Sub [.link, .mailbox, .serving, .images, .vellum, .power, .blotter, .mgmt, .trust] pts := by exact Sub.up)
    : Held pts z (repairUnit s r) := by
  unfold repairUnit
  iterate 45 all_goals try first
    | with_reducible assumption
    | with_reducible refine note_held ?_
    | with_reducible refine writeUnits_held ?_
    | with_reducible refine loseChunk_held ?_
    | with_reducible refine losePage_held ?_
    | with_reducible refine loseVersions_held ?_
    | with_reducible refine repairReserve_held ?_
    | with_reducible refine loseHistory_held ?_
    | (intro x; clear_value x)
    | lift_lets
    | split

theorem fenceReader_held {s : State} {r : VellumRef} (hr : r.reader = none ∨ Sub [.fabric] pts) (hS : Held pts z s)
    (hp : Sub [.link, .mailbox, .serving, .images, .vellum, .power, .blotter, .mgmt, .trust, .map] pts := by exact Sub.up)
    : Held pts z (fenceReader s r) := by
  unfold fenceReader
  split
  · rename_i u hu
    rcases hr with hr | hf
    · rw [hr] at hu
      cases hu
    · have hq : Sub [.link, .mailbox, .serving, .images, .vellum, .fabric, .power, .blotter, .mgmt, .trust, .map] pts := by
        unfold Sub at *
        rw [List.all_eq_true] at *
        intro p h
        by_cases hpf : p = .fabric
        · exact hf p (by rw [hpf]; decide)
        · exact hp p (by revert h hpf; cases p <;> decide)
      dsimp only
      split
      · split
        · exact refilled_held hS
        · exact fenceCluster_held hS
      · exact hS
  · exact hS

theorem applyVellumEcc_held {s : State} {r : VellumRef} {e : VellumEcc} (hr : r.reader = none ∨ Sub [.fabric] pts)
    (hS : Held pts z s)
    (hp : Sub [.board, .nvm, .link, .mailbox, .serving, .images, .vellum, .power, .blotter, .mgmt, .trust,
      .map] pts := by exact Sub.up)
    : Held pts z (applyVellumEcc s r e) := by
  unfold applyVellumEcc
  dsimp only
  iterate 45 all_goals try first
    | with_reducible assumption
    | with_reducible refine note_held ?_
    | with_reducible refine modSite_held ?_
    | with_reducible refine retireGranule_held ?_
    | with_reducible refine markArray_held ?_
    | with_reducible refine heavyUnit_held ?_
    | with_reducible refine repairUnit_held ?_
    | with_reducible refine fenceReader_held hr ?_
    | with_reducible refine foldl_held (fun _ _ _ => ?_) ?_
    | split

end Sys2Proof.Laws
end

