-- ==== Sys2Proof/Laws/KeepNetOps.lean ====
section
/-! SUPPORT. What the functions of Machine/NetOps.lean do, as Laws/Kept.lean says it: the parts that each one may change. -/

namespace Sys2Proof.Laws

set_option Elab.async false

open Sys2Proof Sys2Proof.Machine

variable {pts : List Part} {z : State}

theorem countLate_held {s : State} {u : Nat} {cycles : Nat} (hS : Held pts z s)
    (hp : Sub [.fabric] pts := by exact Sub.up) : Held pts z (countLate s u cycles) := by
  unfold countLate
  iterate 45 all_goals try first
    | with_reducible assumption
    | with_reducible refine modNet_held ?_

theorem resume_held {s : State} {u : Nat} {cycles : Nat} (hS : Held pts z s)
    (hp : Sub [.link, .mailbox, .fabric, .blotter, .mgmt] pts := by exact Sub.up) : Held pts z (resume s u cycles) := by
  unfold resume
  iterate 45 all_goals try first
    | with_reducible assumption
    | with_reducible refine landIsland_held ?_
    | with_reducible refine recvTile_held ?_
    | with_reducible refine ligRecvTile_held ?_
    | with_reducible refine dmaWaitTile_held ?_
    | with_reducible refine countLate_held ?_
    | (intro x; clear_value x)
    | lift_lets
    | split

theorem setWord_held {s : State} {u : Nat} {w : Nat} {v : Nat} (hS : Held pts z s)
    (hp : Sub [.fabric] pts := by exact Sub.up) : Held pts z (setWord s u w v) := by
  unfold setWord
  iterate 45 all_goals try first
    | with_reducible assumption
    | with_reducible refine putIsland_held ?_

theorem groupWords_held {s : State} {u : Nat} {seats : List (Nat × Nat)} (hS : Held pts z s)
    (hp : Sub [.fabric] pts := by exact Sub.up) : Held pts z (groupWords s u seats) := by
  unfold groupWords
  iterate 45 all_goals try first
    | with_reducible assumption
    | with_reducible refine setWord_held ?_
    | with_reducible refine foldl_held (fun _ _ _ => ?_) ?_

theorem weighRoutes_held {s : State} {u : Nat} {root : Digest} {l : Nat} {b : List Byte} (hS : Held pts z s)
    (hp : Sub [.fabric] pts := by exact Sub.up) : Held pts z (weighRoutes s u root l b) := by
  unfold weighRoutes
  iterate 45 all_goals try first
    | with_reducible assumption
    | with_reducible refine putIsland_held ?_

theorem routeWrite_held {s : State} {u : Nat} {tag : Nat} {l : Nat} {b : List Byte} (hS : Held pts z s)
    (hp : Sub [.images, .fabric] pts := by exact Sub.up) : Held pts z (routeWrite s u tag l b) := by
  unfold routeWrite
  iterate 45 all_goals try first
    | with_reducible assumption
    | with_reducible refine putIsland_held ?_
    | with_reducible refine putSlot_held ?_
    | with_reducible refine setWord_held ?_
    | with_reducible refine groupWords_held ?_
    | with_reducible refine weighRoutes_held ?_
    | with_reducible refine foldl_held (fun _ _ _ => ?_) ?_
    | (intro x; first
        | (refine (fun (hx : Held pts z x) => ?_) ?_ <;> [clear_value x; subst x])
        | clear_value x)
    | lift_lets
    | split

theorem fetchUnits_held {s : State} {u : Nat} {tenant : Nat} {site : Nat} {unit : Nat} {n : Nat} {clean : Bool}
    {found : List (Nat × VellumEcc)} (hS : Held pts z s)
    (hp : Sub [.board, .nvm, .link, .mailbox, .serving, .images, .vellum, .fabric, .power, .blotter, .mgmt, .trust,
      .map] pts := by exact Sub.up)
    : Held pts z (fetchUnits s u tenant site unit n clean found).state := by
  unfold fetchUnits
  iterate 45 all_goals try first
    | with_reducible assumption
    | with_reducible refine modNet_held ?_
    | with_reducible refine carry_held ?_
    | with_reducible refine modSite_held ?_
    | with_reducible refine applyVellumEcc_held (.inr Sub.up) ?_
    | with_reducible refine foldl_held (fun _ _ _ => ?_) ?_
    | lift_lets
    | split

theorem fetchRead_held {s : State} {u : Nat} {d : DmaDesc} {clean : Bool} {found : List (Nat × VellumEcc)}
    (hS : Held pts z s)
    (hp : Sub [.board, .nvm, .link, .mailbox, .serving, .images, .vellum, .fabric, .power, .blotter, .mgmt, .trust,
      .map] pts := by exact Sub.up)
    : Held pts z (fetchRead s u d clean found).state := by
  unfold fetchRead
  iterate 45 all_goals try first
    | with_reducible assumption
    | with_reducible refine modSite_held ?_
    | with_reducible refine fetchUnits_held ?_
    | (intro x; first
        | (refine (fun (hx : Held pts z x) => ?_) ?_ <;> [clear_value x; subst x])
        | (have hx : Vellum := x; clear hx; subst x)
        | clear_value x)
    | lift_lets
    | split
    | ((with_reducible refine held_set ?_ ?_); rotate_left; exact Sound.parts)

theorem sendRow_held {s : State} {cluster : Nat} {t : Transfer} (hS : Held pts z s)
    (hp : Sub [.fabric] pts := by exact Sub.up) : Held pts z (sendRow s cluster t) := by
  unfold sendRow
  iterate 45 all_goals try first
    | with_reducible assumption
    | with_reducible refine modNet_held ?_
    | with_reducible refine carry_held ?_
    | (intro x; have hx : Fabric := x; clear hx; subst x)
    | lift_lets
    | ((with_reducible refine held_set ?_ ?_); rotate_left; exact Sound.parts)

theorem mergeEngine_held {s : State} {u : Nat} {p : Place} {e : Transfer} {found : Ecc} (hS : Held pts z s)
    (hp : Sub [.link, .mailbox, .serving, .images, .vellum, .fabric, .power, .blotter, .mgmt, .trust,
      .map] pts := by exact Sub.up)
    : Held pts z (mergeEngine s u p e found) := by
  unfold mergeEngine
  iterate 45 all_goals try first
    | with_reducible assumption
    | with_reducible refine putIsland_held ?_
    | with_reducible refine modNet_held ?_
    | with_reducible refine readRow_held ?_
    | with_reducible refine applyEcc_held ?_
    | with_reducible refine sendRow_held ?_
    | (intro x; first
        | (refine (fun (hx : Held pts z x) => ?_) ?_ <;> [clear_value x; subst x])
        | (refine (fun (hx : Held pts z x.state) => ?_) ?_ <;> [clear_value x; (subst x; try dsimp only)])
        | clear_value x)
    | lift_lets
    | split

theorem dmaMerge_held {s : State} {u : Nat} {input : Nat} {d : DmaDesc} {e : Ecc} (hS : Held pts z s)
    (hp : Sub [.link, .mailbox, .serving, .images, .vellum, .fabric, .power, .blotter, .mgmt, .trust,
      .map] pts := by exact Sub.up)
    : Held pts z (dmaMerge s u input d e) := by
  unfold dmaMerge
  iterate 45 all_goals try first
    | with_reducible assumption
    | with_reducible refine putIsland_held ?_
    | with_reducible refine routed_held ?_
    | with_reducible refine mergeEngine_held ?_
    | with_reducible refine foldl_held (fun _ _ _ => ?_) ?_

theorem rowCame_held {s : State} {u : Nat} {input : Nat} (hS : Held pts z s) (hp : Sub [.fabric] pts := by exact Sub.up)
    : Held pts z (rowCame s u input) := by
  unfold rowCame
  iterate 45 all_goals try first
    | with_reducible assumption
    | with_reducible refine putIsland_held ?_
    | with_reducible refine modTile_held ?_
    | (intro x; first
        | (refine (fun (hx : Held pts z x) => ?_) ?_ <;> [clear_value x; subst x])
        | clear_value x)
    | lift_lets
    | split

theorem dmaRead_held {s : State} {u : Nat} {d : DmaDesc} {e : Ecc} {found : List (Nat × VellumEcc)} (hS : Held pts z s)
    (hp : Sub [.board, .nvm, .link, .mailbox, .serving, .images, .vellum, .fabric, .power, .blotter, .mgmt, .trust,
      .map] pts := by exact Sub.up)
    : Held pts z (dmaRead s u d e found).state := by
  unfold dmaRead
  iterate 45 all_goals try first
    | with_reducible assumption
    | with_reducible refine readRows_held ?_
    | with_reducible refine applyEcc_held ?_
    | with_reducible refine routed_held ?_
    | with_reducible refine fetchRead_held ?_
    | lift_lets
    | split

theorem vellumWrite_held {s : State} {site : Nat} {addr : Nat} {b : List Byte} {poisoned : Bool} (hS : Held pts z s)
    (hp : Sub [.vellum] pts := by exact Sub.up) : Held pts z (vellumWrite s site addr b poisoned) := by
  unfold vellumWrite
  iterate 45 all_goals try first
    | with_reducible assumption
    | with_reducible refine putPage_held ?_
    | with_reducible refine wroteUnits_held ?_
    | with_reducible refine foldl_held (fun _ _ _ => ?_) ?_
    | (intro x; first
        | (have hx : Vellum := x; clear hx; subst x)
        | clear_value x)
    | lift_lets
    | split
    | ((with_reducible refine held_set ?_ ?_); rotate_left
       exact fun hh => ⟨hh.nvm, mwf_mwrite _ _ hh.vellum, hh.sram, hh.power,
         hh.thermal, hh.blotter, hh.events, hh.trust⟩)

theorem engineVellum_held {s : State} {u : Nat} {site : Nat} {addr : Nat} {b : List Byte} {poisoned : Bool}
    (hS : Held pts z s) (hp : Sub [.vellum, .fabric] pts := by exact Sub.up)
    : Held pts z (engineVellum s u site addr b poisoned) := by
  unfold engineVellum
  iterate 45 all_goals try first
    | with_reducible assumption
    | with_reducible refine modNet_held ?_
    | with_reducible refine carry_held ?_
    | with_reducible refine vellumWrite_held ?_

theorem dmaWrite_held {s : State} {u : Nat} {d : DmaDesc} {b : List Byte} {poisoned : Bool} (hS : Held pts z s)
    (hp : Sub [.link, .mailbox, .vellum, .fabric, .blotter, .mgmt] pts := by exact Sub.up)
    : Held pts z (dmaWrite s u d b poisoned) := by
  unfold dmaWrite
  iterate 45 all_goals try first
    | with_reducible assumption
    | with_reducible refine routed_held ?_
    | with_reducible refine bringWrite_held ?_
    | with_reducible refine engineVellum_held ?_
    | (intro x; first
        | (have hx : Fabric := x; clear hx; subst x)
        | clear_value x)
    | lift_lets
    | split
    | ((with_reducible refine held_set ?_ ?_); rotate_left; exact Sound.parts)

theorem arbGrant_held {s : State} {arb : Nat} {rs : List Nat} (hS : Held pts z s)
    (hp : Sub [.fabric] pts := by exact Sub.up) : Held pts z (arbGrant s arb rs) := by
  unfold arbGrant
  iterate 45 all_goals try first
    | with_reducible assumption
    | with_reducible refine modNet_held ?_
    | (intro x; first
        | (refine (fun (hx : Held pts z x) => ?_) ?_ <;> [clear_value x; subst x])
        | (have hx : Fabric := x; clear hx; subst x)
        | clear_value x)
    | lift_lets
    | split
    | ((with_reducible refine held_set ?_ ?_); rotate_left; exact Sound.parts)

theorem arbGrants_held {arb : Nat} {rs : List Nat} {n : Nat} {s : State} (hS : Held pts z s)
    (hp : Sub [.fabric] pts := by exact Sub.up) : Held pts z (arbGrants arb rs n s) := by
  induction n generalizing rs s with
  | zero => exact hS
  | succ n ih =>
    unfold arbGrants
    iterate 20 all_goals try first
      | with_reducible assumption
      | with_reducible refine ih ?_
      | with_reducible refine arbGrant_held ?_
      | with_reducible refine foldl_held (fun _ _ _ => ?_) ?_
      | (intro x
         first
           | (refine (fun (hx : Held pts z x) => ?_) ?_ <;> [clear_value x; subst x])
           | (refine (fun (hx : ∀ s, Held pts z s → Held pts z (x s)) => ?_) ?_ <;> [clear_value x; (subst x; intro _ _; dsimp only)])
           | (refine (fun (hx : ∀ s a, Held pts z s → Held pts z (x s a)) => ?_) ?_ <;> [clear_value x; (subst x; intro _ _ _; dsimp only)])
           | (refine (fun (hx : ∀ a, Held pts z (x a)) => ?_) ?_ <;> [clear_value x; (subst x; intro _; dsimp only)])
           | (refine (fun (hx : Held pts z x.state) => ?_) ?_ <;> [clear_value x; (subst x; try dsimp only)])
           | (refine (fun (hx : Held pts z x.2) => ?_) ?_ <;> [clear_value x; (subst x; try dsimp only)])
           | (have hx : Vellum := x; clear hx; subst x)
           | (have hx : Fabric := x; clear hx; subst x)
           | (have hx : Power := x; clear hx; subst x)
           | (have hx : Thermal := x; clear hx; subst x)
           | (have hx : Blotter := x; clear hx; subst x)
           | (have hx : Mgmt := x; clear hx; subst x)
           | (have hx : Trust := x; clear hx; subst x)
           | (have hx : Nvm := x; clear hx; subst x)
           | clear_value x
           | subst x)
      | lift_lets
      | split
      | with_reducible refine held_free ?_
      | ((with_reducible refine held_set ?_ ?_); rotate_left; exact Sound.parts)
      | ((with_reducible refine held_set ?_ ?_); rotate_left
         exact fun hh => ⟨(by first
             | exact hh.nvm
             | exact nvmSound_reported hh.nvm rfl
             | exact ⟨hh.nvm.1, hh.nvm.2.1, hh.nvm.2.2.1, Nat.le_trans (List.length_filter_le _ _) hh.nvm.2.2.2⟩),
           (by first
             | exact hh.vellum
             | exact mwf_mpaste _ _ _ hh.vellum
             | exact mwf_foldl (fun _ _ hm => mwf_mclear _ _ hm) hh.vellum
             | exact mwf_foldl (fun _ _ hm => mwf_mwrite _ _ hm) hh.vellum
             | exact mwf_foldl (fun _ _ hm => mwf_mput _ _ hm) hh.vellum
             | exact rfl
             | exact mwf_mwrite _ _ hh.vellum
             | exact mwf_mclear _ _ hh.vellum),
           (by first
             | exact hh.sram
             | exact mwf_mpaste _ _ _ hh.sram
             | exact mwf_foldl (fun _ _ hm => mwf_mclear _ _ hm) hh.sram
             | exact mwf_foldl (fun _ _ hm => mwf_mwrite _ _ hm) hh.sram
             | exact mwf_foldl (fun _ _ hm => mwf_mput _ _ hm) hh.sram
             | exact rfl
             | exact mwf_mwrite _ _ hh.sram
             | exact mwf_mclear _ _ hh.sram
             | exact twf_filter _ hh.sram),
           (by first
             | exact hh.power
             | exact powerSound_default
             | exact ⟨hh.power.1, hh.power.1, hh.power.2.2⟩
             | exact ⟨hh.power.1, hh.power.1, (by decide : 1 ≤ 6), (by decide : 6 ≤ 14)⟩),
           (by first
             | exact hh.thermal
             | exact ⟨Nat.le_refl 18500, rfl⟩),
           (by first
             | exact hh.blotter
             | exact blotterSound_default
             | exact ⟨hh.blotter.1, hh.blotter.2.1, Nat.zero_le _⟩
             | exact ⟨keepRing_le _, Nat.zero_le _, hh.blotter.2.2⟩),
           (by first
             | exact hh.events
             | exact Nat.zero_le _),
           (by first
             | exact hh.trust
             | exact trustSound_default)⟩)

theorem passArbiters_held {s : State} {r : Nat × List Nat} {rs : List (Nat × List Nat)} {grants : Nat} (hS : Held pts z s)
    (hp : Sub [.fabric] pts := by exact Sub.up) : Held pts z (passArbiters s r rs grants) := by
  unfold passArbiters
  iterate 45 all_goals try first
    | with_reducible assumption
    | with_reducible refine arbGrants_held ?_
    | with_reducible refine foldl_held (fun _ _ _ => ?_) ?_
    | (intro x; first
        | (refine (fun (hx : Held pts z x) => ?_) ?_ <;> [clear_value x; subst x])
        | (have hx : Fabric := x; clear hx; subst x)
        | clear_value x)
    | lift_lets
    | ((with_reducible refine held_set ?_ ?_); rotate_left; exact Sound.parts)

theorem countLoad_held {s : State} {u : Nat} {input : Nat} {rs : List (Nat × List Nat)} {l : DmaLoad} (hS : Held pts z s)
    (hp : Sub [.fabric] pts := by exact Sub.up) : Held pts z (countLoad s u input rs l) := by
  unfold countLoad
  iterate 45 all_goals try first
    | with_reducible assumption
    | with_reducible refine modMem_held ?_
    | with_reducible refine passArbiters_held ?_
    | (intro x; refine (fun (hx : Held pts z x) => ?_) ?_ <;> [clear_value x; subst x])
    | lift_lets
    | split

theorem faultStep_held {s : State} {u : Nat} (hS : Held pts z s) (hp : Sub [.serving] pts := by exact Sub.up)
    : Held pts z (faultStep s u) := by
  unfold faultStep
  iterate 45 all_goals try first
    | with_reducible assumption
    | with_reducible refine modStep_held ?_
    | split

theorem dmaRefused_held {s : State} {u : Nat} {index : Nat} {case_ : Nat} (hS : Held pts z s)
    (hp : Sub [.link, .mailbox, .serving, .fabric, .blotter, .mgmt] pts := by exact Sub.up)
    : Held pts z (dmaRefused s u index case_) := by
  unfold dmaRefused
  iterate 45 all_goals try first
    | with_reducible assumption
    | with_reducible refine note_held ?_
    | with_reducible refine modMem_held ?_
    | with_reducible refine reportFlit_held ?_
    | with_reducible refine faultStep_held ?_

theorem dmaRun_held {s : State} {u : Nat} {index : Nat} {input : Nat} {raw : BitVec 256} {e : Ecc}
    {found : List (Nat × VellumEcc)} (hS : Held pts z s)
    (hp : Sub [.board, .nvm, .link, .mailbox, .serving, .images, .vellum, .fabric, .power, .blotter, .mgmt, .trust,
      .map] pts := by exact Sub.up)
    : Held pts z (dmaRun s u index input raw e found) := by
  unfold dmaRun
  iterate 45 all_goals try first
    | with_reducible assumption
    | with_reducible refine note_held ?_
    | with_reducible refine modMem_held ?_
    | with_reducible refine reportFlit_held ?_
    | with_reducible refine isolationFault_held ?_
    | with_reducible refine dmaMerge_held ?_
    | with_reducible refine dmaRead_held ?_
    | with_reducible refine dmaWrite_held ?_
    | with_reducible refine faultStep_held ?_
    | with_reducible refine dmaRefused_held ?_
    | (intro x; first
        | (refine (fun (hx : Held pts z x.state) => ?_) ?_ <;> [clear_value x; (subst x; try dsimp only)])
        | clear_value x)
    | lift_lets
    | split

theorem coverLink_held {s : State} {die : Nat} {dir : Nat} (hS : Held pts z s)
    (hp : Sub [.link, .mailbox, .serving, .images, .vellum, .fabric, .power, .blotter, .mgmt,
      .trust] pts := by exact Sub.up)
    : Held pts z (coverLink s die dir) := by
  unfold coverLink
  iterate 45 all_goals try first
    | with_reducible assumption
    | with_reducible refine enforce_held ?_
    | with_reducible refine noVariant_held ?_
    | with_reducible refine foldl_held (fun _ _ _ => ?_) ?_
    | (intro x; clear_value x)
    | lift_lets
    | split

theorem mapOutSublink_held {s : State} {die : Nat} {dir : Nat} {sub : Nat} (hS : Held pts z s)
    (hp : Sub [.link, .mailbox, .serving, .images, .vellum, .fabric, .power, .blotter, .mgmt, .trust,
      .map] pts := by exact Sub.up)
    : Held pts z (mapOutSublink s die dir sub) := by
  unfold mapOutSublink
  iterate 45 all_goals try first
    | with_reducible assumption
    | with_reducible refine note_held ?_
    | with_reducible refine mapChanged_held ?_
    | with_reducible refine coverLink_held ?_
    | (intro x; first
        | (refine (fun (hx : Held pts z x) => ?_) ?_ <;> [clear_value x; subst x])
        | (have hx : Fabric := x; clear hx; subst x)
        | clear_value x)
    | lift_lets
    | split
    | ((with_reducible refine held_set ?_ ?_); rotate_left; exact Sound.parts)

end Sys2Proof.Laws
end

