-- ==== Sys2Proof/Laws/KeepNetEvents.lean ====
section
/-! SUPPORT. What the functions of Machine/NetEvents.lean do, as Laws/Kept.lean says it: the parts that each one may change. -/

namespace Sys2Proof.Laws

set_option Elab.async false

open Sys2Proof Sys2Proof.Machine

variable {pts : List Part} {z : State}

theorem atDestination_held {s : State} {e : LigEntry} {f : Flits} (hS : Held pts z s)
    (hp : Sub [.serving, .images, .fabric] pts := by exact Sub.up) : Held pts z (atDestination s e f) := by
  unfold atDestination
  iterate 45 all_goals try first
    | with_reducible assumption
    | with_reducible refine putIsland_held ?_
    | with_reducible refine countFor_held ?_
    | with_reducible refine countIn_held ?_
    | with_reducible refine modTile_held ?_
    | with_reducible refine routeWrite_held ?_
    | with_reducible refine foldl_held (fun _ _ _ => ?_) ?_
    | (intro x; first
        | (refine (fun (hx : Held pts z x) => ?_) ?_ <;> [clear_value x; subst x])
        | clear_value x)
    | lift_lets
    | split

theorem deliverNode_held {s : State} {t : Transfer} {into : Option LigIn} {slot : Nat} (hS : Held pts z s)
    (hp : Sub [.serving, .images, .fabric] pts := by exact Sub.up) : Held pts z (deliverNode s t into slot) := by
  unfold deliverNode
  iterate 45 all_goals try first
    | with_reducible assumption
    | with_reducible refine enterNode_held ?_
    | with_reducible refine atDestination_held ?_
    | split

theorem deliver_held {s : State} {t : Transfer} (hS : Held pts z s)
    (hp : Sub [.link, .mailbox, .serving, .images, .vellum, .fabric, .blotter, .mgmt] pts := by exact Sub.up)
    : Held pts z (deliver s t) := by
  unfold deliver
  iterate 45 all_goals try first
    | with_reducible assumption
    | with_reducible refine putIsland_held ?_
    | with_reducible refine modNet_held ?_
    | with_reducible refine bringWrite_held ?_
    | with_reducible refine keepInput_held ?_
    | with_reducible refine rowCame_held ?_
    | with_reducible refine vellumWrite_held ?_
    | with_reducible refine deliverNode_held ?_
    | (intro x; first
        | (refine (fun (hx : Held pts z x) => ?_) ?_ <;> [clear_value x; subst x])
        | clear_value x)
    | lift_lets
    | split

theorem execTokenArrival_held {consumer : Nat} {crossing : Nat} {gatedCycles : Nat} {s : State} (hS : Held pts z s)
    (hp : Sub [.link, .mailbox, .serving, .images, .vellum, .fabric, .blotter, .mgmt] pts := by exact Sub.up)
    : OutHeld pts z (execTokenArrival consumer crossing gatedCycles s) := by
  unfold execTokenArrival
  iterate 45 all_goals try first
    | with_reducible refine outHeld_next ?_
    | with_reducible assumption
    | with_reducible refine resume_held ?_
    | with_reducible refine deliver_held ?_
    | with_reducible refine foldl_held (fun _ _ _ => ?_) ?_
    | (intro x; first
        | (have hx : Fabric := x; clear hx; subst x)
        | clear_value x)
    | lift_lets
    | split
    | ((with_reducible refine held_set ?_ ?_); rotate_left; exact Sound.parts)

theorem unstall_held {s : State} {u : Nat} {cycles : Nat} (hS : Held pts z s)
    (hp : Sub [.link, .mailbox, .fabric, .blotter, .mgmt] pts := by exact Sub.up) : Held pts z (unstall s u cycles) := by
  unfold unstall
  iterate 45 all_goals try first
    | with_reducible assumption
    | with_reducible refine putIsland_held ?_
    | with_reducible refine modNet_held ?_
    | with_reducible refine landIsland_held ?_

theorem execSendAck_held {producer : Nat} {crossing : Met Nat Nat} {s : State} (hS : Held pts z s)
    (hp : Sub [.link, .mailbox, .fabric, .blotter, .mgmt] pts := by exact Sub.up)
    : OutHeld pts z (execSendAck producer crossing s) := by
  unfold execSendAck
  iterate 45 all_goals try first
    | with_reducible refine outHeld_next ?_
    | with_reducible assumption
    | with_reducible refine enterNode_held ?_
    | with_reducible refine unstall_held ?_
    | lift_lets
    | split

theorem execWatchdog_held {t : Nat} {consumer : Nat} {producer : Nat} {crossing : Nat} {tokenSameCycle : Bool} {s : State}
    (hS : Held pts z s)
    (hp : Sub [.now, .link, .mailbox, .serving, .images, .vellum, .fabric, .power, .blotter, .mgmt, .trust,
      .map] pts := by exact Sub.up)
    : OutHeld pts z (execWatchdog t consumer producer crossing tokenSameCycle s) := by
  unfold execWatchdog
  iterate 45 all_goals try first
    | with_reducible refine outHeld_next ?_
    | with_reducible assumption
    | with_reducible refine advance_held ?_
    | with_reducible refine note_held ?_
    | with_reducible refine fenceCluster_held ?_
    | with_reducible refine modNet_held ?_
    | with_reducible refine reportFlit_held ?_
    | with_reducible refine resume_held ?_
    | with_reducible refine deliver_held ?_
    | (intro x; first
        | (refine (fun (hx : Held pts z x) => ?_) ?_ <;> [clear_value x; subst x])
        | (have hx : Fabric := x; clear hx; subst x))
    | lift_lets
    | split
    | ((with_reducible refine held_set ?_ ?_); rotate_left; exact Sound.parts)

theorem execFlitRetry_held {t : Nat} {die : Nat} {dir : Nat} {sublink : Nat} {s : State} (hS : Held pts z s)
    (hp : Sub [.now, .fabric] pts := by exact Sub.up) : OutHeld pts z (execFlitRetry t die dir sublink s) := by
  unfold execFlitRetry
  iterate 45 all_goals try first
    | with_reducible refine outHeld_next ?_
    | with_reducible assumption
    | with_reducible refine advance_held ?_
    | with_reducible refine modNet_held ?_
    | (intro x; first
        | (refine (fun (hx : Held pts z x) => ?_) ?_ <;> [clear_value x; subst x])
        | (have hx : Fabric := x; clear hx; subst x))
    | lift_lets
    | split
    | ((with_reducible refine held_set ?_ ?_); rotate_left; exact Sound.parts)

theorem execSublinkOut_held {t : Nat} {die : Nat} {dir : Nat} {sublink : Nat} {s : State} (hS : Held pts z s)
    (hp : Sub [.now, .link, .mailbox, .serving, .images, .vellum, .fabric, .power, .blotter, .mgmt, .trust,
      .map] pts := by exact Sub.up)
    : OutHeld pts z (execSublinkOut t die dir sublink s) := by
  unfold execSublinkOut
  iterate 45 all_goals try first
    | with_reducible refine outHeld_next ?_
    | with_reducible assumption
    | with_reducible refine advance_held ?_
    | with_reducible refine mapOutSublink_held ?_
    | lift_lets
    | split

theorem execMergeWindowClose_held {unit : Nat} {row : Nat} {s : State} (hS : Held pts z s)
    (hp : Sub [.fabric] pts := by exact Sub.up) : OutHeld pts z (execMergeWindowClose unit row s) := by
  unfold execMergeWindowClose
  iterate 45 all_goals try first
    | with_reducible refine outHeld_next ?_
    | with_reducible assumption
    | with_reducible refine closeWindow_held ?_
    | lift_lets
    | split

theorem passOn_held {s : State} {unit : Nat} {slot : Nat} {gatedCycles : Nat} {e : LigEntry} {f : Flits}
    (hS : Held pts z s) (hp : Sub [.link, .mailbox, .serving, .images, .fabric, .blotter, .mgmt] pts := by exact Sub.up)
    : Held pts z (passOn s unit slot gatedCycles e f) := by
  unfold passOn
  iterate 45 all_goals try first
    | with_reducible assumption
    | with_reducible refine routed_held ?_
    | with_reducible refine enterNode_held ?_
    | with_reducible refine resume_held ?_
    | with_reducible refine atDestination_held ?_
    | with_reducible refine foldl_held (fun _ _ _ => ?_) ?_
    | (intro x; refine (fun (hx : Held pts z x) => ?_) ?_ <;> [clear_value x; subst x])
    | lift_lets
    | split

theorem holdOutput_held {s : State} {unit : Nat} {slot : Nat} {e : LigEntry} {f : Flits} (hS : Held pts z s)
    (hp : Sub [.fabric] pts := by exact Sub.up) : Held pts z (holdOutput s unit slot e f) := by
  unfold holdOutput
  iterate 45 all_goals try first
    | with_reducible assumption
    | with_reducible refine modNet_held ?_
    | (intro x; first
        | (refine (fun (hx : Held pts z x) => ?_) ?_ <;> [clear_value x; subst x])
        | (have hx : Fabric := x; clear hx; subst x)
        | clear_value x)
    | lift_lets
    | ((with_reducible refine held_set ?_ ?_); rotate_left; exact Sound.parts)

theorem execLigatureCombine_held {unit : Nat} {tag : Nat} {gatedCycles : Nat} {s : State} (hS : Held pts z s)
    (hp : Sub [.link, .mailbox, .serving, .images, .fabric, .blotter, .mgmt] pts := by exact Sub.up)
    : OutHeld pts z (execLigatureCombine unit tag gatedCycles s) := by
  unfold execLigatureCombine
  iterate 45 all_goals try first
    | with_reducible refine outHeld_next ?_
    | with_reducible assumption
    | with_reducible refine putIsland_held ?_
    | with_reducible refine passOn_held ?_
    | with_reducible refine holdOutput_held ?_
    | (intro x; first
        | (refine (fun (hx : Held pts z x) => ?_) ?_ <;> [clear_value x; subst x])
        | clear_value x)
    | lift_lets
    | split

theorem dmaEnded_held {s : State} {u : Nat} {input : Nat} {flag : Nat} (hS : Held pts z s)
    (hp : Sub [.fabric] pts := by exact Sub.up) : Held pts z (dmaEnded s u input flag) := by
  unfold dmaEnded
  iterate 45 all_goals try first
    | with_reducible assumption
    | with_reducible refine modTile_held ?_
    | split

theorem execDmaComplete_held {t : Nat} {cluster : Nat} {tile : Nat} {ecc : Met Ecc (List (Nat × VellumEcc))}
    {load : DmaLoad} {s : State} (hS : Held pts z s)
    (hp : Sub [.now, .board, .nvm, .link, .mailbox, .serving, .images, .vellum, .fabric, .power, .blotter, .mgmt,
      .trust, .map] pts := by exact Sub.up)
    : OutHeld pts z (execDmaComplete t cluster tile ecc load s) := by
  unfold execDmaComplete
  dsimp only
  iterate 45 all_goals try first
    | with_reducible refine outHeld_next ?_
    | with_reducible assumption
    | with_reducible refine putIsland_held ?_
    | with_reducible refine advance_held ?_
    | with_reducible refine modTile_held ?_
    | with_reducible refine resume_held ?_
    | with_reducible refine countLoad_held ?_
    | with_reducible refine dmaRun_held ?_
    | with_reducible refine dmaEnded_held ?_
    | split

theorem forcedWins_held {s : State} {u : Nat} {n : Nat} (hS : Held pts z s) (hp : Sub [.fabric] pts := by exact Sub.up)
    : Held pts z (forcedWins s u n) := by
  unfold forcedWins
  iterate 45 all_goals try first
    | with_reducible assumption
    | with_reducible refine modMem_held ?_

theorem execCorrectedWriteBack_held {unit : Nat} {row : Met Nat Nat} {s : State} (hS : Held pts z s)
    (hp : Sub [.fabric] pts := by exact Sub.up) : OutHeld pts z (execCorrectedWriteBack unit row s) := by
  unfold execCorrectedWriteBack
  iterate 45 all_goals try first
    | with_reducible refine outHeld_next ?_
    | with_reducible assumption
    | with_reducible refine putIsland_held ?_
    | with_reducible refine forcedWins_held ?_
    | lift_lets
    | split

theorem execScrubRead_held {unit : Nat} {row : Nat} {ecc : Met Ecc Nat} {s : State} (hS : Held pts z s)
    (hp : Sub [.link, .mailbox, .serving, .images, .vellum, .fabric, .power, .blotter, .mgmt, .trust,
      .map] pts := by exact Sub.up)
    : OutHeld pts z (execScrubRead unit row ecc s) := by
  unfold execScrubRead
  iterate 45 all_goals try first
    | with_reducible refine outHeld_next ?_
    | with_reducible assumption
    | with_reducible refine modMem_held ?_
    | with_reducible refine sramUncorrectable_held ?_
    | with_reducible refine forcedWins_held ?_
    | with_reducible refine foldl_held (fun _ _ _ => ?_) ?_
    | lift_lets
    | split

theorem setLineOwner_held {s : State} {l : Nat} {owner : Nat} (hS : Held pts z s)
    (hp : Sub [.fabric] pts := by exact Sub.up) : Held pts z (setLineOwner s l owner) := by
  unfold setLineOwner
  iterate 45 all_goals try first
    | with_reducible assumption
    | with_reducible refine foldl_held (fun _ _ _ => ?_) ?_
    | (intro x; first
        | (have hx : Fabric := x; clear hx; subst x)
        | clear_value x)
    | lift_lets
    | ((with_reducible refine held_set ?_ ?_); rotate_left; exact Sound.parts)

theorem dropLineLoads_held {s : State} {l : Nat} (hS : Held pts z s) (hp : Sub [.fabric] pts := by exact Sub.up)
    : Held pts z (dropLineLoads s l) := by
  unfold dropLineLoads
  iterate 45 all_goals try first
    | with_reducible assumption
    | with_reducible refine putIsland_held ?_
    | with_reducible refine foldl_held (fun _ _ _ => ?_) ?_

theorem closeRows_held {s : State} {u : Nat} {addr : Nat} {n : Nat} (hS : Held pts z s)
    (hp : Sub [.fabric] pts := by exact Sub.up) : Held pts z (closeRows s u addr n) := by
  unfold closeRows
  iterate 45 all_goals try first
    | with_reducible assumption
    | with_reducible refine closeWindows_held ?_
    | with_reducible refine foldl_held (fun _ _ _ => ?_) ?_
    | lift_lets
    | split

theorem clearSram_held {s : State} {key : Nat} {n : Nat} (hS : Held pts z s) (hp : Sub [.fabric] pts := by exact Sub.up)
    : Held pts z (clearSram s key n) := by
  unfold clearSram
  iterate 45 all_goals try first
    | exact sram_held (by assumption) (fun hv => mwf_mclear _ _ hv)

theorem clearMemory_held {s : State} {k : ClearKind} (hS : Held pts z s)
    (hp : Sub [.vellum, .fabric] pts := by exact Sub.up) : Held pts z (clearMemory s k) := by
  unfold clearMemory
  iterate 45 all_goals try first
    | with_reducible assumption
    | with_reducible refine clearUnits_held ?_
    | with_reducible refine clearPage_held ?_
    | with_reducible refine clearIdle_held ?_
    | with_reducible refine setLineOwner_held ?_
    | with_reducible refine dropLineLoads_held ?_
    | with_reducible refine closeRows_held ?_
    | with_reducible refine clearSram_held ?_
    | with_reducible refine foldl_held (fun _ _ _ => ?_) ?_
    | (intro x; have hx : Vellum := x; clear hx; subst x)
    | lift_lets
    | split
    | ((with_reducible refine held_set ?_ ?_); rotate_left; exact Sound.parts)

theorem clearedPage_held {s : State} {p : Nat} {error : Bool} (hS : Held pts z s)
    (hp : Sub [.vellum] pts := by exact Sub.up) : Held pts z (clearedPage s p error) := by
  unfold clearedPage
  iterate 45 all_goals try first
    | with_reducible assumption
    | with_reducible refine putPage_held ?_

theorem partitionCleared_held {s : State} {n : Nat} (hS : Held pts z s)
    (hp : Sub [.free, .link, .serving] pts := by exact Sub.up) : Held pts z (partitionCleared s n) := by
  unfold partitionCleared
  iterate 45 all_goals try first
    | with_reducible assumption
    | with_reducible refine putFn_held ?_
    | with_reducible refine putPartition_held ?_
    | with_reducible refine drewKeys_held ?_
    | lift_lets
    | split

theorem deregistersDone_held {s : State} (hS : Held pts z s)
    (hp : Sub [.link, .mailbox, .blotter, .mgmt] pts := by exact Sub.up) : Held pts z (deregistersDone s) := by
  unfold deregistersDone
  iterate 45 all_goals try first
    | with_reducible assumption
    | with_reducible refine completeAt_held ?_
    | with_reducible refine foldl_held (fun _ _ _ => ?_) ?_
    | (intro x; clear_value x)
    | lift_lets
    | split

theorem retireRegion_held {s : State} {us : List Nat} {region : Nat} (hS : Held pts z s)
    (hp : Sub [.link, .mailbox, .fabric, .blotter, .mgmt] pts := by exact Sub.up) : Held pts z (retireRegion s us region) := by
  unfold retireRegion
  iterate 45 all_goals try first
    | with_reducible assumption
    | with_reducible refine note_held ?_
    | with_reducible refine reportFlit_held ?_
    | (intro x; first
        | (refine (fun (hx : Held pts z x) => ?_) ?_ <;> [clear_value x; subst x])
        | (have hx : Fabric := x; clear hx; subst x)
        | clear_value x)
    | lift_lets
    | split
    | ((with_reducible refine held_set ?_ ?_); rotate_left; exact Sound.parts)

theorem retireCleared_held {s : State} {k : Nat} {aux : Nat} (hS : Held pts z s)
    (hp : Sub [.board, .nvm, .link, .mailbox, .serving, .images, .vellum, .blotter, .mgmt, .map] pts := by exact Sub.up)
    : Held pts z (retireCleared s k aux) := by
  unfold retireCleared
  iterate 45 all_goals try first
    | with_reducible assumption
    | with_reducible refine note_held ?_
    | with_reducible refine retireGranule_held ?_

theorem clearError_held {s : State} {k : ClearKind} {us : List Nat} {region : Nat} (hS : Held pts z s)
    (hp : Sub [.board, .nvm, .link, .mailbox, .serving, .images, .vellum, .fabric, .power, .blotter, .mgmt, .trust,
      .map] pts := by exact Sub.up)
    : Held pts z (clearError s k us region) := by
  unfold clearError
  iterate 45 all_goals try first
    | with_reducible assumption
    | with_reducible refine note_held ?_
    | with_reducible refine fenceCluster_held ?_
    | with_reducible refine retireRegion_held ?_
    | with_reducible refine retireCleared_held ?_
    | split

theorem execClearComplete_held {t : Nat} {index : Nat} {error : Met (Option Nat) Nat} {s : State} (hS : Held pts z s)
    (hp : Sub [.now, .free, .board, .nvm, .link, .mailbox, .serving, .images, .vellum, .fabric, .power, .blotter, .mgmt,
      .trust, .map] pts := by exact Sub.up)
    : OutHeld pts z (execClearComplete t index error s) := by
  unfold execClearComplete
  iterate 45 all_goals try first
    | with_reducible refine outHeld_next ?_
    | with_reducible assumption
    | with_reducible refine putSlot_held ?_
    | with_reducible refine advance_held ?_
    | with_reducible refine completeStarted_held ?_
    | with_reducible refine modMem_held ?_
    | with_reducible refine forcedWins_held ?_
    | with_reducible refine clearMemory_held ?_
    | with_reducible refine clearedPage_held ?_
    | with_reducible refine partitionCleared_held ?_
    | with_reducible refine deregistersDone_held ?_
    | with_reducible refine clearError_held ?_
    | with_reducible refine foldl_held (fun _ _ _ => ?_) ?_
    | (intro x; first
        | (refine (fun (hx : Held pts z x) => ?_) ?_ <;> [clear_value x; subst x])
        | clear_value x)
    | lift_lets
    | split
    | with_reducible refine held_free ?_

end Sys2Proof.Laws
end

