-- ==== Sys2Proof/Laws/KeepImageOps.lean ====
section
/-! SUPPORT. What the functions of Machine/ImageOps.lean do, as Laws/Kept.lean says it: the parts that each one may change. -/

namespace Sys2Proof.Laws

set_option Elab.async false

open Sys2Proof Sys2Proof.Machine

variable {pts : List Part} {z : State}

theorem dropTypes_held {s : State} {n : Nat} (hS : Held pts z s) (hp : Sub [.fabric] pts := by exact Sub.up)
    : Held pts z (dropTypes s n) := by
  unfold dropTypes
  iterate 45 all_goals try first
    | with_reducible assumption
    | (intro x; first
        | (have hx : Fabric := x; clear hx; subst x)
        | clear_value x)
    | lift_lets
    | ((with_reducible refine held_set ?_ ?_); rotate_left; exact Sound.parts)

theorem dropHalves_held {s : State} {n : Nat} (hS : Held pts z s) (hp : Sub [.serving, .fabric] pts := by exact Sub.up)
    : Held pts z (dropHalves s n) := by
  unfold dropHalves
  iterate 45 all_goals try first
    | with_reducible assumption
    | with_reducible refine putIsland_held ?_
    | with_reducible refine queueClear_held ?_
    | with_reducible refine dropTypes_held ?_
    | with_reducible refine foldl_held (fun _ _ _ => ?_) ?_
    | (intro x; have hx : Fabric := x; clear hx; subst x)
    | lift_lets
    | ((with_reducible refine held_set ?_ ?_); rotate_left; exact Sound.parts)

theorem clearSlot_held {s : State} {n : Nat} {reason : Nat} (hS : Held pts z s)
    (hp : Sub [.serving, .images, .fabric] pts := by exact Sub.up) : Held pts z (clearSlot s n reason) := by
  unfold clearSlot
  iterate 45 all_goals try first
    | with_reducible assumption
    | with_reducible refine putSlot_held ?_
    | with_reducible refine queueClear_held ?_
    | with_reducible refine endExport_held ?_
    | with_reducible refine dropHalves_held ?_
    | lift_lets
    | split

theorem endLoad_held {s : State} {n : Nat} {reason : Nat} (hS : Held pts z s)
    (hp : Sub [.link, .mailbox, .serving, .images, .fabric, .power, .blotter, .mgmt] pts := by exact Sub.up)
    : Held pts z (endLoad s n reason) := by
  unfold endLoad
  iterate 45 all_goals try first
    | with_reducible assumption
    | with_reducible refine completeStarted_held ?_
    | with_reducible refine clearSlot_held ?_

theorem wroteChunk_held {s : State} {n : Nat} {c : Nat} (hS : Held pts z s) (hp : Sub [.vellum] pts := by exact Sub.up)
    : Held pts z (wroteChunk s n c) := by
  unfold wroteChunk
  iterate 45 all_goals try first
    | with_reducible assumption
    | with_reducible refine wroteUnits_held ?_

theorem storeChunk_held {s s' : State} {n c : Nat} (hS : Held pts z s) (he : storeChunk s n c = some s')
    (hp : Sub [.images, .vellum] pts := by exact Sub.up) : Held pts z s' := by
  unfold storeChunk at he
  dsimp only at he
  split at he
  · rw [Option.map_eq_some_iff] at he
    obtain ⟨x, -, hx⟩ := he
    rw [← hx]
    exact wroteChunk_held (putSlot_held hS)
  · cases he
    exact wroteChunk_held hS

theorem setRoutes_held {s : State} {n : Nat} {b : FolioBody} (hS : Held pts z s)
    (hp : Sub [.fabric] pts := by exact Sub.up) : Held pts z (setRoutes s n b) := by
  unfold setRoutes
  iterate 45 all_goals try first
    | with_reducible assumption
    | (intro x; first
        | (have hx : Fabric := x; clear hx; subst x)
        | clear_value x)
    | lift_lets
    | ((with_reducible refine held_set ?_ ?_); rotate_left; exact Sound.parts)

theorem setSram_held {s : State} {b : FolioBody} {u : Nat} (hS : Held pts z s) (hp : Sub [.fabric] pts := by exact Sub.up)
    : Held pts z (setSram s b u) := by
  unfold setSram
  iterate 45 all_goals try first
    | with_reducible assumption
    | with_reducible refine modNet_held ?_
    | with_reducible refine closeRows_held ?_
    | with_reducible refine foldl_held (fun _ _ _ => ?_) ?_
    | (intro x; first
        | (refine (fun (hx : Held pts z x) => ?_) ?_ <;> [clear_value x; subst x])
        | (have hx : Fabric := x; clear hx; subst x)
        | clear_value x)
    | lift_lets
    | split
    | ((with_reducible refine held_set ?_ ?_); rotate_left
       exact fun hh => ⟨hh.nvm, hh.vellum, mwf_foldl (fun _ _ hm => mwf_mwrite _ _ hm) hh.sram, hh.power,
         hh.thermal, hh.blotter, hh.events, hh.trust⟩)

theorem startTables_held {s : State} {n : Nat} {p : ClusterPlan} (hS : Held pts z s)
    (hp : Sub [.fabric] pts := by exact Sub.up) : Held pts z (startTables s n p) := by
  unfold startTables
  iterate 45 all_goals try first
    | with_reducible assumption
    | with_reducible refine putIsland_held ?_

theorem takePart_held {s : State} {n : Nat} {b : FolioBody} {p : ClusterPlan} (hS : Held pts z s)
    (hp : Sub [.serving, .fabric] pts := by exact Sub.up) : Held pts z (takePart s n b p) := by
  unfold takePart
  iterate 45 all_goals try first
    | with_reducible assumption
    | with_reducible refine clearCluster_held ?_
    | with_reducible refine setRegions_held ?_
    | with_reducible refine setSram_held ?_
    | with_reducible refine startTables_held ?_
    | lift_lets
    | split

theorem fillCluster_held {s : State} {n : Nat} {h : Nat} {b : FolioBody} {p : ClusterPlan} (hS : Held pts z s)
    (hp : Sub [.serving, .fabric] pts := by exact Sub.up) : Held pts z (fillCluster s n h b p) := by
  unfold fillCluster
  iterate 45 all_goals try first
    | with_reducible assumption
    | with_reducible refine placeSet_held ?_
    | with_reducible refine takePart_held ?_
    | split

theorem nowResident_held {s : State} {n : Nat} (hS : Held pts z s) (hp : Sub [.images] pts := by exact Sub.up)
    : Held pts z (nowResident s n) := by
  unfold nowResident
  iterate 45 all_goals try first
    | with_reducible assumption
    | with_reducible refine putSlot_held ?_

theorem standInAll_held {s : State} {n : Nat} {b : FolioBody} (hS : Held pts z s)
    (hp : Sub [.serving, .images, .fabric] pts := by exact Sub.up) : Held pts z (standInAll s n b) := by
  unfold standInAll
  iterate 45 all_goals try first
    | with_reducible assumption
    | with_reducible refine putSlot_held ?_
    | with_reducible refine moveTables_held ?_
    | with_reducible refine foldl_held (fun _ _ _ => ?_) ?_
    | (intro x; clear_value x)
    | lift_lets
    | split

theorem fillPlacement_held {s : State} {n : Nat} (hS : Held pts z s)
    (hp : Sub [.serving, .images, .fabric] pts := by exact Sub.up) : Held pts z (fillPlacement s n) := by
  unfold fillPlacement
  iterate 45 all_goals try first
    | with_reducible assumption
    | with_reducible refine fillCluster_held ?_
    | with_reducible refine nowResident_held ?_
    | with_reducible refine standInAll_held ?_
    | with_reducible refine foldl_held (fun _ _ _ => ?_) ?_
    | split

theorem fillFootprint_held {s : State} {n : Nat} (hS : Held pts z s)
    (hp : Sub [.serving, .images, .fabric] pts := by exact Sub.up) : Held pts z (fillFootprint s n) := by
  unfold fillFootprint
  iterate 45 all_goals try first
    | with_reducible assumption
    | with_reducible refine setRoutes_held ?_
    | with_reducible refine fillCluster_held ?_
    | with_reducible refine nowResident_held ?_
    | with_reducible refine foldl_held (fun _ _ _ => ?_) ?_
    | split

theorem coFill_held {s : State} {n : Nat} (hS : Held pts z s)
    (hp : Sub [.serving, .images, .fabric] pts := by exact Sub.up) : Held pts z (coFill s n) := by
  unfold coFill
  iterate 45 all_goals try first
    | with_reducible assumption
    | with_reducible refine fillFootprint_held ?_
    | split

theorem rePrefixes_held {s : State} {n : Nat} (hS : Held pts z s) (hp : Sub [.serving, .vellum] pts := by exact Sub.up)
    : Held pts z (rePrefixes s n) := by
  unfold rePrefixes
  iterate 45 all_goals try first
    | with_reducible assumption
    | with_reducible refine putPfx_held ?_
    | with_reducible refine discardRows_held ?_
    | with_reducible refine sweepPfx_held ?_
    | with_reducible refine countText_held ?_
    | with_reducible refine foldl_held (fun _ _ _ => ?_) ?_
    | lift_lets
    | split

theorem placementLoaded_held {s : State} (hS : Held pts z s) (hp : Sub [.serving] pts := by exact Sub.up)
    : Held pts z (placementLoaded s) := by
  unfold placementLoaded
  iterate 45 all_goals try first
    | with_reducible assumption
    | (intro x; clear_value x)
    | lift_lets
    | with_reducible refine held_free ?_

theorem startAreas_held {s : State} {n : Nat} (hS : Held pts z s) (hp : Sub [.images, .vellum] pts := by exact Sub.up)
    : Held pts z (startAreas s n) := by
  unfold startAreas
  iterate 45 all_goals try first
    | with_reducible assumption
    | with_reducible refine putSlot_held ?_
    | with_reducible refine finishAreas_held ?_
    | with_reducible refine moveAreas_held ?_
    | with_reducible refine foldl_held (fun _ _ _ => ?_) ?_
    | (intro x; clear_value x)
    | lift_lets
    | split

theorem activateSlot_held {s : State} {n : Nat} (hS : Held pts z s)
    (hp : Sub [.serving, .images, .vellum] pts := by exact Sub.up) : Held pts z (activateSlot s n) := by
  unfold activateSlot
  iterate 45 all_goals try first
    | with_reducible assumption
    | with_reducible refine putSlot_held ?_
    | with_reducible refine rePrefixes_held ?_
    | with_reducible refine placementLoaded_held ?_
    | with_reducible refine startAreas_held ?_
    | (intro x; first
        | (refine (fun (hx : Held pts z x) => ?_) ?_ <;> [clear_value x; subst x])
        | clear_value x)
    | lift_lets
    | split
    | with_reducible refine held_free ?_

theorem startDrains_held {s : State} (hS : Held pts z s) (hp : Sub [.serving] pts := by exact Sub.up)
    : Held pts z (startDrains s) := by
  unfold startDrains
  iterate 45 all_goals try first
    | with_reducible assumption
    | with_reducible refine putPartition_held ?_
    | with_reducible refine foldl_held (fun _ _ _ => ?_) ?_
    | (intro x; clear_value x)
    | lift_lets
    | split

theorem streamSlot_held {s : State} {n : Nat} (hS : Held pts z s) (hp : Sub [.images, .fabric] pts := by exact Sub.up)
    : Held pts z (streamSlot s n) := by
  unfold streamSlot
  iterate 45 all_goals try first
    | with_reducible assumption
    | with_reducible refine putIsland_held ?_
    | with_reducible refine putSlot_held ?_
    | with_reducible refine placeSet_held ?_
    | with_reducible refine setRoutes_held ?_
    | with_reducible refine foldl_held (fun _ _ _ => ?_) ?_
    | (intro x; first
        | (refine (fun (hx : Held pts z x) => ?_) ?_ <;> [clear_value x; subst x])
        | clear_value x)
    | lift_lets
    | split

theorem startClusters_held {s : State} {n : Nat} {b : FolioBody} (hS : Held pts z s)
    (hp : Sub [.fabric] pts := by exact Sub.up) : Held pts z (startClusters s n b) := by
  unfold startClusters
  iterate 45 all_goals try first
    | with_reducible assumption
    | with_reducible refine startTables_held ?_
    | with_reducible refine foldl_held (fun _ _ _ => ?_) ?_
    | lift_lets
    | split

theorem reloadSlot_held {s : State} {n : Nat} (hS : Held pts z s)
    (hp : Sub [.serving, .images, .fabric] pts := by exact Sub.up) : Held pts z (reloadSlot s n) := by
  unfold reloadSlot
  iterate 45 all_goals try first
    | with_reducible assumption
    | with_reducible refine putSlot_held ?_
    | with_reducible refine refillSeats_held ?_
    | with_reducible refine setRoutes_held ?_
    | with_reducible refine fillPlacement_held ?_
    | with_reducible refine fillFootprint_held ?_
    | with_reducible refine streamSlot_held ?_
    | with_reducible refine startClusters_held ?_
    | (intro x; clear_value x)
    | lift_lets
    | split

theorem reloadSlots_held {s : State} (hS : Held pts z s) (hp : Sub [.serving, .images, .fabric] pts := by exact Sub.up)
    : Held pts z (reloadSlots s) := by
  unfold reloadSlots
  iterate 45 all_goals try first
    | with_reducible assumption
    | with_reducible refine reloadSlot_held ?_
    | split

theorem payOwed_held {s : State} {n : Nat} (hS : Held pts z s)
    (hp : Sub [.serving, .images, .fabric] pts := by exact Sub.up) : Held pts z (payOwed s n) := by
  unfold payOwed
  iterate 45 all_goals try first
    | with_reducible assumption
    | with_reducible refine putSlot_held ?_
    | with_reducible refine moveTables_held ?_
    | with_reducible refine streamSlot_held ?_
    | with_reducible refine reloadSlot_held ?_
    | with_reducible refine foldl_held (fun _ _ _ => ?_) ?_
    | (intro x; first
        | (refine (fun (hx : Held pts z x) => ?_) ?_ <;> [clear_value x; subst x])
        | clear_value x)
    | lift_lets
    | split

theorem writeRuns_held {s : State} {d : Nat} {xs : List (Nat × Nat)} {bs : List Byte} (hS : Held pts z s)
    (hp : Sub [.vellum] pts := by exact Sub.up) : Held pts z (writeRuns s d xs bs) := by
  induction xs generalizing s bs with
  | nil => exact hS
  | cons e es ih => exact ih (writeUnits_held hS)

end Sys2Proof.Laws
end

