-- ==== Sys2Proof/Laws/KeepCartOps.lean ====
section
/-! SUPPORT. What the functions of Machine/CartOps.lean do, as Laws/Kept.lean says it: the parts that each one may change. -/

namespace Sys2Proof.Laws

set_option Elab.async false

open Sys2Proof Sys2Proof.Machine

variable {pts : List Part} {z : State}

theorem bindPair_held {s : State} {c : Nat} {n : Nat} (hS : Held pts z s)
    (hp : Sub [.serving, .images, .fabric] pts := by exact Sub.up) : Held pts z (bindPair s c n) := by
  unfold bindPair
  dsimp only
  iterate 45 all_goals try first
    | with_reducible assumption
    | with_reducible refine enforce_held ?_
    | split

theorem movePage_held {s s' : State} {p k : Nat} (hS : Held pts z s) (he : movePage s p = some (k, s'))
    (hp : Sub [.serving, .vellum] pts := by exact Sub.up) : Held pts z s' := by
  unfold movePage at he
  dsimp only at he
  rw [Option.map_eq_some_iff] at he
  obtain ⟨⟨y, w⟩, hy, hx⟩ := he
  simp only [Prod.mk.injEq] at hx
  rw [← hx.2]
  exact freePage_held (moveUnits_held (takePage_held hS hy))

theorem clearSessionPage_held {s : State} {id : Nat} {q : Nat × Nat} (hS : Held pts z s)
    (hp : Sub [.serving, .vellum] pts := by exact Sub.up) : Held pts z (clearSessionPage s id q) := by
  unfold clearSessionPage
  iterate 45 all_goals try first
    | with_reducible assumption
    | with_reducible refine modSession_held ?_
    | with_reducible refine rewindSession_held ?_
    | with_reducible refine startPark_held ?_
    | with_reducible refine movePage_held (he := by assumption) ?_
    | (intro x; clear_value x)
    | lift_lets
    | split

theorem clearPfxPage_held {s : State} {x : Nat} {p : Nat} (hS : Held pts z s)
    (hp : Sub [.serving, .vellum] pts := by exact Sub.up) : Held pts z (clearPfxPage s x p) := by
  unfold clearPfxPage
  iterate 45 all_goals try first
    | with_reducible assumption
    | with_reducible refine putPfx_held ?_
    | with_reducible refine rewindPfxFrom_held ?_
    | with_reducible refine movePage_held (he := by assumption) ?_
    | (intro x; clear_value x)
    | lift_lets
    | split

theorem moveVersion_held {s : State} {tenant : Nat} {w : AdapterVer} (hS : Held pts z s)
    (hp : Sub [.link, .mailbox, .serving, .vellum] pts := by exact Sub.up) : Held pts z (moveVersion s tenant w) := by
  unfold moveVersion
  iterate 45 all_goals try first
    | with_reducible assumption
    | with_reducible refine putTenant_held ?_
    | with_reducible refine postEvent_held ?_
    | with_reducible refine countReads_held ?_
    | with_reducible refine releaseStore_held ?_
    | with_reducible refine writeRuns_held ?_
    | split

theorem moveVersions_held {s : State} {d : Nat} {tenant : Nat} (hS : Held pts z s)
    (hp : Sub [.link, .mailbox, .serving, .vellum] pts := by exact Sub.up) : Held pts z (moveVersions s d tenant) := by
  unfold moveVersions
  iterate 45 all_goals try first
    | with_reducible assumption
    | with_reducible refine moveVersion_held ?_
    | with_reducible refine foldl_held (fun _ _ _ => ?_) ?_

theorem moveChunks_held {s : State} {n : Nat} {d : Nat} (hS : Held pts z s)
    (hp : Sub [.link, .mailbox, .images, .vellum] pts := by exact Sub.up) : Held pts z (moveChunks s n d) := by
  unfold moveChunks
  iterate 45 all_goals try first
    | with_reducible assumption
    | with_reducible refine putSlot_held ?_
    | with_reducible refine countReads_held ?_
    | with_reducible refine loseChunk_held ?_
    | with_reducible refine wroteChunk_held ?_
    | with_reducible refine foldl_held (fun _ _ _ => ?_) ?_
    | (intro x; first
        | (refine (fun (hx : Held pts z x) => ?_) ?_ <;> [clear_value x; subst x])
        | clear_value x)
    | lift_lets
    | split

theorem emptySite_held {s : State} {d : Nat} (hS : Held pts z s)
    (hp : Sub [.link, .mailbox, .serving, .images, .vellum] pts := by exact Sub.up) : Held pts z (emptySite s d) := by
  unfold emptySite
  iterate 45 all_goals try first
    | with_reducible assumption
    | with_reducible refine finishAreas_held ?_
    | with_reducible refine moveAreas_held ?_
    | with_reducible refine loseCopies_held ?_
    | with_reducible refine modSite_held ?_
    | with_reducible refine clearSessionPage_held ?_
    | with_reducible refine clearPfxPage_held ?_
    | with_reducible refine moveVersions_held ?_
    | with_reducible refine moveChunks_held ?_
    | with_reducible refine foldl_held (fun _ _ _ => ?_) ?_

theorem startPrepare_held {s : State} {c : Nat} (hS : Held pts z s)
    (hp : Sub [.board, .link, .mailbox, .serving, .images, .vellum, .fabric] pts := by exact Sub.up)
    : Held pts z (startPrepare s c) := by
  unfold startPrepare
  iterate 45 all_goals try first
    | with_reducible assumption
    | with_reducible refine forfeitAll_held ?_
    | with_reducible refine bindPair_held ?_
    | with_reducible refine emptySite_held ?_
    | with_reducible refine foldl_held (fun _ _ _ => ?_) ?_
    | (intro x; clear_value x)
    | lift_lets
    | with_reducible refine held_free ?_

theorem darkenPair_held {s : State} {c : Nat} (hS : Held pts z s)
    (hp : Sub [.board, .fabric, .map] pts := by exact Sub.up) : Held pts z (darkenPair s c) := by
  unfold darkenPair
  iterate 45 all_goals try first
    | with_reducible assumption
    | with_reducible refine putIsland_held ?_
    | with_reducible refine putCart_held ?_
    | with_reducible refine mapChanged_held ?_
    | with_reducible refine foldl_held (fun _ _ _ => ?_) ?_
    | (intro x; clear_value x)
    | lift_lets
    | with_reducible refine held_free ?_

theorem prepareFailed_held {s : State} {c : Nat} (hS : Held pts z s)
    (hp : Sub [.board, .link, .mailbox, .serving, .images, .vellum, .fabric] pts := by exact Sub.up)
    : Held pts z (prepareFailed s c) := by
  unfold prepareFailed
  iterate 45 all_goals try first
    | with_reducible assumption
    | with_reducible refine startPrepare_held ?_
    | (intro x; clear_value x)
    | lift_lets
    | split

theorem prepareAllFailed_held {s : State} (hS : Held pts z s)
    (hp : Sub [.board, .link, .mailbox, .serving, .images, .vellum, .fabric] pts := by exact Sub.up)
    : Held pts z (prepareAllFailed s) := by
  unfold prepareAllFailed
  iterate 45 all_goals try first
    | with_reducible assumption
    | with_reducible refine prepareFailed_held ?_
    | with_reducible refine foldl_held (fun _ _ _ => ?_) ?_

end Sys2Proof.Laws
end

