-- ==== Sys2Proof/Laws/KeepPowerOps.lean ====
section
/-! SUPPORT. What the functions of Machine/PowerOps.lean do, as Laws/Kept.lean says it: the parts that each one may change. -/

namespace Sys2Proof.Laws

set_option Elab.async false

open Sys2Proof Sys2Proof.Machine

variable {pts : List Part} {z : State}

theorem dropAllowance_held {s : State} {before : Nat} (hS : Held pts z s) (hp : Sub [.power] pts := by exact Sub.up)
    : Held pts z (dropAllowance s before) := by
  unfold dropAllowance
  iterate 45 all_goals try first
    | with_reducible assumption
    | (intro x; first
        | (have hx : Power := x; clear hx; subst x)
        | clear_value x)
    | lift_lets
    | split
    | ((with_reducible refine held_set ?_ ?_); rotate_left; exact Sound.parts)

theorem judgeReach_held {s : State} (hS : Held pts z s)
    (hp : Sub [.board, .link, .mailbox, .power, .blotter, .mgmt] pts := by exact Sub.up) : Held pts z (judgeReach s) := by
  unfold judgeReach
  iterate 45 all_goals try first
    | with_reducible assumption
    | with_reducible refine note_held ?_
    | with_reducible refine warn_held ?_
    | with_reducible refine endWarning_held ?_
    | (intro x; first
        | (have hx : Power := x; clear hx; subst x)
        | clear_value x)
    | lift_lets
    | split
    | ((with_reducible refine held_set ?_ ?_); rotate_left; exact Sound.parts)

theorem bindCap_held {s : State} (hS : Held pts z s)
    (hp : Sub [.board, .link, .mailbox, .serving, .power, .blotter, .mgmt] pts := by exact Sub.up)
    : Held pts z (bindCap s) := by
  unfold bindCap
  lift_lets
  intro before p s1 s2
  have h1 : Held pts z s1 := held_set hS (fun hh => ⟨hh.nvm, hh.vellum, hh.sram,
    ⟨hh.power.1, hh.power.1, hh.power.2.2⟩, hh.thermal, hh.blotter, hh.events,
    hh.trust⟩)
  have h2 : Held pts z s2 := judgeReach_held (dropAllowance_held h1)
  clear_value s2
  split
  · exact forfeitAll_held h2
  · exact h2

theorem bindDue_held {s : State} (hS : Held pts z s)
    (hp : Sub [.board, .link, .mailbox, .serving, .power, .blotter, .mgmt] pts := by exact Sub.up)
    : Held pts z (bindDue s) := by
  unfold bindDue
  iterate 45 all_goals try first
    | with_reducible assumption
    | with_reducible refine completeStarted_held ?_
    | with_reducible refine bindCap_held ?_
    | (intro x; refine (fun (hx : Held pts z x) => ?_) ?_ <;> [clear_value x; subst x])
    | lift_lets
    | split

theorem toleranceDue_held {s : State} (hS : Held pts z s)
    (hp : Sub [.link, .mailbox, .power, .blotter, .mgmt] pts := by exact Sub.up) : Held pts z (toleranceDue s) := by
  unfold toleranceDue
  iterate 45 all_goals try first
    | with_reducible assumption
    | with_reducible refine completeStarted_held ?_
    | (intro x; have hx : Power := x; clear hx; subst x)
    | lift_lets
    | split
    | ((with_reducible refine held_set ?_ ?_); rotate_left; exact Sound.parts)

theorem rampAllowance_held {s : State} (hS : Held pts z s) (hp : Sub [.power] pts := by exact Sub.up)
    : Held pts z (rampAllowance s) := by
  unfold rampAllowance
  iterate 45 all_goals try first
    | with_reducible assumption
    | (intro x; first
        | (have hx : Power := x; clear hx; subst x)
        | clear_value x)
    | lift_lets
    | split
    | ((with_reducible refine held_set ?_ ?_); rotate_left; exact Sound.parts)

theorem leastBelow_some {p : Nat → Bool} {n k x : Nat} (h : leastBelow p n k = some x) : k ≤ x ∧ x < k + n := by
  induction n generalizing k with
  | zero => cases h
  | succ n ih =>
    unfold leastBelow at h
    split at h
    · cases h
      omega
    · have := ih h
      omega

theorem pointFor_range (s : State) (a : Nat) : 1 ≤ pointFor s a ∧ pointFor s a ≤ 14 := by
  unfold pointFor
  cases h : leastBelow (fun p => decide (pointPower s p ≤ a)) 14 1 with
  | none => exact ⟨by decide, by decide⟩
  | some x =>
    have := leastBelow_some h
    exact ⟨this.1, Nat.le_of_lt_succ this.2⟩

theorem choosePoint_held {s : State} (hS : Held pts z s) (hp : Sub [.power] pts := by exact Sub.up)
    : Held pts z (choosePoint s) := by
  have hr := pointFor_range s s.power.allowance
  refine held_set hS (fun hh => ⟨hh.nvm, hh.vellum, hh.sram,
    ⟨hh.power.1, hh.power.2.1, ?_⟩, hh.thermal, hh.blotter, hh.events,
    hh.trust⟩)
  have h1 := hh.power.2.2
  dsimp only
  generalize pointFor s s.power.allowance = p at hr
  repeat' split
  all_goals omega

end Sys2Proof.Laws
end

