-- ==== Sys2Proof/Laws/KeepStepOps.lean ====
section
/-! SUPPORT. What the functions of Machine/StepOps.lean do, as Laws/Kept.lean says it: the parts that each one may change. -/

namespace Sys2Proof.Laws

set_option Elab.async false

open Sys2Proof Sys2Proof.Machine

variable {pts : List Part} {z : State}

theorem selectPages_held {s : State} {u : Nat} {step : Nat} (hS : Held pts z s)
    (hp : Sub [.serving] pts := by exact Sub.up) : Held pts z (selectPages s u step) := by
  unfold selectPages
  iterate 45 all_goals try first
    | with_reducible assumption
    | with_reducible refine countFor_held ?_
    | with_reducible refine modStep_held ?_
    | with_reducible refine foldl_held (fun _ _ _ => ?_) ?_
    | (intro x; first
        | (refine (fun (hx : Held pts z x) => ?_) ?_ <;> [clear_value x; subst x])
        | clear_value x)
    | lift_lets
    | split

theorem takeDesc_held {s : State} {u : Nat} {d : Desc} {rest : List Desc} (hS : Held pts z s)
    (hp : Sub [.serving, .fabric] pts := by exact Sub.up) : Held pts z (takeDesc s u d rest) := by
  unfold takeDesc
  iterate 45 all_goals try first
    | with_reducible assumption
    | with_reducible refine putIsland_held ?_
    | with_reducible refine modTile_held ?_
    | with_reducible refine selectPages_held ?_
    | with_reducible refine foldl_held (fun _ _ _ => ?_) ?_
    | (intro x; have hx : Fabric := x; clear hx; subst x)
    | lift_lets
    | ((with_reducible refine held_set ?_ ?_); rotate_left; exact Sound.parts)

theorem beginStep_held {s : State} {u : Nat} (hS : Held pts z s) (hp : Sub [.serving, .fabric] pts := by exact Sub.up)
    : Held pts z (beginStep s u) := by
  unfold beginStep
  iterate 45 all_goals try first
    | with_reducible assumption
    | with_reducible refine putIsland_held ?_
    | with_reducible refine takeDesc_held ?_
    | (intro x; clear_value x)
    | lift_lets
    | split

theorem wakeIsland_held {s : State} {u : Nat} (hS : Held pts z s)
    (hp : Sub [.free, .link, .mailbox, .serving, .fabric, .blotter, .mgmt] pts := by exact Sub.up)
    : Held pts z (wakeIsland s u) := by
  unfold wakeIsland
  iterate 45 all_goals try first
    | with_reducible assumption
    | with_reducible refine drewFree_held ?_
    | with_reducible refine modNet_held ?_
    | with_reducible refine landIsland_held ?_
    | with_reducible refine beginStep_held ?_
    | (intro x; first
        | (refine (fun (hx : Held pts z x) => ?_) ?_ <;> [clear_value x; subst x])
        | clear_value x)
    | lift_lets
    | split

theorem postDesc_held {s : State} {u : Nat} {d : Desc} (hS : Held pts z s)
    (hp : Sub [.free, .link, .mailbox, .serving, .fabric, .blotter, .mgmt] pts := by exact Sub.up)
    : Held pts z (postDesc s u d) := by
  unfold postDesc
  iterate 45 all_goals try first
    | with_reducible assumption
    | with_reducible refine putIsland_held ?_
    | with_reducible refine wakeIsland_held ?_

theorem chargeEnergy_held {s : State} {tenant : Nat} {partition : Nat} {mj : Nat} {step : Bool} (hS : Held pts z s)
    (hp : Sub [.serving] pts := by exact Sub.up) : Held pts z (chargeEnergy s tenant partition mj step) := by
  unfold chargeEnergy
  iterate 45 all_goals try first
    | with_reducible assumption
    | with_reducible refine putPartition_held ?_
    | with_reducible refine putTenant_held ?_
    | lift_lets
    | split

theorem splitEnergy_held {s : State} {st : Step} (hS : Held pts z s) (hp : Sub [.serving] pts := by exact Sub.up)
    : Held pts z (splitEnergy s st) := by
  unfold splitEnergy
  iterate 45 all_goals try first
    | with_reducible assumption
    | with_reducible refine chargeEnergy_held ?_
    | with_reducible refine foldl_held (fun _ _ _ => ?_) ?_

theorem finishStep_held {s : State} {n : Nat} (hS : Held pts z s)
    (hp : Sub [.link, .mailbox, .serving, .images, .vellum, .power, .blotter, .mgmt, .trust] pts := by exact Sub.up)
    : Held pts z (finishStep s n) := by
  unfold finishStep
  iterate 45 all_goals try first
    | with_reducible assumption
    | with_reducible refine leaveFlight_held ?_
    | with_reducible refine splitEnergy_held ?_
    | split

theorem discardPrefetch_held {s : State} {u : Nat} {step : Nat} (hS : Held pts z s)
    (hp : Sub [.vellum] pts := by exact Sub.up) : Held pts z (discardPrefetch s u step) := by
  unfold discardPrefetch
  iterate 45 all_goals try first
    | with_reducible assumption
    | with_reducible refine putSite_held ?_
    | with_reducible refine foldl_held (fun _ _ _ => ?_) ?_
    | (intro x; first
        | (refine (fun (hx : Held pts z x) => ?_) ?_ <;> [clear_value x; subst x])
        | (have hx : Vellum := x; clear hx; subst x)
        | clear_value x)
    | lift_lets
    | ((with_reducible refine held_set ?_ ?_); rotate_left; exact Sound.parts)

theorem releaseFrames_held {s : State} {step : Nat} {die : Nat} (hS : Held pts z s)
    (hp : Sub [.fabric] pts := by exact Sub.up) : Held pts z (releaseFrames s step die) := by
  unfold releaseFrames
  iterate 45 all_goals try first
    | with_reducible assumption
    | with_reducible refine dropFrames_held ?_
    | split

theorem endStepAt_held {s : State} {u : Nat} {mj : Nat} (hS : Held pts z s)
    (hp : Sub [.link, .mailbox, .serving, .images, .vellum, .fabric, .power, .blotter, .mgmt,
      .trust] pts := by exact Sub.up)
    : Held pts z (endStepAt s u mj) := by
  unfold endStepAt
  iterate 45 all_goals try first
    | with_reducible assumption
    | with_reducible refine putIsland_held ?_
    | with_reducible refine countFor_held ?_
    | with_reducible refine modStep_held ?_
    | with_reducible refine reportFlit_held ?_
    | with_reducible refine finishStep_held ?_
    | with_reducible refine discardPrefetch_held ?_
    | with_reducible refine releaseFrames_held ?_
    | with_reducible refine foldl_held (fun _ _ _ => ?_) ?_
    | (intro x; clear_value x)
    | lift_lets
    | split

theorem startInrush_held {s : State} {u : Nat} (hS : Held pts z s) (hp : Sub [.fabric] pts := by exact Sub.up)
    : Held pts z (startInrush s u) := by
  unfold startInrush
  iterate 45 all_goals try first
    | with_reducible assumption
    | with_reducible refine putIsland_held ?_
    | (intro x; clear_value x)
    | lift_lets
    | split

theorem takePoint_held {s : State} (hS : Held pts z s) (hp : Sub [.fabric, .power] pts := by exact Sub.up)
    : Held pts z (takePoint s) := by
  unfold takePoint
  iterate 45 all_goals try first
    | with_reducible assumption
    | with_reducible refine point14_held ?_
    | with_reducible refine putIsland_held ?_
    | with_reducible refine choosePoint_held ?_
    | with_reducible refine clearIdle_held ?_
    | with_reducible refine startInrush_held ?_
    | with_reducible refine foldl_held (fun _ _ _ => ?_) ?_
    | (intro x; first
        | (refine (fun (hx : Held pts z x) => ?_) ?_ <;> [clear_value x; subst x])
        | (have hx : Power := x; clear hx; subst x))
    | lift_lets
    | split

theorem stepBoundary_held {s : State} (hS : Held pts z s)
    (hp : Sub [.board, .link, .mailbox, .serving, .images, .vellum, .fabric, .power, .blotter, .mgmt, .trust,
      .map] pts := by exact Sub.up)
    : Held pts z (stepBoundary s) := by
  unfold stepBoundary
  iterate 45 all_goals try first
    | with_reducible assumption
    | with_reducible refine retireDue_held ?_
    | with_reducible refine bindDue_held ?_
    | with_reducible refine toleranceDue_held ?_
    | with_reducible refine takePoint_held ?_

end Sys2Proof.Laws
end

