-- ==== Sys2Proof/Laws/KeepServeOps.lean ====
section
/-! SUPPORT. What the functions of Machine/ServeOps.lean do, as Laws/Kept.lean says it: the parts that each one may change. -/

namespace Sys2Proof.Laws

set_option Elab.async false

open Sys2Proof Sys2Proof.Machine

variable {pts : List Part} {z : State}

theorem addDraft_held {s : State} {id : Nat} (hS : Held pts z s) (hp : Sub [.serving] pts := by exact Sub.up)
    : Held pts z (addDraft s id) := by
  unfold addDraft
  iterate 45 all_goals try first
    | with_reducible assumption
    | (intro x; clear_value x)
    | lift_lets
    | split
    | with_reducible refine held_free ?_

theorem growDraft_held {s : State} {id : Nat} {n : Nat} (hS : Held pts z s) (hp : Sub [.serving] pts := by exact Sub.up)
    : Held pts z (growDraft s id n) := by
  unfold growDraft
  iterate 45 all_goals try first
    | with_reducible assumption
    | with_reducible refine addDraft_held ?_
    | with_reducible refine foldl_held (fun _ _ _ => ?_) ?_

theorem ensureDraft_held {s : State} {id : Nat} {upTo : Nat} (hS : Held pts z s)
    (hp : Sub [.serving] pts := by exact Sub.up) : Held pts z (ensureDraft s id upTo) := by
  unfold ensureDraft
  iterate 45 all_goals try first
    | with_reducible assumption
    | with_reducible refine growDraft_held ?_

theorem givePfxPage_held {s : State} {x : Nat} (hS : Held pts z s) (hp : Sub [.serving, .vellum] pts := by exact Sub.up)
    : Held pts z (givePfxPage s x) := by
  unfold givePfxPage
  iterate 45 all_goals try first
    | with_reducible assumption
    | with_reducible refine putPfx_held ?_
    | with_reducible refine takePage_held (he := by assumption) ?_
    | (intro x; clear_value x)
    | lift_lets
    | split

theorem startRow_held {s : State} {kind : StepKind} {num : Nat} {r : StepRow} (hS : Held pts z s)
    (hp : Sub [.serving, .vellum] pts := by exact Sub.up) : Held pts z (startRow s kind num r) := by
  unfold startRow
  iterate 45 all_goals try first
    | with_reducible assumption
    | with_reducible refine putPfx_held ?_
    | with_reducible refine modTurn_held ?_
    | with_reducible refine charge_held ?_
    | with_reducible refine ensurePages_held ?_
    | with_reducible refine ensureDraft_held ?_
    | with_reducible refine givePfxPage_held ?_
    | with_reducible refine foldl_held (fun _ _ _ => ?_) ?_
    | (intro x; clear_value x)
    | lift_lets
    | split

theorem touchLine_held {s : State} {l : Nat} (hS : Held pts z s) (hp : Sub [.images] pts := by exact Sub.up)
    : Held pts z (touchLine s l) := by
  unfold touchLine
  iterate 45 all_goals try first
    | with_reducible assumption
    | (intro x; clear_value x)
    | lift_lets
    | split
    | with_reducible refine held_free ?_

theorem bindMode_held {s : State} {n : Nat} {num : Nat} (hS : Held pts z s) (hp : Sub [.images] pts := by exact Sub.up)
    : Held pts z (bindMode s n num) := by
  unfold bindMode
  iterate 45 all_goals try first
    | with_reducible assumption
    | with_reducible refine putSlot_held ?_
    | (intro x; clear_value x)
    | lift_lets
    | split

theorem issueStep_held {s : State} {kind : StepKind} {ps : List RowPlan} (hS : Held pts z s)
    (hp : Sub [.free, .link, .mailbox, .serving, .images, .vellum, .fabric, .blotter, .mgmt] pts := by exact Sub.up)
    : Held pts z (issueStep s kind ps) := by
  unfold issueStep
  iterate 45 all_goals try first
    | with_reducible assumption
    | with_reducible refine postDesc_held ?_
    | with_reducible refine startRow_held ?_
    | with_reducible refine touchLine_held ?_
    | with_reducible refine bindMode_held ?_
    | with_reducible refine foldl_held (fun _ _ _ => ?_) ?_
    | (intro x; clear_value x)
    | lift_lets
    | split
    | with_reducible refine held_free ?_

theorem countDelivery_held {s : State} {t : Turn} {d : Delivery} (hS : Held pts z s)
    (hp : Sub [.serving] pts := by exact Sub.up) : Held pts z (countDelivery s t d) := by
  unfold countDelivery
  iterate 45 all_goals try first
    | with_reducible assumption
    | (intro x; clear_value x)
    | lift_lets
    | split
    | with_reducible refine held_free ?_

theorem deliverRow_held {s : State} {id : Nat} {toks : List Nat} {stop : Option Nat} (hS : Held pts z s)
    (hp : Sub [.link, .mailbox, .serving, .images, .vellum, .power, .blotter, .mgmt, .trust] pts := by exact Sub.up)
    : Held pts z (deliverRow s id toks stop) := by
  unfold deliverRow
  iterate 45 all_goals try first
    | with_reducible assumption
    | with_reducible refine putSession_held ?_
    | with_reducible refine modTurn_held ?_
    | with_reducible refine discardRows_held ?_
    | with_reducible refine commitPages_held ?_
    | with_reducible refine setHistory_held ?_
    | with_reducible refine unqueue_held ?_
    | with_reducible refine setDraft_held ?_
    | with_reducible refine pumpAll_held ?_
    | with_reducible refine countFlush_held ?_
    | with_reducible refine endTurn_held ?_
    | with_reducible refine lateStop_held ?_
    | with_reducible refine countDelivery_held ?_
    | (intro x; first
        | (refine (fun (hx : Held pts z x) => ?_) ?_ <;> [clear_value x; subst x])
        | clear_value x)
    | lift_lets
    | split

theorem markSampled_held {s : State} {num : Nat} {row : Met Nat Nat} (hS : Held pts z s)
    (hp : Sub [.serving] pts := by exact Sub.up) : Held pts z (markSampled s num row) := by
  unfold markSampled
  iterate 45 all_goals try first
    | with_reducible assumption
    | with_reducible refine modStep_held ?_

theorem draftRow_held {s : State} {id : Nat} {logits : List Fp32} (hS : Held pts z s)
    (hp : Sub [.serving, .vellum] pts := by exact Sub.up) : Held pts z (draftRow s id logits) := by
  unfold draftRow
  iterate 45 all_goals try first
    | with_reducible assumption
    | with_reducible refine modTurn_held ?_
    | with_reducible refine setDraft_held ?_
    | (intro x; first
        | (refine (fun (hx : Held pts z x) => ?_) ?_ <;> [clear_value x; subst x])
        | clear_value x)
    | lift_lets
    | split

theorem decodeRow_held {s : State} {id : Nat} {verify : Bool} {logits : List (List Fp32)} (hS : Held pts z s)
    (hp : Sub [.link, .mailbox, .serving, .images, .vellum, .power, .blotter, .mgmt, .trust] pts := by exact Sub.up)
    : Held pts z (decodeRow s id verify logits) := by
  unfold decodeRow
  iterate 45 all_goals try first
    | with_reducible assumption
    | with_reducible refine deliverRow_held ?_
    | (intro x; clear_value x)
    | lift_lets
    | split

theorem handoffSession_held {s : State} {id : Nat} {count : Nat} (hS : Held pts z s)
    (hp : Sub [.serving, .vellum] pts := by exact Sub.up) : Held pts z (handoffSession s id count) := by
  unfold handoffSession
  iterate 45 all_goals try first
    | with_reducible assumption
    | with_reducible refine putSession_held ?_
    | with_reducible refine freePagesOf_held ?_
    | with_reducible refine commitPages_held ?_
    | with_reducible refine setHistory_held ?_
    | (intro x; first
        | (refine (fun (hx : Held pts z x) => ?_) ?_ <;> [clear_value x; subst x])
        | clear_value x)
    | lift_lets
    | split

theorem commitPfx_held {s : State} {x : Nat} {positions : Nat} (hS : Held pts z s)
    (hp : Sub [.vellum] pts := by exact Sub.up) : Held pts z (commitPfx s x positions) := by
  unfold commitPfx
  iterate 45 all_goals try first
    | with_reducible assumption
    | with_reducible refine commitPage_held ?_
    | with_reducible refine foldl_held (fun _ _ _ => ?_) ?_

theorem handoffPfx_held {s : State} {x : Nat} {count : Nat} (hS : Held pts z s)
    (hp : Sub [.link, .mailbox, .serving, .vellum, .power, .blotter, .mgmt] pts := by exact Sub.up)
    : Held pts z (handoffPfx s x count) := by
  unfold handoffPfx
  iterate 45 all_goals try first
    | with_reducible assumption
    | with_reducible refine putPfx_held ?_
    | with_reducible refine completeStarted_held ?_
    | with_reducible refine mapSessions_held ?_
    | with_reducible refine attachWaiting_held ?_
    | with_reducible refine commitPfx_held ?_
    | (intro x; first
        | (refine (fun (hx : Held pts z x) => ?_) ?_ <;> [clear_value x; subst x])
        | clear_value x)
    | lift_lets
    | split

theorem modLayer_held {s : State} {n : Nat} {l : Nat} {f : LayerRes → LayerRes} (hS : Held pts z s)
    (hp : Sub [.images] pts := by exact Sub.up) : Held pts z (modLayer s n l f) := by
  unfold modLayer
  iterate 45 all_goals try first
    | with_reducible assumption
    | with_reducible refine putSlot_held ?_

theorem releaseSeats_held {s : State} {n : Nat} {l : Nat} (hS : Held pts z s) (hp : Sub [.images] pts := by exact Sub.up)
    : Held pts z (releaseSeats s n l) := by
  unfold releaseSeats
  iterate 45 all_goals try first
    | with_reducible assumption
    | with_reducible refine modLayer_held ?_

theorem demoteSeat_held {s : State} {n : Nat} {a : ColdArea} {seat : Nat} {place : Nat} (hS : Held pts z s)
    (hp : Sub [.vellum, .fabric] pts := by exact Sub.up) : Held pts z (demoteSeat s n a seat place) := by
  unfold demoteSeat
  iterate 45 all_goals try first
    | with_reducible assumption
    | with_reducible refine wroteUnits_held ?_
    | with_reducible refine modNet_held ?_
    | with_reducible refine foldl_held (fun _ _ _ => ?_) ?_
    | (intro x; have hx : Vellum := x; clear hx; subst x)
    | lift_lets
    | ((with_reducible refine held_set ?_ ?_); rotate_left
       exact fun hh => ⟨hh.nvm, mwf_mwrite _ _ hh.vellum, hh.sram, hh.power,
         hh.thermal, hh.blotter, hh.events, hh.trust⟩)

theorem promoteCopy_held {s : State} {n : Nat} {a : ColdArea} {place : Nat} {seat : Nat} (hS : Held pts z s)
    (hp : Sub [.link, .mailbox, .vellum, .fabric, .blotter, .mgmt] pts := by exact Sub.up)
    : Held pts z (promoteCopy s n a place seat) := by
  unfold promoteCopy
  iterate 45 all_goals try first
    | with_reducible assumption
    | with_reducible refine countReads_held ?_
    | with_reducible refine modNet_held ?_
    | with_reducible refine scribeWrite_held ?_
    | with_reducible refine foldl_held (fun _ _ _ => ?_) ?_

theorem moveExperts_held {s : State} {n : Nat} {l : Nat} {r : LayerRes} {up : Nat} {down : Nat} {seat : Nat}
    (hS : Held pts z s) (hp : Sub [.link, .mailbox, .vellum, .fabric, .blotter, .mgmt] pts := by exact Sub.up)
    : Held pts z (moveExperts s n l r up down seat) := by
  unfold moveExperts
  iterate 45 all_goals try first
    | with_reducible assumption
    | with_reducible refine demoteSeat_held ?_
    | with_reducible refine promoteCopy_held ?_
    | (intro x; clear_value x)
    | lift_lets
    | split

theorem exchangeNext_held {n : Nat} {l : Nat} {s : State} (hS : Held pts z s)
    (hp : Sub [.link, .mailbox, .images, .vellum, .fabric, .blotter, .mgmt] pts := by exact Sub.up)
    : Held pts z (exchangeNext n l s) := by
  unfold exchangeNext
  iterate 45 all_goals try first
    | with_reducible assumption
    | with_reducible refine putSlot_held ?_
    | with_reducible refine modLayer_held ?_
    | with_reducible refine releaseSeats_held ?_
    | with_reducible refine moveExperts_held ?_
    | (intro x; first
        | (refine (fun (hx : Held pts z x) => ?_) ?_ <;> [clear_value x; subst x])
        | clear_value x)
    | lift_lets
    | split

theorem exchanges_held {n : Nat} {l : Nat} {k : Nat} {s : State} (hS : Held pts z s)
    (hp : Sub [.link, .mailbox, .images, .vellum, .fabric, .blotter, .mgmt] pts := by exact Sub.up)
    : Held pts z (exchanges n l k s) := by
  unfold exchanges
  iterate 45 all_goals try first
    | with_reducible assumption
    | with_reducible refine exchangeNext_held ?_
    | with_reducible refine foldl_held (fun _ _ _ => ?_) ?_

end Sys2Proof.Laws
end

