-- ==== Sys2Proof/Laws/KeepStepEvents.lean ====
section
/-! SUPPORT. What the functions of Machine/StepEvents.lean do, as Laws/Kept.lean says it: the parts that each one may change. -/

namespace Sys2Proof.Laws

set_option Elab.async false

open Sys2Proof Sys2Proof.Machine

variable {pts : List Part} {z : State}

theorem prefetchRun_held {s : State} {u : Nat} {step : Nat} {n : Nat} {r : VellumRef} {found : List (Nat × VellumEcc)}
    (hS : Held pts z s)
    (hp : Sub [.board, .nvm, .link, .mailbox, .serving, .images, .vellum, .fabric, .power, .blotter, .mgmt, .trust,
      .map] pts := by exact Sub.up)
    : Held pts z (prefetchRun s u step n r found) := by
  unfold prefetchRun
  dsimp only
  iterate 45 all_goals try first
    | with_reducible assumption
    | with_reducible refine modSite_held ?_
    | with_reducible refine fetchUnits_held ?_
    | split
    | ((with_reducible refine held_set ?_ ?_); rotate_left; exact Sound.parts)

theorem prefetchAhead_held {s : State} {u : Nat} {step : Nat} {a : Lookahead} (hS : Held pts z s)
    (hp : Sub [.board, .nvm, .link, .mailbox, .serving, .images, .vellum, .fabric, .power, .blotter, .mgmt, .trust,
      .map] pts := by exact Sub.up)
    : Held pts z (prefetchAhead s u step a) := by
  unfold prefetchAhead
  dsimp only
  iterate 45 all_goals try first
    | with_reducible assumption
    | with_reducible refine modStep_held ?_
    | with_reducible refine prefetchRun_held ?_
    | split

theorem execPrefetchIssue_held {t : Nat} {cluster : Nat} {reads : Met (List FetchRead) Lookahead} {s : State}
    (hS : Held pts z s)
    (hp : Sub [.now, .board, .nvm, .link, .mailbox, .serving, .images, .vellum, .fabric, .power, .blotter, .mgmt,
      .trust, .map] pts := by exact Sub.up)
    : OutHeld pts z (execPrefetchIssue t cluster reads s) := by
  unfold execPrefetchIssue
  iterate 45 all_goals try first
    | with_reducible refine outHeld_next ?_
    | with_reducible assumption
    | with_reducible refine advance_held ?_
    | with_reducible refine note_held ?_
    | with_reducible refine modMem_held ?_
    | with_reducible refine passArbiters_held ?_
    | with_reducible refine prefetchRun_held ?_
    | with_reducible refine prefetchAhead_held ?_
    | with_reducible refine foldl_held (fun _ _ _ => ?_) ?_
    | (intro x; first
        | (refine (fun (hx : Held pts z x) => ?_) ?_ <;> [clear_value x; subst x])
        | clear_value x)
    | lift_lets
    | split

theorem execStepIssue_held {t : Nat} {kind : StepKind} {rows : List (RowRef × Nat)} {s : State} (hS : Held pts z s)
    (hp : Sub [.now, .free, .board, .link, .mailbox, .serving, .images, .vellum, .fabric, .power, .blotter, .mgmt,
      .trust, .map] pts := by exact Sub.up)
    : OutHeld pts z (execStepIssue t kind rows s) := by
  unfold execStepIssue
  iterate 45 all_goals try first
    | with_reducible refine outHeld_next ?_
    | with_reducible assumption
    | with_reducible refine advance_held ?_
    | with_reducible refine stepBoundary_held ?_
    | with_reducible refine issueStep_held ?_
    | lift_lets
    | split

theorem execSampleRow_held {t : Nat} {step : Nat} {row : Met Nat Nat} {logits : List (List Fp32)} {s : State} (hS : Held pts z s)
    (hp : Sub [.now, .link, .mailbox, .serving, .images, .vellum, .power, .blotter, .mgmt, .trust] pts := by exact Sub.up)
    : OutHeld pts z (execSampleRow t step row logits s) := by
  unfold execSampleRow
  iterate 45 all_goals try first
    | with_reducible refine outHeld_next ?_
    | with_reducible assumption
    | with_reducible refine advance_held ?_
    | with_reducible refine countFor_held ?_
    | with_reducible refine finishStep_held ?_
    | with_reducible refine markSampled_held ?_
    | with_reducible refine draftRow_held ?_
    | with_reducible refine decodeRow_held ?_
    | (intro x; first
        | (refine (fun (hx : Held pts z x) => ?_) ?_ <;> [clear_value x; subst x])
        | clear_value x)
    | lift_lets
    | split

theorem execPrefillHandoff_held {t : Nat} {step : Nat} {s : State} (hS : Held pts z s)
    (hp : Sub [.now, .link, .mailbox, .serving, .images, .vellum, .power, .blotter, .mgmt, .trust] pts := by exact Sub.up)
    : OutHeld pts z (execPrefillHandoff t step s) := by
  unfold execPrefillHandoff
  iterate 45 all_goals try first
    | with_reducible refine outHeld_next ?_
    | with_reducible assumption
    | with_reducible refine advance_held ?_
    | with_reducible refine leaveFlight_held ?_
    | with_reducible refine splitEnergy_held ?_
    | with_reducible refine handoffSession_held ?_
    | with_reducible refine handoffPfx_held ?_
    | with_reducible refine foldl_held (fun _ _ _ => ?_) ?_
    | (intro x; refine (fun (hx : Held pts z x) => ?_) ?_ <;> [clear_value x; subst x])
    | lift_lets
    | split

theorem testTensor_held {s : State} {step : Nat} {tensor : Nat} {c : Counts} (hS : Held pts z s)
    (hp : Sub [.link, .mailbox, .serving] pts := by exact Sub.up) : Held pts z (testTensor s step tensor c) := by
  unfold testTensor
  iterate 45 all_goals try first
    | with_reducible assumption
    | with_reducible refine postEvent_held ?_
    | (intro x; first
        | (refine (fun (hx : Held pts z x) => ?_) ?_ <;> [clear_value x; subst x])
        | clear_value x)
    | lift_lets
    | split
    | with_reducible refine held_free ?_

theorem execHealthTest_held {t : Nat} {step : Nat} {s : State} (hS : Held pts z s)
    (hp : Sub [.now, .link, .mailbox, .serving] pts := by exact Sub.up) : OutHeld pts z (execHealthTest t step s) := by
  unfold execHealthTest
  iterate 45 all_goals try first
    | with_reducible refine outHeld_next ?_
    | with_reducible assumption
    | with_reducible refine advance_held ?_
    | with_reducible refine testTensor_held ?_
    | with_reducible refine foldl_held (fun _ _ _ => ?_) ?_
    | (intro x; first
        | (refine (fun (hx : Held pts z x) => ?_) ?_ <;> [clear_value x; subst x])
        | clear_value x)
    | lift_lets
    | split
    | with_reducible refine held_free ?_

theorem replayAt_held {s : State} {die : Nat} {d : Desc} {u : Nat} (hS : Held pts z s)
    (hp : Sub [.link, .mailbox, .fabric, .blotter, .mgmt] pts := by exact Sub.up) : Held pts z (replayAt s die d u) := by
  unfold replayAt
  iterate 45 all_goals try first
    | with_reducible assumption
    | with_reducible refine putIsland_held ?_
    | with_reducible refine landIsland_held ?_
    | lift_lets
    | split

theorem replayTransfers_held {s : State} {st : Step} {die : Nat} (hS : Held pts z s)
    (hp : Sub [.fabric] pts := by exact Sub.up) : Held pts z (replayTransfers s st die) := by
  unfold replayTransfers
  iterate 45 all_goals try first
    | with_reducible assumption
    | (intro x; first
        | (have hx : Fabric := x; clear hx; subst x)
        | clear_value x)
    | lift_lets
    | ((with_reducible refine held_set ?_ ?_); rotate_left; exact Sound.parts)

theorem dropPfxRows_held {s : State} {step : Nat} (hS : Held pts z s) (hp : Sub [.serving] pts := by exact Sub.up)
    : Held pts z (dropPfxRows s step) := by
  unfold dropPfxRows
  iterate 45 all_goals try first
    | with_reducible assumption
    | with_reducible refine discardRows_held ?_
    | with_reducible refine foldl_held (fun _ _ _ => ?_) ?_
    | (intro x; first
        | (refine (fun (hx : Held pts z x) => ?_) ?_ <;> [clear_value x; subst x])
        | clear_value x)
    | lift_lets
    | with_reducible refine held_free ?_

theorem execStepReplay_held {t : Nat} {step : Nat} {die : Nat} {s : State} (hS : Held pts z s)
    (hp : Sub [.now, .link, .mailbox, .serving, .images, .vellum, .fabric, .power, .blotter, .mgmt,
      .trust] pts := by exact Sub.up)
    : OutHeld pts z (execStepReplay t step die s) := by
  unfold execStepReplay
  iterate 45 all_goals try first
    | with_reducible refine outHeld_next ?_
    | with_reducible assumption
    | with_reducible refine advance_held ?_
    | with_reducible refine report_held ?_
    | with_reducible refine forfeitAll_held ?_
    | with_reducible refine endTurn_held ?_
    | with_reducible refine modStep_held ?_
    | with_reducible refine leaveFlight_held ?_
    | with_reducible refine dropFrames_held ?_
    | with_reducible refine replayAt_held ?_
    | with_reducible refine replayTransfers_held ?_
    | with_reducible refine dropPfxRows_held ?_
    | with_reducible refine foldl_held (fun _ _ _ => ?_) ?_
    | (intro x; first
        | (refine (fun (hx : Held pts z x) => ?_) ?_ <;> [clear_value x; subst x])
        | clear_value x)
    | lift_lets
    | split
    | with_reducible refine held_free ?_

theorem execResidencyRevise_held {t : Nat} {s : State} (hS : Held pts z s)
    (hp : Sub [.now, .link, .mailbox, .images, .vellum, .fabric, .blotter, .mgmt] pts := by exact Sub.up)
    : OutHeld pts z (execResidencyRevise t s) := by
  unfold execResidencyRevise
  iterate 45 all_goals try first
    | with_reducible refine outHeld_next ?_
    | with_reducible assumption
    | with_reducible refine putSlot_held ?_
    | with_reducible refine advance_held ?_
    | with_reducible refine exchanges_held ?_
    | with_reducible refine foldl_held (fun _ _ _ => ?_) ?_
    | (intro x; first
        | (refine (fun (hx : Held pts z x) => ?_) ?_ <;> [clear_value x; subst x])
        | clear_value x)
    | lift_lets
    | split

theorem execSeatRelease_held {t : Nat} {layer : Nat} {s : State} (hS : Held pts z s)
    (hp : Sub [.now, .link, .mailbox, .images, .vellum, .fabric, .blotter, .mgmt] pts := by exact Sub.up)
    : OutHeld pts z (execSeatRelease t layer s) := by
  unfold execSeatRelease
  iterate 45 all_goals try first
    | with_reducible refine outHeld_next ?_
    | with_reducible assumption
    | with_reducible refine advance_held ?_
    | with_reducible refine exchanges_held ?_
    | with_reducible refine foldl_held (fun _ _ _ => ?_) ?_
    | lift_lets
    | split

theorem postLine_held {s : State} {l : Nat} {tenant : Nat} {w : AdapterVer} (hS : Held pts z s)
    (hp : Sub [.fabric] pts := by exact Sub.up) : Held pts z (postLine s l tenant w) := by
  unfold postLine
  iterate 45 all_goals try first
    | with_reducible assumption
    | with_reducible refine putIsland_held ?_
    | with_reducible refine foldl_held (fun _ _ _ => ?_) ?_
    | split

theorem execAdapterLineLoad_held {t : Nat} {tenant : Nat} {s : State} (hS : Held pts z s)
    (hp : Sub [.now, .serving, .images, .fabric] pts := by exact Sub.up) : OutHeld pts z (execAdapterLineLoad t tenant s) := by
  unfold execAdapterLineLoad
  iterate 45 all_goals try first
    | with_reducible refine outHeld_next ?_
    | with_reducible assumption
    | with_reducible refine advance_held ?_
    | with_reducible refine queueClear_held ?_
    | with_reducible refine setLineOwner_held ?_
    | with_reducible refine dropLineLoads_held ?_
    | with_reducible refine postLine_held ?_
    | (intro x; clear_value x)
    | lift_lets
    | split
    | with_reducible refine held_free ?_

theorem execAdmissionRound_held {t : Nat} {s : State} (hS : Held pts z s)
    (hp : Sub [.now, .link, .mailbox, .serving, .images, .vellum, .power, .blotter, .mgmt, .trust] pts := by exact Sub.up)
    : OutHeld pts z (execAdmissionRound t s) := by
  unfold execAdmissionRound
  iterate 45 all_goals try first
    | with_reducible refine outHeld_next ?_
    | with_reducible assumption
    | with_reducible refine advance_held ?_
    | with_reducible refine testLevels_held ?_
    | with_reducible refine round_held ?_
    | (intro x; clear_value x)
    | lift_lets
    | split

theorem execAutoPark_held {t : Nat} {s : State} (hS : Held pts z s)
    (hp : Sub [.now, .serving, .vellum] pts := by exact Sub.up) : OutHeld pts z (execAutoPark t s) := by
  unfold execAutoPark
  iterate 45 all_goals try first
    | with_reducible refine outHeld_next ?_
    | with_reducible assumption
    | with_reducible refine advance_held ?_
    | with_reducible refine mapSessions_held ?_
    | with_reducible refine parkOldest_held ?_
    | lift_lets
    | split

theorem releaseSlots_held {s : State} {partition : Nat} {l : List Nat} (hS : Held pts z s)
    (hp : Sub [.serving] pts := by exact Sub.up) : Held pts z (releaseSlots s partition l) := by
  unfold releaseSlots
  iterate 45 all_goals try first
    | with_reducible assumption
    | with_reducible refine putPartition_held ?_

theorem finishPark_held {s : State} {id : Nat} (hS : Held pts z s)
    (hp : Sub [.link, .mailbox, .serving, .power, .blotter, .mgmt] pts := by exact Sub.up) : Held pts z (finishPark s id) := by
  unfold finishPark
  iterate 45 all_goals try first
    | with_reducible assumption
    | with_reducible refine putSession_held ?_
    | with_reducible refine postEvent_held ?_
    | with_reducible refine completeStarted_held ?_
    | (intro x; first
        | (refine (fun (hx : Held pts z x) => ?_) ?_ <;> [clear_value x; subst x])
        | clear_value x)
    | lift_lets
    | split

theorem countPark_held {s : State} {p : Nat} (hS : Held pts z s) (hp : Sub [.vellum] pts := by exact Sub.up)
    : Held pts z (countPark s p) := by
  unfold countPark
  iterate 45 all_goals try first
    | with_reducible assumption
    | with_reducible refine countReads_held ?_

theorem parkUnconfirmed_held {s : State} {session : Nat} (hS : Held pts z s)
    (hp : Sub [.link, .mailbox, .serving, .vellum, .power, .blotter, .mgmt] pts := by exact Sub.up)
    : Held pts z (parkUnconfirmed s session) := by
  unfold parkUnconfirmed
  dsimp only
  iterate 45 all_goals try first
    | with_reducible assumption
    | with_reducible refine putPage_held ?_
    | with_reducible refine report_held ?_
    | with_reducible refine completeStarted_held ?_
    | with_reducible refine modSession_held ?_
    | with_reducible refine forfeitOne_held ?_
    | with_reducible refine releaseSlots_held ?_
    | with_reducible refine countPark_held ?_
    | split

theorem restorePage_held {s : State} {p : Nat} {e : ParkedPage} (hS : Held pts z s)
    (hp : Sub [.vellum] pts := by exact Sub.up) : Held pts z (restorePage s p e) := by
  unfold restorePage
  iterate 45 all_goals try first
    | with_reducible assumption
    | with_reducible refine wroteUnits_held ?_
    | with_reducible refine commitPage_held ?_
    | (intro x; have hx : Vellum := x; clear hx; subst x)
    | lift_lets
    | ((with_reducible refine held_set ?_ ?_); rotate_left
       exact fun hh => ⟨hh.nvm, mwf_mpaste _ _ _ hh.vellum, hh.sram, hh.power,
         hh.thermal, hh.blotter, hh.events, hh.trust⟩)

theorem execParkPageConfirm_held {t : Nat} {session : Nat} {ok : Bool} {s : State} (hS : Held pts z s)
    (hp : Sub [.now, .link, .mailbox, .serving, .vellum, .power, .blotter, .mgmt] pts := by exact Sub.up)
    : OutHeld pts z (execParkPageConfirm t session ok s) := by
  unfold execParkPageConfirm
  dsimp only
  iterate 45 all_goals try first
    | with_reducible refine outHeld_next ?_
    | with_reducible assumption
    | with_reducible refine putSession_held ?_
    | with_reducible refine putPage_held ?_
    | with_reducible refine advance_held ?_
    | with_reducible refine modSession_held ?_
    | with_reducible refine freePage_held ?_
    | with_reducible refine releaseSlots_held ?_
    | with_reducible refine finishPark_held ?_
    | with_reducible refine countPark_held ?_
    | with_reducible refine parkUnconfirmed_held ?_
    | split
    | with_reducible refine held_free ?_

theorem finishUnpark_held {s : State} {id : Nat} (hS : Held pts z s)
    (hp : Sub [.link, .mailbox, .serving, .power, .blotter, .mgmt] pts := by exact Sub.up)
    : Held pts z (finishUnpark s id) := by
  unfold finishUnpark
  iterate 45 all_goals try first
    | with_reducible assumption
    | with_reducible refine putSession_held ?_
    | with_reducible refine completeStarted_held ?_

theorem execUnparkPageCheck_held {t : Nat} {session : Nat} {result : PageCheck} {s : State} (hS : Held pts z s)
    (hp : Sub [.now, .link, .mailbox, .serving, .images, .vellum, .power, .blotter, .mgmt, .trust] pts := by exact Sub.up)
    : OutHeld pts z (execUnparkPageCheck t session result s) := by
  unfold execUnparkPageCheck
  dsimp only
  iterate 45 all_goals try first
    | with_reducible refine outHeld_next ?_
    | with_reducible assumption
    | with_reducible refine advance_held ?_
    | with_reducible refine report_held ?_
    | with_reducible refine completeStarted_held ?_
    | with_reducible refine modSession_held ?_
    | with_reducible refine giveSessionPage_held ?_
    | with_reducible refine forfeitOne_held ?_
    | with_reducible refine endSession_held ?_
    | with_reducible refine releaseSlots_held ?_
    | with_reducible refine restorePage_held ?_
    | with_reducible refine finishUnpark_held ?_
    | split

theorem execDrainTimeout_held {t : Nat} {partition : Nat} {s : State} (hS : Held pts z s)
    (hp : Sub [.now, .serving] pts := by exact Sub.up) : OutHeld pts z (execDrainTimeout t partition s) := by
  unfold execDrainTimeout
  iterate 45 all_goals try first
    | with_reducible refine outHeld_next ?_
    | with_reducible assumption
    | with_reducible refine putPartition_held ?_
    | with_reducible refine putTenant_held ?_
    | with_reducible refine advance_held ?_
    | with_reducible refine foldl_held (fun _ _ _ => ?_) ?_
    | lift_lets
    | split

end Sys2Proof.Laws
end

