-- ==== Sys2Proof/Laws/KeepImages.lean ====
section
/-! SUPPORT. What the functions of Machine/Images.lean do, as Laws/Kept.lean says it: the parts that each one may change. -/

namespace Sys2Proof.Laws

set_option Elab.async false

open Sys2Proof Sys2Proof.Machine

variable {pts : List Part} {z : State}

theorem execFolioLoad_held {h : Hdr} {slot : Nat} {source : Nat} {peerBar4 : Nat} {f : FolioHead} {s : State}
    (hS : Held pts z s) (hp : Sub [.now, .link, .mailbox, .images, .blotter, .mgmt] pts := by exact Sub.up)
    : OutHeld pts z (execFolioLoad h slot source peerBar4 f s) := by
  unfold execFolioLoad
  iterate 45 all_goals try first
    | with_reducible refine outHeld_next ?_
    | with_reducible assumption
    | with_reducible refine putSlot_held ?_
    | with_reducible refine complete_held ?_
    | with_reducible refine refuse_held ?_
    | with_reducible refine startLater_held ?_
    | with_reducible refine runCommand_held (fun _ _ _ => ?_) ?_
    | lift_lets
    | split

theorem takeChunk_held {s : State} {slot : Nat} {chunk : Nat} {f : FolioHead} {data : List Byte} (hS : Held pts z s)
    (hp : Sub [.link, .mailbox, .serving, .images, .vellum, .fabric, .power, .blotter, .mgmt] pts := by exact Sub.up)
    : Held pts z (takeChunk s slot chunk f data) := by
  unfold takeChunk
  iterate 45 all_goals try first
    | with_reducible assumption
    | with_reducible refine putSlot_held ?_
    | with_reducible refine endLoad_held ?_
    | with_reducible refine storeChunk_held (he := by assumption) ?_
    | (intro x; clear_value x)
    | lift_lets
    | split

theorem execChunkArrival_held {t : Nat} {slot : Nat} {chunk : Nat} {data : Met (List Byte) (Nat × Nat)} {s : State}
    (hS : Held pts z s)
    (hp : Sub [.now, .link, .mailbox, .serving, .images, .vellum, .fabric, .power, .blotter,
      .mgmt] pts := by exact Sub.up)
    : OutHeld pts z (execChunkArrival t slot chunk data s) := by
  unfold execChunkArrival
  iterate 45 all_goals try first
    | with_reducible refine outHeld_next ?_
    | with_reducible assumption
    | with_reducible refine putSlot_held ?_
    | with_reducible refine advance_held ?_
    | with_reducible refine endLoad_held ?_
    | with_reducible refine takeChunk_held ?_
    | (intro x; clear_value x)
    | lift_lets
    | split

theorem execFolioLoadComplete_held {t : Nat} {slot : Nat} {body : FolioBody} {s : State} (hS : Held pts z s)
    (hp : Sub [.now, .link, .mailbox, .serving, .images, .fabric, .power, .blotter, .mgmt] pts := by exact Sub.up)
    : OutHeld pts z (execFolioLoadComplete t slot body s) := by
  unfold execFolioLoadComplete
  iterate 45 all_goals try first
    | with_reducible refine outHeld_next ?_
    | with_reducible assumption
    | with_reducible refine putSlot_held ?_
    | with_reducible refine advance_held ?_
    | with_reducible refine completeStarted_held ?_
    | with_reducible refine clearSlot_held ?_
    | with_reducible refine endLoad_held ?_
    | with_reducible refine coFill_held ?_
    | (intro x; clear_value x)
    | lift_lets
    | split

theorem execFolioUnload_held {h : Hdr} {slot : Nat} {s : State} (hS : Held pts z s)
    (hp : Sub [.now, .link, .mailbox, .serving, .images, .fabric, .power, .blotter, .mgmt] pts := by exact Sub.up)
    : OutHeld pts z (execFolioUnload h slot s) := by
  unfold execFolioUnload
  iterate 45 all_goals try first
    | with_reducible refine outHeld_next ?_
    | with_reducible assumption
    | with_reducible refine refuse_held ?_
    | with_reducible refine startLater_held ?_
    | with_reducible refine clearSlot_held ?_
    | with_reducible refine endLoad_held ?_
    | with_reducible refine runCommand_held (fun _ _ _ => ?_) ?_
    | (intro x; first
        | (refine (fun (hx : Held pts z x) => ?_) ?_ <;> [clear_value x; subst x])
        | clear_value x)
    | lift_lets
    | split

theorem execImageSwitch_held {h : Hdr} {slot : Nat} {s : State} (hS : Held pts z s)
    (hp : Sub [.now, .link, .mailbox, .serving, .images, .vellum, .fabric, .blotter, .mgmt] pts := by exact Sub.up)
    : OutHeld pts z (execImageSwitch h slot s) := by
  unfold execImageSwitch
  iterate 45 all_goals try first
    | with_reducible refine outHeld_next ?_
    | with_reducible assumption
    | with_reducible refine putSlot_held ?_
    | with_reducible refine done_held ?_
    | with_reducible refine refuse_held ?_
    | with_reducible refine startLater_held ?_
    | with_reducible refine runCommand_held (fun _ _ _ => ?_) ?_
    | with_reducible refine activateSlot_held ?_
    | with_reducible refine startDrains_held ?_
    | with_reducible refine streamSlot_held ?_
    | (intro x; first
        | (refine (fun (hx : Held pts z x) => ?_) ?_ <;> [clear_value x; subst x])
        | clear_value x)
    | lift_lets
    | split
    | with_reducible refine held_free ?_

theorem execFirstActivationFill_held {t : Nat} {sourceFailed : Bool} {s : State} (hS : Held pts z s)
    (hp : Sub [.now, .link, .mailbox, .serving, .images, .fabric, .power, .blotter, .mgmt] pts := by exact Sub.up)
    : OutHeld pts z (execFirstActivationFill t sourceFailed s) := by
  unfold execFirstActivationFill
  iterate 45 all_goals try first
    | with_reducible refine outHeld_next ?_
    | with_reducible assumption
    | with_reducible refine advance_held ?_
    | with_reducible refine completeStarted_held ?_
    | with_reducible refine clearSlot_held ?_
    | with_reducible refine setRoutes_held ?_
    | with_reducible refine fillPlacement_held ?_
    | with_reducible refine coFill_held ?_
    | (intro x; first
        | (refine (fun (hx : Held pts z x) => ?_) ?_ <;> [clear_value x; subst x])
        | clear_value x)
    | lift_lets
    | split
    | with_reducible refine held_free ?_

theorem execMigrationStart_held {t : Nat} {s : State} (hS : Held pts z s)
    (hp : Sub [.now, .serving, .images, .fabric] pts := by exact Sub.up) : OutHeld pts z (execMigrationStart t s) := by
  unfold execMigrationStart
  dsimp only
  iterate 45 all_goals try first
    | with_reducible refine outHeld_next ?_
    | with_reducible assumption
    | with_reducible refine putSlot_held ?_
    | with_reducible refine advance_held ?_
    | with_reducible refine dropHalves_held ?_
    | with_reducible refine setRoutes_held ?_
    | split
    | with_reducible refine held_free ?_

theorem endMigration_held {s : State} {old : Nat} {new : Nat} {b : FolioBody} (hS : Held pts z s)
    (hp : Sub [.board, .link, .mailbox, .serving, .images, .vellum, .fabric, .power] pts := by exact Sub.up)
    : Held pts z (endMigration s old new b) := by
  unfold endMigration
  iterate 45 all_goals try first
    | with_reducible assumption
    | with_reducible refine putSlot_held ?_
    | with_reducible refine notIdle_held ?_
    | with_reducible refine nowResident_held ?_
    | with_reducible refine standInAll_held ?_
    | with_reducible refine coFill_held ?_
    | with_reducible refine streamSlot_held ?_
    | with_reducible refine prepareAllFailed_held ?_
    | (intro x; clear_value x)
    | split
    | lift_lets
    | with_reducible refine held_free ?_

theorem execMigrationPartDone_held {t : Nat} {unit : Nat} {load : DmaLoad} {s : State} (hS : Held pts z s)
    (hp : Sub [.now, .board, .link, .mailbox, .serving, .images, .vellum, .fabric, .power] pts := by exact Sub.up)
    : OutHeld pts z (execMigrationPartDone t unit load s) := by
  unfold execMigrationPartDone
  iterate 45 all_goals try first
    | with_reducible refine outHeld_next ?_
    | with_reducible assumption
    | with_reducible refine putIsland_held ?_
    | with_reducible refine putSlot_held ?_
    | with_reducible refine advance_held ?_
    | with_reducible refine countLoad_held ?_
    | with_reducible refine fillCluster_held ?_
    | with_reducible refine endMigration_held ?_
    | (intro x; first
        | (refine (fun (hx : Held pts z x) => ?_) ?_ <;> [clear_value x; subst x])
        | clear_value x)
    | lift_lets
    | split
    | with_reducible refine held_free ?_

theorem execSlotDrained_held {t : Nat} {slot : Nat} {s : State} (hS : Held pts z s)
    (hp : Sub [.now, .serving, .images, .fabric] pts := by exact Sub.up) : OutHeld pts z (execSlotDrained t slot s) := by
  unfold execSlotDrained
  iterate 45 all_goals try first
    | with_reducible refine outHeld_next ?_
    | with_reducible assumption
    | with_reducible refine putSlot_held ?_
    | with_reducible refine advance_held ?_
    | with_reducible refine dropHalves_held ?_
    | with_reducible refine coFill_held ?_
    | (intro x; first
        | (refine (fun (hx : Held pts z x) => ?_) ?_ <;> [clear_value x; subst x])
        | clear_value x)
    | lift_lets
    | split

theorem execFolioExport_held {h : Hdr} {slot : Nat} {peer : Nat} {s : State} (hS : Held pts z s)
    (hp : Sub [.now, .link, .mailbox, .images, .blotter, .mgmt] pts := by exact Sub.up)
    : OutHeld pts z (execFolioExport h slot peer s) := by
  unfold execFolioExport
  iterate 45 all_goals try first
    | with_reducible refine outHeld_next ?_
    | with_reducible assumption
    | with_reducible refine done_held ?_
    | with_reducible refine refuse_held ?_
    | with_reducible refine runCommand_held (fun _ _ _ => ?_) ?_
    | (intro x; first
        | (refine (fun (hx : Held pts z x) => ?_) ?_ <;> [clear_value x; subst x])
        | clear_value x)
    | lift_lets
    | split
    | with_reducible refine held_free ?_

theorem execFolioExportEnd_held {h : Hdr} {s : State} (hS : Held pts z s)
    (hp : Sub [.now, .link, .mailbox, .images, .blotter, .mgmt] pts := by exact Sub.up)
    : OutHeld pts z (execFolioExportEnd h s) := by
  unfold execFolioExportEnd
  iterate 45 all_goals try first
    | with_reducible refine outHeld_next ?_
    | with_reducible assumption
    | with_reducible refine done_held ?_
    | with_reducible refine refuse_held ?_
    | with_reducible refine endExport_held ?_
    | with_reducible refine runCommand_held (fun _ _ _ => ?_) ?_
    | lift_lets
    | split

theorem execCompatSwap_held {h : Hdr} {f : Met FolioHead (List (List Byte))} {body : Met FolioBody (Nat × Nat)}
    {s : State} (hS : Held pts z s)
    (hp : Sub [.now, .link, .mailbox, .serving, .images, .blotter, .mgmt] pts := by exact Sub.up)
    : OutHeld pts z (execCompatSwap h f body s) := by
  unfold execCompatSwap
  dsimp only
  iterate 45 all_goals try first
    | with_reducible refine outHeld_next ?_
    | with_reducible assumption
    | with_reducible refine putSlot_held ?_
    | with_reducible refine complete_held ?_
    | with_reducible refine refuse_held ?_
    | with_reducible refine startLater_held ?_
    | with_reducible refine runCommand_held (fun _ _ _ => ?_) ?_
    | with_reducible refine mapSessions_held ?_
    | with_reducible refine endExport_held ?_
    | split
    | with_reducible refine held_free ?_

theorem rewriteCluster_held {s : State} {n : Nat} {b : FolioBody} {c : ClusterPlan} (hS : Held pts z s)
    (hp : Sub [.serving, .fabric] pts := by exact Sub.up) : Held pts z (rewriteCluster s n b c) := by
  unfold rewriteCluster
  iterate 45 all_goals try first
    | with_reducible assumption
    | with_reducible refine writeSet_held ?_
    | with_reducible refine takePart_held ?_
    | split

theorem rewritePart_held {s : State} {n : Nat} {b : FolioBody} {inForce : List Variant} {part : Nat} (hS : Held pts z s)
    (hp : Sub [.serving, .fabric] pts := by exact Sub.up) : Held pts z (rewritePart s n b inForce part) := by
  unfold rewritePart
  iterate 45 all_goals try first
    | with_reducible assumption
    | with_reducible refine moveTables_held ?_
    | with_reducible refine rewriteCluster_held ?_
    | with_reducible refine foldl_held (fun _ _ _ => ?_) ?_

theorem swapLayer_held {s : State} {n : Nat} {b : FolioBody} {l : Nat} (hS : Held pts z s)
    (hp : Sub [.images, .vellum] pts := by exact Sub.up) : Held pts z (swapLayer s n b l) := by
  unfold swapLayer
  iterate 45 all_goals try first
    | with_reducible assumption
    | with_reducible refine putSlot_held ?_
    | with_reducible refine finishAreas_held ?_
    | with_reducible refine moveAreas_held ?_
    | with_reducible refine modLayer_held ?_
    | (intro x; first
        | (refine (fun (hx : Held pts z x) => ?_) ?_ <;> [clear_value x; subst x])
        | clear_value x)
    | lift_lets
    | split

theorem revertCompat_held {s : State} (hS : Held pts z s)
    (hp : Sub [.free, .board, .link, .mailbox, .serving, .images, .vellum, .fabric, .blotter,
      .mgmt] pts := by exact Sub.up)
    : Held pts z (revertCompat s) := by
  unfold revertCompat
  iterate 45 all_goals try first
    | with_reducible assumption
    | with_reducible refine putSlot_held ?_
    | with_reducible refine wakeIsland_held ?_
    | with_reducible refine coFill_held ?_
    | with_reducible refine prepareAllFailed_held ?_
    | with_reducible refine rewritePart_held ?_
    | with_reducible refine swapLayer_held ?_
    | with_reducible refine foldl_held (fun _ _ _ => ?_) ?_
    | (intro x; first
        | (refine (fun (hx : Held pts z x) => ?_) ?_ <;> [clear_value x; subst x])
        | clear_value x)
    | lift_lets
    | split
    | with_reducible refine held_free ?_

theorem wakePart_held {s : State} {us : List Nat} (hS : Held pts z s)
    (hp : Sub [.free, .link, .mailbox, .serving, .fabric, .blotter, .mgmt] pts := by exact Sub.up)
    : Held pts z (wakePart s us) := by
  unfold wakePart
  iterate 45 all_goals try first
    | with_reducible assumption
    | with_reducible refine drewFree_held ?_
    | with_reducible refine wakeIsland_held ?_
    | with_reducible refine resume_held ?_
    | with_reducible refine foldl_held (fun _ _ _ => ?_) ?_

theorem execCompatLayerRewrite_held {t : Nat} {layer : Nat} {sourceFailed : Bool} {s : State} (hS : Held pts z s)
    (hp : Sub [.now, .free, .board, .link, .mailbox, .serving, .images, .vellum, .fabric, .power, .blotter,
      .mgmt] pts := by exact Sub.up)
    : OutHeld pts z (execCompatLayerRewrite t layer sourceFailed s) := by
  unfold execCompatLayerRewrite
  iterate 45 all_goals try first
    | with_reducible refine outHeld_next ?_
    | with_reducible assumption
    | with_reducible refine putSlot_held ?_
    | with_reducible refine advance_held ?_
    | with_reducible refine completeStarted_held ?_
    | with_reducible refine setRoutes_held ?_
    | with_reducible refine coFill_held ?_
    | with_reducible refine placementLoaded_held ?_
    | with_reducible refine prepareAllFailed_held ?_
    | with_reducible refine rewritePart_held ?_
    | with_reducible refine swapLayer_held ?_
    | with_reducible refine revertCompat_held ?_
    | with_reducible refine wakePart_held ?_
    | (intro x; first
        | (refine (fun (hx : Held pts z x) => ?_) ?_ <;> [clear_value x; subst x])
        | clear_value x)
    | lift_lets
    | split
    | with_reducible refine held_free ?_

theorem execChunkRefetch_held {t : Nat} {slot : Nat} {chunk : Nat} {data : List Byte} {s : State} (hS : Held pts z s)
    (hp : Sub [.now, .serving, .images, .vellum, .fabric] pts := by exact Sub.up)
    : OutHeld pts z (execChunkRefetch t slot chunk data s) := by
  unfold execChunkRefetch
  iterate 45 all_goals try first
    | with_reducible refine outHeld_next ?_
    | with_reducible assumption
    | with_reducible refine putSlot_held ?_
    | with_reducible refine advance_held ?_
    | with_reducible refine finishAreas_held ?_
    | with_reducible refine wroteChunk_held ?_
    | with_reducible refine coFill_held ?_
    | with_reducible refine payOwed_held ?_
    | (intro x; clear_value x)
    | lift_lets
    | split

theorem execRefetchTimeout_held {t : Nat} {slot : Nat} {s : State} (hS : Held pts z s)
    (hp : Sub [.now, .link, .mailbox, .images, .blotter, .mgmt] pts := by exact Sub.up)
    : OutHeld pts z (execRefetchTimeout t slot s) := by
  unfold execRefetchTimeout
  dsimp only
  iterate 45 all_goals try first
    | with_reducible refine outHeld_next ?_
    | with_reducible assumption
    | with_reducible refine putSlot_held ?_
    | with_reducible refine advance_held ?_
    | with_reducible refine note_held ?_
    | with_reducible refine endExport_held ?_
    | split

theorem execRefetchSource_held {h : Hdr} {slot : Nat} {kind : Nat} {peerBar4 : Nat} {s : State} (hS : Held pts z s)
    (hp : Sub [.now, .link, .mailbox, .images, .blotter, .mgmt] pts := by exact Sub.up)
    : OutHeld pts z (execRefetchSource h slot kind peerBar4 s) := by
  unfold execRefetchSource
  iterate 45 all_goals try first
    | with_reducible refine outHeld_next ?_
    | with_reducible assumption
    | with_reducible refine putSlot_held ?_
    | with_reducible refine done_held ?_
    | with_reducible refine refuse_held ?_
    | with_reducible refine runCommand_held (fun _ _ _ => ?_) ?_
    | (intro x; clear_value x)
    | lift_lets
    | split

theorem execArithModeSet_held {h : Hdr} {slot : Nat} {mode : Nat} {s : State} (hS : Held pts z s)
    (hp : Sub [.now, .link, .mailbox, .images, .blotter, .mgmt] pts := by exact Sub.up)
    : OutHeld pts z (execArithModeSet h slot mode s) := by
  unfold execArithModeSet
  iterate 45 all_goals try first
    | with_reducible refine outHeld_next ?_
    | with_reducible assumption
    | with_reducible refine putSlot_held ?_
    | with_reducible refine done_held ?_
    | with_reducible refine refuse_held ?_
    | with_reducible refine runCommand_held (fun _ _ _ => ?_) ?_
    | (intro x; clear_value x)
    | lift_lets
    | split

theorem execExpertPin_held {h : Hdr} {slot : Nat} {layer : Nat} {expert : Nat} {pin : Nat} {s : State} (hS : Held pts z s)
    (hp : Sub [.now, .link, .mailbox, .images, .blotter, .mgmt] pts := by exact Sub.up)
    : OutHeld pts z (execExpertPin h slot layer expert pin s) := by
  unfold execExpertPin
  iterate 45 all_goals try first
    | with_reducible refine outHeld_next ?_
    | with_reducible assumption
    | with_reducible refine done_held ?_
    | with_reducible refine refuse_held ?_
    | with_reducible refine modLayer_held ?_
    | with_reducible refine runCommand_held (fun _ _ _ => ?_) ?_
    | (intro x; clear_value x)
    | lift_lets
    | split

theorem execStencilLoad_held {h : Hdr} {slot : Nat} {id : Nat} {stencil : Option Stencil} {s : State} (hS : Held pts z s)
    (hp : Sub [.now, .link, .mailbox, .images, .blotter, .mgmt] pts := by exact Sub.up)
    : OutHeld pts z (execStencilLoad h slot id stencil s) := by
  unfold execStencilLoad
  iterate 45 all_goals try first
    | with_reducible refine outHeld_next ?_
    | with_reducible assumption
    | with_reducible refine putSlot_held ?_
    | with_reducible refine done_held ?_
    | with_reducible refine refuse_held ?_
    | with_reducible refine runCommand_held (fun _ _ _ => ?_) ?_
    | (intro x; clear_value x)
    | lift_lets
    | split

theorem execAdapterLoad_held {h : Hdr} {tenant : Nat} {image : AdapterImage} {s : State} (hS : Held pts z s)
    (hp : Sub [.now, .link, .mailbox, .serving, .vellum, .blotter, .mgmt] pts := by exact Sub.up)
    : OutHeld pts z (execAdapterLoad h tenant image s) := by
  unfold execAdapterLoad
  iterate 45 all_goals try first
    | with_reducible refine outHeld_next ?_
    | with_reducible assumption
    | with_reducible refine putTenant_held ?_
    | with_reducible refine refuse_held ?_
    | with_reducible refine startLater_held ?_
    | with_reducible refine runCommand_held (fun _ _ _ => ?_) ?_
    | with_reducible refine testTensor_held ?_
    | with_reducible refine writeRuns_held ?_
    | with_reducible refine foldl_held (fun _ _ _ => ?_) ?_
    | (intro x; clear_value x)
    | split
    | lift_lets

theorem execAdapterLoadDone_held {t : Nat} {tenant : Nat} {s : State} (hS : Held pts z s)
    (hp : Sub [.now, .link, .mailbox, .serving, .power, .blotter, .mgmt] pts := by exact Sub.up)
    : OutHeld pts z (execAdapterLoadDone t tenant s) := by
  unfold execAdapterLoadDone
  iterate 45 all_goals try first
    | with_reducible refine outHeld_next ?_
    | with_reducible assumption
    | with_reducible refine putTenant_held ?_
    | with_reducible refine advance_held ?_
    | with_reducible refine completeStarted_held ?_
    | lift_lets
    | split

theorem execAdapterSwap_held {h : Hdr} {tenant : Nat} {version : Nat} {s : State} (hS : Held pts z s)
    (hp : Sub [.now, .link, .mailbox, .serving, .images, .vellum, .blotter, .mgmt] pts := by exact Sub.up)
    : OutHeld pts z (execAdapterSwap h tenant version s) := by
  unfold execAdapterSwap
  iterate 45 all_goals try first
    | with_reducible refine outHeld_next ?_
    | with_reducible assumption
    | with_reducible refine putTenant_held ?_
    | with_reducible refine done_held ?_
    | with_reducible refine refuse_held ?_
    | with_reducible refine releaseOld_held ?_
    | with_reducible refine runCommand_held (fun _ _ _ => ?_) ?_
    | (intro x; clear_value x)
    | lift_lets
    | split

theorem execAdapterPin_held {h : Hdr} {tenant : Nat} {pin : Bool} {s : State} (hS : Held pts z s)
    (hp : Sub [.now, .link, .mailbox, .serving, .blotter, .mgmt] pts := by exact Sub.up)
    : OutHeld pts z (execAdapterPin h tenant pin s) := by
  unfold execAdapterPin
  iterate 45 all_goals try first
    | with_reducible refine outHeld_next ?_
    | with_reducible assumption
    | with_reducible refine putTenant_held ?_
    | with_reducible refine done_held ?_
    | with_reducible refine refuse_held ?_
    | with_reducible refine runCommand_held (fun _ _ _ => ?_) ?_
    | (intro x; clear_value x)
    | lift_lets
    | split

theorem execAdapterUnload_held {h : Hdr} {tenant : Nat} {version : Nat} {s : State} (hS : Held pts z s)
    (hp : Sub [.now, .link, .mailbox, .serving, .images, .vellum, .blotter, .mgmt] pts := by exact Sub.up)
    : OutHeld pts z (execAdapterUnload h tenant version s) := by
  unfold execAdapterUnload
  iterate 45 all_goals try first
    | with_reducible refine outHeld_next ?_
    | with_reducible assumption
    | with_reducible refine done_held ?_
    | with_reducible refine refuse_held ?_
    | with_reducible refine dropVersion_held ?_
    | with_reducible refine runCommand_held (fun _ _ _ => ?_) ?_
    | (intro x; clear_value x)
    | lift_lets
    | split

end Sys2Proof.Laws
end

