-- ==== Sys2Proof/Laws/KeepResetOps.lean ====
section
/-! SUPPORT. What the functions of Machine/ResetOps.lean do, as Laws/Kept.lean says it: the parts that each one may change. -/

namespace Sys2Proof.Laws

set_option Elab.async false

open Sys2Proof Sys2Proof.Machine

variable {pts : List Part} {z : State}

theorem loseAll_held {s : State} {phase : Phase} (hS : Held pts z s)
    (hp : Sub [.board, .link, .mailbox, .serving, .images, .vellum, .fabric, .power, .thermal, .blotter, .mgmt, .trust,
      .fw, .map] pts := by exact Sub.up)
    : Held pts z (loseAll s phase) :=
  held_set hS (fun hh => ⟨hh.nvm, rfl, rfl, powerSound_default, ⟨Nat.le_refl 18500, rfl⟩, blotterSound_default,
    Nat.zero_le _, trustSound_default⟩)

theorem holdFault_held {s : State} {v : Bool} (hS : Held pts z s) (hp : Sub [.board] pts := by exact Sub.up)
    : Held pts z (holdFault s v) := by
  unfold holdFault
  iterate 45 all_goals try first
    | with_reducible assumption
    | (intro x; clear_value x)
    | lift_lets
    | with_reducible refine held_free ?_

theorem setPhase_held {s : State} {p : Phase} (hS : Held pts z s) (hp : Sub [.board] pts := by exact Sub.up)
    : Held pts z (setPhase s p) := by
  unfold setPhase
  iterate 45 all_goals try first
    | with_reducible assumption
    | (intro x; clear_value x)
    | lift_lets
    | with_reducible refine held_free ?_

theorem stopOnce_held {s : State} {type : Nat} {also : Nat} (hS : Held pts z s)
    (hp : Sub [.board, .nvm] pts := by exact Sub.up) : Held pts z (stopOnce s type also) := by
  unfold stopOnce
  iterate 45 all_goals try first
    | with_reducible assumption
    | with_reducible refine writeStop_held ?_
    | (intro x; first
        | (refine (fun (hx : Held pts z x) => ?_) ?_ <;> [clear_value x; subst x])
        | clear_value x)
    | lift_lets
    | split
    | with_reducible refine held_free ?_

theorem beginStart_held {s : State} (hS : Held pts z s) (hp : Sub [.board] pts := by exact Sub.up)
    : Held pts z (beginStart s) := by
  unfold beginStart
  iterate 45 all_goals try first
    | with_reducible assumption
    | (intro x; clear_value x)
    | lift_lets
    | with_reducible refine held_free ?_

theorem clearFabric_held {s : State} (hS : Held pts z s) (hp : Sub [.images, .vellum, .fabric] pts := by exact Sub.up)
    : Held pts z (clearFabric s) := by
  unfold clearFabric
  iterate 45 all_goals try first
    | with_reducible assumption
    | (intro x; first
        | (have hx : Vellum := x; clear hx; subst x)
        | clear_value x)
    | lift_lets
    | ((with_reducible refine held_set ?_ ?_); rotate_left
       exact fun hh => ⟨hh.nvm, hh.vellum, rfl, hh.power,
         hh.thermal, hh.blotter, hh.events, hh.trust⟩)

theorem abandonSteps_held {s : State} (hS : Held pts z s) (hp : Sub [.serving, .vellum] pts := by exact Sub.up)
    : Held pts z (abandonSteps s) := by
  unfold abandonSteps
  iterate 45 all_goals try first
    | with_reducible assumption
    | with_reducible refine freeWaiting_held ?_
    | (intro x; clear_value x)
    | lift_lets
    | with_reducible refine held_free ?_

theorem dropSramClears_held {s : State} (hS : Held pts z s) (hp : Sub [.serving] pts := by exact Sub.up)
    : Held pts z (dropSramClears s) := by
  unfold dropSramClears
  iterate 45 all_goals try first
    | with_reducible assumption
    | (intro x; clear_value x)
    | lift_lets
    | with_reducible refine held_free ?_

theorem coverNew_held {s : State} {n : Nat} (hS : Held pts z s)
    (hp : Sub [.link, .mailbox, .serving, .images, .vellum, .fabric, .power, .blotter, .mgmt,
      .trust] pts := by exact Sub.up)
    : Held pts z (coverNew s n) := by
  unfold coverNew
  iterate 45 all_goals try first
    | with_reducible assumption
    | with_reducible refine coverSlot_held ?_
    | with_reducible refine foldl_held (fun _ _ _ => ?_) ?_
    | (intro x; clear_value x)
    | lift_lets
    | split

theorem emptyLoading_held {s : State} {n : Nat} (hS : Held pts z s) (hp : Sub [.serving, .images] pts := by exact Sub.up)
    : Held pts z (emptyLoading s n) := by
  unfold emptyLoading
  iterate 45 all_goals try first
    | with_reducible assumption
    | with_reducible refine putSlot_held ?_
    | (intro x; first
        | (refine (fun (hx : Held pts z x) => ?_) ?_ <;> [clear_value x; subst x])
        | clear_value x)
    | lift_lets
    | split
    | with_reducible refine held_free ?_

theorem finishSwitch_held {s : State} (hS : Held pts z s) (hp : Sub [.serving, .images] pts := by exact Sub.up)
    : Held pts z (finishSwitch s) := by
  unfold finishSwitch
  dsimp only
  iterate 45 all_goals try first
    | with_reducible assumption
    | with_reducible refine putSlot_held ?_
    | split
    | with_reducible refine held_free ?_

theorem finishFill_held {s : State} (hS : Held pts z s) (hp : Sub [.images] pts := by exact Sub.up)
    : Held pts z (finishFill s) := by
  unfold finishFill
  iterate 45 all_goals try first
    | with_reducible assumption
    | with_reducible refine putSlot_held ?_
    | (intro x; first
        | (refine (fun (hx : Held pts z x) => ?_) ?_ <;> [clear_value x; subst x])
        | clear_value x)
    | lift_lets
    | split
    | with_reducible refine held_free ?_

theorem verifySlot_held {s : State} {n : Nat} (hS : Held pts z s)
    (hp : Sub [.serving, .images, .fabric] pts := by exact Sub.up) : Held pts z (verifySlot s n) := by
  unfold verifySlot
  iterate 45 all_goals try first
    | with_reducible assumption
    | with_reducible refine clearSlot_held ?_
    | (intro x; clear_value x)
    | lift_lets
    | split

theorem settlePark_held {s : State} {id : Nat} (hS : Held pts z s) (hp : Sub [.serving, .vellum] pts := by exact Sub.up)
    : Held pts z (settlePark s id) := by
  unfold settlePark
  iterate 45 all_goals try first
    | with_reducible assumption
    | with_reducible refine putPartition_held ?_
    | with_reducible refine putPage_held ?_
    | with_reducible refine modSession_held ?_
    | with_reducible refine freePage_held ?_
    | with_reducible refine releaseSlots_held ?_
    | with_reducible refine countPark_held ?_
    | with_reducible refine foldl_held (fun _ _ _ => ?_) ?_
    | (intro x; first
        | (refine (fun (hx : Held pts z x) => ?_) ?_ <;> [clear_value x; subst x])
        | clear_value x)
    | lift_lets
    | split
    | with_reducible refine held_free ?_

theorem settleUnpark_held {s : State} {id : Nat} (hS : Held pts z s) (hp : Sub [.serving, .vellum] pts := by exact Sub.up)
    : Held pts z (settleUnpark s id) := by
  unfold settleUnpark
  iterate 45 all_goals try first
    | with_reducible assumption
    | with_reducible refine modSession_held ?_
    | with_reducible refine giveSessionPage_held ?_
    | with_reducible refine releaseSlots_held ?_
    | with_reducible refine restorePage_held ?_
    | with_reducible refine foldl_held (fun _ _ _ => ?_) ?_
    | (intro x; first
        | (refine (fun (hx : Held pts z x) => ?_) ?_ <;> [clear_value x; subst x])
        | clear_value x)
    | lift_lets
    | split

theorem settleSessions_held {s : State} (hS : Held pts z s) (hp : Sub [.serving, .vellum] pts := by exact Sub.up)
    : Held pts z (settleSessions s) := by
  unfold settleSessions
  iterate 45 all_goals try first
    | with_reducible assumption
    | with_reducible refine settlePark_held ?_
    | with_reducible refine settleUnpark_held ?_
    | with_reducible refine foldl_held (fun _ _ _ => ?_) ?_

theorem wakeStep_held {s : State} (hS : Held pts z s) (hp : Sub [.power] pts := by exact Sub.up) : Held pts z (wakeStep s) := by
  unfold wakeStep
  iterate 45 all_goals try first
    | with_reducible assumption
    | (intro x; have hx : Power := x; clear hx; subst x)
    | lift_lets
    | ((with_reducible refine held_set ?_ ?_); rotate_left; exact Sound.parts)

theorem resetGovernor_held {s : State} (hS : Held pts z s) (hp : Sub [.power, .thermal] pts := by exact Sub.up)
    : Held pts z (resetGovernor s) :=
  held_set hS (fun hh => ⟨hh.nvm, hh.vellum, hh.sram,
    ⟨hh.power.1, hh.power.1, (by decide : 1 ≤ 6), (by decide : 6 ≤ 14)⟩,
    ⟨hh.thermal.1, twf_tmap (fun _ (p : Pair) => ({ a := p.a, b := p.b, failedA := p.failedA, failedB := p.failedB } : Pair))
      hh.thermal.2⟩, hh.blotter, hh.events, hh.trust⟩)

theorem reportStops_held {s : State} (hS : Held pts z s)
    (hp : Sub [.nvm, .link, .mailbox, .blotter, .mgmt] pts := by exact Sub.up) : Held pts z (reportStops s) := by
  unfold reportStops
  iterate 45 all_goals try first
    | with_reducible assumption
    | with_reducible refine writeStopEntry_held ?_
    | with_reducible refine foldl_held (fun _ _ _ => ?_) ?_
    | (intro x; first
        | (refine (fun (hx : Held pts z x) => ?_) ?_ <;> [clear_value x; subst x])
        | (have hx : Nvm := x; clear hx; subst x)
        | clear_value x)
    | lift_lets
    | ((with_reducible refine held_set ?_ ?_); rotate_left
       exact fun hh => ⟨nvmSound_reported hh.nvm rfl, hh.vellum, hh.sram, hh.power,
         hh.thermal, hh.blotter, hh.events, hh.trust⟩)

theorem reportStraps_held {s : State} (hS : Held pts z s)
    (hp : Sub [.nvm, .link, .mailbox, .blotter, .mgmt] pts := by exact Sub.up) : Held pts z (reportStraps s) := by
  unfold reportStraps
  iterate 45 all_goals try first
    | with_reducible assumption
    | with_reducible refine note_held ?_
    | (intro x; have hx : Nvm := x; clear hx; subst x)
    | lift_lets
    | split
    | ((with_reducible refine held_set ?_ ?_); rotate_left; exact Sound.parts)

theorem raiseCart_held {s : State} {c : Nat} (hS : Held pts z s) (hp : Sub [.board] pts := by exact Sub.up)
    : Held pts z (raiseCart s c) := by
  unfold raiseCart
  iterate 45 all_goals try first
    | with_reducible assumption
    | with_reducible refine putCart_held ?_

theorem abandonHandover_held {s : State} (hS : Held pts z s)
    (hp : Sub [.link, .mailbox, .power, .blotter, .mgmt, .fw] pts := by exact Sub.up) : Held pts z (abandonHandover s) := by
  unfold abandonHandover
  iterate 45 all_goals try first
    | with_reducible assumption
    | with_reducible refine completeStarted_held ?_
    | (intro x; clear_value x)
    | lift_lets
    | split
    | with_reducible refine held_free ?_

end Sys2Proof.Laws
end

