-- ==== Sys2Proof/Laws/KeepTrustOps.lean ====
section
/-! SUPPORT. What the functions of Machine/TrustOps.lean do, as Laws/Kept.lean says it: the parts that each one may change. -/

namespace Sys2Proof.Laws

set_option Elab.async false

open Sys2Proof Sys2Proof.Machine

variable {pts : List Part} {z : State}

theorem extend_held {s : State} {register kind version svn : Nat} {digest : Digest} (hS : Held pts z s)
    (hp : Sub [.trust] pts := by exact Sub.up) : Held pts z (extend s register kind version svn digest) := by
  unfold extend
  dsimp only
  refine held_set hS (fun hh => ⟨hh.nvm, hh.vellum, hh.sram, hh.power, hh.thermal,
    hh.blotter, hh.events, ⟨?_, ?_⟩⟩)
  · rw [List.length_set]
    exact hh.trust.1
  · show (if 4096 ≤ s.trust.log.length then s.trust.log else s.trust.log ++ [_]).length ≤ 4096
    split
    · exact hh.trust.2
    · rw [List.length_append, List.length_singleton]
      omega

theorem raiseFloor_held {s : State} {i : FwImage} (hS : Held pts z s) (hp : Sub [.nvm] pts := by exact Sub.up)
    : Held pts z (raiseFloor s i) := by
  unfold raiseFloor
  iterate 45 all_goals try first
    | with_reducible assumption
    | (intro x; have hx : Nvm := x; clear hx; subst x)
    | lift_lets
    | split
    | ((with_reducible refine held_set ?_ ?_); rotate_left; exact Sound.parts)

theorem measureBoot_held {s : State} {rom : Digest} {b : FlashBank} {recovery : Bool} (hS : Held pts z s)
    (hp : Sub [.trust] pts := by exact Sub.up) : Held pts z (measureBoot s rom b recovery) := by
  unfold measureBoot
  iterate 45 all_goals try first
    | with_reducible assumption
    | with_reducible refine extend_held ?_

theorem endSealedTurn_held {s : State} {id : Nat} (hS : Held pts z s)
    (hp : Sub [.link, .mailbox, .serving, .images, .vellum, .power, .blotter, .mgmt, .trust] pts := by exact Sub.up)
    : Held pts z (endSealedTurn s id) := by
  unfold endSealedTurn
  iterate 45 all_goals try first
    | with_reducible assumption
    | with_reducible refine putQueue_held ?_
    | with_reducible refine modTurn_held ?_
    | with_reducible refine discardRows_held ?_
    | with_reducible refine pumpAll_held ?_
    | with_reducible refine unqueue_held ?_
    | (intro x; first
        | (refine (fun (hx : Held pts z x) => ?_) ?_ <;> [clear_value x; subst x])
        | clear_value x)
    | lift_lets
    | split

theorem zeroSession_held {s : State} {id : Nat} (hS : Held pts z s)
    (hp : Sub [.link, .mailbox, .serving, .images, .vellum, .power, .blotter, .mgmt, .trust] pts := by exact Sub.up)
    : Held pts z (zeroSession s id) := by
  unfold zeroSession
  iterate 45 all_goals try first
    | with_reducible assumption
    | with_reducible refine completeStarted_held ?_
    | with_reducible refine modSession_held ?_
    | with_reducible refine finishClose_held ?_
    | with_reducible refine endSealedTurn_held ?_

theorem zeroPartition_held {s : State} {n : Nat} (hS : Held pts z s)
    (hp : Sub [.link, .mailbox, .serving, .images, .vellum, .power, .blotter, .mgmt, .trust] pts := by exact Sub.up)
    : Held pts z (zeroPartition s n) := by
  unfold zeroPartition
  iterate 45 all_goals try first
    | with_reducible assumption
    | with_reducible refine putPartition_held ?_
    | with_reducible refine completeStarted_held ?_
    | with_reducible refine discardRows_held ?_
    | with_reducible refine releasePfx_held ?_
    | with_reducible refine unqueue_held ?_
    | with_reducible refine releaseAdapters_held ?_
    | with_reducible refine zeroSession_held ?_
    | with_reducible refine foldl_held (fun _ _ _ => ?_) ?_

theorem dropSealedRows_held {s : State} (hS : Held pts z s)
    (hp : Sub [.link, .mailbox, .serving, .images, .vellum, .power, .blotter, .mgmt, .trust] pts := by exact Sub.up)
    : Held pts z (dropSealedRows s) := by
  unfold dropSealedRows
  iterate 45 all_goals try first
    | with_reducible assumption
    | with_reducible refine freeWaiting_held ?_
    | with_reducible refine finishClose_held ?_
    | with_reducible refine foldl_held (fun _ _ _ => ?_) ?_
    | (intro x; clear_value x)
    | lift_lets
    | with_reducible refine held_free ?_

theorem zeroCopy_held {s : State} {n : Nat} (hS : Held pts z s)
    (hp : Sub [.link, .mailbox, .serving, .images, .vellum, .fabric, .power, .blotter, .mgmt,
      .trust] pts := by exact Sub.up)
    : Held pts z (zeroCopy s n) := by
  unfold zeroCopy
  iterate 45 all_goals try first
    | with_reducible assumption
    | with_reducible refine clearCluster_held ?_
    | with_reducible refine dropHalves_held ?_
    | with_reducible refine leaveFlight_held ?_
    | with_reducible refine dropFrames_held ?_
    | with_reducible refine dropPfxRows_held ?_
    | with_reducible refine foldl_held (fun _ _ _ => ?_) ?_
    | (intro x; first
        | (refine (fun (hx : Held pts z x) => ?_) ?_ <;> [clear_value x; subst x])
        | clear_value x)
    | lift_lets

theorem zeroSlot_held {s : State} {n : Nat} (hS : Held pts z s)
    (hp : Sub [.link, .mailbox, .serving, .images, .vellum, .fabric, .power, .blotter, .mgmt,
      .trust] pts := by exact Sub.up)
    : Held pts z (zeroSlot s n) := by
  unfold zeroSlot
  iterate 45 all_goals try first
    | with_reducible assumption
    | with_reducible refine zeroCopy_held ?_
    | with_reducible refine putSlot_held ?_
    | with_reducible refine completeStarted_held ?_
    | with_reducible refine endTurns_held ?_
    | with_reducible refine endExport_held ?_
    | (intro x; first
        | (refine (fun (hx : Held pts z x) => ?_) ?_ <;> [clear_value x; subst x])
        | clear_value x)
    | lift_lets
    | split
    | with_reducible refine held_free ?_

end Sys2Proof.Laws
end

