-- ==== Sys2Proof/Laws/KeepAdmin.lean ====
section
/-! SUPPORT. What the functions of Machine/Admin.lean do, as Laws/Kept.lean says it: the parts that each one may change. -/

namespace Sys2Proof.Laws

set_option Elab.async false

open Sys2Proof Sys2Proof.Machine

variable {pts : List Part} {z : State}

theorem execIdentify_held {h : Hdr} {s : State} (hS : Held pts z s)
    (hp : Sub [.now, .link, .mailbox, .blotter, .mgmt] pts := by exact Sub.up) : OutHeld pts z (execIdentify h s) := by
  unfold execIdentify
  iterate 45 all_goals try first
    | with_reducible refine outHeld_next ?_
    | with_reducible assumption
    | with_reducible refine complete_held ?_
    | with_reducible refine runCommand_held (fun _ _ _ => ?_) ?_

theorem resetMailbox_held {s : State} (hS : Held pts z s) (hp : Sub [.link, .mailbox] pts := by exact Sub.up)
    : Held pts z (resetMailbox s) := by
  unfold resetMailbox
  iterate 45 all_goals try first
    | with_reducible assumption
    | with_reducible refine putQueue_held ?_
    | with_reducible refine resetFn_held ?_
    | with_reducible refine foldl_held (fun _ _ _ => ?_) ?_
    | lift_lets
    | with_reducible refine held_free ?_

theorem dropLoading_held {s : State} {tenant : Nat} (hS : Held pts z s)
    (hp : Sub [.serving, .vellum] pts := by exact Sub.up) : Held pts z (dropLoading s tenant) := by
  unfold dropLoading
  iterate 45 all_goals try first
    | with_reducible assumption
    | with_reducible refine putTenant_held ?_
    | with_reducible refine releaseStore_held ?_

theorem resetModule_held {s : State} (hS : Held pts z s)
    (hp : Sub [.free, .board, .link, .mailbox, .serving, .images, .vellum, .fabric, .power, .thermal, .blotter, .mgmt,
      .trust, .fw] pts := by exact Sub.up)
    : Held pts z (resetModule s) := by
  unfold resetModule
  iterate 45 all_goals try first
    | with_reducible assumption
    | with_reducible refine dropTurns_held ?_
    | with_reducible refine endExport_held ?_
    | with_reducible refine revertCompat_held ?_
    | with_reducible refine clearFabric_held ?_
    | with_reducible refine abandonSteps_held ?_
    | with_reducible refine dropSramClears_held ?_
    | with_reducible refine emptyLoading_held ?_
    | with_reducible refine resetGovernor_held ?_
    | with_reducible refine resetMailbox_held ?_
    | with_reducible refine dropLoading_held ?_
    | with_reducible refine foldl_held (fun _ _ _ => ?_) ?_
    | (intro x; first
        | (refine (fun (hx : Held pts z x) => ?_) ?_ <;> [clear_value x; subst x])
        | (have hx : Vellum := x; clear hx; subst x)
        | clear_value x)
    | lift_lets
    | ((with_reducible refine held_set ?_ ?_); rotate_left; exact Sound.parts)

theorem haltModule_held {s : State} (hS : Held pts z s)
    (hp : Sub [.board, .link, .mailbox, .serving, .images, .vellum, .fabric, .power, .thermal, .blotter, .mgmt, .trust,
      .fw, .map] pts := by exact Sub.up)
    : Held pts z (haltModule s) := by
  unfold haltModule
  iterate 45 all_goals try first
    | with_reducible assumption
    | with_reducible refine putQueue_held ?_
    | with_reducible refine loseAll_held ?_

theorem execAdminReset_held {h : Hdr} {halt : Bool} {s : State} (hS : Held pts z s)
    (hp : Sub [.now, .free, .board, .link, .mailbox, .serving, .images, .vellum, .fabric, .power, .thermal, .blotter,
      .mgmt, .trust, .fw, .map] pts := by exact Sub.up)
    : OutHeld pts z (execAdminReset h halt s) := by
  unfold execAdminReset
  iterate 45 all_goals try first
    | with_reducible refine outHeld_next ?_
    | with_reducible assumption
    | with_reducible refine done_held ?_
    | with_reducible refine setPhase_held ?_
    | with_reducible refine resetModule_held ?_
    | with_reducible refine haltModule_held ?_
    | with_reducible refine runCommand_held (fun _ _ _ => ?_) ?_
    | (intro x; refine (fun (hx : Held pts z x) => ?_) ?_ <;> [clear_value x; subst x])
    | lift_lets
    | split

theorem execVellumLayout_held {h : Hdr} {dflt : Bool} {l : Layout} {s : State} (hS : Held pts z s)
    (hp : Sub [.now, .nvm, .link, .mailbox, .vellum, .blotter, .mgmt] pts := by exact Sub.up)
    : OutHeld pts z (execVellumLayout h dflt l s) := by
  unfold execVellumLayout
  iterate 45 all_goals try first
    | with_reducible refine outHeld_next ?_
    | with_reducible assumption
    | with_reducible refine complete_held ?_
    | with_reducible refine done_held ?_
    | with_reducible refine refuse_held ?_
    | with_reducible refine runCommand_held (fun _ _ _ => ?_) ?_
    | (intro x; first
        | (have hx : Vellum := x; clear hx; subst x)
        | (have hx : Nvm := x; clear hx; subst x)
        | clear_value x)
    | lift_lets
    | split
    | ((with_reducible refine held_set ?_ ?_); rotate_left; exact Sound.parts)

theorem execFwStage_held {h : Hdr} {image : FwImage} {s : State} (hS : Held pts z s)
    (hp : Sub [.now, .link, .mailbox, .blotter, .mgmt, .fw] pts := by exact Sub.up)
    : OutHeld pts z (execFwStage h image s) := by
  unfold execFwStage
  iterate 45 all_goals try first
    | with_reducible refine outHeld_next ?_
    | with_reducible assumption
    | with_reducible refine refuse_held ?_
    | with_reducible refine startLater_held ?_
    | with_reducible refine runCommand_held (fun _ _ _ => ?_) ?_
    | (intro x; clear_value x)
    | lift_lets
    | split
    | with_reducible refine held_free ?_

theorem execFwStageDone_held {t : Nat} {s : State} (hS : Held pts z s)
    (hp : Sub [.now, .link, .mailbox, .power, .blotter, .mgmt, .fw] pts := by exact Sub.up)
    : OutHeld pts z (execFwStageDone t s) := by
  unfold execFwStageDone
  iterate 45 all_goals try first
    | with_reducible refine outHeld_next ?_
    | with_reducible assumption
    | with_reducible refine advance_held ?_
    | with_reducible refine completeStarted_held ?_
    | (intro x; clear_value x)
    | lift_lets
    | split
    | with_reducible refine held_free ?_

theorem execFwHandover_held {h : Hdr} {s : State} (hS : Held pts z s)
    (hp : Sub [.now, .link, .mailbox, .blotter, .mgmt, .fw] pts := by exact Sub.up) : OutHeld pts z (execFwHandover h s) := by
  unfold execFwHandover
  iterate 45 all_goals try first
    | with_reducible refine outHeld_next ?_
    | with_reducible assumption
    | with_reducible refine refuse_held ?_
    | with_reducible refine startLater_held ?_
    | with_reducible refine runCommand_held (fun _ _ _ => ?_) ?_
    | (intro x; clear_value x)
    | lift_lets
    | split
    | with_reducible refine held_free ?_

theorem markCrossed_held {s : State} (hS : Held pts z s) (hp : Sub [.serving] pts := by exact Sub.up)
    : Held pts z (markCrossed s) := by
  unfold markCrossed
  iterate 45 all_goals try first
    | with_reducible assumption
    | with_reducible refine mapSessions_held ?_

theorem execHandoverExecute_held {t : Nat} {s : State} (hS : Held pts z s)
    (hp : Sub [.now, .link, .mailbox, .serving, .power, .blotter, .mgmt, .trust, .fw] pts := by exact Sub.up)
    : OutHeld pts z (execHandoverExecute t s) := by
  unfold execHandoverExecute
  iterate 45 all_goals try first
    | with_reducible refine outHeld_next ?_
    | with_reducible assumption
    | with_reducible refine advance_held ?_
    | with_reducible refine completeStarted_held ?_
    | with_reducible refine extend_held ?_
    | with_reducible refine markCrossed_held ?_
    | (intro x; first
        | (refine (fun (hx : Held pts z x) => ?_) ?_ <;> [clear_value x; subst x])
        | clear_value x)
    | lift_lets
    | split
    | with_reducible refine held_free ?_

theorem execHandoverTimeout_held {t : Nat} {s : State} (hS : Held pts z s)
    (hp : Sub [.now, .link, .mailbox, .serving, .power, .blotter, .mgmt, .fw] pts := by exact Sub.up)
    : OutHeld pts z (execHandoverTimeout t s) := by
  unfold execHandoverTimeout
  iterate 45 all_goals try first
    | with_reducible refine outHeld_next ?_
    | with_reducible assumption
    | with_reducible refine advance_held ?_
    | with_reducible refine note_held ?_
    | with_reducible refine completeStarted_held ?_
    | with_reducible refine markCrossed_held ?_
    | (intro x; first
        | (refine (fun (hx : Held pts z x) => ?_) ?_ <;> [clear_value x; subst x])
        | clear_value x)
    | lift_lets
    | split
    | with_reducible refine held_free ?_

theorem execFaultAck_held {h : Hdr} {s : State} (hS : Held pts z s)
    (hp : Sub [.now, .link, .mailbox, .blotter, .mgmt] pts := by exact Sub.up) : OutHeld pts z (execFaultAck h s) := by
  unfold execFaultAck
  iterate 45 all_goals try first
    | with_reducible refine outHeld_next ?_
    | with_reducible assumption
    | with_reducible refine complete_held ?_
    | with_reducible refine done_held ?_
    | with_reducible refine runCommand_held (fun _ _ _ => ?_) ?_
    | (intro x; have hx : Blotter := x; clear hx; subst x)
    | lift_lets
    | split
    | ((with_reducible refine held_set ?_ ?_); rotate_left
       exact fun hh => ⟨hh.nvm, hh.vellum, hh.sram, hh.power,
         hh.thermal, ⟨keepRing_le _, Nat.zero_le _, hh.blotter.2.2⟩, hh.events, hh.trust⟩)

end Sys2Proof.Laws
end

