-- ==== Sys2Proof/Laws/KeepHostLink.lean ====
section
/-! SUPPORT. What the functions of Machine/HostLink.lean do, as Laws/Kept.lean says it: the parts that each one may change. -/

namespace Sys2Proof.Laws

set_option Elab.async false

open Sys2Proof Sys2Proof.Machine

variable {pts : List Part} {z : State}

theorem trainLink_held {s : State} (hS : Held pts z s) (hp : Sub [.link, .mailbox] pts := by exact Sub.up)
    : Held pts z (trainLink s) := by
  unfold trainLink
  iterate 45 all_goals try first
    | with_reducible assumption
    | with_reducible refine endRrs_held ?_
    | (intro x; clear_value x)
    | lift_lets
    | with_reducible refine held_free ?_

theorem execPerstNAssert_held {t : Nat} {s : State} (hS : Held pts z s)
    (hp : Sub [.now, .board, .link, .mailbox, .serving, .images] pts := by exact Sub.up)
    : OutHeld pts z (execPerstNAssert t s) := by
  unfold execPerstNAssert
  iterate 45 all_goals try first
    | with_reducible refine outHeld_next ?_
    | with_reducible assumption
    | with_reducible refine advance_held ?_
    | with_reducible refine linkReset_held ?_
    | (intro x; clear_value x)
    | lift_lets
    | with_reducible refine held_free ?_

theorem execPerstNDeassert_held {t : Met Nat Bool} {s : State} (hS : Held pts z s)
    (hp : Sub [.now, .board, .link, .mailbox] pts := by exact Sub.up) : OutHeld pts z (execPerstNDeassert t s) := by
  unfold execPerstNDeassert
  iterate 45 all_goals try first
    | with_reducible refine outHeld_next ?_
    | with_reducible assumption
    | with_reducible refine advance_held ?_
    | with_reducible refine trainLink_held ?_
    | (intro x; subst x)
    | lift_lets
    | split
    | with_reducible refine held_free ?_

theorem execLinkDown_held {t : Nat} {s : State} (hS : Held pts z s)
    (hp : Sub [.now, .link, .mailbox, .serving, .images] pts := by exact Sub.up) : OutHeld pts z (execLinkDown t s) := by
  unfold execLinkDown
  iterate 45 all_goals try first
    | with_reducible refine outHeld_next ?_
    | with_reducible assumption
    | with_reducible refine advance_held ?_
    | with_reducible refine linkReset_held ?_

theorem execLinkUp_held {t : Met Nat Bool} {s : State} (hS : Held pts z s)
    (hp : Sub [.now, .board, .link, .mailbox] pts := by exact Sub.up) : OutHeld pts z (execLinkUp t s) := by
  unfold execLinkUp
  iterate 45 all_goals try first
    | with_reducible refine outHeld_next ?_
    | with_reducible assumption
    | with_reducible refine advance_held ?_
    | with_reducible refine trainLink_held ?_
    | (intro x; subst x)
    | lift_lets
    | split
    | with_reducible refine held_free ?_

theorem execLinkRetrain_held {t : Nat} {width : Nat} {rate : Nat} {s : State} (hS : Held pts z s)
    (hp : Sub [.now, .link, .serving] pts := by exact Sub.up) : OutHeld pts z (execLinkRetrain t width rate s) := by
  unfold execLinkRetrain
  iterate 45 all_goals try first
    | with_reducible refine outHeld_next ?_
    | with_reducible assumption
    | with_reducible refine advance_held ?_
    | with_reducible refine mapSessions_held ?_
    | (intro x; first
        | (refine (fun (hx : Held pts z x) => ?_) ?_ <;> [clear_value x; subst x])
        | clear_value x)
    | lift_lets
    | split
    | with_reducible refine held_free ?_

theorem execVfFlr_held {t : Nat} {vf : Nat} {s : State} (hS : Held pts z s)
    (hp : Sub [.now, .link, .mailbox, .serving, .images, .vellum, .power, .blotter, .mgmt, .trust] pts := by exact Sub.up)
    : OutHeld pts z (execVfFlr t vf s) := by
  unfold execVfFlr
  iterate 45 all_goals try first
    | with_reducible refine outHeld_next ?_
    | with_reducible assumption
    | with_reducible refine advance_held ?_
    | with_reducible refine flrVf_held ?_
    | lift_lets
    | split

theorem execPfFlr_held {t : Nat} {s : State} (hS : Held pts z s)
    (hp : Sub [.now, .link, .mailbox, .serving, .images, .vellum, .power, .blotter, .mgmt, .trust] pts := by exact Sub.up)
    : OutHeld pts z (execPfFlr t s) := by
  unfold execPfFlr
  iterate 45 all_goals try first
    | with_reducible refine outHeld_next ?_
    | with_reducible assumption
    | with_reducible refine advance_held ?_
    | with_reducible refine flrPf_held ?_
    | lift_lets
    | split

theorem execVfEnableClear_held {t : Nat} {s : State} (hS : Held pts z s)
    (hp : Sub [.now, .link, .mailbox, .serving, .images, .vellum, .power, .blotter, .mgmt, .trust] pts := by exact Sub.up)
    : OutHeld pts z (execVfEnableClear t s) := by
  unfold execVfEnableClear
  iterate 45 all_goals try first
    | with_reducible refine outHeld_next ?_
    | with_reducible assumption
    | with_reducible refine advance_held ?_
    | with_reducible refine clearVfs_held ?_

theorem execVfEnableSet_held {numVfs : Nat} {s : State} (hS : Held pts z s)
    (hp : Sub [.link, .mailbox] pts := by exact Sub.up) : OutHeld pts z (execVfEnableSet numVfs s) := by
  unfold execVfEnableSet
  iterate 45 all_goals try first
    | with_reducible refine outHeld_next ?_
    | with_reducible assumption
    | with_reducible refine resetFn_held ?_
    | with_reducible refine foldl_held (fun _ _ _ => ?_) ?_
    | (intro x; first
        | (refine (fun (hx : Held pts z x) => ?_) ?_ <;> [clear_value x; subst x])
        | clear_value x)
    | lift_lets
    | split
    | with_reducible refine held_free ?_

theorem execD3hotEntry_held {t : Nat} {func : Nat} {s : State} (hS : Held pts z s)
    (hp : Sub [.now, .link] pts := by exact Sub.up) : OutHeld pts z (execD3hotEntry t func s) := by
  unfold execD3hotEntry
  iterate 45 all_goals try first
    | with_reducible refine outHeld_next ?_
    | with_reducible assumption
    | with_reducible refine putFn_held ?_
    | with_reducible refine advance_held ?_
    | (intro x; clear_value x)
    | lift_lets
    | split

theorem execD0Return_held {t : Nat} {func : Nat} {s : State} (hS : Held pts z s)
    (hp : Sub [.now, .link] pts := by exact Sub.up) : OutHeld pts z (execD0Return t func s) := by
  unfold execD0Return
  iterate 45 all_goals try first
    | with_reducible refine outHeld_next ?_
    | with_reducible assumption
    | with_reducible refine putFn_held ?_
    | with_reducible refine advance_held ?_
    | (intro x; clear_value x)
    | lift_lets
    | split

theorem setPtm_held {s : State} {p : Ptm} (hS : Held pts z s) (hp : Sub [.link] pts := by exact Sub.up)
    : Held pts z (setPtm s p) := by
  unfold setPtm
  iterate 45 all_goals try first
    | with_reducible assumption
    | (intro x; clear_value x)
    | lift_lets
    | with_reducible refine held_free ?_

theorem execPtmEnable_held {t : Nat} {s : State} (hS : Held pts z s) (hp : Sub [.now, .link] pts := by exact Sub.up)
    : OutHeld pts z (execPtmEnable t s) := by
  unfold execPtmEnable
  iterate 45 all_goals try first
    | with_reducible refine outHeld_next ?_
    | with_reducible assumption
    | with_reducible refine advance_held ?_
    | with_reducible refine setPtm_held ?_
    | (intro x; clear_value x)
    | lift_lets
    | split

theorem execPtmDisable_held {t : Nat} {s : State} (hS : Held pts z s) (hp : Sub [.now, .link] pts := by exact Sub.up)
    : OutHeld pts z (execPtmDisable t s) := by
  unfold execPtmDisable
  iterate 45 all_goals try first
    | with_reducible refine outHeld_next ?_
    | with_reducible assumption
    | with_reducible refine advance_held ?_
    | with_reducible refine setPtm_held ?_

theorem now_held {s : State} {k : Nat} (hS : Held pts z s) (hp : Sub [.now] pts := by exact Sub.up) :
    Held pts z { s with now := max s.now k } :=
  advance_held hS

theorem execPtmExchange_held {t : Nat} {offset : Int} {success : Bool} {s : State} (hS : Held pts z s)
    (hp : Sub [.now, .link, .mailbox] pts := by exact Sub.up) : OutHeld pts z (execPtmExchange t offset success s) := by
  unfold execPtmExchange
  iterate 45 all_goals try first
    | with_reducible refine outHeld_next ?_
    | with_reducible assumption
    | with_reducible refine advance_held ?_
    | with_reducible refine postEvent_held ?_
    | with_reducible refine setPtm_held ?_
    | (intro x; first
        | (refine (fun (hx : Held pts z x) => ?_) ?_ <;> [clear_value x; subst x])
        | clear_value x)
    | lift_lets
    | split
    | refine now_held ?_

theorem execPtmLapse_held {t : Nat} {s : State} (hS : Held pts z s)
    (hp : Sub [.now, .link, .mailbox, .serving] pts := by exact Sub.up) : OutHeld pts z (execPtmLapse t s) := by
  unfold execPtmLapse
  iterate 45 all_goals try first
    | with_reducible refine outHeld_next ?_
    | with_reducible assumption
    | with_reducible refine advance_held ?_
    | with_reducible refine postEvent_held ?_
    | with_reducible refine forfeitAll_held ?_
    | with_reducible refine setPtm_held ?_
    | lift_lets
    | split

theorem execIdeKm_held {stream : Nat} {secured : Bool} {s : State} (hS : Held pts z s)
    (hp : Sub [.link] pts := by exact Sub.up) : OutHeld pts z (execIdeKm stream secured s) := by
  unfold execIdeKm
  iterate 45 all_goals try first
    | with_reducible refine outHeld_next ?_
    | with_reducible assumption
    | with_reducible refine putFn_held ?_
    | (intro x; clear_value x)
    | lift_lets
    | split
    | with_reducible refine held_free ?_

theorem execIdeIntegrityFailure_held {t : Nat} {stream : Nat} {s : State} (hS : Held pts z s)
    (hp : Sub [.now, .link, .mailbox, .serving, .images, .vellum, .power, .blotter, .mgmt, .trust] pts := by exact Sub.up)
    : OutHeld pts z (execIdeIntegrityFailure t stream s) := by
  unfold execIdeIntegrityFailure
  iterate 45 all_goals try first
    | with_reducible refine outHeld_next ?_
    | with_reducible assumption
    | with_reducible refine putFn_held ?_
    | with_reducible refine advance_held ?_
    | with_reducible refine tdiError_held ?_
    | (intro x; first
        | (refine (fun (hx : Held pts z x) => ?_) ?_ <;> [clear_value x; subst x])
        | clear_value x)
    | lift_lets
    | split
    | with_reducible refine held_free ?_

theorem execLockInterface_held {vf : Met Nat Nat} {s : State} (hS : Held pts z s)
    (hp : Sub [.link] pts := by exact Sub.up) : OutHeld pts z (execLockInterface vf s) := by
  unfold execLockInterface
  iterate 45 all_goals try first
    | with_reducible refine outHeld_next ?_
    | with_reducible assumption
    | with_reducible refine putFn_held ?_
    | lift_lets
    | split

theorem execStartInterface_held {vf : Nat} {s : State} (hS : Held pts z s) (hp : Sub [.link] pts := by exact Sub.up)
    : OutHeld pts z (execStartInterface vf s) := by
  unfold execStartInterface
  iterate 45 all_goals try first
    | with_reducible refine outHeld_next ?_
    | with_reducible assumption
    | with_reducible refine putFn_held ?_
    | lift_lets
    | split

theorem execStopInterface_held {vf : Nat} {s : State} (hS : Held pts z s) (hp : Sub [.link] pts := by exact Sub.up)
    : OutHeld pts z (execStopInterface vf s) := by
  unfold execStopInterface
  iterate 45 all_goals try first
    | with_reducible refine outHeld_next ?_
    | with_reducible assumption
    | with_reducible refine putFn_held ?_
    | lift_lets
    | split

end Sys2Proof.Laws
end

