-- ==== Sys2Proof/Laws/KeepStartup.lean ====
section
/-! SUPPORT. What the functions of Machine/Startup.lean do, as Laws/Kept.lean says it: the parts that each one may change. -/

namespace Sys2Proof.Laws

set_option Elab.async false

open Sys2Proof Sys2Proof.Machine

variable {pts : List Part} {z : State}

theorem startFromRise_held {s : State} (hS : Held pts z s) (hp : Sub [.board] pts := by exact Sub.up)
    : Held pts z (startFromRise s) := by
  unfold startFromRise
  iterate 45 all_goals try first
    | with_reducible assumption
    | with_reducible refine setPhase_held ?_
    | with_reducible refine beginStart_held ?_
    | (intro x; first
        | (refine (fun (hx : Held pts z x) => ?_) ?_ <;> [clear_value x; subst x])
        | clear_value x)
    | lift_lets
    | split
    | with_reducible refine held_free ?_

theorem execModEnRise_held {t : Met Nat (Nat × Nat)} {s : State} (hS : Held pts z s)
    (hp : Sub [.now, .board] pts := by exact Sub.up) : OutHeld pts z (execModEnRise t s) := by
  unfold execModEnRise
  iterate 45 all_goals try first
    | with_reducible refine outHeld_next ?_
    | with_reducible assumption
    | with_reducible refine advance_held ?_
    | with_reducible refine startFromRise_held ?_
    | (intro x; first
        | (refine (fun (hx : Held pts z x) => ?_) ?_ <;> [clear_value x; subst x])
        | clear_value x)
    | lift_lets
    | split
    | with_reducible refine held_free ?_

theorem execDischargeDelayEnd_held {t : Nat} {s : State} (hS : Held pts z s)
    (hp : Sub [.now, .board] pts := by exact Sub.up) : OutHeld pts z (execDischargeDelayEnd t s) := by
  unfold execDischargeDelayEnd
  iterate 45 all_goals try first
    | with_reducible refine outHeld_next ?_
    | with_reducible assumption
    | with_reducible refine advance_held ?_
    | with_reducible refine beginStart_held ?_
    | lift_lets
    | split

theorem powerDown_held {s : State} (hS : Held pts z s)
    (hp : Sub [.board, .link, .mailbox, .serving, .images, .vellum, .fabric, .power, .thermal, .blotter, .mgmt, .trust,
      .fw, .map] pts := by exact Sub.up)
    : Held pts z (powerDown s) := by
  unfold powerDown
  iterate 45 all_goals try first
    | with_reducible assumption
    | with_reducible refine loseAll_held ?_
    | (intro x; first
        | (refine (fun (hx : Held pts z x) => ?_) ?_ <;> [clear_value x; subst x])
        | clear_value x)
    | lift_lets
    | with_reducible refine held_free ?_

theorem recordBeforeFall_held {s : State} {also : SameSample} (hS : Held pts z s)
    (hp : Sub [.board, .nvm] pts := by exact Sub.up) : Held pts z (recordBeforeFall s also) := by
  unfold recordBeforeFall
  iterate 45 all_goals try first
    | with_reducible assumption
    | with_reducible refine stopOnce_held ?_
    | (intro x; clear_value x)
    | lift_lets
    | split

theorem execModEnFall_held {t : Nat} {also : SameSample} {s : State} (hS : Held pts z s)
    (hp : Sub [.now, .board, .nvm, .link, .mailbox, .serving, .images, .vellum, .fabric, .power, .thermal, .blotter,
      .mgmt, .trust, .fw, .map] pts := by exact Sub.up)
    : OutHeld pts z (execModEnFall t also s) := by
  unfold execModEnFall
  iterate 45 all_goals try first
    | with_reducible refine outHeld_next ?_
    | with_reducible assumption
    | with_reducible refine advance_held ?_
    | with_reducible refine powerDown_held ?_
    | with_reducible refine recordBeforeFall_held ?_
    | lift_lets
    | split

theorem execStrapSample_held {t : Nat} {s4 : Nat} {s5 : Nat} {s6 : Nat} {s : State} (hS : Held pts z s)
    (hp : Sub [.now, .board, .nvm] pts := by exact Sub.up) : OutHeld pts z (execStrapSample t s4 s5 s6 s) := by
  unfold execStrapSample
  iterate 45 all_goals try first
    | with_reducible refine outHeld_next ?_
    | with_reducible assumption
    | with_reducible refine advance_held ?_
    | with_reducible refine holdFault_held ?_
    | with_reducible refine setPhase_held ?_
    | with_reducible refine stopOnce_held ?_
    | (intro x; first
        | (refine (fun (hx : Held pts z x) => ?_) ?_ <;> [clear_value x; subst x])
        | (have hx : Nvm := x; clear hx; subst x)
        | clear_value x)
    | lift_lets
    | split
    | ((with_reducible refine held_set ?_ ?_); rotate_left; exact Sound.parts)

theorem execFlowLoss_held {t : Nat} {also : SameSample} {s : State} (hS : Held pts z s)
    (hp : Sub [.now, .board, .nvm, .link, .mailbox, .serving, .images, .vellum, .fabric, .power, .thermal, .blotter,
      .mgmt, .trust, .fw, .map] pts := by exact Sub.up)
    : OutHeld pts z (execFlowLoss t also s) := by
  unfold execFlowLoss
  iterate 45 all_goals try first
    | with_reducible refine outHeld_next ?_
    | with_reducible assumption
    | with_reducible refine advance_held ?_
    | with_reducible refine loseAll_held ?_
    | with_reducible refine holdFault_held ?_
    | with_reducible refine stopOnce_held ?_
    | lift_lets
    | split
    | with_reducible refine held_free ?_

theorem execFlowRestored_held {t : Nat} {s : State} (hS : Held pts z s) (hp : Sub [.now, .board] pts := by exact Sub.up)
    : OutHeld pts z (execFlowRestored t s) := by
  unfold execFlowRestored
  iterate 45 all_goals try first
    | with_reducible refine outHeld_next ?_
    | with_reducible assumption
    | with_reducible refine advance_held ?_
    | with_reducible refine holdFault_held ?_
    | (intro x; clear_value x)
    | lift_lets
    | split
    | with_reducible refine held_free ?_

theorem putFeed_held {s : State} {i : Nat} {f : Feed} (hS : Held pts z s) (hp : Sub [.board] pts := by exact Sub.up)
    : Held pts z (putFeed s i f) := by
  unfold putFeed
  iterate 45 all_goals try first
    | with_reducible assumption
    | (intro x; clear_value x)
    | lift_lets
    | split
    | with_reducible refine held_free ?_

theorem judgeFeeds_held {s : State} (hS : Held pts z s) (hp : Sub [.blotter] pts := by exact Sub.up)
    : Held pts z (judgeFeeds s) := by
  unfold judgeFeeds
  iterate 45 all_goals try first
    | with_reducible assumption
    | with_reducible refine endWarning_held ?_
    | split

theorem warnFeed_held {s : State} {feed : Nat} {volts : Nat} (hS : Held pts z s)
    (hp : Sub [.board, .link, .mailbox, .blotter, .mgmt] pts := by exact Sub.up) : Held pts z (warnFeed s feed volts) := by
  unfold warnFeed
  iterate 45 all_goals try first
    | with_reducible assumption
    | with_reducible refine note_held ?_
    | with_reducible refine warn_held ?_
    | split

theorem warnFeeds_held {s : State} (hS : Held pts z s)
    (hp : Sub [.board, .link, .mailbox, .blotter, .mgmt] pts := by exact Sub.up) : Held pts z (warnFeeds s) := by
  unfold warnFeeds
  dsimp only
  iterate 45 all_goals try first
    | with_reducible assumption
    | with_reducible refine warnFeed_held ?_
    | split

theorem reportPhases_held {s : State} (hS : Held pts z s)
    (hp : Sub [.board, .link, .mailbox, .blotter, .mgmt] pts := by exact Sub.up) : Held pts z (reportPhases s) := by
  unfold reportPhases
  iterate 45 all_goals try first
    | with_reducible assumption
    | with_reducible refine note_held ?_
    | with_reducible refine warn_held ?_
    | with_reducible refine foldl_held (fun _ _ _ => ?_) ?_
    | lift_lets
    | split

theorem execFeedInUse_held {t : Nat} {feed : Nat} {volts : Nat} {s : State} (hS : Held pts z s)
    (hp : Sub [.now, .board, .blotter] pts := by exact Sub.up) : OutHeld pts z (execFeedInUse t feed volts s) := by
  unfold execFeedInUse
  iterate 45 all_goals try first
    | with_reducible refine outHeld_next ?_
    | with_reducible assumption
    | with_reducible refine advance_held ?_
    | with_reducible refine startFromRise_held ?_
    | with_reducible refine putFeed_held ?_
    | with_reducible refine judgeFeeds_held ?_
    | (intro x; first
        | (refine (fun (hx : Held pts z x) => ?_) ?_ <;> [clear_value x; subst x])
        | clear_value x)
    | lift_lets
    | split
    | with_reducible refine held_free ?_

theorem powerLoss_held {s : State} {also : SameSample} (hS : Held pts z s)
    (hp : Sub [.board, .nvm, .link, .mailbox, .serving, .images, .vellum, .fabric, .power, .thermal, .blotter, .mgmt,
      .trust, .fw, .map] pts := by exact Sub.up)
    : Held pts z (powerLoss s also) := by
  unfold powerLoss
  iterate 45 all_goals try first
    | with_reducible assumption
    | with_reducible refine loseAll_held ?_
    | with_reducible refine stopOnce_held ?_
    | (intro x; first
        | (refine (fun (hx : Held pts z x) => ?_) ?_ <;> [clear_value x; subst x])
        | clear_value x)
    | lift_lets
    | split
    | with_reducible refine held_free ?_

theorem execFeedLost_held {t : Nat} {feed : Nat} {volts : Nat} {also : SameSample} {s : State} (hS : Held pts z s)
    (hp : Sub [.now, .board, .nvm, .link, .mailbox, .serving, .images, .vellum, .fabric, .power, .thermal, .blotter,
      .mgmt, .trust, .fw, .map] pts := by exact Sub.up)
    : OutHeld pts z (execFeedLost t feed volts also s) := by
  unfold execFeedLost
  iterate 45 all_goals try first
    | with_reducible refine outHeld_next ?_
    | with_reducible assumption
    | with_reducible refine advance_held ?_
    | with_reducible refine putFeed_held ?_
    | with_reducible refine warnFeed_held ?_
    | with_reducible refine powerLoss_held ?_
    | (intro x; refine (fun (hx : Held pts z x) => ?_) ?_ <;> [clear_value x; subst x])
    | lift_lets
    | split

theorem execFeedWarning_held {t : Nat} {feed : Nat} {volts : Nat} {s : State} (hS : Held pts z s)
    (hp : Sub [.now, .board, .link, .mailbox, .blotter, .mgmt] pts := by exact Sub.up)
    : OutHeld pts z (execFeedWarning t feed volts s) := by
  unfold execFeedWarning
  iterate 45 all_goals try first
    | with_reducible refine outHeld_next ?_
    | with_reducible assumption
    | with_reducible refine advance_held ?_
    | with_reducible refine putFeed_held ?_
    | with_reducible refine warnFeed_held ?_
    | (intro x; clear_value x)
    | lift_lets
    | split

theorem execFeedWaitTimeout_held {t : Nat} {s : State} (hS : Held pts z s)
    (hp : Sub [.now, .board, .nvm] pts := by exact Sub.up) : OutHeld pts z (execFeedWaitTimeout t s) := by
  unfold execFeedWaitTimeout
  iterate 45 all_goals try first
    | with_reducible refine outHeld_next ?_
    | with_reducible assumption
    | with_reducible refine advance_held ?_
    | with_reducible refine stopOnce_held ?_
    | (intro x; first
        | (refine (fun (hx : Held pts z x) => ?_) ?_ <;> [clear_value x; subst x])
        | clear_value x)
    | lift_lets
    | split
    | with_reducible refine held_free ?_

theorem execRailWaves_held {t : Nat} {s : State} (hS : Held pts z s) (hp : Sub [.now, .board] pts := by exact Sub.up)
    : OutHeld pts z (execRailWaves t s) := by
  unfold execRailWaves
  iterate 45 all_goals try first
    | with_reducible refine outHeld_next ?_
    | with_reducible assumption
    | with_reducible refine advance_held ?_
    | with_reducible refine raiseCart_held ?_
    | with_reducible refine foldl_held (fun _ _ _ => ?_) ?_
    | (intro x; first
        | (refine (fun (hx : Held pts z x) => ?_) ?_ <;> [clear_value x; subst x])
        | clear_value x)
    | lift_lets
    | split
    | with_reducible refine held_free ?_

theorem bootFrom_held {s : State} {rom : Digest} {b : FlashBank} {recovery : Bool} (hS : Held pts z s)
    (hp : Sub [.board, .nvm, .link, .mailbox, .blotter, .mgmt, .trust, .fw] pts := by exact Sub.up)
    : Held pts z (bootFrom s rom b recovery) := by
  unfold bootFrom
  iterate 45 all_goals try first
    | with_reducible assumption
    | with_reducible refine reportStops_held ?_
    | with_reducible refine reportStraps_held ?_
    | with_reducible refine raiseFloor_held ?_
    | with_reducible refine measureBoot_held ?_
    | with_reducible refine trainLink_held ?_
    | with_reducible refine warnFeeds_held ?_
    | with_reducible refine reportPhases_held ?_
    | with_reducible refine foldl_held (fun _ _ _ => ?_) ?_
    | (intro x; first
        | (refine (fun (hx : Held pts z x) => ?_) ?_ <;> [clear_value x; subst x])
        | (have hx : Trust := x; clear hx; subst x)
        | clear_value x)
    | lift_lets
    | split
    | ((with_reducible refine held_set ?_ ?_); rotate_left; exact Sound.parts)

theorem damageStops_held {s : State} {bad : List (Nat × Nat)} (hS : Held pts z s)
    (hp : Sub [.nvm] pts := by exact Sub.up) : Held pts z (damageStops s bad) :=
  held_set hS fun hh => ⟨⟨by rw [List.length_map]; exact hh.nvm.1, List.pairwise_map.2 (hh.nvm.2.1.imp fun h => h),
      by
        intro r hr
        obtain ⟨q, hq, rfl⟩ := List.mem_map.1 hr
        exact hh.nvm.2.2.1 q hq, hh.nvm.2.2.2⟩,
    hh.vellum, hh.sram, hh.power, hh.thermal, hh.blotter, hh.events, hh.trust⟩

theorem execBoot_held {t : Met Nat (Bool × List (Nat × Nat))} {root : RootIn} {rom : Digest} {primary : FlashBank} {recovery : FlashBank}
    {s : State} (hS : Held pts z s)
    (hp : Sub [.now, .board, .nvm, .link, .mailbox, .blotter, .mgmt, .trust, .fw] pts := by exact Sub.up)
    : OutHeld pts z (execBoot t root rom primary recovery s) := by
  unfold execBoot
  iterate 45 all_goals try first
    | with_reducible refine outHeld_next ?_
    | with_reducible assumption
    | with_reducible refine advance_held ?_
    | with_reducible refine holdFault_held ?_
    | with_reducible refine setPhase_held ?_
    | with_reducible refine damageStops_held ?_
    | with_reducible refine bootFrom_held ?_
    | (intro x; first
        | (refine (fun (hx : Held pts z x) => ?_) ?_ <;> [clear_value x; subst x])
        | (have hx : Trust := x; clear hx; subst x)
        | clear_value x)
    | lift_lets
    | split
    | ((with_reducible refine held_set ?_ ?_); rotate_left; exact Sound.parts)

theorem markSensors_held {s : State} (hS : Held pts z s) (hp : Sub [.thermal] pts := by exact Sub.up)
    : Held pts z (markSensors s) := by
  unfold markSensors
  iterate 45 all_goals try first
    | with_reducible assumption
    | with_reducible refine putPair_held ?_
    | with_reducible refine foldl_held (fun _ _ _ => ?_) ?_

theorem foundSegments_held {s : State} {x : Nat × Nat} (hS : Held pts z s)
    (hp : Sub [.nvm, .link, .mailbox, .blotter, .mgmt] pts := by exact Sub.up) : Held pts z (foundSegments s x) := by
  unfold foundSegments
  iterate 45 all_goals try first
    | with_reducible assumption
    | with_reducible refine note_held ?_
    | (intro x; first
        | (have hx : Nvm := x; clear hx; subst x)
        | clear_value x)
    | lift_lets
    | split
    | ((with_reducible refine held_set ?_ ?_); rotate_left; exact Sound.parts)

theorem judgeCluster_held {failed : List Nat} {s : State} {u : Nat} (hS : Held pts z s)
    (hp : Sub [.fabric] pts := by exact Sub.up) : Held pts z (judgeCluster failed s u) := by
  unfold judgeCluster
  iterate 45 all_goals try first
    | with_reducible assumption
    | with_reducible refine putIsland_held ?_

theorem applySelfTest_held {s : State} {r : SelfTestResult} (hS : Held pts z s)
    (hp : Sub [.nvm, .link, .mailbox, .fabric, .thermal, .blotter, .mgmt, .map] pts := by exact Sub.up)
    : Held pts z (applySelfTest s r) := by
  unfold applySelfTest
  iterate 45 all_goals try first
    | with_reducible assumption
    | with_reducible refine markSensors_held ?_
    | with_reducible refine foundSegments_held ?_
    | with_reducible refine judgeCluster_held ?_
    | with_reducible refine foldl_held (fun _ _ _ => ?_) ?_
    | (intro x; first
        | (refine (fun (hx : Held pts z x) => ?_) ?_ <;> [clear_value x; subst x])
        | (have hx : Fabric := x; clear hx; subst x)
        | clear_value x)
    | lift_lets
    | with_reducible refine held_free ?_
    | ((with_reducible refine held_set ?_ ?_); rotate_left; exact Sound.parts)

theorem refuseStart_held {s : State} {cause : Nat} (hS : Held pts z s)
    (hp : Sub [.board, .link, .mailbox, .blotter, .mgmt, .map] pts := by exact Sub.up) : Held pts z (refuseStart s cause) := by
  unfold refuseStart
  iterate 45 all_goals try first
    | with_reducible assumption
    | with_reducible refine note_held ?_
    | with_reducible refine setPhase_held ?_
    | (intro x; clear_value x)
    | lift_lets
    | with_reducible refine held_free ?_

theorem restFailed_held {s : State} (hS : Held pts z s) (hp : Sub [.board] pts := by exact Sub.up)
    : Held pts z (restFailed s) := by
  unfold restFailed
  iterate 45 all_goals try first
    | with_reducible assumption
    | with_reducible refine putCart_held ?_
    | with_reducible refine foldl_held (fun _ _ _ => ?_) ?_
    | (intro x; clear_value x)
    | lift_lets
    | split

theorem endAdminReset_held {s : State} {r : SelfTestResult} (hS : Held pts z s)
    (hp : Sub [.board, .nvm, .link, .mailbox, .serving, .images, .vellum, .fabric, .power, .thermal, .blotter, .mgmt,
      .trust, .map] pts := by exact Sub.up)
    : Held pts z (endAdminReset s r) := by
  unfold endAdminReset
  lift_lets
  intro s1 s2 s3
  have h1 : Held pts z s1 := finishFill_held (finishSwitch_held (applySelfTest_held hS))
  clear_value s1
  have h2 : Held pts z s2 := settleSessions_held (reloadSlots_held (coverNew_held (coverNew_held (verifySlot_held
    (verifySlot_held h1)))))
  clear_value s2
  have h3 : Held pts z s3 := endRrs_held (wakeStep_held h2)
  clear_value s3
  exact prepareAllFailed_held (held_set h3 (fun hh => ⟨hh.nvm, hh.vellum, hh.sram, hh.power, ⟨Nat.le_refl 18500, hh.thermal.2⟩, hh.blotter,
    hh.events, hh.trust⟩))

theorem execSelfTest_held {t : Nat} {r : SelfTestResult} {s : State} (hS : Held pts z s)
    (hp : Sub [.now, .board, .nvm, .link, .mailbox, .serving, .images, .vellum, .fabric, .power, .thermal, .blotter,
      .mgmt, .trust, .map] pts := by exact Sub.up)
    : OutHeld pts z (execSelfTest t r s) := by
  unfold execSelfTest
  iterate 45 all_goals try first
    | with_reducible refine outHeld_next ?_
    | with_reducible assumption
    | with_reducible refine advance_held ?_
    | with_reducible refine setPhase_held ?_
    | with_reducible refine applySelfTest_held ?_
    | with_reducible refine refuseStart_held ?_
    | with_reducible refine restFailed_held ?_
    | with_reducible refine endAdminReset_held ?_
    | (intro x; first
        | (refine (fun (hx : Held pts z x) => ?_) ?_ <;> [clear_value x; subst x])
        | clear_value x)
    | lift_lets
    | split
    | with_reducible refine held_free ?_

theorem execVellumTraining_held {t : Nat} {failedSites : List Nat} {s : State} (hS : Held pts z s)
    (hp : Sub [.now, .board, .link, .mailbox, .serving, .images, .vellum, .fabric, .power, .blotter, .mgmt,
      .map] pts := by exact Sub.up)
    : OutHeld pts z (execVellumTraining t failedSites s) := by
  unfold execVellumTraining
  iterate 45 all_goals try first
    | with_reducible refine outHeld_next ?_
    | with_reducible assumption
    | with_reducible refine advance_held ?_
    | with_reducible refine prepareAllFailed_held ?_
    | with_reducible refine wakeStep_held ?_
    | with_reducible refine refuseStart_held ?_
    | (intro x; first
        | (refine (fun (hx : Held pts z x) => ?_) ?_ <;> [clear_value x; subst x])
        | clear_value x)
    | lift_lets
    | split
    | with_reducible refine held_free ?_
    | ((with_reducible refine held_set ?_ ?_); rotate_left
       exact fun hh => ⟨hh.nvm, rfl, hh.sram, hh.power,
         hh.thermal, hh.blotter, hh.events, hh.trust⟩)

end Sys2Proof.Laws
end

