-- ==== Sys2Proof/Laws/KeepCarts.lean ====
section
/-! SUPPORT. What the functions of Machine/Carts.lean do, as Laws/Kept.lean says it: the parts that each one may change. -/

namespace Sys2Proof.Laws

set_option Elab.async false

open Sys2Proof Sys2Proof.Machine

variable {pts : List Part} {z : State}

theorem execCartridgePrepare_held {h : Hdr} {cartridge : Nat} {s : State} (hS : Held pts z s)
    (hp : Sub [.now, .board, .link, .mailbox, .serving, .images, .vellum, .fabric, .blotter,
      .mgmt] pts := by exact Sub.up)
    : OutHeld pts z (execCartridgePrepare h cartridge s) := by
  unfold execCartridgePrepare
  iterate 45 all_goals try first
    | with_reducible refine outHeld_next ?_
    | with_reducible assumption
    | with_reducible refine refuse_held ?_
    | with_reducible refine startLater_held ?_
    | with_reducible refine startPrepare_held ?_
    | with_reducible refine runCommand_held (fun _ _ _ => ?_) ?_
    | lift_lets
    | split

theorem execCartridgePrepareDone_held {t : Nat} {cartridge : Nat} {s : State} (hS : Held pts z s)
    (hp : Sub [.now, .board, .link, .mailbox, .fabric, .power, .blotter, .mgmt, .map] pts := by exact Sub.up)
    : OutHeld pts z (execCartridgePrepareDone t cartridge s) := by
  unfold execCartridgePrepareDone
  iterate 45 all_goals try first
    | with_reducible refine outHeld_next ?_
    | with_reducible assumption
    | with_reducible refine advance_held ?_
    | with_reducible refine completeStarted_held ?_
    | with_reducible refine darkenPair_held ?_
    | (intro x; refine (fun (hx : Held pts z x) => ?_) ?_ <;> [clear_value x; subst x])
    | lift_lets
    | split

theorem releasePair_held {s : State} {c : Nat} {n : Nat} (hS : Held pts z s)
    (hp : Sub [.serving, .images, .fabric] pts := by exact Sub.up) : Held pts z (releasePair s c n) := by
  unfold releasePair
  iterate 45 all_goals try first
    | with_reducible assumption
    | with_reducible refine putSlot_held ?_
    | with_reducible refine placeSet_held ?_
    | with_reducible refine refillSeats_held ?_
    | with_reducible refine fillCluster_held ?_
    | with_reducible refine startClusters_held ?_
    | with_reducible refine foldl_held (fun _ _ _ => ?_) ?_
    | (intro x; first
        | (refine (fun (hx : Held pts z x) => ?_) ?_ <;> [clear_value x; subst x])
        | clear_value x)
    | lift_lets
    | split

theorem abandonPrepare_held {s : State} {c : Nat} (hS : Held pts z s)
    (hp : Sub [.board, .link, .mailbox, .serving, .images, .vellum, .fabric, .power, .blotter,
      .mgmt] pts := by exact Sub.up)
    : Held pts z (abandonPrepare s c) := by
  unfold abandonPrepare
  iterate 45 all_goals try first
    | with_reducible assumption
    | with_reducible refine completeStarted_held ?_
    | with_reducible refine modSite_held ?_
    | with_reducible refine releasePair_held ?_
    | with_reducible refine foldl_held (fun _ _ _ => ?_) ?_
    | (intro x; clear_value x)
    | lift_lets
    | with_reducible refine held_free ?_

theorem inrushPair_held {s : State} {c : Nat} (hS : Held pts z s) (hp : Sub [.fabric] pts := by exact Sub.up)
    : Held pts z (inrushPair s c) :=
  foldl_held (fun _ _ h => startInrush_held h) hS

theorem execCartridgeRestore_held {h : Hdr} {cartridge : Nat} {s : State} (hS : Held pts z s)
    (hp : Sub [.now, .board, .link, .mailbox, .fabric, .blotter, .mgmt] pts := by exact Sub.up)
    : OutHeld pts z (execCartridgeRestore h cartridge s) := by
  unfold execCartridgeRestore
  iterate 45 all_goals try first
    | with_reducible refine outHeld_next ?_
    | with_reducible assumption
    | with_reducible refine inrushPair_held ?_
    | with_reducible refine putCart_held ?_
    | with_reducible refine refuse_held ?_
    | with_reducible refine startLater_held ?_
    | with_reducible refine runCommand_held (fun _ _ _ => ?_) ?_
    | (intro x; clear_value x)
    | lift_lets
    | split

theorem copyBack_held {s : State} {n : Nat} {dies : List Nat} (hS : Held pts z s)
    (hp : Sub [.images] pts := by exact Sub.up) : Held pts z (copyBack s n dies) := by
  unfold copyBack
  iterate 45 all_goals try first
    | with_reducible assumption
    | with_reducible refine putSlot_held ?_
    | (intro x; clear_value x)
    | lift_lets
    | split

theorem execCartridgeRestoreDone_held {t : Nat} {cartridge : Nat} {r : SelfTestResult} {s : State} (hS : Held pts z s)
    (hp : Sub [.now, .board, .nvm, .link, .mailbox, .serving, .images, .vellum, .fabric, .power, .blotter, .mgmt,
      .map] pts := by exact Sub.up)
    : OutHeld pts z (execCartridgeRestoreDone t cartridge r s) := by
  unfold execCartridgeRestoreDone
  iterate 45 all_goals try first
    | with_reducible refine outHeld_next ?_
    | with_reducible assumption
    | with_reducible refine putSite_held ?_
    | with_reducible refine putIsland_held ?_
    | with_reducible refine putCart_held ?_
    | with_reducible refine advance_held ?_
    | with_reducible refine completeStarted_held ?_
    | with_reducible refine mapChanged_held ?_
    | with_reducible refine clearUnits_held ?_
    | with_reducible refine foundSegments_held ?_
    | with_reducible refine judgeCluster_held ?_
    | with_reducible refine releasePair_held ?_
    | with_reducible refine copyBack_held ?_
    | with_reducible refine foldl_held (fun _ _ _ => ?_) ?_
    | (intro x; first
        | (refine (fun (hx : Held pts z x) => ?_) ?_ <;> [clear_value x; subst x])
        | (have hx : Vellum := x; clear hx; subst x)
        | (have hx : Fabric := x; clear hx; subst x)
        | clear_value x)
    | lift_lets
    | split
    | with_reducible refine held_free ?_
    | ((with_reducible refine held_set ?_ ?_); rotate_left; exact Sound.parts)

theorem execCartridgeInserted_held {t : Nat} {cartridge : Nat} {s : State} (hS : Held pts z s)
    (hp : Sub [.now, .board] pts := by exact Sub.up) : OutHeld pts z (execCartridgeInserted t cartridge s) := by
  unfold execCartridgeInserted
  iterate 45 all_goals try first
    | with_reducible refine outHeld_next ?_
    | with_reducible assumption
    | with_reducible refine putCart_held ?_
    | with_reducible refine advance_held ?_
    | lift_lets
    | split

theorem cutPrepare_held {s : State} {c : Nat} (hS : Held pts z s)
    (hp : Sub [.board, .link, .mailbox, .power, .blotter, .mgmt] pts := by exact Sub.up) : Held pts z (cutPrepare s c) := by
  unfold cutPrepare
  iterate 45 all_goals try first
    | with_reducible assumption
    | with_reducible refine completeStarted_held ?_
    | (intro x; clear_value x)
    | lift_lets
    | split
    | with_reducible refine held_free ?_

theorem cutRestore_held {s : State} {c : Nat} (hS : Held pts z s)
    (hp : Sub [.link, .mailbox, .power, .blotter, .mgmt] pts := by exact Sub.up) : Held pts z (cutRestore s c) := by
  unfold cutRestore
  iterate 45 all_goals try first
    | with_reducible assumption
    | with_reducible refine completeStarted_held ?_

theorem execCartridgeRemoved_held {t : Nat} {cartridge : Nat} {s : State} (hS : Held pts z s)
    (hp : Sub [.now, .board, .link, .mailbox, .serving, .images, .vellum, .fabric, .power, .blotter, .mgmt, .trust,
      .map] pts := by exact Sub.up)
    : OutHeld pts z (execCartridgeRemoved t cartridge s) := by
  unfold execCartridgeRemoved
  iterate 45 all_goals try first
    | with_reducible refine outHeld_next ?_
    | with_reducible assumption
    | with_reducible refine putCart_held ?_
    | with_reducible refine advance_held ?_
    | with_reducible refine endWarning_held ?_
    | with_reducible refine diesLost_held ?_
    | with_reducible refine cutPrepare_held ?_
    | with_reducible refine cutRestore_held ?_
    | (intro x; first
        | (refine (fun (hx : Held pts z x) => ?_) ?_ <;> [clear_value x; subst x])
        | clear_value x)
    | lift_lets
    | split
    | with_reducible refine held_free ?_

theorem execPhaseLost_held {t : Nat} {cartridge : Nat} {s : State} (hS : Held pts z s)
    (hp : Sub [.now, .board, .link, .mailbox, .serving, .images, .vellum, .fabric, .blotter,
      .mgmt] pts := by exact Sub.up)
    : OutHeld pts z (execPhaseLost t cartridge s) := by
  unfold execPhaseLost
  iterate 45 all_goals try first
    | with_reducible refine outHeld_next ?_
    | with_reducible assumption
    | with_reducible refine putCart_held ?_
    | with_reducible refine advance_held ?_
    | with_reducible refine postEvent_held ?_
    | with_reducible refine note_held ?_
    | with_reducible refine warn_held ?_
    | with_reducible refine prepareFailed_held ?_
    | (intro x; first
        | (refine (fun (hx : Held pts z x) => ?_) ?_ <;> [clear_value x; subst x])
        | clear_value x)
    | lift_lets
    | split

theorem execDieShort_held {t : Nat} {die : Nat} {s : State} (hS : Held pts z s)
    (hp : Sub [.now, .board, .link, .mailbox, .serving, .images, .vellum, .fabric, .power, .blotter, .mgmt, .trust,
      .map] pts := by exact Sub.up)
    : OutHeld pts z (execDieShort t die s) := by
  unfold execDieShort
  iterate 45 all_goals try first
    | with_reducible refine outHeld_next ?_
    | with_reducible assumption
    | with_reducible refine advance_held ?_
    | with_reducible refine diesLost_held ?_
    | with_reducible refine abandonPrepare_held ?_
    | with_reducible refine foldl_held (fun _ _ _ => ?_) ?_
    | (intro x; first
        | (refine (fun (hx : Held pts z x) => ?_) ?_ <;> [clear_value x; subst x])
        | clear_value x)
    | lift_lets
    | split
    | with_reducible refine held_free ?_

end Sys2Proof.Laws
end

