-- ==== Sys2Proof/Laws/KeepStrokes.lean ====
section
/-! SUPPORT. What the functions of Machine/Strokes.lean do, as Laws/Kept.lean says it: the parts that each one may change. -/

namespace Sys2Proof.Laws

set_option Elab.async false

open Sys2Proof Sys2Proof.Machine

variable {pts : List Part} {z : State}

theorem execNop_held {h : StrokeHdr} {s : State} (hS : Held pts z s)
    (hp : Sub [.link, .mailbox, .fabric, .blotter, .mgmt] pts := by exact Sub.up) : OutHeld pts z (execNop h s) := by
  unfold execNop
  iterate 45 all_goals try first
    | with_reducible refine outHeld_next ?_
    | with_reducible assumption
    | with_reducible refine issue_held (fun _ _ => ?_) (fun _ _ => ?_) ?_
    | lift_lets
    | with_reducible apply_assumption -exfalso -symm

theorem execLoopBegin_held {h : StrokeHdr} {ctr : Nat} {count : Nat} {fromDesc : Bool} {s : State} (hS : Held pts z s)
    (hp : Sub [.link, .mailbox, .fabric, .blotter, .mgmt] pts := by exact Sub.up)
    : OutHeld pts z (execLoopBegin h ctr count fromDesc s) := by
  unfold execLoopBegin
  iterate 45 all_goals try first
    | with_reducible refine outHeld_next ?_
    | with_reducible assumption
    | with_reducible refine modTile_held ?_
    | with_reducible refine issue_held (fun _ _ => ?_) (fun _ _ => ?_) ?_
    | lift_lets
    | with_reducible apply_assumption -exfalso -symm

theorem execLoopEnd_held {h : StrokeHdr} {ctr : Nat} {s : State} (hS : Held pts z s)
    (hp : Sub [.link, .mailbox, .fabric, .blotter, .mgmt] pts := by exact Sub.up) : OutHeld pts z (execLoopEnd h ctr s) := by
  unfold execLoopEnd
  iterate 45 all_goals try first
    | with_reducible refine outHeld_next ?_
    | with_reducible assumption
    | with_reducible refine modTile_held ?_
    | with_reducible refine issue_held (fun _ _ => ?_) (fun _ _ => ?_) ?_
    | lift_lets
    | with_reducible apply_assumption -exfalso -symm

theorem execStepBegin_held {h : StrokeHdr} {s : State} (hS : Held pts z s)
    (hp : Sub [.link, .mailbox, .serving, .fabric, .blotter, .mgmt] pts := by exact Sub.up)
    : OutHeld pts z (execStepBegin h s) := by
  unfold execStepBegin
  iterate 45 all_goals try first
    | with_reducible refine outHeld_next ?_
    | with_reducible assumption
    | with_reducible refine modTile_held ?_
    | with_reducible refine beginStep_held ?_
    | with_reducible refine issue_held (fun _ _ => ?_) (fun _ _ => ?_) ?_
    | (intro x; clear_value x)
    | lift_lets
    | with_reducible apply_assumption -exfalso -symm
    | split

theorem execStepEnd_held {h : StrokeHdr} {energyMj : Nat} {s : State} (hS : Held pts z s)
    (hp : Sub [.link, .mailbox, .serving, .images, .vellum, .fabric, .power, .blotter, .mgmt,
      .trust] pts := by exact Sub.up)
    : OutHeld pts z (execStepEnd h energyMj s) := by
  unfold execStepEnd
  iterate 45 all_goals try first
    | with_reducible refine outHeld_next ?_
    | with_reducible assumption
    | with_reducible refine endStepAt_held ?_
    | with_reducible refine issue_held (fun _ _ => ?_) (fun _ _ => ?_) ?_
    | lift_lets
    | with_reducible apply_assumption -exfalso -symm

theorem predBit_held {s : State} {tile : Nat} {src : PredSrc} {ecc : Ecc} (hS : Held pts z s)
    (hp : Sub [.link, .mailbox, .serving, .images, .vellum, .fabric, .power, .blotter, .mgmt, .trust,
      .map] pts := by exact Sub.up)
    : Held pts z (predBit s tile src ecc).2 := by
  unfold predBit
  iterate 45 all_goals try first
    | with_reducible assumption
    | with_reducible refine readSpan_held ?_
    | with_reducible refine applyEcc_held ?_
    | lift_lets
    | split

theorem execPredLoad_held {h : StrokeHdr} {p : Nat} {src : Met PredSrc Ecc} {s : State} (hS : Held pts z s)
    (hp : Sub [.link, .mailbox, .serving, .images, .vellum, .fabric, .power, .blotter, .mgmt, .trust,
      .map] pts := by exact Sub.up)
    : OutHeld pts z (execPredLoad h p src s) := by
  unfold execPredLoad
  iterate 45 all_goals try first
    | with_reducible refine outHeld_next ?_
    | with_reducible assumption
    | with_reducible refine modTile_held ?_
    | refine issue_held (fun _ _ => ?_) (fun _ h => h) ?_
    | with_reducible refine predBit_held ?_
    | (intro x; refine (fun (hx : Held pts z x.2) => ?_) ?_ <;> [clear_value x; (subst x; try dsimp only)])
    | lift_lets
    | split

theorem execMac_held {h : StrokeHdr} {act : Nat} {w : WeightSrc} {acc : Met Nat (List Found)} {s : State}
    (hS : Held pts z s)
    (hp : Sub [.link, .mailbox, .serving, .images, .vellum, .fabric, .power, .blotter, .mgmt, .trust,
      .map] pts := by exact Sub.up)
    : OutHeld pts z (execMac h act w acc s) := by
  unfold execMac
  iterate 45 all_goals try first
    | with_reducible refine outHeld_next ?_
    | with_reducible assumption
    | refine issue_held (fun _ _ => ?_) (fun _ h => h) ?_
    | with_reducible refine macTile_held ?_

theorem execDrain_held {h : StrokeHdr} {dst : Nat} {acc : Nat} {scale : Option Fp32} {s : State} (hS : Held pts z s)
    (hp : Sub [.link, .mailbox, .fabric, .blotter, .mgmt] pts := by exact Sub.up)
    : OutHeld pts z (execDrain h dst acc scale s) := by
  unfold execDrain
  iterate 45 all_goals try first
    | with_reducible refine outHeld_next ?_
    | with_reducible assumption
    | with_reducible refine drainTile_held ?_
    | with_reducible refine issue_held (fun _ _ => ?_) (fun _ _ => ?_) ?_
    | lift_lets
    | with_reducible apply_assumption -exfalso -symm

theorem execValu_held {h : StrokeHdr} {dst : Nat} {srcs : List Nat} {fn : ValuFn} {s : State} (hS : Held pts z s)
    (hp : Sub [.free, .link, .mailbox, .fabric, .blotter, .mgmt] pts := by exact Sub.up)
    : OutHeld pts z (execValu h dst srcs fn s) := by
  unfold execValu
  iterate 45 all_goals try first
    | with_reducible refine outHeld_next ?_
    | with_reducible assumption
    | with_reducible refine valuTile_held ?_
    | with_reducible refine issue_held (fun _ _ => ?_) (fun _ _ => ?_) ?_
    | lift_lets
    | with_reducible apply_assumption -exfalso -symm

theorem execVxcend_held {h : StrokeHdr} {dst : Nat} {src : Nat} {fn : XcendFn} {s : State} (hS : Held pts z s)
    (hp : Sub [.link, .mailbox, .fabric, .blotter, .mgmt] pts := by exact Sub.up)
    : OutHeld pts z (execVxcend h dst src fn s) := by
  unfold execVxcend
  iterate 45 all_goals try first
    | with_reducible refine outHeld_next ?_
    | with_reducible assumption
    | with_reducible refine vput_held ?_
    | refine issue_held (fun _ _ => ?_) (fun _ h => h) ?_

theorem execNarrow_held {h : StrokeHdr} {dst : Nat} {src : Nat} {opc : BitVec 32} {s : State} (hS : Held pts z s)
    (hp : Sub [.link, .mailbox, .fabric, .blotter, .mgmt] pts := by exact Sub.up)
    : OutHeld pts z (execNarrow h dst src opc s) := by
  unfold execNarrow
  iterate 45 all_goals try first
    | with_reducible refine outHeld_next ?_
    | with_reducible assumption
    | with_reducible refine narrowTile_held ?_
    | with_reducible refine issue_held (fun _ _ => ?_) (fun _ _ => ?_) ?_
    | lift_lets
    | with_reducible apply_assumption -exfalso -symm

theorem execWiden_held {h : StrokeHdr} {dst : Nat} {src : Nat} {scaleAddr : Nat} {fmt : Met Fmt (List Found)} {s : State}
    (hS : Held pts z s)
    (hp : Sub [.link, .mailbox, .serving, .images, .vellum, .fabric, .power, .blotter, .mgmt, .trust,
      .map] pts := by exact Sub.up)
    : OutHeld pts z (execWiden h dst src scaleAddr fmt s) := by
  unfold execWiden
  iterate 45 all_goals try first
    | with_reducible refine outHeld_next ?_
    | with_reducible assumption
    | refine issue_held (fun _ _ => ?_) (fun _ h => h) ?_
    | with_reducible refine widenTile_held ?_

theorem execLoad_held {h : StrokeHdr} {vreg : Nat} {addr : Nat} {ecc : Ecc} {s : State} (hS : Held pts z s)
    (hp : Sub [.link, .mailbox, .serving, .images, .vellum, .fabric, .power, .blotter, .mgmt, .trust,
      .map] pts := by exact Sub.up)
    : OutHeld pts z (execLoad h vreg addr ecc s) := by
  unfold execLoad
  iterate 45 all_goals try first
    | with_reducible refine outHeld_next ?_
    | with_reducible assumption
    | with_reducible refine loadTile_held ?_
    | with_reducible refine issue_held (fun _ _ => ?_) (fun _ _ => ?_) ?_
    | lift_lets
    | with_reducible apply_assumption -exfalso -symm

theorem execStore_held {h : StrokeHdr} {vreg : Nat} {addr : Nat} {s : State} (hS : Held pts z s)
    (hp : Sub [.link, .mailbox, .fabric, .blotter, .mgmt] pts := by exact Sub.up)
    : OutHeld pts z (execStore h vreg addr s) := by
  unfold execStore
  iterate 45 all_goals try first
    | with_reducible refine outHeld_next ?_
    | with_reducible assumption
    | with_reducible refine storeTile_held ?_
    | with_reducible refine issue_held (fun _ _ => ?_) (fun _ _ => ?_) ?_
    | lift_lets
    | with_reducible apply_assumption -exfalso -symm

theorem execSliceRead_held {h : StrokeHdr} {dst : Nat} {addr : Nat} {unit : Nat} {rows : Nat} {crossing : Nat}
    {merge : Bool} {ecc : Ecc} {s : State} (hS : Held pts z s)
    (hp : Sub [.link, .mailbox, .serving, .images, .vellum, .fabric, .power, .blotter, .mgmt, .trust,
      .map] pts := by exact Sub.up)
    : OutHeld pts z (execSliceRead h dst addr unit rows crossing merge ecc s) := by
  unfold execSliceRead
  iterate 45 all_goals try first
    | with_reducible refine outHeld_next ?_
    | with_reducible assumption
    | with_reducible refine sliceReadTile_held ?_
    | with_reducible refine issue_held (fun _ _ => ?_) (fun _ _ => ?_) ?_
    | lift_lets
    | with_reducible apply_assumption -exfalso -symm

theorem execSliceWrite_held {h : StrokeHdr} {src : Nat} {addr : Nat} {unit : Nat} {rows : Nat}
    {crossing : Met Nat (Bool × Ecc)} {s : State} (hS : Held pts z s)
    (hp : Sub [.link, .mailbox, .serving, .images, .vellum, .fabric, .power, .blotter, .mgmt, .trust,
      .map] pts := by exact Sub.up)
    : OutHeld pts z (execSliceWrite h src addr unit rows crossing s) := by
  unfold execSliceWrite
  iterate 45 all_goals try first
    | with_reducible refine outHeld_next ?_
    | with_reducible assumption
    | refine issue_held (fun _ _ => ?_) (fun _ h => h) ?_
    | with_reducible refine sliceWriteTile_held ?_

theorem sendTile_held {s : State} {tile : Nat} {unit : Nat} {addr : Nat} {crossing : Nat} {f : Flits} {flits : Nat}
    {full : Bool} (hS : Held pts z s) (hp : Sub [.fabric] pts := by exact Sub.up)
    : Held pts z (sendTile s tile unit addr crossing f flits full) := by
  unfold sendTile
  iterate 45 all_goals try first
    | with_reducible assumption
    | with_reducible refine transmit_held ?_
    | with_reducible refine stallFor_held ?_

theorem execSend_held {h : StrokeHdr} {src : Nat} {unit : Nat} {addr : Nat} {rows : Nat} {crossing : Nat}
    {bufferFull : Met Bool Ecc} {s : State} (hS : Held pts z s)
    (hp : Sub [.link, .mailbox, .serving, .images, .vellum, .fabric, .power, .blotter, .mgmt, .trust,
      .map] pts := by exact Sub.up)
    : OutHeld pts z (execSend h src unit addr rows crossing bufferFull s) := by
  unfold execSend
  iterate 45 all_goals try first
    | with_reducible refine outHeld_next ?_
    | with_reducible assumption
    | with_reducible refine readRows_held ?_
    | with_reducible refine applyEcc_held ?_
    | with_reducible refine issue_held (fun _ _ => ?_) (fun _ _ => ?_) ?_
    | with_reducible refine sendTile_held ?_
    | (intro x; refine (fun (hx : Held pts z x.state) => ?_) ?_ <;> [clear_value x; (subst x; try dsimp only)])
    | lift_lets
    | split

theorem execRecv_held {h : StrokeHdr} {dst : Nat} {crossing : Nat} {s : State} (hS : Held pts z s)
    (hp : Sub [.link, .mailbox, .fabric, .blotter, .mgmt] pts := by exact Sub.up)
    : OutHeld pts z (execRecv h dst crossing s) := by
  unfold execRecv
  iterate 45 all_goals try first
    | with_reducible refine outHeld_next ?_
    | with_reducible assumption
    | with_reducible refine recvTile_held ?_
    | with_reducible refine issue_held (fun _ _ => ?_) (fun _ _ => ?_) ?_
    | lift_lets
    | with_reducible apply_assumption -exfalso -symm

theorem execLigSend_held {h : StrokeHdr} {src : Nat} {unit : Nat} {addr : Nat} {tag : Nat} {rows : Met Nat Ecc}
    {s : State} (hS : Held pts z s)
    (hp : Sub [.link, .mailbox, .serving, .images, .vellum, .fabric, .power, .blotter, .mgmt, .trust,
      .map] pts := by exact Sub.up)
    : OutHeld pts z (execLigSend h src unit addr tag rows s) := by
  unfold execLigSend
  iterate 45 all_goals try first
    | with_reducible refine outHeld_next ?_
    | with_reducible assumption
    | with_reducible refine readRows_held ?_
    | with_reducible refine applyEcc_held ?_
    | with_reducible refine issue_held (fun _ _ => ?_) (fun _ _ => ?_) ?_
    | with_reducible refine ligSendTile_held ?_
    | (intro x; refine (fun (hx : Held pts z x.state) => ?_) ?_ <;> [clear_value x; (subst x; try dsimp only)])
    | lift_lets
    | split

theorem execLigRecv_held {h : StrokeHdr} {dst : Nat} {tag : Nat} {scale : Option Fp32} {s : State} (hS : Held pts z s)
    (hp : Sub [.link, .mailbox, .fabric, .blotter, .mgmt] pts := by exact Sub.up)
    : OutHeld pts z (execLigRecv h dst tag scale s) := by
  unfold execLigRecv
  iterate 45 all_goals try first
    | with_reducible refine outHeld_next ?_
    | with_reducible assumption
    | with_reducible refine ligRecvTile_held ?_
    | with_reducible refine issue_held (fun _ _ => ?_) (fun _ _ => ?_) ?_
    | lift_lets
    | with_reducible apply_assumption -exfalso -symm

theorem execDmaPost_held {h : StrokeHdr} {index : Nat} {s : State} (hS : Held pts z s)
    (hp : Sub [.link, .mailbox, .fabric, .blotter, .mgmt] pts := by exact Sub.up) : OutHeld pts z (execDmaPost h index s) := by
  unfold execDmaPost
  iterate 45 all_goals try first
    | with_reducible refine outHeld_next ?_
    | with_reducible assumption
    | with_reducible refine dmaPostTile_held ?_
    | with_reducible refine issue_held (fun _ _ => ?_) (fun _ _ => ?_) ?_
    | lift_lets
    | with_reducible apply_assumption -exfalso -symm

theorem execDmaWait_held {h : StrokeHdr} {ctr : Nat} {count : Nat} {s : State} (hS : Held pts z s)
    (hp : Sub [.link, .mailbox, .fabric, .blotter, .mgmt] pts := by exact Sub.up)
    : OutHeld pts z (execDmaWait h ctr count s) := by
  unfold execDmaWait
  iterate 45 all_goals try first
    | with_reducible refine outHeld_next ?_
    | with_reducible assumption
    | with_reducible refine dmaWaitTile_held ?_
    | with_reducible refine issue_held (fun _ _ => ?_) (fun _ _ => ?_) ?_
    | lift_lets
    | with_reducible apply_assumption -exfalso -symm

end Sys2Proof.Laws
end

