-- ==== Sys2Proof/Laws/KeepDiagnostics.lean ====
section
/-! SUPPORT. What the functions of Machine/Diagnostics.lean do, as Laws/Kept.lean says it: the parts that each one may change. -/

namespace Sys2Proof.Laws

set_option Elab.async false

open Sys2Proof Sys2Proof.Machine

variable {pts : List Part} {z : State}

theorem execRecordRead_held {h : Hdr} {kind : Nat} {unit : Nat} {index : Nat} {count : Nat} {s : State}
    (hS : Held pts z s) (hp : Sub [.now, .link, .mailbox, .blotter, .mgmt] pts := by exact Sub.up)
    : OutHeld pts z (execRecordRead h kind unit index count s) := by
  unfold execRecordRead
  iterate 45 all_goals try first
    | with_reducible refine outHeld_next ?_
    | with_reducible assumption
    | with_reducible refine complete_held ?_
    | with_reducible refine refuse_held ?_
    | with_reducible refine runCommand_held (fun _ _ _ => ?_) ?_
    | (intro x; clear_value x)
    | lift_lets
    | split

theorem execThresholdSet_held {h : Hdr} {entries : List Threshold} {s : State} (hS : Held pts z s)
    (hp : Sub [.now, .link, .mailbox, .serving, .blotter, .mgmt] pts := by exact Sub.up)
    : OutHeld pts z (execThresholdSet h entries s) := by
  unfold execThresholdSet
  iterate 45 all_goals try first
    | with_reducible refine outHeld_next ?_
    | with_reducible assumption
    | with_reducible refine done_held ?_
    | with_reducible refine runCommand_held (fun _ _ _ => ?_) ?_
    | (intro x; clear_value x)
    | lift_lets
    | with_reducible refine held_free ?_

theorem execBlotterRead_held {h : Hdr} {first : Nat} {count : Nat} {s : State} (hS : Held pts z s)
    (hp : Sub [.now, .link, .mailbox, .blotter, .mgmt] pts := by exact Sub.up)
    : OutHeld pts z (execBlotterRead h first count s) := by
  unfold execBlotterRead
  iterate 45 all_goals try first
    | with_reducible refine outHeld_next ?_
    | with_reducible assumption
    | with_reducible refine complete_held ?_
    | with_reducible refine runCommand_held (fun _ _ _ => ?_) ?_

theorem putUpload_held {s : State} {unit : Nat} {space : Nat} {address : Nat} {rows : List Byte} (hS : Held pts z s)
    (hp : Sub [.link, .mailbox, .vellum, .fabric, .blotter, .mgmt] pts := by exact Sub.up)
    : Held pts z (putUpload s unit space address rows) := by
  unfold putUpload
  iterate 45 all_goals try first
    | with_reducible assumption
    | with_reducible refine note_held ?_
    | with_reducible refine dmaRows_held ?_
    | with_reducible refine vellumWrite_held ?_
    | split

theorem execTensorUpload_held {h : Hdr} {unit : Nat} {space : Nat} {address : Nat} {tensor : TensorIn} {s : State}
    (hS : Held pts z s)
    (hp : Sub [.now, .link, .mailbox, .serving, .vellum, .fabric, .blotter, .mgmt] pts := by exact Sub.up)
    : OutHeld pts z (execTensorUpload h unit space address tensor s) := by
  unfold execTensorUpload
  iterate 45 all_goals try first
    | with_reducible refine outHeld_next ?_
    | with_reducible assumption
    | with_reducible refine done_held ?_
    | with_reducible refine refuse_held ?_
    | with_reducible refine testTensor_held ?_
    | with_reducible refine putUpload_held ?_
    | with_reducible refine runCommand_held (fun _ _ _ => ?_) ?_
    | (intro x; first
        | (refine (fun (hx : Held pts z x) => ?_) ?_ <;> [clear_value x; subst x])
        | clear_value x)
    | lift_lets
    | split

theorem execStrokeLoad_held {h : Hdr} {half : Nat} {unit : Nat} {strokes : List (BitVec 128)} {s : State}
    (hS : Held pts z s) (hp : Sub [.now, .link, .mailbox, .fabric, .blotter, .mgmt] pts := by exact Sub.up)
    : OutHeld pts z (execStrokeLoad h half unit strokes s) := by
  unfold execStrokeLoad
  iterate 45 all_goals try first
    | with_reducible refine outHeld_next ?_
    | with_reducible assumption
    | with_reducible refine done_held ?_
    | with_reducible refine refuse_held ?_
    | with_reducible refine writeHalf_held ?_
    | with_reducible refine runCommand_held (fun _ _ _ => ?_) ?_
    | lift_lets
    | split

theorem nextOf_held {o : Out} {s : State} (ho : OutHeld pts z o) (hS : Held pts z s) : Held pts z (nextOf o s) := by
  unfold nextOf
  split
  · exact ho _ rfl
  · exact hS

theorem runStroke_held {s : State} {tile : Nat} {w : BitVec 128} (hS : Held pts z s)
    (hp : Sub [.free, .link, .mailbox, .serving, .images, .vellum, .fabric, .power, .blotter, .mgmt, .trust,
      .map] pts := by exact Sub.up)
    : Held pts z (runStroke s tile w) := by
  unfold runStroke
  refine nextOf_held ?_ hS
  split
  · exact execNop_held hS
  · exact execNop_held hS
  · exact execLoopBegin_held hS
  · exact execLoopEnd_held hS
  · exact execStepBegin_held hS
  · exact execStepEnd_held hS
  · exact execPredLoad_held hS
  · exact execMac_held hS
  · exact execDrain_held hS
  · exact execValu_held hS
  · exact execVxcend_held hS
  · exact execNarrow_held hS
  · exact execWiden_held hS
  · exact execLoad_held hS
  · exact execStore_held hS
  · exact execSliceRead_held hS
  · exact execSliceWrite_held hS
  · exact execSend_held hS
  · exact execRecv_held hS
  · exact execLigSend_held hS
  · exact execLigRecv_held hS
  · exact execDmaPost_held hS
  · exact execDmaWait_held hS

theorem runTile_held {r : Run} {tile half : Nat} (hS : Held pts z r.state)
    (hp : Sub [.free, .link, .mailbox, .serving, .images, .vellum, .fabric, .power, .blotter, .mgmt, .trust,
      .map] pts := by exact Sub.up)
    : Held pts z (runTile r tile half).state := by
  have h1 : Held pts z (runStroke r.state tile (nextStroke r tile half)) := runStroke_held hS
  unfold runTile
  dsimp only
  split
  · exact h1
  · split
    · split <;> exact h1
    · exact h1
  · exact h1

theorem feedStall_held {s : State} {u : Nat} (hS : Held pts z s)
    (hp : Sub [.free, .link, .mailbox, .serving, .images, .fabric, .blotter, .mgmt] pts := by exact Sub.up)
    : Held pts z (feedStall s u) := by
  unfold feedStall
  dsimp only
  split
  · refine nextOf_held (execSendAck_held ?_) ?_
    all_goals exact nextOf_held (execLigatureCombine_held (drewFree_held hS)) hS
  · exact hS

theorem feedGate_held {s : State} {u : Nat} (hS : Held pts z s)
    (hp : Sub [.now, .free, .board, .nvm, .link, .mailbox, .serving, .images, .vellum, .fabric, .power, .blotter, .mgmt,
      .trust, .map] pts := by exact Sub.up)
    : Held pts z (feedGate s u) := by
  unfold feedGate
  dsimp only
  split
  · exact nextOf_held (execTokenArrival_held (drewFree_held hS)) hS
  · exact nextOf_held (execLigatureCombine_held (drewFree_held hS)) hS
  · exact nextOf_held (execDmaComplete_held (drewFree_held hS)) hS
  · exact hS

theorem starve_held {s : State} {producer : Nat} {consumer : Nat} {crossing : Nat} (hS : Held pts z s)
    (hp : Sub [.link, .mailbox, .serving, .images, .vellum, .fabric, .power, .blotter, .mgmt, .trust,
      .map] pts := by exact Sub.up)
    : Held pts z (starve s producer consumer crossing) := by
  unfold starve
  iterate 45 all_goals try first
    | with_reducible assumption
    | with_reducible refine note_held ?_
    | with_reducible refine fenceCluster_held ?_
    | with_reducible refine modNet_held ?_
    | (intro x; refine (fun (hx : Held pts z x) => ?_) ?_ <;> [clear_value x; subst x])
    | lift_lets
    | split

theorem diagLoop_held {u half producer : Nat} {tiles : List Nat} {n : Nat} {r : Run} (hS : Held pts z r.state)
    (hp : Sub [.now, .free, .board, .nvm, .link, .mailbox, .serving, .images, .vellum, .fabric, .power, .blotter, .mgmt,
      .trust, .map] pts := by exact Sub.up)
    : Held pts z (diagLoop u half producer tiles n r) := by
  induction n generalizing r with
  | zero => exact hS
  | succ n ih =>
    unfold diagLoop
    split
    · dsimp only
      split
      · split <;> first
          | exact starve_held hS
          | exact hS
      · exact ih (feedGate_held hS)
    · split
      · dsimp only
        split
        · exact ih (feedStall_held hS)
        · exact starve_held hS
      · split
        · exact hS
        · exact ih (runTile_held hS)

theorem endDiag_held {s : State} {u : Nat} {old : Island} (hS : Held pts z s)
    (hp : Sub [.serving, .fabric] pts := by exact Sub.up) : Held pts z (endDiag s u old) := by
  unfold endDiag
  iterate 45 all_goals try first
    | with_reducible assumption
    | with_reducible refine putIsland_held ?_
    | (intro x; first
        | (refine (fun (hx : Held pts z x) => ?_) ?_ <;> [clear_value x; subst x])
        | clear_value x)
    | lift_lets
    | with_reducible refine held_free ?_

theorem forcedStalls_held {s : State} {u : Nat} {forced : Nat} (hS : Held pts z s)
    (hp : Sub [.fabric] pts := by exact Sub.up) : Held pts z (forcedStalls s u forced) := by
  unfold forcedStalls
  iterate 45 all_goals try first
    | with_reducible assumption
    | with_reducible refine modMem_held ?_

theorem execDiagRun_held {h : Hdr} {half : Nat} {unit : Nat} {producer : Met Nat Nat} {s : State} (hS : Held pts z s)
    (hp : Sub [.now, .free, .board, .nvm, .link, .mailbox, .serving, .images, .vellum, .fabric, .power, .blotter, .mgmt,
      .trust, .map] pts := by exact Sub.up)
    : OutHeld pts z (execDiagRun h half unit producer s) := by
  unfold execDiagRun
  iterate 45 all_goals try first
    | with_reducible refine outHeld_next ?_
    | with_reducible assumption
    | with_reducible refine putIsland_held ?_
    | with_reducible refine drewFree_held ?_
    | with_reducible refine done_held ?_
    | with_reducible refine refuse_held ?_
    | with_reducible refine runCommand_held (fun _ _ _ => ?_) ?_
    | with_reducible refine modTile_held ?_
    | with_reducible refine diagLoop_held ?_
    | with_reducible refine endDiag_held ?_
    | with_reducible refine forcedStalls_held ?_
    | with_reducible refine foldl_held (fun _ _ _ => ?_) ?_
    | (intro x; first
        | (refine (fun (hx : Held pts z x) => ?_) ?_ <;> [clear_value x; subst x])
        | clear_value x)
    | lift_lets
    | split

end Sys2Proof.Laws
end

