-- ==== Sys2Proof/Laws/KeepPowerEvents.lean ====
section
/-! SUPPORT. What the functions of Machine/PowerEvents.lean do, as Laws/Kept.lean says it: the parts that each one may change. -/

namespace Sys2Proof.Laws

set_option Elab.async false

open Sys2Proof Sys2Proof.Machine

variable {pts : List Part} {z : State}

theorem execDieCurrentCheck_held {t : Nat} {die : Nat} {amps : Nat} {s : State} (hS : Held pts z s)
    (hp : Sub [.now, .power] pts := by exact Sub.up) : OutHeld pts z (execDieCurrentCheck t die amps s) := by
  unfold execDieCurrentCheck
  iterate 45 all_goals try first
    | with_reducible refine outHeld_next ?_
    | with_reducible assumption
    | with_reducible refine advance_held ?_
    | (intro x; clear_value x)
    | lift_lets
    | split
    | ((with_reducible refine held_set ?_ ?_); rotate_left; exact Sound.parts)

theorem retireSoon_held {s : State} {u : Nat} {fence : Bool} (hS : Held pts z s)
    (hp : Sub [.link, .mailbox, .serving, .images, .vellum, .fabric, .power, .blotter, .mgmt, .trust,
      .map] pts := by exact Sub.up)
    : Held pts z (retireSoon s u fence) := by
  unfold retireSoon
  iterate 45 all_goals try first
    | with_reducible assumption
    | with_reducible refine retireDue_held ?_
    | (intro x; first
        | (refine (fun (hx : Held pts z x) => ?_) ?_ <;> [clear_value x; subst x])
        | (have hx : Power := x; clear hx; subst x))
    | lift_lets
    | split
    | ((with_reducible refine held_set ?_ ?_); rotate_left; exact Sound.parts)

theorem execLdoSegmentFail_held {t : Nat} {unit : Nat} {s : State} (hS : Held pts z s)
    (hp : Sub [.now, .nvm, .link, .mailbox, .serving, .images, .vellum, .fabric, .power, .blotter, .mgmt, .trust,
      .map] pts := by exact Sub.up)
    : OutHeld pts z (execLdoSegmentFail t unit s) := by
  unfold execLdoSegmentFail
  iterate 45 all_goals try first
    | with_reducible refine outHeld_next ?_
    | with_reducible assumption
    | with_reducible refine putIsland_held ?_
    | with_reducible refine advance_held ?_
    | with_reducible refine note_held ?_
    | with_reducible refine mapChanged_held ?_
    | with_reducible refine fenceCluster_held ?_
    | with_reducible refine retireSoon_held ?_
    | (intro x; first
        | (refine (fun (hx : Held pts z x) => ?_) ?_ <;> [clear_value x; subst x])
        | (have hx : Nvm := x; clear hx; subst x)
        | clear_value x)
    | lift_lets
    | split
    | ((with_reducible refine held_set ?_ ?_); rotate_left; exact Sound.parts)

theorem execCeilingCheck_held {t : Nat} {unit : Nat} {neededCode : Nat} {s : State} (hS : Held pts z s)
    (hp : Sub [.now, .nvm, .link, .mailbox, .serving, .images, .vellum, .fabric, .power, .blotter, .mgmt, .trust,
      .map] pts := by exact Sub.up)
    : OutHeld pts z (execCeilingCheck t unit neededCode s) := by
  unfold execCeilingCheck
  iterate 45 all_goals try first
    | with_reducible refine outHeld_next ?_
    | with_reducible assumption
    | with_reducible refine advance_held ?_
    | with_reducible refine note_held ?_
    | with_reducible refine mapChanged_held ?_
    | with_reducible refine retireSoon_held ?_
    | (intro x; first
        | (refine (fun (hx : Held pts z x) => ?_) ?_ <;> [clear_value x; subst x])
        | (have hx : Nvm := x; clear hx; subst x))
    | lift_lets
    | split
    | ((with_reducible refine held_set ?_ ?_); rotate_left; exact Sound.parts)

theorem execDroopTrip_held {unit : Nat} {cycles : Nat} {s : State} (hS : Held pts z s)
    (hp : Sub [.fabric] pts := by exact Sub.up) : OutHeld pts z (execDroopTrip unit cycles s) := by
  unfold execDroopTrip
  iterate 45 all_goals try first
    | with_reducible refine outHeld_next ?_
    | with_reducible assumption
    | with_reducible refine putIsland_held ?_
    | with_reducible refine modNet_held ?_
    | (intro x; first
        | (refine (fun (hx : Held pts z x) => ?_) ?_ <;> [clear_value x; subst x])
        | clear_value x)
    | lift_lets
    | split

theorem execDroopReport_held {t : Nat} {unit : Nat} {s : State} (hS : Held pts z s)
    (hp : Sub [.now, .link, .mailbox, .fabric, .blotter, .mgmt] pts := by exact Sub.up)
    : OutHeld pts z (execDroopReport t unit s) := by
  unfold execDroopReport
  iterate 45 all_goals try first
    | with_reducible refine outHeld_next ?_
    | with_reducible assumption
    | with_reducible refine putIsland_held ?_
    | with_reducible refine advance_held ?_
    | with_reducible refine note_held ?_
    | (intro x; first
        | (refine (fun (hx : Held pts z x) => ?_) ?_ <;> [clear_value x; subst x])
        | clear_value x)
    | lift_lets
    | split

theorem execDroopThrottleEnd_held {t : Nat} {unit : Nat} {s : State} (hS : Held pts z s)
    (hp : Sub [.now, .fabric] pts := by exact Sub.up) : OutHeld pts z (execDroopThrottleEnd t unit s) := by
  unfold execDroopThrottleEnd
  iterate 45 all_goals try first
    | with_reducible refine outHeld_next ?_
    | with_reducible assumption
    | with_reducible refine putIsland_held ?_
    | with_reducible refine advance_held ?_
    | (intro x; clear_value x)
    | lift_lets
    | split

theorem enableSegment_held {s : State} {u : Nat} (hS : Held pts z s) (hp : Sub [.fabric] pts := by exact Sub.up)
    : Held pts z (enableSegment s u) := by
  unfold enableSegment
  iterate 45 all_goals try first
    | with_reducible assumption
    | with_reducible refine putIsland_held ?_
    | (intro x; clear_value x)
    | lift_lets
    | split

theorem admitEnables_held {lim : Nat} {l : List Nat} {amps : Nat} {s : State} (hS : Held pts z s)
    (hp : Sub [.fabric] pts := by exact Sub.up) : Held pts z (admitEnables lim l amps s) := by
  induction l generalizing amps s with
  | nil => exact hS
  | cons u l ih =>
    unfold admitEnables
    split
    · exact ih (enableSegment_held hS)
    · exact hS

theorem endInrushSkip_held {s : State} {die : Nat} (hS : Held pts z s) (hp : Sub [.power] pts := by exact Sub.up)
    : Held pts z (endInrushSkip s die) := by
  unfold endInrushSkip
  iterate 45 all_goals try first
    | with_reducible assumption
    | (intro x; have hx : Power := x; clear hx; subst x)
    | lift_lets
    | split
    | ((with_reducible refine held_set ?_ ?_); rotate_left; exact Sound.parts)

theorem execInrushSlot_held {t : Nat} {die : Nat} {amps : Nat} {s : State} (hS : Held pts z s)
    (hp : Sub [.now, .fabric, .power] pts := by exact Sub.up) : OutHeld pts z (execInrushSlot t die amps s) := by
  unfold execInrushSlot
  iterate 45 all_goals try first
    | with_reducible refine outHeld_next ?_
    | with_reducible assumption
    | with_reducible refine advance_held ?_
    | with_reducible refine admitEnables_held ?_
    | with_reducible refine endInrushSkip_held ?_

theorem execInrushWaitExpiry_held {t : Nat} {die : Nat} {s : State} (hS : Held pts z s)
    (hp : Sub [.now, .power] pts := by exact Sub.up) : OutHeld pts z (execInrushWaitExpiry t die s) := by
  unfold execInrushWaitExpiry
  iterate 45 all_goals try first
    | with_reducible refine outHeld_next ?_
    | with_reducible assumption
    | with_reducible refine advance_held ?_
    | (intro x; have hx : Power := x; clear hx; subst x)
    | lift_lets
    | split
    | ((with_reducible refine held_set ?_ ?_); rotate_left; exact Sound.parts)

theorem execAllowanceRamp_held {t : Nat} {mean1ms : Nat} {mean10ms : Nat} {s : State} (hS : Held pts z s)
    (hp : Sub [.now, .board, .link, .mailbox, .power, .blotter, .mgmt] pts := by exact Sub.up)
    : OutHeld pts z (execAllowanceRamp t mean1ms mean10ms s) := by
  unfold execAllowanceRamp
  iterate 45 all_goals try first
    | with_reducible refine outHeld_next ?_
    | with_reducible assumption
    | with_reducible refine advance_held ?_
    | with_reducible refine judgeReach_held ?_
    | with_reducible refine rampAllowance_held ?_
    | (intro x; have hx : Power := x; clear hx; subst x)
    | lift_lets
    | split
    | ((with_reducible refine held_set ?_ ?_); rotate_left; exact Sound.parts)

theorem execPowerStateEntry_held {t : Nat} {s : State} (hS : Held pts z s)
    (hp : Sub [.now, .power] pts := by exact Sub.up) : OutHeld pts z (execPowerStateEntry t s) := by
  unfold execPowerStateEntry
  iterate 45 all_goals try first
    | with_reducible refine outHeld_next ?_
    | with_reducible assumption
    | with_reducible refine advance_held ?_
    | with_reducible refine notIdle_held ?_
    | (intro x; have hx : Power := x; clear hx; subst x)
    | lift_lets
    | split
    | ((with_reducible refine held_set ?_ ?_); rotate_left; exact Sound.parts)

theorem moveUnit_held {s : State} {p : PowerState} {i : Nat} (hS : Held pts z s)
    (hp : Sub [.vellum, .fabric] pts := by exact Sub.up) : Held pts z (moveUnit s p i) := by
  unfold moveUnit
  iterate 45 all_goals try first
    | with_reducible assumption
    | with_reducible refine putIsland_held ?_
    | with_reducible refine modSite_held ?_
    | (intro x; clear_value x)
    | lift_lets
    | split

theorem wrapStore_held {s : State} (hS : Held pts z s) (hp : Sub [.trust] pts := by exact Sub.up)
    : Held pts z (wrapStore s) := by
  unfold wrapStore
  iterate 45 all_goals try first
    | with_reducible assumption
    | (intro x; have hx : Trust := x; clear hx; subst x)
    | lift_lets
    | ((with_reducible refine held_set ?_ ?_); rotate_left; exact Sound.parts)

theorem restoreStore_held {s : State} (hS : Held pts z s) (hp : Sub [.trust] pts := by exact Sub.up)
    : Held pts z (restoreStore s) := by
  unfold restoreStore
  iterate 45 all_goals try first
    | with_reducible assumption
    | (intro x; have hx : Trust := x; clear hx; subst x)
    | lift_lets
    | split
    | ((with_reducible refine held_set ?_ ?_); rotate_left; exact Sound.parts)

theorem reachState_held {s : State} {p : PowerState} (hS : Held pts z s)
    (hp : Sub [.board, .link, .mailbox, .serving, .images, .vellum, .fabric, .power, .blotter, .mgmt,
      .trust] pts := by exact Sub.up)
    : Held pts z (reachState s p) := by
  unfold reachState
  lift_lets
  intro b s1 w s2 s3
  have h1 : Held pts z s1 := by
    subst s1
    split
    · exact dropSramClears_held (clearFabric_held (wrapStore_held hS))
    · exact hS
  clear_value s1
  have h2 : Held pts z s2 := by
    subst s2 w
    split
    · refine held_set h1 (fun hh => ⟨hh.nvm, hh.vellum, hh.sram, ⟨hh.power.1, hh.power.2.1, ?_⟩, hh.thermal, hh.blotter,
        hh.events, hh.trust⟩)
      have hr := hh.power.2.2
      dsimp only
      omega
    · exact h1
  clear_value s2
  exact judgeReach_held (dropAllowance_held (held_set h2 Sound.parts))

theorem execPowerStateDescentMove_held {t : Nat} {s : State} (hS : Held pts z s)
    (hp : Sub [.now, .board, .link, .mailbox, .serving, .images, .vellum, .fabric, .power, .blotter, .mgmt,
      .trust] pts := by exact Sub.up)
    : OutHeld pts z (execPowerStateDescentMove t s) := by
  unfold execPowerStateDescentMove
  iterate 45 all_goals try first
    | with_reducible refine outHeld_next ?_
    | with_reducible assumption
    | with_reducible refine advance_held ?_
    | with_reducible refine moveUnit_held ?_
    | with_reducible refine reachState_held ?_
    | (intro x; first
        | (refine (fun (hx : Held pts z x) => ?_) ?_ <;> [clear_value x; subst x])
        | (have hx : Power := x; clear hx; subst x))
    | lift_lets
    | split
    | ((with_reducible refine held_set ?_ ?_); rotate_left; exact Sound.parts)

theorem inrushAll_held {s : State} (hS : Held pts z s) (hp : Sub [.fabric] pts := by exact Sub.up)
    : Held pts z (inrushAll s) := by
  unfold inrushAll
  iterate 45 all_goals try first
    | with_reducible assumption
    | with_reducible refine startInrush_held ?_
    | with_reducible refine foldl_held (fun _ _ _ => ?_) ?_

theorem execWake_held {t : Nat} {trigger : WakeTrigger} {s : State} (hS : Held pts z s)
    (hp : Sub [.now, .board, .link, .mailbox, .serving, .images, .vellum, .fabric, .power, .blotter, .mgmt,
      .trust] pts := by exact Sub.up)
    : OutHeld pts z (execWake t trigger s) := by
  unfold execWake
  iterate 45 all_goals try first
    | with_reducible refine outHeld_next ?_
    | with_reducible assumption
    | with_reducible refine putIsland_held ?_
    | with_reducible refine advance_held ?_
    | with_reducible refine judgeReach_held ?_
    | with_reducible refine choosePoint_held ?_
    | with_reducible refine reloadSlots_held ?_
    | with_reducible refine clearFabric_held ?_
    | with_reducible refine dropSramClears_held ?_
    | with_reducible refine wakeStep_held ?_
    | with_reducible refine restoreStore_held ?_
    | with_reducible refine inrushAll_held ?_
    | with_reducible refine foldl_held (fun _ _ _ => ?_) ?_
    | (intro x; first
        | (refine (fun (hx : Held pts z x) => ?_) ?_ <;> [clear_value x; subst x])
        | (refine (fun (hx : ∀ s a, Held pts z s → Held pts z (x s a)) => ?_) ?_ <;> [clear_value x; (subst x; intro _ _ _; dsimp only)])
        | (have hx : Vellum := x; clear hx; subst x)
        | (have hx : Power := x; clear hx; subst x)
        | clear_value x)
    | lift_lets
    | with_reducible apply_assumption -exfalso -symm
    | split
    | ((with_reducible refine held_set ?_ ?_); rotate_left; exact Sound.parts)

theorem execBaseEnergySplit_held {t : Nat} {mj : Nat} {s : State} (hS : Held pts z s)
    (hp : Sub [.now, .serving] pts := by exact Sub.up) : OutHeld pts z (execBaseEnergySplit t mj s) := by
  unfold execBaseEnergySplit
  iterate 45 all_goals try first
    | with_reducible refine outHeld_next ?_
    | with_reducible assumption
    | with_reducible refine advance_held ?_
    | with_reducible refine chargeEnergy_held ?_
    | with_reducible refine foldl_held (fun _ _ _ => ?_) ?_
    | (intro x; first
        | (refine (fun (hx : Held pts z x) => ?_) ?_ <;> [clear_value x; subst x])
        | clear_value x)
    | lift_lets
    | with_reducible refine held_free ?_

end Sys2Proof.Laws
end

