-- ==== Sys2Proof/Laws/KeepHeat.lean ====
section
/-! SUPPORT. What the functions of Machine/Heat.lean do, as Laws/Kept.lean says it: the parts that each one may change. -/

namespace Sys2Proof.Laws

set_option Elab.async false

open Sys2Proof Sys2Proof.Machine

variable {pts : List Part} {z : State}

theorem modPair_held {s : State} {u : Nat} {f : Pair → Pair} (hS : Held pts z s)
    (hp : Sub [.thermal] pts := by exact Sub.up) : Held pts z (modPair s u f) := by
  unfold modPair
  iterate 45 all_goals try first
    | with_reducible assumption
    | with_reducible refine putPair_held ?_

theorem withdrawUnit_held {s : State} {u : Nat} (hS : Held pts z s)
    (hp : Sub [.board, .link, .mailbox, .serving, .images, .vellum, .fabric, .power, .blotter, .mgmt, .trust,
      .map] pts := by exact Sub.up)
    : Held pts z (withdrawUnit s u) := by
  unfold withdrawUnit
  iterate 45 all_goals try first
    | with_reducible assumption
    | with_reducible refine fenceCluster_held ?_
    | with_reducible refine sdieLost_held ?_
    | split

theorem withdrawAround_held {s : State} {u : Nat} (hS : Held pts z s)
    (hp : Sub [.board, .link, .mailbox, .serving, .images, .vellum, .fabric, .power, .blotter, .mgmt, .trust,
      .map] pts := by exact Sub.up)
    : Held pts z (withdrawAround s u) := by
  unfold withdrawAround
  iterate 45 all_goals try first
    | with_reducible assumption
    | with_reducible refine withdrawUnit_held ?_
    | with_reducible refine foldl_held (fun _ _ _ => ?_) ?_

theorem warnSensor_held {s : State} {u : Nat} (hS : Held pts z s)
    (hp : Sub [.board, .link, .mailbox, .blotter] pts := by exact Sub.up) : Held pts z (warnSensor s u) := by
  unfold warnSensor
  iterate 45 all_goals try first
    | with_reducible assumption
    | with_reducible refine wantVector_held ?_
    | with_reducible refine postEvent_held ?_
    | with_reducible refine warn_held ?_
    | with_reducible refine endWarning_held ?_
    | split

theorem failSensor_held {s : State} {u : Nat} {w : Nat} (hS : Held pts z s)
    (hp : Sub [.board, .nvm, .link, .mailbox, .serving, .images, .vellum, .fabric, .power, .thermal, .blotter, .mgmt,
      .trust, .map] pts := by exact Sub.up)
    : Held pts z (failSensor s u w) := by
  unfold failSensor
  iterate 45 all_goals try first
    | with_reducible assumption
    | with_reducible refine putPair_held ?_
    | with_reducible refine note_held ?_
    | with_reducible refine withdrawAround_held ?_
    | with_reducible refine warnSensor_held ?_
    | (intro x; first
        | (refine (fun (hx : Held pts z x) => ?_) ?_ <;> [clear_value x; subst x])
        | (have hx : Nvm := x; clear hx; subst x)
        | clear_value x)
    | lift_lets
    | split
    | ((with_reducible refine held_set ?_ ?_); rotate_left; exact Sound.parts)

theorem takeReading_held {s : State} {x : Nat × Int × Int} (hS : Held pts z s)
    (hp : Sub [.board, .nvm, .link, .mailbox, .serving, .images, .vellum, .fabric, .power, .thermal, .blotter, .mgmt,
      .trust, .map] pts := by exact Sub.up)
    : Held pts z (takeReading s x) := by
  unfold takeReading
  iterate 45 all_goals try first
    | with_reducible assumption
    | with_reducible refine putPair_held ?_
    | with_reducible refine failSensor_held ?_
    | (intro x; first
        | (refine (fun (hx : Held pts z x) => ?_) ?_ <;> [clear_value x; subst x])
        | clear_value x)
    | lift_lets
    | split

theorem judgeFlag_held {s : State} {u : Nat} (hS : Held pts z s)
    (hp : Sub [.link, .mailbox, .thermal, .blotter, .mgmt] pts := by exact Sub.up) : Held pts z (judgeFlag s u) := by
  unfold judgeFlag
  iterate 45 all_goals try first
    | with_reducible assumption
    | with_reducible refine putPair_held ?_
    | with_reducible refine note_held ?_
    | (intro x; clear_value x)
    | lift_lets
    | split

theorem judgeWarning_held {s : State} {u : Nat} (hS : Held pts z s)
    (hp : Sub [.board, .link, .mailbox, .thermal, .blotter, .mgmt] pts := by exact Sub.up) : Held pts z (judgeWarning s u) := by
  unfold judgeWarning
  iterate 45 all_goals try first
    | with_reducible assumption
    | with_reducible refine putPair_held ?_
    | with_reducible refine note_held ?_
    | with_reducible refine warn_held ?_
    | with_reducible refine endWarning_held ?_
    | (intro x; clear_value x)
    | lift_lets
    | split

theorem judgeThrottle_held {s : State} {u : Nat} {old : Int} (hS : Held pts z s)
    (hp : Sub [.link, .mailbox, .thermal, .blotter, .mgmt] pts := by exact Sub.up) : Held pts z (judgeThrottle s u old) := by
  unfold judgeThrottle
  iterate 45 all_goals try first
    | with_reducible assumption
    | with_reducible refine putPair_held ?_
    | with_reducible refine note_held ?_
    | (intro x; clear_value x)
    | lift_lets
    | split

theorem countHot_held {s : State} {u : Nat} (hS : Held pts z s) (hp : Sub [.thermal] pts := by exact Sub.up)
    : Held pts z (countHot s u) := by
  unfold countHot
  iterate 45 all_goals try first
    | with_reducible assumption
    | with_reducible refine modPair_held ?_

theorem recordOnce_held {s : State} {r : StopRecord} (hr : r.seq = s.nvm.stopSeq + 1) (hS : Held pts z s)
    (hp : Sub [.board, .nvm] pts := by exact Sub.up) : Held pts z (recordOnce s r) := by
  unfold recordOnce
  split
  · exact hS
  · exact held_free (addStop_held hr hS)

theorem totalShutdown_held {s : State} {u : Nat} {trip : Bool} {also : SameSample} (hS : Held pts z s)
    (hp : Sub [.board, .nvm, .link, .mailbox, .serving, .images, .vellum, .fabric, .power, .thermal, .blotter, .mgmt,
      .trust, .fw, .map] pts := by exact Sub.up)
    : Held pts z (totalShutdown s u trip also) := by
  unfold totalShutdown
  iterate 45 all_goals try first
    | with_reducible assumption
    | with_reducible refine loseAll_held ?_
    | with_reducible refine holdFault_held ?_
    | with_reducible refine stopOnce_held ?_
    | refine recordOnce_held rfl ?_
    | (intro x; first
        | (refine (fun (hx : Held pts z x) => ?_) ?_ <;> [clear_value x; subst x])
        | clear_value x)
    | lift_lets
    | split
    | with_reducible refine held_free ?_

theorem dropCompat_held {s : State} (hS : Held pts z s)
    (hp : Sub [.free, .board, .link, .mailbox, .serving, .images, .vellum, .fabric, .power, .blotter,
      .mgmt] pts := by exact Sub.up)
    : Held pts z (dropCompat s) := by
  unfold dropCompat
  iterate 45 all_goals try first
    | with_reducible assumption
    | with_reducible refine completeStarted_held ?_
    | with_reducible refine revertCompat_held ?_
    | (intro x; clear_value x)
    | lift_lets
    | split

theorem dropHandover_held {s : State} (hS : Held pts z s)
    (hp : Sub [.link, .mailbox, .power, .blotter, .mgmt, .fw] pts := by exact Sub.up) : Held pts z (dropHandover s) := by
  unfold dropHandover
  iterate 45 all_goals try first
    | with_reducible assumption
    | with_reducible refine note_held ?_
    | with_reducible refine abandonHandover_held ?_
    | split

theorem shutdown_held {s : State} {v : Thermal} {b : Board} {i : Images} (hv : v.coolingCap = s.thermal.coolingCap)
    (hw : v.pairs = s.thermal.pairs)
    (hS : Held pts z s) (hp : Sub [.board, .images, .thermal] pts := by exact Sub.up)
    : Held pts z { s with images := i, thermal := v, board := b } :=
  held_set hS (fun hh => ⟨hh.nvm, hh.vellum, hh.sram, hh.power, ⟨hv ▸ hh.thermal.1, hw ▸ hh.thermal.2⟩,
    hh.blotter, hh.events, hh.trust⟩)

theorem partialShutdown_held {s : State} {u : Nat} {also : SameSample} (hS : Held pts z s)
    (hp : Sub [.free, .board, .nvm, .link, .mailbox, .serving, .images, .vellum, .fabric, .power, .thermal, .blotter,
      .mgmt, .trust, .fw] pts := by exact Sub.up)
    : Held pts z (partialShutdown s u also) := by
  have h1 : Held pts z (recordOnce s (mkStop s 1 (alsoBits { also with thermal := false }) (some u) false)) :=
    recordOnce_held rfl hS
  unfold partialShutdown
  generalize recordOnce s (mkStop s 1 (alsoBits { also with thermal := false }) (some u) false) = s1 at h1
  generalize protReading s u = r
  generalize List.range 40 = l
  dsimp only
  exact note_held (shutdown_held rfl rfl (foldl_held (fun _ _ h => modSite_held h) (dropSramClears_held (clearFabric_held
    (settleSessions_held (dropHandover_held (dropCompat_held (abandonSteps_held (endTurns_held (mapSessions_held h1))))))))))

theorem execSensorSample_held {t : Nat} {readings : List (Nat × Int × Int)} {also : SameSample} {s : State}
    (hS : Held pts z s)
    (hp : Sub [.now, .free, .board, .nvm, .link, .mailbox, .serving, .images, .vellum, .fabric, .power, .thermal,
      .blotter, .mgmt, .trust, .fw, .map] pts := by exact Sub.up)
    : OutHeld pts z (execSensorSample t readings also s) := by
  unfold execSensorSample
  iterate 45 all_goals try first
    | with_reducible refine outHeld_next ?_
    | with_reducible assumption
    | with_reducible refine advance_held ?_
    | with_reducible refine takeReading_held ?_
    | with_reducible refine judgeFlag_held ?_
    | with_reducible refine judgeWarning_held ?_
    | with_reducible refine judgeThrottle_held ?_
    | with_reducible refine countHot_held ?_
    | with_reducible refine totalShutdown_held ?_
    | with_reducible refine partialShutdown_held ?_
    | with_reducible refine foldl_held (fun _ _ _ => ?_) ?_
    | (intro x; first
        | (refine (fun (hx : Held pts z x) => ?_) ?_ <;> [clear_value x; subst x])
        | (have hx : Thermal := x; clear hx; subst x)
        | clear_value x)
    | lift_lets
    | split
    | ((with_reducible refine held_set ?_ ?_); rotate_left; exact Sound.parts)

theorem held_board {s : State} {b : Board} (hS : Held pts z s) (hp : Sub [.board] pts := by exact Sub.up) :
    Held pts z { s with board := b } :=
  held_free hS

theorem execBackupComparatorTrip_held {t unit : Nat} {sensorB : Bool} {a : Int} {b : Met Int SameSample} {s : State}
    (hS : Held pts z s)
    (hp : Sub [.now, .board, .nvm, .link, .mailbox, .serving, .images, .vellum, .fabric, .power, .thermal, .blotter,
      .mgmt, .trust, .fw, .map] pts := by exact Sub.up)
    : OutHeld pts z (execBackupComparatorTrip t unit sensorB a b s) := by
  unfold execBackupComparatorTrip
  refine outHeld_next ?_
  have h1 : Held pts z (advance s t) := advance_held hS
  generalize advance s t = s1 at h1
  have hq : ∀ s', Held pts z s' → Held pts z (holdFault (loseAll s' .stopped) true) :=
    fun s' h => holdFault_held (loseAll_held h)
  dsimp only
  split <;> split
  any_goals exact h1
  all_goals
    refine held_board (hq _ ?_)
    split
    · exact h1
    · split
      · exact stopOnce_held h1
      · exact recordOnce_held rfl h1

theorem endShutdownEntry_held {s : State} (hS : Held pts z s) (hp : Sub [.blotter] pts := by exact Sub.up)
    : Held pts z (endShutdownEntry s) :=
  blotter_held hS (fun hb => ⟨hb.1, by
    show (modWhere _ _ s.blotter.reserve).length ≤ 64
    rw [length_modWhere]
    exact hb.2.1, hb.2.2⟩)

theorem returnFromShutdown_held {s : State} (hS : Held pts z s)
    (hp : Sub [.board, .nvm, .link, .mailbox, .serving, .images, .vellum, .fabric, .power, .thermal, .blotter,
      .mgmt] pts := by exact Sub.up)
    : Held pts z (returnFromShutdown s) := by
  unfold returnFromShutdown
  iterate 45 all_goals try first
    | with_reducible assumption
    | with_reducible refine reloadSlots_held ?_
    | with_reducible refine prepareAllFailed_held ?_
    | with_reducible refine wakeStep_held ?_
    | with_reducible refine reportStops_held ?_
    | with_reducible refine inrushAll_held ?_
    | with_reducible refine endShutdownEntry_held ?_
    | (intro x; first
        | (have hx : Vellum := x; clear hx; subst x)
        | (have hx : Power := x; clear hx; subst x)
        | (have hx : Thermal := x; clear hx; subst x)
        | clear_value x)
    | lift_lets
    | with_reducible refine held_free ?_
    | ((with_reducible refine held_set ?_ ?_); rotate_left
       exact fun hh => ⟨hh.nvm, hh.vellum, hh.sram, hh.power,
         ⟨Nat.le_refl 18500, hh.thermal.2⟩, hh.blotter, hh.events, hh.trust⟩)

theorem execThermalAck_held {h : Hdr} {s : State} (hS : Held pts z s)
    (hp : Sub [.now, .board, .nvm, .link, .mailbox, .serving, .images, .vellum, .fabric, .power, .thermal, .blotter,
      .mgmt] pts := by exact Sub.up)
    : OutHeld pts z (execThermalAck h s) := by
  unfold execThermalAck
  iterate 45 all_goals try first
    | with_reducible refine outHeld_next ?_
    | with_reducible assumption
    | with_reducible refine done_held ?_
    | with_reducible refine refuse_held ?_
    | with_reducible refine returnFromShutdown_held ?_
    | with_reducible refine runCommand_held (fun _ _ _ => ?_) ?_
    | lift_lets
    | split

theorem execThrottleDeepen_held {t : Nat} {unit : Nat} {s : State} (hS : Held pts z s)
    (hp : Sub [.now, .link, .mailbox, .thermal, .blotter, .mgmt] pts := by exact Sub.up)
    : OutHeld pts z (execThrottleDeepen t unit s) := by
  unfold execThrottleDeepen
  iterate 45 all_goals try first
    | with_reducible refine outHeld_next ?_
    | with_reducible assumption
    | with_reducible refine putPair_held ?_
    | with_reducible refine advance_held ?_
    | with_reducible refine note_held ?_
    | lift_lets
    | split

theorem execThrottleRelease_held {t : Nat} {unit : Nat} {s : State} (hS : Held pts z s)
    (hp : Sub [.now, .thermal] pts := by exact Sub.up) : OutHeld pts z (execThrottleRelease t unit s) := by
  unfold execThrottleRelease
  iterate 45 all_goals try first
    | with_reducible refine outHeld_next ?_
    | with_reducible assumption
    | with_reducible refine putPair_held ?_
    | with_reducible refine advance_held ?_
    | lift_lets
    | split

theorem checkEnvelope_held {s : State} {u : Nat} (hS : Held pts z s)
    (hp : Sub [.board, .nvm, .link, .mailbox, .serving, .images, .vellum, .fabric, .power, .thermal, .blotter, .mgmt,
      .trust, .map] pts := by exact Sub.up)
    : Held pts z (checkEnvelope s u) := by
  unfold checkEnvelope
  iterate 45 all_goals try first
    | with_reducible assumption
    | with_reducible refine putPair_held ?_
    | with_reducible refine failSensor_held ?_
    | (intro x; first
        | (refine (fun (hx : Held pts z x) => ?_) ?_ <;> [clear_value x; subst x])
        | clear_value x)
    | lift_lets
    | split

theorem execSensorEnvelopeCheck_held {t : Nat} {s : State} (hS : Held pts z s)
    (hp : Sub [.now, .board, .nvm, .link, .mailbox, .serving, .images, .vellum, .fabric, .power, .thermal, .blotter,
      .mgmt, .trust, .map] pts := by exact Sub.up)
    : OutHeld pts z (execSensorEnvelopeCheck t s) := by
  unfold execSensorEnvelopeCheck
  iterate 45 all_goals try first
    | with_reducible refine outHeld_next ?_
    | with_reducible assumption
    | with_reducible refine advance_held ?_
    | with_reducible refine checkEnvelope_held ?_
    | with_reducible refine foldl_held (fun _ _ _ => ?_) ?_
    | lift_lets
    | split

theorem execSensorFlagClear_held {t : Nat} {unit : Nat} {s : State} (hS : Held pts z s)
    (hp : Sub [.now, .thermal] pts := by exact Sub.up) : OutHeld pts z (execSensorFlagClear t unit s) := by
  unfold execSensorFlagClear
  iterate 45 all_goals try first
    | with_reducible refine outHeld_next ?_
    | with_reducible assumption
    | with_reducible refine putPair_held ?_
    | with_reducible refine advance_held ?_
    | lift_lets
    | split

theorem execCoolantJudge_held {t : Nat} {inlet : Int} (outlet : Int) {power : Nat} {s : State} (hS : Held pts z s)
    (hp : Sub [.now, .board, .link, .mailbox, .serving, .thermal, .blotter, .mgmt] pts := by exact Sub.up)
    : OutHeld pts z (execCoolantJudge t inlet outlet power s) := by
  unfold execCoolantJudge
  iterate 45 all_goals try first
    | with_reducible refine outHeld_next ?_
    | with_reducible assumption
    | with_reducible refine advance_held ?_
    | with_reducible refine note_held ?_
    | with_reducible refine warn_held ?_
    | with_reducible refine endWarning_held ?_
    | with_reducible refine forfeitAll_held ?_
    | (intro x; first
        | (refine (fun (hx : Held pts z x) => ?_) ?_ <;> [clear_value x; subst x])
        | (have hx : Thermal := x; clear hx; subst x)
        | clear_value x)
    | lift_lets
    | split
    | ((with_reducible refine held_set ?_ ?_); rotate_left; exact Sound.parts)

theorem coolingCapOf_le (s : State) (inlet outlet : Int) (power : Nat) (steady : Bool) :
    coolingCapOf s inlet outlet power steady ≤ 18500 := by
  unfold coolingCapOf tens
  dsimp only
  omega

theorem execCoolingCapRevise_held {t : Nat} {inlet outlet : Int} {power : Nat} {steady : Bool} {s : State}
    (hS : Held pts z s)
    (hp : Sub [.now, .board, .link, .mailbox, .serving, .power, .thermal, .blotter, .mgmt] pts := by exact Sub.up)
    : OutHeld pts z (execCoolingCapRevise t inlet outlet power steady s) := by
  unfold execCoolingCapRevise
  refine outHeld_next ?_
  have h1 : Held pts z (advance s t) := advance_held hS
  generalize advance s t = s1 at h1
  have hc := coolingCapOf_le s1 inlet outlet power steady
  dsimp only
  generalize coolingCapOf s1 inlet outlet power steady = cap at hc
  have h2 : Held pts z { s1 with thermal := { s1.thermal with coolingCap := cap, power := power } } :=
    held_set h1 (fun hh => ⟨hh.nvm, hh.vellum, hh.sram, hh.power, ⟨hc, hh.thermal.2⟩, hh.blotter,
      hh.events, hh.trust⟩)
  split
  · split
    · exact forfeitAll_held (judgeReach_held (dropAllowance_held h2))
    · exact judgeReach_held (dropAllowance_held h2)
  · exact h1

theorem execCoolantFlowWrite_held {t : Nat} {flow : Nat} {s : State} (hS : Held pts z s)
    (hp : Sub [.now, .thermal] pts := by exact Sub.up) : OutHeld pts z (execCoolantFlowWrite t flow s) := by
  unfold execCoolantFlowWrite
  iterate 45 all_goals try first
    | with_reducible refine outHeld_next ?_
    | with_reducible assumption
    | with_reducible refine advance_held ?_
    | (intro x; have hx : Thermal := x; clear hx; subst x)
    | lift_lets
    | split
    | ((with_reducible refine held_set ?_ ?_); rotate_left; exact Sound.parts)

theorem execFlowReadingStale_held {t : Nat} {s : State} (hS : Held pts z s)
    (hp : Sub [.now, .serving, .thermal] pts := by exact Sub.up) : OutHeld pts z (execFlowReadingStale t s) := by
  unfold execFlowReadingStale
  iterate 45 all_goals try first
    | with_reducible refine outHeld_next ?_
    | with_reducible assumption
    | with_reducible refine advance_held ?_
    | with_reducible refine forfeitAll_held ?_
    | (intro x; have hx : Thermal := x; clear hx; subst x)
    | lift_lets
    | split
    | ((with_reducible refine held_set ?_ ?_); rotate_left; exact Sound.parts)

end Sys2Proof.Laws
end

