-- ==== Sys2Proof/Laws/KeepMailboxEvents.lean ====
section
/-! SUPPORT. What the functions of Machine/MailboxEvents.lean do, as Laws/Kept.lean says it: the parts that each one may change. -/

namespace Sys2Proof.Laws

set_option Elab.async false

open Sys2Proof Sys2Proof.Machine

variable {pts : List Part} {z : State}

theorem execSqTail_held {t : Nat} {func : Nat} {qp : Nat} {value : Nat} {s : State} (hS : Held pts z s)
    (hp : Sub [.now, .link, .mailbox, .blotter, .mgmt] pts := by exact Sub.up)
    : OutHeld pts z (execSqTail t func qp value s) := by
  unfold execSqTail
  iterate 45 all_goals try first
    | with_reducible refine outHeld_next ?_
    | with_reducible assumption
    | with_reducible refine putQueue_held ?_
    | with_reducible refine advance_held ?_
    | with_reducible refine queueError_held ?_
    | lift_lets
    | split

theorem execCqHead_held {t : Nat} {func : Nat} {qp : Nat} {value : Nat} {s : State} (hS : Held pts z s)
    (hp : Sub [.now, .link, .mailbox, .blotter, .mgmt] pts := by exact Sub.up)
    : OutHeld pts z (execCqHead t func qp value s) := by
  unfold execCqHead
  iterate 45 all_goals try first
    | with_reducible refine outHeld_next ?_
    | with_reducible assumption
    | with_reducible refine putQueue_held ?_
    | with_reducible refine advance_held ?_
    | with_reducible refine flushHeld_held ?_
    | with_reducible refine queueError_held ?_
    | (intro x; clear_value x)
    | lift_lets
    | split

theorem execTsHead_held {t : Nat} {func : Nat} {qp : Nat} {value : Nat} {s : State} (hS : Held pts z s)
    (hp : Sub [.now, .link, .mailbox, .blotter, .mgmt] pts := by exact Sub.up)
    : OutHeld pts z (execTsHead t func qp value s) := by
  unfold execTsHead
  iterate 45 all_goals try first
    | with_reducible refine outHeld_next ?_
    | with_reducible assumption
    | with_reducible refine putQueue_held ?_
    | with_reducible refine advance_held ?_
    | with_reducible refine accessFault_held ?_
    | lift_lets
    | split

theorem activate_held {s : State} {func : Nat} {qp : Nat} (hS : Held pts z s)
    (hp : Sub [.link, .mailbox, .serving, .images, .vellum, .power, .blotter, .mgmt, .trust] pts := by exact Sub.up)
    : Held pts z (activate s func qp) := by
  unfold activate
  iterate 45 all_goals try first
    | with_reducible assumption
    | with_reducible refine putQueue_held ?_
    | with_reducible refine drainAll_held ?_
    | with_reducible refine writeEvent_held ?_
    | with_reducible refine postBacklog_held ?_
    | with_reducible refine flushHeld_held ?_
    | (intro x; first
        | (refine (fun (hx : Held pts z x) => ?_) ?_ <;> [clear_value x; subst x])
        | clear_value x)
    | lift_lets
    | split

theorem refuseEnable_held {s : State} {func : Nat} {qp : Nat} (hS : Held pts z s)
    (hp : Sub [.mailbox] pts := by exact Sub.up) : Held pts z (refuseEnable s func qp) := by
  unfold refuseEnable
  iterate 45 all_goals try first
    | with_reducible assumption
    | with_reducible refine putQueue_held ?_

theorem refuseToken_held {s : State} {func : Nat} {qp : Nat} (hS : Held pts z s)
    (hp : Sub [.link, .mailbox, .blotter, .mgmt] pts := by exact Sub.up) : Held pts z (refuseToken s func qp) := by
  unfold refuseToken
  iterate 45 all_goals try first
    | with_reducible assumption
    | with_reducible refine accessFault_held ?_
    | with_reducible refine setToken_held ?_
    | with_reducible refine refuseEnable_held ?_

theorem execQueueEnable_held {t : Nat} {func : Nat} {qp : Nat} {s : State} (hS : Held pts z s)
    (hp : Sub [.now, .free, .link, .mailbox, .serving, .images, .vellum, .power, .blotter, .mgmt,
      .trust] pts := by exact Sub.up)
    : OutHeld pts z (execQueueEnable t func qp s) := by
  unfold execQueueEnable
  iterate 45 all_goals try first
    | with_reducible refine outHeld_next ?_
    | with_reducible assumption
    | with_reducible refine advance_held ?_
    | with_reducible refine dropBinding_held ?_
    | with_reducible refine bindFresh_held ?_
    | with_reducible refine activate_held ?_
    | with_reducible refine refuseEnable_held ?_
    | with_reducible refine refuseToken_held ?_
    | lift_lets
    | split

theorem muteFetched_held {s : State} {func : Nat} {qp : Nat} (hS : Held pts z s)
    (hp : Sub [.mailbox] pts := by exact Sub.up) : Held pts z (muteFetched s func qp) := by
  unfold muteFetched
  iterate 45 all_goals try first
    | with_reducible assumption
    | (intro x; clear_value x)
    | lift_lets
    | with_reducible refine held_free ?_

theorem execQueueDisable_held {t : Nat} {func : Nat} {qp : Nat} {s : State} (hS : Held pts z s)
    (hp : Sub [.now, .link, .mailbox, .serving, .images, .vellum, .power, .blotter, .mgmt, .trust] pts := by exact Sub.up)
    : OutHeld pts z (execQueueDisable t func qp s) := by
  unfold execQueueDisable
  iterate 45 all_goals try first
    | with_reducible refine outHeld_next ?_
    | with_reducible assumption
    | with_reducible refine putQueue_held ?_
    | with_reducible refine advance_held ?_
    | with_reducible refine dropTurns_held ?_
    | with_reducible refine muteFetched_held ?_
    | (intro x; first
        | (refine (fun (hx : Held pts z x) => ?_) ?_ <;> [clear_value x; subst x])
        | clear_value x)
    | lift_lets
    | split

theorem execQueueDrained_held {t : Nat} {func : Nat} {qp : Nat} {s : State} (hS : Held pts z s)
    (hp : Sub [.now, .mailbox] pts := by exact Sub.up) : OutHeld pts z (execQueueDrained t func qp s) := by
  unfold execQueueDrained
  iterate 45 all_goals try first
    | with_reducible refine outHeld_next ?_
    | with_reducible assumption
    | with_reducible refine putQueue_held ?_
    | with_reducible refine advance_held ?_
    | lift_lets
    | split

theorem execEventCauseClear_held {t : Nat} {bits : Nat} {s : State} (hS : Held pts z s)
    (hp : Sub [.now, .link, .blotter] pts := by exact Sub.up) : OutHeld pts z (execEventCauseClear t bits s) := by
  unfold execEventCauseClear
  iterate 45 all_goals try first
    | with_reducible refine outHeld_next ?_
    | with_reducible assumption
    | with_reducible refine advance_held ?_
    | with_reducible refine ackWarnings_held ?_
    | (intro x; first
        | (refine (fun (hx : Held pts z x) => ?_) ?_ <;> [clear_value x; subst x])
        | clear_value x)
    | lift_lets
    | split
    | with_reducible refine held_free ?_

theorem execExportEnable_held {t : Nat} {value : Bool} {s : State} (hS : Held pts z s)
    (hp : Sub [.now, .link, .images] pts := by exact Sub.up) : OutHeld pts z (execExportEnable t value s) := by
  unfold execExportEnable
  iterate 45 all_goals try first
    | with_reducible refine outHeld_next ?_
    | with_reducible assumption
    | with_reducible refine advance_held ?_
    | with_reducible refine endExport_held ?_
    | (intro x; first
        | (refine (fun (hx : Held pts z x) => ?_) ?_ <;> [clear_value x; subst x])
        | clear_value x)
    | lift_lets
    | split
    | with_reducible refine held_free ?_

theorem execHostTimeRead_held {t : Nat} {func : Met Nat BarRead} {s : State} (hS : Held pts z s)
    (hp : Sub [.now, .link, .mailbox, .blotter, .mgmt] pts := by exact Sub.up) : OutHeld pts z (execHostTimeRead t func s) := by
  unfold execHostTimeRead
  iterate 45 all_goals try first
    | with_reducible refine outHeld_next ?_
    | with_reducible assumption
    | with_reducible refine putFn_held ?_
    | with_reducible refine advance_held ?_
    | with_reducible refine accessFault_held ?_
    | (intro x; first
        | (refine (fun (hx : Held pts z x) => ?_) ?_ <;> [clear_value x; subst x])
        | clear_value x)
    | lift_lets
    | split
    | with_reducible refine held_free ?_

theorem wideSet_held {s : State} {func : Nat} {w : Wide} {v : Nat} (hS : Held pts z s)
    (hp : Sub [.link, .mailbox] pts := by exact Sub.up) : Held pts z (wideSet s func w v) := by
  unfold wideSet
  iterate 45 all_goals try first
    | with_reducible assumption
    | with_reducible refine putQueue_held ?_
    | with_reducible refine putFn_held ?_
    | (intro x; clear_value x)
    | lift_lets
    | split

theorem lockedTouch_held {s : State} {func : Nat} (hS : Held pts z s)
    (hp : Sub [.link, .mailbox, .serving, .images, .vellum, .power, .blotter, .mgmt, .trust] pts := by exact Sub.up)
    : Held pts z (lockedTouch s func) := by
  unfold lockedTouch
  iterate 45 all_goals try first
    | with_reducible assumption
    | with_reducible refine tdiError_held ?_
    | (intro x; clear_value x)
    | lift_lets
    | split

theorem write4Pair_held {s : State} {func : Nat} {qp : Nat} {reg : Nat} {v : Nat} (hS : Held pts z s)
    (hp : Sub [.link, .mailbox, .blotter, .mgmt] pts := by exact Sub.up) : Held pts z (write4Pair s func qp reg v) := by
  unfold write4Pair
  iterate 45 all_goals try first
    | with_reducible assumption
    | with_reducible refine putQueue_held ?_
    | with_reducible refine accessFault_held ?_
    | (intro x; clear_value x)
    | lift_lets
    | split

theorem write4_held {s : State} {func : Nat} {offset : Nat} {v : Nat} (hS : Held pts z s)
    (hp : Sub [.link, .mailbox, .serving, .images, .vellum, .power, .blotter, .mgmt, .trust] pts := by exact Sub.up)
    : Held pts z (write4 s func offset v) := by
  unfold write4
  iterate 45 all_goals try first
    | with_reducible assumption
    | with_reducible refine putFn_held ?_
    | with_reducible refine accessFault_held ?_
    | with_reducible refine wideSet_held ?_
    | with_reducible refine lockedTouch_held ?_
    | with_reducible refine write4Pair_held ?_
    | (intro x; first
        | (refine (fun (hx : Held pts z x) => ?_) ?_ <;> [clear_value x; subst x])
        | clear_value x)
    | lift_lets
    | split

theorem write8_held {s : State} {func : Nat} {offset : Nat} {v : Nat} (hS : Held pts z s)
    (hp : Sub [.link, .mailbox, .serving, .images, .vellum, .power, .blotter, .mgmt, .trust] pts := by exact Sub.up)
    : Held pts z (write8 s func offset v) := by
  unfold write8
  iterate 45 all_goals try first
    | with_reducible assumption
    | with_reducible refine putFn_held ?_
    | with_reducible refine accessFault_held ?_
    | with_reducible refine wideSet_held ?_
    | with_reducible refine write4_held ?_
    | (intro x; first
        | (refine (fun (hx : Held pts z x) => ?_) ?_ <;> [clear_value x; subst x])
        | clear_value x)
    | lift_lets
    | split

theorem takeHostSet_held {s : State} {func : Nat} {c : HostSet} (hS : Held pts z s)
    (hp : Sub [.link, .mailbox, .serving, .images, .vellum, .power, .blotter, .mgmt, .trust] pts := by exact Sub.up)
    : Held pts z (takeHostSet s func c) := by
  unfold takeHostSet
  iterate 45 all_goals try first
    | with_reducible assumption
    | with_reducible refine lockedTouch_held ?_
    | (intro x; clear_value x)
    | lift_lets
    | split
    | with_reducible refine held_free ?_

theorem execRegisterWrite_held {t : Met Nat HostSet} {func : Nat} {offset : Nat} {size : Nat} {value : Nat} {s : State}
    (hS : Held pts z s)
    (hp : Sub [.now, .link, .mailbox, .serving, .images, .vellum, .power, .blotter, .mgmt, .trust] pts := by exact Sub.up)
    : OutHeld pts z (execRegisterWrite t func offset size value s) := by
  unfold execRegisterWrite
  iterate 45 all_goals try first
    | with_reducible refine outHeld_next ?_
    | with_reducible assumption
    | with_reducible refine advance_held ?_
    | with_reducible refine accessFault_held ?_
    | with_reducible refine write4_held ?_
    | with_reducible refine write8_held ?_
    | with_reducible refine takeHostSet_held ?_
    | (intro x; refine (fun (hx : Held pts z x) => ?_) ?_ <;> [clear_value x; subst x])
    | lift_lets
    | split

theorem execBankWrite_held {requester : Nat} {offset : Nat} {size : Nat} {value : Nat} {s : State} (hS : Held pts z s)
    (hp : Sub [.images] pts := by exact Sub.up) : OutHeld pts z (execBankWrite requester offset size value s) := by
  unfold execBankWrite
  iterate 45 all_goals try first
    | with_reducible refine outHeld_next ?_
    | with_reducible assumption
    | (intro x; clear_value x)
    | lift_lets
    | split
    | with_reducible refine held_free ?_

theorem execExportWindowRead_held {t : Nat} {requester : Nat} {offset : Nat} {s : State} (hS : Held pts z s)
    (hp : Sub [.now, .link, .mailbox, .blotter, .mgmt] pts := by exact Sub.up)
    : OutHeld pts z (execExportWindowRead t requester offset s) := by
  unfold execExportWindowRead
  iterate 45 all_goals try first
    | with_reducible refine outHeld_next ?_
    | with_reducible assumption
    | with_reducible refine advance_held ?_
    | with_reducible refine accessFault_held ?_
    | with_reducible refine aerError_held ?_
    | (intro x; clear_value x)
    | lift_lets
    | split
    | with_reducible refine held_free ?_

theorem execDescriptorFetch_held {t : Nat} {func : Nat} {qp : Nat} {desc : List Byte} {readOk : Bool} {s : State}
    (hS : Held pts z s) (hp : Sub [.now, .link, .mailbox, .blotter, .mgmt] pts := by exact Sub.up)
    : OutHeld pts z (execDescriptorFetch t func qp desc readOk s) := by
  unfold execDescriptorFetch
  iterate 45 all_goals try first
    | with_reducible refine outHeld_next ?_
    | with_reducible assumption
    | with_reducible refine putQueue_held ?_
    | with_reducible refine advance_held ?_
    | with_reducible refine answerCid_held ?_
    | with_reducible refine queueError_held ?_
    | (intro x; first
        | (refine (fun (hx : Held pts z x) => ?_) ?_ <;> [clear_value x; subst x])
        | clear_value x)
    | lift_lets
    | split
    | with_reducible refine held_free ?_

theorem withdraw_held {s : State} {f : Fetched} (hS : Held pts z s) (hp : Sub [.power, .fw] pts := by exact Sub.up)
    : Held pts z (withdraw s f) := by
  unfold withdraw
  split
  · exact hS
  split
  · exact held_free hS
  split
  · exact held_set hS Sound.parts
  split
  · exact held_set hS (fun hh => ⟨hh.nvm, hh.vellum, hh.sram, ⟨Nat.min_le_left .., hh.power.2⟩, hh.thermal,
      hh.blotter, hh.events, hh.trust⟩)
  · exact hS

theorem execCommandTimeout_held {t : Nat} {func : Nat} {qp : Nat} {cid : Nat} {sameCycle : Bool} {s : State}
    (hS : Held pts z s) (hp : Sub [.now, .link, .mailbox, .power, .blotter, .mgmt, .fw] pts := by exact Sub.up)
    : OutHeld pts z (execCommandTimeout t func qp cid sameCycle s) := by
  unfold execCommandTimeout
  iterate 45 all_goals try first
    | with_reducible refine outHeld_next ?_
    | with_reducible assumption
    | with_reducible refine advance_held ?_
    | with_reducible refine completeAt_held ?_
    | with_reducible refine withdraw_held ?_
    | (intro x; clear_value x)
    | lift_lets
    | split
    | with_reducible refine held_free ?_

theorem execEventBacklogPost_held {t : Nat} {func : Nat} {s : State} (hS : Held pts z s)
    (hp : Sub [.now, .link, .mailbox] pts := by exact Sub.up) : OutHeld pts z (execEventBacklogPost t func s) := by
  unfold execEventBacklogPost
  iterate 45 all_goals try first
    | with_reducible refine outHeld_next ?_
    | with_reducible assumption
    | with_reducible refine advance_held ?_
    | with_reducible refine postBacklog_held ?_

theorem execMsixSend_held {t : Met Nat MsixCtl} {func : Nat} {vector : Nat} {s : State} (hS : Held pts z s)
    (hp : Sub [.now, .link] pts := by exact Sub.up) : OutHeld pts z (execMsixSend t func vector s) := by
  unfold execMsixSend
  iterate 45 all_goals try first
    | with_reducible refine outHeld_next ?_
    | with_reducible assumption
    | with_reducible refine putFn_held ?_
    | with_reducible refine advance_held ?_
    | (intro x; subst x)
    | lift_lets
    | split

theorem execTsRecordWrite_held {t : Nat} {session : Nat} {s : State} (hS : Held pts z s)
    (hp : Sub [.now, .link, .mailbox, .serving, .images, .vellum, .power, .blotter, .mgmt, .trust] pts := by exact Sub.up)
    : OutHeld pts z (execTsRecordWrite t session s) := by
  unfold execTsRecordWrite
  iterate 45 all_goals try first
    | with_reducible refine outHeld_next ?_
    | with_reducible assumption
    | with_reducible refine advance_held ?_
    | with_reducible refine pump_held ?_
    | with_reducible refine lateStop_held ?_

theorem execHoldingBufferDrain_held {t : Nat} {func : Nat} {qp : Nat} {s : State} (hS : Held pts z s)
    (hp : Sub [.now, .link, .mailbox, .serving, .images, .vellum, .power, .blotter, .mgmt, .trust] pts := by exact Sub.up)
    : OutHeld pts z (execHoldingBufferDrain t func qp s) := by
  unfold execHoldingBufferDrain
  iterate 45 all_goals try first
    | with_reducible refine outHeld_next ?_
    | with_reducible assumption
    | with_reducible refine advance_held ?_
    | with_reducible refine pumpAll_held ?_
    | with_reducible refine drainAll_held ?_
    | with_reducible refine foldl_held (fun _ _ _ => ?_) ?_
    | lift_lets
    | split

theorem execBindingExpiry_held {t : Nat} {func : Nat} {s : State} (hS : Held pts z s)
    (hp : Sub [.now, .link, .mailbox, .serving, .images, .vellum, .power, .blotter, .mgmt, .trust] pts := by exact Sub.up)
    : OutHeld pts z (execBindingExpiry t func s) := by
  unfold execBindingExpiry
  iterate 45 all_goals try first
    | with_reducible refine outHeld_next ?_
    | with_reducible assumption
    | with_reducible refine advance_held ?_
    | with_reducible refine dropBinding_held ?_
    | lift_lets
    | split

end Sys2Proof.Laws
end

