-- ==== Sys2Proof/Laws/KeepPowerCmds.lean ====
section
/-! SUPPORT. What the functions of Machine/PowerCmds.lean do, as Laws/Kept.lean says it: the parts that each one may change. -/

namespace Sys2Proof.Laws

set_option Elab.async false

open Sys2Proof Sys2Proof.Machine

variable {pts : List Part} {z : State}

theorem acceptCap_held {s : State} {capW : Nat} (hc : capW ≤ 18500) (hS : Held pts z s)
    (hp : Sub [.power] pts := by exact Sub.up) : Held pts z (acceptCap s capW) := by
  unfold acceptCap
  refine held_set hS (fun hh => ⟨hh.nvm, hh.vellum, hh.sram, ⟨?_, hh.power.2⟩, hh.thermal,
    hh.blotter, hh.events, hh.trust⟩)
  show (if capW = 0 then 18500 else capW) ≤ 18500
  split
  · exact Nat.le_refl _
  · exact hc

theorem execPowerCapSet_held {h : Hdr} {capW : Nat} {s : State} (hS : Held pts z s)
    (hp : Sub [.now, .board, .link, .mailbox, .serving, .power, .blotter, .mgmt] pts := by exact Sub.up)
    : OutHeld pts z (execPowerCapSet h capW s) := by
  unfold execPowerCapSet
  refine outHeld_next (runCommand_held (fun s1 hi h1 => ?_) hS)
  have hc : capW ≤ 18500 := by simpa using hi
  dsimp only
  have h2 := acceptCap_held hc h1
  generalize acceptCap s1 capW = s2 at h2
  have h3 : Held pts z (startLater { s2 with power := { s2.power with capBefore := some s1.power.hostCap } } h opPowerCapSet 0) :=
    startLater_held (held_set h2 Sound.parts)
  generalize startLater { s2 with power := { s2.power with capBefore := some s1.power.hostCap } } h opPowerCapSet 0 = s3 at h3
  split
  · exact bindDue_held h3
  · exact h3

theorem execCapBind_held {t : Nat} {s : State} (hS : Held pts z s)
    (hp : Sub [.now, .board, .link, .mailbox, .serving, .images, .vellum, .fabric, .power, .blotter, .mgmt, .trust,
      .map] pts := by exact Sub.up)
    : OutHeld pts z (execCapBind t s) := by
  unfold execCapBind
  iterate 45 all_goals try first
    | with_reducible refine outHeld_next ?_
    | with_reducible assumption
    | with_reducible refine advance_held ?_
    | with_reducible refine stepBoundary_held ?_
    | lift_lets
    | split

theorem execPowerCapEffecter_held {t capW : Nat} {s : State} (hS : Held pts z s)
    (hp : Sub [.now, .board, .link, .mailbox, .serving, .power, .blotter, .mgmt] pts := by exact Sub.up)
    : OutHeld pts z (execPowerCapEffecter t capW s) := by
  unfold execPowerCapEffecter
  refine outHeld_next ?_
  have h1 : Held pts z (advance s t) := advance_held hS
  generalize advance s t = s1 at h1
  dsimp only
  split
  · rename_i hc
    simp only [Bool.and_eq_true, decide_eq_true_eq] at hc
    split
    · exact bindDue_held (acceptCap_held hc.2 h1)
    · exact acceptCap_held hc.2 h1
  · exact h1

theorem execCapFloorSet_held {h : Hdr} {floorW : Nat} {s : State} (hS : Held pts z s)
    (hp : Sub [.now, .link, .mailbox, .power, .blotter, .mgmt] pts := by exact Sub.up)
    : OutHeld pts z (execCapFloorSet h floorW s) := by
  unfold execCapFloorSet
  iterate 45 all_goals try first
    | with_reducible refine outHeld_next ?_
    | with_reducible assumption
    | with_reducible refine done_held ?_
    | with_reducible refine refuse_held ?_
    | with_reducible refine runCommand_held (fun _ _ _ => ?_) ?_
    | (intro x; have hx : Power := x; clear hx; subst x)
    | lift_lets
    | split
    | ((with_reducible refine held_set ?_ ?_); rotate_left; exact Sound.parts)

theorem execLatencyToleranceSet_held {h : Hdr} {toleranceNs : Nat} {s : State} (hS : Held pts z s)
    (hp : Sub [.now, .link, .mailbox, .power, .blotter, .mgmt] pts := by exact Sub.up)
    : OutHeld pts z (execLatencyToleranceSet h toleranceNs s) := by
  unfold execLatencyToleranceSet
  iterate 45 all_goals try first
    | with_reducible refine outHeld_next ?_
    | with_reducible assumption
    | with_reducible refine refuse_held ?_
    | with_reducible refine startLater_held ?_
    | with_reducible refine runCommand_held (fun _ _ _ => ?_) ?_
    | with_reducible refine toleranceDue_held ?_
    | (intro x; first
        | (refine (fun (hx : Held pts z x) => ?_) ?_ <;> [clear_value x; subst x])
        | (have hx : Power := x; clear hx; subst x)
        | clear_value x)
    | lift_lets
    | split
    | ((with_reducible refine held_set ?_ ?_); rotate_left; exact Sound.parts)

theorem execPowerRead_held {h : Hdr} {s : State} (hS : Held pts z s)
    (hp : Sub [.now, .link, .mailbox, .blotter, .mgmt] pts := by exact Sub.up) : OutHeld pts z (execPowerRead h s) := by
  unfold execPowerRead
  iterate 45 all_goals try first
    | with_reducible refine outHeld_next ?_
    | with_reducible assumption
    | with_reducible refine complete_held ?_
    | with_reducible refine runCommand_held (fun _ _ _ => ?_) ?_

end Sys2Proof.Laws
end

