-- ==== Sys2Proof/Laws/KeepReports.lean ====
section
/-! SUPPORT. What the functions of Machine/Reports.lean do, as Laws/Kept.lean says it: the parts that each one may change. -/

namespace Sys2Proof.Laws

set_option Elab.async false

open Sys2Proof Sys2Proof.Machine

variable {pts : List Part} {z : State}

theorem execBlotterReport_held {t : Nat} {r : Report} {s : State} (hS : Held pts z s)
    (hp : Sub [.now, .link, .mailbox, .blotter, .mgmt] pts := by exact Sub.up) : OutHeld pts z (execBlotterReport t r s) := by
  unfold execBlotterReport
  iterate 45 all_goals try first
    | with_reducible refine outHeld_next ?_
    | with_reducible assumption
    | with_reducible refine advance_held ?_
    | with_reducible refine report_held ?_
    | lift_lets
    | split

theorem flushKey_held {s : State} {k : Entry} (hS : Held pts z s) (hp : Sub [.blotter, .mgmt] pts := by exact Sub.up)
    : Held pts z (flushKey s k) := by
  unfold flushKey
  iterate 45 all_goals try first
    | with_reducible assumption
    | with_reducible refine writeEntry_held ?_

theorem execCoalesceFlush_held {t : Nat} {s : State} (hS : Held pts z s)
    (hp : Sub [.now, .blotter, .mgmt] pts := by exact Sub.up) : OutHeld pts z (execCoalesceFlush t s) := by
  unfold execCoalesceFlush
  iterate 45 all_goals try first
    | with_reducible refine outHeld_next ?_
    | with_reducible assumption
    | with_reducible refine advance_held ?_
    | with_reducible refine flushKey_held ?_
    | with_reducible refine foldl_held (fun _ _ _ => ?_) ?_
    | (intro x; first
        | (refine (fun (hx : Held pts z x) => ?_) ?_ <;> [clear_value x; subst x])
        | (have hx : Blotter := x; clear hx; subst x)
        | clear_value x)
    | lift_lets
    | split
    | ((with_reducible refine held_set ?_ ?_); rotate_left; exact Sound.parts)
    | ((with_reducible refine held_set ?_ ?_); rotate_left
       exact fun hh => ⟨hh.nvm, hh.vellum, hh.sram, hh.power,
         hh.thermal, ⟨hh.blotter.1, hh.blotter.2.1, Nat.zero_le _⟩, hh.events, hh.trust⟩)

theorem execCompletionTimeout_held {t : Nat} {kind : ReadKind} {s : State} (hS : Held pts z s)
    (hp : Sub [.now, .link, .mailbox, .serving, .images, .vellum, .fabric, .power, .blotter,
      .mgmt] pts := by exact Sub.up)
    : OutHeld pts z (execCompletionTimeout t kind s) := by
  unfold execCompletionTimeout
  iterate 45 all_goals try first
    | with_reducible refine outHeld_next ?_
    | with_reducible assumption
    | with_reducible refine advance_held ?_
    | with_reducible refine aerError_held ?_
    | with_reducible refine queueError_held ?_
    | with_reducible refine parkUnconfirmed_held ?_
    | with_reducible refine endLoad_held ?_
    | (intro x; clear_value x)
    | lift_lets
    | split

end Sys2Proof.Laws
end

