-- ==== Sys2Proof/Laws/KeepServing.lean ====
section
/-! SUPPORT. What the functions of Machine/Serving.lean do, as Laws/Kept.lean says it: the parts that each one may change. -/

namespace Sys2Proof.Laws

set_option Elab.async false

open Sys2Proof Sys2Proof.Machine

variable {pts : List Part} {z : State}

theorem holdAdapters_held {s : State} {partition : Nat} {seconds : Nat} (hS : Held pts z s)
    (hp : Sub [.serving] pts := by exact Sub.up) : Held pts z (holdAdapters s partition seconds) := by
  unfold holdAdapters
  iterate 45 all_goals try first
    | with_reducible assumption
    | (intro x; clear_value x)
    | lift_lets
    | with_reducible refine held_free ?_

theorem execPartitionConfig_held {h : Hdr} {o : PartitionOps} {s : State} (hS : Held pts z s)
    (hp : Sub [.now, .free, .link, .mailbox, .serving, .blotter, .mgmt] pts := by exact Sub.up)
    : OutHeld pts z (execPartitionConfig h o s) := by
  unfold execPartitionConfig
  iterate 45 all_goals try first
    | with_reducible refine outHeld_next ?_
    | with_reducible assumption
    | with_reducible refine putPartition_held ?_
    | with_reducible refine drewKeys_held ?_
    | with_reducible refine done_held ?_
    | with_reducible refine refuse_held ?_
    | with_reducible refine runCommand_held (fun _ _ _ => ?_) ?_
    | with_reducible refine holdAdapters_held ?_
    | (intro x; first
        | (refine (fun (hx : Held pts z x) => ?_) ?_ <;> [clear_value x; subst x])
        | clear_value x)
    | lift_lets
    | split

theorem execParkAreaSet_held {h : Hdr} {partition : Nat} {ranges : List (Nat × Nat)} {s : State} (hS : Held pts z s)
    (hp : Sub [.now, .link, .mailbox, .serving, .blotter, .mgmt] pts := by exact Sub.up)
    : OutHeld pts z (execParkAreaSet h partition ranges s) := by
  unfold execParkAreaSet
  iterate 45 all_goals try first
    | with_reducible refine outHeld_next ?_
    | with_reducible assumption
    | with_reducible refine putPartition_held ?_
    | with_reducible refine done_held ?_
    | with_reducible refine refuse_held ?_
    | with_reducible refine runCommand_held (fun _ _ _ => ?_) ?_
    | (intro x; clear_value x)
    | lift_lets
    | split

theorem execTimedRegimeSet_held {h : Hdr} {rowsT : Nat} {missT : Nat} {pagesT : Nat} {s : State} (hS : Held pts z s)
    (hp : Sub [.now, .link, .mailbox, .serving, .blotter, .mgmt] pts := by exact Sub.up)
    : OutHeld pts z (execTimedRegimeSet h rowsT missT pagesT s) := by
  unfold execTimedRegimeSet
  iterate 45 all_goals try first
    | with_reducible refine outHeld_next ?_
    | with_reducible assumption
    | with_reducible refine done_held ?_
    | with_reducible refine refuse_held ?_
    | with_reducible refine runCommand_held (fun _ _ _ => ?_) ?_
    | (intro x; first
        | (refine (fun (hx : Held pts z x) => ?_) ?_ <;> [clear_value x; subst x])
        | clear_value x)
    | lift_lets
    | split
    | with_reducible refine held_free ?_

theorem execParkThresholdsSet_held {h : Hdr} {low : Nat} {high : Nat} {s : State} (hS : Held pts z s)
    (hp : Sub [.now, .link, .mailbox, .serving, .blotter, .mgmt] pts := by exact Sub.up)
    : OutHeld pts z (execParkThresholdsSet h low high s) := by
  unfold execParkThresholdsSet
  iterate 45 all_goals try first
    | with_reducible refine outHeld_next ?_
    | with_reducible assumption
    | with_reducible refine done_held ?_
    | with_reducible refine runCommand_held (fun _ _ _ => ?_) ?_
    | (intro x; clear_value x)
    | lift_lets
    | with_reducible refine held_free ?_

theorem execTenantRegister_held {h : Hdr} {tenant : Nat} {rate : Nat} {depth : Nat} {s : State} (hS : Held pts z s)
    (hp : Sub [.now, .link, .mailbox, .serving, .blotter, .mgmt] pts := by exact Sub.up)
    : OutHeld pts z (execTenantRegister h tenant rate depth s) := by
  unfold execTenantRegister
  iterate 45 all_goals try first
    | with_reducible refine outHeld_next ?_
    | with_reducible assumption
    | with_reducible refine putTenant_held ?_
    | with_reducible refine done_held ?_
    | with_reducible refine refuse_held ?_
    | with_reducible refine runVf_held (fun _ _ _ => ?_) ?_
    | lift_lets
    | split

theorem execTenantDeregister_held {h : Hdr} {tenant : Nat} {s : State} (hS : Held pts z s)
    (hp : Sub [.now, .link, .mailbox, .serving, .images, .vellum, .blotter, .mgmt] pts := by exact Sub.up)
    : OutHeld pts z (execTenantDeregister h tenant s) := by
  unfold execTenantDeregister
  iterate 45 all_goals try first
    | with_reducible refine outHeld_next ?_
    | with_reducible assumption
    | with_reducible refine putTenant_held ?_
    | with_reducible refine done_held ?_
    | with_reducible refine refuse_held ?_
    | with_reducible refine startLater_held ?_
    | with_reducible refine releaseAdapters_held ?_
    | with_reducible refine runVf_held (fun _ _ _ => ?_) ?_
    | (intro x; refine (fun (hx : Held pts z x) => ?_) ?_ <;> [clear_value x; subst x])
    | lift_lets
    | split

theorem execReservoirSet_held {h : Hdr} {tenant : Nat} {setRate : Bool} {setDepth : Bool} {setWeight : Bool} {rate : Nat}
    {depth : Nat} {weight : Nat} {s : State} (hS : Held pts z s)
    (hp : Sub [.now, .link, .mailbox, .serving, .blotter, .mgmt] pts := by exact Sub.up)
    : OutHeld pts z (execReservoirSet h tenant setRate setDepth setWeight rate depth weight s) := by
  unfold execReservoirSet
  iterate 45 all_goals try first
    | with_reducible refine outHeld_next ?_
    | with_reducible assumption
    | with_reducible refine putTenant_held ?_
    | with_reducible refine done_held ?_
    | with_reducible refine refuse_held ?_
    | with_reducible refine runVf_held (fun _ _ _ => ?_) ?_
    | (intro x; clear_value x)
    | lift_lets
    | split

theorem execSessionOpen_held {h : Hdr} {tenant : Nat} {seed : BitVec 256} {s : State} (hS : Held pts z s)
    (hp : Sub [.now, .free, .link, .mailbox, .serving, .blotter, .mgmt] pts := by exact Sub.up)
    : OutHeld pts z (execSessionOpen h tenant seed s) := by
  unfold execSessionOpen
  iterate 45 all_goals try first
    | with_reducible refine outHeld_next ?_
    | with_reducible assumption
    | with_reducible refine putSession_held ?_
    | with_reducible refine drewKeys_held ?_
    | with_reducible refine done_held ?_
    | with_reducible refine refuse_held ?_
    | with_reducible refine runVf_held (fun _ _ _ => ?_) ?_
    | (intro x; first
        | (refine (fun (hx : Held pts z x) => ?_) ?_ <;> [clear_value x; subst x])
        | clear_value x)
    | lift_lets
    | split

theorem execSessionClose_held {h : Hdr} {session : Nat} {s : State} (hS : Held pts z s)
    (hp : Sub [.now, .link, .mailbox, .serving, .images, .vellum, .power, .blotter, .mgmt, .trust] pts := by exact Sub.up)
    : OutHeld pts z (execSessionClose h session s) := by
  unfold execSessionClose
  iterate 45 all_goals try first
    | with_reducible refine outHeld_next ?_
    | with_reducible assumption
    | with_reducible refine startLater_held ?_
    | with_reducible refine answerFor_held ?_
    | with_reducible refine runSession_held (fun _ _ _ => ?_) ?_
    | with_reducible refine modSession_held ?_
    | with_reducible refine cutPark_held ?_
    | with_reducible refine finishClose_held ?_
    | with_reducible refine endTurn_held ?_
    | (intro x; first
        | (refine (fun (hx : Held pts z x) => ?_) ?_ <;> [clear_value x; subst x])
        | (have hx : Trust := x; clear hx; subst x)
        | clear_value x)
    | lift_lets
    | split
    | ((with_reducible refine held_set ?_ ?_); rotate_left; exact Sound.parts)

theorem execSessionPark_held {h : Hdr} {session : Nat} {s : State} (hS : Held pts z s)
    (hp : Sub [.now, .link, .mailbox, .serving, .vellum, .blotter, .mgmt] pts := by exact Sub.up)
    : OutHeld pts z (execSessionPark h session s) := by
  unfold execSessionPark
  iterate 45 all_goals try first
    | with_reducible refine outHeld_next ?_
    | with_reducible assumption
    | with_reducible refine startLater_held ?_
    | with_reducible refine answerFor_held ?_
    | with_reducible refine runSession_held (fun _ _ _ => ?_) ?_
    | with_reducible refine startPark_held ?_
    | (intro x; clear_value x)
    | lift_lets
    | split

theorem execSessionUnpark_held {h : Hdr} {session : Nat} {s : State} (hS : Held pts z s)
    (hp : Sub [.now, .link, .mailbox, .serving, .blotter, .mgmt] pts := by exact Sub.up)
    : OutHeld pts z (execSessionUnpark h session s) := by
  unfold execSessionUnpark
  iterate 45 all_goals try first
    | with_reducible refine outHeld_next ?_
    | with_reducible assumption
    | with_reducible refine putSession_held ?_
    | with_reducible refine startLater_held ?_
    | with_reducible refine answerFor_held ?_
    | with_reducible refine runSession_held (fun _ _ _ => ?_) ?_
    | with_reducible refine startUnpark_held ?_
    | (intro x; clear_value x)
    | lift_lets
    | split

theorem noteIv_held {s : State} {p : Prompt} (hS : Held pts z s) (hp : Sub [.serving] pts := by exact Sub.up)
    : Held pts z (noteIv s p) := by
  unfold noteIv
  iterate 45 all_goals try first
    | with_reducible assumption
    | with_reducible refine modSession_held ?_
    | split

theorem execPrefixRegister_held {h : Hdr} {tenant : Nat} {alwaysRead : Bool} {handle : Nat} {prompt : Prompt} {s : State}
    (hS : Held pts z s) (hp : Sub [.now, .link, .mailbox, .serving, .blotter, .mgmt] pts := by exact Sub.up)
    : OutHeld pts z (execPrefixRegister h tenant alwaysRead handle prompt s) := by
  unfold execPrefixRegister
  iterate 45 all_goals try first
    | with_reducible refine outHeld_next ?_
    | with_reducible assumption
    | with_reducible refine putTenant_held ?_
    | with_reducible refine putPfx_held ?_
    | with_reducible refine refuse_held ?_
    | with_reducible refine startLater_held ?_
    | with_reducible refine runVf_held (fun _ _ _ => ?_) ?_
    | with_reducible refine countPrompt_held ?_
    | with_reducible refine noteIv_held ?_
    | (intro x; first
        | (refine (fun (hx : Held pts z x) => ?_) ?_ <;> [clear_value x; subst x])
        | clear_value x)
    | lift_lets
    | split
    | with_reducible refine held_free ?_

theorem execPrefixRelease_held {h : Hdr} {tenant : Nat} {handle : Nat} {s : State} (hS : Held pts z s)
    (hp : Sub [.now, .link, .mailbox, .serving, .vellum, .power, .blotter, .mgmt] pts := by exact Sub.up)
    : OutHeld pts z (execPrefixRelease h tenant handle s) := by
  unfold execPrefixRelease
  iterate 45 all_goals try first
    | with_reducible refine outHeld_next ?_
    | with_reducible assumption
    | with_reducible refine putPfx_held ?_
    | with_reducible refine done_held ?_
    | with_reducible refine refuse_held ?_
    | with_reducible refine runVf_held (fun _ _ _ => ?_) ?_
    | with_reducible refine endPfx_held ?_
    | lift_lets
    | split

theorem reserveTurn_held {s : State} {v : Session} {n : Nat} {o : ReqOps} (hS : Held pts z s)
    (hp : Sub [.serving] pts := by exact Sub.up) : Held pts z (reserveTurn s v n o) := by
  unfold reserveTurn
  iterate 45 all_goals try first
    | with_reducible assumption
    | with_reducible refine putPfx_held ?_
    | with_reducible refine growHistory_held ?_
    | (intro x; refine (fun (hx : Held pts z x) => ?_) ?_ <;> [clear_value x; subst x])
    | lift_lets
    | split

theorem execReqSubmit_held {h : Hdr} {o : ReqOps} {s : State} (hS : Held pts z s)
    (hp : Sub [.now, .link, .mailbox, .serving, .images, .vellum, .power, .blotter, .mgmt, .trust] pts := by exact Sub.up)
    : OutHeld pts z (execReqSubmit h o s) := by
  unfold execReqSubmit
  iterate 45 all_goals try first
    | with_reducible refine outHeld_next ?_
    | with_reducible assumption
    | with_reducible refine putTenant_held ?_
    | with_reducible refine answerFor_held ?_
    | with_reducible refine runSession_held (fun _ _ _ => ?_) ?_
    | with_reducible refine modSession_held ?_
    | with_reducible refine startTurn_held ?_
    | with_reducible refine reserveTurn_held ?_
    | (intro x; first
        | (refine (fun (hx : Held pts z x) => ?_) ?_ <;> [clear_value x; subst x])
        | clear_value x)
    | lift_lets
    | split

theorem execReqCancel_held {h : Hdr} {session : Nat} {s : State} (hS : Held pts z s)
    (hp : Sub [.now, .link, .mailbox, .serving, .images, .vellum, .power, .blotter, .mgmt, .trust] pts := by exact Sub.up)
    : OutHeld pts z (execReqCancel h session s) := by
  unfold execReqCancel
  iterate 45 all_goals try first
    | with_reducible refine outHeld_next ?_
    | with_reducible assumption
    | with_reducible refine startLater_held ?_
    | with_reducible refine answerFor_held ?_
    | with_reducible refine runSession_held (fun _ _ _ => ?_) ?_
    | with_reducible refine endTurn_held ?_
    | lift_lets
    | split

end Sys2Proof.Laws
end

