-- ==== Sys2Proof/Laws/KeepSideband.lean ====
section
/-! SUPPORT. What the functions of Machine/Sideband.lean do, as Laws/Kept.lean says it: the parts that each one may change. -/

namespace Sys2Proof.Laws

set_option Elab.async false

open Sys2Proof Sys2Proof.Machine

variable {pts : List Part} {z : State}

theorem modMgmt_held {s : State} {f : Mgmt → Mgmt} (hf : s.mgmt.inSecond ≤ 100 → (f s.mgmt).inSecond ≤ 100)
    (hS : Held pts z s) (hp : Sub [.mgmt] pts := by exact Sub.up) : Held pts z (modMgmt s f) :=
  held_set hS (fun hh => ⟨hh.nvm, hh.vellum, hh.sram, hh.power, hh.thermal,
    hh.blotter, hf hh.events, hh.trust⟩)

theorem rollSecond_le {m : Mgmt} {now : Nat} (h : m.inSecond ≤ 100) : (rollSecond m now).inSecond ≤ 100 := by
  unfold rollSecond
  split
  · exact Nat.zero_le _
  · exact h

theorem sendCounts_le {m : Mgmt} {now : Nat} (h : m.inSecond ≤ 100) : (sendCounts m now).inSecond ≤ 100 := by
  unfold sendCounts
  split <;> exact h

theorem execSpdmRequest_held {overDoe : Met Bool SpdmAsk} {needsSignature : Bool} {s : State} (hS : Held pts z s)
    (hp : Sub [.mgmt] pts := by exact Sub.up) : OutHeld pts z (execSpdmRequest overDoe needsSignature s) := by
  unfold execSpdmRequest
  iterate 45 all_goals try first
    | with_reducible refine outHeld_next ?_
    | with_reducible assumption
    | refine modMgmt_held (fun h => h) ?_
    | lift_lets
    | split

theorem execSetEndpointId_held {eid : Nat} {s : State} (hS : Held pts z s) (hp : Sub [.mgmt] pts := by exact Sub.up)
    : OutHeld pts z (execSetEndpointId eid s) := by
  unfold execSetEndpointId
  iterate 45 all_goals try first
    | with_reducible refine outHeld_next ?_
    | with_reducible assumption
    | refine modMgmt_held (fun h => h) ?_
    | lift_lets
    | split

theorem execSetEventReceiver_held {receiver : Nat} {s : State} (hS : Held pts z s)
    (hp : Sub [.mgmt] pts := by exact Sub.up) : OutHeld pts z (execSetEventReceiver receiver s) := by
  unfold execSetEventReceiver
  iterate 45 all_goals try first
    | with_reducible refine outHeld_next ?_
    | with_reducible assumption
    | refine modMgmt_held (fun h => h) ?_
    | lift_lets
    | split

theorem execPollEvent_held {t : Met Nat Bool} {s : State} (hS : Held pts z s)
    (hp : Sub [.now, .blotter, .mgmt] pts := by exact Sub.up) : OutHeld pts z (execPollEvent t s) := by
  unfold execPollEvent
  iterate 45 all_goals try first
    | with_reducible refine outHeld_next ?_
    | with_reducible assumption
    | with_reducible refine advance_held ?_
    | with_reducible refine ackWarnings_held ?_
    | refine modMgmt_held (fun h => h) ?_
    | (intro x; refine (fun (hx : Held pts z x) => ?_) ?_ <;> [clear_value x; subst x])
    | lift_lets
    | split

theorem sendEvent_held {s : State} {m : Mgmt} (hm : Sound s → m.inSecond ≤ 100) (h1 : Held pts z s)
    (hp : Sub [.board, .mgmt] pts := by exact Sub.up) : Held pts z (sendEvent s m) := by
  have set : ∀ {b : Board} {w : Mgmt} {k : Nat}, w.inSecond = k → (Sound s → k ≤ 100) →
      Held pts z { s with mgmt := w, board := b } := fun e hw =>
    held_set h1 (fun hh => ⟨hh.nvm, hh.vellum, hh.sram, hh.power, hh.thermal, hh.blotter, e ▸ hw hh, hh.trust⟩)
  unfold sendEvent
  cases m.toSend with
  | nil =>
    have hc : Sound s → (if m.receiver.isSome then sendCounts m s.now else m).inSecond ≤ 100 := fun hh => by
      split
      · exact sendCounts_le (hm hh)
      · exact hm hh
    exact set rfl hc
  | cons e rest =>
    refine iteInduction (fun _ => set rfl hm) (fun _ => ?_)
    refine iteInduction (fun hl => set rfl (fun _ => Nat.succ_le_of_lt hl)) (fun _ => ?_)
    exact iteInduction (fun _ => set rfl hm) (fun _ => set rfl hm)

theorem execPldmEventSend_held {t : Nat} {s : State} (hS : Held pts z s)
    (hp : Sub [.now, .board, .mgmt] pts := by exact Sub.up) : OutHeld pts z (execPldmEventSend t s) := by
  unfold execPldmEventSend
  refine outHeld_next ?_
  have h1 : Held pts z (advance s t) := advance_held hS
  exact iteInduction (fun _ => sendEvent_held (fun hh => rollSecond_le hh.events) h1) (fun _ => h1)

theorem execPldmFirmwareUpdate_held {t : Nat} {image : FwImage} {s : State} (hS : Held pts z s)
    (hp : Sub [.now, .board, .nvm, .link, .mailbox, .blotter, .mgmt, .trust, .fw] pts := by exact Sub.up)
    : OutHeld pts z (execPldmFirmwareUpdate t image s) := by
  unfold execPldmFirmwareUpdate
  iterate 45 all_goals try first
    | with_reducible refine outHeld_next ?_
    | with_reducible assumption
    | with_reducible refine advance_held ?_
    | with_reducible refine bootFrom_held ?_
    | (intro x; clear_value x)
    | lift_lets
    | split
    | with_reducible refine held_free ?_

theorem execAlertResponseAddress_held {t : Nat} {s : State} (hS : Held pts z s)
    (hp : Sub [.now, .board, .mgmt] pts := by exact Sub.up) : OutHeld pts z (execAlertResponseAddress t s) := by
  unfold execAlertResponseAddress
  iterate 45 all_goals try first
    | with_reducible refine outHeld_next ?_
    | with_reducible assumption
    | with_reducible refine advance_held ?_
    | (intro x; first
        | (have hx : Mgmt := x; clear hx; subst x)
        | clear_value x)
    | lift_lets
    | split
    | ((with_reducible refine held_set ?_ ?_); rotate_left; exact Sound.parts)

end Sys2Proof.Laws
end

