-- ==== Sys2Proof/Laws/KeepTrust.lean ====
section
/-! SUPPORT. What the functions of Machine/Trust.lean do, as Laws/Kept.lean says it: the parts that each one may change. -/

namespace Sys2Proof.Laws

set_option Elab.async false

open Sys2Proof Sys2Proof.Machine

variable {pts : List Part} {z : State}

theorem execAttest_held {h : Hdr} {nonce : BitVec 256} {s : State} (hS : Held pts z s)
    (hp : Sub [.now, .free, .link, .mailbox, .blotter, .mgmt] pts := by exact Sub.up)
    : OutHeld pts z (execAttest h nonce s) := by
  unfold execAttest
  iterate 45 all_goals try first
    | with_reducible refine outHeld_next ?_
    | with_reducible assumption
    | with_reducible refine drewFree_held ?_
    | with_reducible refine complete_held ?_
    | with_reducible refine refuse_held ?_
    | with_reducible refine runCommand_held (fun _ _ _ => ?_) ?_
    | (intro x; clear_value x)
    | lift_lets
    | split

theorem execPublisherRegister_held {h : Hdr} {publisher : Nat} {keyDigest : Digest} {s : State} (hS : Held pts z s)
    (hp : Sub [.now, .nvm, .link, .mailbox, .blotter, .mgmt, .trust] pts := by exact Sub.up)
    : OutHeld pts z (execPublisherRegister h publisher keyDigest s) := by
  unfold execPublisherRegister
  refine outHeld_next (runCommand_held (fun s1 _ h1 => ?_) hS)
  split
  · exact refuse_held h1
  · split
    · exact refuse_held h1
    · refine done_held (extend_held (held_set h1 (fun hh => ⟨⟨hh.nvm.1, hh.nvm.2.1, hh.nvm.2.2.1, ?_⟩,
        hh.vellum, hh.sram, hh.power, hh.thermal, hh.blotter, hh.events,
        hh.trust⟩)))
      show (s1.nvm.publishers ++ [_]).length ≤ 64
      rw [List.length_append, List.length_singleton]
      omega

theorem execPublisherRevoke_held {h : Hdr} {publisher : Nat} {s : State} (hS : Held pts z s)
    (hp : Sub [.now, .nvm, .link, .mailbox, .blotter, .mgmt, .trust] pts := by exact Sub.up)
    : OutHeld pts z (execPublisherRevoke h publisher s) := by
  unfold execPublisherRevoke
  iterate 45 all_goals try first
    | with_reducible refine outHeld_next ?_
    | with_reducible assumption
    | with_reducible refine done_held ?_
    | with_reducible refine refuse_held ?_
    | with_reducible refine extend_held ?_
    | with_reducible refine runCommand_held (fun _ _ _ => ?_) ?_
    | (intro x; first
        | (refine (fun (hx : Held pts z x) => ?_) ?_ <;> [clear_value x; subst x])
        | (have hx : Nvm := x; clear hx; subst x))
    | lift_lets
    | split
    | ((with_reducible refine held_set ?_ ?_); rotate_left
       exact fun hh => ⟨⟨hh.nvm.1, hh.nvm.2.1, hh.nvm.2.2.1, Nat.le_trans (List.length_filter_le _ _) hh.nvm.2.2.2⟩, hh.vellum, hh.sram, hh.power,
         hh.thermal, hh.blotter, hh.events, hh.trust⟩)

theorem execKeyExchangeStart_held {h : Hdr} {session : Nat} {s : State} (hS : Held pts z s)
    (hp : Sub [.now, .free, .link, .mailbox, .serving, .blotter, .mgmt, .trust] pts := by exact Sub.up)
    : OutHeld pts z (execKeyExchangeStart h session s) := by
  unfold execKeyExchangeStart
  iterate 45 all_goals try first
    | with_reducible refine outHeld_next ?_
    | with_reducible assumption
    | with_reducible refine putSession_held ?_
    | with_reducible refine drewFree_held ?_
    | with_reducible refine answerWith_held ?_
    | with_reducible refine answerFor_held ?_
    | with_reducible refine runNamed_held (fun _ _ _ => ?_) ?_
    | (intro x; first
        | (refine (fun (hx : Held pts z x) => ?_) ?_ <;> [clear_value x; subst x])
        | (have hx : Trust := x; clear hx; subst x)
        | clear_value x)
    | lift_lets
    | split
    | ((with_reducible refine held_set ?_ ?_); rotate_left; exact Sound.parts)

theorem dropExchange_held {s : State} {session : Nat} (hS : Held pts z s) (hp : Sub [.trust] pts := by exact Sub.up)
    : Held pts z (dropExchange s session) := by
  unfold dropExchange
  iterate 45 all_goals try first
    | with_reducible assumption
    | (intro x; have hx : Trust := x; clear hx; subst x)
    | lift_lets
    | ((with_reducible refine held_set ?_ ?_); rotate_left; exact Sound.parts)

theorem execKeyExchangeFinish_held {h : Hdr} {session : Nat} {reply : KxReply} {s : State} (hS : Held pts z s)
    (hp : Sub [.now, .link, .mailbox, .serving, .blotter, .mgmt, .trust] pts := by exact Sub.up)
    : OutHeld pts z (execKeyExchangeFinish h session reply s) := by
  unfold execKeyExchangeFinish
  iterate 45 all_goals try first
    | with_reducible refine outHeld_next ?_
    | with_reducible assumption
    | with_reducible refine answerFor_held ?_
    | with_reducible refine runNamed_held (fun _ _ _ => ?_) ?_
    | with_reducible refine modSession_held ?_
    | with_reducible refine dropExchange_held ?_
    | (intro x; refine (fun (hx : Held pts z x) => ?_) ?_ <;> [clear_value x; subst x])
    | lift_lets
    | split

theorem execKeyExchangeExpiry_held {t : Nat} {session : Nat} {s : State} (hS : Held pts z s)
    (hp : Sub [.now, .trust] pts := by exact Sub.up) : OutHeld pts z (execKeyExchangeExpiry t session s) := by
  unfold execKeyExchangeExpiry
  iterate 45 all_goals try first
    | with_reducible refine outHeld_next ?_
    | with_reducible assumption
    | with_reducible refine advance_held ?_
    | (intro x; have hx : Trust := x; clear hx; subst x)
    | lift_lets
    | ((with_reducible refine held_set ?_ ?_); rotate_left; exact Sound.parts)

theorem execMeasurementLogRead_held {h : Hdr} {s : State} (hS : Held pts z s)
    (hp : Sub [.now, .link, .mailbox, .blotter, .mgmt] pts := by exact Sub.up)
    : OutHeld pts z (execMeasurementLogRead h s) := by
  unfold execMeasurementLogRead
  iterate 45 all_goals try first
    | with_reducible refine outHeld_next ?_
    | with_reducible assumption
    | with_reducible refine complete_held ?_
    | with_reducible refine runCommand_held (fun _ _ _ => ?_) ?_

theorem execCertRead_held {h : Hdr} {key : Nat} {s : State} (hS : Held pts z s)
    (hp : Sub [.now, .link, .mailbox, .blotter, .mgmt] pts := by exact Sub.up) : OutHeld pts z (execCertRead h key s) := by
  unfold execCertRead
  iterate 45 all_goals try first
    | with_reducible refine outHeld_next ?_
    | with_reducible assumption
    | with_reducible refine complete_held ?_
    | with_reducible refine refuse_held ?_
    | with_reducible refine runCommand_held (fun _ _ _ => ?_) ?_
    | (intro x; clear_value x)
    | lift_lets
    | split

theorem execReprovision_held {h : Hdr} {pkg : Package} {s : State} (hS : Held pts z s)
    (hp : Sub [.now, .nvm, .link, .mailbox, .blotter, .mgmt, .trust] pts := by exact Sub.up)
    : OutHeld pts z (execReprovision h pkg s) := by
  unfold execReprovision
  iterate 45 all_goals try first
    | with_reducible refine outHeld_next ?_
    | with_reducible assumption
    | with_reducible refine done_held ?_
    | with_reducible refine refuse_held ?_
    | with_reducible refine runCommand_held (fun _ _ _ => ?_) ?_
    | (intro x; first
        | (refine (fun (hx : Held pts z x) => ?_) ?_ <;> [clear_value x; subst x])
        | (have hx : Trust := x; clear hx; subst x)
        | (have hx : Nvm := x; clear hx; subst x))
    | lift_lets
    | split
    | ((with_reducible refine held_set ?_ ?_); rotate_left; exact Sound.parts)

theorem breakCompute_held {s : State} (hS : Held pts z s) (hp : Sub [.vellum, .fabric] pts := by exact Sub.up)
    : Held pts z (breakCompute s) :=
  held_set hS (fun hh => ⟨hh.nvm, hh.vellum, twf_filter _ hh.sram, hh.power, hh.thermal,
    hh.blotter, hh.events, hh.trust⟩)

theorem breakPages_held {s : State} (hS : Held pts z s) (hp : Sub [.vellum] pts := by exact Sub.up)
    : Held pts z (breakPages s) := by
  unfold breakPages
  iterate 45 all_goals try first
    | with_reducible assumption
    | with_reducible refine clearUnits_held ?_
    | with_reducible refine clearPage_held ?_
    | with_reducible refine clearExtents_held ?_
    | with_reducible refine foldl_held (fun _ _ _ => ?_) ?_

theorem breakRefill_held {s : State} (hS : Held pts z s) (hp : Sub [.serving, .images, .fabric] pts := by exact Sub.up)
    : Held pts z (breakRefill s) := by
  unfold breakRefill
  iterate 45 all_goals try first
    | with_reducible assumption
    | with_reducible refine reloadSlots_held ?_
    | (intro x; first
        | (refine (fun (hx : Held pts z x) => ?_) ?_ <;> [clear_value x; subst x])
        | (have hx : Fabric := x; clear hx; subst x)
        | clear_value x)
    | lift_lets
    | split
    | ((with_reducible refine held_set ?_ ?_); rotate_left; exact Sound.parts)

theorem execSealBreak_held {t : Nat} {s : State} (hS : Held pts z s)
    (hp : Sub [.now, .nvm, .link, .mailbox, .serving, .images, .vellum, .fabric, .power, .blotter, .mgmt,
      .trust] pts := by exact Sub.up)
    : OutHeld pts z (execSealBreak t s) := by
  unfold execSealBreak
  iterate 45 all_goals try first
    | with_reducible refine outHeld_next ?_
    | with_reducible assumption
    | with_reducible refine advance_held ?_
    | with_reducible refine writeStop_held ?_
    | with_reducible refine forfeitAll_held ?_
    | with_reducible refine zeroPartition_held ?_
    | with_reducible refine dropSealedRows_held ?_
    | with_reducible refine zeroSlot_held ?_
    | with_reducible refine breakCompute_held ?_
    | with_reducible refine breakPages_held ?_
    | with_reducible refine breakRefill_held ?_
    | with_reducible refine foldl_held (fun _ _ _ => ?_) ?_
    | (intro x; first
        | (refine (fun (hx : Held pts z x) => ?_) ?_ <;> [clear_value x; subst x])
        | (have hx : Trust := x; clear hx; subst x)
        | (have hx : Nvm := x; clear hx; subst x)
        | clear_value x)
    | lift_lets
    | split
    | with_reducible refine held_free ?_
    | ((with_reducible refine held_set ?_ ?_); rotate_left; exact Sound.parts)

end Sys2Proof.Laws
end

