-- ==== Sys2Proof/Laws/KeepVellumEvents.lean ====
section
/-! SUPPORT. What the functions of Machine/VellumEvents.lean do, as Laws/Kept.lean says it: the parts that each one may change. -/

namespace Sys2Proof.Laws

set_option Elab.async false

open Sys2Proof Sys2Proof.Machine

variable {pts : List Part} {z : State}

theorem execRefresh_held {site : Nat} {channel : Nat} (_bank : Nat) {accessWaits : Nat} {s : State} (hS : Held pts z s)
    (hp : Sub [.vellum] pts := by exact Sub.up) : OutHeld pts z (execRefresh site channel _bank accessWaits s) := by
  unfold execRefresh
  iterate 45 all_goals try first
    | with_reducible refine outHeld_next ?_
    | with_reducible assumption
    | with_reducible refine modSite_held ?_
    | lift_lets
    | split

theorem execPatrolScrub_held {t : Nat} {site : Nat} {unit : Nat} {ecc : Met VellumEcc Bool} {s : State}
    (hS : Held pts z s)
    (hp : Sub [.now, .board, .nvm, .link, .mailbox, .serving, .images, .vellum, .power, .blotter, .mgmt, .trust,
      .map] pts := by exact Sub.up)
    : OutHeld pts z (execPatrolScrub t site unit ecc s) := by
  unfold execPatrolScrub
  iterate 45 all_goals try first
    | with_reducible refine outHeld_next ?_
    | with_reducible assumption
    | with_reducible refine advance_held ?_
    | with_reducible refine modSite_held ?_
    | with_reducible refine applyVellumEcc_held (.inl rfl) ?_
    | (intro x; first
        | (refine (fun (hx : Held pts z x) => ?_) ?_ <;> [clear_value x; subst x])
        | clear_value x)
    | lift_lets
    | split

theorem execVellumRead_held {t : Nat} {r : VellumRef} {ecc : VellumEcc} {s : State} (hS : Held pts z s)
    (hp : Sub [.now, .board, .nvm, .link, .mailbox, .serving, .images, .vellum, .fabric, .power, .blotter, .mgmt,
      .trust, .map] pts := by exact Sub.up)
    : OutHeld pts z (execVellumRead t r ecc s) := by
  unfold execVellumRead
  iterate 45 all_goals try first
    | with_reducible refine outHeld_next ?_
    | with_reducible assumption
    | with_reducible refine advance_held ?_
    | with_reducible refine report_held ?_
    | with_reducible refine modMem_held ?_
    | with_reducible refine modSite_held ?_
    | with_reducible refine applyVellumEcc_held (.inr Sub.up) ?_
    | (intro x; first
        | (refine (fun (hx : Held pts z x) => ?_) ?_ <;> [clear_value x; subst x])
        | clear_value x)
    | lift_lets
    | split

theorem execVellumWriteBack_held {site : Nat} {unit : Nat} {s : State} (hS : Held pts z s)
    (hp : Sub [.vellum] pts := by exact Sub.up) : OutHeld pts z (execVellumWriteBack site unit s) := by
  unfold execVellumWriteBack
  iterate 45 all_goals try first
    | with_reducible refine outHeld_next ?_
    | with_reducible assumption
    | with_reducible refine modSite_held ?_
    | lift_lets
    | split

theorem execGranuleCopyDone_held {t : Nat} {site : Nat} {granule : Nat} {s : State} (hS : Held pts z s)
    (hp : Sub [.now, .board, .nvm, .link, .mailbox, .serving, .images, .vellum, .blotter, .mgmt,
      .map] pts := by exact Sub.up)
    : OutHeld pts z (execGranuleCopyDone t site granule s) := by
  unfold execGranuleCopyDone
  iterate 45 all_goals try first
    | with_reducible refine outHeld_next ?_
    | with_reducible assumption
    | with_reducible refine advance_held ?_
    | with_reducible refine modSite_held ?_
    | with_reducible refine retireGranule_held ?_
    | (intro x; refine (fun (hx : Held pts z x) => ?_) ?_ <;> [clear_value x; subst x])
    | lift_lets
    | split

end Sys2Proof.Laws
end

