-- ==== Sys2Proof/WellFormed.lean ====
section
/-! DEFINITION. Well-formed commands: operands that name something there is (a function, a queue pair, a unit, a
die, a cartridge). A meaning answers ill-formed operands too, as the manual says of them or with no effect. -/

namespace Sys2Proof

open Sys2Proof.Machine

/-- A function, and a queue pair of it (R279, R299). -/
def pairOk (func qp : Nat) : Bool := decide (func ≤ 16) && decide (qp < 8) && (func != 0 || qp == 0)

/-- A command header: the admin pair or a pair of a virtual function, and 16-bit fields. -/
def Hdr.wf (h : Hdr) : Bool := pairOk h.func h.qp && decide (h.cid < 65536) && decide (h.timeoutMs < 65536)

/-- A stroke names a tile, a predicate and a 12-bit DELTA (R73). -/
def StrokeHdr.wf (h : StrokeHdr) : Bool := isTile h.tile && decide (h.pred < 16) && decide (h.delta < 4096)

/-- A die, an edge link and a sublink (R45). -/
def linkOk (die dir sublink : Nat) : Bool :=
  (decide (die < 40)) && (Sys2Proof.Machine.neighbour die dir).isSome && decide (dir < 4) && decide (sublink < 16)

/-- Well-formed commands. -/
def Instr.wf : Instr → Bool
  | .identify h => h.wf && h.func == 0
  | .adminReset h _ => h.wf && h.func == 0
  | .reqSubmit h o => h.wf && h.func != 0 && decide (o.session < 262144)
  | .sqTail _ func qp _ => pairOk func qp
  | .cqHead _ func qp _ => pairOk func qp
  | .tsHead _ func qp _ => pairOk func qp && func != 0
  | .queueEnable _ func qp => pairOk func qp
  | .queueDisable _ func qp => pairOk func qp
  | .queueDrained _ func qp => pairOk func qp
  | .descriptorFetch _ func qp desc _ => pairOk func qp && desc.length == 64
  | .phaseLost _ c => decide (c < 20)
  | .cartridgeInserted _ c => decide (c < 20)
  | .cartridgeRemoved _ c => decide (c < 20)
  | .dieShort _ d => decide (d < 40)
  | .ldoSegmentFail _ u => isCluster u
  | .ceilingCheck _ u _ => isCluster u
  | .flitRetry _ die dir sublink => linkOk die dir sublink
  | .sublinkOut _ die dir sublink => linkOk die dir sublink
  | .mac h _ _ acc => h.wf && decide (acc.val < 64)
  | .drain h _ acc _ => h.wf && decide (acc < 64)
  | .predLoad h p _ => h.wf && decide (0 < p) && decide (p < 16)
  | .loopBegin h ctr _ _ => h.wf && decide (ctr < 4)
  | .loopEnd h ctr => h.wf && decide (ctr < 4)
  | .dmaPost h i => h.wf && decide (i < 64)
  | .dmaWait h ctr _ => h.wf && decide (ctr < 16)
  | .strapSample _ a b c => decide (a < 64) && decide (b < 64) && decide (c < 64)
  | _ => true

end Sys2Proof
end

