-- ==== Sys2Proof/Tests/Slice0.lean ====
section
/-! SUPPORT. Tests: the manual's worked examples, ill-formed terms that the checks refuse, and for each statement states and
operands that meet its hypotheses. -/

namespace Sys2Proof.Tests

set_option Elab.async false

open Sys2Proof Sys2Proof.Machine

/-! ## Small states -/

/-- A queue pair in use, with rings of 64 entries. -/
def pair1 : Queue := { sqLog2 := 6, cqLog2 := 6, tsLog2 := 10, enable := true, active := true }

/-- A module in service, with its first functions' pairs enabled, partition 0 configured, tenant 9 registered there. -/
def serv : State :=
  { State.reset with
    board := { modEn := true, phase := .serving, outputsHeld := true, modReady := true, trained := true, railsUp := true,
               computeRails := true, flowOk := true, perstHigh := true, feedA := { volts := 5000, inUse := true },
               feedB := { volts := 5000, inUse := true } },
    link := { up := true, rrs := false, numVfs := 16, vfEnable := true },
    mailbox := { queues := [(0, pair1), (8, pair1)] },
    nvm := { State.reset.nvm with publishers := [(5, 0)] },
    serving := { partitions := [(0, { configured := true })],
                 tenants := [(9, { registered := true, level := 1000, depth := 100, rate := 1 })] } }

/-- A command of the physical function, and one of virtual function 1. -/
def h0 : Hdr := { time := 5000, func := 0, qp := 0, cid := 7 }
def h1 : Hdr := { time := 5000, func := 1, qp := 0, cid := 7 }

/-- The same state with other serving tables. -/
def withServing (f : Serving → Serving) (s : State := serv) : State := { s with serving := f s.serving }

/-- The command with CID 7 of a function, started on an object. -/
def under (func opcode arg : Nat) : Fetched :=
  { func := func, qp := 0, cid := 7, opcode := opcode, fence := false, started := true, background := true, arg := arg }
def startedOn (func opcode arg : Nat) (s : State := serv) : State :=
  { s with mailbox := { s.mailbox with fetched := [under func opcode arg] } }

def fw1 : FwImage := { version := 3, svn := 0 }

/-- A session of tenant 9 in partition 0. -/
def sess1 : Session := { state := .idle, tenant := 9 }
def withSession (v : Session) (s : State := serv) : State := withServing (fun x => { x with sessions := [(4, v)] }) s

/-- A small Folio, its slot in service. -/
def head1 : FolioHead :=
  { chunkCount := 1, treeNodes := 1, tree := [17], root := 17, chunkBase := 4194304, publisher := 5, colPublisher := 5, sourceBytes := 8388608 }
def part (t i : Nat) : Section := { type := t, offset := 208 + 64 * i, length := 64 }
def body1 : FolioBody :=
  { sections := [part 1 0, part 2 1, part 3 2, part 4 3, part 5 4, part 7 5],
    lettering := { vocab := [{ bytes := [65#8] }, { bytes := [], special := true, eos := true }], merges := [], splitStates := 0 } }
/-- A Lettering of the 256 bytes and an EOS. -/
def letters : Lettering :=
  { vocab := (List.range 256).map (fun k => { bytes := [BitVec.ofNat 8 k] }) ++ [{ bytes := [], special := true, eos := true }],
    merges := [], splitStates := 0 }
def bodyL : FolioBody := { body1 with lettering := letters }
/-- A head whose one chunk has no byte. -/
def headD : FolioHead := { head1 with tree := leavesOf [[]], root := leafHash 0 [] }
theorem headD_tree : treeOk headD = true := by
  unfold treeOk
  simp only [Bool.and_eq_true, beq_iff_eq, decide_eq_true_eq]
  exact ⟨⟨⟨rfl, by decide⟩, rfl⟩, rfl⟩
def slot1 (st : SlotState) : Slot := { state := st, head := some head1, body := some body1, verified := [0], permille := 1000, filled := true }
def withImages (f : Images → Images) (s : State := serv) : State := { s with images := f s.images }
def act : State := withImages (fun x => { x with a := { slot1 .active with epoch := 1 }, epoch := 1 })

def req1 : ReqOps := { session := 4, tenant := 9, maxTokens := 1, prompt := .plain [.ids [0]] }

/-- One line of a STEP_TIMES table, and a module that can promise times with it. -/
def times1 : StepTimes := { rowsT := 8, pagesT := 32, missT := 1, den := 1, layers := [1000], tMiss := 0, head := 0, tail := 0, tDraft := 500, tPre := 2000 }
def timedServ : State :=
  let s := withSession sess1 (withImages (fun x => { x with a := { x.a with body := some { body1 with times := [times1], power := List.replicate 14 5000 } } }) act)
  let s := withServing (fun x => { x with partitions := [(0, { configured := true, timed := true, timedSequences := 1 })] }) s
  { s with power := { s.power with floor := 17000, allowance := 18500 },
           link := { s.link with ptm := { enabled := true, lock := true } } }

def bodyC : FolioBody := { body1 with clusters := [{ unit := 0, role := .common }] }
def headC : FolioHead := { head1 with flags := 8 }
def layer1 : LayerRes :=
  { layer := 63, experts := [{ hot := true, place := 0 }, { hot := false, place := 0 }], groups := 1, seatsPerGroup := 2,
    freeSeats := [1], spare := 1 }
def headCD : FolioHead := { headD with flags := 8 }
theorem headCD_ok : headRefusal act (slotCapacity act.vellum.layout 0) headCD = none := by
  have h : treeOk headCD = true := headD_tree
  unfold headRefusal
  rw [h]
  decide +kernel
def stencil1 : Stencil := { states := [BitVec.ofNat 128 (2 ^ 111 + 2 ^ 32)], masks := [2], trans := [BitVec.ofNat 96 (2 ^ 32 + 1)] }
def version1 : AdapterVer := { index := 1, modelId := 3, bytes := 0, site := 9 }
def withVersions (l : List AdapterVer) : State :=
  withServing (fun x => { x with tenants := [(9, { registered := true, versions := l })] })
def step1 : Step :=
  { num := 0, kind := .decode, epoch := 1, slot := 0, reference := false, residencyEpoch := 0, pages := 0, rows := [] }
def withCart (c : Nat) (v : Cartridge) : State := { serv with board := { serv.board with cartridges := [(c, v)] } }
def withIsland (u : Nat) (v : Island) (s : State := serv) : State := { s with fabric := { s.fabric with islands := [(u, v)] } }
def withPair (u : Nat) (v : Pair) : State := { serv with thermal := { serv.thermal with pairs := [(u, v)] } }

def sealedServ : State :=
  withServing (fun x => { x with partitions := [(0, { configured := true, isSealed := true })] }) (withSession { sess1 with isSealed := true })
def exch1 : Exchange := { session := 4, partition := 0, seq := 1, startedAt := 0 }
def kx1 : KxReply := { session := 4, kxSeq := 1, confirm := kxConfirm exch1 { session := 4, kxSeq := 1 } }
def entry1 : Entry := { index := 3, firstTime := 0, lastTime := 0, report := { code := 0x0103, cls := 2 } }
def withPair0 (q : Queue) : State := { serv with mailbox := { queues := [(0, q), (8, pair1)] } }
def withPair8 (q : Queue) : State := { serv with mailbox := { queues := [(0, pair1), (8, q)] } }
def withFn (f : Nat) (v : Fn) : State := { serv with link := { serv.link with fns := [(f, v)] } }
def parking : State :=
  { withSession { sess1 with state := .parking, pages := [(0, 33)], outbound := [0] } with
    vellum := { pages := [(33, { state := .outbound, session := 4, tenant := 9 })] } }
def desc1 : List Byte := [1#8, 1#8, 7#8, 0#8] ++ List.replicate 60 0#8
def fetched1 : Fetched := { func := 0, qp := 0, cid := 7, opcode := 0x0101, fence := false, deadline := 5 }
def turn1 : Turn := { newTurn act h1 req1 false with phase := .decode, epoch := 1, due := [.token 0 false] }

def inPhase (p : Phase) (f : Board → Board) : State := { serv with board := f { serv.board with phase := p } }
def bank1 : FlashBank := { stage1 := fw1, scribe := fw1, governor := fw1, housekeeping := fw1 }
def withSite (d : Nat) (v : Site) : State := { serv with vellum := { sites := [(d, v)] } }
def flit1 : Flits := { total := 1, parts := [(0, List.replicate 64 1)] }
def lig1 : LigEntry := { tag := 3, inputs := [.tile 0], op := .sum, dest := 16, final := false }
def ligState (next : LigEntry) : State :=
  { serv with fabric := { islands := [
      (0, { tables := [(0, { ligs := [lig1] })], partials := [{ tag := 3, input := .tile 0, flits := flit1 }] }),
      (16, { tables := [(0, { ligs := [next] })] })] } }
def fencedLig : State :=
  { serv with fabric := { islands := [
      (0, { tables := [(0, { ligs := [lig1] })], partials := [{ tag := 3, input := .tile 0, flits := flit1 }] }), (16, { fenced := true })] } }
def win1 : Window := { row := 5, members := [{ tile := 17, dst := 0, crossing := 5, place := 0, total := 1 }], data := [1] }

/-- A stroke of tile 1 of cluster 0, its cluster running, and the state once it has issued. -/
def hs : StrokeHdr := { tile := 1, delta := 3 }
def runWith (v : Island) : State := withIsland 0 { v with running := true }
def run : State := runWith {}
def after (s : State) : State := modTile s hs.tile (fun t => { t with cycle := t.cycle + hs.delta })
def wdesc : Desc := { step := 3, words := [(0, 1)] }
def act1 : TensorEntry := { tensor := 1, fmt := .n4, elemBase := 0, scaleBase := 64, blocks := 1 }
def latch1 : Latch :=
  { tensor := 1, block := 0, inSlice := false, fmt := .n4, sparsity := .dense, scale := 56#8, bytes := List.replicate 8 0x22#8,
    metaWord := 0 }
def macRun : State :=
  let s := runWith { tables := [(0, { tensors := [act1] })] }
  { s with fabric := { s.fabric with tiles := [(1, { latches := [(0, latch1)] })],
                                     sram := [(scratchKey 1 0, 0x22#8), (scratchKey 1 64, 56#8)],
                                     live := [(scratchKey 1 0 / 64, true), (scratchKey 1 64 / 64, true)] } }
def fencedRun : State :=
  let s := run
  { s with fabric := { s.fabric with islands := [(0, { running := true }), (16, { fenced := true })] } }
def row1 : StepRow := { ref := .session 4, line := 63, partition := 0, tenant := 9, adapterEpoch := 0, verify := false, position := 0, count := 1 }
def decodeStep : Step := { step1 with rows := [row1] }
def stepping : State := withSession { sess1 with state := .turn, turn := some { turn1 with due := [] } } act
def plan1 : RowPlan := { row := row1, slot := 0, epoch := 1, timed := false, rank := 0, pages := 1 }
def mergeS (l : List Window) : State :=
  let s := withIsland 0 { windows := l }
  { s with fabric := { s.fabric with regions := [((Place.slice 0 64).region, { type := .work, owner := 9 })] } }

/-! ## The hypotheses of the statements are met -/

/-- States and operands that meet the hypotheses of the clauses of IdentifyAnswersItsPage. -/
theorem witness_IdentifyAnswersItsPage :
    (∃ (h : Hdr) (s : State), Accepted s h opIdentify ∧ OnTime s h) :=
  ⟨h0, serv, (by unfold Accepted; decide +kernel), (by unfold OnTime; decide +kernel)⟩

/-- States and operands that meet the hypotheses of the clauses of AdminResetRestarts. -/
theorem witness_AdminResetRestarts :
    (∃ (h : Hdr) (s : State), Accepted s h opAdminReset) :=
  ⟨h0, serv, (by unfold Accepted; decide +kernel)⟩

/-- States and operands that meet the hypotheses of the clauses of VellumLayoutTakes. -/
theorem witness_VellumLayoutTakes :
    (∃ (h : Hdr) (d : Bool) (l : Layout) (s : State), Accepted s h opVellumLayout ∧ OnTime s h ∧ (d = true → h.dataLen = 0)
      ∧ s.images.a.state = .empty ∧ s.images.b.state = .empty ∧ (∀ kv ∈ s.serving.sessions, kv.2.state = .free) ∧
      layoutBreak (if d then {} else l) = none) ∧
    (∃ (h : Hdr) (d : Bool) (l : Layout) (s : State) (n : Nat), Accepted s h opVellumLayout ∧ OnTime s h ∧ (d = true →
      h.dataLen = 0) ∧ s.images.a.state = .empty ∧ s.images.b.state = .empty ∧ (∀ kv ∈ s.serving.sessions, kv.2.state =
      .free) ∧ layoutBreak (if d then {} else l) = some n) :=
  ⟨⟨h0, false, { kvPages := 32768 }, serv, (by unfold Accepted; decide +kernel), (by unfold OnTime; decide +kernel),
     by decide +kernel⟩,
   ⟨h0, false, { kvPages := 32736 }, serv, 1, (by unfold Accepted; decide +kernel), (by unfold OnTime; decide +kernel),
     by decide +kernel⟩⟩

/-- States and operands that meet the hypotheses of the clauses of FirmwareIsStagedAndHandedOver. -/
theorem witness_FirmwareIsStagedAndHandedOver :
    (∃ (h : Hdr) (i : FwImage) (s : State), Accepted s h opFwStage ∧ s.fw.pldm = false ∧ imageOk s i = true ∧ s.fw.staging
      = none) ∧
    (∃ (n : Nat) (i : FwImage) (s : State), s.fw.staging = some i) ∧
    (∃ (h : Hdr) (i : FwImage) (s : State), Accepted s h opFwHandover ∧ s.fw.staged = some i ∧ s.fw.handover = false ∧
      s.fw.pldm = false) ∧
    (∃ (n : Nat) (i : FwImage) (s : State), s.fw.staged = some i ∧ s.fw.handover = true ∧ governorRuns s = true ∧
      crossedAlready s = false) :=
  ⟨⟨h0, fw1, serv, (by unfold Accepted; decide +kernel), by decide +kernel⟩,
   ⟨9, fw1, startedOn 0 0x0104 0 { serv with fw := { staging := some fw1 } }, by decide +kernel⟩,
   ⟨h0, fw1, { serv with fw := { staged := some fw1 } }, (by unfold Accepted; decide +kernel), by decide +kernel⟩,
   ⟨9, fw1, startedOn 0 0x0105 0 { serv with fw := { staged := some fw1, handover := true } }, by decide +kernel⟩⟩

/-- States and operands that meet the hypotheses of the clauses of FaultAckReleasesThePin. -/
theorem witness_FaultAckReleasesThePin :
    (∃ (h : Hdr) (s : State), Accepted s h opFaultAck ∧ OnTime s h ∧ (∀ e ∈ s.blotter.reserve, e.active = false)) ∧
    (∃ (h : Hdr) (s : State) (n : Nat), Accepted s h opFaultAck ∧ OnTime s h ∧ (∃ e ∈ s.blotter.reserve, e.active = true ∧
      e.index = n) ∧ (∀ e ∈ s.blotter.reserve, e.active = true → n ≤ e.index)) :=
  ⟨⟨h0,
     { serv with blotter := { reserve := [{ index := 3, firstTime := 0, lastTime := 0, report := { code := 0x0105, cls := 6 } }] } },
     (by unfold Accepted; decide +kernel), (by unfold OnTime; decide +kernel), by decide +kernel⟩,
   ⟨h0,
     { serv with blotter := { reserve := [{ index := 3, firstTime := 0, lastTime := 0, report := { code := 0x0105, cls := 6 }, active := true }] } },
     3, (by unfold Accepted; decide +kernel), (by unfold OnTime; decide +kernel), by decide +kernel⟩⟩

/-- States and operands that meet the hypotheses of the clauses of PartitionSettingsTake. -/
theorem witness_PartitionSettingsTake :
    (∃ (h : Hdr) (o : PartitionOps) (s : State), Accepted s h opPartitionConfig ∧ OnTime s h ∧ o.partition < 16 ∧ 1 ≤
      o.share ∧ o.share ≤ 255 ∧ o.timedSequences ≤ 256 ∧ o.sessionsMax ≤ 262144 ∧ (if o.drain then 1 ≤ o.drainTimeout ∧
      o.drainTimeout ≤ 86400 else o.drainTimeout = 0) ∧ ¬ (o.isSealed = true ∧ s.trust.isUnsealed = true) ∧ (occupied s
      o.partition = true → o.timed = (getPartition s o.partition).timed ∧ o.isSealed = (getPartition s
      o.partition).isSealed) ∧ timedReserve s - (getPartition s o.partition).timedSequences + o.timedSequences ≤ 256) ∧
    (∃ (h : Hdr) (p : Nat) (r : List (Nat × Nat)) (s : State), Accepted s h opParkAreaSet ∧ OnTime s h ∧ p < 16 ∧ r.length
      ≤ 64 ∧ (∀ x ∈ r, x.2 ≠ 0 ∧ x.2 % 2101248 = 0 ∧ x.1 % 4 = 0) ∧ (getPartition s p).configured = true ∧ (∀ k ∈
      parkedSlots s p, slotAddress (getPartition s p).parkArea k = slotAddress r k)) ∧
    (∃ (h : Hdr) (rows : Nat) (miss : Nat) (pages : Nat) (s : State), Accepted s h opTimedRegimeSet ∧ OnTime s h ∧ 1 ≤ rows
      ∧ rows ≤ 64 ∧ miss ≤ 4 ∧ 1 ≤ pages ∧ pages ≤ 16384 ∧ timedUnfinished s = false) ∧
    (∃ (h : Hdr) (low : Nat) (high : Nat) (s : State), Accepted s h opParkThresholdsSet ∧ OnTime s h ∧ low < high ∧ high ≤
      s.vellum.layout.kvPages) :=
  ⟨⟨h0,
     { partition := 15, share := 255, timedSequences := 256, sessionsMax := 262144, drain := true, drainTimeout := 86400 },
     serv, (by unfold Accepted; decide +kernel), (by unfold OnTime; decide +kernel), by decide +kernel⟩,
   ⟨h0, 0, [(4, 2101248)], serv, (by unfold Accepted; decide +kernel), (by unfold OnTime; decide +kernel),
     by decide +kernel⟩,
   ⟨h0, 64, 4, 16384, serv, (by unfold Accepted; decide +kernel), (by unfold OnTime; decide +kernel), by decide +kernel⟩,
   ⟨h0, 0, 524288, serv, (by unfold Accepted; decide +kernel), (by unfold OnTime; decide +kernel), by decide +kernel⟩⟩

/-- States and operands that meet the hypotheses of the clauses of TenantsAndReservoirs. -/
theorem witness_TenantsAndReservoirs :
    (∃ (h : Hdr) (n : Nat) (rate : Nat) (depth : Nat) (s : State), AcceptedVf s h opTenantRegister ∧ OnTime s h ∧ 1 ≤ n ∧ n
      ≤ 0xFFFF ∧ 1 ≤ depth ∧ (getTenant s n).registered = false ∧ (s.serving.tenants.filter (fun kv =>
      kv.2.registered)).length < 4096) ∧
    (∃ (h : Hdr) (n : Nat) (r : Bool) (d : Bool) (w : Bool) (rate : Nat) (depth : Nat) (weight : Nat) (s : State),
      AcceptedVf s h opReservoirSet ∧ OnTime s h ∧ n ≤ 0xFFFF ∧ (d = true → 1 ≤ depth) ∧ (w = true → weight ≤ 255) ∧
      myTenant s h n = true) ∧
    (∃ (h : Hdr) (n : Nat) (s : State), AcceptedVf s h opTenantDeregister ∧ OnTime s h ∧ n ≤ 0xFFFF ∧ myTenant s h n = true
      ∧ tenantBusy s n = false ∧ (getTenant s n).versions = [] ∧ s.images.lines = [] ∧ tenantClearing s n = false) :=
  ⟨⟨h1, 0xFFFF, 3, 1, serv, (by unfold AcceptedVf Accepted; decide +kernel), (by unfold OnTime; decide +kernel),
     by decide +kernel⟩,
   ⟨h1, 9, true, true, true, 5, 1, 255, serv, (by unfold AcceptedVf Accepted; decide +kernel),
     (by unfold OnTime; decide +kernel), by decide +kernel⟩,
   ⟨h1, 9, serv, (by unfold AcceptedVf Accepted; decide +kernel), (by unfold OnTime; decide +kernel), by decide +kernel⟩⟩

/-- States and operands that meet the hypotheses of the clauses of SessionsOpenCloseAndPark. -/
theorem witness_SessionsOpenCloseAndPark :
    (∃ (h : Hdr) (n : Nat) (id : Nat) (seed : BitVec 256) (s : State), AcceptedVf s h opSessionOpen ∧ OnTime s h ∧ n ≤
      0xFFFF ∧ (getPartition s (h.func - 1)).isSealed = false ∧ myTenant s h n = true ∧ openCount s (h.func - 1) <
      (getPartition s (h.func - 1)).sessionsMax ∧ freeSession s = some id) ∧
    (∃ (h : Hdr) (id : Nat) (s : State), AcceptedVf s h opSessionClose ∧ OnTime s h ∧ id < 262144 ∧ turnEnds (advance s
      h.time) h id = false ∧ openIn s id (h.func - 1) = true ∧ (getSession s id).turn = none ∧ inStep s id = false) ∧
    (∃ (h : Hdr) (id : Nat) (s : State), AcceptedVf s h opSessionPark ∧ id < 262144 ∧ turnEnds (advance s h.time) h id =
      false ∧ openIn s id (h.func - 1) = true ∧ (getSession s id).state = .idle ∧ (getSession s id).turn = none ∧ canPark s
      (getSession s id) = true ∧ (getSession s id).pages ≠ []) ∧
    (∃ (h : Hdr) (id : Nat) (s : State), AcceptedVf s h opSessionUnpark ∧ id < 262144 ∧ turnEnds (advance s h.time) h id =
      false ∧ openIn s id (h.func - 1) = true ∧ (getSession s id).state = .parked ∧ (getSession s id).parked.length ≤
      freePages s - reservedPages s ∧ (getSession s id).parked ≠ []) :=
  ⟨⟨h1, 9, 0, 3, serv, (by unfold AcceptedVf Accepted; decide +kernel), (by unfold OnTime; decide +kernel),
     by decide +kernel⟩,
   ⟨h1, 4, withSession sess1, (by unfold AcceptedVf Accepted; decide +kernel), (by unfold OnTime; decide +kernel),
     by decide +kernel⟩,
   ⟨h1, 4, withSession { sess1 with pages := [(0, 33)] } (withServing (fun x =>
     { x with partitions := [(0, { configured := true, parkArea := [(4096, 2101248)] })] })),
     (by unfold AcceptedVf Accepted; decide +kernel), by decide +kernel⟩,
   ⟨h1, 4, withSession
     { sess1 with state := .parked, parked := [{ logical := 0, slot := 0, version := 1, check := 0, committed := 5 }] },
     (by unfold AcceptedVf Accepted; decide +kernel), by decide +kernel⟩⟩

/-- States and operands that meet the hypotheses of the clauses of PrefixesRegisterAndRelease. -/
theorem witness_PrefixesRegisterAndRelease :
    (∃ (h : Hdr) (n : Nat) (handle : Nat) (m : Nat) (x : Nat) (ar : Bool) (segs : List Segment) (s : State), AcceptedVf s h
      opPrefixRegister ∧ n ≤ 0xFFFF ∧ segBytes segs ≤ 4194304 ∧ promptShape (.plain segs) ≠ 0 ∧ promptShape (.plain segs) ≤
      2097151 ∧ (getPartition s (h.func - 1)).isSealed = false ∧ myTenant s h n = true ∧ activeSlot s = some m ∧ findPfx s
      n handle = none ∧ freePfx s = some x ∧ (promptShape (.plain segs) + 127) / 128 ≤ availablePages s none) ∧
    (∃ (h : Hdr) (n : Nat) (handle : Nat) (x : Nat) (s : State), AcceptedVf s h opPrefixRelease ∧ OnTime s h ∧ n ≤ 0xFFFF ∧
      myTenant s h n = true ∧ findPfx s n handle = some x ∧ (getPfx s x).readers ≠ 0) :=
  ⟨⟨h1, 9, 77, 0, 0, true, [.ids [0]], act, (by unfold AcceptedVf Accepted; decide +kernel), by decide +kernel⟩,
   ⟨h1, 9, 77, 2, withServing (fun x =>
     { x with prefixes := [(2, { state := .ready, handle := 77, tenant := 9, readers := 1 })] }),
     (by unfold AcceptedVf Accepted; decide +kernel), (by unfold OnTime; decide +kernel), by decide +kernel⟩⟩

/-- States and operands that meet the hypotheses of the clauses of RequestsAreTaken. -/
theorem witness_RequestsAreTaken :
    (∃ (h : Hdr) (o' : ReqOps) (o : ReqOps) (n : Nat) (s : State), AcceptedVf s h opReqSubmit ∧ OnTime s h ∧ Unhindered s h
      o.session ∧ o = { o' with prompt := asRead (getPartition s (h.func - 1)).isSealed o'.prompt } ∧ (o.text = false →
      (getPartition s (h.func - 1)).isSealed = false ∧ o.stopSeqs = []) ∧ reqRangeOk s h o = true ∧ submitStatus s h o =
      none ∧ bindSlot s (getSession s o.session) = some n ∧ (getPartition s (h.func - 1)).timed = false) ∧
    (∃ (h : Hdr) (o' : ReqOps) (o : ReqOps) (n : Nat) (s : State), AcceptedVf s h opReqSubmit ∧ OnTime s h ∧ Unhindered s h
      o.session ∧ o = { o' with prompt := asRead (getPartition s (h.func - 1)).isSealed o'.prompt } ∧ (o.text = false →
      (getPartition s (h.func - 1)).isSealed = false ∧ o.stopSeqs = []) ∧ reqRangeOk s h o = true ∧ submitStatus s h o =
      none ∧ bindSlot s (getSession s o.session) = some n ∧ (getPartition s (h.func - 1)).timed = true ∧ timedStatus
      (advance s h.time) (getSession s o.session) n o = none) ∧
    (∃ (h : Hdr) (id : Nat) (s : State), AcceptedVf s h opReqCancel ∧ id < 262144 ∧ turnEnds (advance s h.time) h id =
      false ∧ openIn s id (h.func - 1) = true ∧ (getSession s id).turn ≠ none) :=
  ⟨⟨h1, req1, req1, 0, withSession sess1 act, (by unfold AcceptedVf Accepted; decide +kernel),
     (by unfold OnTime; decide +kernel), (by unfold Unhindered; decide +kernel), by decide +kernel⟩,
   ⟨h1, { req1 with ttftLimit := 4294967295, itbLimit := 4294967295 },
     { req1 with ttftLimit := 4294967295, itbLimit := 4294967295 }, 0, timedServ,
     (by unfold AcceptedVf Accepted; decide +kernel), (by unfold OnTime; decide +kernel),
     (by unfold Unhindered; decide +kernel), by decide +kernel⟩,
   ⟨h1, 4, withSession { sess1 with state := .turn, turn := some (newTurn act h1 req1 false) } act,
     (by unfold AcceptedVf Accepted; decide +kernel), by decide +kernel⟩⟩

/-- States and operands that meet the hypotheses of the clauses of FoliosLoad. -/
theorem witness_FoliosLoad :
    (∃ (h : Hdr) (slot : Nat) (source : Nat) (peer : Nat) (f : FolioHead) (s : State), Accepted s h opFolioLoad ∧ slot < 2
      ∧ source < 2 ∧ (source = 1 → h.dataLen = 0) ∧ (getSlot s slot).state = .empty ∧ headRefusal s (slotCapacity
      s.vellum.layout slot) f = none) ∧
    (∃ (h : Hdr) (slot : Nat) (source : Nat) (peer : Nat) (f : FolioHead) (s : State) (r : Nat), Accepted s h opFolioLoad ∧
      slot < 2 ∧ source < 2 ∧ (source = 1 → h.dataLen = 0) ∧ (getSlot s slot).state = .empty ∧ headRefusal s (slotCapacity
      s.vellum.layout slot) f = some r ∧ OnTime s h) ∧
    (∃ (time : Nat) (slot : Nat) (chunk : Nat) (generation : Nat) (bank : Nat) (data : List Byte) (f : FolioHead) (s :
      State), slot < 2 ∧ (getSlot s slot).head = some f ∧ (getSlot s slot).state = .loading ∧ chunk < f.chunkCount ∧
      (getSlot s slot).verified.contains chunk = false ∧ f.chunkBase + (chunk + 1) * 4194304 ≤ f.sourceBytes ∧ (getSlot s
      slot).pull.all (fun p => p.2 == chunkBank f chunk) = true ∧ (¬ ((getSite s (chunkSite chunk)).lost = true ∨ (getSite
      s (chunkSite chunk)).emptied = true ∨ (getSite s (chunkSite chunk)).untrained = true)) ∧ f.tree[chunk]? = some
      (leafHash chunk data)) ∧
    (∃ (time : Nat) (slot : Nat) (chunk : Nat) (generation : Nat) (bank : Nat) (data : List Byte) (f : FolioHead) (s :
      State), slot < 2 ∧ (getSlot s slot).head = some f ∧ (getSlot s slot).state = .loading ∧ chunk < f.chunkCount ∧
      (getSlot s slot).verified.contains chunk = false ∧ f.chunkBase + (chunk + 1) * 4194304 ≤ f.sourceBytes ∧ (getSlot s
      slot).pull.all (fun p => p.2 == chunkBank f chunk) = true ∧ (¬ ((getSite s (chunkSite chunk)).lost = true ∨ (getSite
      s (chunkSite chunk)).emptied = true ∨ (getSite s (chunkSite chunk)).untrained = true)) ∧ f.tree[chunk]? ≠ some
      (leafHash chunk data) ∧ tget 0 (getSlot s slot).tries chunk < 3) ∧
    (∃ (time : Nat) (slot : Nat) (body : FolioBody) (f : FolioHead) (s : State), slot < 2 ∧ (getSlot s slot).head = some f
      ∧ (getSlot s slot).state = .loading ∧ f.chunkCount ≤ (getSlot s slot).verified.length ∧ (getSlot s slot).missing = []
      ∧ (getSlot s slot).pull.all (fun p => p.1 == body.generation) = true ∧ bodyRefusal s f body = none ∧ folioPages body
      ≤ stencilSpace s ∧ folioCoPlace f = false) ∧
    (∃ (h : Hdr) (slot : Nat) (s : State), Accepted s h opFolioUnload ∧ slot < 2 ∧ (getSlot s slot).state = .ready) :=
  ⟨⟨h0, 1, 1, 77, { head1 with generation := 5 }, serv, (by unfold Accepted; decide +kernel), by decide +kernel⟩,
   ⟨h0, 0, 0, 0, { head1 with publisher := 6, colPublisher := 6 }, serv, 4, (by unfold Accepted; decide +kernel),
     by decide +kernel, by decide +kernel, by decide +kernel, by decide +kernel, by decide +kernel,
     (by unfold OnTime; decide +kernel)⟩,
   ⟨9, 1, 0, 5, 0, [], headD, withImages (fun x =>
     { x with b := { state := .loading, head := some headD, pull := some (5, 0) } }), by decide +kernel, rfl,
     by decide +kernel, by decide +kernel, by decide +kernel, by decide +kernel, by decide +kernel, by decide +kernel, rfl⟩,
   ⟨9, 1, 0, 5, 0, [], { head1 with tree := [] }, withImages (fun x =>
     { x with b := { state := .loading, head := some { head1 with tree := [] }, tries := [(0, 2)] } }), by decide +kernel⟩,
   ⟨9, 0, bodyL, head1, startedOn 0 0x0501 0 (withImages (fun x =>
     { x with a := { state := .loading, head := some head1, verified := [0] } })), by decide +kernel⟩,
   ⟨h0, 1, withImages (fun x => { x with b := slot1 .ready }), (by unfold Accepted; decide +kernel), by decide +kernel⟩⟩

/-- States and operands that meet the hypotheses of the clauses of ImagesSwitch. -/
theorem witness_ImagesSwitch :
    (∃ (h : Hdr) (slot : Nat) (b : FolioBody) (s : State), Accepted s h opImageSwitch ∧ slot < 2 ∧ (getSlot s slot).state =
      .ready ∧ (getSlot s slot).body = some b ∧ s.fw.handover = true) ∧
    (∃ (h : Hdr) (slot : Nat) (b : FolioBody) (s : State), Accepted s h opImageSwitch ∧ slot < 2 ∧ (getSlot s slot).state =
      .ready ∧ (getSlot s slot).body = some b ∧ s.fw.handover = false ∧ ((getSlot s (1 - slot)).state = .empty ∨ (getSlot s
      (1 - slot)).state = .loading ∨ (getSlot s (1 - slot)).state = .ready)) ∧
    (∃ (h : Hdr) (slot : Nat) (b : FolioBody) (s : State), Accepted s h opImageSwitch ∧ slot < 2 ∧ (getSlot s slot).state =
      .ready ∧ (getSlot s slot).body = some b ∧ s.fw.handover = false ∧ (getSlot s (1 - slot)).state = .active ∧ 1000 ≤
      (getSlot s (1 - slot)).permille ∧ OnTime s h) ∧
    (∃ (time : Nat) (n : Nat) (s : State), s.images.activating = some n ∧ sectionMissing (getSlot s n) [1, 5, 6, 7] = false
      ∧ (getSlot s n).body.isSome = true) ∧
    (∃ (time : Nat) (old : Nat) (new : Nat) (s : State), s.images.switching = some (old, new) ∧ s.images.migrating = false
      ∧ turnsOn s old = 0 ∧ (∀ st ∈ s.serving.steps, st.slot ≠ old) ∧ drainHolds s old = false ∧ sectionMissing (getSlot s
      new) [1, 5] = false) ∧
    (∃ (time : Nat) (unit : Nat) (old : Nat) (new : Nat) (load : DmaLoad) (f : FolioHead) (b : FolioBody) (s : State),
      s.images.switching = some (old, new) ∧ new < 2 ∧ old = 1 - new ∧ (getSlot s new).head = some f ∧ (getSlot s new).body
      = some b ∧ s.images.migrating = true ∧ ((footprint b).filter (clusterGood s)).contains unit = true ∧
      s.images.migrated.contains unit = false ∧ partNext s b unit = true ∧ (getIsland s unit).desc = none ∧ sectionMissing
      (getSlot s new) [1, 5] = false) ∧
    (∃ (time : Nat) (slot : Nat) (s : State), slot < 2 ∧ (getSlot s slot).state = .draining ∧ turnsOn s slot = 0 ∧
      sessionsOn s slot = 0) :=
  ⟨⟨h0, 1, body1, { withImages (fun x => { x with b := slot1 .ready }) with fw := { handover := true } },
     (by unfold Accepted; decide +kernel), by decide +kernel⟩,
   ⟨h0, 1, body1, withImages (fun x => { x with b := slot1 .ready }), (by unfold Accepted; decide +kernel),
     by decide +kernel⟩,
   ⟨h0, 1, body1, withImages (fun x => { x with b := slot1 .ready }) act, (by unfold Accepted; decide +kernel),
     by decide +kernel, by decide +kernel, by decide +kernel, by decide +kernel, by decide +kernel, by decide +kernel,
     (by unfold OnTime; decide +kernel)⟩,
   ⟨9, 1, startedOn 0 0x0503 1 (withImages (fun x => { x with b := slot1 .active, activating := some 1 })),
     by decide +kernel⟩,
   ⟨9, 0, 1, withImages (fun x => { x with a := slot1 .draining, b := slot1 .active, switching := some (0, 1) }),
     by decide +kernel⟩,
   ⟨9, 0, 0, 1, { yields := 3, forced := 1 }, head1, bodyC, withImages (fun x =>
     { x with a := slot1 .draining, b := { slot1 .active with body := some bodyC, permille := 0 }, switching := some (0, 1), migrating := true }),
     by decide +kernel⟩,
   ⟨9, 1, withImages (fun x => { x with b := slot1 .draining }), by decide +kernel⟩⟩

/-- States and operands that meet the hypotheses of the clauses of ExportAndCompatSwap. -/
theorem witness_ExportAndCompatSwap :
    (∃ (h : Hdr) (slot : Nat) (peer : Nat) (f : FolioHead) (s : State), Accepted s h opFolioExport ∧ OnTime s h ∧ slot < 2
      ∧ peer ≤ 0xFFFF ∧ (getSlot s slot).head = some f ∧ ((getSlot s slot).state = .ready ∨ (getSlot s slot).state =
      .active ∨ (getSlot s slot).state = .draining) ∧ s.link.exportEnable = true ∧ s.link.memSpace = true ∧ folioWrapped f
      = false ∧ (getSlot s slot).degraded = false ∧ s.images.exported.slot ≠ some (1 - slot)) ∧
    (∃ (h : Hdr) (s : State), Accepted s h opFolioExportEnd ∧ OnTime s h ∧ s.images.exported.slot.isSome = true) ∧
    (∃ (h : Hdr) (f : FolioHead) (g : FolioHead) (chunks : List (List Byte)) (list : Nat × Nat) (body : FolioBody) (b :
      FolioBody) (n : Nat) (s : State), Accepted s h opCompatSwap ∧ n < 2 ∧ list.1 % 4 = 0 ∧ list.2 % 16 = 0 ∧ 16 ≤ list.2
      ∧ list.2 ≤ 65536 ∧ (getSlot s n).state = .active ∧ (n = 1 → s.images.a.state ≠ .active) ∧ (getSlot s n).head = some g
      ∧ (getSlot s n).body = some b ∧ (getSlot s (1 - n)).state ≠ .draining ∧ timedUnfinished s = false ∧ headRefusal s
      (slotCapacity s.vellum.layout n) f = none ∧ folioCompat f = true ∧ f.shapeId = g.shapeId ∧ f.chunkCount =
      g.chunkCount ∧ f.chunkBase + f.chunkCount * 4194304 ≤ f.sourceBytes ∧ leavesOf chunks = f.tree.take f.chunkCount ∧
      bodyRefusal s f body = none) ∧
    (∃ (time : Nat) (layer : Nat) (c : Compat) (s : State), s.images.compat = some c ∧ (c.body.layers.map (·.layer) ++
      [64])[c.layersDone.length]? = some layer ∧ oldEpochIn s (compatSlot s) (partUnits c.body c.inForce layer) = false ∧
      (getSlot s (compatSlot s)).missing = []) :=
  ⟨⟨h0, 0, 0xFFFF, head1, { act with link := { act.link with exportEnable := true } },
     (by unfold Accepted; decide +kernel), (by unfold OnTime; decide +kernel), by decide +kernel⟩,
   ⟨h0, withImages (fun x => { x with exported := { slot := some 1, count := 3 } }), (by unfold Accepted; decide +kernel),
     (by unfold OnTime; decide +kernel), by decide +kernel⟩,
   ⟨h0, headCD, head1, [[]], (4, 16), bodyL, body1, 0, act, (by unfold Accepted; decide +kernel), by decide +kernel,
     by decide +kernel, by decide +kernel, by decide +kernel, by decide +kernel, by decide +kernel, by decide +kernel,
     by decide +kernel, by decide +kernel, by decide +kernel, by decide +kernel, headCD_ok, by decide +kernel,
     by decide +kernel, by decide +kernel, by decide +kernel, rfl, by decide +kernel⟩,
   ⟨9, 64, { head := headC, body := body1, oldHead := head1, oldBody := body1 }, startedOn 0 0x0508 0 (withImages (fun x =>
     { x with a := slot1 .compat, compat := some { head := headC, body := body1, oldHead := head1, oldBody := body1 } })),
     by decide +kernel⟩⟩

/-- States and operands that meet the hypotheses of the clauses of ChunksModesPinsStencils. -/
theorem witness_ChunksModesPinsStencils :
    (∃ (time : Nat) (slot : Nat) (chunk : Nat) (data : List Byte) (s : State) (d : Nat × Nat), slot < 2 ∧ nextMissing
      (getSlot s slot) = some chunk ∧ (getSlot s slot).head.bind (fun f => f.tree[chunk]?) = some (leafHash chunk data) ∧
      relocationSite s = some d) ∧
    (∃ (time : Nat) (slot : Nat) (chunk : Nat) (data : List Byte) (s : State), slot < 2 ∧ nextMissing (getSlot s slot) =
      some chunk ∧ (getSlot s slot).head.bind (fun f => f.tree[chunk]?) ≠ some (leafHash chunk data)) ∧
    (∃ (time : Nat) (slot : Nat) (c : Nat) (rest : List Nat) (s : State), slot < 2 ∧ (getSlot s slot).missing = c :: rest ∧
      (getSlot s slot).degraded = false ∧ (getSlot s slot).missingAt + 60000000000 ≤ max s.now time) ∧
    (∃ (h : Hdr) (slot : Nat) (kind : Nat) (peer : Nat) (f : FolioHead) (s : State), Accepted s h opRefetchSource ∧ OnTime
      s h ∧ slot < 2 ∧ kind < 3 ∧ (getSlot s slot).state ≠ .empty ∧ (getSlot s slot).head = some f ∧ (kind = 1 →
      folioWrapped f = false)) ∧
    (∃ (h : Hdr) (slot : Nat) (mode : Nat) (f : FolioHead) (s : State), Accepted s h opArithModeSet ∧ OnTime s h ∧ slot < 2
      ∧ mode < 2 ∧ (getSlot s slot).state ≠ .empty ∧ (getSlot s slot).state ≠ .loading ∧ (getSlot s slot).head = some f ∧
      (mode = 1 → folioReference f = true) ∧ s.serving.sessions = [] ∧ s.serving.steps = []) ∧
    (∃ (h : Hdr) (slot : Nat) (layer : Nat) (expert : Nat) (pin : Nat) (r : LayerRes) (s : State), Accepted s h opExpertPin
      ∧ OnTime s h ∧ slot < 2 ∧ layer < 64 ∧ expert < 128 ∧ pin < 3 ∧ ((getSlot s slot).state = .ready ∨ (getSlot s
      slot).state = .active) ∧ (getSlot s slot).layers.find? (fun r => r.layer == layer) = some r ∧ expert <
      r.experts.length ∧ (pin = 1 → (r.experts.zipIdx.filter (fun x => x.1.pin == 1 && x.2 != expert)).length <
      (r.experts.filter (·.hot)).length) ∧ (pin = 2 → (r.experts.zipIdx.filter (fun x => x.1.pin == 2 && x.2 !=
      expert)).length < 40)) ∧
    (∃ (h : Hdr) (slot : Nat) (id : Nat) (st : Stencil) (b : FolioBody) (s : State), Accepted s h opStencilLoad ∧ OnTime s
      h ∧ slot < 2 ∧ id < 1024 ∧ (getSlot s slot).body = some b ∧ (getSlot s slot).stencils.find? (fun kv => kv.1 == id) =
      none ∧ stencilOk b.lettering st = true ∧ stencilPages st b.lettering.vocab.length ≤ stencilSpace s) :=
  ⟨⟨9, 0, 0, [], withImages (fun x =>
     { x with a := { slot1 .active with head := some headD, missing := [0], hostConfirmed := true, tries := [(0, 3)] } }),
     (17, 8202), by decide +kernel, by decide +kernel, rfl, by decide +kernel⟩,
   ⟨9, 0, 0, [], withImages (fun x =>
     { x with a := { slot1 .active with head := some { head1 with tree := [] }, missing := [0], hostConfirmed := true, tries := [(0, 2)] } }),
     by decide +kernel⟩,
   ⟨60000000000, 0, 0, [], withImages (fun x =>
     { x with a := { slot1 .active with missing := [0] }, exported := { slot := some 0 } }), by decide +kernel⟩,
   ⟨h0, 1, 2, 7, head1, withImages (fun x => { x with b := slot1 .ready }), (by unfold Accepted; decide +kernel),
     (by unfold OnTime; decide +kernel), by decide +kernel⟩,
   ⟨h0, 0, 1, { head1 with flags := 2 }, withImages (fun x =>
     { x with a := { slot1 .active with head := some { head1 with flags := 2 } } }), (by unfold Accepted; decide +kernel),
     (by unfold OnTime; decide +kernel), by decide +kernel⟩,
   ⟨h0, 0, 63, 0, 1, layer1, withImages (fun x => { x with a := { slot1 .active with layers := [layer1] } }),
     (by unfold Accepted; decide +kernel), (by unfold OnTime; decide +kernel), by decide +kernel⟩,
   ⟨h0, 0, 1023, stencil1, body1, act, (by unfold Accepted; decide +kernel), (by unfold OnTime; decide +kernel),
     by decide +kernel⟩⟩

/-- States and operands that meet the hypotheses of the clauses of AdaptersLoadSwapAndUnload. -/
theorem witness_AdaptersLoadSwapAndUnload :
    (∃ (h : Hdr) (n : Nat) (d : Nat) (runs : List (Nat × Nat)) (image : AdapterImage) (s : State), Accepted s h
      opAdapterLoad ∧ n ≤ 0xFFFF ∧ adapterOk image = true ∧ (getTenant s n).registered = true ∧ ((getTenant s
      n).versions.filter (·.present)).length < 2 ∧ adapterSite s n ((adapterLayers image).map (fun x => x.2.length /
      64)).sum = some (d, runs)) ∧
    (∃ (time : Nat) (n : Nat) (w : AdapterVer) (s : State), (getTenant s n).versions.find? (·.loading) = some w) ∧
    (∃ (h : Hdr) (n : Nat) (version : Nat) (s : State), Accepted s h opAdapterSwap ∧ OnTime s h ∧ n ≤ 0xFFFF ∧ (getTenant s
      n).registered = true ∧ (getTenant s n).versions.any (fun w => w.index == version && !w.loading) = true) ∧
    (∃ (h : Hdr) (n : Nat) (pin : Bool) (s : State), Accepted s h opAdapterPin ∧ OnTime s h ∧ n ≤ 0xFFFF ∧ (getTenant s
      n).registered = true ∧ (pin = true → (s.serving.tenants.filter (fun kv => kv.2.pinned && kv.1 != n)).length < 32)) ∧
    (∃ (h : Hdr) (n : Nat) (version : Nat) (w : AdapterVer) (s : State), Accepted s h opAdapterUnload ∧ OnTime s h ∧ n ≤
      0xFFFF ∧ (getTenant s n).versions.find? (fun w => w.index == version) = some w ∧ (getTenant s n).current ≠ some
      version ∧ versionBound s n w = false ∧ w.loading = false) :=
  ⟨⟨h0, 9, 9, [], { modelId := 3, tensors := [] }, serv, (by unfold Accepted; decide +kernel), by decide +kernel⟩,
   ⟨9, 9, { version1 with loading := true }, startedOn 0 0x0506 9 (withVersions [{ version1 with loading := true }]),
     by decide +kernel⟩,
   ⟨h0, 9, 1, withVersions [version1], (by unfold Accepted; decide +kernel), (by unfold OnTime; decide +kernel),
     by decide +kernel⟩,
   ⟨h0, 9, true, serv, (by unfold Accepted; decide +kernel), (by unfold OnTime; decide +kernel), by decide +kernel⟩,
   ⟨h0, 9, 1, version1, withVersions [version1], (by unfold Accepted; decide +kernel), (by unfold OnTime; decide +kernel),
     by decide +kernel⟩⟩

/-- States and operands that meet the hypotheses of the clauses of PowerCapsBind. -/
theorem witness_PowerCapsBind :
    (∃ (h : Hdr) (w : Nat) (s : State), Accepted s h opPowerCapSet ∧ w ≤ 18500 ∧ s.serving.steps ≠ []) ∧
    (∃ (h : Hdr) (w : Nat) (s : State), Accepted s h opPowerCapSet ∧ w ≤ 18500 ∧ s.serving.steps = []) ∧
    (∃ (time : Nat) (s : State), s.power.capPending = true) ∧
    (∃ (time : Nat) (w : Nat) (s : State), governorRuns s = true ∧ w ≤ 18500) ∧
    (∃ (h : Hdr) (w : Nat) (s : State), Accepted s h opCapFloorSet ∧ OnTime s h ∧ w ≤ 18500 ∧ (w = 0 → timedUnfinished s =
      false) ∧ w ≤ s.power.hostCap ∧ (w ≠ 0 → activeGuarantee s ≤ w)) :=
  ⟨⟨h0, 18500, withServing (fun x => { x with steps := [step1] }), (by unfold Accepted; decide +kernel), by decide +kernel⟩,
   ⟨h0, 0, serv, (by unfold Accepted; decide +kernel), by decide +kernel⟩,
   ⟨9, { serv with power := { serv.power with hostCap := 9000, capPending := true } }, by decide +kernel⟩,
   ⟨9, 18500, serv, by decide +kernel⟩,
   ⟨h0, 18500, act, (by unfold Accepted; decide +kernel), (by unfold OnTime; decide +kernel), by decide +kernel⟩⟩

/-- States and operands that meet the hypotheses of the clauses of PowerStatesAreSelectedAndRead. -/
theorem witness_PowerStatesAreSelectedAndRead :
    (∃ (h : Hdr) (ns : Nat) (s : State), Accepted s h opLatencyToleranceSet ∧ s.board.preparing = [] ∧ (3 ≤ powerCode
      (selectState ns) → s.images.switching = none) ∧ s.serving.steps ≠ []) ∧
    (∃ (h : Hdr) (ns : Nat) (s : State), Accepted s h opLatencyToleranceSet ∧ s.board.preparing = [] ∧ (3 ≤ powerCode
      (selectState ns) → s.images.switching = none) ∧ s.serving.steps = []) ∧
    (∃ (h : Hdr) (ns : Nat) (s : State) (time : Nat), Accepted s h opLatencyToleranceSet ∧ s.board.preparing = [] ∧ (3 ≤
      powerCode (selectState ns) → s.images.switching = none) ∧ s.power.capPending = true ∧ s.power.tolDue = some ns) ∧
    (∃ (h : Hdr) (ns : Nat) (s : State) (p : PowerState), Accepted s h opLatencyToleranceSet ∧ s.board.preparing = [] ∧ (3
      ≤ powerCode (selectState ns) → s.images.switching = none) ∧ wakeBound p ≤ ns) ∧
    (∃ (h : Hdr) (ns : Nat) (s : State), Accepted s h opLatencyToleranceSet ∧ s.board.preparing = [] ∧ (3 ≤ powerCode
      (selectState ns) → s.images.switching = none)) ∧
    (∃ (h : Hdr) (s : State), Accepted s h opPowerRead ∧ OnTime s h) :=
  ⟨⟨h0, 40000000, withServing (fun x => { x with steps := [step1] }), (by unfold Accepted; decide +kernel),
     by decide +kernel⟩,
   ⟨h0, 40000000, serv, (by unfold Accepted; decide +kernel), by decide +kernel⟩,
   ⟨h0, 40000000, { serv with power := { serv.power with capPending := true, tolDue := some 40000000 } }, 9,
     (by unfold Accepted; decide +kernel), by decide +kernel⟩,
   ⟨h0, 40000000, serv, .trim, (by unfold Accepted; decide +kernel), by decide +kernel⟩,
   ⟨h0, 40000000, serv, (by unfold Accepted; decide +kernel), by decide +kernel⟩,
   ⟨h0, serv, (by unfold Accepted; decide +kernel), (by unfold OnTime; decide +kernel)⟩⟩

/-- States and operands that meet the hypotheses of the clauses of CartridgesComeAndGo. -/
theorem witness_CartridgesComeAndGo :
    (∃ (h : Hdr) (c : Nat) (s : State), Accepted s h opCartridgePrepare ∧ c < 20 ∧ imagesMoving s = false ∧ fitsWithout s c
      = true ∧ s.board.preparing.contains c = false) ∧
    (∃ (time : Nat) (c : Nat) (s : State), s.board.preparing.contains c = true ∧ pagesLeft s c = false) ∧
    (∃ (h : Hdr) (c : Nat) (s : State), Accepted s h opCartridgeRestore ∧ c < 20 ∧ (getCart s c).lamp = .green) ∧
    (∃ (time : Nat) (c : Nat) (r : SelfTestResult) (s : State), (findStarted s 0x0607 c).isSome = true ∧ r.badSegments =
      []) ∧
    (∃ (time : Nat) (c : Nat) (s : State), c < 20 ∧ (getCart s c).present = false) ∧
    (∃ (time : Nat) (c : Nat) (s : State), c < 20 ∧ (getCart s c).present = true ∧ ((getCart s c).lamp = .amber ∨
      s.board.railsUp = false)) ∧
    (∃ (time : Nat) (c : Nat) (s : State), c < 20 ∧ (getCart s c).present = true ∧ (getCart s c).phasesLost < 16) ∧
    (∃ (time : Nat) (d : Nat) (s : State), d < 40 ∧ d / 2 ≠ 8 ∧ (getCart s (d / 2)).powered = true ∧
      s.map.darkDies.contains d = false ∧ governorRuns s = true) :=
  ⟨⟨h0, 19, serv, (by unfold Accepted; decide +kernel), by decide +kernel⟩,
   ⟨9, 19, startedOn 0 0x0606 19 { serv with board := { serv.board with preparing := [19] } }, by decide +kernel⟩,
   ⟨h0, 19, withCart 19 { lamp := .green }, (by unfold Accepted; decide +kernel), by decide +kernel⟩,
   ⟨9, 19, {}, startedOn 0 0x0607 19 (withCart 19 { lamp := .green, powered := true }), by decide +kernel⟩,
   ⟨9, 19, withCart 19 { present := false }, by decide +kernel⟩,
   ⟨9, 0, withCart 0 { present := true, lamp := .amber }, by decide +kernel⟩,
   ⟨9, 0, withCart 0 { phasesLost := 15, powered := true }, by decide +kernel⟩,
   ⟨9, 39, withCart 19 { powered := true }, by decide +kernel⟩⟩

/-- States and operands that meet the hypotheses of the clauses of DieLimitsSegmentsAndDroops. -/
theorem witness_DieLimitsSegmentsAndDroops :
    (∃ (time : Nat) (d : Nat) (amps : Nat) (s : State), d < 40 ∧ governorRuns s = true ∧ dieLimit s d < amps ∧ (tget 0
      s.power.dieSkip d = 0 ∨ tget 0 s.power.dieChanged d + 10000 ≤ max s.now time)) ∧
    (∃ (time : Nat) (u : Nat) (s : State), isCluster u = true ∧ governorRuns s = true ∧ (getIsland s u).dark = false) ∧
    (∃ (time : Nat) (u : Nat) (code : Nat) (s : State), isCluster u = true ∧ governorRuns s = true ∧ Config.fusedVoltage u
      (tget 0 s.nvm.ceilings u) < code ∧ tget 0 s.nvm.ceilings u < 5) ∧
    (∃ (u : Nat) (cycles : Nat) (s : State), isCluster u = true) ∧
    (∃ (time : Nat) (u : Nat) (s : State), isCluster u = true ∧ governorRuns s = true ∧ (getIsland s u).droopDue = true) ∧
    (∃ (time : Nat) (u : Nat) (x : Nat) (s : State), (getIsland s u).droops.getLast? = some x ∧ x + (if (getIsland s
      u).droopBin then 100000000 else 1000000) ≤ max s.now time) :=
  ⟨⟨10000, 39, 641, { serv with power := { serv.power with dieSkip := [(39, 1)] } }, by decide +kernel⟩,
   ⟨9, 40688, { serv with nvm := { serv.nvm with segments := [(40688, 2)] } }, by decide +kernel⟩,
   ⟨9, 0, Config.fusedVoltage 0 4 + 1, { serv with nvm := { serv.nvm with ceilings := [(0, 4)] } }, by decide +kernel,
     by decide +kernel, Nat.lt_succ_self _, by decide +kernel⟩,
   ⟨0, 5, serv, by decide +kernel⟩,
   ⟨3600000000010, 0, withIsland 0 { droops := [10, 3599000000010], droopDue := true }, by decide +kernel⟩,
   ⟨1000005, 0, 5, withIsland 0 { droops := [5], droopSkip := true }, by decide +kernel⟩⟩

/-- States and operands that meet the hypotheses of the clauses of InrushAllowanceStatesEnergy. -/
theorem witness_InrushAllowanceStatesEnergy :
    (∃ (time : Nat) (d : Nat) (amps : Nat) (u : Nat) (rest : List Nat) (s : State), waitingClusters s d = u :: rest ∧ amps
      + 8 ≤ dieLimit s d) ∧
    (∃ (time : Nat) (d : Nat) (u : Nat) (x : Nat) (s : State), u ∈ waitingClusters s d ∧ (getIsland s u).enableSince = some
      x ∧ x + 200000 ≤ max s.now time ∧ s.power.inrushSkip.contains d = false) ∧
    (∃ (time : Nat) (s : State), isIdle s = true ∧ s.board.phase = .serving) ∧
    (∃ (time : Nat) (s : State), s.power.descending = true ∧ isIdle s = true ∧ powerCode s.power.state < powerCode
      s.power.selected) ∧
    (∃ (time : Nat) (w : WakeTrigger) (s : State), (s.power.state ≠ .active ∨ s.power.descending = true) ∧ triggered s w =
      true) :=
  ⟨⟨9, 39, 632, 39936, [], withIsland 39936 { enableSince := some 0, enabledSegments := 7 }, by decide +kernel⟩,
   ⟨200000, 39, 39936, 0, withIsland 39936 { enableSince := some 0 }, by decide +kernel⟩,
   ⟨100000, { serv with power := { serv.power with idleSince := some 0, selected := .trim } }, by decide +kernel⟩,
   ⟨9, { serv with power := { serv.power with descending := true, selected := .trim } }, by decide +kernel⟩,
   ⟨9, .adminNeed, { serv with power := { serv.power with state := .trim, selected := .trim } }, by decide +kernel⟩⟩

/-- States and operands that meet the hypotheses of the clauses of SensorsAndThrottles. -/
theorem witness_SensorsAndThrottles :
    (∃ (time : Nat) (u : Nat) (a : Int) (b : Int) (also : SameSample) (s : State), governorRuns s = true ∧ hasPair u = true
      ∧ sensorsRead s u = true ∧ ThermalSound s.thermal ∧ (∀ v, (getPair s v).hot = 0) ∧ jumped (getPair s u).rawA a
      (getPair s u).rawB b = false ∧ jumped (getPair s u).rawB b (getPair s u).rawA a = false) ∧
    (∃ (time : Nat) (s : State), governorRuns s = true ∧ ThermalSound s.thermal ∧ (∀ v, (getPair s v).missA < 9 ∧ (getPair
      s v).missB < 9)) ∧
    (∃ (time : Nat) (u : Nat) (x : Nat) (s : State), (getPair s u).closeSince = some x ∧ (getPair s u).flagged = true ∧ x +
      10000000000 ≤ max s.now time) ∧
    (∃ (time : Nat) (u : Nat) (s : State), governorRuns s = true ∧ canThrottle s u = true ∧ 1 ≤ (getPair s u).stage ∧
      (getPair s u).stage < 7 ∧ 420 ≤ protReading s u ∧ (getPair s u).stageAt + 100000 ≤ max s.now time) ∧
    (∃ (time : Nat) (u : Nat) (x : Nat) (s : State), (getPair s u).coolSince = some x ∧ governorRuns s = true ∧ 1 ≤
      (getPair s u).stage ∧ x + 1000000 ≤ max s.now time) ∧
    (∃ (time : Nat) (u : Nat) (onB : Bool) (a : Int) (b : Int) (also : SameSample) (s : State), s.board.railsUp = true ∧
      isSensed u = true ∧ (if onB then (getPair s u).failedB else (getPair s u).failedA) = false ∧ 480 ≤ (if onB then b
      else a) ∧ sensorsRead s u = true) :=
  ⟨⟨9, 0, 112, 100, {}, serv, by decide +kernel, by decide +kernel, by decide +kernel, ⟨by decide, by decide⟩, fun _ =>
     rfl, by decide +kernel⟩,
   ⟨9, serv, by decide +kernel, ⟨by decide, by decide⟩, fun _ => ⟨(by show 0 < 9; decide), (by show 0 < 9; decide)⟩⟩,
   ⟨10000000000, 0, 0, withPair 0 { closeSince := some 0, flagged := true }, by decide +kernel⟩,
   ⟨100000, 0, withPair 0 { stage := 6, a := 420 }, by decide +kernel⟩,
   ⟨1000000, 0, 0, withPair 0 { stage := 1, coolSince := some 0 }, by decide +kernel⟩,
   ⟨9, 0, true, 0, 480, {}, serv, by decide +kernel⟩⟩

/-- States and operands that meet the hypotheses of the clauses of CoolantAndTheReturn. -/
theorem witness_CoolantAndTheReturn :
    (∃ (time : Nat) (inlet : Int) (outlet : Int) (power : Nat) (s : State), governorRuns s = true) ∧
    (∃ (time : Nat) (inlet : Int) (outlet : Int) (power : Nat) (steady : Bool) (s : State), s.board.modReady = true) ∧
    (∃ (time : Nat) (flow : Nat) (s : State), governorRuns s = true) ∧
    (∃ (time : Nat) (s : State), governorRuns s = true ∧ s.thermal.flowStale = false ∧ max s.thermal.flowAt s.board.roseAt
      + 10000000000 ≤ max s.now time) ∧
    (∃ (h : Hdr) (s : State), Accepted s h opThermalAck ∧ s.thermal.shutdown = true ∧ (∀ kv ∈ s.thermal.pairs, isSensed
      kv.1 = true → sensorsRead s kv.1 = true → protReading s kv.1 < 240)) :=
  ⟨⟨9, 72, 128, 8500, { serv with thermal := { serv.thermal with flow := 140 } }, by decide +kernel⟩,
   ⟨9, 100, 100, 5000, true, serv, by decide +kernel⟩,
   ⟨9, 400, serv, by decide +kernel⟩,
   ⟨10000000000, serv, by decide +kernel⟩,
   ⟨h0,
     { withPair 0 { a := 239, b := 239 } with board := { serv.board with phase := .partialShutdown, thermtrip := true }, thermal := { shutdown := true, pairs := [(0, { a := 239, b := 239 })] } },
     (by unfold Accepted; decide +kernel), by decide +kernel⟩⟩

/-- States and operands that meet the hypotheses of the clauses of AttestationAndPublishers. -/
theorem witness_AttestationAndPublishers :
    (∃ (h : Hdr) (nonce : BitVec 256) (s : State), Accepted s h opAttest ∧ OnTime s h ∧ s.trust.isUnsealed = false) ∧
    (∃ (h : Hdr) (p : Nat) (d : Digest) (s : State), Accepted s h opPublisherRegister ∧ OnTime s h ∧ p < 2 ^ 32 ∧
      s.nvm.publishers.any (fun q => q.1 == p) = false ∧ s.nvm.publishers.length < 64) ∧
    (∃ (h : Hdr) (p : Nat) (x : Nat × Digest) (s : State), Accepted s h opPublisherRevoke ∧ OnTime s h ∧
      s.nvm.publishers.find? (fun q => q.1 == p) = some x ∧ carries s.images.a p = false ∧ carries s.images.b p = false) ∧
    (∃ (h : Hdr) (s : State), Accepted s h opMeasurementLogRead ∧ OnTime s h) ∧
    (∃ (h : Hdr) (key : Nat) (s : State), Accepted s h opCertRead ∧ OnTime s h ∧ key ≤ 1 ∧ s.trust.isUnsealed = false ∧
      s.trust.stageOne = false) :=
  ⟨⟨h0, 5, serv, (by unfold Accepted; decide +kernel), (by unfold OnTime; decide +kernel), by decide +kernel⟩,
   ⟨h0, 4294967295, 3, serv, (by unfold Accepted; decide +kernel), (by unfold OnTime; decide +kernel), by decide +kernel⟩,
   ⟨h0, 5, (5, 0), serv, (by unfold Accepted; decide +kernel), (by unfold OnTime; decide +kernel), by decide +kernel⟩,
   ⟨h0, serv, (by unfold Accepted; decide +kernel), (by unfold OnTime; decide +kernel)⟩,
   ⟨h0, 1, serv, (by unfold Accepted; decide +kernel), (by unfold OnTime; decide +kernel), by decide +kernel⟩⟩

/-- States and operands that meet the hypotheses of the clauses of KeysAndTheSeal. -/
theorem witness_KeysAndTheSeal :
    (∃ (h : Hdr) (k : Nat) (s : State), Accepted s h opKeyExchangeStart ∧ OnTime s h ∧ k < 2 ^ 18 ∧ Unhindered s h k ∧
      s.trust.isUnsealed = false ∧ (getPartition s (h.func - 1)).isSealed = true ∧ openIn s k (h.func - 1) = true ∧
      ((exchangesIn (advance s h.time) (h.func - 1)).filter (fun e => e.session != k)).length < 16) ∧
    (∃ (h : Hdr) (k : Nat) (r : KxReply) (e : Exchange) (s : State), Accepted s h opKeyExchangeFinish ∧ OnTime s h ∧
      Unhindered s h k ∧ k < 2 ^ 18 ∧ h.dataLen = 1792 ∧ r.magicOk = true ∧ s.trust.isUnsealed = false ∧ (exchangesIn
      (advance s h.time) (h.func - 1)).find? (fun e => e.session == k) = some e ∧ r.session = k ∧ r.kxSeq = e.seq ∧
      r.pointOk = true ∧ r.confirm = kxConfirm e r) ∧
    (∃ (h : Hdr) (g : Package) (s : State), Accepted s h opReprovision ∧ OnTime s h ∧ s.trust.isUnsealed = true ∧ packageOk
      s g = true ∧ g.stage = 1 ∧ g.meshWhole = true) ∧
    (∃ (h : Hdr) (g : Package) (s : State), Accepted s h opReprovision ∧ OnTime s h ∧ s.trust.isUnsealed = true ∧ packageOk
      s g = true ∧ g.stage = 2 ∧ s.trust.stageOne = true ∧ g.leafKeysOk = true) ∧
    (∃ (time : Nat) (s : State), s.board.phase ≠ .rails ∧ s.board.railsUp = true ∧ s.trust.meshArmed = true) :=
  ⟨⟨h1, 4, sealedServ, (by unfold Accepted; decide +kernel), (by unfold OnTime; decide +kernel), by decide +kernel,
     (by unfold Unhindered; decide +kernel), by decide +kernel⟩,
   ⟨{ h1 with dataLen := 1792 }, 4, kx1, exch1,
     { sealedServ with trust := { sealedServ.trust with exchanges := [exch1] } }, (by unfold Accepted; decide +kernel),
     (by unfold OnTime; decide +kernel), (by unfold Unhindered; decide +kernel), by decide +kernel, by decide +kernel,
     by decide +kernel, by decide +kernel, by decide +kernel, by decide +kernel, by decide +kernel, by decide +kernel, rfl⟩,
   ⟨h0, { stage := 1, serial := 0, counter := 1 }, { serv with trust := { serv.trust with isUnsealed := true } },
     (by unfold Accepted; decide +kernel), (by unfold OnTime; decide +kernel), by decide +kernel⟩,
   ⟨h0, { stage := 2, serial := 0, counter := 1 },
     { serv with trust := { serv.trust with isUnsealed := true, stageOne := true } }, (by unfold Accepted; decide +kernel),
     (by unfold OnTime; decide +kernel), by decide +kernel⟩,
   ⟨9,
     { serv with trust := { serv.trust with meshArmed := true }, vellum := { pages := [(32, { isSealed := true })], mem := [(pageBase 32, 7)] } },
     by decide +kernel⟩⟩

/-- States and operands that meet the hypotheses of the clauses of DiagnosticsAnswer. -/
theorem witness_DiagnosticsAnswer :
    (∃ (h : Hdr) (kind : Nat) (unit : Nat) (index : Nat) (count : Nat) (n : Nat) (size : Nat) (s : State), Accepted s h
      opRecordRead ∧ OnTime s h ∧ 1 ≤ count ∧ recordKind kind = some (n, size) ∧ index + count ≤ n ∧ recordUnitOk kind unit
      = true) ∧
    (∃ (h : Hdr) (l : List Threshold) (s : State), Accepted s h opThresholdSet ∧ OnTime s h ∧ l ≠ [] ∧ l.length ≤ 1024 ∧
      l.all thresholdOk = true ∧ l.Pairwise (fun a b => a.tensor ≠ b.tensor)) ∧
    (∃ (h : Hdr) (first : Nat) (count : Nat) (s : State), Accepted s h opBlotterRead ∧ OnTime s h ∧ 1 ≤ count) ∧
    (∃ (h : Hdr) (unit : Nat) (space : Nat) (a : Nat) (x : TensorIn) (s : State) (c : Counts), Accepted s h opTensorUpload
      ∧ OnTime s h ∧ uploadOk unit space a { x with count := uploadCount x } (uploadRows { x with count := uploadCount x })
      = true ∧ unitFits (spaceOf space) unit = true ∧ inService s = false ∧ c = (convertTensor
      { x with count := uploadCount x }).2.2) ∧
    (∃ (h : Hdr) (half : Nat) (unit : Nat) (l : List (BitVec 128)) (s : State), Accepted s h opStrokeLoad ∧ OnTime s h ∧
      half < 2 ∧ isTile unit = true ∧ l.length ≤ strokesOf unit / 2 ∧ inService s = false) ∧
    (∃ (h : Hdr) (half : Nat) (unit : Nat) (producer : Nat) (forced : Nat) (s : State), Accepted s h opDiagRun ∧ half < 2 ∧
      isCluster unit = true ∧ inService s = false) ∧
    (∃ (h : Hdr) (half : Nat) (unit : Nat) (producer : Nat) (forced : Nat) (s : State), Accepted s h opDiagRun ∧ half < 2 ∧
      isCluster unit = true ∧ inService s = false ∧ OnTime s h ∧ (∀ v ∈ clusterTiles unit, ∀ k, half * (strokesOf v / 2) ≤
      k → k < half * (strokesOf v / 2) + strokesOf v / 2 → ∀ w, (k, w) ∉ (getTile s v).strokes)) :=
  ⟨⟨{ h0 with dataLen := 32 }, 11, 0, 524287, 1, 524288, 16, serv, (by unfold Accepted; decide +kernel),
     (by unfold OnTime; decide +kernel), by decide +kernel⟩,
   ⟨h0, [{ tensor := 1023, satPpm := 16777215 }], serv, (by unfold Accepted; decide +kernel),
     (by unfold OnTime; decide +kernel), by decide +kernel⟩,
   ⟨h0, 0, 1, serv, (by unfold Accepted; decide +kernel), (by unfold OnTime; decide +kernel), by decide +kernel⟩,
   ⟨h0, 0, 0, 64, { tensor := 1023, src := .fp32, target := .bf16, count := 0, bytes := List.replicate 64 0 }, serv,
     (convertTensor { tensor := 1023, src := .fp32, target := .bf16, count := 16, bytes := List.replicate 64 0 }).2.2,
     (by unfold Accepted; decide +kernel), (by unfold OnTime; decide +kernel), by decide +kernel⟩,
   ⟨h0, 1, 0, [5], serv, (by unfold Accepted; decide +kernel), (by unfold OnTime; decide +kernel), by decide +kernel⟩,
   ⟨h0, 1, 0, 16, 2, serv, (by unfold Accepted; decide +kernel), by decide +kernel⟩,
   ⟨h0, 1, 0, 16, 2, serv, (by unfold Accepted; decide +kernel), by decide +kernel, by decide +kernel, by decide +kernel,
     (by unfold OnTime; decide +kernel), fun _ _ _ _ _ _ h => nomatch h⟩⟩

/-- States and operands that meet the hypotheses of the clauses of ReportsReachTheBlotter. -/
theorem witness_ReportsReachTheBlotter :
    (∃ (time : Nat) (r : Report) (s : State), governorRuns s = true ∧ (codeClasses r.code).contains r.cls = true ∧ r.cls ≠
      6 ∧ intakeHeld s.blotter (max s.now time) < 768 ∧ s.blotter.coalescing = false) ∧
    (∃ (time : Nat) (r : Report) (s : State), governorRuns s = true ∧ (codeClasses r.code).contains r.cls = true ∧ r.cls =
      6 ∧ s.blotter.reserve.any (fun k => k.report.source == r.source && k.report.code == r.code) = false ∧
      s.blotter.reserve.length < 63) ∧
    (∃ (time : Nat) (s : State), s.blotter.coalescing = true) ∧
    (∃ (time : Nat) (slot : Nat) (s : State), slot < 2 ∧ isLoading (getSlot s slot) = true) ∧
    (∃ (time : Nat) (func : Nat) (qp : Nat) (s : State), (getQueue s func qp).active = true ∧ (getQueue s func qp).enable =
      true ∧ (getQueue s func qp).stopped = false ∧ (getQueue s func qp).sqHead ≠ (getQueue s func qp).sqTail) ∧
    (∃ (time : Nat) (k : Nat) (l : Nat) (p : Nat) (slot : Nat) (rest : List (Nat × Nat)) (more : List Nat) (s : State),
      (getSession s k).pages = (l, p) :: rest ∧ (getSession s k).outbound = slot :: more ∧ (getPage s p).state = .outbound) :=
  ⟨⟨9, { code := 0x0103, cls := 2 }, serv, by decide +kernel⟩,
   ⟨9, { code := 0x0208, cls := 6 }, serv, by decide +kernel⟩,
   ⟨9, { serv with blotter := { keys := [entry1], coalescing := true } }, by decide +kernel⟩,
   ⟨9, 1, withImages (fun x => { x with b := { state := .loading, head := some head1 } }), by decide +kernel⟩,
   ⟨9, 0, 0, withPair0 { pair1 with sqTail := 1 }, by decide +kernel⟩,
   ⟨9, 4, 0, 33, 0, [], [], parking, by decide +kernel⟩⟩

/-- States and operands that meet the hypotheses of the clauses of LinkResetsAndFunctions. -/
theorem witness_LinkResetsAndFunctions :
    (∃ (time : Nat) (s : State), portUp s = true) ∧
    (∃ (time : Nat) (s : State), portUp s = true ∧ s.board.perstHigh = true ∧ s.link.up = false) ∧
    (∃ (time : Nat) (w : Nat) (r : Nat) (s : State), s.link.up = true ∧ trainable s w r = true) ∧
    (∃ (time : Nat) (f : Nat) (s : State), f ≠ 0 ∧ reachable s f = true) ∧
    (∃ (time : Nat) (s : State), s.link.up = true) ∧
    (∃ (n : Nat) (s : State), s.link.up = true ∧ s.link.vfEnable = false ∧ n ≤ 16) ∧
    (∃ (time : Nat) (f : Nat) (s : State), reachable s f = true) :=
  ⟨⟨9, { serv with link := {}, board := { serv.board with perstHigh := false } }, by decide +kernel⟩,
   ⟨9, { serv with link := {} }, by decide +kernel⟩,
   ⟨9, 1, 6, serv, by decide +kernel⟩,
   ⟨9, 16, withFn 16 { tokenReg := 5, tdi := .run }, by decide +kernel⟩,
   ⟨9, withFn 0 { tokenReg := 5 }, by decide +kernel⟩,
   ⟨16, { serv with link := { up := true } }, by decide +kernel⟩,
   ⟨9, 16, serv, by decide +kernel⟩⟩

/-- States and operands that meet the hypotheses of the clauses of PtmLocksAndLapses. -/
theorem witness_PtmLocksAndLapses :
    (∃ (time : Nat) (s : State), s.link.up = true ∧ s.link.ptm.enabled = false) ∧
    (∃ (time : Nat) (off : Int) (s : State), s.link.ptm.enabled = true) ∧
    (∃ (time : Nat) (s : State), s.link.ptm.enabled = true ∧ s.link.ptm.lapsed = false ∧ s.link.ptm.lastGood + 100000000 ≤
      max s.now time) :=
  ⟨⟨9, serv, by decide +kernel⟩,
   ⟨9, -10000,
     { serv with link := { serv.link with ptm := { enabled := true, agree := 2, lastOffset := -9800, priorOffset := -9900 } } },
     by decide +kernel⟩,
   ⟨100000000, { serv with link := { serv.link with ptm := { enabled := true, lock := true } } }, by decide +kernel⟩⟩

/-- States and operands that meet the hypotheses of the clauses of StreamsAndInterfaces. -/
theorem witness_StreamsAndInterfaces :
    (∃ (stream : Nat) (s : State), s.link.up = true ∧ stream = 0) ∧
    (∃ (stream : Nat) (s : State) (f : Nat), s.link.up = true ∧ stream = f + 1 ∧ f ≤ 16) ∧
    (∃ (time : Nat) (s : State), (getFn s 0).ideSecure = true) ∧
    (∃ (time : Nat) (s : State) (f : Nat), f ≠ 0 ∧ (getFn s f).ideSecure = true) ∧
    (∃ (f : Nat) (place : Nat) (s : State), f ≠ 0 ∧ reachable s f = true ∧ (getFn s f).tdi = .unlocked) ∧
    (∃ (f : Nat) (place : Nat) (s : State), f ≠ 0 ∧ reachable s f = true ∧ (getFn s f).tdi = .locked) ∧
    (∃ (f : Nat) (place : Nat) (s : State), f ≠ 0 ∧ reachable s f = true ∧ s.serving.clears.contains (.partition (f - 1)) =
      false) :=
  ⟨⟨0, serv, by decide +kernel⟩,
   ⟨17, serv, 16, by decide +kernel⟩,
   ⟨9, withFn 0 { ideSecure := true }, by decide +kernel⟩,
   ⟨9, withFn 16 { ideSecure := true, tdi := .run }, 16, by decide +kernel⟩,
   ⟨16, 9, serv, by decide +kernel⟩,
   ⟨16, 9, withFn 16 { tdi := .locked }, by decide +kernel⟩,
   ⟨16, 9, withFn 16 { tdi := .run }, by decide +kernel⟩⟩

/-- States and operands that meet the hypotheses of the clauses of DoorbellsMoveTheRings. -/
theorem witness_DoorbellsMoveTheRings :
    (∃ (time : Nat) (f : Nat) (qp : Nat) (v : Nat) (s : State), doorbellOk s f qp = true ∧ (getQueue s f qp).enable = true
      ∧ v % 65536 < 2 ^ (getQueue s f qp).sqLog2 ∧ ringDist (2 ^ (getQueue s f qp).sqLog2) (getQueue s f qp).sqHead
      (getQueue s f qp).sqTail + ringDist (2 ^ (getQueue s f qp).sqLog2) (getQueue s f qp).sqTail (v % 65536) ≤ 2 ^
      (getQueue s f qp).sqLog2 - 1) ∧
    (∃ (time : Nat) (f : Nat) (qp : Nat) (v : Nat) (s : State), doorbellOk s f qp = true ∧ (getQueue s f qp).enable = true
      ∧ 2 ^ (getQueue s f qp).sqLog2 ≤ v % 65536) ∧
    (∃ (time : Nat) (f : Nat) (qp : Nat) (v : Nat) (s : State), doorbellOk s f qp = true ∧ v % 65536 < 2 ^ (getQueue s f
      qp).cqLog2 ∧ ringDist (2 ^ (getQueue s f qp).cqLog2) (getQueue s f qp).cqHead (v % 65536) ≤ ringDist (2 ^ (getQueue s
      f qp).cqLog2) (getQueue s f qp).cqHead (getQueue s f qp).cqIndex) ∧
    (∃ (time : Nat) (f : Nat) (qp : Nat) (v : Nat) (s : State), doorbellOk s f qp = true ∧ f ≠ 0 ∧ v % 1048576 < 2 ^
      (getQueue s f qp).tsLog2 ∧ ringDist (2 ^ (getQueue s f qp).tsLog2) (getQueue s f qp).tsHead (v % 1048576) ≤ ringDist
      (2 ^ (getQueue s f qp).tsLog2) (getQueue s f qp).tsHead (getQueue s f qp).tsIndex) ∧
    (∃ (time : Nat) (f : Nat) (qp : Nat) (b : Binding) (s : State), reachable s f = true ∧ (getQueue s f qp).active = false
      ∧ (getQueue s f qp).enable = false ∧ (getQueue s f qp).resume = false ∧ sizesOk f (getQueue s f qp) = true ∧ tget {}
      s.mailbox.bindings f = b ∧ (if b.waiting then (getFn s f).tokenReg = b.token else b.bound = true ∨ (getFn s
      f).tokenReg = 0)) ∧
    (∃ (time : Nat) (f : Nat) (qp : Nat) (s : State), reachable s f = true ∧ (getQueue s f qp).enable = true ∧ (∀ kv ∈
      s.serving.sessions, ∀ u, kv.2.turn = some u → ¬ (u.func = f ∧ u.qp = qp))) ∧
    (∃ (time : Nat) (f : Nat) (qp : Nat) (s : State), (getQueue s f qp).active = true ∧ (getQueue s f qp).enable = false ∧
      ((∀ x ∈ s.mailbox.fetched, ¬ (x.func = f ∧ x.qp % 8 = qp)) ∨ (f ≠ 0 ∧ (getQueue s f qp).disabledAt + 50000000 ≤ max
      s.now time))) :=
  ⟨⟨9, 1, 0, 63, serv, by decide +kernel⟩,
   ⟨9, 0, 0, 64, serv, by decide +kernel⟩,
   ⟨9, 0, 0, 1, withPair0
     { pair1 with enable := false, cqIndex := 1, cq := [{ cid := 7, sqHead := 0, status := 0, phase := true, time := 0 }], heldCq := [{ cid := 8, sqHead := 0, status := 0, phase := true, time := 0 }] },
     by decide +kernel⟩,
   ⟨9, 1, 0, 1, withPair8 { pair1 with tsIndex := 1, ts := [.rcd (.token 0 4 0 65 false false) true 1] },
     by decide +kernel⟩,
   ⟨9, 1, 7, { bound := true, token := 6 },
     { serv with mailbox := { queues := [(15, { sqLog2 := 4, cqLog2 := 16, tsLog2 := 8, tsVecBase := 9, tsVecCount := 32 })], bindings := [(1, { bound := true, token := 6 })] } },
     by decide +kernel⟩,
   ⟨9, 1, 0, withPair8 { pair1 with heldCq := [{ cid := 8, sqHead := 0, status := 0, phase := true, time := 0 }] },
     by decide +kernel, by decide +kernel, fun _ h => nomatch h⟩,
   ⟨9, 1, 0, withPair8 { pair1 with enable := false, stopped := true }, by decide +kernel⟩⟩

/-- States and operands that meet the hypotheses of the clauses of RegistersAndTheWindow. -/
theorem witness_RegistersAndTheWindow :
    (∃ (time : Nat) (bits : Nat) (s : State), reachable s 0 = true) ∧
    (∃ (time : Nat) (v : Bool) (s : State), reachable s 0 = true) ∧
    (∃ (time : Nat) (f : Nat) (o : Nat) (size : Nat) (s : State), reachable s f = true ∧ (size = 4 ∨ size = 8) ∧ o % size =
      0) ∧
    (∃ (time : Nat) (f : Nat) (o : Nat) (size : Nat) (s : State), reachable s f = true ∧ (¬ ((size = 4 ∨ size = 8) ∧ o %
      size = 0))) ∧
    (∃ (time : Nat) (f : Nat) (offset : Nat) (v : Nat) (c : HostSet) (w : Wide) (s : State), reachable s f = true ∧ offset
      % 8 = 0 ∧ (f = 0 ∨ (getFn s f).barPlace = c.place ∨ ((getFn s f).tdi ≠ .locked ∧ (getFn s f).tdi ≠ .run)) ∧ wideAt f
      offset = some w ∧ blockedWide s f w = false ∧ v < 2 ^ 64) ∧
    (∃ (time : Nat) (qp : Nat) (f : Nat) (v : Nat) (c : HostSet) (s : State), reachable s f = true ∧ f ≠ 0 ∧ qp < 8 ∧
      (getQueue s f qp).enable = false ∧ ((getFn s f).barPlace = c.place ∨ ((getFn s f).tdi ≠ .locked ∧ (getFn s f).tdi ≠
      .run))) ∧
    (∃ (time : Nat) (f : Nat) (offset : Nat) (size : Nat) (v : Nat) (c : HostSet) (s : State), reachable s f = true ∧ f ≠ 0
      ∧ (getFn s f).barPlace ≠ c.place ∧ ((getFn s f).tdi = .locked ∨ (getFn s f).tdi = .run)) ∧
    (∃ (peer : Nat) (v : Nat) (n : Nat) (f : FolioHead) (s : State), s.images.exported.slot = some n ∧ (getSlot s n).head =
      some f ∧ s.images.exported.peer = peer ∧ v < fileBanks f) ∧
    (∃ (time : Nat) (peer : Nat) (offset : Nat) (s : State), controlFrame ≤ offset) ∧
    (∃ (time : Nat) (peer : Nat) (offset : Nat) (s : State) (n : Nat) (f : FolioHead), offset < controlFrame ∧
      s.images.exported.slot = some n ∧ (getSlot s n).head = some f ∧ s.images.exported.peer = peer ∧ fileMissing s n f
      ((s.images.exported.bank * 16383 + offset / 4194304) * 4194304 + offset % 4194304) = false) :=
  ⟨⟨9, 31,
     { serv with link := { serv.link with eventCause := 7 }, blotter := { warnings := [{ cause := 1, unit := 0 }, { cause := 2, unit := 0, ended := true }] } },
     by decide +kernel⟩,
   ⟨9, false, withImages (fun x => { x with exported := { slot := some 1, count := 3 } }), by decide +kernel⟩,
   ⟨9, 16, 8, 8, serv, by decide +kernel⟩,
   ⟨9, 16, 4, 8, serv, by decide +kernel⟩,
   ⟨9, 1, 0x2C0, 18446744073709551615, { place := 5 }, .sqBase 7, serv, by decide +kernel⟩,
   ⟨9, 7, 1, 0xFFFFFF, { place := 0 }, withFn 1 { tdi := .run }, by decide +kernel⟩,
   ⟨9, 16, 2, 3, 5, { place := 1 }, withFn 16 { tdi := .locked }, by decide +kernel⟩,
   ⟨77, 1, 0, { head1 with chunkCount := 16383 }, withImages (fun x =>
     { x with a := { slot1 .active with head := some { head1 with chunkCount := 16383 } }, exported := { slot := some 0, peer := 77 } }),
     by decide +kernel⟩,
   ⟨9, 5, controlFrame, serv, by decide +kernel⟩,
   ⟨9, 77, 8388607, withImages (fun x => { x with a := slot1 .active, exported := { slot := some 0, peer := 77 } }), 0,
     head1, by decide +kernel⟩⟩

/-- States and operands that meet the hypotheses of the clauses of FetchesTimeoutsAndRecords. -/
theorem witness_FetchesTimeoutsAndRecords :
    (∃ (time : Nat) (f : Nat) (qp : Nat) (d : List Byte) (s : State), (getQueue s f qp).active = true ∧ (getQueue s f
      qp).enable = true ∧ (getQueue s f qp).stopped = false ∧ s.link.up = true ∧ (f = 0 ∨ isDeep s.power.state = false) ∧
      (getFn s f).d3hot = false ∧ sealedBlocked s f = false ∧ (getQueue s f qp).sqHead ≠ (getQueue s f qp).sqTail ∧
      fetchWindow s f qp = true ∧ headerStatus s f qp d = none) ∧
    (∃ (time : Nat) (f : Nat) (qp : Nat) (cid : Nat) (x : Fetched) (s : State), s.mailbox.fetched.find? (fun x => x.func ==
      f && x.qp == qp && x.cid == cid) = some x ∧ x.deadline ≠ 0 ∧ x.deadline ≤ max s.now time ∧ x.started = false ∧ OnTime
      s { time := time, func := f, qp := qp, cid := cid }) ∧
    (∃ (time : Nat) (f : Nat) (qp : Nat) (cid : Nat) (x : Fetched) (s : State), s.mailbox.fetched.find? (fun x => x.func ==
      f && x.qp == qp && x.cid == cid) = some x ∧ x.deadline ≠ 0 ∧ x.deadline ≤ max s.now time ∧ x.started = false) ∧
    (∃ (time : Nat) (f : Nat) (e : Event) (s : State), eventRoom s f e.qp = true ∧ tget [] s.mailbox.backlog f = [e] ∧ tget
      0 s.mailbox.overflow f = 0) ∧
    (∃ (time : Nat) (f : Nat) (v : Nat) (c : MsixCtl) (s : State), c.enable = false) ∧
    (∃ (time : Nat) (f : Nat) (v : Nat) (c : MsixCtl) (s : State), c.enable = true ∧ ((getFn s f).msixWanted.contains v =
      true ∨ (getFn s f).msixPending.contains v = true) ∧ (c.maskAll = true ∨ msixMasked (getFn s f) v = true)) ∧
    (∃ (time : Nat) (f : Nat) (v : Nat) (c : MsixCtl) (s : State), c.enable = true ∧ ((getFn s f).msixWanted.contains v =
      true ∨ (getFn s f).msixPending.contains v = true) ∧ c.maskAll = false ∧ msixMasked (getFn s f) v = false ∧ tget 0
      (getFn s f).msixSentAt v ≤ max s.now time) ∧
    (∃ (time : Nat) (k : Nat) (u : Turn) (d : Due) (rest : List Due) (s : State), (getSession s k).turn = some u ∧ u.due =
      d :: rest ∧ u.lateStop = false ∧ u.stopAfter = none ∧ submitHeld s k = false ∧ (∀ r, d ≠ .fin r) ∧ (getQueue s u.func
      u.qp).active = true ∧ (getQueue s u.func u.qp).enable = true ∧ (getQueue s u.func u.qp).holding = [] ∧ tsFits
      (getQueue s u.func u.qp) (dueUnits d) = true) ∧
    (∃ (time : Nat) (f : Nat) (qp : Nat) (k : Nat) (d : Due) (u : Turn) (s : State), (getQueue s f qp).holding = [(k, d)] ∧
      (getQueue s f qp).active = true ∧ (getQueue s f qp).enable = true ∧ tsFits (getQueue s f qp) (dueUnits d) = true ∧
      (getSession s k).turn = some u ∧ (∀ r, d ≠ .fin r) ∧ (∀ j w, (getSession s j).turn = some w → w.lateStop = false ∧
      w.stopAfter = none ∧ w.ending = none)) ∧
    (∃ (time : Nat) (f : Nat) (d : Nat) (s : State), (tget ({} : Binding) s.mailbox.bindings f).dropAt = some d ∧ (tget ({}
      : Binding) s.mailbox.bindings f).waiting = true ∧ d ≤ max s.now time) :=
  ⟨⟨9, 0, 0, desc1, withPair0 { pair1 with sqTail := 1 }, by decide +kernel⟩,
   ⟨5, 0, 0, 7, fetched1, { serv with mailbox := { serv.mailbox with fetched := [fetched1] } }, by decide +kernel,
     by decide +kernel, by decide +kernel, by decide +kernel, (by unfold OnTime; decide +kernel)⟩,
   ⟨5, 0, 0, 7, fetched1, { serv with mailbox := { serv.mailbox with fetched := [fetched1] } }, by decide +kernel⟩,
   ⟨9, 0, { code := 1 }, { serv with mailbox := { serv.mailbox with backlog := [(0, [{ code := 1 }])] } },
     by decide +kernel⟩,
   ⟨9, 1, 3, { enable := false, maskAll := true }, withFn 1 { msixWanted := [3] }, by decide +kernel⟩,
   ⟨9, 1, 3, { enable := true, maskAll := false }, withFn 1 { msixWanted := [3] }, by decide +kernel⟩,
   ⟨1000, 1, 3, { enable := true, maskAll := false }, withFn 1
     { msixPending := [3], msixTable := [(15, 0)], msixSentAt := [(3, 1000)] }, by decide +kernel⟩,
   ⟨9, 4, turn1, .token 0 false, [], withSession { sess1 with state := .turn, turn := some turn1 } act, by decide +kernel,
     by decide +kernel, by decide +kernel, by decide +kernel, by decide +kernel, nofun, by decide +kernel⟩,
   ⟨9, 1, 0, 4, .token 0 false, turn1, withSession { sess1 with state := .turn, turn := some turn1 }
     { act with mailbox := { queues := [(8, { pair1 with holding := [(4, .token 0 false)] })] } }, by decide +kernel,
     by decide +kernel, by decide +kernel, by decide +kernel, by decide +kernel, nofun,
     (by intro j w h; by_cases hj : j = 4; { subst hj; cases h; exact ⟨rfl, rfl, rfl⟩ }; { exfalso; revert h; simp [getSession, withSession, withServing, tget, hj, Ne.symm hj] })⟩,
   ⟨5, 1, 5,
     { serv with mailbox := { serv.mailbox with bindings := [(1, { bound := true, waiting := true, dropAt := some 5 })] } },
     by decide +kernel⟩⟩

/-- States and operands that meet the hypotheses of the clauses of SidebandTalks. -/
theorem witness_SidebandTalks :
    (∃ (doe : Bool) (sig : Bool) (ask : SpdmAsk) (s : State), endpointRuns s = true ∧ (doe = true → s.link.up = true)) ∧
    (∃ (e : Nat) (s : State), (endpointRuns s = true ∨ s.board.phase = .recoveryHold) ∧ 1 ≤ e ∧ e ≤ 254) ∧
    (∃ (r : Nat) (s : State), endpointRuns s = true) ∧
    (∃ (time : Nat) (s : State), endpointRuns s = true) ∧
    (∃ (time : Nat) (e : Entry) (rest : List Entry) (s : State), endpointRuns s = true ∧ s.mgmt.toSend = e :: rest ∧
      s.mgmt.receiver = none) ∧
    (∃ (time : Nat) (e : Entry) (rest : List Entry) (s : State), endpointRuns s = true ∧ s.mgmt.toSend = e :: rest ∧
      s.mgmt.receiver.isSome = true ∧ (rollSecond s.mgmt (max s.now time)).inSecond < 100) ∧
    (∃ (time : Nat) (g : FwImage) (s : State), imageOk s g = true ∧ governorRuns s = true ∧ s.fw.staging = none ∧
      s.fw.handover = false ∧ s.fw.pldm = false) ∧
    (∃ (time : Nat) (s : State), s.board.smbAlert = true) :=
  ⟨⟨true, true, .measurements, serv, by decide +kernel⟩,
   ⟨254, serv, by decide +kernel⟩,
   ⟨5, serv, by decide +kernel⟩,
   ⟨9, { serv with mgmt := { serv.mgmt with poll := [entry1] } }, by decide +kernel⟩,
   ⟨9, entry1, [], { serv with mgmt := { serv.mgmt with toSend := [entry1] } }, by decide +kernel⟩,
   ⟨9, entry1, [],
     { serv with mgmt := { serv.mgmt with toSend := [entry1], receiver := some 1, secondAt := 9, inSecond := 99 } },
     by decide +kernel⟩,
   ⟨9, fw1, serv, by decide +kernel⟩,
   ⟨9, { serv with board := { serv.board with smbAlert := true } }, by decide +kernel⟩⟩

/-- States and operands that meet the hypotheses of the clauses of StartBegins. -/
theorem witness_StartBegins :
    (∃ (time : Nat) (va : Nat) (vb : Nat) (s : State), s.board.modEn = false) ∧
    (∃ (time : Nat) (f : Nat) (s : State), s.board.fellAt = some f ∧ s.board.phase = .discharge ∧ f + 1000000000 ≤ max
      s.now time) ∧
    (∃ (time : Nat) (also : SameSample) (s : State), s.board.modEn = true) ∧
    (∃ (time : Nat) (a : Nat) (b : Nat) (c : Nat) (s : State), s.board.phase = .straps ∧ a = b ∧ b = c) ∧
    (∃ (time : Nat) (a : Nat) (b : Nat) (c : Nat) (s : State), s.board.phase = .straps ∧ ¬ (a = b ∧ b = c)) ∧
    (∃ (time : Nat) (also : SameSample) (s : State), (s.board.phase = .serving ∨ s.board.phase = .resetting ∨ s.board.phase
      = .partialShutdown)) ∧
    (∃ (time : Nat) (also : SameSample) (s : State), (s.board.phase = .rails ∨ s.board.phase = .booted ∨ s.board.phase =
      .tested)) ∧
    (∃ (time : Nat) (k : Nat) (v : Nat) (s : State), k < 2 ∧ 4800 ≤ v ∧ v ≤ 5800) ∧
    (∃ (time : Nat) (k : Nat) (v : Nat) (also : SameSample) (s : State), k < 2 ∧ (getFeed s k).inUse = true ∧ (v < 4600 ∨
      6000 < v) ∧ s.board.modEn = true ∧ also.bothFeeds = false ∧ (getFeed s (1 - k)).inUse = true) ∧
    (∃ (time : Nat) (k : Nat) (v : Nat) (also : SameSample) (s : State), k < 2 ∧ (getFeed s k).inUse = true ∧ (v < 4600 ∨
      6000 < v) ∧ s.board.modEn = true ∧ (getFeed s (1 - k)).inUse = false) ∧
    (∃ (time : Nat) (k : Nat) (v : Nat) (s : State), k < 2 ∧ (getFeed s k).inUse = true ∧ 4600 ≤ v ∧ v < 4800) ∧
    (∃ (time : Nat) (s : State), s.board.phase = .waiting ∧ feedOn s = false ∧ s.board.feedWaited = false ∧ s.board.roseAt
      + 10000000000 ≤ max s.now time) :=
  ⟨⟨9, 5000, 0, { State.reset with board := { State.reset.board with fellAt := some 0 } }, by decide +kernel⟩,
   ⟨1000000000, 0, inPhase .discharge (fun b => { b with fellAt := some 0 }), by decide +kernel⟩,
   ⟨9, {}, serv, by decide +kernel⟩,
   ⟨9, 3, 3, 3, inPhase .straps (fun b => b), by decide +kernel⟩,
   ⟨9, 1, 2, 1, inPhase .straps (fun b => b), by decide +kernel⟩,
   ⟨9, { thermal := true }, serv, by decide +kernel⟩,
   ⟨9, {}, inPhase .rails (fun b => b), by decide +kernel⟩,
   ⟨9, 1, 5800, inPhase .dark (fun b => b), by decide +kernel⟩,
   ⟨9, 0, 4599, {}, serv, by decide +kernel⟩,
   ⟨9, 0, 6001, {}, inPhase .serving (fun b => { b with feedB := {} }), by decide +kernel⟩,
   ⟨9, 0, 4600, serv, by decide +kernel⟩,
   ⟨10000000000, inPhase .waiting (fun b => { b with feedA := {}, feedB := {} }), by decide +kernel⟩⟩

/-- States and operands that meet the hypotheses of the clauses of StartReachesService. -/
theorem witness_StartReachesService :
    (∃ (time : Nat) (s : State), s.board.phase = .waiting ∧ s.board.flowOk = true ∧ feedOn s = true) ∧
    (∃ (time : Nat) (refclk : Bool) (bad : List (Nat × Nat)) (g : RootIn) (rom : Digest) (p : FlashBank) (r : FlashBank) (s
      : State) (b : FlashBank) (rec : Bool), s.board.phase = .rails ∧ pickBank s p r = some (b, rec)) ∧
    (∃ (time : Nat) (refclk : Bool) (bad : List (Nat × Nat)) (g : RootIn) (rom : Digest) (p : FlashBank) (r : FlashBank) (s
      : State), s.board.phase = .rails ∧ pickBank s p r = none) ∧
    (∃ (time : Nat) (r : SelfTestResult) (s : State), s.board.phase = .booted ∧ refuseCause (applySelfTest (restFailed
      { advance s time with map := { s.map with darkDies := darkAtStart s, badBlocks := r.failedBlocks } }) r) r = 0) ∧
    (∃ (time : Nat) (r : SelfTestResult) (s : State), s.board.phase = .booted ∧ r.failedBlocks ≠ []) ∧
    (∃ (time : Nat) (r : SelfTestResult) (s : State), s.board.phase = .resetting) ∧
    (∃ (time : Nat) (bad : List Nat) (s : State), s.board.phase = .tested ∧ bad.contains sDie = false ∧ channelsDead s sDie
      = false ∧ (∀ c, c < 20 → cartFailed (getCart s c) = true → (getCart s c).powered = false)) ∧
    (∃ (time : Nat) (bad : List Nat) (s : State), s.board.phase = .tested ∧ (bad.contains sDie = true ∨ channelsDead s sDie
      = true)) :=
  ⟨⟨9, inPhase .waiting (fun b => { b with railsUp := false }), by decide +kernel⟩,
   ⟨9, true, [(1, 5)], {}, 0, bank1, bank1,
     { inPhase .rails (fun b => b) with nvm := { serv.nvm with rootCheck := Config.rootCheck (deriveRoot serv.nvm.helper {}) } },
     bank1, false, by decide +kernel⟩,
   ⟨9, false, [], {}, 0, { bank1 with scribe := { fw1 with rsaOk := false } },
     { bank1 with scribe := { fw1 with rsaOk := false } }, inPhase .rails (fun b => b), by decide +kernel⟩,
   ⟨9, { ms := 3 }, inPhase .booted (fun b => b), by decide +kernel⟩,
   ⟨9, { failedBlocks := [1] }, inPhase .booted (fun b => b), by decide +kernel⟩,
   ⟨9, {}, inPhase .resetting (fun b => { b with modReady := false }), by decide +kernel⟩,
   ⟨9, [39],
     { inPhase .tested (fun b => { b with modReady := false }) with nvm := { serv.nvm with layout := some { kvPages := 32768 }, remaps := [(0, [100])] } },
     by decide +kernel⟩,
   ⟨9, [16], inPhase .tested (fun b => { b with modReady := false }), by decide +kernel⟩⟩

/-- States and operands that meet the hypotheses of the clauses of VellumUnitsAreReadAndRepaired. -/
theorem witness_VellumUnitsAreReadAndRepaired :
    (∃ (d : Nat) (ch : Nat) (bank : Nat) (n : Nat) (s : State), siteServes s d = true ∧ ch < 16) ∧
    (∃ (time : Nat) (d : Nat) (u : Nat) (copyHeld : Bool) (s : State), siteServes s d = true ∧ s.power.state ≠ .vellumOnly
      ∧ u = (getSite s d).scrubUnit ∧ u < siteUnits) ∧
    (∃ (time : Nat) (bits : Nat) (r : VellumRef) (s : State), siteServes s (holdingSite s r.site r.unit) = true ∧ r.unit <
      siteUnits ∧ unselectedRead s r = false ∧ readAllowed s r = true) ∧
    (∃ (time : Nat) (bits : Nat) (r : VellumRef) (s : State), siteServes s (holdingSite s r.site r.unit) = true ∧ r.unit <
      siteUnits ∧ unselectedRead s r = false ∧ readAllowed s r = true ∧ channelFailed s (holding s r.site r.unit).1
      (holding s r.site r.unit).2 ≤ 1) ∧
    (∃ (time : Nat) (bits : Nat) (r : VellumRef) (s : State), siteServes s (holdingSite s r.site r.unit) = true ∧ r.unit <
      siteUnits ∧ unselectedRead s r = false ∧ readAllowed s r = false) ∧
    (∃ (d : Nat) (u : Nat) (s : State), siteServes s d = true ∧ (getSite s d).writeBacks.contains u = true) ∧
    (∃ (time : Nat) (d : Nat) (g : Nat) (s : State), siteServes s d = true ∧ (getSite s d).copying.contains g = true ∧
      (tget [] s.nvm.remaps d).contains g = false ∧ (tget [] s.nvm.remaps d).length < 512) :=
  ⟨⟨39, 0, 0, 5, serv, by decide +kernel⟩,
   ⟨9, 39, 805306367, true, withSite 39 { scrubUnit := 805306367 }, by decide +kernel⟩,
   ⟨9, 3, { site := 39, unit := 805306367, region := .cold, reader := some 0 }, serv, by decide +kernel⟩,
   ⟨9, 3, { site := 39, unit := 805306367, region := .cold, reader := some 0 }, serv, by decide +kernel⟩,
   ⟨9, 3, { site := 1, unit := 5, region := .kv, page := some 33, tenant := 8, session := 4, reader := some 0 }, parking,
     by decide +kernel⟩,
   ⟨39, 7, withSite 39 { writeBacks := [7] }, by decide +kernel⟩,
   ⟨9, 39, 24575, withSite 39 { copying := [24575] }, by decide +kernel⟩⟩

/-- States and operands that meet the hypotheses of the clauses of TransfersArriveAndLinksFail. -/
theorem witness_TransfersArriveAndLinksFail :
    (∃ (consumer : Nat) (crossing : Nat) (n : Nat) (x : Transfer) (rest : List Transfer) (s : State), takeFirst (fun (t :
      Transfer) => t.consumer == consumer && t.crossing == crossing) s.fabric.inFlight = some (x, rest) ∧ isSite consumer =
      false ∧ x.consumer = consumer ∧ x.node = none ∧ (getIsland s (clusterOf consumer)).fenced = false ∧ (getIsland s
      (clusterOf consumer)).gate = none ∧ (frameRoom s (clusterOf consumer) x.step = true ∨ x.writeAt.isSome = true)) ∧
    (∃ (consumer : Nat) (crossing : Nat) (n : Nat) (x : Transfer) (rest : List Transfer) (s : State), takeFirst (fun (t :
      Transfer) => t.consumer == consumer && t.crossing == crossing) s.fabric.inFlight = some (x, rest) ∧ (getIsland s
      (clusterOf consumer)).fenced = true) ∧
    (∃ (producer : Nat) (crossing : Nat) (n : Nat) (s : State), (getIsland s (clusterOf producer)).stalled = some crossing
      ∧ (getIsland s (clusterOf producer)).heldPartial = none ∧ (getIsland s (clusterOf producer)).deferred = []) ∧
    (∃ (time : Nat) (consumer : Nat) (producer : Nat) (crossing : Nat) (s : State), watching s consumer crossing = true ∧
      watchdogHeld s consumer = false ∧ (getIsland s (clusterOf producer)).fenced = false) ∧
    (∃ (time : Nat) (consumer : Nat) (producer : Nat) (crossing : Nat) (s : State), watching s consumer crossing = true ∧
      watchdogHeld s consumer = false ∧ takeFirst (fun (x : Transfer) => x.consumer == consumer && x.crossing == crossing)
      s.fabric.inFlight = none) ∧
    (∃ (time : Nat) (die : Nat) (dir : Nat) (sub : Nat) (s : State), (neighbour die dir).isSome = true ∧ sub < 16) ∧
    (∃ (time : Nat) (die : Nat) (dir : Nat) (sub : Nat) (s : State), sub < 16 ∧ (tget ({} : Edge) s.fabric.edges (linkKey
      die dir)).outDue.contains sub = true) ∧
    (∃ (u : Nat) (row : Nat) (w : Window) (rest : List Window) (s : State), takeFirst (fun (x : Window) => x.row == row)
      (getIsland s u).windows = some (w, rest)) :=
  ⟨⟨1, 5, 0, { consumer := 1, crossing := 5, flits := flit1 }, [],
     { serv with fabric := { inFlight := [{ consumer := 1, crossing := 5, flits := flit1 }] } }, by decide +kernel⟩,
   ⟨1, 5, 0, { consumer := 1, crossing := 5, flits := flit1 }, [],
     { withIsland 0 { fenced := true } with fabric := { islands := [(0, { fenced := true })], inFlight := [{ consumer := 1, crossing := 5, flits := flit1 }] } },
     by decide +kernel⟩,
   ⟨1, 5, 7, withIsland 0 { stalled := some 5 }, by decide +kernel⟩,
   ⟨9, 1, 1024, 5, withIsland 0 { gate := some (.crossing 1 0 5), desc := some wdesc }, by decide +kernel⟩,
   ⟨9, 1, 1024, 5, withIsland 0 { gate := some (.crossing 1 0 5), desc := some wdesc }, by decide +kernel⟩,
   ⟨9, 39, 3, 15, serv, by decide +kernel⟩,
   ⟨9, 0, 1, 15, { serv with fabric := { edges := [(1, { outDue := [15] })] } }, by decide +kernel⟩,
   ⟨0, 5, win1, [win1], withIsland 0 { windows := [win1, win1] }, by decide +kernel⟩⟩

/-- States and operands that meet the hypotheses of the clauses of LigaturesDmaScrubsAndClears. -/
theorem witness_LigaturesDmaScrubsAndClears :
    (∃ (u : Nat) (tag : Nat) (n : Nat) (slot : Nat) (e : LigEntry) (ins : List Flits) (f : Flits) (s : State), nodeEntry s
      u tag = some (slot, e) ∧ nodeInputs (getIsland s u) slot e = some ins ∧ f =
      { combine e ins with nans := nanMet e ins, step := ins.findSome? (·.step) } ∧ (getIsland s u).fenced = false ∧
      clusterOf u = u ∧ clusterOf e.dest = e.dest ∧ e.dest ≠ u ∧ e.final = false ∧ (getIsland s e.dest).fenced = false ∧
      nodeRoom s e.dest { tag := e.tag, input := e.into, flits := f, slot := slot } = true) ∧
    (∃ (u : Nat) (tag : Nat) (n : Nat) (slot : Nat) (e : LigEntry) (ins : List Flits) (f : Flits) (s : State), nodeEntry s
      u tag = some (slot, e) ∧ nodeInputs (getIsland s u) slot e = some ins ∧ f =
      { combine e ins with nans := nanMet e ins, step := ins.findSome? (·.step) } ∧ (getIsland s u).fenced = false ∧
      clusterOf u = u ∧ clusterOf e.dest = e.dest ∧ e.dest ≠ u ∧ e.final = false ∧ (getIsland s e.dest).fenced = true ∧
      nodeRoom s e.dest { tag := e.tag, input := e.into, flits := f, slot := slot } = true) ∧
    (∃ (u : Nat) (tag : Nat) (n : Nat) (slot : Nat) (e : LigEntry) (ins : List Flits) (f : Flits) (s : State), nodeEntry s
      u tag = some (slot, e) ∧ nodeInputs (getIsland s u) slot e = some ins ∧ f =
      { combine e ins with nans := nanMet e ins, step := ins.findSome? (·.step) } ∧ (getIsland s u).fenced = false ∧
      clusterOf u = u ∧ clusterOf e.dest = e.dest ∧ e.dest ≠ u ∧ e.final = false ∧ nodeRoom s e.dest
      { tag := e.tag, input := e.into, flits := f, slot := slot } = false) ∧
    (∃ (time : Nat) (c : Nat) (tile : Nat) (index : Nat) (d : BitVec 256) (rest : List (Nat × BitVec 256)) (l : DmaLoad) (s
      : State), tile < 16 ∧ engineWaits s c tile = false ∧ (getTile s (c + tile)).dmaQueue = (index, d) :: rest ∧
      waitsForChunk s (dmaFields s c d) = false) ∧
    (∃ (time : Nat) (c : Nat) (tile : Nat) (d : BitVec 256) (rest : List (BitVec 256)) (l : DmaLoad) (s : State), 16 ≤ tile
      ∧ engineWaits s c 16 = false ∧ (getIsland s c).scribeDma = d :: rest ∧ waitsForChunk s (dmaFields s c d) = false) ∧
    (∃ (u : Nat) (row : Nat) (n : Nat) (s : State), (getIsland s u).writeBacks.contains row = true) ∧
    (∃ (u : Nat) (row : Nat) (n : Nat) (e : RowEcc) (s : State), rowBad (.slice u (row * 64)) e = false ∧ (eccCorrects e =
      true ∨ 0 < eccWords e)) ∧
    (∃ (time : Nat) (k : Nat) (n : Nat) (s : State) (p : Nat), s.serving.clears[k]? = some (.page p)) ∧
    (∃ (time : Nat) (k : Nat) (n : Nat) (s : State) (u : Nat), s.serving.clears[k]? = some (.scratch u) ∧ (getIsland s
      u).desc = none) ∧
    (∃ (time : Nat) (k : Nat) (n : Nat) (s : State) (i : Nat), s.serving.clears[k]? = some (.slot i)) ∧
    (∃ (time : Nat) (k : Nat) (n : Nat) (s : State) (i : Nat), s.serving.clears[k]? = some (.partition i) ∧ partitionWaits
      s i = false) :=
  ⟨⟨0, 3, 0, 0, lig1, [flit1], { combine lig1 [flit1] with nans := nanMet lig1 [flit1], step := none }, ligState lig1,
     by decide +kernel⟩,
   ⟨0, 3, 0, 0, lig1, [flit1], { combine lig1 [flit1] with nans := nanMet lig1 [flit1], step := none }, fencedLig,
     by decide +kernel⟩,
   ⟨0, 3, 0, 0, lig1, [flit1], { combine lig1 [flit1] with nans := nanMet lig1 [flit1], step := none }, ligState
     { lig1 with alloc := 0 }, by decide +kernel⟩,
   ⟨9, 0, 1, 2, 0, [], {}, { serv with fabric := { tiles := [(1, { dmaQueue := [(2, 0)] })] } }, by decide +kernel⟩,
   ⟨9, 0, 16, 0, [], {}, withIsland 0 { scribeDma := [0] }, by decide +kernel⟩,
   ⟨0, 5, 2, withIsland 0 { writeBacks := [5] }, by decide +kernel⟩,
   ⟨0, 5, 2, { bits := [0] }, serv, by decide +kernel⟩,
   ⟨9, 0, 3,
     { withServing (fun x => { x with clears := [.page 33] }) with vellum := { pages := [(33, { state := .clearing })], mem := [(pageBase 33, 7)] } },
     33, by decide +kernel⟩,
   ⟨9, 0, 3, withServing (fun x => { x with clears := [.scratch 16] }), 16, by decide +kernel⟩,
   ⟨9, 0, 3, withServing (fun x => { x with clears := [.slot 1] }) (withImages (fun x =>
     { x with b := { state := .loading, refuse := 4 } })), 1, by decide +kernel⟩,
   ⟨9, 0, 3,
     { withServing (fun x => { x with clears := [.partition 0] }) with link := { serv.link with fns := [(1, { rrs := true })] } },
     0, by decide +kernel⟩⟩

/-- States and operands that meet the hypotheses of the clauses of StrokesIssueAndControl. -/
theorem witness_StrokesIssueAndControl :
    (∃ (h : StrokeHdr) (s : State) (a : Nat) (b : Nat) (c : Nat) (d : Nat), canIssue s h.tile = false) ∧
    (∃ (h : StrokeHdr) (s0 : State) (s : State) (a : Nat) (b : Nat), canIssue s0 h.tile = true ∧ s = landIsland s0
      (clusterOf h.tile) ∧ predHolds (modTile s h.tile (fun t => { t with cycle := t.cycle + h.delta })) h = false) ∧
    (∃ (h : StrokeHdr) (s0 : State) (s : State), canIssue s0 h.tile = true ∧ s = landIsland s0 (clusterOf h.tile)) ∧
    (∃ (h : StrokeHdr) (s0 : State) (s : State) (u : State) (c : Nat) (n : Nat) (fromDesc : Bool), canIssue s0 h.tile =
      true ∧ s = landIsland s0 (clusterOf h.tile) ∧ u = modTile s h.tile (fun t => { t with cycle := t.cycle + h.delta }) ∧
      predHolds u h = true) ∧
    (∃ (h : StrokeHdr) (s0 : State) (s : State) (u : State) (c : Nat), canIssue s0 h.tile = true ∧ s = landIsland s0
      (clusterOf h.tile) ∧ u = modTile s h.tile (fun t => { t with cycle := t.cycle + h.delta }) ∧ predHolds u h = true) ∧
    (∃ (h : StrokeHdr) (s0 : State) (s : State) (u : State), canIssue s0 h.tile = true ∧ s = landIsland s0 (clusterOf
      h.tile) ∧ u = modTile s h.tile (fun t => { t with cycle := t.cycle + h.delta }) ∧ predHolds u h = true ∧ (getIsland s
      (clusterOf h.tile)).desc.isSome = true) ∧
    (∃ (h : StrokeHdr) (s0 : State) (s : State) (u : State) (d : Desc) (rest : List Desc), canIssue s0 h.tile = true ∧ s =
      landIsland s0 (clusterOf h.tile) ∧ u = modTile s h.tile (fun t => { t with cycle := t.cycle + h.delta }) ∧ predHolds
      u h = true ∧ (getIsland s (clusterOf h.tile)).desc = none ∧ (getIsland s (clusterOf h.tile)).posted = d :: rest ∧
      barred s (clusterOf h.tile) d.step = false) ∧
    (∃ (h : StrokeHdr) (s0 : State) (s : State) (u : State), canIssue s0 h.tile = true ∧ s = landIsland s0 (clusterOf
      h.tile) ∧ u = modTile s h.tile (fun t => { t with cycle := t.cycle + h.delta }) ∧ predHolds u h = true ∧ (getIsland s
      (clusterOf h.tile)).desc = none ∧ (getIsland s (clusterOf h.tile)).posted = []) ∧
    (∃ (h : StrokeHdr) (s0 : State) (s : State) (u : State) (d : Desc) (mj : Nat), canIssue s0 h.tile = true ∧ s =
      landIsland s0 (clusterOf h.tile) ∧ u = modTile s h.tile (fun t => { t with cycle := t.cycle + h.delta }) ∧ predHolds
      u h = true ∧ (getIsland s (clusterOf h.tile)).desc = some d) ∧
    (∃ (h : StrokeHdr) (s0 : State) (s : State) (u : State) (p : Nat) (w : Nat) (b : Nat), canIssue s0 h.tile = true ∧ s =
      landIsland s0 (clusterOf h.tile) ∧ u = modTile s h.tile (fun t => { t with cycle := t.cycle + h.delta }) ∧ predHolds
      u h = true ∧ 1 ≤ p ∧ p ≤ 15) ∧
    (∃ (h : StrokeHdr) (s0 : State) (s : State) (u : State) (w : Nat) (b : Nat), canIssue s0 h.tile = true ∧ s = landIsland
      s0 (clusterOf h.tile) ∧ u = modTile s h.tile (fun t => { t with cycle := t.cycle + h.delta }) ∧ predHolds u h = true) :=
  ⟨⟨hs, serv, 0, 0, 0, 0, by decide +kernel⟩,
   ⟨{ hs with pred := 15 }, run, run, 0, 0, by decide +kernel, rfl, by decide +kernel⟩,
   ⟨hs, run, run, by decide +kernel, rfl⟩,
   ⟨hs, run, run, after run, 0, 65535, false, by decide +kernel, rfl, rfl, by decide +kernel⟩,
   ⟨hs, run, run, after run, 0, by decide +kernel, rfl, rfl, by decide +kernel⟩,
   ⟨hs, runWith { desc := some wdesc }, runWith { desc := some wdesc }, after (runWith { desc := some wdesc }),
     by decide +kernel, rfl, rfl, by decide +kernel⟩,
   ⟨hs, runWith { posted := [wdesc] }, runWith { posted := [wdesc] }, after (runWith { posted := [wdesc] }), wdesc, [],
     by decide +kernel, rfl, rfl, by decide +kernel⟩,
   ⟨hs, run, run, after run, by decide +kernel, rfl, rfl, by decide +kernel⟩,
   ⟨hs, runWith { desc := some wdesc }, runWith { desc := some wdesc }, after (runWith { desc := some wdesc }), wdesc, 7,
     by decide +kernel, rfl, rfl, by decide +kernel⟩,
   ⟨hs, runWith { desc := some wdesc }, runWith { desc := some wdesc }, after (runWith { desc := some wdesc }), 15, 0, 0,
     by decide +kernel, rfl, rfl, by decide +kernel⟩,
   ⟨hs, run, run, after run, 0, 0, by decide +kernel, rfl, rfl, by decide +kernel⟩⟩

/-- States and operands that meet the hypotheses of the clauses of StrokesCompute. -/
theorem witness_StrokesCompute :
    (∃ (h : StrokeHdr) (s0 : State) (s : State) (u : State) (act : Nat) (acc : Nat), canIssue s0 h.tile = true ∧ s =
      landIsland s0 (clusterOf h.tile) ∧ u = modTile s h.tile (fun t => { t with cycle := t.cycle + h.delta }) ∧ predHolds
      u h = true ∧ entryAt u (clusterOf h.tile) false act = none) ∧
    (∃ (h : StrokeHdr) (s0 : State) (s : State) (u : State) (act : Nat) (acc : Nat) (e : TensorEntry) (r : List ActBlock ×
      State), canIssue s0 h.tile = true ∧ s = landIsland s0 (clusterOf h.tile) ∧ u = modTile s h.tile (fun t =>
      { t with cycle := t.cycle + h.delta }) ∧ predHolds u h = true ∧ entryAt u (clusterOf h.tile) false act = some e ∧ r =
      readActs u h.tile e (blockIndex e.fmt e.elemBase act) (spanOf (latchOf s h.tile 0).sparsity)) ∧
    (∃ (h : StrokeHdr) (s0 : State) (s : State) (u : State) (dst : Nat) (acc : Nat) (scale : Option Fp32) (b : List Byte)
      (m : Bool), canIssue s0 h.tile = true ∧ s = landIsland s0 (clusterOf h.tile) ∧ u = modTile s h.tile (fun t =>
      { t with cycle := t.cycle + h.delta }) ∧ predHolds u h = true ∧ m = (List.range (lanesOf h.tile)).any (fun l => (aget
      s h.tile acc l).tainted) ∧ acc < accCount u h.tile ∧ b = (List.range (lanesOf h.tile)).flatMap (fun l => drainLane
      (inReference u (clusterOf h.tile)) (aget s h.tile acc l) scale)) ∧
    (∃ (h : StrokeHdr) (s0 : State) (s : State) (u : State) (dst : Nat) (acc : Nat) (scale : Option Fp32) (b : List Byte)
      (m : Bool), canIssue s0 h.tile = true ∧ s = landIsland s0 (clusterOf h.tile) ∧ u = modTile s h.tile (fun t =>
      { t with cycle := t.cycle + h.delta }) ∧ predHolds u h = true ∧ m = (List.range (lanesOf h.tile)).any (fun l => (aget
      s h.tile acc l).tainted) ∧ accCount u h.tile ≤ acc ∧ b = (List.range (lanesOf h.tile)).flatMap (fun _ => drainLane
      (inReference u (clusterOf h.tile)) {} scale)) ∧
    (∃ (h : StrokeHdr) (s0 : State) (s : State) (u : State) (dst : Nat) (srcs : List Nat) (code : Nat), canIssue s0 h.tile
      = true ∧ s = landIsland s0 (clusterOf h.tile) ∧ u = modTile s h.tile (fun t => { t with cycle := t.cycle + h.delta })
      ∧ predHolds u h = true) ∧
    (∃ (h : StrokeHdr) (s0 : State) (s : State) (u : State) (dst : Nat) (srcs : List Nat), canIssue s0 h.tile = true ∧ s =
      landIsland s0 (clusterOf h.tile) ∧ u = modTile s h.tile (fun t => { t with cycle := t.cycle + h.delta }) ∧ predHolds
      u h = true) ∧
    (∃ (h : StrokeHdr) (s0 : State) (s : State) (u : State) (dst : Nat) (src : Nat) (fn : XcendFn), canIssue s0 h.tile =
      true ∧ s = landIsland s0 (clusterOf h.tile) ∧ u = modTile s h.tile (fun t => { t with cycle := t.cycle + h.delta }) ∧
      predHolds u h = true) ∧
    (∃ (h : StrokeHdr) (s0 : State) (s : State) (u : State) (dst : Nat) (src : Nat) (opc : BitVec 32) (f : Fmt) (r : List
      Byte × List Byte × Counts) (m : Bool), canIssue s0 h.tile = true ∧ s = landIsland s0 (clusterOf h.tile) ∧ u = modTile
      s h.tile (fun t => { t with cycle := t.cycle + h.delta }) ∧ predHolds u h = true ∧ fmtOf ((BitVec.extractLsb' 19 3
      opc).toNat) = some f ∧ r = narrowRow f (opc.getLsbD 18) ((List.range (16 * blocksPerRow f)).map (vget s h.tile src))
      ∧ m = vtainted s h.tile src (16 * blocksPerRow f)) ∧
    (∃ (h : StrokeHdr) (s0 : State) (s : State) (u : State) (dst : Nat) (src : Nat) (a : Nat) (f : Fmt), canIssue s0 h.tile
      = true ∧ s = landIsland s0 (clusterOf h.tile) ∧ u = modTile s h.tile (fun t => { t with cycle := t.cycle + h.delta })
      ∧ predHolds u h = true) :=
  ⟨⟨hs, run, run, after run, 0, 0, by decide +kernel, rfl, rfl, by decide +kernel⟩,
   ⟨hs, macRun, macRun, after macRun, 0, 0, act1, readActs (after macRun) 1 act1 (blockIndex act1.fmt act1.elemBase 0) 1,
     by decide +kernel, rfl, rfl, by decide +kernel, by decide +kernel, rfl⟩,
   ⟨hs, run, run, after run, 0, 31, none, (List.range 16).flatMap (fun _ => drainLane false {} none), false,
     by decide +kernel, rfl, rfl, by decide +kernel⟩,
   ⟨hs, run, run, after run, 0, 64, none, (List.range 16).flatMap (fun _ => drainLane false {} none), false,
     by decide +kernel, rfl, rfl, by decide +kernel⟩,
   ⟨hs, run, run, after run, 0, [0], 5, by decide +kernel, rfl, rfl, by decide +kernel⟩,
   ⟨hs, run, run, after run, 0, [0], by decide +kernel, rfl, rfl, by decide +kernel⟩,
   ⟨hs, run, run, after run, 1, 0, .exp, by decide +kernel, rfl, rfl, by decide +kernel⟩,
   ⟨hs, run, run, after run, 0, 0, 64, .n4, narrowRow .n4 false (List.replicate 128 0#32), false, by decide +kernel, rfl,
     rfl, by decide +kernel⟩,
   ⟨hs, run, run, after run, 1, 0, 128, .n4, by decide +kernel, rfl, rfl, by decide +kernel⟩⟩

/-- States and operands that meet the hypotheses of the clauses of StrokesMoveRows. -/
theorem witness_StrokesMoveRows :
    (∃ (h : StrokeHdr) (s0 : State) (s : State) (u : State) (reg : Nat) (a : Nat), canIssue s0 h.tile = true ∧ s =
      landIsland s0 (clusterOf h.tile) ∧ u = modTile s h.tile (fun t => { t with cycle := t.cycle + h.delta }) ∧ predHolds
      u h = true) ∧
    (∃ (h : StrokeHdr) (s0 : State) (s : State) (u : State) (dst : Nat) (a : Nat) (unit : Nat) (rows : Nat) (c : Nat)
      (merge : Bool) (full : Bool), canIssue s0 h.tile = true ∧ s = landIsland s0 (clusterOf h.tile) ∧ u = modTile s h.tile
      (fun t => { t with cycle := t.cycle + h.delta }) ∧ predHolds u h = true ∧ isCluster unit = false) ∧
    (∃ (h : StrokeHdr) (s0 : State) (s : State) (u : State) (dst : Nat) (a : Nat) (rows : Nat) (c : Nat) (merge : Bool) (r
      : RowRead), canIssue s0 h.tile = true ∧ s = landIsland s0 (clusterOf h.tile) ∧ u = modTile s h.tile (fun t =>
      { t with cycle := t.cycle + h.delta }) ∧ predHolds u h = true ∧ isCluster (clusterOf h.tile) = true ∧ r = readRows u
      (clusterOf h.tile) (.slice (clusterOf h.tile) a) rows) ∧
    (∃ (h : StrokeHdr) (s0 : State) (s : State) (u : State) (dst : Nat) (a : Nat) (unit : Nat) (rows : Nat) (c : Nat) (r :
      RowRead), canIssue s0 h.tile = true ∧ s = landIsland s0 (clusterOf h.tile) ∧ u = modTile s h.tile (fun t =>
      { t with cycle := t.cycle + h.delta }) ∧ predHolds u h = true ∧ isCluster unit = true ∧ unit ≠ clusterOf h.tile ∧
      (getIsland s unit).fenced = false ∧ r = readRows (routed u (runSlot u (clusterOf h.tile)) (clusterOf h.tile) unit 1)
      (clusterOf h.tile) (.slice unit a) rows) ∧
    (∃ (h : StrokeHdr) (s0 : State) (s : State) (u : State) (dst : Nat) (a : Nat) (unit : Nat) (rows : Nat) (c : Nat)
      (merge : Bool), canIssue s0 h.tile = true ∧ s = landIsland s0 (clusterOf h.tile) ∧ u = modTile s h.tile (fun t =>
      { t with cycle := t.cycle + h.delta }) ∧ predHolds u h = true ∧ isCluster unit = true ∧ unit ≠ clusterOf h.tile ∧
      (getIsland s unit).fenced = true) ∧
    (∃ (h : StrokeHdr) (s0 : State) (s : State) (u : State) (src : Nat) (a : Nat) (rows : Nat) (c : Nat) (full : Bool) (r :
      RowRead), canIssue s0 h.tile = true ∧ s = landIsland s0 (clusterOf h.tile) ∧ u = modTile s h.tile (fun t =>
      { t with cycle := t.cycle + h.delta }) ∧ predHolds u h = true ∧ isCluster (clusterOf h.tile) = true ∧ r = readRows u
      (clusterOf h.tile) (.scratch h.tile src) rows) ∧
    (∃ (h : StrokeHdr) (s0 : State) (s : State) (u : State) (src : Nat) (a : Nat) (unit : Nat) (rows : Nat) (c : Nat) (full
      : Bool) (r : RowRead) (x : Transfer), canIssue s0 h.tile = true ∧ s = landIsland s0 (clusterOf h.tile) ∧ u = modTile
      s h.tile (fun t => { t with cycle := t.cycle + h.delta }) ∧ predHolds u h = true ∧ isCluster unit = true ∧ unit ≠
      clusterOf h.tile ∧ r = readRows u (clusterOf h.tile) (.scratch h.tile src) rows ∧ x =
      ({ consumer := unit, crossing := c, flits := oneFlit r.bytes r.poisoned, writeAt := some a, producer := h.tile, step := sendStep r.state h.tile, path := unitPath r.state (runSlot r.state (clusterOf h.tile)) h.tile unit }
      : Transfer)) :=
  ⟨⟨hs, run, run, after run, 1, 0, by decide +kernel, rfl, rfl, by decide +kernel⟩,
   ⟨hs, run, run, after run, 0, 64, 17, 2, 5, false, true, by decide +kernel, rfl, rfl, by decide +kernel⟩,
   ⟨hs, run, run, after run, 0, 64, 2, 5, false, readRows (after run) 0 (.slice 0 64) 2, by decide +kernel, rfl, rfl,
     by decide +kernel, by decide +kernel, rfl⟩,
   ⟨hs, run, run, after run, 0, 64, 16, 1, 5, readRows (routed (after run) (runSlot (after run) 0) 0 16 1) 0 (.slice 16 64)
     1, by decide +kernel, rfl, rfl, by decide +kernel, by decide +kernel, by decide +kernel, by decide +kernel, rfl⟩,
   ⟨hs, fencedRun, fencedRun, after fencedRun, 0, 64, 16, 1, 5, true, by decide +kernel, rfl, rfl, by decide +kernel⟩,
   ⟨hs, run, run, after run, 0, 64, 2, 5, false, readRows (after run) 0 (.scratch 1 0) 2, by decide +kernel, rfl, rfl,
     by decide +kernel, by decide +kernel, rfl⟩,
   ⟨hs, run, run, after run, 0, 64, 16, 1, 5, true, readRows (after run) 0 (.scratch 1 0) 1,
     { consumer := 16, crossing := 5, flits := oneFlit (readRows (after run) 0 (.scratch 1 0) 1).bytes false, writeAt := some 64, producer := 1 },
     by decide +kernel, rfl, rfl, by decide +kernel, by decide +kernel, by decide +kernel, rfl, (by decide +kernel)⟩⟩

/-- States and operands that meet the hypotheses of the clauses of StrokesCrossTheNetwork. -/
theorem witness_StrokesCrossTheNetwork :
    (∃ (h : StrokeHdr) (s0 : State) (s : State) (u : State) (src : Nat) (unit : Nat) (a : Nat) (rows : Nat) (c : Nat) (full
      : Bool) (r : RowRead) (x : Transfer), canIssue s0 h.tile = true ∧ s = landIsland s0 (clusterOf h.tile) ∧ u = modTile
      s h.tile (fun t => { t with cycle := t.cycle + h.delta }) ∧ predHolds u h = true ∧ sendUnitOk unit = true ∧ r =
      readRows u (clusterOf h.tile) (.scratch h.tile src) rows ∧ x =
      ({ consumer := unit, crossing := c, flits := oneFlit r.bytes r.poisoned, addr := a, producer := h.tile, step := sendStep r.state h.tile, path := unitPath r.state (runSlot r.state (clusterOf h.tile)) h.tile unit }
      : Transfer)) ∧
    (∃ (h : StrokeHdr) (s0 : State) (s : State) (u : State) (src : Nat) (unit : Nat) (a : Nat) (tag : Nat) (rows : Nat)
      (full : Bool), canIssue s0 h.tile = true ∧ s = landIsland s0 (clusterOf h.tile) ∧ u = modTile s h.tile (fun t =>
      { t with cycle := t.cycle + h.delta }) ∧ predHolds u h = true ∧ sendUnitOk unit = false) ∧
    (∃ (h : StrokeHdr) (s0 : State) (s : State) (u : State) (dst : Nat) (c : Nat) (kv : Nat × Flits), canIssue s0 h.tile =
      true ∧ s = landIsland s0 (clusterOf h.tile) ∧ u = modTile s h.tile (fun t => { t with cycle := t.cycle + h.delta }) ∧
      predHolds u h = true ∧ swapTail u (clusterOf h.tile) = false ∧ (getIsland s (clusterOf h.tile)).inbox.find? (fun kv
      => kv.1 == boxKey h.tile c && wholeFlits kv.2) = some kv) ∧
    (∃ (h : StrokeHdr) (s0 : State) (s : State) (u : State) (dst : Nat) (c : Nat), canIssue s0 h.tile = true ∧ s =
      landIsland s0 (clusterOf h.tile) ∧ u = modTile s h.tile (fun t => { t with cycle := t.cycle + h.delta }) ∧ predHolds
      u h = true ∧ (swapTail u (clusterOf h.tile) = true ∨ (getIsland s (clusterOf h.tile)).inbox.find? (fun kv => kv.1 ==
      boxKey h.tile c && wholeFlits kv.2) = none)) ∧
    (∃ (h : StrokeHdr) (s0 : State) (s : State) (u : State) (src : Nat) (unit : Nat) (a : Nat) (tag : Nat) (rows : Nat) (r
      : RowRead) (f : Flits) (q : Partial), canIssue s0 h.tile = true ∧ s = landIsland s0 (clusterOf h.tile) ∧ u = modTile
      s h.tile (fun t => { t with cycle := t.cycle + h.delta }) ∧ predHolds u h = true ∧ sendUnitOk unit = true ∧ r =
      readRows u (clusterOf h.tile) (.scratch h.tile src) rows ∧ f =
      { linkForm r.state (clusterOf h.tile) (runSlot r.state (clusterOf h.tile)) tag (oneFlit r.bytes r.poisoned) with step := sendStep r.state h.tile }
      ∧ q =
      ({ tag := tag, input := .tile (unitTile h.tile), flits := f, slot := runSlot r.state (clusterOf h.tile), unit := unit, addr := a }
      : Partial)) ∧
    (∃ (h : StrokeHdr) (s0 : State) (s : State) (u : State) (dst : Nat) (tag : Nat) (scale : Option Fp32) (kv : Nat ×
      Flits), canIssue s0 h.tile = true ∧ s = landIsland s0 (clusterOf h.tile) ∧ u = modTile s h.tile (fun t =>
      { t with cycle := t.cycle + h.delta }) ∧ predHolds u h = true ∧ swapTail u (clusterOf h.tile) = false ∧ (getIsland s
      (clusterOf h.tile)).ligResults.find? (fun kv => kv.1 == tag) = some kv) ∧
    (∃ (h : StrokeHdr) (s0 : State) (s : State) (u : State) (dst : Nat) (tag : Nat) (scale : Option Fp32), canIssue s0
      h.tile = true ∧ s = landIsland s0 (clusterOf h.tile) ∧ u = modTile s h.tile (fun t =>
      { t with cycle := t.cycle + h.delta }) ∧ predHolds u h = true ∧ (swapTail u (clusterOf h.tile) = true ∨ (getIsland s
      (clusterOf h.tile)).ligResults.find? (fun kv => kv.1 == tag) = none)) ∧
    (∃ (h : StrokeHdr) (s0 : State) (s : State) (u : State) (i : Nat), canIssue s0 h.tile = true ∧ s = landIsland s0
      (clusterOf h.tile) ∧ u = modTile s h.tile (fun t => { t with cycle := t.cycle + h.delta }) ∧ predHolds u h = true) ∧
    (∃ (h : StrokeHdr) (s0 : State) (s : State) (u : State) (c : Nat) (n : Nat), canIssue s0 h.tile = true ∧ s = landIsland
      s0 (clusterOf h.tile) ∧ u = modTile s h.tile (fun t => { t with cycle := t.cycle + h.delta }) ∧ predHolds u h = true) ∧
    (∃ (h : StrokeHdr) (s0 : State) (s : State) (u : State) (src : Nat) (unit : Nat) (a : Nat) (tag : Nat) (rows : Nat) (c
      : Nat) (full : Bool), canIssue s0 h.tile = true ∧ s = landIsland s0 (clusterOf h.tile) ∧ u = modTile s h.tile (fun t
      => { t with cycle := t.cycle + h.delta }) ∧ predHolds u h = false ∧ sendUnitOk unit = true) :=
  ⟨⟨hs, run, run, after run, 0, 17, 0, 1, 5, true, readRows (after run) 0 (.scratch 1 0) 1,
     { consumer := 17, crossing := 5, flits := oneFlit (readRows (after run) 0 (.scratch 1 0) 1).bytes false, producer := 1 },
     by decide +kernel, rfl, rfl, by decide +kernel, by decide +kernel, rfl, (by decide +kernel)⟩,
   ⟨hs, run, run, after run, 0, 48 * 16, 0, 5, 1, false, by decide +kernel, rfl, rfl, by decide +kernel⟩,
   ⟨hs, runWith { inbox := [(boxKey 1 5, flit1)] }, runWith { inbox := [(boxKey 1 5, flit1)] }, after (runWith
     { inbox := [(boxKey 1 5, flit1)] }), 0, 5, (boxKey 1 5, flit1), by decide +kernel, rfl, rfl, by decide +kernel⟩,
   ⟨hs, run, run, after run, 0, 5, by decide +kernel, rfl, rfl, by decide +kernel⟩,
   ⟨hs, run, run, after run, 0, 17, 0, 3, 1, readRows (after run) 0 (.scratch 1 0) 1, oneFlit (readRows (after run) 0
     (.scratch 1 0) 1).bytes false,
     { tag := 3, input := .tile 1, flits := oneFlit (readRows (after run) 0 (.scratch 1 0) 1).bytes false, unit := 17 },
     by decide +kernel, rfl, rfl, by decide +kernel, by decide +kernel, rfl, (by decide +kernel), (by decide +kernel)⟩,
   ⟨hs, runWith { ligResults := [(3, flit1)] }, runWith { ligResults := [(3, flit1)] }, after (runWith
     { ligResults := [(3, flit1)] }), 0, 3, none, (3, flit1), by decide +kernel, rfl, rfl, by decide +kernel⟩,
   ⟨hs, run, run, after run, 0, 3, none, by decide +kernel, rfl, rfl, by decide +kernel⟩,
   ⟨hs, run, run, after run, 2, by decide +kernel, rfl, rfl, by decide +kernel⟩,
   ⟨hs, run, run, after run, 0, 1, by decide +kernel, rfl, rfl, by decide +kernel⟩,
   ⟨{ hs with pred := 15 }, run, run, after run, 0, 17, 0, 3, 1, 5, false, by decide +kernel, rfl, rfl, by decide +kernel⟩⟩

/-- States and operands that meet the hypotheses of the clauses of StepsIssueSampleAndReplay. -/
theorem witness_StepsIssueSampleAndReplay :
    (∃ (time : Nat) (u : Nat) (n : Nat) (r : FetchRead) (ahead : Lookahead) (s : State), newestStep (getIsland s u) = some
      n ∧ prefetchAllowed s n r.units r.ref = true ∧ unattended s n r.ref.site r.ref.unit r.units = false ∧ r.found = [] ∧
      ahead.found = [] ∧ (tget [] s.vellum.prefetch u).any (fun e => e.step == n && e.ref.site == r.ref.site && e.ref.unit
      == r.ref.unit && e.units == r.units) = false ∧ (tget [] s.vellum.prefetch u).length < 16 ∧ ((tget []
      s.vellum.prefetch u).map (·.units)).sum + r.units ≤ 8192) ∧
    (∃ (time : Nat) (kind : StepKind) (rows : List (RowRef × Nat)) (p : RowPlan) (ps : List RowPlan) (s : State), planStep
      (stepBoundary (advance s time)) kind rows = some (p :: ps) ∧ (∀ x ∈ (stepBoundary (advance s time)).serving.steps,
      x.num ≠ (stepBoundary (advance s time)).serving.nextStep)) ∧
    (∃ (time : Nat) (n : Nat) (id : Nat) (row : Met Nat Nat) (logits : List (List Fp32)) (st : Step) (r : StepRow) (s :
      State), findStep s n = some st ∧ st.rows[row.val]? = some r ∧ st.faulty = false ∧ r.sampled = false ∧ st.kind =
      .decode ∧ r.ref = .session id ∧ r.discarded = false ∧ (getSession s id).turn.bind (·.step) = some n ∧ metNan s
      .decode r logits = 0 ∧ logits.length = r.count ∧ (∀ l ∈ logits, l.length = ((getSlot s st.slot).body.map (fun b =>
      b.lettering.vocab.length)).getD 0)) ∧
    (∃ (time : Nat) (n : Nat) (st : Step) (s : State), findStep s n = some st ∧ st.kind = .prefill ∧ islandsDone s st =
      true ∧ st.faulty = false) ∧
    (∃ (time : Nat) (n : Nat) (x : Nat) (c : Counts) (s : State), findStep s n = none ∧ s.serving.counting.filter (fun y =>
      y.1 == n) = [(n, x, c)] ∧ c ≠ {}) ∧
    (∃ (time : Nat) (n : Nat) (die : Nat) (st : Step) (s : State), findStep s n = some st ∧ st.faulty = true ∧ st.attempts
      < 4) :=
  ⟨⟨9, 0, 3, { ref := { site := 39, unit := 805306367, region := .cold }, units := 1 }, {}, withIsland 0
     { posted := [{ step := 3, words := [] }] }, by decide +kernel⟩,
   ⟨9, .decode, [(.session 4, 1)], plan1, [], stepping, by decide +kernel⟩,
   ⟨9, 0, 4, ⟨0, 7⟩, [[0x3F800000, 0]], decodeStep, row1, withSession
     { sess1 with state := .turn, turn := some { turn1 with due := [], step := some 0 } } (withServing (fun x =>
     { x with steps := [decodeStep] }) act), by decide +kernel⟩,
   ⟨9, 0, { step1 with kind := .prefill }, withServing (fun x => { x with steps := [{ step1 with kind := .prefill }] })
     act, by decide +kernel⟩,
   ⟨9, 0, 1023, { elements := 1, nanIn := 1 }, withServing (fun x =>
     { x with counting := [(0, 1023, { elements := 1, nanIn := 1 })], thresholds := [(1023, { tensor := 1023, nanMax := 0 })] }),
     by decide +kernel⟩,
   ⟨9, 0, 5, { step1 with faulty := true, attempts := 3 }, withServing (fun x =>
     { x with steps := [{ step1 with faulty := true, attempts := 3 }] }) act, by decide +kernel⟩⟩

/-- States and operands that meet the hypotheses of the clauses of ResidencyAdmissionAndParking. -/
theorem witness_ResidencyAdmissionAndParking :
    (∃ (time : Nat) (n : Nat) (s : State), n < 2 ∧ slotLive (getSlot s n) = true) ∧
    (∃ (time : Nat) (layer : Nat) (s : State), slotLive (getSlot s 1) = false ∧ slotLive (getSlot s 0) = true ∧ (getSlot s
      0).layers.any (fun r => r.layer == layer && !r.releasing.isEmpty) = true) ∧
    (∃ (time : Nat) (n : Nat) (l : Nat) (w : AdapterVer) (rest : List Nat) (s : State), wantedVersion s n = some w ∧
      siteServes s w.site = true ∧ ((List.range 40).filter (lineLoading s)).length < 2 ∧ (List.range 40).filter (fun l =>
      decide (tget ({} : Line) s.images.lines l = {}) && !(s.serving.clears.contains (.adapterLine l)) && !(lineRetired s
      l)) = l :: rest) ∧
    (∃ (time : Nat) (s : State), s.board.modReady = true ∧ s.board.phase = .serving ∧ shedding (advance s time) = false) ∧
    (∃ (time : Nat) (s : State), s.board.modReady = true ∧ s.serving.parkLow ≤ freePages s ∧ reservedPages s ≤ freePages s) ∧
    (∃ (time : Nat) (s : State), s.board.modReady = true ∧ freePages s < s.serving.parkLow ∧ s.serving.parkLow ≤
      s.serving.parkHigh) ∧
    (∃ (time : Nat) (s : State), s.board.modReady = true ∧ s.serving.parkLow ≤ freePages s ∧ freePages s < reservedPages s) ∧
    (∃ (time : Nat) (k : Nat) (l : Nat) (p : Nat) (slot : Nat) (rest : List (Nat × Nat)) (more : List Nat) (s : State),
      (getSession s k).pages = (l, p) :: rest ∧ (getSession s k).outbound = slot :: more ∧ (getPage s p).state = .outbound
      ∧ engaged (getSession s k) = false ∧ (getSession s k).state = .parking ∧ s.serving.steps.any (fun st => stepNames s
      st p) = false ∧ (more = [] → rest = [])) ∧
    (∃ (time : Nat) (k : Nat) (e : ParkedPage) (rest : List ParkedPage) (s : State), (getSession s k).state = .unparking ∧
      (getSession s k).parked = e :: rest ∧ (getSession (giveSessionPage (advance s time) k e.logical) k).pages.length ≠
      (getSession s k).pages.length) ∧
    (∃ (time : Nat) (p : Nat) (d : Nat) (s : State), (getPartition s p).drainUntil = some d ∧ d ≤ max s.now time) :=
  ⟨⟨9, 1, withImages (fun x => { x with b := { slot1 .active with layers := [layer1] } }), by decide +kernel⟩,
   ⟨9, 63, withImages (fun x =>
     { x with a := { slot1 .active with layers := [{ layer1 with releasing := [(0, 0, 0)] }] } }), by decide +kernel⟩,
   ⟨9, 9, 0, version1, (List.range 40).drop 1, withServing (fun x =>
     { x with tenants := [(9, { registered := true, versions := [version1], current := some 1 })] }), by decide +kernel⟩,
   ⟨9, { serv with power := { serv.power with allowance := 18500 } }, by decide +kernel⟩,
   ⟨9, withSession { sess1 with parkSkip := true }, by decide +kernel⟩,
   ⟨9, withServing (fun x => { x with parkLow := 524289, parkHigh := 524289 }), by decide +kernel⟩,
   ⟨9, withServing (fun x =>
     { x with parkLow := 0, sessions := [(4, { sess1 with turn := some { turn1 with phase := .decode, reserved := 600000 } })] }),
     by decide +kernel⟩,
   ⟨9, 4, 0, 33, 0, [], [], parking, by decide +kernel⟩,
   ⟨9, 4, { logical := 0, slot := 0, version := 1, check := 0, committed := 5 }, [], withSession
     { sess1 with state := .unparking, parked := [{ logical := 0, slot := 0, version := 1, check := 0, committed := 5 }] },
     by decide +kernel⟩,
   ⟨5, 0, 5, withServing (fun x =>
     { x with partitions := [(0, { configured := true, drain := true, drainUntil := some 5 })] }), by decide +kernel⟩⟩

/-- States and operands that meet the hypotheses of the clauses of RecordsKeepTheirSizes. -/
theorem witness_RecordsKeepTheirSizes :
    (∃ (s : State) (kind : Nat) (unit : Nat) (i : Nat) (n : Nat) (size : Nat), recordKind kind = some (n, size)) ∧
    (∃ (s : State) (f : Nat) (nonce : BitVec 256), TrustSound s.trust) :=
  ⟨⟨serv, 11, 0, 524287, 524288, 16, by decide +kernel⟩,
   ⟨serv, 0, 5, ⟨rfl, by decide⟩⟩⟩

/-- States and operands that meet the hypotheses of the clauses of EventsAndAcknowledgement. -/
theorem witness_EventsAndAcknowledgement :
    (∃ (time : Nat) (bits : Nat) (s : State), reachable s 0 = true ∧ (BitVec.ofNat 5 bits).getLsbD 2 = true) ∧
    (∃ (time : Nat) (bits : Nat) (s : State), reachable s 0 = true ∧ (BitVec.ofNat 5 bits).getLsbD 2 = false) :=
  ⟨⟨9, 4,
     { serv with link := { serv.link with eventCause := 7 }, blotter := { warnings := [{ cause := 2, unit := 0, ended := true }] } },
     by decide +kernel⟩,
   ⟨9, 27,
     { serv with link := { serv.link with eventCause := 7 }, blotter := { warnings := [{ cause := 2, unit := 0, ended := true }] } },
     by decide +kernel⟩⟩

/-- States and operands that meet the hypotheses of the clauses of NoStepNoWatchdog. -/
theorem witness_NoStepNoWatchdog :
    (∃ (time : Nat) (consumer : Nat) (producer : Nat) (crossing : Nat) (same : Bool) (s : State), (getIsland s (clusterOf
      consumer)).desc = none ∧ (∀ st ∈ s.serving.steps, (stepPath s st).contains (clusterOf consumer) = true →
      st.ended.contains (clusterOf consumer) = true)) :=
  ⟨9, 1, 2, 5, true, withIsland 0 { gate := some (.crossing 1 0 5) }, by decide +kernel⟩

/-- States and operands that meet the hypotheses of the clauses of DeadlinesAndLateTokens. -/
theorem witness_DeadlinesAndLateTokens :
    (∃ (u : Turn) (k : Nat), u.timed = true) ∧
    (∃ (u : Turn) (j : Nat) (k : Nat), u.timed = false) ∧
    (∃ (u : Turn) (j : Nat) (k : Nat), u.timed = false ∧ u.ops.deadline ≠ 0) ∧
    (∃ (time : Nat) (k : Nat) (x : Nat) (sp : Bool) (u : Turn) (rest : List Due) (s : State), (getSession s k).turn = some
      u ∧ u.due = .token x sp :: rest ∧ u.lateStop = false ∧ u.stopAfter = none ∧ submitHeld s k = false ∧ (getQueue s
      u.func u.qp).active = true ∧ (getQueue s u.func u.qp).enable = true ∧ (getQueue s u.func u.qp).holding = [] ∧ tsFits
      (getQueue s u.func u.qp) 1 = true) :=
  ⟨⟨{ turn1 with timed := true, tAcc := 8, ttft := 3, itb := 2 }, 3, by decide +kernel⟩,
   ⟨turn1, 0, 5, by decide +kernel⟩,
   ⟨{ turn1 with ops := { req1 with deadline := 4000 } }, 0, 5, by decide +kernel⟩,
   ⟨9, 4, 0, false, { turn1 with ops := { req1 with deadline := 4 } }, [], withSession
     { sess1 with state := .turn, turn := some { turn1 with ops := { req1 with deadline := 4 } } } act, by decide +kernel⟩⟩

/-- States and operands that meet the hypotheses of the clauses of MergeEntries. -/
theorem witness_MergeEntries :
    (∃ (s : State) (c : Nat) (a : Nat) (m : Member) (w : Window) (rest : List Window), takeFirst (joinable (Place.slice c
      a).row) (getIsland s c).windows = some (w, rest)) ∧
    (∃ (s : State) (c : Nat) (a : Nat) (m : Member), (∀ w ∈ (getIsland s c).windows, w.row = (Place.slice c a).row → 64 ≤
      w.members.length + w.engines.length)) ∧
    (∃ (s : State) (c : Nat) (a : Nat) (m : Member), (∀ w ∈ (getIsland s c).windows, w.row = (Place.slice c a).row → 64 ≤
      w.members.length + w.engines.length) ∧ (getIsland s (clusterOf m.tile)).fenced = false) :=
  ⟨⟨mergeS [{ row := (Place.slice 0 64).row, members := [], data := [] }], 0, 64,
     { tile := 17, dst := 0, crossing := 5, place := 0, total := 1 },
     { row := (Place.slice 0 64).row, members := [], data := [] }, [], by decide +kernel⟩,
   ⟨mergeS [], 0, 64, { tile := 17, dst := 0, crossing := 5, place := 0, total := 1 }, by decide +kernel⟩,
   ⟨mergeS (List.replicate 8 { win1 with row := (Place.slice 0 64).row + 1 }), 0, 64,
     { tile := 17, dst := 0, crossing := 5, place := 0, total := 1 }, by decide +kernel⟩⟩

/-- States and operands that meet the hypotheses of the clauses of StartRegistersAndLinksComplete. -/
theorem witness_StartRegistersAndLinksComplete :
    (∃ (time : Nat) (v : Bool) (s : State), reachable s 0 = true) ∧
    (∃ (time : Nat) (f : Nat) (s : State), reachable s f = true) ∧
    (∃ (time : Nat) (qp : Nat) (f : Nat) (v : Nat) (c : HostSet) (s : State), reachable s f = true ∧ f ≠ 0 ∧ qp < 8 ∧
      (getQueue s f qp).enable = false ∧ (getFn s f).barPlace = c.place) ∧
    (∃ (peer : Nat) (v : Nat) (n : Nat) (f : FolioHead) (s : State), s.images.exported.slot = some n ∧ (getSlot s n).head =
      some f ∧ s.images.exported.peer = peer ∧ v < fileBanks f) ∧
    (∃ (time : Nat) (peer : Nat) (offset : Nat) (s : State), controlFrame ≤ offset) ∧
    (∃ (time : Nat) (va : Nat) (vb : Nat) (s : State), s.board.modEn = false) ∧
    (∃ (time : Nat) (f : Nat) (s : State), s.board.fellAt = some f ∧ s.board.phase = .discharge ∧ f + 1000000000 ≤ max
      s.now time) ∧
    (∃ (time : Nat) (also : SameSample) (s : State), s.board.modEn = true) ∧
    (∃ (time : Nat) (a : Nat) (s : State), s.board.phase = .straps) ∧
    (∃ (time : Nat) (also : SameSample) (s : State), s.board.phase = .serving) ∧
    (∃ (time : Nat) (k : Nat) (v : Nat) (s : State), k < 2 ∧ 4800 ≤ v ∧ v ≤ 5800) ∧
    (∃ (time : Nat) (k : Nat) (v : Nat) (also : SameSample) (s : State), k < 2 ∧ (getFeed s k).inUse = true ∧ (v < 4600 ∨
      6000 < v) ∧ also.bothFeeds = false ∧ (getFeed s (1 - k)).inUse = true) ∧
    (∃ (time : Nat) (k : Nat) (v : Nat) (s : State), k < 2 ∧ (getFeed s k).inUse = true ∧ 4600 ≤ v ∧ v < 4800) ∧
    (∃ (time : Nat) (s : State), s.board.phase = .waiting ∧ feedOn s = false ∧ s.board.feedWaited = false ∧ s.board.roseAt
      + 10000000000 ≤ max s.now time) ∧
    (∃ (consumer : Nat) (crossing : Nat) (n : Nat) (x : Transfer) (rest : List Transfer) (s : State), takeFirst (fun (t :
      Transfer) => t.consumer == consumer && t.crossing == crossing) s.fabric.inFlight = some (x, rest) ∧ (getIsland s
      (clusterOf consumer)).fenced = true) ∧
    (∃ (producer : Nat) (crossing : Nat) (n : Nat) (s : State), (getIsland s (clusterOf producer)).stalled = some crossing
      ∧ (getIsland s (clusterOf producer)).heldPartial = none) ∧
    (∃ (time : Nat) (consumer : Nat) (producer : Nat) (crossing : Nat) (s : State), watching s consumer crossing = true ∧
      watchdogHeld s consumer = false ∧ (getIsland s (clusterOf producer)).fenced = false ∧ clusterOf consumer ≠ clusterOf
      producer) ∧
    (∃ (time : Nat) (die : Nat) (dir : Nat) (sub : Nat) (s : State), (neighbour die dir).isSome = true ∧ sub < 16) ∧
    (∃ (time : Nat) (die : Nat) (dir : Nat) (sub : Nat) (s : State), sub < 16 ∧ (tget ({} : Edge) s.fabric.edges (linkKey
      die dir)).outDue.contains sub = true) ∧
    (∃ (u : Nat) (row : Nat) (w : Window) (rest : List Window) (s : State), takeFirst (fun (x : Window) => x.row == row)
      (getIsland s u).windows = some (w, rest)) :=
  ⟨⟨9, true, serv, by decide +kernel⟩,
   ⟨9, 16, serv, by decide +kernel⟩,
   ⟨9, 7, 16, 2565, { place := 0 }, serv, by decide +kernel⟩,
   ⟨7, 0, 1, head1, withImages (fun x =>
     { x with b := slot1 .ready, exported := { slot := some 1, peer := 7, bank := 5 } }), by decide +kernel⟩,
   ⟨9, 5, controlFrame, serv, by decide +kernel⟩,
   ⟨9, 5000, 0, State.reset, by decide +kernel⟩,
   ⟨1000000000, 0, inPhase .discharge (fun b => { b with fellAt := some 0 }), by decide +kernel⟩,
   ⟨9, {}, serv, by decide +kernel⟩,
   ⟨9, 63, inPhase .straps (fun b => b), by decide +kernel⟩,
   ⟨9, {}, serv, by decide +kernel⟩,
   ⟨9, 1, 4800, inPhase .dark (fun b => b), by decide +kernel⟩,
   ⟨9, 0, 4599, {}, serv, by decide +kernel⟩,
   ⟨9, 1, 4799, serv, by decide +kernel⟩,
   ⟨10000000000, inPhase .waiting (fun b => { b with feedA := {}, feedB := {} }), by decide +kernel⟩,
   ⟨1, 5, 0, { consumer := 1, crossing := 5, flits := flit1 }, [],
     { withIsland 0 { fenced := true } with fabric := { islands := [(0, { fenced := true })], inFlight := [{ consumer := 1, crossing := 5, flits := flit1 }] } },
     by decide +kernel⟩,
   ⟨1, 5, 7, withIsland 0 { stalled := some 5 }, by decide +kernel⟩,
   ⟨9, 1, 1024, 5, withIsland 0 { gate := some (.crossing 1 0 5), desc := some wdesc }, by decide +kernel⟩,
   ⟨9, 39, 3, 15, serv, by decide +kernel⟩,
   ⟨9, 0, 1, 15, { serv with fabric := { edges := [(1, { outDue := [15] })] } }, by decide +kernel⟩,
   ⟨0, 5, win1, [win1], withIsland 0 { windows := [win1, win1] }, by decide +kernel⟩⟩
/-- Statements over every step: a stroke on a module whose clusters stand still changes nothing. -/
theorem witness_CommandFrames : ∃ (c : Instr) (s t : State), exec c s = .next t := ⟨.nop hs, serv, serv, rfl⟩

theorem witness_HostTimeNeverFalls :
    (∃ (c : Instr) (s t : State), exec c s = .next t) ∧ (∃ (s t : State), step s = .next t) :=
  ⟨⟨.nop hs, serv, serv, rfl⟩, ⟨serv, serv, rfl⟩⟩

theorem witness_StepKeepsSound :
    ∃ (s t : State), Sound s ∧ step s = .next t ∧ ∃ c, exec c s = .next t :=
  ⟨State.reset, State.reset,
   ⟨by decide, by decide, by unfold NvmSound; decide, by unfold PowerSound; decide, by unfold ThermalSound; decide,
    by unfold BlotterSound; decide, by decide, by unfold TrustSound; decide⟩,
   rfl, .nop hs, rfl⟩

/-! ## Ill-formed commands are refused by the checks -/

theorem wf_queue_pair : (Instr.sqTail 0 0 1 0).wf = false ∧ (Instr.tsHead 0 0 0 0).wf = false ∧ (Instr.queueEnable 0 17 0).wf = false ∧
    (Instr.cqHead 0 3 8 0).wf = false ∧ (Instr.queueDisable 0 3 8).wf = false ∧ (Instr.queueDrained 0 3 8).wf = false := by decide
theorem wf_header : (Instr.identify { h0 with cid := 65536 }).wf = false ∧ (Instr.adminReset h1 false).wf = false ∧
    (Instr.identify { h0 with timeoutMs := 65536 }).wf = false := by decide
theorem wf_request : (Instr.reqSubmit h1 { req1 with session := 262144 }).wf = false ∧ (Instr.reqSubmit h0 req1).wf = false := by decide
theorem wf_descriptor : (Instr.descriptorFetch 0 0 0 [0] true).wf = false := by decide
theorem wf_cartridge : (Instr.phaseLost 0 20).wf = false ∧ (Instr.cartridgeInserted 0 20).wf = false ∧
    (Instr.cartridgeRemoved 0 20).wf = false ∧ (Instr.dieShort 0 40).wf = false := by decide
theorem wf_unit : (Instr.ldoSegmentFail 0 16384).wf = false ∧ (Instr.ceilingCheck 0 1 0).wf = false := by decide
theorem wf_link : (Instr.flitRetry 0 0 0 0).wf = false ∧ (Instr.sublinkOut 0 0 1 16).wf = false := by decide
theorem wf_stroke : (Instr.mac { hs with delta := 4096 } 0 .latched ⟨0, []⟩).wf = false ∧ (Instr.mac hs 0 .latched ⟨64, []⟩).wf = false ∧
    (Instr.drain hs 0 64 none).wf = false ∧ (Instr.predLoad hs 0 ⟨.descBit 0 0, []⟩).wf = false ∧
    (Instr.loopBegin hs 4 1 false).wf = false ∧ (Instr.loopEnd hs 4).wf = false ∧ (Instr.dmaPost hs 64).wf = false ∧
    (Instr.dmaWait hs 16 1).wf = false ∧ (Instr.mac { hs with pred := 16 } 0 .latched ⟨0, []⟩).wf = false ∧
    (Instr.mac { hs with tile := 16385 } 0 .latched ⟨0, []⟩).wf = false := by decide
theorem wf_straps : (Instr.strapSample 0 64 0 0).wf = false := by decide

/-! ## Worked examples of the manual -/

/-- R4: Q-tile 9 of the cluster at row 2, column 5 of the die at (3,4). -/
theorem test_unit_identifier : mkUnit (dieIndex 3 4) (2 * 8 + 5) 9 = 0x8D59 ∧ isTile 0x8D59 = true := by decide

/-- R4: values that name no unit. -/
theorem test_invalid_units : isUnit (mkUnit 40 0 0) = false ∧ isUnit (mkUnit 0 48 0) = false ∧ isUnit (mkUnit 0 63 1) = false ∧
    isUnit (mkUnit 16 24 0) = false ∧ isUnit (mkUnit 16 1 1) = false ∧ isUnit (mkUnit 17 0 8) = false ∧
    isUnit (mkUnit 16 0 7) = true ∧ isUnit (mkUnit 39 63 0) = true := by decide

/-- R32: cartridge 12 serves dies 24 and 25, cartridge 8 the S-die and the B-die beside it. -/
theorem test_cartridge_dies : cartDies 12 = [24, 25] ∧ cartDies 8 = [16, 17] := by decide

/-- R47: die 3 to die 12 crosses 2 links in 11.4 ns; die 35 to die 31 crosses 5 in 19.5 ns. -/
theorem test_latency_bound : hops 3 12 = 2 ∧ latencyBound 2 = 114 ∧ hops 35 31 = 5 ∧ latencyBound 5 = 195 := by decide

/-- R79: Q scratchpad address 0x12340 lies in bank 5. -/
theorem test_scratch_bank : scratchBank 0x8D59 0x12340 = 5 := by decide

/-- R111: the block of the Tern-140 expert input, in the first block of a row. -/
def narrow1 : List Fp32 :=
  [0x40500000#32, 0x3F600000#32, 0xC0180000#32, 0x3D400000#32, 0xBF200000#32, 0x3F900000#32, 0x3FB40000#32, 0x3E100000#32] ++
    List.replicate 120 0#32
theorem test_narrow_n4 : (narrowRow .n4 false narrow1).1.take 8 = [0x37#8, 0x0E#8, 0x4A#8, 0x04#8, 0#8, 0#8, 0#8, 0#8] ∧
    (narrowRow .n4 false narrow1).2.1.head? = some 0x31#8 ∧ (narrowRow .n4 false narrow1).2.2.flushed = 2 ∧
    (narrowRow .n4 false narrow1).2.2.saturated = 0 := by decide +kernel

/-- R111, R113: WIDEN of that block. -/
theorem test_widen_n4 : (widenRow .n4 ([0x37#8, 0x0E#8, 0x4A#8, 0x04#8] ++ List.replicate 60 0#8) (0x31#8 :: List.replicate 7 0#8)).1.take 8 =
    [0x40580000#32, 0x3F580000#32, 0xC0100000#32, 0#32, 0xBF100000#32, 0x3F900000#32, 0x3F900000#32, 0#32] := by decide +kernel

/-- R111: single values under NARROW to E4M3 with FIXED_SCALE 1: 240, 500, -inf, NaN, 1.0625, 0.001, 2^-10, -0. -/
def narrow2 : List Fp32 :=
  [0x43700000#32, 0x43FA0000#32, 0xFF800000#32, 0x7FC00000#32, 0x3F880000#32, 0x3A83126F#32, 0x3A800000#32, 0x80000000#32] ++
    List.replicate 56 0#32
theorem test_narrow_e4m3 : (narrowRow .e4m3 true narrow2).1.take 8 = [0x77#8, 0x7E#8, 0xFE#8, 0#8, 0x38#8, 0x01#8, 0#8, 0#8] ∧
    (narrowRow .e4m3 true narrow2).2.2.saturated = 1 ∧ (narrowRow .e4m3 true narrow2).2.2.infIn = 1 ∧
    (narrowRow .e4m3 true narrow2).2.2.nanIn = 1 ∧ (narrowRow .e4m3 true narrow2).2.2.flushed = 1 := by decide +kernel

/-- R112: an MXFP4 block with scale byte 0x7F takes scale 0x38 in both halves and its elements are copied. -/
theorem test_mxfp4 : (convertTensor { tensor := 0, src := .mxfp4, target := .n4, count := 32, bytes := 0x7F#8 :: List.replicate 16 0x22#8 }).1.take 16 =
      List.replicate 16 0x22#8 ∧
    (convertTensor { tensor := 0, src := .mxfp4, target := .n4, count := 32, bytes := 0x7F#8 :: List.replicate 16 0x22#8 }).2.1 = [0x38#8, 0x38#8] := by
  decide +kernel

/-- R126: the three contributions, in reference and in normal mode, ended with the tensor scale 0.5. -/
def blockSum (reference : Bool) : Acc :=
  let c (w : Byte) (ws : Nat) (a : Byte) (as : Nat) (rest : Byte) : Exact :=
    (contribution .n4 .dense (w :: List.replicate 7 rest) 0 ws .n4 (a :: List.replicate 7 (if rest = 0 then 0#8 else a)) as 0).1
  [c 0x66#8 0x78 0x66#8 0x78 0x66#8, c 0x02#8 0x38 0x02#8 0x38 0#8, c 0xEE#8 0x78 0x66#8 0x78 0xEE#8].foldl
    (fun a b => (accumulate reference .n4 .n4 a b).1) {}
theorem test_reference_reduction : (blockSum true).bits = 0x1000000000#96 ∧ (blockSum true).poisoned = false ∧
    drainLane true (blockSum true) (some 0x3F000000#32) = fpBytes 0x3F000000#32 := by decide +kernel
theorem test_normal_reduction : drainLane false (blockSum false) (some 0x3F000000#32) = fpBytes 0#32 := by decide +kernel

/-- R136: the default layout leaves 272 granules of reserve on a Q-die site and 16,374 on a B-die site. -/
theorem test_layout_reserve : reserveGranules {} 0 = 272 ∧ reserveGranules {} 17 = 16374 ∧ layoutBreak {} = none := by decide +kernel

/-- R138, R443: page 4,000 lies on die 0, page 4,023 on die 31, page 4,019 on die 27. -/
theorem test_page_sites : pageSite 4000 = 0 ∧ pageSite 4023 = 31 ∧ pageSite 4019 = 27 := by decide +kernel

/-- R194: the tree of a Folio of 16,690 chunks. -/
theorem test_tree_nodes : treeSize 64 16690 = 33389 := by decide +kernel

/-- R203: a Folio of 16,690 chunks is exported in 16,691 frames and 2 banks. -/
theorem test_export_banks : fileFrames { head1 with chunkCount := 16690 } = 16691 ∧ fileBanks { head1 with chunkCount := 16690 } = 2 := by decide +kernel

/-- R248, R249: the Pellmoor turn of 24 parked pages, 120 prefilled positions and a ledger of 10,000. -/
def tern : StepTimes := { rowsT := 8, pagesT := 32, missT := 1, den := 10, layers := [183833], tMiss := 23331, head := 13162545, tail := 0, tDraft := 0, tPre := 152500000 }
def priced : State :=
  withServing (fun x => { x with steps := [{ step1 with kind := .prefill }] })
    (withImages (fun x => { x with a := { slot1 .active with body := some { body1 with times := [tern] } } }))
theorem test_ttft : priceTtft priced 0 24 (fint 60000) 10000 120 (fint 0) = 34117 := by decide +kernel
theorem test_itb : priceItb priced 0 0 0 = 1368 ∧ positionLimit priced 0 = 512 := by decide +kernel
theorem test_pages_needed : pagesNeeded { positions := 3000 } 120 { req1 with maxTokens := 200 } = 26 := by decide +kernel
theorem test_deadlines : deadlineOf { turn1 with timed := true, tAcc := 5000000000, ttft := 34117, itb := 1368 } 1 = some 5034117000 ∧
    deadlineOf { turn1 with timed := true, tAcc := 5000000000, ttft := 34117, itb := 1368 } 200 = some 5306349000 := by decide +kernel

/-- R265: the word "Grüße" in four tokens. -/
theorem test_hold_back : (emitBytes [] [] [] [0x47#8, 0x72#8]).text = [0x47#8, 0x72#8] ∧ (emitBytes [] [] [] [0xC3#8]).text = [] ∧
    (emitBytes [] [0xC3#8] [] [0xBC#8, 0xC3#8]).text = [0xC3#8, 0xBC#8] ∧
    (emitBytes [] [0xC3#8] [] [0x9F#8, 0x65#8]).text = [0xC3#8, 0x9F#8, 0x65#8] := by decide +kernel

/-- R322: a TEXT record of 2 units at unit 255 of a ring of 256: a PAD of the old phase, then the record at unit 0. -/
theorem test_ring_pad : (pushTs { tsLog2 := 8, tsIndex := 255, tsHead := 200, tsPhase := false } (.text 0 1 1 1 [65#8, 65#8, 65#8] false)).ts =
      [.pad false 1, .rcd (.text 0 1 1 1 [65#8, 65#8, 65#8] false) true 2] ∧
    (pushTs { tsLog2 := 8, tsIndex := 255, tsHead := 200, tsPhase := false } (.text 0 1 1 1 [65#8, 65#8, 65#8] false)).tsIndex = 2 := by decide +kernel

/-- R368: sealed records of plaintext lengths 6, 1 and 5 take 4 units each, END takes 1. -/
theorem test_sealed_units : dueUnits (.sealedText 1 (List.replicate 6 65#8) none) = 4 ∧
    dueUnits (.sealedText 1 [65#8] none) = 4 ∧ dueUnits (.sealedText 1 (List.replicate 5 65#8) (some 0xFE)) = 4 ∧ dueUnits (.fin 0xFE) = 1 := by decide

/-- R411: 20 L/min give a cooling cap of 13,230 W. -/
theorem test_cooling_cap : coolingCapOf { serv with thermal := { serv.thermal with flow := 200 } } 120 130 2000 false = 13230 := by decide +kernel

/-- R20: MOD_EN that rises within 1 s of its fall waits; at 1 s it does not. -/
theorem test_discharge : (match exec (.modEnRise ⟨999999999, 5000, 0⟩) { State.reset with board := { State.reset.board with fellAt := some 0 } } with
      | .next t => decide (t.board.phase = .discharge) | _ => false) = true ∧
    (match exec (.modEnRise ⟨1000000000, 5000, 0⟩) { State.reset with board := { State.reset.board with fellAt := some 0 } } with
      | .next t => decide (t.board.phase = .straps) | _ => false) = true := by decide +kernel

end Sys2Proof.Tests
end

namespace Sys2Proof.Proofs

open Sys2Proof Sys2Proof.Machine

/-- No meaning raises a fault or a refusal: each of the 217 is a next state by its definition, with every choice on
operands and state (a refused status, a report, no effect) made inside that state. So `nextOf` never takes its
default, and rewriting with this names the next state of any command. -/
theorem exec_eq_next_nextOf (c : Instr) (s : State) : exec c s = .next (nextOf (exec c s) s) := by
  cases c <;> rfl

/-- Settles O2: the next state is the one that `exec_eq_next_nextOf` names. -/
theorem everyCommandCompletes : Obligations.EveryCommandCompletes := by
  intro c s
  exact ⟨nextOf (exec c s) s, exec_eq_next_nextOf c s⟩

end Sys2Proof.Proofs

namespace Sys2Proof.Proofs

open Sys2Proof Sys2Proof.Machine Sys2Proof.Laws

/-! ## Reset -/

/-- Every table of the state after reset is empty, so a read of any key gives the table's default. -/
theorem reset_tables_empty : State.reset.serving.sessions = [] ∧ State.reset.vellum.pages = [] ∧ State.reset.vellum.mem = [] ∧
    State.reset.fabric.sram = [] ∧ State.reset.mailbox.queues = [] :=
  ⟨rfl, rfl, rfl, rfl, rfl⟩

/-- Settles O59: the registers read their reset values, and a read of an empty table gives its default. -/
theorem resetLeavesTheModuleDark : Obligations.ResetLeavesTheModuleDark := by
  unfold Obligations.ResetLeavesTheModuleDark
  obtain ⟨hsessions, hpages, hmem, hsram, hqueues⟩ := reset_tables_empty
  refine ⟨rfl, rfl, rfl, rfl, rfl, rfl, rfl, rfl, rfl, fun k => ?_, fun p => ?_, rfl, fun a => ?_, rfl, fun f q => ?_⟩
  · simp [getSession, hsessions, tget]
  · simp [getPage, hpages, tget]
  · simp [mget, hmem, hsram, tget]
  · simp [getQueue, hqueues, tget, queueReset]

/-! ## Frames of answers -/

/-- The frame of a meaning, for the state that it answers. -/
theorem only_of_outHeld {ps : List Part} {s t : State} {o : Out} (h : OutHeld ps s o) (ho : o = .next t) : Only ps s t :=
  (h t ho).only

theorem advance_only (s : State) (time : Nat) : Only [.now] s (advance s time) := (advance_held (held_self [.now] s) (by rfl)).only

theorem setMgmt_only (s : State) (v : Mgmt) : Only [.mgmt] s { s with mgmt := v } := fun p hp => by
  cases p with
  | mgmt => exact absurd (List.mem_singleton_self _) hp
  | _ => rfl

theorem setFw_only (s : State) (v : Fw) : Only [.fw] s { s with fw := v } := fun p hp => by
  cases p with
  | fw => exact absurd (List.mem_singleton_self _) hp
  | _ => rfl

/-- Two changes one after the other change no part but those of either. -/
theorem only_append {ps qs : List Part} {a b c : State} (h1 : Only ps a b) (h2 : Only qs b c) : Only (ps ++ qs) a c :=
  Only.trans (Only.mono h1 fun _ hp => List.mem_append_left _ hp) (Only.mono h2 fun _ hp => List.mem_append_right _ hp)

/-! ## Stop records (R36, R412) -/

/-- From `s` to `t` nothing changes but the stop records, and the time of the sample that wrote the last one. -/
structure OnlyStopRecord (s t : State) : Prop where
  now : t.now = s.now
  board : t.board = { s.board with stopAt := t.board.stopAt }
  nvm : t.nvm = { s.nvm with stopRecords := t.nvm.stopRecords, stopSeq := t.nvm.stopSeq }

theorem OnlyStopRecord.refl (s : State) : OnlyStopRecord s s := ⟨rfl, rfl, rfl⟩

theorem OnlyStopRecord.layout {s t : State} (h : OnlyStopRecord s t) : t.nvm.layout = s.nvm.layout := by
  rw [h.nvm]

theorem OnlyStopRecord.strapFaults {s t : State} (h : OnlyStopRecord s t) : t.nvm.strapFaults = s.nvm.strapFaults := by
  rw [h.nvm]

theorem stopOnce_onlyStopRecord (s : State) (type also : Nat) : OnlyStopRecord s (stopOnce s type also) := by
  unfold stopOnce
  split
  · exact OnlyStopRecord.refl s
  · unfold writeStop addStop
    generalize mkStop s type also _ false = r
    generalize keepLast 1024 (s.nvm.stopRecords ++ [r]) = l
    exact ⟨rfl, rfl, rfl⟩

theorem recordBeforeFall_onlyStopRecord (s : State) (also : SameSample) : OnlyStopRecord s (recordBeforeFall s also) := by
  unfold recordBeforeFall
  dsimp only
  split
  · exact OnlyStopRecord.refl s
  split
  · exact stopOnce_onlyStopRecord _ _ _
  split
  · exact stopOnce_onlyStopRecord _ _ _
  split
  · exact stopOnce_onlyStopRecord _ _ _
  · exact OnlyStopRecord.refl s

/-! ## Feeds (R28 to R30) -/

theorem getFeed_congr {s t : State} (hA : t.board.feedA = s.board.feedA) (hB : t.board.feedB = s.board.feedB) (k : Nat) :
    getFeed t k = getFeed s k := by
  unfold getFeed
  rw [hA, hB]

@[simp] theorem getFeed_putFeed (s : State) (k : Nat) (f : Feed) : getFeed (putFeed s k f) k = f := by
  unfold getFeed putFeed
  split <;> rfl

theorem getFeed_putFeed_other (s : State) {k : Nat} (hk : k < 2) (f : Feed) : getFeed (putFeed s k f) (1 - k) = getFeed s (1 - k) := by
  unfold getFeed putFeed
  obtain rfl | rfl : k = 0 ∨ k = 1 := by omega
  · rfl
  · rfl

theorem feedOn_iff (s : State) {k : Nat} (hk : k < 2) : feedOn s = ((getFeed s k).inUse || (getFeed s (1 - k)).inUse) := by
  obtain rfl | rfl : k = 0 ∨ k = 1 := by omega
  · rfl
  · exact Bool.or_comm _ _

/-- What a feed is written with leaves the board but the two feeds. -/
theorem putFeed_board (s : State) (k : Nat) (f : Feed) :
    (putFeed s k f).board = { s.board with feedA := (putFeed s k f).board.feedA, feedB := (putFeed s k f).board.feedB } := by
  unfold putFeed
  dsimp only
  split <;> rfl

theorem warn_board (s : State) (cause unit : Nat) :
    (warn s cause unit).board = { s.board with smbAlert := (warn s cause unit).board.smbAlert } := by
  unfold warn
  split
  · rfl
  · have hw := fun v => wantVector_only v 0 2 .board (by decide)
    have hp := fun v d =>
      (postEvent_held (held_self [.link, .mailbox] v) (by rfl) (func := 0) (code := 3) (detail := d)).only .board (by decide)
    simp only [Part.same] at hw hp
    simp only [hw, hp]

/-- A feed warning changes nothing of the board but the SMBus alert. -/
theorem warnFeed_board (s : State) (k v : Nat) :
    (warnFeed s k v).board = { s.board with smbAlert := (warnFeed s k v).board.smbAlert } := by
  unfold warnFeed
  split
  · have hn := note_only (warn s 3 0xFFFF) 0x0307 2 0xFFFF k v .board (by decide)
    rw [Part.same] at hn
    rw [hn]
    exact warn_board s 3 0xFFFF
  · rfl

theorem judgeFeeds_board (s : State) : (judgeFeeds s).board = s.board :=
  (judgeFeeds_held (held_self [.blotter] s) (by rfl)).only .board (by decide)

theorem judgeFeeds_now (s : State) : (judgeFeeds s).now = s.now :=
  (judgeFeeds_held (held_self [.blotter] s) (by rfl)).only .now (by decide)

end Sys2Proof.Proofs

namespace Sys2Proof.Proofs

open Sys2Proof Sys2Proof.Machine Sys2Proof.Laws

/-! ## The rise and the fall of MOD_EN (R16, R20) -/

section
variable (s : State)

theorem startFromRise_modEn : (startFromRise s).board.modEn = s.board.modEn := by
  unfold startFromRise
  dsimp only
  split
  · split <;> rfl
  · rfl

theorem startFromRise_roseAt : (startFromRise s).board.roseAt = s.now := by
  unfold startFromRise
  dsimp only
  split
  · split <;> rfl
  · rfl

theorem startFromRise_getFeed (k : Nat) : getFeed (startFromRise s) k = getFeed s k := by
  unfold startFromRise
  dsimp only
  split
  · split <;> rfl
  · rfl

theorem startFromRise_phase_of_fell {f : Nat} (hf : s.board.fellAt = some f) :
    (startFromRise s).board.phase = if s.now < f + 1000000000 then .discharge else .straps := by
  unfold startFromRise
  dsimp only
  rw [hf]
  dsimp only
  split <;> rfl

theorem startFromRise_phase_of_not_fell (hf : s.board.fellAt = none) : (startFromRise s).board.phase = .straps := by
  unfold startFromRise
  dsimp only
  rw [hf]
  rfl

end

/-- The board as MOD_EN_RISE leaves it before the sequence begins. -/
def risen (s : State) (time va vb : Nat) : State :=
  let s := advance s time
  { s with board := { s.board with
      modEn := true, roseAt := s.now, feedA := feedLevel s.board.feedA va, feedB := feedLevel s.board.feedB vb } }

theorem exec_modEnRise {s : State} (h : s.board.modEn = false) (time va vb : Nat) :
    exec (.modEnRise ⟨time, va, vb⟩) s =
      .next (if feedPresent (feedLevel s.board.feedA va) || feedPresent (feedLevel s.board.feedB vb) then
        startFromRise (risen s time va vb) else risen s time va vb) := by
  show execModEnRise _ s = _
  unfold execModEnRise
  simp only [advance_board, h, Bool.false_eq_true, if_false]
  rfl

theorem risen_getFeed (s : State) (time va vb : Nat) {k : Nat} (hk : k < 2) :
    getFeed (risen s time va vb) k = feedLevel (getFeed s k) (if k = 0 then va else vb) := by
  obtain rfl | rfl : k = 0 ∨ k = 1 := by omega
  · rfl
  · rfl

theorem exec_modEnRise_only (s : State) (time va vb : Nat) {t : State} (ht : exec (.modEnRise ⟨time, va, vb⟩) s = .next t) :
    Only [.now, .board] s t :=
  only_of_outHeld (execModEnRise_held (held_self _ s) (by rfl)) ht

theorem modEnRise_begins (time va vb : Nat) (s : State) (h : s.board.modEn = false) :
    ∃ t, exec (.modEnRise ⟨time, va, vb⟩) s = .next t ∧ t.board.modEn = true ∧ t.board.roseAt = max s.now time ∧
      (∀ k, k < 2 → getFeed t k = feedLevel (getFeed s k) (if k = 0 then va else vb)) ∧
      t.board.phase =
        (if feedPresent (feedLevel s.board.feedA va) = false ∧ feedPresent (feedLevel s.board.feedB vb) = false then s.board.phase
          else match s.board.fellAt with
          | some f => if max s.now time < f + 1000000000 then Phase.discharge else Phase.straps
          | none => Phase.straps) ∧ Only [.now, .board] s t := by
  have he := exec_modEnRise h time va vb
  refine ⟨_, he, ?_, ?_, fun k hk => ?_, ?_, exec_modEnRise_only s time va vb he⟩
  · split
    · exact startFromRise_modEn _
    · rfl
  · split
    · exact startFromRise_roseAt _
    · rfl
  · rw [← risen_getFeed s time va vb hk]
    split
    · exact startFromRise_getFeed _ k
    · rfl
  · by_cases hp : (feedPresent (feedLevel s.board.feedA va) || feedPresent (feedLevel s.board.feedB vb)) = true
    · rw [if_pos hp, if_neg (by simpa [Bool.or_eq_true, imp_iff_not_or] using hp)]
      cases hf : s.board.fellAt with
      | some f => exact startFromRise_phase_of_fell (risen s time va vb) hf
      | none => exact startFromRise_phase_of_not_fell (risen s time va vb) hf
    · rw [if_neg hp, if_pos (by simpa using hp)]
      rfl

theorem dischargeDelayEnd_begins (time f : Nat) (s : State) (hf : s.board.fellAt = some f) (hp : s.board.phase = .discharge)
    (ht : f + 1000000000 ≤ max s.now time) :
    ∃ t, exec (.dischargeDelayEnd time) s = .next t ∧ t.board.phase = .straps ∧ t.board.outputsHeld = true ∧
      Only [.now, .board] s t := by
  have he : exec (.dischargeDelayEnd time) s = .next (beginStart (advance s time)) := by
    show execDischargeDelayEnd time s = _
    unfold execDischargeDelayEnd
    dsimp only
    rw [advance_board, hf]
    exact congrArg _ (if_pos ⟨hp, ht⟩)
  exact ⟨_, he, rfl, rfl, only_of_outHeld (execDischargeDelayEnd_held (held_self _ s) (by rfl)) he⟩

theorem modEnFall_darkens (time : Nat) (also : SameSample) (s : State) (h : s.board.modEn = true) :
    ∃ t, exec (.modEnFall time also) s = .next t ∧ t.board.modEn = false ∧ t.board.phase = .dark ∧
      t.board.railsUp = false ∧ t.board.modReady = false ∧ t.board.outputsHeld = false ∧
      t.board.fellAt = some (max s.now time) ∧ t.serving = {} ∧ t.images = {} ∧ t.vellum = {} ∧ t.fabric = {} ∧
      t.blotter = {} ∧ t.link = {} ∧ t.mailbox = {} ∧ t.nvm.layout = s.nvm.layout := by
  have he : exec (.modEnFall time also) s = .next (powerDown (recordBeforeFall (advance s time) also)) := by
    show execModEnFall time also s = _
    unfold execModEnFall
    exact congrArg _ (if_pos h)
  have hr := recordBeforeFall_onlyStopRecord (advance s time) also
  exact ⟨_, he, rfl, rfl, rfl, rfl, rfl, congrArg some hr.now, rfl, rfl, rfl, rfl, rfl, rfl, rfl, hr.layout⟩

/-! ## Straps (R21, R22) -/

theorem strapSample_latches (time a : Nat) (s : State) (hp : s.board.phase = .straps) :
    ∃ t, exec (.strapSample time a a a) s = .next t ∧ t.board.straps = BitVec.ofNat 6 a ∧ t.board.phase = .waiting ∧
      t.board.faultHold = !s.board.flowOk ∧ t.nvm.strapWarning = (s.nvm.strapWarning || decide (a % 4 = 3)) := by
  have he : ∃ t, exec (.strapSample time a a a) s = .next t ∧
      t = { advance s time with
        board := { s.board with straps := BitVec.ofNat 6 a, phase := .waiting, faultHold := !s.board.flowOk },
        nvm := { s.nvm with strapWarning := s.nvm.strapWarning || decide (a % 4 = 3) } } := by
    refine ⟨_, ?_, rfl⟩
    show execStrapSample time a a a s = _
    unfold execStrapSample
    simp only [advance_board, hp, and_self, if_true]
    rfl
  obtain ⟨t, he, rfl⟩ := he
  exact ⟨_, he, rfl, rfl, rfl, rfl⟩

theorem strapSample_faults (time a b c : Nat) (s : State) (hp : s.board.phase = .straps) (hne : ¬ (a = b ∧ b = c)) :
    ∃ t, exec (.strapSample time a b c) s = .next t ∧ t.board.phase = .strapFault ∧ t.board.faultHold = true ∧
      t.nvm.strapFaults = s.nvm.strapFaults + 1 := by
  have he : exec (.strapSample time a b c) s = .next (holdFault (setPhase (stopOnce
      { advance s time with nvm := { s.nvm with strapFaults := s.nvm.strapFaults + 1 } } 5 0) .strapFault) true) := by
    show execStrapSample time a b c s = _
    unfold execStrapSample
    simp only [advance_board, hp, if_true, if_neg hne]
    rfl
  exact ⟨_, he, rfl, rfl, (stopOnce_onlyStopRecord _ 5 0).strapFaults⟩

/-! ## Flow (R25, R428) -/

/-- The low level of FLOW_LOSS_N is taken. -/
def flowLow (s : State) : State := { s with board := { s.board with flowOk := false } }

/-- The state after a flow loss that ends service or refuses the start: everything volatile is lost, and FAULT_N is held. -/
def stoppedByFlow (s : State) (also : SameSample) : State :=
  let t := holdFault (loseAll (flowLow s) .stopped) true
  { t with board := { t.board with thermtrip := s.board.thermtrip || also.thermal } }

/-- A flow loss in service, in an admin reset or in a partial shutdown stops the module, after the record of the sample. -/
theorem exec_flowLoss_of_ready (time : Nat) (also : SameSample) {s : State}
    (h : s.board.phase = .serving ∨ s.board.phase = .resetting ∨ s.board.phase = .partialShutdown) :
    ∃ r, OnlyStopRecord (advance s time) r ∧ exec (.flowLoss time also) s = .next (stoppedByFlow r also) := by
  refine ⟨if also.bothFeeds then advance s time else stopOnce (advance s time) 3 (alsoBits { also with flowLoss := false }), ?_, ?_⟩
  · split
    · exact OnlyStopRecord.refl _
    · exact stopOnce_onlyStopRecord _ _ _
  · show execFlowLoss time also s = _
    unfold execFlowLoss
    obtain hp | hp | hp := h
    all_goals
      simp only [advance_board, hp]
      rfl

/-- Before MOD_READY the sequence waits for flow again, unless a thermal trip of the same sample refuses the start. -/
theorem exec_flowLoss_of_starting (time : Nat) (also : SameSample) {s : State}
    (h : s.board.phase = .rails ∨ s.board.phase = .booted ∨ s.board.phase = .tested) :
    ∃ r, OnlyStopRecord (advance s time) r ∧ exec (.flowLoss time also) s =
      .next (if also.thermal then stoppedByFlow r also else holdFault (loseAll (flowLow (advance s time)) .waiting) true) := by
  refine ⟨if also.thermal && !also.bothFeeds then
    stopOnce (advance s time) 2 (alsoBits { also with flowLoss := true, thermal := false }) else advance s time, ?_, ?_⟩
  · split
    · exact stopOnce_onlyStopRecord _ _ _
    · exact OnlyStopRecord.refl _
  · show execFlowLoss time also s = _
    unfold execFlowLoss
    obtain hp | hp | hp := h
    all_goals
      simp only [advance_board, hp]
      rfl

theorem flowLoss_stops (time : Nat) (also : SameSample) (s : State)
    (h : s.board.phase = .serving ∨ s.board.phase = .resetting ∨ s.board.phase = .partialShutdown) :
    ∃ t, exec (.flowLoss time also) s = .next t ∧ t.board.phase = .stopped ∧ t.board.flowOk = false ∧
      t.board.faultHold = true ∧ t.board.thermtrip = (s.board.thermtrip || also.thermal) ∧ t.board.modReady = false ∧
      t.board.railsUp = false := by
  obtain ⟨r, hr, he⟩ := exec_flowLoss_of_ready time also h
  refine ⟨_, he, rfl, rfl, rfl, ?_, rfl, rfl⟩
  show (r.board.thermtrip || also.thermal) = _
  rw [hr.board]
  rfl

theorem flowLoss_waits_or_refuses (time : Nat) (also : SameSample) (s : State)
    (h : s.board.phase = .rails ∨ s.board.phase = .booted ∨ s.board.phase = .tested) :
    ∃ t, exec (.flowLoss time also) s = .next t ∧ t.board.flowOk = false ∧ t.board.faultHold = true ∧
      t.board.railsUp = false ∧ t.board.phase = (if also.thermal = true then Phase.stopped else Phase.waiting) ∧
      (also.thermal = true → t.board.thermtrip = true) := by
  obtain ⟨r, -, he⟩ := exec_flowLoss_of_starting time also h
  refine ⟨_, he, ?_⟩
  cases ht : also.thermal with
  | true =>
    refine ⟨rfl, rfl, rfl, rfl, fun _ => ?_⟩
    show (r.board.thermtrip || also.thermal) = true
    rw [ht, Bool.or_true]
  | false => exact ⟨rfl, rfl, rfl, rfl, nofun⟩

theorem flowRestored_goes_on (time : Nat) (s : State) :
    ∃ t, exec (.flowRestored time) s = .next t ∧ t.board.flowOk = true ∧ t.board.phase = s.board.phase ∧
      (s.board.phase = .waiting → t.board.faultHold = s.board.feedWaited) ∧ Only [.now, .board] s t := by
  refine ⟨_, rfl, ?_, ?_, fun hp => ?_, only_of_outHeld (execFlowRestored_held (held_self _ s) (by rfl)) rfl⟩
  · split <;> rfl
  · split <;> rfl
  · simp only [advance_board, hp]
    rfl

/-! ## Feeds in use and lost (R28 to R30, R418) -/

/-- The state in which a feed has come into use and the feed warning is judged anew. -/
def feedTaken (s : State) (time k v : Nat) : State := judgeFeeds (putFeed (advance s time) k { volts := v, inUse := true })

theorem feedTaken_board (s : State) (time k v : Nat) :
    (feedTaken s time k v).board = (putFeed (advance s time) k { volts := v, inUse := true }).board := judgeFeeds_board _

theorem feedTaken_now (s : State) (time k v : Nat) : (feedTaken s time k v).now = max s.now time := judgeFeeds_now _

theorem feedTaken_getFeed (s : State) (time k v j : Nat) :
    getFeed (feedTaken s time k v) j = getFeed (putFeed (advance s time) k { volts := v, inUse := true }) j := by
  unfold getFeed
  rw [feedTaken_board]

/-- Beside its feeds the board is as it was. -/
theorem feedTaken_keeps (s : State) (time k v : Nat) : (feedTaken s time k v).board.modEn = s.board.modEn ∧
    (feedTaken s time k v).board.phase = s.board.phase ∧ (feedTaken s time k v).board.fellAt = s.board.fellAt := by
  rw [feedTaken_board, putFeed_board]
  exact ⟨rfl, rfl, rfl⟩

theorem exec_feedInUse {k v : Nat} (time : Nat) (s : State) (hk : k < 2) (hlo : 4800 ≤ v) (hhi : v ≤ 5800) :
    exec (.feedInUse time k v) s = .next (
      let u := feedTaken s time k v
      if u.board.modEn = true ∧ u.board.phase = .dark then startFromRise u
      else if u.board.phase = .waiting ∧ u.board.feedWaited = true then
        { u with board := { u.board with feedWaited := false, faultHold := !u.board.flowOk } }
      else u) := by
  show execFeedInUse time k v s = _
  unfold execFeedInUse
  dsimp only
  rw [if_pos (by simp [hk, hlo, hhi])]
  rfl

theorem feedInUse_takes (time k v : Nat) (s : State) (hk : k < 2) (hlo : 4800 ≤ v) (hhi : v ≤ 5800) :
    ∃ t, exec (.feedInUse time k v) s = .next t ∧ getFeed t k = { volts := v, inUse := true } ∧
      getFeed t (1 - k) = getFeed s (1 - k) ∧
      (s.board.modEn = true → s.board.phase = .dark → t.board.roseAt = max s.now time ∧
        t.board.phase = (match s.board.fellAt with
          | some f => if max s.now time < f + 1000000000 then Phase.discharge else Phase.straps
          | none => Phase.straps)) := by
  have he := exec_feedInUse time s hk hlo hhi
  obtain ⟨hmod, hphase, hfell⟩ := feedTaken_keeps s time k v
  have hfeed : ∀ j, getFeed (nextOf (exec (.feedInUse time k v) s) s) j = getFeed (feedTaken s time k v) j := fun j => by
    rw [he]
    simp only [nextOf]
    split
    · exact startFromRise_getFeed _ j
    split
    · rfl
    · rfl
  refine ⟨_, exec_eq_next_nextOf _ s, ?_, ?_, fun hm hd => ?_⟩
  · rw [hfeed, feedTaken_getFeed, getFeed_putFeed]
  · rw [hfeed, feedTaken_getFeed, getFeed_putFeed_other _ hk]
    rfl
  · rw [he]
    simp only [nextOf]
    rw [if_pos ⟨hmod.trans hm, hphase.trans hd⟩, startFromRise_roseAt, feedTaken_now]
    refine ⟨rfl, ?_⟩
    cases hf : s.board.fellAt with
    | some f => rw [startFromRise_phase_of_fell _ (hfell.trans hf), feedTaken_now]
    | none => exact startFromRise_phase_of_not_fell _ (hfell.trans hf)

/-- The state in which a feed has stopped being in use. -/
def feedDropped (s : State) (time k v : Nat) : State := putFeed (advance s time) k { volts := v, lost := s.board.outputsHeld }

theorem exec_feedLost {k v : Nat} (time : Nat) (also : SameSample) {s : State} (hk : k < 2) (hu : (getFeed s k).inUse = true)
    (hv : v < 4600 ∨ 6000 < v) :
    exec (.feedLost time k v also) s = .next (
      if s.board.modEn && (also.bothFeeds || !(getFeed s (1 - k)).inUse) then powerLoss (feedDropped s time k v) also
      else warnFeed (feedDropped s time k v) k v) := by
  have hm : (feedDropped s time k v).board.modEn = s.board.modEn := by
    unfold feedDropped
    rw [putFeed_board]
    rfl
  have hon : feedOn (feedDropped s time k v) = (getFeed s (1 - k)).inUse := by
    rw [feedOn_iff _ hk]
    unfold feedDropped
    rw [getFeed_putFeed, getFeed_putFeed_other _ hk]
    rfl
  show execFeedLost time k v also s = _
  unfold execFeedLost
  dsimp only
  have hu' : (getFeed (advance s time) k).inUse = true := hu
  rw [if_pos (by simp [hk, hu', hv]), ← hon, ← hm]
  rfl

theorem feedLost_beside_another (time k v : Nat) (also : SameSample) (s : State) (hk : k < 2)
    (hu : (getFeed s k).inUse = true) (hv : v < 4600 ∨ 6000 < v) (hb : also.bothFeeds = false)
    (ho : (getFeed s (1 - k)).inUse = true) :
    ∃ t, exec (.feedLost time k v also) s = .next t ∧ getFeed t k = { volts := v, lost := s.board.outputsHeld } ∧
      getFeed t (1 - k) = getFeed s (1 - k) ∧ t.board.phase = s.board.phase := by
  have he := exec_feedLost time also hk hu hv
  rw [if_neg (by simp [hb, ho])] at he
  have hw := warnFeed_board (feedDropped s time k v) k v
  have hg : ∀ j, getFeed (warnFeed (feedDropped s time k v) k v) j = getFeed (feedDropped s time k v) j :=
    getFeed_congr (by rw [hw]) (by rw [hw])
  refine ⟨_, he, ?_, ?_, ?_⟩
  · rw [hg]
    exact getFeed_putFeed _ _ _
  · rw [hg]
    exact getFeed_putFeed_other _ hk _
  · rw [hw]
    unfold feedDropped
    rw [putFeed_board]
    rfl

theorem feedLost_darkens (time k v : Nat) (also : SameSample) (s : State) (hk : k < 2)
    (hu : (getFeed s k).inUse = true) (hv : v < 4600 ∨ 6000 < v) (hm : s.board.modEn = true)
    (ho : (getFeed s (1 - k)).inUse = false) :
    ∃ t, exec (.feedLost time k v also) s = .next t ∧ t.board.phase = .dark ∧ t.board.outputsHeld = false ∧
      t.board.railsUp = false ∧ t.board.feedA.inUse = false ∧ t.board.feedB.inUse = false := by
  have he := exec_feedLost time also hk hu hv
  rw [if_pos (by simp [hm, ho])] at he
  exact ⟨_, he, rfl, rfl, rfl, rfl, rfl⟩

theorem feedWarning_warns (time k v : Nat) (s : State) (hk : k < 2) (hu : (getFeed s k).inUse = true) (hlo : 4600 ≤ v)
    (hhi : v < 4800) :
    ∃ t, exec (.feedWarning time k v) s = .next t ∧ getFeed t k = { getFeed s k with volts := v } ∧
      getFeed t (1 - k) = getFeed s (1 - k) := by
  have he : exec (.feedWarning time k v) s =
      .next (warnFeed (putFeed (advance s time) k { getFeed s k with volts := v }) k v) := by
    show execFeedWarning time k v s = _
    unfold execFeedWarning
    have hu' : (getFeed (advance s time) k).inUse = true := hu
    exact congrArg _ (if_pos (by simp [hk, hu', hlo, hhi]))
  have hw := warnFeed_board (putFeed (advance s time) k { getFeed s k with volts := v }) k v
  have hg := getFeed_congr (t := warnFeed (putFeed (advance s time) k { getFeed s k with volts := v }) k v)
    (s := putFeed (advance s time) k { getFeed s k with volts := v }) (by rw [hw]) (by rw [hw])
  refine ⟨_, he, ?_, ?_⟩
  · rw [hg, getFeed_putFeed]
  · rw [hg, getFeed_putFeed_other _ hk]
    rfl

theorem feedWaitTimeout_holdsFault (time : Nat) (s : State) (hp : s.board.phase = .waiting) (hf : feedOn s = false)
    (hw : s.board.feedWaited = false) (ht : s.board.roseAt + 10000000000 ≤ max s.now time) :
    ∃ t, exec (.feedWaitTimeout time) s = .next t ∧ t.board.feedWaited = true ∧ t.board.faultHold = true ∧
      t.board.phase = .waiting := by
  have hr := stopOnce_onlyStopRecord (advance s time) 4 0
  have he : ∃ t, exec (.feedWaitTimeout time) s = .next t ∧
      t.board = { (stopOnce (advance s time) 4 0).board with feedWaited := true, faultHold := true } := by
    show ∃ t, execFeedWaitTimeout time s = .next t ∧ _
    unfold execFeedWaitTimeout
    exact ⟨_, congrArg _ (if_pos ⟨hp, hf, hw, ht⟩), rfl⟩
  obtain ⟨t, he, hb⟩ := he
  refine ⟨t, he, by rw [hb], by rw [hb], ?_⟩
  rw [hb]
  show (stopOnce (advance s time) 4 0).board.phase = .waiting
  rw [hr.board]
  exact hp

/-- Settles O40: each clause is what one row of the start sequence does. -/
theorem startBegins : Obligations.StartBegins := by
  unfold Obligations.StartBegins
  refine ⟨modEnRise_begins, dischargeDelayEnd_begins, modEnFall_darkens,
    fun time a b c s hp => ⟨?_, strapSample_faults time a b c s hp⟩,
    fun time also s => ⟨flowLoss_stops time also s, flowLoss_waits_or_refuses time also s⟩, flowRestored_goes_on, feedInUse_takes,
    fun time k v also s hk hu hv => ⟨fun _ => feedLost_beside_another time k v also s hk hu hv,
      feedLost_darkens time k v also s hk hu hv⟩, feedWarning_warns, feedWaitTimeout_holdsFault⟩
  rintro rfl rfl
  exact strapSample_latches time a s hp

end Sys2Proof.Proofs

namespace Sys2Proof.Proofs

open Sys2Proof Sys2Proof.Machine Sys2Proof.Laws

/-! ## The management sideband (R19, R294, R295, R448, R449) -/

theorem spdmRequest_answers (doe sig : Bool) (ask : SpdmAsk) (s : State) (hr : endpointRuns s = true)
    (hl : doe = true → s.link.up = true) :
    ∃ t, exec (.spdmRequest ⟨doe, ask⟩ sig) s = .next t ∧
      t.mgmt = { s.mgmt with
        spdmOk := some (!(sig && s.trust.isUnsealed)), spdmAnswers := s.mgmt.spdmAnswers + 1,
        spdmBytes := if sig && s.trust.isUnsealed then [] else spdmContent s ask } ∧ Only [.mgmt] s t := by
  have he : exec (.spdmRequest ⟨doe, ask⟩ sig) s = .next (modMgmt s (fun m => { m with
      spdmOk := some (!(sig && s.trust.isUnsealed)), spdmAnswers := m.spdmAnswers + 1,
      spdmBytes := if !(sig && s.trust.isUnsealed) then spdmContent s ask else [] })) :=
    congrArg _ (if_pos (by cases doe <;> simp_all))
  refine ⟨_, he, ?_, only_of_outHeld (execSpdmRequest_held (held_self _ s) (by rfl)) he⟩
  unfold modMgmt
  cases sig && s.trust.isUnsealed <;> rfl

theorem setEndpointId_takes (e : Nat) (s : State) (hr : endpointRuns s = true ∨ s.board.phase = .recoveryHold) (hlo : 1 ≤ e)
    (hhi : e ≤ 254) :
    ∃ t, exec (.setEndpointId e) s = .next t ∧ t.mgmt = { s.mgmt with eid := e } ∧ Only [.mgmt] s t := by
  have hlo' : 0 < e := hlo
  have hhi' : e < 255 := by omega
  have he : exec (.setEndpointId e) s = .next (modMgmt s (fun m => { m with eid := e })) :=
    congrArg _ (if_pos (by simp [hr, hlo', hhi']))
  exact ⟨_, he, rfl, only_of_outHeld (execSetEndpointId_held (held_self _ s) (by rfl)) he⟩

theorem setEventReceiver_takes (r : Nat) (s : State) (hr : endpointRuns s = true) :
    ∃ t, exec (.setEventReceiver r) s = .next t ∧ t.mgmt = { s.mgmt with receiver := some r } ∧ Only [.mgmt] s t := by
  have he : exec (.setEventReceiver r) s = .next (modMgmt s (fun m => { m with receiver := some r })) := congrArg _ (if_pos hr)
  exact ⟨_, he, rfl, only_of_outHeld (execSetEventReceiver_held (held_self _ s) (by rfl)) he⟩

/-- A warning that stays after an acknowledgement is acknowledged, and its condition has not ended (R318). -/
theorem mem_ackWarnings {s : State} {w : Warning} (hw : w ∈ (ackWarnings s).blotter.warnings) :
    w.acked = true ∧ w.ended = false := by
  unfold ackWarnings at hw
  simp only [List.mem_filter, List.mem_map] at hw
  obtain ⟨⟨x, -, rfl⟩, hkept⟩ := hw
  exact ⟨rfl, by simpa using hkept⟩

/-- The oldest event held is polled. -/
def eventPolled (s : State) : State := modMgmt s (fun m => { m with polled := m.poll.head?, poll := m.poll.drop 1 })

theorem pollEvent_polls (time : Nat) (s : State) (hr : endpointRuns s = true) :
    (∃ t, exec (.pollEvent ⟨time, false⟩) s = .next t ∧
        t.mgmt = { s.mgmt with polled := s.mgmt.poll.head?, poll := s.mgmt.poll.drop 1 } ∧ Only [.now, .mgmt] s t) ∧
      (∃ t, exec (.pollEvent ⟨time, true⟩) s = .next t ∧
        t.mgmt = { s.mgmt with polled := s.mgmt.poll.head?, poll := s.mgmt.poll.drop 1 } ∧
        (∀ w ∈ t.blotter.warnings, w.acked = true ∧ w.ended = false) ∧ Only [.now, .blotter, .mgmt] s t) := by
  have he : ∀ ack, exec (.pollEvent ⟨time, ack⟩) s =
      .next (if ack then ackWarnings (eventPolled (advance s time)) else eventPolled (advance s time)) :=
    fun ack => congrArg _ (if_pos hr)
  refine ⟨⟨_, he false, rfl, ?_⟩, ⟨_, he true, rfl, fun w hw => mem_ackWarnings hw,
    only_of_outHeld (execPollEvent_held (held_self _ s) (by rfl)) (he true)⟩⟩
  exact only_append (advance_only s time) (setMgmt_only _ _)

/-- A new second for the limit changes nothing that is sent, held or still to be sent. -/
theorem rollSecond_keeps (m : Mgmt) (now : Nat) : (rollSecond m now).toSend = m.toSend ∧
    (rollSecond m now).receiver = m.receiver ∧ (rollSecond m now).poll = m.poll ∧ (rollSecond m now).sent = m.sent := by
  unfold rollSecond
  split
  · exact ⟨rfl, rfl, rfl, rfl⟩
  · exact ⟨rfl, rfl, rfl, rfl⟩

/-- With no receiver set the oldest entry is held for polling. -/
theorem sendEvent_of_unheard (s : State) {m : Mgmt} {e : Entry} {rest : List Entry} (hs : m.toSend = e :: rest)
    (hn : m.receiver = none) : (sendEvent s m).mgmt.poll = m.poll ++ [e] ∧ (sendEvent s m).mgmt.toSend = rest ∧
      (sendEvent s m).mgmt.sent = m.sent := by
  unfold sendEvent
  rw [hs]
  dsimp only
  rw [if_pos (by rw [hn]; rfl)]
  exact ⟨rfl, rfl, rfl⟩

/-- With a receiver set it is sent while the second's limit allows it. -/
theorem sendEvent_of_heard (s : State) {m : Mgmt} {e : Entry} {rest : List Entry} (hs : m.toSend = e :: rest)
    (hn : m.receiver.isSome = true) (hl : m.inSecond < 100) : (sendEvent s m).mgmt.sent = m.sent ++ [e] ∧
      (sendEvent s m).mgmt.toSend = rest ∧ (sendEvent s m).mgmt.poll = m.poll ∧
      (sendEvent s m).mgmt.inSecond = m.inSecond + 1 := by
  unfold sendEvent
  rw [hs]
  dsimp only
  rw [if_neg (by simpa [Option.isSome_iff_ne_none] using hn), if_pos hl]
  exact ⟨rfl, rfl, rfl, rfl⟩

theorem exec_pldmEventSend (time : Nat) {s : State} (hr : endpointRuns s = true) :
    exec (.pldmEventSend time) s = .next (sendEvent (advance s time) (rollSecond s.mgmt (max s.now time))) :=
  congrArg _ (if_pos hr)

theorem pldmEventSend_holds (time : Nat) (e : Entry) (rest : List Entry) (s : State) (hr : endpointRuns s = true)
    (hs : s.mgmt.toSend = e :: rest) (hn : s.mgmt.receiver = none) :
    ∃ t, exec (.pldmEventSend time) s = .next t ∧ t.mgmt.poll = s.mgmt.poll ++ [e] ∧ t.mgmt.toSend = rest ∧
      t.mgmt.sent = s.mgmt.sent := by
  obtain ⟨hsend, hreceiver, hpoll, hsent⟩ := rollSecond_keeps s.mgmt (max s.now time)
  obtain ⟨hpolled, hrest, hkept⟩ := sendEvent_of_unheard (advance s time) (hsend.trans hs) (hreceiver.trans hn)
  exact ⟨_, exec_pldmEventSend time hr, hpolled.trans (congrArg (· ++ [e]) hpoll), hrest, hkept.trans hsent⟩

theorem pldmEventSend_sends (time : Nat) (e : Entry) (rest : List Entry) (s : State) (hr : endpointRuns s = true)
    (hs : s.mgmt.toSend = e :: rest) (hn : s.mgmt.receiver.isSome = true)
    (hl : (rollSecond s.mgmt (max s.now time)).inSecond < 100) :
    ∃ t, exec (.pldmEventSend time) s = .next t ∧ t.mgmt.sent = s.mgmt.sent ++ [e] ∧ t.mgmt.toSend = rest ∧
      t.mgmt.poll = s.mgmt.poll ∧ t.mgmt.inSecond = (rollSecond s.mgmt (max s.now time)).inSecond + 1 := by
  obtain ⟨hsend, hreceiver, hpoll, hsent⟩ := rollSecond_keeps s.mgmt (max s.now time)
  obtain ⟨hout, hrest, hkept, hcount⟩ := sendEvent_of_heard (advance s time) (hsend.trans hs)
    ((congrArg Option.isSome hreceiver).trans hn) hl
  exact ⟨_, exec_pldmEventSend time hr, hout.trans (congrArg (· ++ [e]) hsent), hrest, hkept.trans hpoll, hcount⟩

/-- The firmware runs in no recovery hold. -/
theorem not_recoveryHold_of_governorRuns {s : State} (h : governorRuns s = true) : s.board.phase ≠ .recoveryHold := by
  intro hp
  unfold governorRuns at h
  rw [hp] at h
  exact absurd h (by decide)

theorem pldmFirmwareUpdate_stages (time : Nat) (g : FwImage) (s : State) (hi : imageOk s g = true)
    (hr : governorRuns s = true) (hs : s.fw.staging = none) (hh : s.fw.handover = false) (hp : s.fw.pldm = false) :
    ∃ t, exec (.pldmFirmwareUpdate time g) s = .next t ∧
      t.fw = { s.fw with staged := some g, handover := true, pldm := true } ∧ Only [.now, .fw] s t := by
  have hi' : ¬ imageOk (advance s time) g = false := by rw [Bool.not_eq_false]; exact hi
  have hr' : governorRuns (advance s time) = true := hr
  have he : exec (.pldmFirmwareUpdate time g) s =
      .next { advance s time with fw := { s.fw with staged := some g, handover := true, pldm := true } } := by
    show execPldmFirmwareUpdate time g s = _
    unfold execPldmFirmwareUpdate
    dsimp only
    rw [if_neg hi', if_neg (not_recoveryHold_of_governorRuns hr'), if_pos (by simp [hr', hs, hh, hp])]
    rfl
  exact ⟨_, he, rfl, only_append (advance_only s time) (setFw_only _ _)⟩

theorem alertResponseAddress_answers (time : Nat) (s : State) (h : s.board.smbAlert = true) :
    ∃ t, exec (.alertResponseAddress time) s = .next t ∧ t.board = { s.board with smbAlert := false } ∧
      t.mgmt = { s.mgmt with arpAnswer := some (smbusAddress s), arpAnswers := s.mgmt.arpAnswers + 1 } :=
  ⟨_, congrArg Host.Outcome.next (if_pos h), rfl, rfl⟩

/-- Settles O39: each clause is what one row of the sideband does. -/
theorem sidebandTalks : Obligations.SidebandTalks := by
  unfold Obligations.SidebandTalks
  exact ⟨spdmRequest_answers, setEndpointId_takes, setEventReceiver_takes, pollEvent_polls,
    fun time e rest s hr hs => ⟨pldmEventSend_holds time e rest s hr hs, pldmEventSend_sends time e rest s hr hs⟩,
    pldmFirmwareUpdate_stages, alertResponseAddress_answers⟩

end Sys2Proof.Proofs

namespace Sys2Proof.Proofs

open Sys2Proof Sys2Proof.Machine Sys2Proof.Laws

/-! ## Preparations (R447) -/

/-- From `s` to `t` nothing changes of the board but the list of cartridges under preparation. -/
def OnlyPreparing (s t : State) : Prop := t.board = { s.board with preparing := t.board.preparing }

theorem OnlyPreparing.refl (s : State) : OnlyPreparing s s := rfl

theorem OnlyPreparing.trans {s t u : State} (h1 : OnlyPreparing s t) (h2 : OnlyPreparing t u) : OnlyPreparing s u := by
  unfold OnlyPreparing at *
  rw [h2, h1]

theorem foldl_onlyPreparing {α : Type} {f : State → α → State} (hf : ∀ s x, OnlyPreparing s (f s x)) (l : List α) (s : State) :
    OnlyPreparing s (l.foldl f s) := by
  induction l generalizing s with
  | nil => exact OnlyPreparing.refl s
  | cons x l ih => exact (hf s x).trans (ih (f s x))

theorem emptySites_board (s : State) (ds : List Nat) : (ds.foldl emptySite s).board = s.board :=
  (foldl_held (fun _ _ h => emptySite_held h (by rfl)) (held_self [.link, .mailbox, .serving, .images, .vellum] s)).only
    .board (by decide)

/-- The work of a cartridge's dies moves away, and the cartridge joins those under preparation. -/
theorem startPrepare_board (s : State) (c : Nat) :
    (startPrepare s c).board = { s.board with preparing := s.board.preparing ++ [c] } := by
  have hb := (forfeitAll_held (bindPair_held (bindPair_held (held_self [.serving, .images, .fabric] s) (by rfl) (c := c) (n := 0))
    (by rfl) (c := c) (n := 1)) (by rfl) (code := 6)).only .board (by decide)
  rw [Part.same] at hb
  unfold startPrepare
  dsimp only
  rw [emptySites_board, hb]

theorem prepareFailed_onlyPreparing (s : State) (c : Nat) : OnlyPreparing s (prepareFailed s c) := by
  unfold prepareFailed
  dsimp only
  split
  · unfold OnlyPreparing
    rw [startPrepare_board]
  · exact OnlyPreparing.refl s

theorem prepareAllFailed_onlyPreparing (s : State) : OnlyPreparing s (prepareAllFailed s) :=
  foldl_onlyPreparing prepareFailed_onlyPreparing _ s

/-! ## The coolant (R26, R408, R409) -/

/-- The coolant breaks some limit of R408. -/
theorem coolantBits_ne_zero (s : State) (inlet : Int) (power : Nat) : coolantBits s inlet power ≠ 0 ↔
    inlet < 72 ∨ 128 < inlet ∨ 400 < s.thermal.flow ∨ s.thermal.flow < 140 ∨
      s.thermal.flow * 17000 < 280 * power ∨ s.thermal.flowStale = true := by
  have hbit : ∀ b, bit b ≠ 0 ↔ b = true := fun b => by cases b <;> decide
  have hsum : ∀ x y z : Bool, bit x + 2 * bit y + 4 * bit z ≠ 0 ↔ x = true ∨ y = true ∨ z = true := fun x y z => by
    rw [← hbit x, ← hbit y, ← hbit z]
    omega
  unfold coolantBits
  dsimp only
  rw [hsum]
  simp only [Bool.or_eq_true, decide_eq_true_eq, or_assoc]

/-- The state in which the coolant's limits have been judged. -/
def coolantJudged (s : State) (time : Nat) (inlet : Int) (power : Nat) : State :=
  { advance s time with thermal := { s.thermal with outside := decide (coolantBits s inlet power ≠ 0), power := power } }

theorem exec_coolantJudge (time : Nat) (inlet outlet : Int) (power : Nat) {s : State} (hr : governorRuns s = true) :
    exec (.coolantJudge time inlet outlet power) s = .next (
      let u := coolantJudged s time inlet power
      if coolantBits s inlet power = 0 then (if s.thermal.outside then endWarning u 2 0xFFFF else u)
      else if s.thermal.outside then forfeitAll u 2
      else note (warn (forfeitAll u 2) 2 0xFFFF) 0x0407 2 0xFFFF s.thermal.flow (coolantBits s inlet power)) :=
  congrArg Host.Outcome.next (if_pos hr)

theorem coolantJudge_judges (time : Nat) (inlet outlet : Int) (power : Nat) (s : State) (hr : governorRuns s = true) :
    ∃ t, exec (.coolantJudge time inlet outlet power) s = .next t ∧
      (t.thermal.outside = true ↔
        inlet < 72 ∨ 128 < inlet ∨ 400 < s.thermal.flow ∨ s.thermal.flow < 140 ∨
          s.thermal.flow * 17000 < 280 * power ∨ s.thermal.flowStale = true) ∧
      t.thermal.power = power ∧ t.thermal.pairs = s.thermal.pairs := by
  have hforfeit : ∀ u, Held [.board, .link, .mailbox, .serving, .blotter, .mgmt] u (forfeitAll u 2) :=
    fun u => forfeitAll_held (held_self _ u) (by rfl)
  have ht : (nextOf (exec (.coolantJudge time inlet outlet power) s) s).thermal = (coolantJudged s time inlet power).thermal := by
    rw [exec_coolantJudge time inlet outlet power hr]
    simp only [nextOf]
    split
    · split
      · exact (endWarning_held (held_self [.blotter] _) (by rfl)).only .thermal (by decide)
      · rfl
    split
    · exact (hforfeit _).only .thermal (by decide)
    · exact (note_held (warn_held (hforfeit _) (by rfl)) (by rfl)).only .thermal (by decide)
  refine ⟨_, exec_eq_next_nextOf _ s, ?_, by rw [ht]; rfl, by rw [ht]; rfl⟩
  rw [ht, ← coolantBits_ne_zero]
  exact decide_eq_true_iff

theorem coolingCapOf_mod (s : State) (inlet outlet : Int) (power : Nat) (steady : Bool) :
    coolingCapOf s inlet outlet power steady % 10 = 0 := by
  unfold coolingCapOf tens
  exact Nat.mul_mod_left _ _

/-- The cooling cap and the power of a sample are taken over. -/
def capTaken (s : State) (time cap power : Nat) : State :=
  { advance s time with thermal := { s.thermal with coolingCap := cap, power := power } }

/-- The allowance follows a revised cap. -/
def capFollowed (s : State) (time cap power : Nat) : State :=
  judgeReach (dropAllowance (capTaken s time cap power) (target (advance s time)))

theorem exec_coolingCapRevise (time : Nat) (inlet outlet : Int) (power : Nat) (steady : Bool) {s : State}
    (hr : s.board.modReady = true) :
    exec (.coolingCapRevise time inlet outlet power steady) s = .next (
      let cap := coolingCapOf s inlet outlet power steady
      let w := capFollowed s time cap power
      if w.power.floor ≠ 0 ∧ cap < w.power.floor then forfeitAll w 2 else w) :=
  congrArg Host.Outcome.next (if_pos hr)

theorem coolingCapRevise_takes (time : Nat) (inlet outlet : Int) (power : Nat) (steady : Bool) (s : State)
    (hr : s.board.modReady = true) :
    ∃ t, exec (.coolingCapRevise time inlet outlet power steady) s = .next t ∧
      t.thermal.coolingCap = coolingCapOf s inlet outlet power steady ∧ t.thermal.coolingCap ≤ 18500 ∧
      t.thermal.coolingCap % 10 = 0 := by
  have hw : ∀ cap, Held [.board, .link, .mailbox, .serving, .power, .blotter, .mgmt] (capTaken s time cap power)
      (capFollowed s time cap power) := fun cap =>
    judgeReach_held (dropAllowance_held (held_self _ (capTaken s time cap power)) (by rfl)) (by rfl)
  have hcap : (nextOf (exec (.coolingCapRevise time inlet outlet power steady) s) s).thermal.coolingCap =
      coolingCapOf s inlet outlet power steady := by
    rw [exec_coolingCapRevise time inlet outlet power steady hr]
    simp only [nextOf]
    split
    · exact congrArg Thermal.coolingCap ((forfeitAll_held (hw _) (by rfl)).only .thermal (by decide))
    · exact congrArg Thermal.coolingCap ((hw _).only .thermal (by decide))
  refine ⟨_, exec_eq_next_nextOf _ s, hcap, ?_, ?_⟩
  · rw [hcap]
    exact coolingCapOf_le s inlet outlet power steady
  · rw [hcap]
    exact coolingCapOf_mod s inlet outlet power steady

theorem coolantFlowWrite_takes (time flow : Nat) (s : State) (hr : governorRuns s = true) :
    ∃ t, exec (.coolantFlowWrite time flow) s = .next t ∧
      t.thermal = { s.thermal with flow := flow, flowAt := max s.now time, flowStale := false } ∧ Only [.now, .thermal] s t := by
  have he : exec (.coolantFlowWrite time flow) s = .next { advance s time with
      thermal := { s.thermal with flow := flow, flowAt := max s.now time, flowStale := false } } :=
    congrArg Host.Outcome.next (if_pos hr)
  exact ⟨_, he, rfl, only_of_outHeld (execCoolantFlowWrite_held (held_self _ s) (by rfl)) he⟩

theorem flowReadingStale_marks (time : Nat) (s : State) (hr : governorRuns s = true) (hf : s.thermal.flowStale = false)
    (ht : max s.thermal.flowAt s.board.roseAt + 10000000000 ≤ max s.now time) :
    ∃ t, exec (.flowReadingStale time) s = .next t ∧ t.thermal = { s.thermal with flowStale := true } := by
  have hr' : governorRuns (advance s time) = true := hr
  have ht' : max s.thermal.flowAt s.board.roseAt + 10000000000 ≤ (advance s time).now := ht
  have he : exec (.flowReadingStale time) s =
      .next (forfeitAll { advance s time with thermal := { s.thermal with flowStale := true } } 2) := by
    show execFlowReadingStale time s = _
    unfold execFlowReadingStale
    exact congrArg Host.Outcome.next (if_pos (by simp only [hr', advance_thermal, advance_board, hf, ht']; rfl))
  exact ⟨_, he, (forfeitAll_held (held_self [.serving] _) (by rfl)).only .thermal (by decide)⟩

/-! ## The return from a partial shutdown (R414) -/

/-- The compute rails are up again, the limits and the governor stand at their start, and nothing is loaded yet. -/
def railsBack (s : State) : State :=
  let sites := tmap {} (fun _ v => ({ v with selfRefresh := false, controllerOff := false } : Site)) s.vellum.sites
  { s with
    vellum := { s.vellum with sites := sites }, board := { s.board with thermtrip := false, computeRails := true },
    thermal := { s.thermal with shutdown := false, coolingCap := 18500 },
    power := { s.power with state := .active, descending := false, moved := 0, idleSince := none } }

/-- The slots are loaded, the clusters have come up, and MOD_READY has risen. -/
def backInService (s : State) : State :=
  let w := wakeStep (inrushAll (reloadSlots (railsBack s)))
  { w with board := { w.board with phase := .serving, modReady := true } }

theorem returnFromShutdown_eq (s : State) :
    returnFromShutdown s = prepareAllFailed (reportStops (endShutdownEntry (backInService s))) := rfl

theorem backInService_parts (s : State) :
    (backInService s).board = { (railsBack s).board with phase := .serving, modReady := true } ∧
      (backInService s).thermal = (railsBack s).thermal ∧ (backInService s).power.state = .active := by
  have h : Held [.serving, .images, .fabric] (railsBack s) (inrushAll (reloadSlots (railsBack s))) :=
    inrushAll_held (reloadSlots_held (held_self _ (railsBack s)) (by rfl)) (by rfl)
  have hboard : (inrushAll (reloadSlots (railsBack s))).board = (railsBack s).board := h.only .board (by decide)
  have hpower : (inrushAll (reloadSlots (railsBack s))).power = (railsBack s).power := h.only .power (by decide)
  refine ⟨?_, h.only .thermal (by decide), ?_⟩
  · unfold backInService wakeStep
    dsimp only
    rw [hboard]
  · unfold backInService wakeStep
    dsimp only
    rw [hpower]
    rfl

/-- What the return leaves after MOD_READY has risen: reports, and the preparation of failed cartridges. -/
theorem returnFromShutdown_parts (s : State) : OnlyPreparing (backInService s) (returnFromShutdown s) ∧
    (returnFromShutdown s).thermal = (backInService s).thermal ∧ (returnFromShutdown s).power = (backInService s).power := by
  rw [returnFromShutdown_eq]
  have h : Held [.nvm, .link, .mailbox, .blotter, .mgmt] (backInService s) (reportStops (endShutdownEntry (backInService s))) :=
    reportStops_held (endShutdownEntry_held (held_self _ (backInService s)) (by rfl)) (by rfl)
  have hp := (prepareAllFailed_held (held_self [.board, .link, .mailbox, .serving, .images, .vellum, .fabric]
    (reportStops (endShutdownEntry (backInService s)))) (by rfl)).only
  refine ⟨?_, (hp .thermal (by decide)).trans (h.only .thermal (by decide)),
    (hp .power (by decide)).trans (h.only .power (by decide))⟩
  have hb := prepareAllFailed_onlyPreparing (reportStops (endShutdownEntry (backInService s)))
  have hboard : (reportStops (endShutdownEntry (backInService s))).board = (backInService s).board := h.only .board (by decide)
  unfold OnlyPreparing at *
  rw [hb, hboard]

theorem exec_thermalAck {s : State} {h : Hdr} (ha : Accepted s h opThermalAck) (hs : s.thermal.shutdown = true)
    (hc : ∀ kv ∈ s.thermal.pairs, isSensed kv.1 = true → sensorsRead s kv.1 = true → protReading s kv.1 < 240) :
    exec (.thermalAck h) s = .next (done (returnFromShutdown (advance s h.time)) h 0) := by
  have hcool : (advance s h.time).thermal.pairs.any (fun kv => isSensed kv.1 && sensorsRead (advance s h.time) kv.1 &&
      decide (240 ≤ protReading (advance s h.time) kv.1)) = false := by
    rw [List.any_eq_false]
    intro kv hkv hhot
    simp only [Bool.and_eq_true, decide_eq_true_eq] at hhot
    obtain ⟨⟨hsensed, hread⟩, hwarm⟩ := hhot
    exact absurd hwarm (not_le.mpr (hc kv hkv hsensed hread))
  show execThermalAck h s = _
  unfold execThermalAck
  rw [runCommand_accepted ha rfl]
  rw [if_neg (by simp [hs]), if_neg (by simp only [hcool, Bool.false_eq_true, not_false_eq_true])]

theorem thermalAck_returns (h : Hdr) (s : State) (ha : Accepted s h opThermalAck) (hs : s.thermal.shutdown = true)
    (hc : ∀ kv ∈ s.thermal.pairs, isSensed kv.1 = true → sensorsRead s kv.1 = true → protReading s kv.1 < 240) :
    ∃ t, exec (.thermalAck h) s = .next t ∧ t.board.phase = .serving ∧ t.board.modReady = true ∧
      t.board.thermtrip = false ∧ t.board.computeRails = true ∧ t.thermal.shutdown = false ∧
      t.thermal.coolingCap = 18500 ∧ t.power.state = .active := by
  have hd := (done_held (held_self [.link, .mailbox, .blotter, .mgmt] (returnFromShutdown (advance s h.time))) (by rfl)
    (h := h) (result := 0)).only
  obtain ⟨hprep, hthermal, hpower⟩ := returnFromShutdown_parts (advance s h.time)
  obtain ⟨hboard, hwarm, hactive⟩ := backInService_parts (advance s h.time)
  have hb := (hd .board (by decide)).trans hprep
  have ht := (hd .thermal (by decide)).trans (hthermal.trans hwarm)
  have hp := (hd .power (by decide)).trans hpower
  rw [hboard] at hb
  refine ⟨_, exec_thermalAck ha hs hc, by rw [hb], by rw [hb], by rw [hb]; rfl, by rw [hb]; rfl, by rw [ht]; rfl,
    by rw [ht]; rfl, by rw [hp]; exact hactive⟩

/-- Settles O28: the coolant rows, and the return from a partial shutdown. -/
theorem coolantAndTheReturn : Obligations.CoolantAndTheReturn := by
  unfold Obligations.CoolantAndTheReturn
  exact ⟨coolantJudge_judges, coolingCapRevise_takes, coolantFlowWrite_takes, flowReadingStale_marks, thermalAck_returns⟩

end Sys2Proof.Proofs

namespace Sys2Proof.Proofs

open Sys2Proof Sys2Proof.Machine Sys2Proof.Laws

/-! ## Cartridges (R31 to R34, R447) -/

theorem fitsWithout_advance (s : State) (time c : Nat) : fitsWithout (advance s time) c = fitsWithout s c := rfl

theorem cartridgePrepare_prepares (h : Hdr) (c : Nat) (s : State) (ha : Accepted s h opCartridgePrepare) (hc : c < 20)
    (hm : imagesMoving s = false) (hf : fitsWithout s c = true) (hp : s.board.preparing.contains c = false) :
    ∃ t, exec (.cartridgePrepare h c) s = .next t ∧ t.board = { s.board with preparing := s.board.preparing ++ [c] } := by
  have he : exec (.cartridgePrepare h c) s =
      .next (startPrepare (startLater (advance s h.time) h opCartridgePrepare c) c) := by
    have hm' : imagesMoving (advance s h.time) = false := hm
    show execCartridgePrepare h c s = _
    unfold execCartridgePrepare
    rw [runCommand_accepted ha (by simp [hc])]
    rw [if_neg (by simp [hm']), fitsWithout_advance, if_neg (by simp [hf]), advance_board, if_neg (ne_true_of_eq_false hp)]
  have hl : (startLater (advance s h.time) h opCartridgePrepare c).board = s.board :=
    startLater_only _ h opCartridgePrepare c .board (by decide)
  refine ⟨_, he, ?_⟩
  rw [startPrepare_board, hl]

/-- The map keeps the dies that are dark when it is written anew. -/
@[simp] theorem mapChanged_darkDies (s : State) : (mapChanged s).map.darkDies = s.map.darkDies := rfl

theorem getCart_congr {s t : State} (h : t.board = s.board) (c : Nat) : getCart t c = getCart s c := by
  unfold getCart
  rw [h]

theorem mapChanged_board (s : State) : (mapChanged s).board = s.board :=
  (mapChanged_held (held_self [.map] s) (by rfl)).only .board (by decide)

/-- Clusters that stop and go dark. -/
def stopDark (s : State) (us : List Nat) : State :=
  us.foldl (fun s u => putIsland s u { stopIsland (getIsland s u) with dark := true }) s

theorem stopDark_only (s : State) (us : List Nat) : Only [.fabric] s (stopDark s us) :=
  (foldl_held (fun _ _ h => putIsland_held h (by rfl)) (held_self [.fabric] s)).only

/-- The dark dies after both rails of a cartridge are off. -/
theorem darkenPair_darkDies (s : State) (c : Nat) : (darkenPair s c).map.darkDies =
    s.map.darkDies ++ (cartDies c).filter (fun d => !(s.map.darkDies.contains d)) := by
  have hmap : (stopDark s (cartClusters c)).map = s.map := stopDark_only s _ .map (by decide)
  rw [← hmap]
  rfl

theorem darkenPair_board (s : State) (c : Nat) : getCart (darkenPair s c) c = { getCart s c with lamp := .amber, powered := false } ∧
    (darkenPair s c).board.preparing = s.board.preparing.filter (fun x => x != c) := by
  have hboard : (stopDark s (cartClusters c)).board = s.board := stopDark_only s _ .board (by decide)
  unfold stopDark at hboard
  unfold darkenPair
  dsimp only
  rw [getCart_congr (mapChanged_board _), mapChanged_board, getCart_putCart]
  unfold getCart
  dsimp only
  rw [hboard]
  exact ⟨rfl, by rfl⟩

/-- The time that a started command has taken is read from the host time and the mailbox. -/
theorem msSince_congr {s t : State} (hn : t.now = s.now) (hm : t.mailbox = s.mailbox) (opcode arg : Nat) :
    msSince t opcode arg = msSince s opcode arg := by
  unfold msSince findStarted
  rw [hn, hm]

/-- A command that ends changes neither board nor map. -/
theorem completeStarted_board (v : State) (opcode arg st r : Nat) : (completeStarted v opcode arg st r).board = v.board :=
  (completeStarted_held (held_self [.link, .mailbox, .power, .blotter, .mgmt] v) (by rfl)).only .board (by decide)

theorem completeStarted_map (v : State) (opcode arg st r : Nat) : (completeStarted v opcode arg st r).map = v.map :=
  (completeStarted_held (held_self [.link, .mailbox, .power, .blotter, .mgmt] v) (by rfl)).only .map (by decide)

theorem cartridgePrepareDone_darkens (time c : Nat) (s : State) (hp : s.board.preparing.contains c = true)
    (hl : pagesLeft s c = false) :
    ∃ t, exec (.cartridgePrepareDone time c) s = .next t ∧
      getCart t c = { getCart s c with lamp := .amber, powered := false } ∧
      (∀ d ∈ cartDies c, t.map.darkDies.contains d = true) ∧
      (∀ d, s.map.darkDies.contains d = true → t.map.darkDies.contains d = true) ∧
      t.board.preparing = s.board.preparing.filter (fun x => x != c) ∧
      Ended s t 0x0606 c stSuccess (msSince (advance s time) 0x0606 c) := by
  have hv : Held [.board, .fabric, .map] (advance s time) (darkenPair (advance s time) c) :=
    darkenPair_held (held_self _ (advance s time)) (by rfl)
  have hms : msSince (darkenPair (advance s time) c) 0x0606 c = msSince (advance s time) 0x0606 c :=
    msSince_congr (hv.only .now (by decide)) (hv.only .mailbox (by decide)) 0x0606 c
  have he : exec (.cartridgePrepareDone time c) s = .next (completeStarted (darkenPair (advance s time) c) 0x0606 c stSuccess
      (msSince (advance s time) 0x0606 c)) := by
    rw [← hms]
    exact congrArg Host.Outcome.next (if_pos ⟨hp, hl⟩)
  obtain ⟨hcart, hpreparing⟩ := darkenPair_board (advance s time) c
  refine ⟨_, he, ?_, fun d hd => ?_, fun d hd => ?_, ?_, completeStarted_ended (hv.only .mailbox (by decide)) _ _ _ _ (by decide)⟩
  · rw [getCart_congr (completeStarted_board _ _ _ _ _), hcart]
    rfl
  · rw [completeStarted_map, darkenPair_darkDies]
    by_cases hs : (advance s time).map.darkDies.contains d = true
    · simp only [List.contains_iff_mem, List.mem_append] at hs ⊢
      exact .inl hs
    · rw [List.contains_iff_mem, List.mem_append, List.mem_filter]
      exact .inr ⟨hd, by simpa using hs⟩
  · rw [completeStarted_map, darkenPair_darkDies, List.contains_iff_mem, List.mem_append]
    exact .inl (List.contains_iff_mem.mp hd)
  · rw [completeStarted_board, hpreparing]
    rfl

theorem inrushPair_board (s : State) (c : Nat) : (inrushPair s c).board = s.board :=
  (inrushPair_held (held_self [.fabric] s) (by rfl)).only .board (by decide)

theorem cartridgeRestore_powers (h : Hdr) (c : Nat) (s : State) (ha : Accepted s h opCartridgeRestore) (hc : c < 20)
    (hg : (getCart s c).lamp = .green) :
    ∃ t, exec (.cartridgeRestore h c) s = .next t ∧ getCart t c = { getCart s c with powered := true } ∧
      Started t h opCartridgeRestore c := by
  obtain ⟨t, he, honly, hstarted⟩ := starts (c := .cartridgeRestore h c)
    (v := inrushPair (putCart (advance s h.time) c { getCart s c with powered := true }) c) (arg := c) rfl ha
    (by simp [hc]) (if_neg (not_not.mpr hg))
  refine ⟨t, he, ?_, hstarted⟩
  rw [getCart_congr (honly .board (by decide)), getCart_congr (inrushPair_board _ c), getCart_putCart]

/-- Both dies of a cartridge after their self-test and training: out of the dark, their clusters judged, their sites zeroed. -/
def testedPair (s : State) (c : Nat) (r : SelfTestResult) : State :=
  let ds := cartDies c
  let s := { s with map := { s.map with darkDies := s.map.darkDies.filter (fun d => !(ds.contains d)) } }
  let s := r.badSegments.foldl foundSegments s
  let edges := r.badSublinks.foldl (fun t x =>
    tmod ({} : Edge) t x.1 (fun e => { e with bad := e.bad ||| BitVec.ofNat 16 x.2 })) s.fabric.edges
  let s := { s with fabric := { s.fabric with edges := edges } }
  let s := (cartClusters c).foldl (fun s u => judgeCluster r.failedClusters (putIsland s u {}) u) s
  let s := ds.foldl (fun s d =>
    let s := clearUnits s d 0 siteUnits
    putSite s d { lost := channelsDead s d }) s
  let pages := s.vellum.pages.filter (fun kv => !(ds.contains (pageSite kv.1)) || decide (kv.2.state = .retired))
  { s with vellum := { s.vellum with pages := pages } }

/-- The cartridge is in use again, with the lamp that its phases give it. -/
def takenBack (s : State) (c : Nat) : State :=
  let v := getCart s c
  mapChanged (putCart s c { v with lamp := usedLamp v, powered := true })

/-- The slots take the clusters and sites of a cartridge back. -/
def backInSlots (s : State) (c : Nat) : State :=
  copyBack (copyBack (releasePair (releasePair s c 0) c 1) 0 (cartDies c)) 1 (cartDies c)

theorem takenBack_held (s : State) (c : Nat) : Held [.board, .map] s (takenBack s c) :=
  mapChanged_held (putCart_held (held_self _ s) (by rfl)) (by rfl)

theorem getCart_takenBack (s : State) (c : Nat) :
    getCart (takenBack s c) c = { getCart s c with lamp := usedLamp (getCart s c), powered := true } :=
  (getCart_congr (mapChanged_board _) c).trans (getCart_putCart _ _ _)

theorem takenBack_darkDies (s : State) (c : Nat) : (takenBack s c).map.darkDies = s.map.darkDies := rfl

theorem backInSlots_only (s : State) (c : Nat) : Only [.serving, .images, .fabric] s (backInSlots s c) :=
  (copyBack_held (copyBack_held (releasePair_held (releasePair_held (held_self _ _) (by rfl)) (by rfl)) (by rfl)) (by rfl)).only

/-- Dies leave the dark. -/
def undarken (s : State) (ds : List Nat) : State :=
  { s with map := { s.map with darkDies := s.map.darkDies.filter (fun d => !(ds.contains d)) } }

theorem testedPair_only (s : State) (c : Nat) {r : SelfTestResult} (hr : r.badSegments = []) :
    Only [.fabric, .vellum] (undarken s (cartDies c)) (testedPair s c r) := by
  have h : Held [.fabric, .vellum] (undarken s (cartDies c)) (testedPair s c r) := by
    unfold testedPair undarken
    dsimp only
    rw [hr, List.foldl_nil]
    exact mem_held (foldl_held (fun _ _ h => putSite_held (clearUnits_held h (by rfl)) (by rfl))
      (foldl_held (fun _ _ h => judgeCluster_held (putIsland_held h (by rfl)) (by rfl))
        (sram_held (held_self _ _) (fun h => h) (by rfl)))) (fun h => h) (by rfl)
  exact h.only

theorem testedPair_board (s : State) (c : Nat) {r : SelfTestResult} (hr : r.badSegments = []) :
    (testedPair s c r).board = s.board := testedPair_only s c hr .board (by decide)

theorem testedPair_now (s : State) (c : Nat) {r : SelfTestResult} (hr : r.badSegments = []) :
    (testedPair s c r).now = s.now := testedPair_only s c hr .now (by decide)

theorem testedPair_mailbox (s : State) (c : Nat) {r : SelfTestResult} (hr : r.badSegments = []) :
    (testedPair s c r).mailbox = s.mailbox := testedPair_only s c hr .mailbox (by decide)

theorem testedPair_map (s : State) (c : Nat) {r : SelfTestResult} (hr : r.badSegments = []) :
    (testedPair s c r).map = (undarken s (cartDies c)).map := testedPair_only s c hr .map (by decide)

/-- The cartridge in use again, the slots having taken back what the tested dies hold: cartridge, map, time and mailbox. -/
theorem backInSlots_takenBack (p : State) (c : Nat) :
    getCart (backInSlots (takenBack p c) c) c = { getCart p c with lamp := usedLamp (getCart p c), powered := true } ∧
      (backInSlots (takenBack p c) c).map.darkDies = p.map.darkDies ∧
      (backInSlots (takenBack p c) c).now = p.now ∧ (backInSlots (takenBack p c) c).mailbox = p.mailbox := by
  have hback := backInSlots_only (takenBack p c) c
  have htaken := (takenBack_held p c).only
  have hmap : (backInSlots (takenBack p c) c).map = (takenBack p c).map := hback .map (by decide)
  refine ⟨(getCart_congr (hback .board (by decide)) c).trans (getCart_takenBack p c), ?_,
    (hback .now (by decide)).trans (htaken .now (by decide)), (hback .mailbox (by decide)).trans (htaken .mailbox (by decide))⟩
  rw [hmap, takenBack_darkDies]

theorem cartridgeRestoreDone_returns (time c : Nat) (r : SelfTestResult) (s : State)
    (hf : (findStarted s 0x0607 c).isSome = true) (hr : r.badSegments = []) :
    ∃ t, exec (.cartridgeRestoreDone time c r) s = .next t ∧
      getCart t c = { getCart s c with lamp := usedLamp (getCart s c), powered := true } ∧
      t.map.darkDies = s.map.darkDies.filter (fun d => !((cartDies c).contains d)) ∧
      Ended s t 0x0607 c stSuccess (msSince (advance s time) 0x0607 c) := by
  have he : exec (.cartridgeRestoreDone time c r) s = .next
      (let v := backInSlots (takenBack (testedPair (advance s time) c r) c) c
       completeStarted v 0x0607 c stSuccess (msSince v 0x0607 c)) :=
    congrArg Host.Outcome.next (if_pos hf)
  have hboard := testedPair_board (advance s time) c hr
  have hmap := testedPair_map (advance s time) c hr
  have hnow := testedPair_now (advance s time) c hr
  have hmailbox := testedPair_mailbox (advance s time) c hr
  generalize testedPair (advance s time) c r = p at he hboard hmap hnow hmailbox
  obtain ⟨hcart, hdark, hnow', hmailbox'⟩ := backInSlots_takenBack p c
  dsimp only at he
  rw [msSince_congr (hnow'.trans hnow) (hmailbox'.trans hmailbox)] at he
  refine ⟨_, he, ?_, ?_, completeStarted_ended (hmailbox'.trans hmailbox) _ _ _ _ (by decide)⟩
  · rw [getCart_congr (completeStarted_board _ _ _ _ _), hcart, getCart_congr hboard]
    rfl
  · rw [completeStarted_map, hdark, hmap]
    rfl

theorem cartridgeInserted_inserts (time c : Nat) (s : State) (hc : c < 20) (hp : (getCart s c).present = false) :
    ∃ t, exec (.cartridgeInserted time c) s = .next t ∧ (getCart t c).present = true ∧ (getCart t c).powered = false ∧
      (getCart t c).phasesLost = 0 ∧ ((getCart t c).lamp = .green ↔ s.board.railsUp = true ∨ s.board.phase = .halted) := by
  have he : exec (.cartridgeInserted time c) s = .next (putCart (advance s time) c
      { present := true, lamp := if s.board.railsUp || decide (s.board.phase = .halted) then .green else .off }) :=
    congrArg Host.Outcome.next (if_pos ⟨hc, hp⟩)
  refine ⟨_, he, ?_⟩
  rw [getCart_putCart]
  refine ⟨rfl, rfl, rfl, ?_⟩
  dsimp only
  split
  · simp_all
  · simp_all

/-- A bay is empty: its phases' warning ends with the last cartridge that holds it. -/
def bayEmptied (s : State) (c : Nat) : State :=
  let u := putCart s c { getCart s c with present := false, powered := false, lamp := .off, phasesLost := 0 }
  if phasesWarn u then u else endWarning u 4 0xFFFF

theorem bayEmptied_only (s : State) (c : Nat) : Only [.blotter]
    (putCart s c { getCart s c with present := false, powered := false, lamp := .off, phasesLost := 0 }) (bayEmptied s c) := by
  unfold bayEmptied
  dsimp only
  split
  · exact (held_self _ _).only
  · exact (endWarning_held (held_self _ _) (by rfl)).only

theorem cartridgeRemoved_removes (time c : Nat) (s : State) (hc : c < 20) (hp : (getCart s c).present = true)
    (hsafe : (getCart s c).lamp = .amber ∨ s.board.railsUp = false) :
    ∃ t, exec (.cartridgeRemoved time c) s = .next t ∧ (getCart t c).present = false ∧ (getCart t c).lamp = .off ∧
      t.map = s.map ∧ t.serving = s.serving ∧ t.vellum = s.vellum ∧ t.fabric = s.fabric := by
  have honly := bayEmptied_only (advance s time) c
  have hboard : (bayEmptied (advance s time) c).board = _ := honly .board (by decide)
  have hrails : (bayEmptied (advance s time) c).board.railsUp = s.board.railsUp := by
    rw [hboard]
    rfl
  have hsafe' : safeToRemove (getCart s c) = true ∨ (bayEmptied (advance s time) c).board.railsUp = false :=
    hsafe.imp (fun h => by unfold safeToRemove; rw [h]; rfl) hrails.trans
  have he : exec (.cartridgeRemoved time c) s = .next (bayEmptied (advance s time) c) :=
    congrArg Host.Outcome.next ((if_pos ⟨hc, hp⟩).trans (if_pos hsafe'))
  have hcart := (getCart_congr (honly .board (by decide)) c).trans (getCart_putCart _ _ _)
  exact ⟨_, he, by rw [hcart], by rw [hcart], honly .map (by decide), honly .serving (by decide), honly .vellum (by decide),
    honly .fabric (by decide)⟩

theorem getCart_of_cartridges {s t : State} (h : t.board.cartridges = s.board.cartridges) (c : Nat) : getCart t c = getCart s c := by
  unfold getCart
  rw [h]

/-- A cartridge with one more phase lost: while it is powered its lamp flashes amber. -/
def withPhaseLost (v : Cartridge) : Cartridge :=
  { v with phasesLost := v.phasesLost + 1, lamp := if v.powered then .amberFlash else v.lamp }

/-- The reports of a lost phase, the eighth of which fails the cartridge. -/
def reportPhase (s : State) (c : Nat) (v : Cartridge) : State :=
  let s := note (warn s 4 0xFFFF) 0x0301 2 0xFFFF c v.phasesLost
  if v.phasesLost = 8 then note (postEvent s 0 3 (4 + 65536 * 0xFFFF)) 0x0302 4 0xFFFF c 8 else s

theorem note_board (s : State) (code cls source address aux : Nat) : (note s code cls source address aux).board = s.board :=
  note_only s code cls source address aux .board (by decide)

theorem postEvent_board (s : State) (func code detail : Nat) : (postEvent s func code detail).board = s.board :=
  (postEvent_held (held_self [.link, .mailbox] s) (by rfl)).only .board (by decide)

theorem reportPhase_cartridges (s : State) (c : Nat) (v : Cartridge) :
    (reportPhase s c v).board.cartridges = s.board.cartridges := by
  unfold reportPhase
  split
  · rw [note_board, postEvent_board, note_board, warn_board]
  · rw [note_board, warn_board]

theorem prepareFailed_cartridges (s : State) (c : Nat) : (prepareFailed s c).board.cartridges = s.board.cartridges := by
  have h := prepareFailed_onlyPreparing s c
  unfold OnlyPreparing at h
  rw [h]

theorem phaseLost_counts (time c : Nat) (s : State) (hc : c < 20) (hp : (getCart s c).present = true)
    (hn : (getCart s c).phasesLost < 16) :
    ∃ t, exec (.phaseLost time c) s = .next t ∧ (getCart t c).phasesLost = (getCart s c).phasesLost + 1 ∧
      (getCart t c).present = true ∧ ((getCart s c).powered = true → (getCart t c).lamp = .amberFlash) := by
  have he : exec (.phaseLost time c) s = .next
      (let v := withPhaseLost (getCart s c)
       let u := putCart (advance s time) c v
       if governorRuns u then prepareFailed (reportPhase u c v) c else u) :=
    congrArg Host.Outcome.next (if_pos ⟨hc, hp, hn⟩)
  have hcart : ∀ u : State, getCart (if governorRuns u then prepareFailed (reportPhase u c (withPhaseLost (getCart s c))) c else u) c =
      getCart u c := fun u => by
    split
    · exact getCart_of_cartridges ((prepareFailed_cartridges _ c).trans (reportPhase_cartridges u c _)) c
    · rfl
  refine ⟨_, he, ?_⟩
  dsimp only
  rw [hcart, getCart_putCart]
  exact ⟨rfl, hp, fun h => if_pos h⟩

/-- What is left to do when a site other than the S-die's is lost: sessions rewind, and what had a copy there moves. -/
def siteMoved (s : State) (d : Nat) : State :=
  let before := s.serving.steps
  let s := rewindAll s d
  let s := if decide (s.serving.steps = before) then s else markDiscarded s (fun _ => true) false
  let s := loseCopies (loseChunks (loseChunks (loseAdapters s d) 0 d) 1 d) d
  finishAreas (finishAreas (moveAreas (moveAreas s 0 d) 1 d) 0) 1

theorem siteMoved_map (s : State) (d : Nat) : (siteMoved s d).map = s.map := by
  have hrewind : Held [.link, .mailbox, .serving, .images, .vellum] s (rewindAll s d) := rewindAll_held (held_self _ s) (by rfl)
  have hmark : Held [.link, .mailbox, .serving, .images, .vellum] s
      (if decide ((rewindAll s d).serving.steps = s.serving.steps) then rewindAll s d
       else markDiscarded (rewindAll s d) (fun _ => true) false) := by
    split
    · exact hrewind
    · exact markDiscarded_held hrewind (by rfl)
  have hmoved : Held [.link, .mailbox, .serving, .images, .vellum] s (siteMoved s d) := by
    unfold siteMoved
    exact finishAreas_held (finishAreas_held (moveAreas_held (moveAreas_held (loseCopies_held (loseChunks_held (loseChunks_held
      (loseAdapters_held hmark (by rfl)) (by rfl)) (by rfl)) (by rfl)) (by rfl)) (by rfl)) (by rfl)) (by rfl)
  exact hmoved.only .map (by decide)

theorem sdieLost_map (s : State) (address : Nat) : (sdieLost s address).map = s.map :=
  (sdieLost_held (held_self [.board, .link, .mailbox, .serving, .blotter, .mgmt] s) (by rfl)).only .map (by decide)

theorem forfeitAll_map (s : State) (code : Nat) : (forfeitAll s code).map = s.map :=
  (forfeitAll_held (held_self [.serving] s) (by rfl)).only .map (by decide)

theorem note_map (s : State) (code cls source address aux : Nat) : (note s code cls source address aux).map = s.map :=
  note_only s code cls source address aux .map (by decide)

theorem putSite_map (s : State) (d : Nat) (v : Site) : (putSite s d v).map = s.map :=
  (putSite_held (held_self [.vellum] s) (by rfl)).only .map (by decide)

/-- A lost site leaves the dark dies as they were. -/
theorem siteLost_darkDies (s : State) (d cause : Nat) : (siteLost s d cause).map.darkDies = s.map.darkDies := by
  have he : siteLost s d cause = if (getSite s d).lost then s else
      (let x := mapChanged (forfeitAll (note (putSite s d { getSite s d with lost := true, copying := [], writeBacks := [] })
        0x0207 4 (siteUnit d) 0 cause) 6)
       if d = sDie then sdieLost x (siteUnit d) else siteMoved x d) := by
    unfold siteLost siteMoved
    rfl
  rw [he]
  split
  · rfl
  · dsimp only
    split
    · rw [sdieLost_map, mapChanged_darkDies, forfeitAll_map, note_map, putSite_map]
    · rw [siteMoved_map, mapChanged_darkDies, forfeitAll_map, note_map, putSite_map]

theorem coverLoss_map (s : State) (unit : Nat) (lost : List Nat) : (coverLoss s unit lost).map = s.map :=
  (coverLoss_held (held_self [.link, .mailbox, .serving, .images, .vellum, .fabric, .power, .blotter, .mgmt, .trust] s)
    (by rfl)).only .map (by decide)

/-- A die that goes dark is dark. -/
theorem darkenDie_darkDies (s : State) (d cause : Nat) : (darkenDie s d cause).map.darkDies.contains d = true := by
  unfold darkenDie
  split
  · assumption
  · split
    · dsimp only
      rw [mapChanged_darkDies, note_map]
      simp
    · dsimp only
      rw [coverLoss_map, siteLost_darkDies, mapChanged_darkDies, forfeitAll_map]
      simp

theorem dieShort_darkens (time d : Nat) (s : State) (hd : d < 40) (h8 : d / 2 ≠ 8) (hp : (getCart s (d / 2)).powered = true)
    (hdark : s.map.darkDies.contains d = false) (hg : governorRuns s = true) :
    ∃ t, exec (.dieShort time d) s = .next t ∧ t.map.darkDies.contains d = true := by
  have he : exec (.dieShort time d) s = .next
      (let fits : Bool := (slotWithout (advance s time) 0 (dieClusters d)).isSome &&
        (slotWithout (advance s time) 1 (dieClusters d)).isSome
       diesLost (if fits then advance s time else (advance s time).board.preparing.foldl abandonPrepare (advance s time)) [d] (d / 2) 1) :=
    congrArg Host.Outcome.next ((if_pos ⟨hd, hp, hdark⟩).trans (if_pos hg))
  refine ⟨_, he, ?_⟩
  dsimp only
  unfold diesLost
  dsimp only
  rw [if_neg h8]
  exact darkenDie_darkDies _ d 1

/-- Settles O24: clause by clause, from what each command writes of the cartridge, of the map's dark dies and of the mailbox. -/
theorem cartridgesComeAndGo : Obligations.CartridgesComeAndGo := by
  unfold Obligations.CartridgesComeAndGo
  exact ⟨cartridgePrepare_prepares, cartridgePrepareDone_darkens, cartridgeRestore_powers, cartridgeRestoreDone_returns,
    cartridgeInserted_inserts, cartridgeRemoved_removes, phaseLost_counts, dieShort_darkens⟩

end Sys2Proof.Proofs

namespace Sys2Proof.Proofs

open Sys2Proof Sys2Proof.Machine Sys2Proof.Laws

/-! ## What repairs keep of the network

A field of every island that an operation keeps, and the link counters and edges that fencing and covering a loss keep. -/

/-- From `s` to `t` a field of every island stays. -/
def IslandsKeep {α : Type} (f : Island → α) (s t : State) : Prop := ∀ u, f (getIsland t u) = f (getIsland s u)

section
variable {α : Type} {f : Island → α}

theorem IslandsKeep.refl (s : State) : IslandsKeep f s s := fun _ => rfl

theorem IslandsKeep.trans {s t r : State} (h1 : IslandsKeep f s t) (h2 : IslandsKeep f t r) : IslandsKeep f s r :=
  fun u => (h2 u).trans (h1 u)

theorem islandsKeep_of_islands {s t : State} (h : t.fabric.islands = s.fabric.islands) : IslandsKeep f s t := fun u => by
  unfold getIsland
  rw [h]

theorem putIsland_keeps {s : State} {u : Nat} {v : Island} (h : f v = f (getIsland s u)) : IslandsKeep f s (putIsland s u v) :=
  fun w => by
    by_cases hw : w = u
    · subst hw
      rw [getIsland_putIsland, h]
    · rw [getIsland_putIsland_ne s v hw]

theorem foldl_islandsKeep {β : Type} {g : State → β → State} (hg : ∀ s x, IslandsKeep f s (g s x)) (l : List β) (s : State) :
    IslandsKeep f s (l.foldl g s) := by
  induction l generalizing s with
  | nil => exact IslandsKeep.refl s
  | cons x l ih => exact (hg s x).trans (ih (g s x))

end

/-- From `s` to `t` the edges stay, and the network counters of every island. -/
structure NetKept (s t : State) : Prop where
  edges : t.fabric.edges = s.fabric.edges
  counters : IslandsKeep Island.net s t

namespace NetKept

theorem refl (s : State) : NetKept s s := ⟨rfl, IslandsKeep.refl s⟩

theorem trans {s t r : State} (h1 : NetKept s t) (h2 : NetKept t r) : NetKept s r :=
  ⟨h2.edges.trans h1.edges, h1.counters.trans h2.counters⟩

theorem of_fabric {s t : State} (h : t.fabric = s.fabric) : NetKept s t :=
  ⟨by rw [h], islandsKeep_of_islands (by rw [h])⟩

theorem of_fields {s t : State} (he : t.fabric.edges = s.fabric.edges) (hi : t.fabric.islands = s.fabric.islands) : NetKept s t :=
  ⟨he, islandsKeep_of_islands hi⟩

theorem foldl {β : Type} {g : State → β → State} (hg : ∀ s x, NetKept s (g s x)) (l : List β) (s : State) :
    NetKept s (l.foldl g s) := by
  induction l generalizing s with
  | nil => exact refl s
  | cons x l ih => exact (hg s x).trans (ih (g s x))

theorem putIsland {s : State} {u : Nat} {v : Island} (h : v.net = (getIsland s u).net) : NetKept s (putIsland s u v) :=
  ⟨rfl, putIsland_keeps h⟩

theorem putTile (s : State) (u : Nat) (v : Tile) : NetKept s (putTile s u v) := NetKept.of_fields (by rfl) (by rfl)

end NetKept

theorem note_fabric (s : State) (code cls source address aux : Nat) : (note s code cls source address aux).fabric = s.fabric :=
  note_only s code cls source address aux .fabric (by decide)

theorem mapChanged_fabric (s : State) : (mapChanged s).fabric = s.fabric := rfl

theorem forfeitAll_fabric (s : State) (code : Nat) : (forfeitAll s code).fabric = s.fabric :=
  (forfeitAll_held (held_self [.serving] s) (by rfl)).only .fabric (by decide)

theorem noVariant_fabric (s : State) (n unit : Nat) : (noVariant s n unit).fabric = s.fabric :=
  (noVariant_held (held_self [.link, .mailbox, .serving, .images, .vellum, .power, .blotter, .mgmt, .trust] s) (by rfl)).only
    .fabric (by decide)

theorem putHalf_net (i : Island) (h : Nat) (v : Option (Nat × Bool)) : (putHalf i h v).net = i.net := by
  unfold putHalf
  split <;> rfl

theorem writeHalf_netKept (s : State) (tile h : Nat) (l : List (BitVec 128)) : NetKept s (writeHalf s tile h l) :=
  NetKept.putTile _ _ _

theorem writeSet_netKept (s : State) (n u v h : Nat) (b : FolioBody) (streaming : Bool) :
    NetKept s (writeSet s n u v h b streaming) :=
  (NetKept.foldl (fun s _ => (writeHalf_netKept s _ _ _).trans (NetKept.putTile _ _ _)) _ s).trans
    (NetKept.putIsland (putHalf_net _ _ _))

theorem clearCluster_netKept (s : State) (u : Nat) : NetKept s (clearCluster s u) :=
  (NetKept.of_fields (t := clearIdle
    { s with serving := { s.serving with clears := s.serving.clears.filter (fun k => !decide (k = .scratch u)) } } [u]) (by rfl) (by rfl)).trans
    (NetKept.putIsland (by rfl))

theorem setRegions_netKept (s : State) (p : ClusterPlan) : NetKept s (setRegions s p) := NetKept.of_fields (by rfl) (by rfl)

theorem refillSeats_netKept (s : State) (n : Nat) (at_ : Nat → Bool) : NetKept s (refillSeats s n at_) := by
  refine NetKept.foldl (fun s r => ?_) _ s
  split
  · exact NetKept.refl s
  · refine NetKept.foldl (fun s x => NetKept.foldl (fun s y => ?_) _ s) _ s
    exact NetKept.of_fields (by rfl) (by rfl)

theorem coverWith_netKept (s : State) (n : Nat) (b : FolioBody) (c : ClusterPlan) (v : Nat) : NetKept s (coverWith s n b c v) := by
  unfold coverWith
  extract_lets u form s1 old typed fabric s2 s3 i mine waiting s4
  have h1 : NetKept s s1 := by
    show NetKept s (if bareHeadroom s v then clearCluster s v else s)
    split
    · exact clearCluster_netKept s v
    · exact NetKept.refl s
  have h2 : NetKept s1 s2 := by
    show NetKept s1 (if form = true then s1 else _)
    split
    · exact NetKept.refl s1
    · exact ((setRegions_netKept s1 { c with unit := v }).trans (NetKept.of_fields (by rfl) (by rfl))).trans (refillSeats_netKept _ _ _)
  have h3 : NetKept s2 s3 := writeSet_netKept _ _ _ _ _ _ _
  have h4 : NetKept s3 s4 := NetKept.putIsland (by rfl)
  exact (((h1.trans h2).trans h3).trans h4).trans (NetKept.putIsland (by rfl))

theorem moveTables_netKept (s : State) (n : Nat) (b : FolioBody) (w : Variant) : NetKept s (moveTables s n b w) := by
  refine NetKept.foldl (fun s p => ?_) _ s
  split
  · exact coverWith_netKept _ _ _ _ _
  · exact NetKept.refl s

theorem enforce_netKept (s : State) (n : Nat) (b : FolioBody) (l : List Variant) : NetKept s (enforce s n b l) := by
  unfold enforce
  dsimp only
  split
  · exact NetKept.of_fabric (putSlot_fabric _ _ _)
  · exact (NetKept.of_fabric (putSlot_fabric _ _ _)).trans (NetKept.foldl (fun s w => moveTables_netKept s n b w) _ _)

theorem coverSlot_netKept (s : State) (n unit : Nat) (lost : List Nat) : NetKept s (coverSlot s n unit lost) := by
  unfold coverSlot
  dsimp only
  split
  · exact NetKept.refl s
  · split
    · exact NetKept.of_fabric (noVariant_fabric s n unit)
    · exact enforce_netKept _ _ _ _

theorem coverLoss_netKept (s : State) (unit : Nat) (lost : List Nat) : NetKept s (coverLoss s unit lost) :=
  (coverSlot_netKept s 0 unit lost).trans (coverSlot_netKept _ 1 unit lost)

theorem coverLink_netKept (s : State) (die dir : Nat) : NetKept s (coverLink s die dir) := by
  refine NetKept.foldl (fun s n => ?_) _ s
  dsimp only
  split
  · exact NetKept.refl s
  · split
    · split
      · exact enforce_netKept _ _ _ _
      · exact NetKept.of_fabric (noVariant_fabric _ _ _)
    · exact NetKept.refl s

theorem refuseTo_netKept (s : State) (u : Nat) : NetKept s (refuseTo s u) := by
  unfold refuseTo
  dsimp only
  refine NetKept.trans (NetKept.of_fields (by rfl) (by rfl)) (NetKept.foldl (fun s t => ?_) _ _)
  split
  · exact NetKept.putIsland (by rfl)
  · exact NetKept.refl s

theorem fenceOnly_netKept (s : State) (u cause : Nat) : NetKept s (fenceOnly s u cause) := by
  unfold fenceOnly
  dsimp only
  split
  · exact NetKept.refl s
  · refine NetKept.trans ?_ (NetKept.of_fabric ((mapChanged_fabric _).trans ((forfeitAll_fabric _ _).trans (note_fabric _ _ _ _ _ _))))
    have hmark : NetKept s (markFaulty s [u]) := NetKept.of_fabric rfl
    refine (hmark.trans (NetKept.putIsland ?_)).trans (refuseTo_netKept _ u)
    rfl

theorem fenceCluster_netKept (s : State) (u cause : Nat) : NetKept s (fenceCluster s u cause) := by
  unfold fenceCluster
  split
  · exact NetKept.refl s
  · exact (fenceOnly_netKept s u cause).trans (coverLoss_netKept _ _ _)

/-! ## What the landing of a write keeps of an island

A write that lands closes windows, counts, and changes rows; gates and stalls stand. -/

theorem modNet_keeps {α : Type} {f : Island → α} {s : State} {u : Nat} {g : NetCounters → NetCounters}
    (h : ∀ i n, f { i with net := n } = f i) : IslandsKeep f s (modNet s u g) := putIsland_keeps (h _ _)

/-- A window's response counts in the network and goes in flight. -/
theorem sendWindow_keeps {α : Type} {f : Island → α} (h : ∀ i n, f { i with net := n } = f i) (s : State) (u : Nat) (w : Window) :
    IslandsKeep f s (sendWindow s u w) :=
  (modNet_keeps (g := fun c => { c with flitsOut := sat 64 (c.flitsOut + 1) }) h).trans (islandsKeep_of_islands (by rfl))

theorem closeWindows_stalled (s : State) (u row : Nat) : IslandsKeep Island.stalled s (closeWindows s u row) :=
  (putIsland_keeps (by rfl)).trans (foldl_islandsKeep (fun s w => sendWindow_keeps (fun _ _ => rfl) s u w) _ _)

theorem beforeWrite_stalled (s : State) (p : Place) : IslandsKeep Island.stalled s (beforeWrite s p) := by
  unfold beforeWrite
  extract_lets i s1
  have h1 : IslandsKeep Island.stalled s s1 := by
    show IslandsKeep Island.stalled s (if i.writeBacks.contains (p.key / 64) then _ else s)
    split
    · exact putIsland_keeps rfl
    · exact IslandsKeep.refl s
  refine h1.trans ?_
  cases p with
  | scratch tile addr => exact IslandsKeep.refl s1
  | slice c addr =>
    dsimp only
    split
    · exact closeWindows_stalled _ _ _
    · exact IslandsKeep.refl s1

theorem putRow_keeps {α : Type} {f : Island → α} (s : State) (p : Place) (bytes : List Byte) (poisoned : Bool) :
    IslandsKeep f s (putRow s p bytes poisoned) := islandsKeep_of_islands rfl

theorem isolationFault_stalled (s : State) (p : Place) (aux : Nat) : IslandsKeep Island.stalled s (isolationFault s p aux) :=
  ((islandsKeep_of_islands (by rw [note_fabric])).trans (modNet_keeps (fun _ _ => rfl))).trans (putIsland_keeps rfl)

theorem writeRow_stalled (s : State) (runner : Nat) (p : Place) (bytes : List Byte) (poisoned : Bool) :
    IslandsKeep Island.stalled s (writeRow s runner p bytes poisoned) := by
  unfold writeRow
  split
  · exact isolationFault_stalled s p 0
  · exact (beforeWrite_stalled s p).trans (putRow_keeps _ _ _ _)

theorem writeRows_stalled (s : State) (runner : Nat) (p : Place) (poisoned : Bool) (n : Nat) (bytes : List Byte) :
    IslandsKeep Island.stalled s (writeRows s runner p poisoned n bytes) := by
  induction n generalizing s p bytes with
  | zero => exact IslandsKeep.refl s
  | succ n ih => exact (writeRow_stalled s runner p _ poisoned).trans (ih _ _ _)

theorem dmaRows_stalled (s : State) (p : Place) (poisoned : Bool) (n : Nat) (bytes : List Byte) :
    IslandsKeep Island.stalled s (dmaRows s p poisoned n bytes) := by
  induction n generalizing s p bytes with
  | zero => exact IslandsKeep.refl s
  | succ n ih => exact ((beforeWrite_stalled s p).trans (putRow_keeps _ _ _ _)).trans (ih _ _ _)

theorem landWrite_stalled (s : State) (t : Transfer) : IslandsKeep Island.stalled s (landWrite s t) := by
  unfold landWrite
  split
  · exact IslandsKeep.refl s
  · dsimp only
    split
    · exact dmaRows_stalled _ _ _ _ _
    · exact writeRows_stalled _ _ _ _ _ _

theorem landIsland_stalled (s : State) (u : Nat) : IslandsKeep Island.stalled s (landIsland s u) := by
  unfold landIsland
  dsimp only
  split
  · exact IslandsKeep.refl s
  · exact (putIsland_keeps (by rfl)).trans (foldl_islandsKeep landWrite_stalled _ _)

end Sys2Proof.Proofs

namespace Sys2Proof.Proofs

open Sys2Proof Sys2Proof.Machine Sys2Proof.Laws

/-! ## BAR0 and BAR4 (R203, R280 to R282, R284) -/

theorem setLink_only (s : State) (v : Link) : Only [.link] s { s with link := v } := fun p hp => by
  cases p with
  | link => exact absurd (List.mem_singleton_self _) hp
  | _ => rfl

theorem setFabric_only (s : State) (v : Fabric) : Only [.fabric] s { s with fabric := v } := fun p hp => by
  cases p with
  | fabric => exact absurd (List.mem_singleton_self _) hp
  | _ => rfl

theorem exportEnable_takes (time : Nat) (v : Bool) (s : State) (hr : reachable s 0 = true) :
    ∃ t, exec (.exportEnable time v) s = .next t ∧ t.link.exportEnable = v := by
  have hr' : reachable (advance s time) 0 = true := hr
  refine ⟨_, congrArg Host.Outcome.next (if_pos hr'), ?_⟩
  dsimp only
  split <;> rfl

/-- A read of HOST_TIME gives the low half of the time stamp. -/
theorem readBar0_timeOffset (s : State) (f : Nat) : readBar0 s f (timeOffset f) = stamp s % 2 ^ 32 := by
  unfold readBar0 timeOffset
  split
  · rfl
  · rfl

theorem stamp_putFn (s : State) (f : Nat) (v : Fn) : stamp (putFn s f v) = stamp s := rfl

theorem timeOffset_aligned (f : Nat) : timeOffset f % 4 = 0 := by
  unfold timeOffset
  split <;> rfl

theorem hostTimeRead_reads (time f : Nat) (s : State) (hr : reachable s f = true) :
    ∃ t, exec (.hostTimeRead time ⟨f, ⟨timeOffset f, 4⟩⟩) s = .next t ∧ t.link.timeRead = stamp (advance s time) % 2 ^ 32 := by
  have hr' : ¬ reachable (advance s time) f = false := by
    rw [show reachable (advance s time) f = reachable s f from rfl, hr]
    decide
  refine ⟨_, congrArg Host.Outcome.next ((if_neg hr').trans (if_pos ⟨.inl rfl, timeOffset_aligned f⟩)), ?_⟩
  dsimp only
  rw [if_pos rfl, if_neg (by decide), readBar0_timeOffset, stamp_putFn, Nat.add_zero]

/-- No 64-bit register stands at the SIZES register of a virtual function's queue pair, nor ends there. -/
theorem wideAt_sizes {f qp : Nat} (hf : f ≠ 0) (hq : qp < 8) :
    wideAt f (0x118 + 0x40 * qp) = none ∧ wideAt f (0x118 + 0x40 * qp - 4) = none := by
  have h18 : (0x118 + 0x40 * qp - 0x100) % 0x40 = 0x18 := by omega
  have hsub : 0x118 + 0x40 * qp - 4 - 0x100 = 0x14 + 0x40 * qp := by omega
  have h14 : (0x118 + 0x40 * qp - 4 - 0x100) % 0x40 = 0x14 := by rw [hsub, Nat.add_mul_mod_self_left]
  constructor
  · unfold wideAt
    rw [if_neg hf, if_neg (by omega), if_pos (by omega), h18]
    rfl
  · unfold wideAt
    rw [if_neg hf, if_neg (by omega), if_pos (by omega), h14]
    rfl

/-- The write of SIZES of a virtual function's queue pair. -/
theorem write4_sizes {f qp : Nat} (s : State) (v : Nat) (hf : f ≠ 0) (hq : qp < 8) :
    write4 s f (0x118 + 0x40 * qp) v = write4Pair s f qp 0x18 v := by
  obtain ⟨hat, hbefore⟩ := wideAt_sizes hf hq
  have h18 : (0x118 + 0x40 * qp - 0x100) % 0x40 = 0x18 := by omega
  have hqp : (0x118 + 0x40 * qp - 0x100) / 0x40 = qp := by omega
  have hmsix : msixBase f = 0x2000 := if_neg hf
  unfold write4
  rw [hat, if_pos (by omega), hbefore, hmsix, h18, hqp]
  dsimp only
  rw [if_neg (by omega), if_neg hf, if_pos (by omega)]

theorem registerWrite_sizes (time qp f v : Nat) (c : HostSet) (s : State) (hr : reachable s f = true) (hf : f ≠ 0) (hq : qp < 8)
    (he : (getQueue s f qp).enable = false) (hp : (getFn s f).barPlace = c.place) :
    ∃ t, exec (.registerWrite ⟨time, c⟩ f (0x118 + 0x40 * qp) 4 v) s = .next t ∧ (getQueue t f qp).sqLog2 = v % 256 := by
  have hr' : ¬ reachable (advance s time) f = false := by
    rw [show reachable (advance s time) f = reachable s f from rfl, hr]
    decide
  have hp' : (getFn (advance s time) f).barPlace = c.place := hp
  have he' : ¬ (getQueue (advance s time) f qp).enable = true := by
    rw [show getQueue (advance s time) f qp = getQueue s f qp from rfl, he]
    decide
  have hhost : takeHostSet (advance s time) f c = advance s time := (if_neg hf).trans (if_pos hp')
  refine ⟨_, congrArg Host.Outcome.next ((if_neg hr').trans (if_pos ⟨rfl, by omega⟩)), ?_⟩
  dsimp only
  rw [hhost, write4_sizes _ _ hf hq]
  unfold write4Pair
  dsimp only
  rw [if_pos rfl, if_neg he', getQueue_putQueue]
  dsimp only
  omega

theorem bankWrite_selects (peer v n : Nat) (f : FolioHead) (s : State) (hs : s.images.exported.slot = some n)
    (hh : (getSlot s n).head = some f) (hp : s.images.exported.peer = peer) (hv : v < fileBanks f) :
    ∃ t, exec (.bankWrite peer (controlFrame + 0x32) 2 v) s = .next t ∧ t.images.exported.bank = v := by
  have hslot : s.images.exported.slot.bind (fun n => (getSlot s n).head) = some f := by rw [hs]; exact hh
  have he : exec (.bankWrite peer (controlFrame + 0x32) 2 v) s =
      .next { s with images := { s.images with exported := { s.images.exported with bank := v } } } := by
    show execBankWrite peer (controlFrame + 0x32) 2 v s = _
    unfold execBankWrite
    dsimp only
    rw [hslot]
    dsimp only
    rw [if_pos ⟨hp.symm, rfl, rfl, hv⟩]
  exact ⟨_, he, rfl⟩

theorem exportWindowRead_control (time peer offset : Nat) (s : State) (ho : controlFrame ≤ offset) :
    ∃ t n, exec (.exportWindowRead time peer offset) s = .next t ∧ t.link.windowRead = .control n ∧ Only [.now, .link] s t := by
  refine ⟨_, _, congrArg Host.Outcome.next (if_pos ho), rfl, ?_⟩
  exact Only.trans (Only.mono (advance_only s time) (by decide)) (Only.mono (setLink_only _ _) (by decide))

/-! ## The network links (R45, R49, R53, R61 to R64) -/

theorem tokenArrival_refused (consumer crossing n : Nat) (x : Transfer) (rest : List Transfer) (s : State)
    (hx : takeFirst (fun (t : Transfer) => t.consumer == consumer && t.crossing == crossing) s.fabric.inFlight = some (x, rest))
    (hf : (getIsland s (clusterOf consumer)).fenced = true) :
    ∃ t, exec (.tokenArrival consumer crossing n) s = .next t ∧ t.fabric.inFlight = rest ∧ Only [.fabric] s t := by
  have he : exec (.tokenArrival consumer crossing n) s =
      .next { s with fabric := { s.fabric with inFlight := rest, refused := s.fabric.refused ++ [x] } } := by
    show execTokenArrival consumer crossing n s = _
    unfold execTokenArrival
    rw [hx]
    dsimp only
    rw [if_pos hf]
  exact ⟨_, he, rfl, setFabric_only s _⟩

theorem unstall_stalled (s : State) (u cycles : Nat) : (getIsland (unstall s u cycles) u).stalled = none := by
  unfold unstall
  dsimp only
  rw [landIsland_stalled, modNet_keeps (f := Island.stalled) (fun _ _ => rfl), getIsland_putIsland]

theorem sendAck_resumes (producer crossing n : Nat) (s : State) (hs : (getIsland s (clusterOf producer)).stalled = some crossing)
    (hp : (getIsland s (clusterOf producer)).heldPartial = none) :
    ∃ t, exec (.sendAck producer ⟨crossing, n⟩) s = .next t ∧ (getIsland t (clusterOf producer)).stalled = none := by
  have he : exec (.sendAck producer ⟨crossing, n⟩) s = .next (unstall s (clusterOf producer) n) := by
    show execSendAck producer ⟨crossing, n⟩ s = _
    unfold execSendAck
    dsimp only
    rw [if_pos hs, hp]
  exact ⟨_, he, unstall_stalled _ _ _⟩

theorem getIsland_modNet (s : State) (u : Nat) (g : NetCounters → NetCounters) :
    getIsland (modNet s u g) u = { getIsland s u with net := g (getIsland s u).net } := getIsland_putIsland _ _ _

theorem watchdog_fires (time consumer producer crossing : Nat) (s : State) (hw : watching s consumer crossing = true)
    (hh : watchdogHeld s consumer = false) (hf : (getIsland s (clusterOf producer)).fenced = false)
    (_ : clusterOf consumer ≠ clusterOf producer) :
    ∃ t, exec (.watchdog time consumer producer crossing false) s = .next t ∧
      (getIsland t (clusterOf consumer)).net.watchdogFires = sat 32 ((getIsland s (clusterOf consumer)).net.watchdogFires + 1) := by
  have hwaits : ¬ (watching (advance s time) consumer crossing = false ∨ watchdogHeld (advance s time) consumer = true) := by
    rw [show watching (advance s time) consumer crossing = watching s consumer crossing from rfl,
      show watchdogHeld (advance s time) consumer = watchdogHeld s consumer from rfl, hw, hh]
    decide
  have hf' : ¬ (getIsland (advance s time) (clusterOf producer)).fenced = true := by
    rw [show getIsland (advance s time) (clusterOf producer) = getIsland s (clusterOf producer) from rfl, hf]
    decide
  refine ⟨_, congrArg Host.Outcome.next ((if_neg hwaits).trans ((if_neg (by decide)).trans (if_neg hf'))), ?_⟩
  dsimp only
  rw [(fenceCluster_netKept _ _ _).counters]
  unfold reportFlit
  rw [getIsland_modNet]
  unfold getIsland
  rw [note_fabric]
  exact congrArg NetCounters.watchdogFires (congrArg Island.net (getIsland_modNet (advance s time) (clusterOf consumer) _))

theorem flitRetry_counts (time die dir sub : Nat) (s : State) (hn : (neighbour die dir).isSome = true) (hs : sub < 16) :
    ∃ t, exec (.flitRetry time die dir sub) s = .next t ∧
      (tget ({} : Edge) t.fabric.edges (linkKey die dir)).retries =
        (tget ({} : Edge) s.fabric.edges (linkKey die dir)).retries + 1 := by
  refine ⟨_, congrArg Host.Outcome.next (if_pos (by simp [hn, hs])), ?_⟩
  dsimp only
  split
  · exact congrArg Edge.retries (tget_tput_same _ _ _ _)
  · exact congrArg Edge.retries (tget_tput_same _ _ _ _)

/-- A sublink that is mapped out is bad. -/
theorem mapOutSublink_bad (s : State) (die dir : Nat) {sub : Nat} (hs : sub < 16) :
    (tget ({} : Edge) (mapOutSublink s die dir sub).fabric.edges (linkKey die dir)).bad.getLsbD sub = true := by
  unfold mapOutSublink
  dsimp only
  split
  · assumption
  · rw [(coverLink_netKept _ _ _).edges, mapChanged_fabric, note_fabric]
    dsimp only
    rw [tget_tput_same]
    dsimp only
    rw [BitVec.getLsbD_or, BitVec.getLsbD_ofNat, Nat.testBit_two_pow_self]
    simp [hs]

theorem sublinkOut_mapsOut (time die dir sub : Nat) (s : State) (hs : sub < 16)
    (hd : (tget ({} : Edge) s.fabric.edges (linkKey die dir)).outDue.contains sub = true) :
    ∃ t, exec (.sublinkOut time die dir sub) s = .next t ∧
      (tget ({} : Edge) t.fabric.edges (linkKey die dir)).bad.getLsbD sub = true :=
  ⟨_, congrArg Host.Outcome.next (if_pos hd), mapOutSublink_bad _ die dir hs⟩

/-- What is taken from a list passes the test. -/
theorem any_of_takeFirst {α : Type} {p : α → Bool} {l : List α} {r : α × List α} (h : takeFirst p l = some r) :
    l.any p = true := by
  induction l generalizing r with
  | nil => exact absurd h (by simp [takeFirst])
  | cons x l ih =>
    unfold takeFirst at h
    split at h
    · next hx => simp [hx]
    · obtain ⟨r', hr', -⟩ := Option.map_eq_some_iff.mp h
      rw [List.any_cons, ih hr', Bool.or_true]

theorem mergeWindowClose_closes (u row : Nat) (w : Window) (rest : List Window) (s : State)
    (hw : takeFirst (fun (x : Window) => x.row == row) (getIsland s u).windows = some (w, rest)) :
    ∃ t, exec (.mergeWindowClose u row) s = .next t ∧ (getIsland t u).windows = rest ∧ Only [.fabric] s t := by
  have he : exec (.mergeWindowClose u row) s = .next (sendWindow (putIsland s u { getIsland s u with windows := rest }) u w) := by
    show execMergeWindowClose u row s = _
    unfold execMergeWindowClose closeWindow
    rw [if_pos (any_of_takeFirst hw)]
    dsimp only
    rw [hw]
  refine ⟨_, he, ?_, only_of_outHeld (execMergeWindowClose_held (held_self _ s) (by rfl)) he⟩
  rw [sendWindow_keeps (f := Island.windows) (fun _ _ => rfl), getIsland_putIsland]

/-- Settles O60: the start's commands from O40's clauses, the registers and links from the lemmas above. -/
theorem startRegistersAndLinksComplete : Obligations.StartRegistersAndLinksComplete := by
  unfold Obligations.StartRegistersAndLinksComplete
  refine ⟨exportEnable_takes, hostTimeRead_reads, registerWrite_sizes, bankWrite_selects, exportWindowRead_control,
    fun time va vb s h => ?_, fun time f s hf hp ht => ?_, fun time also s h => ?_, fun time a s hp => ?_,
    fun time also s h => ?_, fun time s => ?_, fun time k v s hk hlo hhi => ?_,
    fun time k v also s hk hu hv hb ho => ?_, fun time k v s hk hu hlo hhi => ?_, fun time s hp hf hw ht => ?_,
    tokenArrival_refused, sendAck_resumes, watchdog_fires, flitRetry_counts, sublinkOut_mapsOut, mergeWindowClose_closes⟩
  · obtain ⟨t, he, hmod, -, -, -, honly⟩ := modEnRise_begins time va vb s h
    exact ⟨t, he, hmod, honly⟩
  · obtain ⟨t, he, hphase, -, honly⟩ := dischargeDelayEnd_begins time f s hf hp ht
    exact ⟨t, he, hphase, honly⟩
  · obtain ⟨t, he, hmod, hphase, -⟩ := modEnFall_darkens time also s h
    exact ⟨t, he, hmod, hphase⟩
  · obtain ⟨t, he, hstraps, hphase, -⟩ := strapSample_latches time a s hp
    exact ⟨t, he, hstraps, hphase⟩
  · obtain ⟨t, he, hphase, hflow, -⟩ := flowLoss_stops time also s (.inl h)
    exact ⟨t, he, hphase, hflow⟩
  · obtain ⟨t, he, hflow, -, -, honly⟩ := flowRestored_goes_on time s
    exact ⟨t, he, hflow, honly⟩
  · obtain ⟨t, he, hfeed, -⟩ := feedInUse_takes time k v s hk hlo hhi
    exact ⟨t, he, by rw [hfeed], by rw [hfeed]⟩
  · obtain ⟨t, he, hfeed, hother, -⟩ := feedLost_beside_another time k v also s hk hu hv hb ho
    exact ⟨t, he, by rw [hfeed], hother⟩
  · obtain ⟨t, he, hfeed, -⟩ := feedWarning_warns time k v s hk hu hlo hhi
    exact ⟨t, he, by rw [hfeed]; exact hu, by rw [hfeed]⟩
  · obtain ⟨t, he, hwaited, hfault, -⟩ := feedWaitTimeout_holdsFault time s hp hf hw ht
    exact ⟨t, he, hwaited, hfault⟩

end Sys2Proof.Proofs

namespace Sys2Proof.Proofs

open Sys2Proof Sys2Proof.Machine Sys2Proof.Laws

/-! ## Watchdogs of idle islands (R62) -/

/-- An island with no descriptor, whose every step has ended there, has no step in flight. -/
theorem stepInFlight_eq_false {s : State} {u : Nat} (hd : (getIsland s u).desc = none)
    (hs : ∀ st ∈ s.serving.steps, (stepPath s st).contains u = true → st.ended.contains u = true) :
    stepInFlight s u = false := by
  unfold stepInFlight
  rw [hd, Option.isSome_none, Bool.false_or, List.any_eq_false]
  intro st hst
  cases hp : (stepPath s st).contains u with
  | false => simp
  | true => rw [hs st hst hp]; decide

/-- Settles O55: with no step in flight the consumer is not watched, so nothing but the time changes. -/
theorem noStepNoWatchdog : Obligations.NoStepNoWatchdog := by
  unfold Obligations.NoStepNoWatchdog
  intro time consumer producer crossing same s hd hs
  have hidle : stepInFlight s (clusterOf consumer) = false := stepInFlight_eq_false hd hs
  have hwatching : watching (advance s time) consumer crossing = false := by
    show watching s consumer crossing = false
    unfold watching
    dsimp only
    rw [hidle, Bool.and_false, Bool.false_and]
  exact congrArg Host.Outcome.next (if_pos (.inl hwatching))

/-! ## Fields of an island that a row's read keeps -/

/-- A field of an island that neither a report's flit nor an access counter changes. -/
structure OffCounters {α : Type} (f : Island → α) : Prop where
  flits : ∀ i n, f { i with net := { i.net with flitsOut := n } } = f i
  counts : ∀ i m, f { i with mem := m } = f i

section
variable {α : Type} {f : Island → α}

theorem reportFlit_keeps (hf : OffCounters f) (s : State) (u : Nat) : IslandsKeep f s (reportFlit s u) :=
  putIsland_keeps (hf.flits _ _)

theorem modMem_keeps (hf : OffCounters f) (s : State) (u : Nat) (g : MemCounters → MemCounters) :
    IslandsKeep f s (modMem s u g) := putIsland_keeps (hf.counts _ _)

theorem isolationFault_keeps (hf : OffCounters f) (s : State) (p : Place) (aux : Nat) :
    IslandsKeep f s (isolationFault s p aux) :=
  ((islandsKeep_of_islands (by rw [note_fabric])).trans (reportFlit_keeps hf _ _)).trans (modMem_keeps hf _ _ _)

theorem readRow_keeps (hf : OffCounters f) (s : State) (runner : Nat) (p : Place) :
    IslandsKeep f s (readRow s runner p).state := by
  unfold readRow
  split
  · exact isolationFault_keeps hf s p 1
  split
  · exact modMem_keeps hf _ _ _
  · exact IslandsKeep.refl s

theorem readRows_keeps (hf : OffCounters f) (s : State) (runner : Nat) (p : Place) (n : Nat) :
    IslandsKeep f s (readRows s runner p n).state := by
  induction n generalizing s p with
  | zero => exact IslandsKeep.refl s
  | succ n ih => exact (readRow_keeps hf s runner p).trans (ih _ _)

end

theorem offCounters_stalled : OffCounters Island.stalled := ⟨fun _ _ => rfl, fun _ _ => rfl⟩
theorem offCounters_partials : OffCounters Island.partials := ⟨fun _ _ => rfl, fun _ _ => rfl⟩
theorem offCounters_windows : OffCounters Island.windows := ⟨fun _ _ => rfl, fun _ _ => rfl⟩
theorem offCounters_fenced : OffCounters Island.fenced := ⟨fun _ _ => rfl, fun _ _ => rfl⟩
theorem offCounters_mergeDeclined : OffCounters (fun i => i.net.mergeDeclined) := ⟨fun _ _ => rfl, fun _ _ => rfl⟩

/-- A row's read puts nothing in flight. -/
theorem readRow_inFlight (s : State) (runner : Nat) (p : Place) : (readRow s runner p).state.fabric.inFlight = s.fabric.inFlight := by
  unfold readRow
  split
  · show (note s 0x0105 3 p.cluster p.row 1).fabric.inFlight = _
    rw [note_fabric]
  split
  · rfl
  · rfl

/-! ## Merge entries (R54) -/

theorem takeFirst_eq_none {α : Type} {p : α → Bool} {l : List α} (h : ∀ x ∈ l, p x = false) : takeFirst p l = none := by
  induction l with
  | nil => rfl
  | cons x l ih =>
    obtain ⟨hx, hl⟩ := List.forall_mem_cons.mp h
    unfold takeFirst
    rw [hx, ih hl]
    rfl

theorem takeFirst_passes {α : Type} {p : α → Bool} {l rest : List α} {x : α} (h : takeFirst p l = some (x, rest)) :
    p x = true := by
  induction l generalizing rest with
  | nil => exact absurd h (by simp [takeFirst])
  | cons y l ih =>
    unfold takeFirst at h
    split at h
    · next hy =>
      cases h
      exact hy
    · obtain ⟨⟨x', l'⟩, hl', he⟩ := Option.map_eq_some_iff.mp h
      cases he
      exact ih hl'

/-- A transfer as its producer hands it to the network: with its step, on the path of the route tables (R46). -/
def sentBy (s : State) (producer : Nat) (x : Transfer) : Transfer :=
  { x with producer := producer, step := sendStep s producer, path := unitPath s (runSlot s (clusterOf producer)) producer x.consumer }

/-- What the network is handed for a consumer that is not fenced goes in flight behind the rest. -/
theorem transmit_inFlight {s : State} {producer : Nat} {x : Transfer} (hf : (getIsland s (clusterOf x.consumer)).fenced = false)
    (n : Nat) : (transmit s producer x n).fabric.inFlight = s.fabric.inFlight ++ [sentBy s producer x] := by
  have hf' : ¬ (getIsland (modNet s (clusterOf producer) (fun c => { c with flitsOut := sat 64 (c.flitsOut + n) }))
      (clusterOf x.consumer)).fenced = true := by
    rw [modNet_keeps (f := Island.fenced) (fun _ _ => rfl), hf]
    decide
  unfold transmit
  dsimp only
  rw [if_neg hf']
  rfl

/-- Of the islands it changes only how many flits left the producer. -/
theorem transmit_keeps {α : Type} {f : Island → α} (hf : ∀ i n, f { i with net := { i.net with flitsOut := n } } = f i)
    (s : State) (producer : Nat) (x : Transfer) (n : Nat) : IslandsKeep f s (transmit s producer x n) := by
  unfold transmit
  dsimp only
  split
  · exact (putIsland_keeps (hf _ _)).trans (islandsKeep_of_islands (by rfl))
  · exact (putIsland_keeps (hf _ _)).trans (islandsKeep_of_islands (by rfl))

section
variable {s : State} {c : Nat} {p : Place} {m : Member}

theorem mergeRow_joins {w : Window} {rest : List Window}
    (hw : takeFirst (joinable p.row) (getIsland s c).windows = some (w, rest)) :
    getIsland (mergeRow s c p m []) c = { getIsland s c with
      windows := rest ++ [{ w with members := w.members ++ [m] }],
      net := { (getIsland s c).net with mergedReads := sat 32 ((getIsland s c).net.mergedReads + 1) } } := by
  unfold mergeRow
  dsimp only
  rw [hw]
  exact getIsland_putIsland _ _ _

/-- The data that a read served at once takes to its requester. -/
def declinedTransfer (r : RowRead) (m : Member) : Transfer :=
  { consumer := m.tile, crossing := m.crossing,
    flits := { poisoned := r.poisoned, total := m.total, parts := [(m.place, r.bytes)] } }

/-- A flagged read that found every entry busy is counted (R54). -/
def countDeclined (s : State) (c : Nat) : State := modNet s c (fun n => { n with mergeDeclined := sat 32 (n.mergeDeclined + 1) })

theorem countDeclined_keeps {α : Type} {f : Island → α} (h : ∀ i n, f { i with net := n } = f i) :
    IslandsKeep f s (countDeclined s c) := modNet_keeps h

variable (hw : takeFirst (joinable p.row) (getIsland s c).windows = none)
include hw

/-- A read that joins no window opens one, or is declined and served at once. -/
theorem mergeRow_reads : ∃ r, r = readRow s (clusterOf m.tile) p ∧ mergeRow s c p m [] =
    (if mergeFree (getIsland r.state c) p.row then
      putIsland r.state c { getIsland r.state c with windows := (getIsland r.state c).windows ++
        [{ row := p.row, members := [m], data := r.bytes, poisoned := r.poisoned }] }
    else transmit (countDeclined r.state c) c (declinedTransfer r m) 1) := by
  refine ⟨_, rfl, ?_⟩
  unfold mergeRow
  dsimp only
  rw [hw]
  dsimp only
  rw [show eccBad p [] = false from rfl, Bool.or_false]
  rfl

theorem mergeRow_opens (hfree : mergeFree (getIsland s c) p.row = true) : ∃ w,
    (getIsland (mergeRow s c p m []) c).windows = (getIsland s c).windows ++ [w] ∧
      w.row = p.row ∧ w.members = [m] ∧ w.engines = [] := by
  obtain ⟨r, hr, he⟩ := mergeRow_reads (m := m) hw
  have hwin : (getIsland r.state c).windows = (getIsland s c).windows := by
    rw [hr]; exact readRow_keeps offCounters_windows _ _ _ c
  have hfree' : mergeFree (getIsland r.state c) p.row = true := by
    rw [← hfree]; unfold mergeFree; rw [hwin]
  rw [he, if_pos hfree', getIsland_putIsland]
  exact ⟨_, congrArg (· ++ _) hwin, rfl, rfl, rfl⟩

theorem mergeRow_declines (hfull : mergeFree (getIsland s c) p.row = false) :
    (getIsland (mergeRow s c p m []) c).windows = (getIsland s c).windows ∧
      (getIsland (mergeRow s c p m []) c).net.mergeDeclined = sat 32 ((getIsland s c).net.mergeDeclined + 1) ∧
      ((getIsland s (clusterOf m.tile)).fenced = false →
        ∃ x, (mergeRow s c p m []).fabric.inFlight = s.fabric.inFlight ++ [x] ∧ x.consumer = m.tile ∧
          x.crossing = m.crossing) := by
  obtain ⟨r, hr, he⟩ := mergeRow_reads (m := m) hw
  have hread {α : Type} {f : Island → α} (hf : OffCounters f) : IslandsKeep f s r.state := by
    rw [hr]; exact readRow_keeps hf _ _ _
  have hfull' : ¬ mergeFree (getIsland r.state c) p.row = true := by
    rw [show mergeFree (getIsland r.state c) p.row = mergeFree (getIsland s c) p.row by
      unfold mergeFree; rw [hread offCounters_windows], hfull]
    decide
  rw [he, if_neg hfull']
  refine ⟨?_, ?_, fun hf => ?_⟩
  · rw [transmit_keeps (f := Island.windows) (fun _ _ => rfl), countDeclined_keeps (f := Island.windows) (fun _ _ => rfl),
      hread offCounters_windows]
  · refine (transmit_keeps (f := fun i => i.net.mergeDeclined) (fun _ _ => rfl) _ _ _ _ c).trans ?_
    unfold countDeclined
    rw [getIsland_modNet]
    exact congrArg (fun n => sat 32 (n + 1)) (hread offCounters_mergeDeclined c)
  · have hopen : (getIsland (countDeclined r.state c)
        (clusterOf (declinedTransfer r m).consumer)).fenced = false := by
      rw [countDeclined_keeps (f := Island.fenced) (fun _ _ => rfl), hread offCounters_fenced]
      exact hf
    have hflight : r.state.fabric.inFlight = s.fabric.inFlight := by rw [hr, readRow_inFlight]
    refine ⟨sentBy (countDeclined r.state c) c (declinedTransfer r m), (transmit_inFlight hopen 1).trans ?_, rfl, rfl⟩
    exact congrArg (· ++ _) hflight

end

/-- No window may be joined when every window of the row is full. -/
theorem takeFirst_joinable_none {row : Nat} {l : List Window}
    (h : ∀ w ∈ l, w.row = row → 64 ≤ w.members.length + w.engines.length) : takeFirst (joinable row) l = none := by
  refine takeFirst_eq_none fun w hw => ?_
  unfold joinable
  by_cases hrow : w.row = row
  · simp [h w hw hrow]
  · simp [hrow]

/-- Settles O58: a read joins the window that `takeFirst` finds; else the row is read, and the slice has an entry free or not. -/
theorem mergeEntries : Obligations.MergeEntries := by
  unfold Obligations.MergeEntries
  refine fun s c a m => ⟨fun w rest hw => ?_, fun hfull => ?_⟩
  · rw [mergeRow_joins hw]
    have hjoin := takeFirst_passes hw
    unfold joinable at hjoin
    rw [Bool.and_eq_true, decide_eq_true_eq] at hjoin
    exact ⟨rfl, hjoin.2, rfl⟩
  · have hnone := takeFirst_joinable_none hfull
    split
    · next hfree => exact mergeRow_opens hnone (decide_eq_true hfree)
    · next hfree => exact mergeRow_declines hnone (decide_eq_false hfree)

end Sys2Proof.Proofs

namespace Sys2Proof.Proofs

open Sys2Proof Sys2Proof.Machine Sys2Proof.Laws

/-! ## A transfer that another cluster's gate takes

TOKEN_ARRIVAL also resumes the cluster whose DMA engine a transfer names. The statement asks nothing of that engine where the
transfer writes no memory, so the engine's cluster may wait at a RECV of the transfer's own consumer, and take it at once. -/

/-- The data of one byte, whole. -/
def strayFlits : Flits := { parts := [(0, [7#8])] }

/-- A transfer for tile 1 on crossing 5 that writes no memory, and names the DMA engine of cluster 16. -/
def strayTransfer : Transfer := { consumer := 1, crossing := 5, flits := strayFlits, forDma := some (16, 0) }

/-- Cluster 16 waits at a RECV of tile 1 with a token of that crossing present; cluster 0, which holds tile 1, waits for nothing. -/
def strayState : State :=
  { fabric := {
      islands := [(16, { gate := some (.crossing 1 0 5), inbox := [(boxKey 1 5, strayFlits)] })],
      inFlight := [strayTransfer] } }

/-- The transfer that arrives is gone from its consumer's buffer. -/
theorem strayArrival_takes :
    (getIsland (nextOf (exec (.tokenArrival 1 5 0) strayState) strayState) (clusterOf 1)).inbox = [] := by
  decide +kernel

/-- Refutes O43: in `strayState` the buffer of tile 1 should hold the transfer that arrived, but the resumed cluster 16 has taken it.
A transfer that writes no memory would also have to name no DMA engine. -/
theorem not_transfersArriveAndLinksFail : ¬ Obligations.TransfersArriveAndLinksFail := by
  unfold Obligations.TransfersArriveAndLinksFail
  rintro ⟨harrives, -⟩
  obtain ⟨hopen, -⟩ := harrives 1 5 0 strayTransfer [] strayState (by decide +kernel)
  obtain ⟨t, ht, -, -, hkeeps⟩ :=
    hopen (by decide) rfl rfl (by decide +kernel) (by decide +kernel) (.inl (by decide +kernel))
  have hbox := hkeeps rfl
  obtain rfl : nextOf (exec (.tokenArrival 1 5 0) strayState) strayState = t := by rw [ht]; rfl
  rw [strayArrival_takes] at hbox
  exact absurd hbox (by decide +kernel)

end Sys2Proof.Proofs

namespace Sys2Proof.Proofs

open Sys2Proof Sys2Proof.Machine Sys2Proof.Laws

/-! ## A stroke that issues (R73, R75 to R77) -/

@[simp] theorem getTile_modTile (s : State) (t : Nat) (g : Tile → Tile) : getTile (modTile s t g) t = g (getTile s t) :=
  getTile_putTile _ _ _

@[simp] theorem getIsland_modTile (s : State) (t : Nat) (g : Tile → Tile) (v : Nat) : getIsland (modTile s t g) v = getIsland s v :=
  rfl

theorem putIsland_only (s : State) (u : Nat) (v : Island) : Only [.fabric] s (putIsland s u v) := setFabric_only s _

theorem modTile_only (s : State) (t : Nat) (g : Tile → Tile) : Only [.fabric] s (modTile s t g) := setFabric_only s _

/-- The sequencer at `s0` issues the stroke; `s` is the state with the island's waiting writes landed, and `u` that with the
tile's cycle moved on, on which the stroke works. -/
structure Issues (h : StrokeHdr) (s0 s u : State) : Prop where
  can : canIssue s0 h.tile = true
  landed : s = landIsland s0 (clusterOf h.tile)
  clocked : u = modTile s h.tile (fun t => { t with cycle := t.cycle + h.delta })

namespace Issues

variable {h : StrokeHdr} {s0 s u : State} (hi : Issues h s0 s u)
include hi

theorem next (hp : predHolds u h = true) (body failing : State → State) :
    (.next (issue s0 h body failing) : Out) = .next (body u) := by
  obtain ⟨hcan, rfl, rfl⟩ := hi
  unfold issue
  rw [if_pos hcan]
  exact congrArg _ (if_pos hp)

theorem next_failing (hp : predHolds u h = false) (body failing : State → State) :
    (.next (issue s0 h body failing) : Out) = .next (failing u) := by
  obtain ⟨hcan, rfl, rfl⟩ := hi
  unfold issue
  rw [if_pos hcan]
  exact congrArg _ (if_neg (ne_true_of_eq_false hp))

/-- No island changes as the tile's cycle moves on. -/
theorem island (v : Nat) : getIsland u v = getIsland s v := by
  rw [hi.clocked]
  rfl

theorem tile : getTile u h.tile = { getTile s h.tile with cycle := (getTile s h.tile).cycle + h.delta } := by
  rw [hi.clocked, getTile_modTile]

theorem only : Only [.fabric] s u := by
  rw [hi.clocked]
  exact modTile_only _ _ _

/-- A stalled island does not issue, and its waiting writes stall it no further. -/
theorem stalled : (getIsland u (clusterOf h.tile)).stalled = none := by
  have hcan := hi.can
  unfold canIssue at hcan
  rw [Bool.and_eq_true, Option.isNone_iff_eq_none] at hcan
  rw [hi.island, hi.landed, landIsland_stalled]
  exact hcan.2

theorem stalled_readRows (p : Place) (n : Nat) :
    (getIsland (readRows u (clusterOf h.tile) p n).state (clusterOf h.tile)).stalled = none := by
  rw [readRows_keeps offCounters_stalled]
  exact hi.stalled

end Issues

/-! ## Vector registers (R69) -/

theorem fpList_length (n : Nat) (l : List Byte) : (fpList n l).length = n := by
  induction n generalizing l with
  | zero => rfl
  | succ n ih => exact congrArg (· + 1) (ih _)

/-- A read after values were written at the keys of their places, no two of which are one. -/
theorem tget_foldl_zipIdx {α : Type} [DecidableEq α] (d : α) {key : Nat → Nat} (hkey : Function.Injective key) (xs : List α)
    (k i : Nat) (t : Table α) :
    tget d ((xs.zipIdx k).foldl (fun tb x => tput d tb (key x.2) x.1) t) (key i) =
      if k ≤ i ∧ i < k + xs.length then xs.getD (i - k) d else tget d t (key i) := by
  induction xs generalizing k t with
  | nil => rw [if_neg (by simp)]; rfl
  | cons x xs ih =>
    rw [List.zipIdx_cons, List.foldl_cons, ih, List.length_cons]
    by_cases hi : i = k
    · subst hi
      rw [if_neg (by omega), if_pos (by omega), tget_tput_same, Nat.sub_self]
      rfl
    · rw [tget_tput_ne _ _ _ (fun h => hi (hkey h))]
      by_cases hin : k + 1 ≤ i ∧ i < k + 1 + xs.length
      · rw [if_pos hin, if_pos (by omega), show i - k = i - (k + 1) + 1 by omega, List.getD_cons_succ]
      · rw [if_neg hin, if_neg (by omega)]

/-- The values of a run of registers lie at keys of their own. -/
theorem vregKey_injective (tile reg : Nat) :
    Function.Injective (fun i => (reg + i / vectorLanes tile) * 64 + i % vectorLanes tile) := by
  intro i j
  unfold vectorLanes
  split <;> (dsimp only; omega)

theorem vget_vput (s : State) (tile reg : Nat) (xs : List Fp32) (tainted : Bool) {i : Nat} (hi : i < xs.length) :
    vget (vput s tile reg xs tainted) tile reg i = xs.getD i 0 := by
  unfold vget vput
  rw [getTile_modTile]
  refine (tget_foldl_zipIdx 0#32 (vregKey_injective tile reg) xs 0 i _).trans ?_
  rw [if_pos ⟨Nat.zero_le _, by omega⟩, Nat.sub_zero]
  rfl

section
variable {h : StrokeHdr} {s0 s u : State} (hi : Issues h s0 s u)
include hi

theorem vtainted_of_issues (reg n : Nat) : vtainted u h.tile reg n = vtainted s h.tile reg n := by
  unfold vtainted
  rw [hi.tile]

theorem vreg_of_issues (reg : Nat) : vreg u h.tile reg = vreg s h.tile reg := by
  unfold vreg vget
  rw [hi.tile]

end

/-! ## What a producer hands to the network (R42, R64) -/

theorem clusterOf_of_isCluster {u : Nat} (h : isCluster u = true) : clusterOf u = u := by
  unfold isCluster at h
  rw [Bool.and_eq_true, decide_eq_true_eq] at h
  exact Nat.div_mul_cancel (Nat.dvd_of_mod_eq_zero h.2)

theorem stallFor_inFlight (s : State) (tile c : Nat) (full : Bool) : (stallFor s tile c full).fabric.inFlight = s.fabric.inFlight := by
  unfold stallFor
  split <;> rfl

theorem stallFor_refused (s : State) (tile c : Nat) (full : Bool) : (stallFor s tile c full).fabric.refused = s.fabric.refused := by
  unfold stallFor
  split <;> rfl

theorem stallFor_stalled (s : State) (tile c : Nat) (full : Bool) : (getIsland (stallFor s tile c full) (clusterOf tile)).stalled =
    if full = true then some c else (getIsland s (clusterOf tile)).stalled := by
  unfold stallFor
  split
  · exact congrArg Island.stalled (getIsland_putIsland _ _ _)
  · rfl

/-- To a fenced consumer the data waits at the die boundary. -/
theorem transmit_refuses {s : State} {producer : Nat} {x : Transfer} (hf : (getIsland s (clusterOf x.consumer)).fenced = true)
    (n : Nat) : (transmit s producer x n).fabric.inFlight = s.fabric.inFlight ∧
      (transmit s producer x n).fabric.refused = s.fabric.refused ++ [sentBy s producer x] := by
  have hf' : (getIsland (modNet s (clusterOf producer) (fun c => { c with flitsOut := sat 64 (c.flitsOut + n) }))
      (clusterOf x.consumer)).fenced = true := by
    rw [modNet_keeps (f := Island.fenced) (fun _ _ => rfl), hf]
  unfold transmit
  dsimp only
  rw [if_pos hf']
  exact ⟨rfl, rfl⟩

section
variable {s : State} {tile : Nat} {x : Transfer} (hs : (getIsland s (clusterOf tile)).stalled = none)
include hs

/-- A producer that is not stalled sends: a consumer that is not fenced gets the data in flight, and stalls it when it is full; to a
fenced one, which nothing fills, the data waits at the die boundary. -/
theorem stallFor_transmit {full : Bool} (n c : Nat) (hfull : (getIsland s (clusterOf x.consumer)).fenced = true → full = false) :
    if (getIsland s (clusterOf x.consumer)).fenced then
      (stallFor (transmit s tile x n) tile c full).fabric.inFlight = s.fabric.inFlight ∧
        (stallFor (transmit s tile x n) tile c full).fabric.refused = s.fabric.refused ++ [sentBy s tile x] ∧
        (getIsland (stallFor (transmit s tile x n) tile c full) (clusterOf tile)).stalled = none
    else
      (stallFor (transmit s tile x n) tile c full).fabric.inFlight = s.fabric.inFlight ++ [sentBy s tile x] ∧
        (getIsland (stallFor (transmit s tile x n) tile c full) (clusterOf tile)).stalled = if full = true then some c else none := by
  have hsent : (getIsland (transmit s tile x n) (clusterOf tile)).stalled = none := by
    rw [transmit_keeps (f := Island.stalled) (fun _ _ => rfl), hs]
  rw [stallFor_inFlight, stallFor_refused, stallFor_stalled, hsent]
  split
  · next hf =>
    obtain ⟨hflight, hrefused⟩ := transmit_refuses hf n
    exact ⟨hflight, hrefused, by rw [hfull hf, if_neg Bool.false_ne_true]⟩
  · next hf => exact ⟨transmit_inFlight (eq_false_of_ne_true hf) n, rfl⟩

end

/-! ## Slice accesses (R53, R74) -/

section
variable {s : State} {tile unit : Nat} (place addr rows c : Nat)

theorem sliceReadTile_rejects (hu : isCluster unit = false) (merge : Bool) (e : Ecc) :
    sliceReadTile s tile place addr unit rows c merge e = s := if_pos hu

theorem sliceWriteTile_rejects (hu : isCluster unit = false) (full : Bool) (e : Ecc) :
    sliceWriteTile s tile place addr unit rows c full e = s := if_pos hu

theorem sliceReadTile_own (hu : isCluster (clusterOf tile) = true) (merge : Bool) :
    sliceReadTile s tile place addr (clusterOf tile) rows c merge [] =
      let r := readRows s (clusterOf tile) (.slice (clusterOf tile) addr) rows
      writeRows r.state (clusterOf tile) (.scratch tile place) r.poisoned rows r.bytes := by
  unfold sliceReadTile
  dsimp only
  rw [if_neg (by simp [hu]), if_pos rfl, show eccBad (.slice (clusterOf tile) addr) [] = false from rfl, Bool.or_false]
  rfl

theorem sliceWriteTile_own (hu : isCluster (clusterOf tile) = true) (full : Bool) :
    sliceWriteTile s tile place addr (clusterOf tile) rows c full [] =
      let r := readRows s (clusterOf tile) (.scratch tile place) rows
      writeRows r.state (clusterOf tile) (.slice (clusterOf tile) addr) r.poisoned rows r.bytes := by
  unfold sliceWriteTile
  dsimp only
  rw [if_neg (by simp [hu]), if_pos rfl, show eccBad (.scratch tile place) [] = false from rfl, Bool.or_false]
  rfl

variable (hu : isCluster unit = true) (hne : unit ≠ clusterOf tile)
include hu hne

theorem sliceReadTile_fenced (hf : (getIsland s unit).fenced = true) (merge : Bool) (e : Ecc) :
    sliceReadTile s tile place addr unit rows c merge e = s := by
  unfold sliceReadTile
  dsimp only
  rw [if_neg (by simp [hu]), if_neg hne, if_pos hf]

theorem sliceReadTile_remote (hf : (getIsland s unit).fenced = false) :
    sliceReadTile s tile place addr unit rows c false [] =
      let r := readRows (routed s (runSlot s (clusterOf tile)) (clusterOf tile) unit 1) (clusterOf tile) (.slice unit addr) rows
      transmit r.state unit { consumer := tile, crossing := c, flits := oneFlit r.bytes r.poisoned } rows := by
  unfold sliceReadTile
  dsimp only
  rw [if_neg (by simp [hu]), if_neg hne, if_neg (by simp [hf]), if_neg (by decide), show eccBad (.slice unit addr) [] = false from rfl,
    Bool.or_false]
  rfl

theorem sliceWriteTile_remote (full : Bool) :
    sliceWriteTile s tile place addr unit rows c full [] =
      let r := readRows s (clusterOf tile) (.scratch tile place) rows
      stallFor (transmit r.state tile
        { consumer := unit, crossing := c, flits := oneFlit r.bytes r.poisoned, writeAt := some addr } rows) tile c
        (full && !(getIsland r.state unit).fenced) := by
  unfold sliceWriteTile
  dsimp only
  rw [if_neg (by simp [hu]), if_neg hne, show eccBad (.scratch tile place) [] = false from rfl, Bool.or_false]
  rfl

end

/-! ## The strokes that move rows -/

section
variable {h : StrokeHdr} {s0 s u : State} (hi : Issues h s0 s u) (hp : predHolds u h = true)
include hi hp

theorem load_reads (reg a : Nat) : ∃ t, exec (.load h reg a []) s0 = .next t ∧ ∀ i, i < vectorLanes h.tile →
    vget t h.tile reg i = (fpList (vectorLanes h.tile)
      (readRows u (clusterOf h.tile) (.scratch h.tile a) (vectorLanes h.tile / 16)).bytes).getD i 0 := by
  refine ⟨_, hi.next hp _ _, fun i hlt => ?_⟩
  exact vget_vput _ _ _ _ _ (by rw [fpList_length]; exact hlt)

theorem store_writes (reg a : Nat) : exec (.store h reg a) s0 = .next (writeRows u (clusterOf h.tile) (.scratch h.tile a)
    (vtainted s h.tile reg (vectorLanes h.tile)) (vectorLanes h.tile / 16) ((vreg s h.tile reg).flatMap fpBytes)) := by
  rw [← vtainted_of_issues hi, ← vreg_of_issues hi]
  exact hi.next hp _ _

theorem sliceWrite_sends (src a unit rows c : Nat) (full : Bool) {r : RowRead} {x : Transfer} (hu : isCluster unit = true)
    (hne : unit ≠ clusterOf h.tile) (hr : r = readRows u (clusterOf h.tile) (.scratch h.tile src) rows)
    (hx : x = sentBy r.state h.tile
      { consumer := unit, crossing := c, flits := oneFlit r.bytes r.poisoned, writeAt := some a }) :
    ∃ t, exec (.sliceWrite h src a unit rows ⟨c, full, []⟩) s0 = .next t ∧
      (if (getIsland r.state unit).fenced then
        t.fabric.inFlight = r.state.fabric.inFlight ∧ t.fabric.refused = r.state.fabric.refused ++ [x]
       else t.fabric.inFlight = r.state.fabric.inFlight ++ [x] ∧
        (full = true → (getIsland t (clusterOf h.tile)).stalled = some c) ∧
        (full = false → (getIsland t (clusterOf h.tile)).stalled = none)) := by
  have he := (hi.next hp (fun s => sliceWriteTile s h.tile src a unit rows c full []) id).trans
    (congrArg _ (sliceWriteTile_remote src a rows c hu hne full))
  dsimp only at he
  rw [← hr] at he
  have hstalled : (getIsland r.state (clusterOf h.tile)).stalled = none := by
    rw [hr]; exact hi.stalled_readRows _ _
  have hsent := stallFor_transmit (x := { consumer := unit, crossing := c, flits := oneFlit r.bytes r.poisoned, writeAt := some a })
    hstalled (full := full && !(getIsland r.state unit).fenced) rows c
    (by dsimp only; rw [clusterOf_of_isCluster hu]; intro hf; rw [hf, Bool.not_true, Bool.and_false])
  dsimp only at hsent
  rw [clusterOf_of_isCluster hu, ← hx] at hsent
  refine ⟨_, he, ?_⟩
  split at hsent
  · next hf =>
    rw [if_pos hf]
    exact ⟨hsent.1, hsent.2.1⟩
  · next hf =>
    obtain ⟨hflight, hstall⟩ := hsent
    rw [eq_false_of_ne_true hf, Bool.not_false, Bool.and_true] at hflight hstall ⊢
    rw [if_neg Bool.false_ne_true]
    refine ⟨hflight, fun hfull => ?_, fun hfull => ?_⟩
    · rw [hstall, if_pos hfull]
    · rw [hstall, if_neg (ne_true_of_eq_false hfull)]

end

/-- Settles O47: each clause is one form of a stroke that issues, with no wrong bit met. -/
theorem strokesMoveRows : Obligations.StrokesMoveRows := by
  unfold Obligations.StrokesMoveRows
  intro h s0 s u hcan hland hclock hp
  have hi : Issues h s0 s u := ⟨hcan, hland, hclock⟩
  refine ⟨load_reads hi hp, store_writes hi hp, fun dst a unit rows c merge full hu => ⟨?_, ?_⟩,
    fun dst a rows c merge r hu hr => ?_, fun dst a unit rows c r hu hne hf hr => ?_,
    fun dst a unit rows c merge hu hne hf => ?_, fun src a rows c full r hu hr => ?_,
    fun src a unit rows c full r x hu hne hr hx => sliceWrite_sends hi hp src a unit rows c full hu hne hr hx⟩
  · exact (hi.next hp _ _).trans (congrArg _ (sliceReadTile_rejects dst a rows c hu merge []))
  · exact (hi.next hp _ _).trans (congrArg _ (sliceWriteTile_rejects dst a rows c hu full []))
  · rw [hr]
    exact (hi.next hp _ _).trans (congrArg _ (sliceReadTile_own dst a rows c hu merge))
  · rw [hr]
    rw [← hi.island] at hf
    exact (hi.next hp _ _).trans (congrArg _ (sliceReadTile_remote dst a rows c hu hne hf))
  · rw [← hi.island] at hf
    exact (hi.next hp _ _).trans (congrArg _ (sliceReadTile_fenced dst a rows c hu hne hf merge []))
  · rw [hr]
    exact (hi.next hp _ _).trans (congrArg _ (sliceWriteTile_own src a rows c hu full))

end Sys2Proof.Proofs

namespace Sys2Proof.Proofs

open Sys2Proof Sys2Proof.Machine Sys2Proof.Laws

/-! ## Receive strokes (R43, R64) -/

section
variable {s : State} {tile : Nat} (dst c tag : Nat) (scale : Option Fp32)

theorem recvTile_takes {kv : Nat × Flits} (hs : swapTail s (clusterOf tile) = false)
    (hk : (getIsland s (clusterOf tile)).inbox.find? (fun kv => kv.1 == boxKey tile c && wholeFlits kv.2) = some kv) :
    recvTile s tile dst c = receive (putIsland s (clusterOf tile) { getIsland s (clusterOf tile) with
      inbox := terase (getIsland s (clusterOf tile)).inbox (boxKey tile c), gate := none }) tile dst kv.2 := by
  unfold recvTile
  dsimp only
  rw [if_neg (ne_true_of_eq_false hs), hk]

theorem recvTile_waits (h : swapTail s (clusterOf tile) = true ∨ (getIsland s (clusterOf tile)).inbox.find?
      (fun kv => kv.1 == boxKey tile c && wholeFlits kv.2) = none) :
    recvTile s tile dst c = putIsland s (clusterOf tile) { getIsland s (clusterOf tile) with
      gate := some (.crossing tile dst c) } := by
  unfold recvTile
  dsimp only
  split
  · next hk =>
    split at hk
    · exact absurd hk nofun
    · next hs => rw [h.resolve_left hs] at hk; exact absurd hk nofun
  · rfl

theorem ligRecvTile_takes {kv : Nat × Flits} (hs : swapTail s (clusterOf tile) = false)
    (hk : (getIsland s (clusterOf tile)).ligResults.find? (fun kv => kv.1 == tag) = some kv) :
    ligRecvTile s tile dst tag scale =
      ligReceive (putIsland s (clusterOf tile) { getIsland s (clusterOf tile) with gate := none }) tile dst tag scale kv.2 := by
  unfold ligRecvTile
  dsimp only
  rw [if_neg (ne_true_of_eq_false hs), hk]

theorem ligRecvTile_waits (h : swapTail s (clusterOf tile) = true ∨
      (getIsland s (clusterOf tile)).ligResults.find? (fun kv => kv.1 == tag) = none) :
    ligRecvTile s tile dst tag scale = putIsland s (clusterOf tile) { getIsland s (clusterOf tile) with
      gate := some (.ligature tile dst tag scale) } := by
  unfold ligRecvTile
  dsimp only
  split
  · next hk =>
    split at hk
    · exact absurd hk nofun
    · next hs => rw [h.resolve_left hs] at hk; exact absurd hk nofun
  · rfl

end

section
variable {h : StrokeHdr} {s0 s u : State} (hi : Issues h s0 s u)
include hi

/-- A stroke whose work is to gate its island leaves the gate, and changes nothing but the network. -/
theorem stroke_gates {w : Waiting} {f : State → State} (hp : predHolds u h = true) {e : Out}
    (he : e = .next (issue s0 h f id))
    (hf : f u = putIsland u (clusterOf h.tile) { getIsland u (clusterOf h.tile) with gate := some w }) :
    ∃ t, e = .next t ∧ (getIsland t (clusterOf h.tile)).gate = some w ∧ Only [.fabric] s t := by
  refine ⟨_, he.trans ((hi.next hp f id).trans (congrArg _ hf)), ?_, Only.trans hi.only (putIsland_only _ _ _)⟩
  rw [getIsland_putIsland]

end

/-! ## Sends and ligatures (R42, R57, R60) -/

section
variable {h : StrokeHdr} {s0 s u : State} (hi : Issues h s0 s u) (hp : predHolds u h = true)
include hi hp

theorem send_sends (src unit a rows c : Nat) (full : Bool) (r : RowRead) (x : Transfer) (hu : sendUnitOk unit = true)
    (hr : r = readRows u (clusterOf h.tile) (.scratch h.tile src) rows)
    (hx : x = sentBy r.state h.tile { consumer := unit, crossing := c, flits := oneFlit r.bytes r.poisoned, addr := a }) :
    ∃ t, exec (.send h src unit a rows c ⟨full, []⟩) s0 = .next t ∧
      (if (getIsland r.state (clusterOf unit)).fenced then
        t.fabric.inFlight = r.state.fabric.inFlight ∧ t.fabric.refused = r.state.fabric.refused ++ [x] ∧
          (getIsland t (clusterOf h.tile)).stalled = none
       else t.fabric.inFlight = r.state.fabric.inFlight ++ [x] ∧
        (getIsland t (clusterOf h.tile)).stalled =
          (if full = true ∨ frameRoom r.state (clusterOf unit) (sendStep r.state h.tile) = false then some c else none)) := by
  have he : exec (.send h src unit a rows c ⟨full, []⟩) s0 =
      .next (sendTile r.state h.tile unit a c (oneFlit r.bytes r.poisoned) rows full) := by
    refine (hi.next hp _ _).trans (congrArg _ ?_)
    dsimp only
    rw [if_pos hu, ← hr, show eccBad (.scratch h.tile src) [] = false from rfl, Bool.or_false]
    rfl
  have hstalled : (getIsland r.state (clusterOf h.tile)).stalled = none := by
    rw [hr]; exact hi.stalled_readRows _ _
  have hsent := stallFor_transmit (x := { consumer := unit, crossing := c, flits := oneFlit r.bytes r.poisoned, addr := a })
    hstalled (full := sendFull r.state h.tile unit full) rows c (fun hf => by unfold sendFull; rw [hf]; rfl)
  rw [← hx] at hsent
  refine ⟨_, he, ?_⟩
  unfold sendTile
  split at hsent
  · next hf =>
    rw [if_pos hf]
    exact hsent
  · next hf =>
    obtain ⟨hflight, hstall⟩ := hsent
    rw [if_neg hf]
    refine ⟨hflight, hstall.trans ?_⟩
    unfold sendFull
    rw [eq_false_of_ne_true hf]
    simp only [Bool.not_false, Bool.true_and, Bool.or_eq_true, Bool.not_eq_true']

theorem send_rejects (src unit a tag rows : Nat) (full : Bool) (hu : sendUnitOk unit = false) :
    exec (.send h src unit a rows tag ⟨full, []⟩) s0 = .next u ∧ exec (.ligSend h src unit a tag ⟨rows, []⟩) s0 = .next u :=
  ⟨(hi.next hp _ _).trans (congrArg _ (if_neg (ne_true_of_eq_false hu))),
    (hi.next hp _ _).trans (congrArg _ (if_neg (ne_true_of_eq_false hu)))⟩

theorem recv_takes (dst c : Nat) (kv : Nat × Flits) (hs : swapTail u (clusterOf h.tile) = false)
    (hk : (getIsland s (clusterOf h.tile)).inbox.find? (fun kv => kv.1 == boxKey h.tile c && wholeFlits kv.2) = some kv) :
    exec (.recv h dst c) s0 = .next (receive (putIsland u (clusterOf h.tile) { getIsland s (clusterOf h.tile) with
      inbox := terase (getIsland s (clusterOf h.tile)).inbox (boxKey h.tile c), gate := none }) h.tile dst kv.2) := by
  rw [← hi.island] at hk ⊢
  exact (hi.next hp _ _).trans (congrArg _ (recvTile_takes dst c hs hk))

theorem recv_waits (dst c : Nat) (hw : swapTail u (clusterOf h.tile) = true ∨ (getIsland s (clusterOf h.tile)).inbox.find?
      (fun kv => kv.1 == boxKey h.tile c && wholeFlits kv.2) = none) :
    ∃ t, exec (.recv h dst c) s0 = .next t ∧
      (getIsland t (clusterOf h.tile)).gate = some (.crossing h.tile dst c) ∧ Only [.fabric] s t := by
  rw [← hi.island] at hw
  exact stroke_gates hi hp rfl (recvTile_waits dst c hw)

theorem ligSend_enters (src unit a tag rows : Nat) (r : RowRead) (f : Flits) (q : Partial) (hu : sendUnitOk unit = true)
    (hr : r = readRows u (clusterOf h.tile) (.scratch h.tile src) rows)
    (hf : f = { linkForm r.state (clusterOf h.tile) (runSlot r.state (clusterOf h.tile)) tag (oneFlit r.bytes r.poisoned) with
      step := sendStep r.state h.tile })
    (hq : q = { tag := tag, input := .tile (unitTile h.tile), flits := f, slot := runSlot r.state (clusterOf h.tile),
                unit := unit, addr := a }) :
    ∃ t, exec (.ligSend h src unit a tag ⟨rows, []⟩) s0 = .next t ∧
      (getIsland t (clusterOf h.tile)).net = (getIsland r.state (clusterOf h.tile)).net ∧
      (if nodeRoom r.state (clusterOf h.tile) q then
        (getIsland t (clusterOf h.tile)).partials = (getIsland s (clusterOf h.tile)).partials ++ [q]
       else (getIsland t (clusterOf h.tile)).partials = (getIsland s (clusterOf h.tile)).partials ∧
        (getIsland t (clusterOf h.tile)).heldPartial = some q ∧
        (getIsland t (clusterOf h.tile)).stalled = some tag) := by
  have he : exec (.ligSend h src unit a tag ⟨rows, []⟩) s0 =
      .next (if nodeRoom r.state (clusterOf h.tile) q then enterNode r.state (clusterOf h.tile) q
        else putIsland r.state (clusterOf h.tile) { getIsland r.state (clusterOf h.tile) with
          stalled := some tag, heldPartial := some q }) := by
    refine (hi.next hp _ _).trans (congrArg _ ?_)
    dsimp only
    rw [if_pos hu, ← hr, show eccBad (.scratch h.tile src) [] = false from rfl, Bool.or_false, hq, hf]
    rfl
  have hpartials : (getIsland r.state (clusterOf h.tile)).partials = (getIsland s (clusterOf h.tile)).partials := by
    rw [hr, readRows_keeps offCounters_partials, hi.island]
  refine ⟨_, he, ?_⟩
  unfold enterNode
  split
  · dsimp only
    rw [getIsland_putIsland]
    exact ⟨rfl, congrArg (· ++ [q]) hpartials⟩
  · rw [getIsland_putIsland]
    exact ⟨rfl, hpartials, rfl, rfl⟩

theorem ligRecv_takes (dst tag : Nat) (scale : Option Fp32) (kv : Nat × Flits) (hs : swapTail u (clusterOf h.tile) = false)
    (hk : (getIsland s (clusterOf h.tile)).ligResults.find? (fun kv => kv.1 == tag) = some kv) :
    exec (.ligRecv h dst tag scale) s0 = .next (ligReceive (putIsland u (clusterOf h.tile)
      { getIsland s (clusterOf h.tile) with gate := none }) h.tile dst tag scale kv.2) := by
  rw [← hi.island] at hk ⊢
  exact (hi.next hp _ _).trans (congrArg _ (ligRecvTile_takes dst tag scale hs hk))

theorem ligRecv_waits (dst tag : Nat) (scale : Option Fp32) (hw : swapTail u (clusterOf h.tile) = true ∨
      (getIsland s (clusterOf h.tile)).ligResults.find? (fun kv => kv.1 == tag) = none) :
    ∃ t, exec (.ligRecv h dst tag scale) s0 = .next t ∧
      (getIsland t (clusterOf h.tile)).gate = some (.ligature h.tile dst tag scale) ∧ Only [.fabric] s t := by
  rw [← hi.island] at hw
  exact stroke_gates hi hp rfl (ligRecvTile_waits dst tag scale hw)

/-! ## DMA strokes (R91) -/

theorem dmaPost_queues (i : Nat) : ∃ t, exec (.dmaPost h i) s0 = .next t ∧
    (getTile t h.tile).dmaQueue =
      (if (getTile s h.tile).dmaQueue.length < 8 then
        (getTile s h.tile).dmaQueue ++ [(i, tget 0 (getTile s h.tile).dmaTable (runHalf u (clusterOf h.tile) * 64 + i))]
       else (getTile s h.tile).dmaQueue) ∧ Only [.fabric] s t := by
  refine ⟨_, hi.next hp _ _, ?_, Only.trans hi.only (modTile_only _ _ _)⟩
  unfold dmaPostTile
  rw [getTile_modTile, hi.tile]
  dsimp only
  split <;> rfl

theorem dmaWait_takes (c n : Nat) : ∃ t, exec (.dmaWait h c n) s0 = .next t ∧ Only [.fabric] s t ∧
    (if n ≤ tget 0 (getTile s h.tile).done c then
      tget 0 (getTile t h.tile).done c = tget 0 (getTile s h.tile).done c - n ∧
        (getIsland t (clusterOf h.tile)).gate = none
     else (getIsland t (clusterOf h.tile)).gate = some (.dma h.tile c n) ∧
      (getTile t h.tile).done = (getTile s h.tile).done) := by
  refine ⟨_, hi.next hp _ _, Only.trans hi.only ((dmaWaitTile_held (held_self _ u) (by rfl)).only), ?_⟩
  have hdone : (getTile u h.tile).done = (getTile s h.tile).done := by rw [hi.tile]
  unfold dmaWaitTile
  dsimp only
  rw [hdone]
  split
  · rw [getTile_modTile, getIsland_modTile, getIsland_putIsland]
    exact ⟨tget_tput_same _ _ _ _, rfl⟩
  · rw [getIsland_putIsland]
    exact ⟨rfl, hdone⟩

end

/-- Settles O48: each clause is one form of a stroke that issues, with no wrong bit met. -/
theorem strokesCrossTheNetwork : Obligations.StrokesCrossTheNetwork := by
  unfold Obligations.StrokesCrossTheNetwork
  intro h s0 s u hcan hland hclock
  have hi : Issues h s0 s u := ⟨hcan, hland, hclock⟩
  refine ⟨fun hp => ⟨send_sends hi hp, send_rejects hi hp, recv_takes hi hp, recv_waits hi hp, ligSend_enters hi hp, ligRecv_takes hi hp,
    ligRecv_waits hi hp, dmaPost_queues hi hp, dmaWait_takes hi hp⟩, fun hp src unit a tag rows c full hu => ⟨?_, ?_⟩⟩
  · exact (hi.next_failing hp _ _).trans (congrArg _ (if_pos hu))
  · exact (hi.next_failing hp _ _).trans (congrArg _ (if_pos hu))

end Sys2Proof.Proofs

namespace Sys2Proof.Proofs

open Sys2Proof Sys2Proof.Machine Sys2Proof.Laws

/-! ## Ligature nodes (R57, R60, R64) -/

/-- What a node combines leaves every field of its island but the partials. -/
theorem dropPartials_keeps {α : Type} {g : Island → α} (hg : ∀ i l, g { i with partials := l } = g i) (i : Island) (slot : Nat)
    (e : LigEntry) : g (dropPartials i slot e) = g i := by
  unfold dropPartials
  induction e.inputs generalizing i with
  | nil => rfl
  | cons x l ih =>
    rw [List.foldl_cons, ih]
    split
    · exact hg _ _
    · rfl

theorem getIsland_modNet_ne (s : State) {u v : Nat} (g : NetCounters → NetCounters) (h : v ≠ u) :
    getIsland (modNet s u g) v = getIsland s v := getIsland_putIsland_ne _ _ h

theorem carry_keeps {α : Type} {g : Island → α} (s : State) (links : List Nat) (n : Nat) : IslandsKeep g s (carry s links n) :=
  islandsKeep_of_islands rfl

theorem routed_keeps {α : Type} {g : Island → α} (hg : ∀ i n, g { i with net := n } = g i) (s : State) (slot a b n : Nat) :
    IslandsKeep g s (routed s slot a b n) :=
  ((modNet_keeps hg).trans (modNet_keeps hg)).trans (carry_keeps _ _ _)

/-- What one cluster's router sends another's is counted at the sender as flits out. -/
theorem routed_net_sender (s : State) {a b : Nat} (slot n : Nat) (ha : clusterOf a = a) (hb : clusterOf b = b) (hne : a ≠ b) :
    (getIsland (routed s slot a b n) a).net =
      { (getIsland s a).net with flitsOut := sat 64 ((getIsland s a).net.flitsOut + n) } := by
  unfold routed
  dsimp only
  rw [carry_keeps (g := Island.net), hb, getIsland_modNet_ne _ _ hne, ha, getIsland_modNet]

section
variable {u tag slot : Nat} {e : LigEntry} {ins : List Flits} {f : Flits} {s : State}
  (hentry : nodeEntry s u tag = some (slot, e)) (hins : nodeInputs (getIsland s u) slot e = some ins)
  (hf : f = { combine e ins with nans := nanMet e ins, step := ins.findSome? (·.step) })
  (hopen : (getIsland s u).fenced = false) (hfinal : e.final = false)
include hentry hins hf hopen hfinal

/-- The result of a node that is not the last goes to the next node, or to the die boundary of a fenced one, where that node has
room. -/
theorem exec_ligatureCombine (n : Nat) : exec (.ligatureCombine u tag n) s =
    .next (if nodeRoom s e.dest { tag := e.tag, input := e.into, flits := f, slot := slot } then
      if (getIsland (putIsland s u (dropPartials (getIsland s u) slot e)) e.dest).fenced then
        holdOutput (putIsland s u (dropPartials (getIsland s u) slot e)) u slot e f
      else passOn (putIsland s u (dropPartials (getIsland s u) slot e)) u slot n e f
    else s) := by
  show execLigatureCombine u tag n s = _
  unfold execLigatureCombine
  rw [hentry]
  dsimp only
  rw [hins]
  dsimp only
  rw [← hf, hopen, hfinal, Bool.false_or, Bool.not_false, Bool.true_and]
  cases nodeRoom s e.dest { tag := e.tag, input := e.into, flits := f, slot := slot } <;> rfl

theorem ligatureCombine_withheld (n : Nat)
    (hroom : nodeRoom s e.dest { tag := e.tag, input := e.into, flits := f, slot := slot } = false) :
    exec (.ligatureCombine u tag n) s = .next s := by
  rw [exec_ligatureCombine hentry hins hf hopen hfinal, if_neg (ne_true_of_eq_false hroom)]

variable (hne : e.dest ≠ u) (hroom : nodeRoom s e.dest { tag := e.tag, input := e.into, flits := f, slot := slot } = true)
include hne hroom

theorem ligatureCombine_passes (n : Nat) (hu : clusterOf u = u) (hd : clusterOf e.dest = e.dest)
    (hdest : (getIsland s e.dest).fenced = false) :
    ∃ t, exec (.ligatureCombine u tag n) s = .next t ∧
      (getIsland t u).partials = (dropPartials (getIsland s u) slot e).partials ∧
      (getIsland t u).net.flitsOut = sat 64 ((getIsland s u).net.flitsOut + flitCount f) ∧
      (getIsland t e.dest).partials = (getIsland s e.dest).partials ++
        [{ tag := e.tag, input := e.into, flits := f, slot := slot }] ∧ Only [.fabric] s t := by
  have he : exec (.ligatureCombine u tag n) s =
      .next (enterNode (routed (putIsland s u (dropPartials (getIsland s u) slot e)) slot u e.dest (flitCount f)) e.dest
        { tag := e.tag, input := e.into, flits := f, slot := slot }) := by
    rw [exec_ligatureCombine hentry hins hf hopen hfinal, if_pos hroom, getIsland_putIsland_ne _ _ hne, hdest,
      if_neg Bool.false_ne_true]
    unfold passOn
    rw [if_neg hne, hfinal]
    rfl
  refine ⟨_, he, ?_, ?_, ?_,
    (enterNode_held (routed_held (putIsland_held (held_self [.fabric] s) (by rfl)) (by rfl)) (by rfl)).only⟩
  · unfold enterNode
    rw [getIsland_putIsland_ne _ _ (Ne.symm hne), routed_keeps (g := Island.partials) (fun _ _ => rfl), getIsland_putIsland]
  · unfold enterNode
    rw [getIsland_putIsland_ne _ _ (Ne.symm hne), routed_net_sender _ _ _ hu hd (Ne.symm hne), getIsland_putIsland,
      dropPartials_keeps (g := Island.net) (fun _ _ => rfl)]
  · unfold enterNode
    rw [getIsland_putIsland]
    dsimp only
    rw [routed_keeps (g := Island.partials) (fun _ _ => rfl), getIsland_putIsland_ne _ _ hne]

theorem ligatureCombine_held (n : Nat) (hdest : (getIsland s e.dest).fenced = true) :
    ∃ t x, exec (.ligatureCombine u tag n) s = .next t ∧
      (getIsland t u).partials = (dropPartials (getIsland s u) slot e).partials ∧
      t.fabric.refused = s.fabric.refused ++ [x] ∧ x.consumer = e.dest ∧ x.crossing = e.tag ∧ x.flits = f ∧
      (getIsland t e.dest).partials = (getIsland s e.dest).partials ∧ Only [.fabric] s t := by
  have he : exec (.ligatureCombine u tag n) s =
      .next (holdOutput (putIsland s u (dropPartials (getIsland s u) slot e)) u slot e f) := by
    rw [exec_ligatureCombine hentry hins hf hopen hfinal, if_pos hroom, getIsland_putIsland_ne _ _ hne, if_pos hdest]
  have hheld (s : State) : IslandsKeep Island.partials s (holdOutput s u slot e f) :=
    (modNet_keeps (g := fun c => { c with flitsOut := sat 64 (c.flitsOut + flitCount f) }) (fun _ _ => rfl)).trans
      (islandsKeep_of_islands (by rfl))
  refine ⟨_, _, he, ?_, rfl, rfl, rfl, rfl, ?_,
    (holdOutput_held (putIsland_held (held_self [.fabric] s) (by rfl)) (by rfl)).only⟩
  · rw [hheld, getIsland_putIsland]
  · rw [hheld, getIsland_putIsland_ne _ _ hne]

end

/-! ## Corrected rows and the SRAM scrub (R88, R90) -/

theorem correctedWriteBack_writes (u row n : Nat) (s : State) (hrow : (getIsland s u).writeBacks.contains row = true) :
    ∃ t, exec (.correctedWriteBack u ⟨row, n⟩) s = .next t ∧
      getIsland t u = { getIsland s u with
        writeBacks := (getIsland s u).writeBacks.filter (fun k => k != row),
        mem := { (getIsland s u).mem with forcedWins := sat 32 ((getIsland s u).mem.forcedWins + n) } } ∧
      (∀ v, v ≠ u → getIsland t v = getIsland s v) ∧ Only [.fabric] s t := by
  refine ⟨_, congrArg Host.Outcome.next (if_pos hrow), ?_, fun v hv => ?_, setFabric_only s _⟩
  · unfold forcedWins modMem
    dsimp only
    rw [getIsland_putIsland, getIsland_putIsland]
  · unfold forcedWins modMem
    dsimp only
    rw [getIsland_putIsland_ne _ _ hv, getIsland_putIsland_ne _ _ hv]

theorem scrubRead_counts (u row n : Nat) (e : RowEcc) (s : State) (hgood : rowBad (.slice u (row * 64)) e = false)
    (hfound : eccCorrects e = true ∨ 0 < eccWords e) :
    ∃ t, exec (.scrubRead u row ⟨[e], n⟩) s = .next t ∧
      getIsland t u = { getIsland s u with mem := { (getIsland s u).mem with
        secded := sat 64 ((getIsland s u).mem.secded + eccWords e),
        scrubCorrections := sat 32 ((getIsland s u).mem.scrubCorrections + 1),
        forcedWins := sat 32 ((getIsland s u).mem.forcedWins + n) } } ∧
      (∀ v, v ≠ u → getIsland t v = getIsland s v) ∧ Only [.fabric] s t := by
  have hfound' : (eccCorrects e || decide (0 < eccWords e)) = true := by
    rwa [Bool.or_eq_true, decide_eq_true_eq]
  refine ⟨_, congrArg Host.Outcome.next ((if_neg (ne_true_of_eq_false hgood)).trans (if_pos hfound')), ?_, fun v hv => ?_,
    setFabric_only s _⟩
  · unfold forcedWins modMem
    dsimp only
    rw [getIsland_putIsland, getIsland_putIsland]
  · unfold forcedWins modMem
    dsimp only
    rw [getIsland_putIsland_ne _ _ hv, getIsland_putIsland_ne _ _ hv]

/-! ## Clears (R94, R95, R292) -/

/-- A clear leaves the list of those under way. -/
def dropClear (s : State) (k : Nat) : State := { s with serving := { s.serving with clears := s.serving.clears.eraseIdx k } }

/-- The states after the memory of a page, a cluster and a slot is cleared without an error. -/
def pageCleared (s : State) (p : Nat) : State := clearedPage (clearPage s p) p false

def scratchCleared (s : State) (u forced : Nat) : State :=
  forcedWins (modMem (clearIdle s [u]) u (fun m => { m with clearsDone := sat 32 (m.clearsDone + 1) })) u forced

def slotCleared (s : State) (i : Nat) : State := putSlot s i { refuse := (getSlot s i).refuse }

theorem scratchCleared_clearsDone (s : State) (u forced : Nat) :
    (getIsland (scratchCleared s u forced) u).mem.clearsDone = sat 32 ((getIsland s u).mem.clearsDone + 1) := by
  unfold scratchCleared forcedWins modMem
  dsimp only
  rw [getIsland_putIsland, getIsland_putIsland]
  rfl

theorem tget_filter_key {α : Type} (d : α) (p : Nat → Bool) (t : Table α) (k : Nat) :
    tget d (t.filter (fun kv => p kv.1)) k = if p k = true then tget d t k else d := by
  induction t with
  | nil => simp [tget]
  | cons kv t ih =>
    obtain ⟨j, v⟩ := kv
    by_cases hj : j = k
    · subst hj
      cases hp : p j with
      | true => simp [tget, hp]
      | false => simpa [hp] using ih
    · cases hp : p j with
      | true => simpa [tget, hp, hj] using ih
      | false => simpa [tget, hp, hj] using ih

theorem mget_mclear (m : Memory) (a n b : Nat) : mget (mclear m a n) b = if a ≤ b ∧ b < a + n then 0#8 else mget m b := by
  refine (tget_filter_key 0#8 (fun k => !(decide (a ≤ k) && decide (k < a + n))) m b).trans ?_
  have hkept : (!(decide (a ≤ b) && decide (b < a + n))) = true ↔ ¬ (a ≤ b ∧ b < a + n) := by
    rw [Bool.not_eq_true', ← Bool.not_eq_true, Bool.and_eq_true, decide_eq_true_eq, decide_eq_true_eq]
  by_cases hb : a ≤ b ∧ b < a + n
  · rw [if_pos hb, if_neg (fun h => hkept.mp h hb)]
  · rw [if_neg hb, if_pos (hkept.mpr hb)]
    rfl

theorem clearPage_mem (s : State) (p : Nat) : (clearPage s p).vellum.mem = mclear s.vellum.mem (pageBase p) 2097152 := by
  show mclear s.vellum.mem (vellumKey (pageSite p) (p / 32 * granuleUnits * 64)) (granuleUnits * 64) = _
  rw [Nat.mul_assoc]
  rfl

/-- The end of a tenant's deregistration writes completions alone. -/
theorem deregistersDone_only (s : State) : Only [.link, .mailbox, .blotter, .mgmt] s (deregistersDone s) :=
  (deregistersDone_held (held_self _ s) (by rfl)).only

theorem clearComplete_page (time k n p : Nat) (s : State) (hk : s.serving.clears[k]? = some (.page p)) :
    ∃ t, exec (.clearComplete time k ⟨none, n⟩) s = .next t ∧ t.serving.clears = s.serving.clears.eraseIdx k ∧
      getPage t p = { generation := (getPage s p).generation } ∧
      (∀ a, pageBase p ≤ a → a < pageBase p + 2097152 → mget t.vellum.mem a = 0#8) ∧
      (∀ a, ¬ (pageBase p ≤ a ∧ a < pageBase p + 2097152) → mget t.vellum.mem a = mget s.vellum.mem a) := by
  have hk' : (advance s time).serving.clears[k]? = some (.page p) := hk
  have he : exec (.clearComplete time k ⟨none, n⟩) s =
      .next (deregistersDone (pageCleared (dropClear (advance s time) k) p)) := by
    show execClearComplete time k ⟨none, n⟩ s = _
    unfold execClearComplete
    dsimp only
    rw [hk']
    rfl
  have hserving := deregistersDone_only (pageCleared (dropClear (advance s time) k) p) .serving (by decide)
  have hvellum := deregistersDone_only (pageCleared (dropClear (advance s time) k) p) .vellum (by decide)
  dsimp only [Part.same] at hserving hvellum
  have hmem (a : Nat) : mget (deregistersDone (pageCleared (dropClear (advance s time) k) p)).vellum.mem a =
      if pageBase p ≤ a ∧ a < pageBase p + 2097152 then 0#8 else mget s.vellum.mem a := by
    rw [hvellum, ← mget_mclear]
    exact congrArg (mget · a) (clearPage_mem _ p)
  refine ⟨_, he, ?_, ?_, fun a hlo hhi => ?_, fun a ha => ?_⟩
  · rw [hserving]
    rfl
  · unfold getPage
    rw [hvellum]
    exact getPage_putPage _ _ _
  · rw [hmem, if_pos ⟨hlo, hhi⟩]
  · rw [hmem, if_neg ha]

theorem clearComplete_scratch (time k n u : Nat) (s : State) (hk : s.serving.clears[k]? = some (.scratch u))
    (hd : (getIsland s u).desc = none) :
    ∃ t, exec (.clearComplete time k ⟨none, n⟩) s = .next t ∧ t.serving.clears = s.serving.clears.eraseIdx k ∧
      (getIsland t u).mem.clearsDone = sat 32 ((getIsland s u).mem.clearsDone + 1) := by
  have hk' : (advance s time).serving.clears[k]? = some (.scratch u) := hk
  have hheld : ¬ clearHeld (advance s time) (.scratch u) = true := by
    show ¬ (getIsland s u).desc.isSome = true
    rw [hd]
    decide
  have he : exec (.clearComplete time k ⟨none, n⟩) s =
      .next (deregistersDone (scratchCleared (dropClear (advance s time) k) u n)) := by
    show execClearComplete time k ⟨none, n⟩ s = _
    unfold execClearComplete
    dsimp only
    rw [hk']
    exact congrArg Host.Outcome.next (if_neg hheld)
  have hserving := deregistersDone_only (scratchCleared (dropClear (advance s time) k) u n) .serving (by decide)
  have hfabric := deregistersDone_only (scratchCleared (dropClear (advance s time) k) u n) .fabric (by decide)
  dsimp only [Part.same] at hserving hfabric
  refine ⟨_, he, ?_, ?_⟩
  · rw [hserving]
    rfl
  · unfold getIsland
    rw [hfabric]
    exact scratchCleared_clearsDone _ u n

theorem clearComplete_slot (time k n i : Nat) (s : State) (hk : s.serving.clears[k]? = some (.slot i)) :
    ∃ t, exec (.clearComplete time k ⟨none, n⟩) s = .next t ∧ t.serving.clears = s.serving.clears.eraseIdx k ∧
      getSlot t i = { refuse := (getSlot s i).refuse } := by
  have hk' : (advance s time).serving.clears[k]? = some (.slot i) := hk
  have he : exec (.clearComplete time k ⟨none, n⟩) s =
      .next (deregistersDone (completeStarted (slotCleared (dropClear (advance s time) k) i) 0x0502 i stSuccess 0)) := by
    show execClearComplete time k ⟨none, n⟩ s = _
    unfold execClearComplete
    dsimp only
    rw [hk']
    rfl
  have hend := deregistersDone_held (completeStarted_held (opcode := 0x0502) (arg := i) (status := stSuccess) (result := 0)
    (held_self [.link, .mailbox, .power, .blotter, .mgmt] (slotCleared (dropClear (advance s time) k) i)) (by rfl)) (by rfl)
  have hserving := hend.only .serving (by decide)
  have himages := hend.only .images (by decide)
  dsimp only [Part.same] at hserving himages
  refine ⟨_, he, ?_, ?_⟩
  · rw [hserving]
    rfl
  · unfold getSlot
    rw [himages]
    exact getSlot_putSlot _ i _

theorem clearComplete_partition (time k n i : Nat) (s : State) (hk : s.serving.clears[k]? = some (.partition i))
    (hw : partitionWaits s i = false) :
    ∃ t, exec (.clearComplete time k ⟨none, n⟩) s = .next t ∧ t.serving.clears = s.serving.clears.eraseIdx k ∧
      (getFn t (i + 1)).rrs = false ∧ (getPartition t i).keyGen = (getPartition s i).keyGen + 1 := by
  have hk' : (advance s time).serving.clears[k]? = some (.partition i) := hk
  have hw' : ¬ partitionWaits (advance s time) i = true := by
    rw [show partitionWaits (advance s time) i = partitionWaits s i from rfl, hw]
    decide
  have he : exec (.clearComplete time k ⟨none, n⟩) s = .next (partitionCleared (dropClear (advance s time) k) i) := by
    show execClearComplete time k ⟨none, n⟩ s = _
    unfold execClearComplete
    dsimp only
    rw [hk']
    exact congrArg Host.Outcome.next (if_neg hw')
  refine ⟨_, he, ?_, ?_, ?_⟩
  · unfold partitionCleared
    dsimp only
    split <;> rfl
  · exact congrArg Fn.rrs (getFn_putFn _ _ _)
  · exact congrArg Partition.keyGen (getPartition_putPartition _ i _)

end Sys2Proof.Proofs

namespace Sys2Proof.Proofs

open Sys2Proof Sys2Proof.Machine Sys2Proof.Laws

/-! ## What the DMA engines' transfers keep of their queues (R91)

Between a descriptor's leaving its queue and the end of its transfer, rows are read and written, windows open and close, islands go
on and arbiters count. None of it posts a descriptor or takes one. -/

/-- From `s` to `t` the queue of every tile at its DMA engine stays, and the scribe's queue at every cluster's. -/
structure QueuesKept (s t : State) : Prop where
  tiles : ∀ k, (getTile t k).dmaQueue = (getTile s k).dmaQueue
  scribes : IslandsKeep Island.scribeDma s t

namespace QueuesKept

theorem refl (s : State) : QueuesKept s s := ⟨fun _ => rfl, IslandsKeep.refl s⟩

theorem trans {s t r : State} (h1 : QueuesKept s t) (h2 : QueuesKept t r) : QueuesKept s r :=
  ⟨fun k => (h2.tiles k).trans (h1.tiles k), h1.scribes.trans h2.scribes⟩

theorem of_fields {s t : State} (ht : t.fabric.tiles = s.fabric.tiles) (hi : t.fabric.islands = s.fabric.islands) : QueuesKept s t :=
  ⟨fun k => by unfold getTile; rw [ht], islandsKeep_of_islands hi⟩

theorem of_fabric {s t : State} (h : t.fabric = s.fabric) : QueuesKept s t := of_fields (by rw [h]) (by rw [h])

theorem foldl {β : Type} {g : State → β → State} (hg : ∀ s x, QueuesKept s (g s x)) (l : List β) (s : State) :
    QueuesKept s (l.foldl g s) := by
  induction l generalizing s with
  | nil => exact refl s
  | cons x l ih => exact (hg s x).trans (ih (g s x))

theorem putIsland {s : State} {u : Nat} {v : Island} (h : v.scribeDma = (getIsland s u).scribeDma) : QueuesKept s (putIsland s u v) :=
  ⟨fun _ => rfl, putIsland_keeps h⟩

theorem modTile {s : State} {u : Nat} {g : Tile → Tile} (h : ∀ x, (g x).dmaQueue = x.dmaQueue) : QueuesKept s (modTile s u g) := by
  refine ⟨fun k => ?_, islandsKeep_of_islands rfl⟩
  by_cases hk : k = u
  · subst hk
    rw [getTile_modTile, h]
  · exact congrArg Tile.dmaQueue (getTile_putTile_ne _ _ hk)

theorem modNet (s : State) (u : Nat) (g : NetCounters → NetCounters) : QueuesKept s (modNet s u g) := putIsland rfl

theorem modMem (s : State) (u : Nat) (g : MemCounters → MemCounters) : QueuesKept s (modMem s u g) := putIsland rfl

theorem reportFlit (s : State) (u : Nat) : QueuesKept s (reportFlit s u) := modNet _ _ _

theorem note (s : State) (code cls source address aux : Nat) : QueuesKept s (note s code cls source address aux) :=
  of_fabric (note_fabric _ _ _ _ _ _)

theorem carry (s : State) (links : List Nat) (n : Nat) : QueuesKept s (carry s links n) := of_fields rfl rfl

theorem routed (s : State) (slot a b n : Nat) : QueuesKept s (routed s slot a b n) :=
  ((modNet _ _ _).trans (modNet _ _ _)).trans (carry _ _ _)

theorem modSite (s : State) (d : Nat) (g : Site → Site) : QueuesKept s (modSite s d g) := of_fabric rfl

end QueuesKept

/-! ### Rows -/

theorem isolationFault_queuesKept (s : State) (p : Place) (aux : Nat) : QueuesKept s (isolationFault s p aux) := by
  unfold isolationFault
  exact ((QueuesKept.note _ _ _ _ _ _).trans (QueuesKept.reportFlit _ _)).trans (QueuesKept.modMem _ _ _)

theorem readRow_queuesKept (s : State) (runner : Nat) (p : Place) : QueuesKept s (readRow s runner p).state := by
  unfold readRow
  split
  · exact isolationFault_queuesKept s p 1
  split
  · dsimp only
    exact QueuesKept.modMem _ _ _
  · exact QueuesKept.refl s

theorem readRows_queuesKept (s : State) (runner : Nat) (p : Place) (n : Nat) : QueuesKept s (readRows s runner p n).state := by
  induction n generalizing s p with
  | zero => exact QueuesKept.refl s
  | succ n ih => exact (readRow_queuesKept s runner p).trans (ih _ _)

theorem sendWindow_queuesKept (s : State) (u : Nat) (w : Window) : QueuesKept s (sendWindow s u w) :=
  (QueuesKept.modNet s u (fun c => { c with flitsOut := sat 64 (c.flitsOut + 1) })).trans (QueuesKept.of_fields rfl rfl)

theorem closeWindows_queuesKept (s : State) (u row : Nat) : QueuesKept s (closeWindows s u row) :=
  (QueuesKept.putIsland (by rfl)).trans (QueuesKept.foldl (fun s w => sendWindow_queuesKept s u w) _ _)

theorem beforeWrite_queuesKept (s : State) (p : Place) : QueuesKept s (beforeWrite s p) := by
  unfold beforeWrite
  extract_lets i s1
  have h1 : QueuesKept s s1 := by
    show QueuesKept s (if i.writeBacks.contains (p.key / 64) then _ else s)
    split
    · exact QueuesKept.putIsland rfl
    · exact QueuesKept.refl s
  refine h1.trans ?_
  cases p with
  | scratch tile addr => exact QueuesKept.refl s1
  | slice c addr =>
    dsimp only
    split
    · exact closeWindows_queuesKept _ _ _
    · exact QueuesKept.refl s1

theorem putRow_queuesKept (s : State) (p : Place) (bytes : List Byte) (poisoned : Bool) : QueuesKept s (putRow s p bytes poisoned) :=
  QueuesKept.of_fields rfl rfl

theorem writeRow_queuesKept (s : State) (runner : Nat) (p : Place) (bytes : List Byte) (poisoned : Bool) :
    QueuesKept s (writeRow s runner p bytes poisoned) := by
  unfold writeRow
  split
  · exact isolationFault_queuesKept s p 0
  · exact (beforeWrite_queuesKept s p).trans (putRow_queuesKept _ _ _ _)

theorem writeRows_queuesKept (s : State) (runner : Nat) (p : Place) (poisoned : Bool) (n : Nat) (bytes : List Byte) :
    QueuesKept s (writeRows s runner p poisoned n bytes) := by
  induction n generalizing s p bytes with
  | zero => exact QueuesKept.refl s
  | succ n ih => exact (writeRow_queuesKept s runner p _ poisoned).trans (ih _ _ _)

theorem dmaRows_queuesKept (s : State) (p : Place) (poisoned : Bool) (n : Nat) (bytes : List Byte) :
    QueuesKept s (dmaRows s p poisoned n bytes) := by
  induction n generalizing s p bytes with
  | zero => exact QueuesKept.refl s
  | succ n ih => exact ((beforeWrite_queuesKept s p).trans (putRow_queuesKept _ _ _ _)).trans (ih _ _ _)

theorem landWrite_queuesKept (s : State) (t : Transfer) : QueuesKept s (landWrite s t) := by
  unfold landWrite
  split
  · exact QueuesKept.refl s
  · dsimp only
    split
    · exact dmaRows_queuesKept _ _ _ _ _
    · exact writeRows_queuesKept _ _ _ _ _ _

theorem landIsland_queuesKept (s : State) (u : Nat) : QueuesKept s (landIsland s u) := by
  unfold landIsland
  dsimp only
  split
  · exact QueuesKept.refl s
  · exact (QueuesKept.putIsland (by rfl)).trans (QueuesKept.foldl landWrite_queuesKept _ _)

theorem bringWrite_queuesKept (s : State) (t : Transfer) : QueuesKept s (bringWrite s t) := by
  unfold bringWrite
  dsimp only
  split
  · exact QueuesKept.putIsland rfl
  · exact (landIsland_queuesKept _ _).trans (landWrite_queuesKept _ _)

/-! ### A descriptor's run, where no wrong bit is met -/

theorem sendRow_queuesKept (s : State) (cluster : Nat) (t : Transfer) : QueuesKept s (sendRow s cluster t) :=
  (QueuesKept.modNet s cluster (fun c => { c with flitsOut := sat 64 (c.flitsOut + 1) })).trans (QueuesKept.of_fields rfl rfl)

theorem mergeEngine_queuesKept (s : State) (u : Nat) (p : Place) (e : Transfer) : QueuesKept s (mergeEngine s u p e []) := by
  unfold mergeEngine
  dsimp only
  split
  · exact QueuesKept.putIsland rfl
  · refine (readRow_queuesKept s u p).trans ?_
    split
    · exact QueuesKept.putIsland rfl
    · exact (QueuesKept.modNet _ _ _).trans (sendRow_queuesKept _ _ _)

theorem dmaMerge_queuesKept (s : State) (u input : Nat) (d : DmaDesc) : QueuesKept s (dmaMerge s u input d []) := by
  unfold dmaMerge
  dsimp only
  refine ((QueuesKept.routed _ _ _ _ _).trans (QueuesKept.putIsland ?_)).trans
    (QueuesKept.foldl (fun s j => mergeEngine_queuesKept s u _ _) _ _)
  rfl

theorem fetchUnits_queuesKept (s : State) (u tenant site unit n : Nat) (clean : Bool) :
    QueuesKept s (fetchUnits s u tenant site unit n clean []).state := by
  unfold fetchUnits
  dsimp only [List.foldl_nil]
  exact (((QueuesKept.modNet _ _ _).trans (QueuesKept.carry _ _ _)).trans (QueuesKept.carry _ _ _)).trans (QueuesKept.modSite _ _ _)

theorem fetchRead_queuesKept (s : State) (u : Nat) (d : DmaDesc) (clean : Bool) : QueuesKept s (fetchRead s u d clean []).state := by
  unfold fetchRead
  dsimp only
  split
  · exact QueuesKept.of_fabric rfl
  · exact (QueuesKept.modSite _ _ _).trans (fetchUnits_queuesKept _ _ _ _ _ _ _)

theorem dmaRead_queuesKept (s : State) (u : Nat) (d : DmaDesc) : QueuesKept s (dmaRead s u d [] []).state := by
  unfold dmaRead
  split
  · exact QueuesKept.refl s
  split
  · dsimp only
    refine QueuesKept.trans ?_ (readRows_queuesKept _ _ _ _)
    split
    · exact QueuesKept.refl s
    · exact (QueuesKept.routed _ _ _ _ _).trans (QueuesKept.routed _ _ _ _ _)
  · exact fetchRead_queuesKept _ _ _ _

theorem vellumWrite_queuesKept (s : State) (site addr : Nat) (b : List Byte) (poisoned : Bool) :
    QueuesKept s (vellumWrite s site addr b poisoned) :=
  QueuesKept.of_fabric ((vellumWrite_held (held_self [.vellum] s) (by rfl)).only .fabric (by decide))

theorem engineVellum_queuesKept (s : State) (u site addr : Nat) (b : List Byte) (poisoned : Bool) :
    QueuesKept s (engineVellum s u site addr b poisoned) := by
  unfold engineVellum
  dsimp only
  exact ((QueuesKept.modNet _ _ _).trans (QueuesKept.carry _ _ _)).trans (vellumWrite_queuesKept _ _ _ _ _)

theorem dmaWrite_queuesKept (s : State) (u : Nat) (d : DmaDesc) (b : List Byte) (poisoned : Bool) :
    QueuesKept s (dmaWrite s u d b poisoned) := by
  unfold dmaWrite
  split
  · dsimp only
    split
    · exact QueuesKept.of_fields rfl rfl
    · refine QueuesKept.trans ?_ (bringWrite_queuesKept _ _)
      split
      · exact QueuesKept.refl s
      · exact QueuesKept.routed _ _ _ _ _
  · exact engineVellum_queuesKept _ _ _ _ _ _

theorem faultStep_queuesKept (s : State) (u : Nat) : QueuesKept s (faultStep s u) :=
  QueuesKept.of_fabric ((faultStep_held (held_self [.serving] s) (by rfl)).only .fabric (by decide))

theorem dmaRefused_queuesKept (s : State) (u index case_ : Nat) : QueuesKept s (dmaRefused s u index case_) := by
  unfold dmaRefused
  exact (((QueuesKept.note _ _ _ _ _ _).trans (QueuesKept.reportFlit _ _)).trans (QueuesKept.modMem _ _ _)).trans
    (faultStep_queuesKept _ _)

theorem dmaRun_queuesKept (s : State) (u index input : Nat) (raw : BitVec 256) : QueuesKept s (dmaRun s u index input raw [] []) := by
  unfold dmaRun
  dsimp only
  split
  · refine QueuesKept.trans ?_ (dmaRefused_queuesKept _ _ _ _)
    split
    · split
      · exact isolationFault_queuesKept _ _ _
      · exact ((QueuesKept.note _ _ _ _ _ _).trans (QueuesKept.reportFlit _ _)).trans (QueuesKept.modMem _ _ _)
    · exact QueuesKept.refl s
  split
  · exact faultStep_queuesKept _ _
  split
  · exact dmaMerge_queuesKept _ _ _ _
  · exact (dmaRead_queuesKept _ _ _).trans (dmaWrite_queuesKept _ _ _ _ _)

/-! ### Its end: the arbiters' counts, its done counter, and what goes on with it -/

theorem arbGrant_queuesKept (s : State) (arb : Nat) (rs : List Nat) : QueuesKept s (arbGrant s arb rs) := by
  unfold arbGrant
  split
  · exact QueuesKept.refl s
  · dsimp only
    split
    · exact QueuesKept.trans (QueuesKept.of_fields (by rfl) (by rfl)) (QueuesKept.modNet _ _ _)
    · exact QueuesKept.of_fields rfl rfl

theorem arbGrants_queuesKept (arb : Nat) (rs : List Nat) (n : Nat) (s : State) : QueuesKept s (arbGrants arb rs n s) := by
  induction n generalizing s with
  | zero => exact QueuesKept.refl s
  | succ n ih => exact (arbGrant_queuesKept s arb rs).trans (ih _)

theorem passArbiters_queuesKept (s : State) (r : Nat × List Nat) (rs : List (Nat × List Nat)) (grants : Nat) :
    QueuesKept s (passArbiters s r rs grants) :=
  (QueuesKept.foldl (fun s arb => arbGrants_queuesKept arb _ grants s) r.2 s).trans (QueuesKept.of_fields rfl rfl)

theorem countLoad_queuesKept (s : State) (u input : Nat) (rs : List (Nat × List Nat)) (l : DmaLoad) :
    QueuesKept s (countLoad s u input rs l) := by
  unfold countLoad
  dsimp only
  split
  · exact (QueuesKept.modMem _ _ _).trans (passArbiters_queuesKept _ _ _ _)
  · exact QueuesKept.modMem _ _ _

theorem dmaEnded_queuesKept (s : State) (u input flag : Nat) : QueuesKept s (dmaEnded s u input flag) := by
  unfold dmaEnded
  split
  · exact QueuesKept.refl s
  · exact QueuesKept.modTile (fun _ => rfl)

theorem receive_queuesKept (s : State) (tile dst : Nat) (f : Flits) : QueuesKept s (receive s tile dst f) := by
  unfold receive
  split
  · exact QueuesKept.refl s
  · exact writeRows_queuesKept _ _ _ _ _ _

theorem recvTile_queuesKept (s : State) (tile dst c : Nat) : QueuesKept s (recvTile s tile dst c) := by
  unfold recvTile
  dsimp only
  split
  · exact (QueuesKept.putIsland (by rfl)).trans (receive_queuesKept _ _ _ _)
  · exact QueuesKept.putIsland rfl

theorem routeWords_queuesKept (s : State) (u : Nat) (bytes : List Byte) : QueuesKept s (routeWords s u bytes) :=
  QueuesKept.putIsland (by rfl)

theorem ligReceive_queuesKept (s : State) (tile dst tag : Nat) (scale : Option Fp32) (f : Flits) :
    QueuesKept s (ligReceive s tile dst tag scale f) := by
  unfold ligReceive
  dsimp only
  split
  · split
    · exact QueuesKept.putIsland rfl
    · exact (QueuesKept.putIsland (by rfl)).trans (routeWords_queuesKept _ _ _)
    · exact (QueuesKept.putIsland (by rfl)).trans (routeWords_queuesKept _ _ _)
  · exact (QueuesKept.putIsland (by rfl)).trans (receive_queuesKept _ _ _ _)

theorem ligRecvTile_queuesKept (s : State) (tile dst tag : Nat) (scale : Option Fp32) :
    QueuesKept s (ligRecvTile s tile dst tag scale) := by
  unfold ligRecvTile
  dsimp only
  split
  · exact (QueuesKept.putIsland (by rfl)).trans (ligReceive_queuesKept _ _ _ _ _ _)
  · exact QueuesKept.putIsland rfl

theorem dmaWaitTile_queuesKept (s : State) (tile ctr count : Nat) : QueuesKept s (dmaWaitTile s tile ctr count) := by
  unfold dmaWaitTile
  dsimp only
  split
  · exact (QueuesKept.putIsland (by rfl)).trans (QueuesKept.modTile (fun _ => rfl))
  · exact QueuesKept.putIsland rfl

theorem resume_queuesKept (s : State) (u cycles : Nat) : QueuesKept s (resume s u cycles) := by
  have hlands : QueuesKept s (landIsland (countLate s u cycles) u) :=
    (QueuesKept.modNet _ _ _).trans (landIsland_queuesKept _ _)
  unfold resume
  dsimp only
  split
  · exact QueuesKept.refl s
  split
  · split
    · exact hlands.trans (recvTile_queuesKept _ _ _ _)
    · exact QueuesKept.refl s
  · split
    · exact hlands.trans (ligRecvTile_queuesKept _ _ _ _ _)
    · exact QueuesKept.refl s
  · split
    · exact hlands.trans (dmaWaitTile_queuesKept _ _ _ _)
    · exact QueuesKept.refl s
  · exact QueuesKept.refl s

/-! ## The end of a descriptor -/

/-- A tile's queue, or the scribe's, once its oldest descriptor is taken. -/
def popTile (s : State) (u : Nat) (rest : List (Nat × BitVec 256)) : State := modTile s u (fun x => { x with dmaQueue := rest })

def popScribe (s : State) (u : Nat) (rest : List (BitVec 256)) : State := putIsland s u { getIsland s u with scribeDma := rest }

theorem dmaComplete_tile (time c tile index : Nat) (d : BitVec 256) (rest : List (Nat × BitVec 256)) (l : DmaLoad) (s : State)
    (ht : tile < 16) (hw : engineWaits s c tile = false) (hq : (getTile s (c + tile)).dmaQueue = (index, d) :: rest)
    (hc : waitsForChunk s (dmaFields s c d) = false) :
    ∃ t, exec (.dmaComplete time c tile ⟨[], []⟩ l) s = .next t ∧ (getTile t (c + tile)).dmaQueue = rest := by
  have he : exec (.dmaComplete time c tile ⟨[], []⟩ l) s = .next (resume (dmaEnded
      (countLoad (dmaRun (popTile (advance s time) (c + tile) rest) c index tile d [] []) c tile (requests (advance s time)) l) c tile
      (dmaFields (advance s time) c d).flag) c l.gated) := by
    have hw' : ¬ engineWaits (advance s time) c tile = true := ne_true_of_eq_false hw
    have hq' : (getTile (advance s time) (c + tile)).dmaQueue = (index, d) :: rest := hq
    have hc' : ¬ waitsForChunk (advance s time) (dmaFields (advance s time) c d) = true := ne_true_of_eq_false hc
    show execDmaComplete time c tile ⟨[], []⟩ l s = _
    unfold execDmaComplete
    dsimp only
    rw [Nat.min_eq_left (Nat.le_of_lt ht), if_neg hw', if_neg (Nat.not_le.mpr ht), hq']
    exact congrArg Host.Outcome.next (if_neg hc')
  refine ⟨_, he, ?_⟩
  rw [(((dmaRun_queuesKept _ _ _ _ _).trans (countLoad_queuesKept _ _ _ _ _)).trans
    ((dmaEnded_queuesKept _ _ _ _).trans (resume_queuesKept _ _ _))).tiles]
  exact congrArg Tile.dmaQueue (getTile_modTile _ _ _)

theorem dmaComplete_scribe (time c tile : Nat) (d : BitVec 256) (rest : List (BitVec 256)) (l : DmaLoad) (s : State) (ht : 16 ≤ tile)
    (hw : engineWaits s c 16 = false) (hq : (getIsland s c).scribeDma = d :: rest)
    (hc : waitsForChunk s (dmaFields s c d) = false) :
    ∃ t, exec (.dmaComplete time c tile ⟨[], []⟩ l) s = .next t ∧ (getIsland t c).scribeDma = rest := by
  have he : exec (.dmaComplete time c tile ⟨[], []⟩ l) s =
      .next (countLoad (dmaRun (popScribe (advance s time) c rest) c 0 16 d [] []) c 16 (requests (advance s time)) l) := by
    have hw' : ¬ engineWaits (advance s time) c 16 = true := ne_true_of_eq_false hw
    have hq' : (getIsland (advance s time) c).scribeDma = d :: rest := hq
    have hc' : ¬ waitsForChunk (advance s time) (dmaFields (advance s time) c d) = true := ne_true_of_eq_false hc
    show execDmaComplete time c tile ⟨[], []⟩ l s = _
    unfold execDmaComplete
    dsimp only
    rw [Nat.min_eq_right ht, if_neg hw', if_pos ht, hq']
    exact congrArg Host.Outcome.next (if_neg hc')
  refine ⟨_, he, ?_⟩
  rw [((dmaRun_queuesKept _ _ _ _ _).trans (countLoad_queuesKept _ _ _ _ _)).scribes]
  exact congrArg Island.scribeDma (getIsland_putIsland _ _ _)

/-- Settles O44: the node's output by where it goes, a descriptor's end by whose queue it left, and a clear by what it covers. -/
theorem ligaturesDmaScrubsAndClears : Obligations.LigaturesDmaScrubsAndClears := by
  unfold Obligations.LigaturesDmaScrubsAndClears
  refine ⟨fun u tag n slot e ins f s hentry hins hf hopen hu hd hne hfinal => ⟨fun hdest hroom => ?_, fun hdest hroom => ?_,
      fun hroom => ?_⟩, dmaComplete_tile, dmaComplete_scribe, correctedWriteBack_writes,
    fun u row n e s => ⟨⟨s, rfl, rfl⟩, scrubRead_counts u row n e s⟩,
    fun time k n s => ⟨fun p => clearComplete_page time k n p s, fun u => clearComplete_scratch time k n u s,
      fun i => clearComplete_slot time k n i s, fun i => clearComplete_partition time k n i s⟩⟩
  · exact ligatureCombine_passes hentry hins hf hopen hfinal hne hroom n hu hd hdest
  · exact ligatureCombine_held hentry hins hf hopen hfinal hne hroom n hdest
  · exact ⟨s, ligatureCombine_withheld hentry hins hf hopen hfinal n hroom, rfl⟩

end Sys2Proof.Proofs

namespace Sys2Proof.Proofs

open Sys2Proof Sys2Proof.Machine Sys2Proof.Laws

/-! ## The frame of a stroke, whatever its predicate (R75, R77) -/

theorem issue_withheld {h : StrokeHdr} {s : State} (hc : canIssue s h.tile = false) (body failing : State → State) :
    issue s h body failing = s := if_neg (ne_true_of_eq_false hc)

theorem getTile_modTile_ne (s : State) {t v : Nat} (g : Tile → Tile) (hv : v ≠ t) : getTile (modTile s t g) v = getTile s v :=
  getTile_putTile_ne _ _ hv

theorem nop_clocks {h : StrokeHdr} {s0 s u : State} (hi : Issues h s0 s u) : exec (.nop h) s0 = .next u := by
  cases hp : predHolds u h with
  | true => exact hi.next hp id id
  | false => exact hi.next_failing hp id id

/-! ## Steps at an island (R75, R85, R114, R438) -/

theorem selectPages_fabric (s : State) (u step : Nat) : (selectPages s u step).fabric = s.fabric :=
  (selectPages_held (held_self [.serving] s) (by rfl)).only .fabric (by decide)

theorem finishStep_fabric (s : State) (n : Nat) : (finishStep s n).fabric = s.fabric :=
  (finishStep_held (held_self [.link, .mailbox, .serving, .images, .vellum, .power, .blotter, .mgmt, .trust] s) (by rfl)).only
    .fabric (by decide)

theorem discardPrefetch_fabric (s : State) (u step : Nat) : (discardPrefetch s u step).fabric = s.fabric :=
  (discardPrefetch_held (held_self [.vellum] s) (by rfl)).only .fabric (by decide)

section
variable {α : Type} {f : Island → α}

theorem modTile_keeps (s : State) (t : Nat) (g : Tile → Tile) : IslandsKeep f s (modTile s t g) := islandsKeep_of_islands rfl

/-- The frames that a die releases are all that its islands lose. -/
theorem dropFrames_keeps (hf : ∀ i l, f { i with frames := l } = f i) (s : State) (us : List Nat) (step : Nat) :
    IslandsKeep f s (dropFrames s us step) := by
  refine foldl_islandsKeep (fun s u => ?_) us s
  dsimp only
  split
  · exact IslandsKeep.refl s
  · exact putIsland_keeps (hf _ _)

theorem releaseFrames_keeps (hf : ∀ i l, f { i with frames := l } = f i) (s : State) (step die : Nat) :
    IslandsKeep f s (releaseFrames s step die) := by
  unfold releaseFrames
  split
  · split
    · exact dropFrames_keeps hf _ _ _
    · exact IslandsKeep.refl s
  · exact dropFrames_keeps hf _ _ _

end

/-- An island as it takes a descriptor: the step's counts, energy and routing words start anew. -/
def withDesc (s : State) (u : Nat) (d : Desc) (rest : List Desc) : Island :=
  { getIsland s u with
    desc := some { d with half := stepHalf s (getIsland s u) d }, posted := rest, gate := none, counts := [], energyMj := 0,
    routing := [] }

theorem getIsland_takeDesc (s : State) (u : Nat) (d : Desc) (rest : List Desc) :
    getIsland (takeDesc s u d rest) u = withDesc s u d rest := by
  have hselect : IslandsKeep id (putIsland s u (withDesc s u d rest)) (selectPages (putIsland s u (withDesc s u d rest)) u d.step) :=
    islandsKeep_of_islands (congrArg Fabric.islands (selectPages_fabric _ u d.step))
  have hlive (w : State) (l : Table Bool) : IslandsKeep id w { w with fabric := { w.fabric with live := l } } :=
    islandsKeep_of_islands rfl
  exact ((hselect.trans (hlive _ _)).trans (foldl_islandsKeep (fun s t => modTile_keeps s t _) (clusterTiles u) _) u).trans
    (getIsland_putIsland _ _ _)

theorem beginStep_takes {s : State} {u : Nat} {d : Desc} {rest : List Desc} (hq : (getIsland s u).posted = d :: rest)
    (hb : barred s u d.step = false) : beginStep s u = takeDesc s u d rest := by
  unfold beginStep
  dsimp only
  rw [hq]
  exact if_neg (ne_true_of_eq_false hb)

theorem beginStep_gates {s : State} {u : Nat} (hq : (getIsland s u).posted = []) :
    beginStep s u = putIsland s u { getIsland s u with gate := some .descriptor } := by
  unfold beginStep
  dsimp only
  rw [hq]

/-- What an island keeps of its step between STEP_BEGIN and STEP_END. -/
def openStep (i : Island) : Option Desc × List (Nat × Counts) × Nat := (i.desc, i.counts, i.energyMj)

theorem openStep_endStepAt {s : State} {u : Nat} {d : Desc} (hd : (getIsland s u).desc = some d) (mj : Nat) :
    openStep (getIsland (endStepAt s u mj) u) = (none, [], 0) := by
  unfold endStepAt
  dsimp only
  rw [hd]
  dsimp only
  rw [islandsKeep_of_islands (f := openStep) (congrArg Fabric.islands (finishStep_fabric _ _)) u,
    releaseFrames_keeps (f := openStep) (fun _ _ => rfl) _ _ _ u,
    islandsKeep_of_islands (f := openStep) (congrArg Fabric.islands (discardPrefetch_fabric _ _ _)) u]
  exact congrArg openStep (getIsland_putIsland _ _ _)

/-! ## Predicate registers (R77) -/

/-- The registers with one of them written. -/
def writePred (v : BitVec 16) (p : Nat) (b : Bool) : BitVec 16 :=
  if b then v ||| BitVec.ofNat 16 (2 ^ p) else v &&& ~~~ (BitVec.ofNat 16 (2 ^ p))

theorem getLsbD_writePred (v : BitVec 16) (p : Nat) (b : Bool) {i : Nat} (hi : i < 16) :
    (writePred v p b).getLsbD i = if i = p then b else v.getLsbD i := by
  have hbit : (BitVec.ofNat 16 (2 ^ p)).getLsbD i = decide (p = i) := by
    rw [BitVec.getLsbD_ofNat, Nat.testBit_two_pow, decide_eq_true hi, Bool.true_and]
  cases b with
  | true =>
    rw [writePred, if_pos rfl, BitVec.getLsbD_or, hbit]
    by_cases hip : i = p
    · rw [if_pos hip, decide_eq_true hip.symm, Bool.or_true]
    · rw [if_neg hip, decide_eq_false (Ne.symm hip), Bool.or_false]
  | false =>
    rw [writePred, if_neg Bool.false_ne_true, BitVec.getLsbD_and, BitVec.getLsbD_not, hbit, decide_eq_true hi, Bool.true_and]
    by_cases hip : i = p
    · rw [if_pos hip, decide_eq_true hip.symm, Bool.not_true, Bool.and_false]
    · rw [if_neg hip, decide_eq_false (Ne.symm hip), Bool.not_false, Bool.and_true]

/-! ## The control strokes (R74 to R77) -/

section
variable {h : StrokeHdr} {s0 s u : State} (hi : Issues h s0 s u)
include hi

theorem descWord_of_issues (n : Nat) : descWord u (clusterOf h.tile) n = descWord s (clusterOf h.tile) n := by
  unfold descWord
  rw [hi.island]

theorem barred_of_issues (v step : Nat) : barred u v step = barred s v step := by
  rw [hi.clocked]
  rfl

end

section
variable {h : StrokeHdr} {s0 s u : State} (hi : Issues h s0 s u) (hp : predHolds u h = true)
include hi hp

theorem loopBegin_counts (c n : Nat) (fromDesc : Bool) : ∃ t, exec (.loopBegin h c n fromDesc) s0 = .next t ∧
    tget {} (getTile t h.tile).loops c =
      (if fromDesc then
        { total := descWord s (clusterOf h.tile) n, left := descWord s (clusterOf h.tile) n : LoopCtr }
       else { total := n, left := n }) ∧ Only [.fabric] s t := by
  refine ⟨_, hi.next hp _ _, ?_, Only.trans hi.only (modTile_only _ _ _)⟩
  rw [getTile_modTile, descWord_of_issues hi]
  refine (tget_tput_same _ _ _ _).trans ?_
  cases fromDesc <;> rfl

theorem loopEnd_counts (c : Nat) : ∃ t, exec (.loopEnd h c) s0 = .next t ∧
    (tget {} (getTile t h.tile).loops c).left = (tget {} (getTile s h.tile).loops c).left - 1 ∧
    (tget {} (getTile t h.tile).loops c).total = (tget {} (getTile s h.tile).loops c).total ∧ Only [.fabric] s t := by
  refine ⟨_, hi.next hp _ _, ?_, ?_, Only.trans hi.only (modTile_only _ _ _)⟩
  all_goals
    rw [getTile_modTile, hi.tile]
    dsimp only
    rw [tget_tput_same]

/-- STEP_BEGIN of an island with no step of its own begins the next one. -/
theorem stepBegin_begins (hd : (getIsland s (clusterOf h.tile)).desc = none) :
    exec (.stepBegin h) s0 = .next (beginStep u (clusterOf h.tile)) := by
  refine (hi.next hp _ _).trans (congrArg _ (if_neg ?_))
  rw [hi.island, hd]
  exact Bool.false_ne_true

theorem stepBegin_joins (hd : (getIsland s (clusterOf h.tile)).desc.isSome = true) : ∃ t, exec (.stepBegin h) s0 = .next t ∧
    getTile t h.tile = { getTile s h.tile with cycle := 0 } ∧ Only [.fabric] s t := by
  rw [← hi.island] at hd
  refine ⟨_, (hi.next hp _ _).trans (congrArg _ (if_pos hd)), ?_, Only.trans hi.only (modTile_only _ _ _)⟩
  rw [getTile_modTile, hi.tile]

theorem stepBegin_takes (d : Desc) (rest : List Desc) (hd : (getIsland s (clusterOf h.tile)).desc = none)
    (hq : (getIsland s (clusterOf h.tile)).posted = d :: rest) (hb : barred s (clusterOf h.tile) d.step = false) :
    ∃ t, exec (.stepBegin h) s0 = .next t ∧
      (getIsland t (clusterOf h.tile)).desc = some { d with half := stepHalf u (getIsland u (clusterOf h.tile)) d } ∧
      (getIsland t (clusterOf h.tile)).posted = rest ∧ Only [.fabric, .serving] s t := by
  rw [← hi.island] at hq
  rw [← barred_of_issues hi] at hb
  refine ⟨_, (stepBegin_begins hi hp hd).trans (congrArg _ (beginStep_takes hq hb)), ?_, ?_, ?_⟩
  · rw [getIsland_takeDesc]
    rfl
  · rw [getIsland_takeDesc]
    rfl
  · exact Only.trans (Only.mono hi.only (fun _ hm => List.mem_append_left [Part.serving] hm))
      (takeDesc_held (held_self [.fabric, .serving] u) (by rfl)).only

theorem stepBegin_gates (hd : (getIsland s (clusterOf h.tile)).desc = none)
    (hq : (getIsland s (clusterOf h.tile)).posted = []) : ∃ t, exec (.stepBegin h) s0 = .next t ∧
      (getIsland t (clusterOf h.tile)).gate = some .descriptor ∧ Only [.fabric] s t := by
  rw [← hi.island] at hq
  refine ⟨_, (stepBegin_begins hi hp hd).trans (congrArg _ (beginStep_gates hq)), ?_, Only.trans hi.only (putIsland_only _ _ _)⟩
  rw [getIsland_putIsland]

theorem stepEnd_ends (d : Desc) (mj : Nat) (hd : (getIsland s (clusterOf h.tile)).desc = some d) :
    ∃ t, exec (.stepEnd h mj) s0 = .next t ∧ (getIsland t (clusterOf h.tile)).desc = none ∧
      (getIsland t (clusterOf h.tile)).counts = [] ∧ (getIsland t (clusterOf h.tile)).energyMj = 0 := by
  rw [← hi.island] at hd
  have hopen := openStep_endStepAt hd mj
  exact ⟨_, hi.next hp _ _, congrArg Prod.fst hopen, congrArg (·.2.1) hopen, congrArg (·.2.2) hopen⟩

theorem predLoad_sets (p w b : Nat) (hlo : 1 ≤ p) (hhi : p ≤ 15) : ∃ t, exec (.predLoad h p ⟨.descBit w b, []⟩) s0 = .next t ∧
    (∀ i, i < 16 → (getTile t h.tile).preds.getLsbD i =
      (if i = p then Nat.testBit (descWord s (clusterOf h.tile) w) b else (getTile s h.tile).preds.getLsbD i)) ∧
    Only [.fabric] s t := by
  have he : exec (.predLoad h p ⟨.descBit w b, []⟩) s0 = .next (modTile u h.tile (fun t =>
      { t with preds := writePred t.preds p (Nat.testBit (descWord u (clusterOf h.tile) w) b) })) :=
    (hi.next hp _ _).trans (congrArg _ (if_neg (by omega)))
  refine ⟨_, he, fun i hlt => ?_, Only.trans hi.only (modTile_only _ _ _)⟩
  rw [getTile_modTile, hi.tile, descWord_of_issues hi]
  exact getLsbD_writePred _ _ _ hlt

theorem predLoad_zero (w b : Nat) : ∃ t, exec (.predLoad h 0 ⟨.descBit w b, []⟩) s0 = .next t ∧
    (getTile t h.tile).preds = (getTile s h.tile).preds := by
  refine ⟨_, (hi.next hp _ _).trans (congrArg _ (if_pos (.inl rfl))), ?_⟩
  show (getTile u h.tile).preds = _
  rw [hi.tile]

end

/-- Settles O45: each clause is one form of a stroke that is withheld, predicated off or issued. -/
theorem strokesIssueAndControl : Obligations.StrokesIssueAndControl := by
  unfold Obligations.StrokesIssueAndControl
  refine ⟨fun h s hc a b c d => ⟨?_, ?_, ?_, ?_⟩, fun h s0 s hc hs hp a b => ⟨?_, ?_⟩, fun h s0 s hc hs => ?_,
    fun h s0 s u hc hs hu hp => ?_⟩
  · exact congrArg Host.Outcome.next (issue_withheld hc _ _)
  · exact congrArg Host.Outcome.next (issue_withheld hc _ _)
  · exact congrArg Host.Outcome.next (issue_withheld hc _ _)
  · exact congrArg Host.Outcome.next (issue_withheld hc _ _)
  · exact Issues.next_failing ⟨hc, hs, rfl⟩ hp _ _
  · exact Issues.next_failing ⟨hc, hs, rfl⟩ hp _ _
  · exact ⟨_, nop_clocks ⟨hc, hs, rfl⟩, getTile_modTile _ _ _, fun v hv => getTile_modTile_ne s _ hv, modTile_only _ _ _⟩
  · have hi : Issues h s0 s u := ⟨hc, hs, hu⟩
    exact ⟨loopBegin_counts hi hp, loopEnd_counts hi hp, stepBegin_joins hi hp, stepBegin_takes hi hp, stepBegin_gates hi hp,
      stepEnd_ends hi hp, predLoad_sets hi hp, predLoad_zero hi hp⟩

end Sys2Proof.Proofs

namespace Sys2Proof.Proofs

open Sys2Proof Sys2Proof.Machine Sys2Proof.Laws

/-! ## What reads and counts leave of the tiles (R69, R85, R114) -/

theorem getTile_of_tiles {s t : State} (h : t.fabric.tiles = s.fabric.tiles) (k : Nat) : getTile t k = getTile s k := by
  unfold getTile
  rw [h]

theorem isolationFault_tiles (s : State) (p : Place) (aux : Nat) : (isolationFault s p aux).fabric.tiles = s.fabric.tiles := by
  show (note s 0x0105 3 p.cluster p.row aux).fabric.tiles = _
  rw [note_fabric]

theorem readRow_tiles (s : State) (runner : Nat) (p : Place) : (readRow s runner p).state.fabric.tiles = s.fabric.tiles := by
  unfold readRow
  split
  · exact isolationFault_tiles s p 1
  split
  · rfl
  · rfl

theorem readRows_tiles (s : State) (runner : Nat) (p : Place) (n : Nat) :
    (readRows s runner p n).state.fabric.tiles = s.fabric.tiles := by
  induction n generalizing s p with
  | zero => rfl
  | succ n ih => exact (ih _ _).trans (readRow_tiles s runner p)

theorem tensorBytes_tiles (s : State) (tile : Nat) (inSlice : Bool) (addr n : Nat) :
    (tensorBytes s tile inSlice addr n).state.fabric.tiles = s.fabric.tiles := readRows_tiles _ _ _ _

/-- The plane, the scale byte and the metadata of a block are read one after the other. -/
theorem readBlock_tiles (s : State) (tile : Nat) (e : TensorEntry) (k : Nat) :
    (readBlock s tile e k).state.fabric.tiles = s.fabric.tiles := by
  unfold readBlock
  dsimp only
  split <;> split <;> simp only [tensorBytes_tiles]

theorem readActs_tiles (s : State) (tile : Nat) (e : TensorEntry) (k n : Nat) :
    (readActs s tile e k n).2.fabric.tiles = s.fabric.tiles := by
  induction n generalizing s k with
  | zero => rfl
  | succ n ih => exact (ih _ _).trans (readBlock_tiles s tile e k)

section
variable (s : State) (cluster tensor : Nat) (c : Counts)

theorem countIn_tiles : (countIn s cluster tensor c).fabric.tiles = s.fabric.tiles := by
  unfold countIn
  dsimp only
  split <;> rfl

theorem countIn_serving : (countIn s cluster tensor c).serving = s.serving :=
  (countIn_held (held_self [.fabric] s) (by rfl)).only .serving (by decide)

theorem countIn_keeps {α : Type} {f : Island → α} (hf : ∀ i l, f { i with counts := l } = f i) :
    IslandsKeep f s (countIn s cluster tensor c) := by
  unfold countIn
  dsimp only
  split
  · exact IslandsKeep.refl s
  · exact putIsland_keeps (hf _ _)

theorem inReference_countIn (v : Nat) : inReference (countIn s cluster tensor c) v = inReference s v := by
  unfold inReference findStep
  rw [countIn_serving, countIn_keeps s cluster tensor c (f := Island.desc) (fun _ _ => rfl)]

theorem accCount_countIn (tile : Nat) : accCount (countIn s cluster tensor c) tile = accCount s tile := by
  unfold accCount
  rw [inReference_countIn]

end

/-! ## Lanes (R69 to R71) -/

section
variable {s t : State} {tile : Nat}

theorem latchOf_congr (ht : (getTile t tile).latches = (getTile s tile).latches) (l : Nat) : latchOf t tile l = latchOf s tile l := by
  unfold latchOf
  rw [ht]

theorem aget_congr (ht : (getTile t tile).accs = (getTile s tile).accs) (acc l : Nat) : aget t tile acc l = aget s tile acc l := by
  unfold aget
  rw [ht]

theorem vget_congr (ht : (getTile t tile).vregs = (getTile s tile).vregs) (reg : Nat) : vget t tile reg = vget s tile reg := by
  unfold vget
  rw [ht]

end

theorem vget_countIn (s : State) (cluster tensor : Nat) (c : Counts) (tile reg : Nat) :
    vget (countIn s cluster tensor c) tile reg = vget s tile reg :=
  vget_congr (congrArg Tile.vregs (getTile_of_tiles (countIn_tiles s cluster tensor c) tile)) reg

section
variable (s : State) (tile acc : Nat)

theorem aget_aput_same (l : Nat) (v : Acc) : aget (aput s tile acc l v) tile acc l = v := by
  unfold aget aput
  rw [getTile_modTile]
  exact tget_tput_same _ _ _ _

theorem aget_aput_ne {l k : Nat} (v : Acc) (hk : k ≠ l) : aget (aput s tile acc l v) tile acc k = aget s tile acc k := by
  unfold aget aput
  rw [getTile_modTile]
  exact tget_tput_ne _ _ _ (fun h => hk (Nat.add_left_cancel h))

theorem latchOf_aput (l k : Nat) (v : Acc) : latchOf (aput s tile acc l v) tile k = latchOf s tile k := by
  unfold latchOf aput
  rw [getTile_modTile]

end

/-- Lanes that are worked on in turn, each from its own latch and accumulator, do not meet. -/
theorem aget_foldl_lanes {g : State → Nat → State} {val : Latch → Acc → Acc} {tile acc : Nat}
    (hsame : ∀ s l, aget (g s l) tile acc l = val (latchOf s tile l) (aget s tile acc l))
    (hother : ∀ s l k, k ≠ l → aget (g s l) tile acc k = aget s tile acc k)
    (hlatch : ∀ s l k, latchOf (g s l) tile k = latchOf s tile k) (ls : List Nat) (hnd : ls.Nodup) (s : State) (l : Nat) :
    aget (ls.foldl g s) tile acc l = if l ∈ ls then val (latchOf s tile l) (aget s tile acc l) else aget s tile acc l := by
  induction ls generalizing s with
  | nil => rfl
  | cons x xs ih =>
    obtain ⟨hx, hxs⟩ := List.nodup_cons.mp hnd
    rw [List.foldl_cons, ih hxs, hlatch]
    by_cases hl : l = x
    · rw [hl, if_neg hx, if_pos List.mem_cons_self, hsame]
    · rw [hother _ _ _ hl]
      simp only [List.mem_cons, hl, false_or]

/-! ## MAC (R70, R71, R118, R119) -/

/-- A lane's accumulator with its contributions of some activation blocks, and their mark (R89). -/
def laneSum (reference : Bool) (acts : List ActBlock) (w : Latch) (a : Acc) : Acc :=
  let x := laneMac reference w a 0 (acts.take (spanOf w.sparsity))
  { x.1 with tainted := x.1.tainted || acts.any (·.poisoned) || w.tainted }

/-- One lane of a stroke whose reads met no wrong bit. -/
def evalLane (reference : Bool) (acts : List ActBlock) (tile acc : Nat) (s : State) (l : Nat) : State :=
  countIn (aput s tile acc l (laneSum reference acts (latchOf s tile l) (aget s tile acc l))) (clusterOf tile)
    (latchOf s tile l).tensor
    (laneMac reference (latchOf s tile l) (aget s tile acc l) 0 (acts.take (spanOf (latchOf s tile l).sparsity))).2

theorem getTile_evalLane (reference : Bool) (acts : List ActBlock) (tile acc : Nat) (s : State) (l : Nat) :
    getTile (evalLane reference acts tile acc s l) tile =
      getTile (aput s tile acc l (laneSum reference acts (latchOf s tile l) (aget s tile acc l))) tile :=
  getTile_of_tiles (countIn_tiles _ _ _ _) tile

theorem evalLanes_eq_foldl (s : State) (tile acc : Nat) (acts : List ActBlock) : evalLanes s tile acc acts false =
    (List.range (lanesOf tile)).foldl (evalLane (inReference s (clusterOf tile)) acts tile acc) s := rfl

theorem aget_evalLanes (s : State) (tile acc : Nat) (acts : List ActBlock) {l : Nat} (hl : l < lanesOf tile) :
    aget (evalLanes s tile acc acts false) tile acc l =
      laneSum (inReference s (clusterOf tile)) acts (latchOf s tile l) (aget s tile acc l) := by
  rw [evalLanes_eq_foldl, aget_foldl_lanes (val := laneSum (inReference s (clusterOf tile)) acts) (fun v l => ?_) (fun v l k hk => ?_)
    (fun v l k => ?_) _ List.nodup_range, if_pos (List.mem_range.mpr hl)]
  · rw [aget_congr (congrArg Tile.accs (getTile_evalLane _ _ _ _ _ _)), aget_aput_same]
  · rw [aget_congr (congrArg Tile.accs (getTile_evalLane _ _ _ _ _ _)), aget_aput_ne _ _ _ _ hk]
  · rw [latchOf_congr (congrArg Tile.latches (getTile_evalLane _ _ _ _ _ _)), latchOf_aput]

/-- The scales of the broadcast blocks that are invalid, counted for the latched tensor (R103). -/
def countScales (s : State) (tile tensor : Nat) (acts : List ActBlock) : State :=
  countIn s (clusterOf tile) tensor
    { invalid := (acts.filter (fun a => decide (a.fmt ≠ .bf16) && (scaleVal a.scale).isNone)).length }

theorem macTile_unnamed {s : State} {tile act : Nat} (he : entryAt s (clusterOf tile) false act = none) (acc : Nat) :
    macTile s tile act .latched acc [] = s := by
  unfold macTile loadWeights
  dsimp only
  rw [he]
  rfl

theorem macTile_broadcasts {s : State} {tile act : Nat} {e : TensorEntry} (he : entryAt s (clusterOf tile) false act = some e)
    (acc : Nat) {r : List ActBlock × State}
    (hr : r = readActs s tile e (blockIndex e.fmt e.elemBase act) (spanOf (latchOf s tile 0).sparsity)) :
    macTile s tile act .latched acc [] =
      if r.1.all zeroScale then
        modMem (countScales r.2 tile (latchOf s tile 0).tensor r.1) (clusterOf tile) (fun m =>
          { m with zeroScaleSkips := sat 64 (m.zeroScaleSkips + 1) })
      else if accCount r.2 tile ≤ acc then countScales r.2 tile (latchOf s tile 0).tensor r.1
      else evalLanes (countScales r.2 tile (latchOf s tile 0).tensor r.1) tile acc r.1 false := by
  unfold macTile loadWeights
  dsimp only
  rw [he]
  dsimp only
  rw [← hr, accCount_countIn]
  rfl

section
variable {h : StrokeHdr} {s0 s u : State} (hi : Issues h s0 s u)
include hi

theorem latchOf_of_issues (l : Nat) : latchOf u h.tile l = latchOf s h.tile l := latchOf_congr (by rw [hi.tile]) l

theorem aget_of_issues (acc l : Nat) : aget u h.tile acc l = aget s h.tile acc l := aget_congr (by rw [hi.tile]) acc l

theorem vget_of_issues (reg : Nat) : vget u h.tile reg = vget s h.tile reg := vget_congr (by rw [hi.tile]) reg

end

section
variable {h : StrokeHdr} {s0 s u : State} (hi : Issues h s0 s u) (hp : predHolds u h = true)
include hi hp

theorem mac_unnamed (act acc : Nat) (he : entryAt u (clusterOf h.tile) false act = none) :
    exec (.mac h act .latched ⟨acc, []⟩) s0 = .next u :=
  (hi.next hp _ _).trans (congrArg _ (macTile_unnamed he acc))

theorem mac_accumulates (act acc : Nat) (e : TensorEntry) (r : List ActBlock × State)
    (he : entryAt u (clusterOf h.tile) false act = some e)
    (hr : r = readActs u h.tile e (blockIndex e.fmt e.elemBase act) (spanOf (latchOf s h.tile 0).sparsity)) :
    ∃ t, exec (.mac h act .latched ⟨acc, []⟩) s0 = .next t ∧
      (if r.1.all zeroScale then
        (getTile t h.tile).accs = (getTile s h.tile).accs ∧
          (getIsland t (clusterOf h.tile)).mem.zeroScaleSkips =
            sat 64 ((getIsland r.2 (clusterOf h.tile)).mem.zeroScaleSkips + 1)
       else if accCount r.2 h.tile ≤ acc then (getTile t h.tile).accs = (getTile s h.tile).accs
       else ∀ l x, l < lanesOf h.tile →
        x = laneMac (inReference r.2 (clusterOf h.tile)) (latchOf s h.tile l) (aget s h.tile acc l) 0
          (r.1.take (spanOf (latchOf s h.tile l).sparsity)) →
        aget t h.tile acc l =
          { x.1 with tainted := x.1.tainted || r.1.any (·.poisoned) || (latchOf s h.tile l).tainted }) := by
  rw [← latchOf_of_issues hi] at hr
  refine ⟨_, (hi.next hp _ _).trans (congrArg _ (macTile_broadcasts he acc hr)), ?_⟩
  have htile (n : Nat) : getTile (countScales r.2 h.tile n r.1) h.tile = getTile u h.tile := by
    refine getTile_of_tiles ((countIn_tiles _ _ _ _).trans ?_) _
    rw [hr]
    exact readActs_tiles _ _ _ _ _
  have haccs (n : Nat) : (getTile (countScales r.2 h.tile n r.1) h.tile).accs = (getTile s h.tile).accs := by
    rw [htile, hi.tile]
  split
  · refine ⟨haccs _, ?_⟩
    unfold modMem
    dsimp only
    rw [getIsland_putIsland]
    exact congrArg (fun m => sat 64 (MemCounters.zeroScaleSkips m + 1)) (countIn_keeps (f := Island.mem) _ _ _ _ (fun _ _ => rfl) _)
  split
  · exact haccs _
  · intro l x hl hx
    rw [hx, aget_evalLanes _ _ _ _ hl, latchOf_congr (congrArg Tile.latches (htile _)), latchOf_of_issues hi l, aget_congr (haccs _)]
    unfold countScales
    rw [inReference_countIn]
    rfl

end

/-! ## DRAIN (R70, R123) -/

/-- One accumulator of every lane returns to +0. -/
def clearAccs (s : State) (tile acc : Nat) : State := (List.range (lanesOf tile)).foldl (fun s l => aput s tile acc l {}) s

section
variable (s : State) (tile acc : Nat)

theorem aget_clearAccs {l : Nat} (hl : l < lanesOf tile) : aget (clearAccs s tile acc) tile acc l = {} := by
  unfold clearAccs
  rw [aget_foldl_lanes (val := fun _ _ => {}) (fun s l => aget_aput_same s tile acc l {})
    (fun s l k hk => aget_aput_ne s tile acc {} hk) (fun s l k => latchOf_aput s tile acc l k {}) _ List.nodup_range,
    if_pos (List.mem_range.mpr hl)]

theorem clearAccs_only : Only [.fabric] s (clearAccs s tile acc) :=
  (foldl_held (fun _ _ hs => aput_held hs (by rfl)) (held_self [.fabric] s)).only

theorem clearAccs_sram : (clearAccs s tile acc).fabric.sram = s.fabric.sram := by
  unfold clearAccs
  induction List.range (lanesOf tile) generalizing s with
  | nil => rfl
  | cons l ls ih => exact ih _

variable (dst : Nat) (scale : Option Fp32)

theorem drainTile_writes (hacc : acc < accCount s tile) : drainTile s tile dst acc scale =
    let b := (List.range (lanesOf tile)).flatMap (fun l => drainLane (inReference s (clusterOf tile)) (aget s tile acc l) scale)
    writeRows (clearAccs s tile acc) (clusterOf tile) (.scratch tile dst)
      ((List.range (lanesOf tile)).any (fun l => (aget s tile acc l).tainted)) ((b.length + 63) / 64) b := by
  unfold drainTile
  simp only [if_neg (Nat.not_le.mpr hacc)]
  rfl

theorem drainTile_unnamed (hacc : accCount s tile ≤ acc) : drainTile s tile dst acc scale =
    let b := (List.range (lanesOf tile)).flatMap (fun _ => drainLane (inReference s (clusterOf tile)) {} scale)
    writeRows s (clusterOf tile) (.scratch tile dst)
      ((List.range (lanesOf tile)).any (fun l => (aget s tile acc l).tainted)) ((b.length + 63) / 64) b := by
  unfold drainTile
  simp only [if_pos hacc]

end

section
variable {h : StrokeHdr} {s0 s u : State} (hi : Issues h s0 s u) (hp : predHolds u h = true)
include hi hp

theorem drain_writes (dst acc : Nat) (scale : Option Fp32) (b : List Byte) (m : Bool)
    (hm : m = (List.range (lanesOf h.tile)).any (fun l => (aget s h.tile acc l).tainted)) :
    (acc < accCount u h.tile → b = (List.range (lanesOf h.tile)).flatMap (fun l =>
        drainLane (inReference u (clusterOf h.tile)) (aget s h.tile acc l) scale) →
      ∃ c, (∀ l, l < lanesOf h.tile → aget c h.tile acc l = {}) ∧ Only [.fabric] s c ∧
        c.fabric.sram = s.fabric.sram ∧ exec (.drain h dst acc scale) s0 =
          .next (writeRows c (clusterOf h.tile) (.scratch h.tile dst) m ((b.length + 63) / 64) b)) ∧
    (accCount u h.tile ≤ acc → b = (List.range (lanesOf h.tile)).flatMap (fun _ =>
        drainLane (inReference u (clusterOf h.tile)) {} scale) →
      exec (.drain h dst acc scale) s0 =
        .next (writeRows u (clusterOf h.tile) (.scratch h.tile dst) m ((b.length + 63) / 64) b)) := by
  simp only [← aget_of_issues hi] at hm ⊢
  refine ⟨fun hacc hb => ⟨clearAccs u h.tile acc, fun l => aget_clearAccs u h.tile acc, Only.trans hi.only (clearAccs_only _ _ _),
    ?_, ?_⟩, fun hacc hb => ?_⟩
  · rw [clearAccs_sram, hi.clocked]
    rfl
  · rw [hb, hm]
    exact (hi.next hp _ _).trans (congrArg _ (drainTile_writes u h.tile acc dst scale hacc))
  · rw [hb, hm]
    exact (hi.next hp _ _).trans (congrArg _ (drainTile_unnamed u h.tile acc dst scale hacc))

end

/-! ## The vector unit (R72, R109) -/

/-- A register whose lanes a function gives. -/
theorem vget_vput_range (s : State) (tile reg n : Nat) (val : Nat → Fp32) (mark : Bool) {i : Nat} (hi : i < n) :
    vget (vput s tile reg ((List.range n).map val) mark) tile reg i = val i := by
  have hlen : i < ((List.range n).map val).length := by rwa [List.length_map, List.length_range]
  rw [vget_vput _ _ _ _ _ hlen, List.getD_eq_getElem _ _ hlen, List.getElem_map, List.getElem_range]

section
variable {h : StrokeHdr} {s0 s u : State} (hi : Issues h s0 s u) (hp : predHolds u h = true)
include hi hp

theorem valu_lanes (dst : Nat) (srcs : List Nat) (code : Nat) : ∃ t, exec (.valu h dst srcs (.other code)) s0 = .next t ∧
    Only [.fabric] s t ∧ ∀ i, i < vectorLanes h.tile →
      vget t h.tile dst i = fpCanon (Config.valuLane code (srcs.map (fun r => vget s h.tile r i))) := by
  refine ⟨_, hi.next hp _ _, Only.trans hi.only (vput_held (held_self [.fabric] u) (by rfl)).only, fun i hlt => ?_⟩
  simp only [← vget_of_issues hi]
  exact vget_vput_range u h.tile dst _ _ _ hlt

theorem valu_reduces (dst : Nat) (srcs : List Nat) :
    (∃ t, exec (.valu h dst srcs .sum) s0 = .next t ∧ vget t h.tile dst 0 =
      fpCanon (reduceTree fpAdd (Nat.log2 (vectorLanes h.tile)) (vreg s h.tile (srcs.headD 0)))) ∧
    (∃ t, exec (.valu h dst srcs .max) s0 = .next t ∧ vget t h.tile dst 0 =
      fpCanon (reduceTree fpMax (Nat.log2 (vectorLanes h.tile)) (vreg s h.tile (srcs.headD 0)))) := by
  rw [← vreg_of_issues hi]
  exact ⟨⟨_, hi.next hp _ _, vget_vput u h.tile dst (_ :: _) _ (Nat.succ_pos _)⟩,
    ⟨_, hi.next hp _ _, vget_vput u h.tile dst (_ :: _) _ (Nat.succ_pos _)⟩⟩

theorem vxcend_lanes (dst src : Nat) (fn : XcendFn) : ∃ t, exec (.vxcend h dst src fn) s0 = .next t ∧ Only [.fabric] s t ∧
    ∀ i, i < vectorLanes h.tile → vget t h.tile dst i = fpTrans fn (vget s h.tile src i) := by
  refine ⟨_, hi.next hp _ _, Only.trans hi.only (vput_held (held_self [.fabric] u) (by rfl)).only, fun i hlt => ?_⟩
  unfold vreg
  rw [List.map_map, ← vget_of_issues hi]
  exact vget_vput_range u h.tile dst _ _ _ hlt

theorem narrow_writes (dst src : Nat) (opc : BitVec 32) (f : Fmt) (r : List Byte × List Byte × Counts) (m : Bool)
    (hf : fmtOf ((BitVec.extractLsb' 19 3 opc).toNat) = some f)
    (hr : r = narrowRow f (opc.getLsbD 18) ((List.range (16 * blocksPerRow f)).map (vget s h.tile src)))
    (hm : m = vtainted s h.tile src (16 * blocksPerRow f)) :
    exec (.narrow h dst src opc) s0 = .next (countIn
      (writeSpan (writeRow u (clusterOf h.tile) (.scratch h.tile dst) r.1 m) h.tile
        ((BitVec.extractLsb' 0 18 opc).toNat * 4) m 16 r.2.1)
      (clusterOf h.tile) (BitVec.extractLsb' 22 10 opc).toNat r.2.2) := by
  refine (hi.next hp _ _).trans (congrArg _ ?_)
  unfold narrowTile
  rw [hf]
  dsimp only
  rw [hr, hm, vget_of_issues hi, vtainted_of_issues hi]

theorem widen_lanes (dst src a : Nat) (f : Fmt) : ∃ t row sc, row = readRow u (clusterOf h.tile) (.scratch h.tile src) ∧
    sc = readSpan row.state h.tile a (blocksPerRow f) ∧ exec (.widen h dst src a ⟨f, []⟩) s0 = .next t ∧
    ∀ i, i < (widenRow f row.bytes sc.bytes).1.length → i < vectorLanes h.tile →
      vget t h.tile dst i = (widenRow f row.bytes sc.bytes).1.getD i 0 := by
  refine ⟨_, _, _, rfl, rfl, hi.next hp _ _, fun i hlt _ => ?_⟩
  exact (congrFun (vget_countIn _ _ _ _ h.tile dst) i).trans (vget_vput _ _ _ _ _ hlt)

end

/-- Settles O46: each clause is one stroke of the lanes or of the vector unit that issues, with no wrong bit met. -/
theorem strokesCompute : Obligations.StrokesCompute := by
  unfold Obligations.StrokesCompute
  intro h s0 s u hcan hland hclock hp
  have hi : Issues h s0 s u := ⟨hcan, hland, hclock⟩
  exact ⟨mac_unnamed hi hp, mac_accumulates hi hp, drain_writes hi hp, valu_lanes hi hp, valu_reduces hi hp, vxcend_lanes hi hp,
    narrow_writes hi hp, widen_lanes hi hp⟩

end Sys2Proof.Proofs

namespace Sys2Proof.Proofs

open Sys2Proof Sys2Proof.Machine

/-! ## Element codes: a sign bit over a magnitude code (R98, R99) -/

theorem elemVal_n4_of_lt {c : Nat} (hc : c < 8) : elemVal .n4 c = some (n4Mag c : Int) := by
  simp only [elemVal, Nat.mod_eq_of_lt hc, decide_eq_false (Nat.not_le_of_lt hc), Bool.false_eq_true, if_false]

theorem elemVal_n4_sign {c : Nat} (hc : c < 8) : elemVal .n4 (8 + c) = some (-(n4Mag c : Int)) := by
  simp only [elemVal, Nat.add_mod_left, Nat.mod_eq_of_lt hc, decide_eq_true (Nat.le_add_right 8 c), if_true]

theorem elemVal_n3_of_lt {c : Nat} (hc : c < 4) : elemVal .n3 c = some (n3Mag c : Int) := by
  simp only [elemVal, Nat.mod_eq_of_lt hc, decide_eq_false (Nat.not_le_of_lt hc), Bool.false_eq_true, if_false]

theorem elemVal_n3_sign {c : Nat} (hc : c < 4) : elemVal .n3 (4 + c) = some (-(n3Mag c : Int)) := by
  simp only [elemVal, Nat.add_mod_left, Nat.mod_eq_of_lt hc, decide_eq_true (Nat.le_add_right 4 c), if_true]

/-- The table of a format whose upper half of codes is the lower half with the sign set. -/
theorem map_elemVal_of_signed {f : Fmt} {n : Nat} {mag : Nat → Nat} (hpos : ∀ c < n, elemVal f c = some (mag c : Int))
    (hneg : ∀ c < n, elemVal f (n + c) = some (-(mag c : Int))) :
    (List.range (n + n)).map (elemVal f) =
      ((List.range n).map (fun c => (mag c : Int)) ++ (List.range n).map (fun c => -(mag c : Int))).map some := by
  rw [List.range_add, List.map_append, List.map_append, List.map_map, List.map_map, List.map_map]
  congr 1
  · exact List.map_congr_left fun c hc => hpos c (List.mem_range.mp hc)
  · exact List.map_congr_left fun c hc => hneg c (List.mem_range.mp hc)

/-- Settles O57: each format's table is its magnitudes, then the same magnitudes negated, where −0 is 0. -/
theorem elementFormats : Obligations.ElementFormats := by
  unfold Obligations.ElementFormats
  exact ⟨(map_elemVal_of_signed (fun _ => elemVal_n4_of_lt) (fun _ => elemVal_n4_sign)).trans (by decide),
    (map_elemVal_of_signed (fun _ => elemVal_n3_of_lt) (fun _ => elemVal_n3_sign)).trans (by decide)⟩

end Sys2Proof.Proofs

namespace Sys2Proof.Proofs

open Sys2Proof Sys2Proof.Machine Sys2Proof.Laws

/-- The law of each command's meaning (Laws/Keep*.lean), gathered over the table of commands: it changes only the parts that
`touched` lists, host time does not fall, and a sound state stays sound. -/
theorem exec_held (s : State) : ∀ c : Instr, OutHeld (touched c) s (exec c s)
  | .identify .. => execIdentify_held (held_self _ s) rfl
  | .adminReset .. => execAdminReset_held (held_self _ s) rfl
  | .vellumLayout .. => execVellumLayout_held (held_self _ s) rfl
  | .fwStage .. => execFwStage_held (held_self _ s) rfl
  | .fwHandover .. => execFwHandover_held (held_self _ s) rfl
  | .handoverExecute .. => execHandoverExecute_held (held_self _ s) rfl
  | .handoverTimeout .. => execHandoverTimeout_held (held_self _ s) rfl
  | .faultAck .. => execFaultAck_held (held_self _ s) rfl
  | .partitionConfig .. => execPartitionConfig_held (held_self _ s) rfl
  | .parkAreaSet .. => execParkAreaSet_held (held_self _ s) rfl
  | .timedRegimeSet .. => execTimedRegimeSet_held (held_self _ s) rfl
  | .parkThresholdsSet .. => execParkThresholdsSet_held (held_self _ s) rfl
  | .tenantRegister .. => execTenantRegister_held (held_self _ s) rfl
  | .tenantDeregister .. => execTenantDeregister_held (held_self _ s) rfl
  | .reservoirSet .. => execReservoirSet_held (held_self _ s) rfl
  | .sessionOpen .. => execSessionOpen_held (held_self _ s) rfl
  | .sessionClose .. => execSessionClose_held (held_self _ s) rfl
  | .sessionPark .. => execSessionPark_held (held_self _ s) rfl
  | .sessionUnpark .. => execSessionUnpark_held (held_self _ s) rfl
  | .prefixRegister .. => execPrefixRegister_held (held_self _ s) rfl
  | .prefixRelease .. => execPrefixRelease_held (held_self _ s) rfl
  | .reqSubmit .. => execReqSubmit_held (held_self _ s) rfl
  | .reqCancel .. => execReqCancel_held (held_self _ s) rfl
  | .folioLoad .. => execFolioLoad_held (held_self _ s) rfl
  | .folioUnload .. => execFolioUnload_held (held_self _ s) rfl
  | .imageSwitch .. => execImageSwitch_held (held_self _ s) rfl
  | .folioExport .. => execFolioExport_held (held_self _ s) rfl
  | .folioExportEnd .. => execFolioExportEnd_held (held_self _ s) rfl
  | .adapterLoad .. => execAdapterLoad_held (held_self _ s) rfl
  | .adapterSwap .. => execAdapterSwap_held (held_self _ s) rfl
  | .compatSwap .. => execCompatSwap_held (held_self _ s) rfl
  | .arithModeSet .. => execArithModeSet_held (held_self _ s) rfl
  | .expertPin .. => execExpertPin_held (held_self _ s) rfl
  | .refetchSource .. => execRefetchSource_held (held_self _ s) rfl
  | .stencilLoad .. => execStencilLoad_held (held_self _ s) rfl
  | .adapterPin .. => execAdapterPin_held (held_self _ s) rfl
  | .adapterUnload .. => execAdapterUnload_held (held_self _ s) rfl
  | .powerCapSet .. => execPowerCapSet_held (held_self _ s) rfl
  | .capBind .. => execCapBind_held (held_self _ s) rfl
  | .capFloorSet .. => execCapFloorSet_held (held_self _ s) rfl
  | .latencyToleranceSet .. => execLatencyToleranceSet_held (held_self _ s) rfl
  | .powerRead .. => execPowerRead_held (held_self _ s) rfl
  | .thermalAck .. => execThermalAck_held (held_self _ s) rfl
  | .cartridgePrepare .. => execCartridgePrepare_held (held_self _ s) rfl
  | .cartridgeRestore .. => execCartridgeRestore_held (held_self _ s) rfl
  | .attest .. => execAttest_held (held_self _ s) rfl
  | .publisherRegister .. => execPublisherRegister_held (held_self _ s) rfl
  | .publisherRevoke .. => execPublisherRevoke_held (held_self _ s) rfl
  | .keyExchangeStart .. => execKeyExchangeStart_held (held_self _ s) rfl
  | .keyExchangeFinish .. => execKeyExchangeFinish_held (held_self _ s) rfl
  | .measurementLogRead .. => execMeasurementLogRead_held (held_self _ s) rfl
  | .certRead .. => execCertRead_held (held_self _ s) rfl
  | .reprovision .. => execReprovision_held (held_self _ s) rfl
  | .recordRead .. => execRecordRead_held (held_self _ s) rfl
  | .thresholdSet .. => execThresholdSet_held (held_self _ s) rfl
  | .blotterRead .. => execBlotterRead_held (held_self _ s) rfl
  | .tensorUpload .. => execTensorUpload_held (held_self _ s) rfl
  | .strokeLoad .. => execStrokeLoad_held (held_self _ s) rfl
  | .diagRun .. => execDiagRun_held (held_self _ s) rfl
  | .sqTail .. => execSqTail_held (held_self _ s) rfl
  | .cqHead .. => execCqHead_held (held_self _ s) rfl
  | .tsHead .. => execTsHead_held (held_self _ s) rfl
  | .queueEnable .. => execQueueEnable_held (held_self _ s) rfl
  | .queueDisable .. => execQueueDisable_held (held_self _ s) rfl
  | .queueDrained .. => execQueueDrained_held (held_self _ s) rfl
  | .eventCauseClear .. => execEventCauseClear_held (held_self _ s) rfl
  | .exportEnable .. => execExportEnable_held (held_self _ s) rfl
  | .hostTimeRead .. => execHostTimeRead_held (held_self _ s) rfl
  | .registerWrite .. => execRegisterWrite_held (held_self _ s) rfl
  | .bankWrite .. => execBankWrite_held (held_self _ s) rfl
  | .exportWindowRead .. => execExportWindowRead_held (held_self _ s) rfl
  | .descriptorFetch .. => execDescriptorFetch_held (held_self _ s) rfl
  | .commandTimeout .. => execCommandTimeout_held (held_self _ s) rfl
  | .eventBacklogPost .. => execEventBacklogPost_held (held_self _ s) rfl
  | .msixSend .. => execMsixSend_held (held_self _ s) rfl
  | .tsRecordWrite .. => execTsRecordWrite_held (held_self _ s) rfl
  | .holdingBufferDrain .. => execHoldingBufferDrain_held (held_self _ s) rfl
  | .bindingExpiry .. => execBindingExpiry_held (held_self _ s) rfl
  | .perstNAssert .. => execPerstNAssert_held (held_self _ s) rfl
  | .perstNDeassert .. => execPerstNDeassert_held (held_self _ s) rfl
  | .linkDown .. => execLinkDown_held (held_self _ s) rfl
  | .linkRetrain .. => execLinkRetrain_held (held_self _ s) rfl
  | .vfFlr .. => execVfFlr_held (held_self _ s) rfl
  | .pfFlr .. => execPfFlr_held (held_self _ s) rfl
  | .vfEnableClear .. => execVfEnableClear_held (held_self _ s) rfl
  | .d3hotEntry .. => execD3hotEntry_held (held_self _ s) rfl
  | .d0Return .. => execD0Return_held (held_self _ s) rfl
  | .ptmEnable .. => execPtmEnable_held (held_self _ s) rfl
  | .ptmDisable .. => execPtmDisable_held (held_self _ s) rfl
  | .ptmExchange .. => execPtmExchange_held (held_self _ s) rfl
  | .ptmLapse .. => execPtmLapse_held (held_self _ s) rfl
  | .ideKm .. => execIdeKm_held (held_self _ s) rfl
  | .ideIntegrityFailure .. => execIdeIntegrityFailure_held (held_self _ s) rfl
  | .lockInterface .. => execLockInterface_held (held_self _ s) rfl
  | .stopInterface .. => execStopInterface_held (held_self _ s) rfl
  | .spdmRequest .. => execSpdmRequest_held (held_self _ s) rfl
  | .setEndpointId .. => execSetEndpointId_held (held_self _ s) rfl
  | .coolantFlowWrite .. => execCoolantFlowWrite_held (held_self _ s) rfl
  | .flowReadingStale .. => execFlowReadingStale_held (held_self _ s) rfl
  | .powerCapEffecter .. => execPowerCapEffecter_held (held_self _ s) rfl
  | .setEventReceiver .. => execSetEventReceiver_held (held_self _ s) rfl
  | .pollEvent .. => execPollEvent_held (held_self _ s) rfl
  | .pldmEventSend .. => execPldmEventSend_held (held_self _ s) rfl
  | .pldmFirmwareUpdate .. => execPldmFirmwareUpdate_held (held_self _ s) rfl
  | .alertResponseAddress .. => execAlertResponseAddress_held (held_self _ s) rfl
  | .modEnRise .. => execModEnRise_held (held_self _ s) rfl
  | .modEnFall .. => execModEnFall_held (held_self _ s) rfl
  | .strapSample .. => execStrapSample_held (held_self _ s) rfl
  | .railWaves .. => execRailWaves_held (held_self _ s) rfl
  | .boot .. => execBoot_held (held_self _ s) rfl
  | .selfTest .. => execSelfTest_held (held_self _ s) rfl
  | .vellumTraining .. => execVellumTraining_held (held_self _ s) rfl
  | .flowLoss .. => execFlowLoss_held (held_self _ s) rfl
  | .flowRestored .. => execFlowRestored_held (held_self _ s) rfl
  | .feedInUse .. => execFeedInUse_held (held_self _ s) rfl
  | .feedLost .. => execFeedLost_held (held_self _ s) rfl
  | .feedWarning .. => execFeedWarning_held (held_self _ s) rfl
  | .feedWaitTimeout .. => execFeedWaitTimeout_held (held_self _ s) rfl
  | .cartridgeInserted .. => execCartridgeInserted_held (held_self _ s) rfl
  | .cartridgeRemoved .. => execCartridgeRemoved_held (held_self _ s) rfl
  | .phaseLost .. => execPhaseLost_held (held_self _ s) rfl
  | .dieShort .. => execDieShort_held (held_self _ s) rfl
  | .dieCurrentCheck .. => execDieCurrentCheck_held (held_self _ s) rfl
  | .ldoSegmentFail .. => execLdoSegmentFail_held (held_self _ s) rfl
  | .ceilingCheck .. => execCeilingCheck_held (held_self _ s) rfl
  | .droopTrip .. => execDroopTrip_held (held_self _ s) rfl
  | .droopReport .. => execDroopReport_held (held_self _ s) rfl
  | .droopThrottleEnd .. => execDroopThrottleEnd_held (held_self _ s) rfl
  | .inrushSlot .. => execInrushSlot_held (held_self _ s) rfl
  | .inrushWaitExpiry .. => execInrushWaitExpiry_held (held_self _ s) rfl
  | .allowanceRamp .. => execAllowanceRamp_held (held_self _ s) rfl
  | .powerStateEntry .. => execPowerStateEntry_held (held_self _ s) rfl
  | .powerStateDescentMove .. => execPowerStateDescentMove_held (held_self _ s) rfl
  | .wake .. => execWake_held (held_self _ s) rfl
  | .baseEnergySplit .. => execBaseEnergySplit_held (held_self _ s) rfl
  | .sensorSample .. => execSensorSample_held (held_self _ s) rfl
  | .backupComparatorTrip .. => execBackupComparatorTrip_held (held_self _ s) rfl
  | .throttleDeepen .. => execThrottleDeepen_held (held_self _ s) rfl
  | .throttleRelease .. => execThrottleRelease_held (held_self _ s) rfl
  | .sensorEnvelopeCheck .. => execSensorEnvelopeCheck_held (held_self _ s) rfl
  | .sensorFlagClear .. => execSensorFlagClear_held (held_self _ s) rfl
  | .coolantJudge _ _ outlet _ => execCoolantJudge_held outlet (held_self _ s) rfl
  | .coolingCapRevise .. => execCoolingCapRevise_held (held_self _ s) rfl
  | .sealBreak .. => execSealBreak_held (held_self _ s) rfl
  | .keyExchangeExpiry .. => execKeyExchangeExpiry_held (held_self _ s) rfl
  | .nop .. => execNop_held (held_self _ s) rfl
  | .loopBegin .. => execLoopBegin_held (held_self _ s) rfl
  | .loopEnd .. => execLoopEnd_held (held_self _ s) rfl
  | .stepBegin .. => execStepBegin_held (held_self _ s) rfl
  | .stepEnd .. => execStepEnd_held (held_self _ s) rfl
  | .predLoad .. => execPredLoad_held (held_self _ s) rfl
  | .mac .. => execMac_held (held_self _ s) rfl
  | .drain .. => execDrain_held (held_self _ s) rfl
  | .valu .. => execValu_held (held_self _ s) rfl
  | .vxcend .. => execVxcend_held (held_self _ s) rfl
  | .narrow .. => execNarrow_held (held_self _ s) rfl
  | .widen .. => execWiden_held (held_self _ s) rfl
  | .load .. => execLoad_held (held_self _ s) rfl
  | .store .. => execStore_held (held_self _ s) rfl
  | .sliceRead .. => execSliceRead_held (held_self _ s) rfl
  | .sliceWrite .. => execSliceWrite_held (held_self _ s) rfl
  | .send .. => execSend_held (held_self _ s) rfl
  | .recv .. => execRecv_held (held_self _ s) rfl
  | .ligSend .. => execLigSend_held (held_self _ s) rfl
  | .ligRecv .. => execLigRecv_held (held_self _ s) rfl
  | .dmaPost .. => execDmaPost_held (held_self _ s) rfl
  | .dmaWait .. => execDmaWait_held (held_self _ s) rfl
  | .tokenArrival .. => execTokenArrival_held (held_self _ s) rfl
  | .sendAck .. => execSendAck_held (held_self _ s) rfl
  | .watchdog .. => execWatchdog_held (held_self _ s) rfl
  | .flitRetry .. => execFlitRetry_held (held_self _ s) rfl
  | .sublinkOut .. => execSublinkOut_held (held_self _ s) rfl
  | .mergeWindowClose .. => execMergeWindowClose_held (held_self _ s) rfl
  | .ligatureCombine .. => execLigatureCombine_held (held_self _ s) rfl
  | .dmaComplete .. => execDmaComplete_held (held_self _ s) rfl
  | .correctedWriteBack .. => execCorrectedWriteBack_held (held_self _ s) rfl
  | .scrubRead .. => execScrubRead_held (held_self _ s) rfl
  | .clearComplete .. => execClearComplete_held (held_self _ s) rfl
  | .refresh _ _ bank _ => execRefresh_held bank (held_self _ s) rfl
  | .patrolScrub .. => execPatrolScrub_held (held_self _ s) rfl
  | .vellumRead .. => execVellumRead_held (held_self _ s) rfl
  | .vellumWriteBack .. => execVellumWriteBack_held (held_self _ s) rfl
  | .granuleCopyDone .. => execGranuleCopyDone_held (held_self _ s) rfl
  | .prefetchIssue .. => execPrefetchIssue_held (held_self _ s) rfl
  | .stepIssue .. => execStepIssue_held (held_self _ s) rfl
  | .sampleRow .. => execSampleRow_held (held_self _ s) rfl
  | .prefillHandoff .. => execPrefillHandoff_held (held_self _ s) rfl
  | .healthTest .. => execHealthTest_held (held_self _ s) rfl
  | .stepReplay .. => execStepReplay_held (held_self _ s) rfl
  | .residencyRevise .. => execResidencyRevise_held (held_self _ s) rfl
  | .seatRelease .. => execSeatRelease_held (held_self _ s) rfl
  | .adapterLineLoad .. => execAdapterLineLoad_held (held_self _ s) rfl
  | .admissionRound .. => execAdmissionRound_held (held_self _ s) rfl
  | .autoPark .. => execAutoPark_held (held_self _ s) rfl
  | .parkPageConfirm .. => execParkPageConfirm_held (held_self _ s) rfl
  | .unparkPageCheck .. => execUnparkPageCheck_held (held_self _ s) rfl
  | .drainTimeout .. => execDrainTimeout_held (held_self _ s) rfl
  | .chunkArrival .. => execChunkArrival_held (held_self _ s) rfl
  | .folioLoadComplete .. => execFolioLoadComplete_held (held_self _ s) rfl
  | .firstActivationFill .. => execFirstActivationFill_held (held_self _ s) rfl
  | .migrationStart .. => execMigrationStart_held (held_self _ s) rfl
  | .migrationPartDone .. => execMigrationPartDone_held (held_self _ s) rfl
  | .slotDrained .. => execSlotDrained_held (held_self _ s) rfl
  | .compatLayerRewrite .. => execCompatLayerRewrite_held (held_self _ s) rfl
  | .chunkRefetch .. => execChunkRefetch_held (held_self _ s) rfl
  | .refetchTimeout .. => execRefetchTimeout_held (held_self _ s) rfl
  | .blotterReport .. => execBlotterReport_held (held_self _ s) rfl
  | .coalesceFlush .. => execCoalesceFlush_held (held_self _ s) rfl
  | .cartridgePrepareDone .. => execCartridgePrepareDone_held (held_self _ s) rfl
  | .dischargeDelayEnd .. => execDischargeDelayEnd_held (held_self _ s) rfl
  | .completionTimeout .. => execCompletionTimeout_held (held_self _ s) rfl
  | .startInterface .. => execStartInterface_held (held_self _ s) rfl
  | .linkUp .. => execLinkUp_held (held_self _ s) rfl
  | .vfEnableSet .. => execVfEnableSet_held (held_self _ s) rfl
  | .adapterLoadDone .. => execAdapterLoadDone_held (held_self _ s) rfl
  | .fwStageDone .. => execFwStageDone_held (held_self _ s) rfl
  | .cartridgeRestoreDone .. => execCartridgeRestoreDone_held (held_self _ s) rfl

theorem sound_withPending {s : State} (h : Sound s) (l : List Instr) : Sound (s.withPending l) :=
  ⟨h.vellum, h.sram, h.nvm, h.power, h.thermal, h.blotter, h.events, h.trust⟩

theorem exec_keeps_sound {c : Instr} {s t : State} (h : Sound s) (ht : exec c s = .next t) : Sound t :=
  (exec_held s c t ht).sound h

/-- A step is the front command's effect on the state with the rest of the queue, or nothing on an empty queue. -/
theorem step_keeps_sound {s t : State} (h : Sound s) (ht : step s = .next t) : Sound t := by
  unfold step at ht
  split at ht
  · cases ht
    exact h
  · next c rest _ => exact exec_keeps_sound (sound_withPending h rest) ht

/-- Settles O5: from the laws of the commands' meanings, of which each carries soundness along. -/
theorem stepKeepsSound : Obligations.StepKeepsSound := by
  unfold Obligations.StepKeepsSound
  intro s t h
  exact ⟨step_keeps_sound h, fun c => exec_keeps_sound h⟩

end Sys2Proof.Proofs

namespace Sys2Proof.Proofs

open Sys2Proof Sys2Proof.Machine Sys2Proof.Laws

/-! ## One site's record -/

@[simp] theorem getSite_modSite (s : State) (d : Nat) (f : Site → Site) : getSite (modSite s d f) d = f (getSite s d) :=
  getSite_putSite s d _

theorem getSite_modSite_ne (s : State) {d e : Nat} (f : Site → Site) (h : e ≠ d) : getSite (modSite s d f) e = getSite s e :=
  getSite_putSite_ne s _ h

theorem modSite_only (s : State) (d : Nat) (f : Site → Site) : Only [.vellum] s (modSite s d f) :=
  (modSite_held (held_self [.vellum] s) rfl).only

theorem advance_modSite_only (s : State) (time d : Nat) (f : Site → Site) :
    Only [.now, .vellum] s (modSite (advance s time) d f) :=
  only_append (advance_only s time) (modSite_only (advance s time) d f)

theorem getSite_of_sites {s t : State} (h : t.vellum.sites = s.vellum.sites) (d : Nat) : getSite t d = getSite s d := by
  unfold getSite
  rw [h]

/-! ## Refresh, scrub and write-back (R130, R131, R133) -/

theorem exec_refresh (d ch bank n : Nat) (s : State) (hs : siteServes s d = true) (hc : ch < 16) :
    exec (.refresh d ch bank n) s =
      .next (modSite s d (fun v => { v with refreshWaits := sat 32 (v.refreshWaits + n) })) := by
  show execRefresh d ch bank n s = _
  unfold execRefresh
  rw [if_pos (by simp [hs, hc])]

theorem exec_vellumWriteBack (d u : Nat) (s : State) (hs : siteServes s d = true)
    (hw : (getSite s d).writeBacks.contains u = true) :
    exec (.vellumWriteBack d u) s = .next (modSite s d (fun v => { v with
      writeBacks := v.writeBacks.filter (fun x => x != u), writeUnits := sat 64 (v.writeUnits + 1) })) := by
  show execVellumWriteBack d u s = _
  unfold execVellumWriteBack
  rw [if_pos (by rw [hs, hw]; rfl)]

/-- A clean unit leaves nothing to do beside the count of its read. -/
@[simp] theorem applyVellumEcc_clean (s : State) (r : VellumRef) : applyVellumEcc s r .clean = s := rfl

/-- The scrubber has read the unit: it stands at the next one, or has completed a pass. -/
def scrubbed (u : Nat) (v : Site) : Site :=
  { v with
    readUnits := sat 64 (v.readUnits + 1),
    scrubPasses := if u + 1 = siteUnits then sat 32 (v.scrubPasses + 1) else v.scrubPasses,
    scrubUnit := if u + 1 = siteUnits then 0 else u + 1,
    scrubPosition := if u + 1 = siteUnits then 0 else (u + 1) / granuleUnits }

theorem exec_patrolScrub (time d u : Nat) (copyHeld : Bool) (s : State) (hs : siteServes s d = true)
    (hp : s.power.state ≠ .vellumOnly) (hu : u = (getSite s d).scrubUnit) (hl : u < siteUnits) :
    exec (.patrolScrub time d u ⟨.clean, copyHeld⟩) s = .next (modSite (advance s time) d (scrubbed u)) := by
  have hr : (siteServes (advance s time) d && decide ((advance s time).power.state ≠ .vellumOnly) &&
      u == (getSite (advance s time) d).scrubUnit && decide (u < siteUnits)) = true := by
    rw [show siteServes (advance s time) d = true from hs, show getSite (advance s time) d = getSite s d from rfl]
    simp [hp, hu.symm, hl]
  show execPatrolScrub time d u ⟨.clean, copyHeld⟩ s = _
  unfold execPatrolScrub
  simp only [hr, if_true, applyVellumEcc_clean, decide_eq_true_eq]
  rfl

/-! ## Reads (R131, R140, R143) -/

/-- The holding site has counted the read of a unit, and the clamp of an attention read. -/
def readCounted (s : State) (time : Nat) (r : VellumRef) : State :=
  modSite (advance s time) (holdingSite s r.site r.unit) (fun v => { v with
    readUnits := sat 64 (v.readUnits + 1),
    specClamped := sat 32 (v.specClamped + bit (r.attention && clampedUnit s r.site r.unit)) })

/-- The command reaches its unit: the site that holds it serves, the unit is one of the site, and R174 makes the read. -/
def ReachesUnit (s : State) (r : VellumRef) : Prop :=
  siteServes s (holdingSite s r.site r.unit) = true ∧ r.unit < siteUnits ∧ unselectedRead s r = false

theorem ReachesUnit.runs {s : State} {r : VellumRef} (h : ReachesUnit s r) (time : Nat) :
    (siteServes (advance s time) (holdingSite (advance s time) r.site r.unit) && decide (r.unit < siteUnits) &&
      !(unselectedRead (advance s time) r)) = true := by
  obtain ⟨hs, hu, hr⟩ := h
  rw [show siteServes (advance s time) (holdingSite (advance s time) r.site r.unit) = true from hs,
    show unselectedRead (advance s time) r = false from hr, decide_eq_true hu]
  rfl

theorem exec_vellumRead_allowed (time : Nat) {r : VellumRef} (e : VellumEcc) {s : State} (h : ReachesUnit s r)
    (ha : readAllowed s r = true) :
    exec (.vellumRead time r e) s = .next (applyVellumEcc (readCounted s time r) r e) := by
  show execVellumRead time r e s = _
  unfold execVellumRead
  simp only [h.runs time, show readAllowed (advance s time) r = true from ha, if_true]
  rfl

theorem vellumRead_counts (time : Nat) (r : VellumRef) (s : State) (h : ReachesUnit s r) (ha : readAllowed s r = true) :
    ∃ t, exec (.vellumRead time r .clean) s = .next t ∧
      (getSite t (holdingSite s r.site r.unit)).readUnits = sat 64 ((getSite s (holdingSite s r.site r.unit)).readUnits + 1) ∧
      (getSite t (holdingSite s r.site r.unit)).specClamped =
        sat 32 ((getSite s (holdingSite s r.site r.unit)).specClamped + bit (r.attention && clampedUnit s r.site r.unit)) ∧
      (∀ e, e ≠ holdingSite s r.site r.unit → getSite t e = getSite s e) ∧ Only [.now, .vellum] s t := by
  refine ⟨_, exec_vellumRead_allowed time .clean h ha, ?_⟩
  rw [applyVellumEcc_clean]
  unfold readCounted
  rw [getSite_modSite]
  exact ⟨rfl, rfl, fun e he => getSite_modSite_ne _ _ he, advance_modSite_only s time _ _⟩

/-- The site's record after bits of a unit's arrays were corrected: the unit waits for its write-back. -/
def corrected (bits unit : Nat) (v : Site) : Site :=
  { v with
    arrayCorrections := sat 32 (v.arrayCorrections + bits),
    symbolCorrections := sat 32 v.symbolCorrections,
    writeBacks := if v.writeBacks.contains unit then v.writeBacks else v.writeBacks ++ [unit] }

theorem corrected_waits (bits unit : Nat) (v : Site) : (corrected bits unit v).writeBacks.contains unit = true := by
  unfold corrected
  dsimp only
  split
  · assumption
  · simp

/-- With no symbol to correct, one failed array in the channel is no obstacle (R131). -/
theorem siteFinds_arrayBits {s : State} {d unit : Nat} (hf : channelFailed s d unit ≤ 1) (bits : Nat) :
    siteFinds s d unit (.corrected bits 0 []) = .corrected bits 0 [] := by
  have hk : (channelFailed s d unit = 0 ∧ 0 ≤ 8) ∨ (channelFailed s d unit = 1 ∧ 0 ≤ 3) := by omega
  exact if_pos hk

theorem applyVellumEcc_arrayBits {s : State} {r : VellumRef}
    (hf : channelFailed s (holding s r.site r.unit).1 (holding s r.site r.unit).2 ≤ 1) (bits : Nat) :
    applyVellumEcc s r (.corrected bits 0 []) =
      modSite s (holding s r.site r.unit).1 (corrected bits (holding s r.site r.unit).2) := by
  unfold applyVellumEcc
  simp only [siteFinds_arrayBits hf]
  rfl

theorem vellumRead_corrects (time bits : Nat) (r : VellumRef) (s : State) (h : ReachesUnit s r)
    (ha : readAllowed s r = true)
    (hf : channelFailed s (holding s r.site r.unit).1 (holding s r.site r.unit).2 ≤ 1) :
    ∃ t, exec (.vellumRead time r (.corrected bits 0 [])) s = .next t ∧
      (getSite t (holding s r.site r.unit).1).arrayCorrections =
        sat 32 ((getSite s (holding s r.site r.unit).1).arrayCorrections + bits) ∧
      (getSite t (holding s r.site r.unit).1).writeBacks.contains (holding s r.site r.unit).2 = true ∧
      Only [.now, .vellum] s t := by
  have hh : holding (readCounted s time r) r.site r.unit = holding s r.site r.unit := rfl
  have hc : getSite (readCounted s time r) (holding s r.site r.unit).1 = _ := getSite_modSite (advance s time) _ _
  refine ⟨_, exec_vellumRead_allowed time _ h ha, ?_⟩
  rw [applyVellumEcc_arrayBits (s := readCounted s time r) hf, hh, getSite_modSite, hc]
  exact ⟨rfl, corrected_waits .., Only.trans (advance_modSite_only s time _ _)
    (Only.mono (modSite_only _ _ _) fun p hp => List.mem_cons_of_mem _ hp)⟩

/-- The refused reader's cluster has counted an isolation fault; the S-die's blocks have no such count. -/
def readRefused (s : State) (r : VellumRef) : State :=
  match r.reader with
  | some u => modMem s u (fun m => { m with isolationFaults := sat 32 (m.isolationFaults + 1) })
  | none => s

theorem readRefused_only (s : State) (r : VellumRef) : Only [.fabric] s (readRefused s r) := by
  unfold readRefused
  split
  · exact (modMem_held (held_self [.fabric] s) rfl).only
  · exact (held_self _ s).only

/-- The report of a read that R143 refuses. -/
def refusedRead (r : VellumRef) : Report :=
  { code := 0x0105, cls := 3, source := siteUnit r.site, session := some r.session, tenant := r.tenant, address := r.unit,
    aux := 1 }

theorem exec_vellumRead_refused (time : Nat) {r : VellumRef} (e : VellumEcc) {s : State} (h : ReachesUnit s r)
    (ha : readAllowed s r = false) :
    exec (.vellumRead time r e) s = .next (report (readRefused (advance s time) r) (refusedRead r)) := by
  show execVellumRead time r e s = _
  unfold execVellumRead
  simp only [h.runs time, show readAllowed (advance s time) r = false from ha, if_true]
  rfl

theorem report_only (s : State) (x : Report) : Only [.link, .mailbox, .blotter, .mgmt] s (report s x) :=
  (report_held (held_self _ s) (by rfl)).only

theorem vellumRead_refuses (time : Nat) (r : VellumRef) (s : State) (h : ReachesUnit s r) (ha : readAllowed s r = false) :
    ∃ t, exec (.vellumRead time r .clean) s = .next t ∧ t.vellum = s.vellum ∧
      Only [.now, .link, .mailbox, .fabric, .blotter, .mgmt] s t := by
  have ho : Only [.now, .fabric, .link, .mailbox, .blotter, .mgmt] s (report (readRefused (advance s time) r) (refusedRead r)) :=
    only_append (only_append (advance_only s time) (readRefused_only _ r)) (report_only _ _)
  exact ⟨_, exec_vellumRead_refused time .clean h ha, ho .vellum (by decide), Only.mono ho (by decide)⟩

/-! ## The end of a granule's copy (R134, R146) -/

/-- Giving up a page changes no site and none of the remaps: only the page and the list of retired pages. -/
theorem giveUpPage_keeps (s : State) (d : Nat) : (giveUpPage s d).nvm.remaps = s.nvm.remaps ∧
    (giveUpPage s d).vellum.sites = s.vellum.sites := by
  unfold giveUpPage
  split
  · split <;> exact ⟨rfl, rfl⟩
  · exact ⟨rfl, rfl⟩

/-- A new granule of a site with room for it joins the site's remaps, and no site's record changes. -/
theorem retireGranule_remaps {s : State} {d g : Nat} (aux : Nat) (hl : (getSite s d).lost = false)
    (hg : (tget [] s.nvm.remaps d).contains g = false) (hn : (tget [] s.nvm.remaps d).length < 512) :
    (retireGranule s d g aux).nvm.remaps = tput [] s.nvm.remaps d (tget [] s.nvm.remaps d ++ [g]) ∧
      (retireGranule s d g aux).vellum.sites = s.vellum.sites := by
  obtain ⟨hr, hv⟩ := giveUpPage_keeps s d
  unfold retireGranule
  simp only [hl, hg, Bool.false_eq_true, if_false, if_neg (Nat.not_le_of_lt hn)]
  have ho := note_only { giveUpPage s d with nvm := { (giveUpPage s d).nvm with
    remaps := tput [] (giveUpPage s d).nvm.remaps d (tget [] s.nvm.remaps d ++ [g]) } } 0x0205 2 (siteUnit d) g aux
  have hnvm := ho .nvm (by decide)
  have hvel := ho .vellum (by decide)
  exact ⟨(congrArg Nvm.remaps hnvm).trans (by rw [hr]), (congrArg Vellum.sites hvel).trans hv⟩

/-- The site's record once the copy of a granule has ended: its units were read, and written to the spare. -/
def copied (g : Nat) (v : Site) : Site :=
  { v with
    copying := v.copying.filter (fun x => x != g),
    readUnits := sat 64 (v.readUnits + granuleUnits),
    writeUnits := sat 64 (v.writeUnits + granuleUnits) }

theorem copied_lost (g : Nat) (v : Site) : (copied g v).lost = v.lost := by
  simp only [copied]

theorem copied_not_copying (g : Nat) (v : Site) : (copied g v).copying.contains g = false := by
  simp [copied]

theorem not_lost_of_siteServes {s : State} {d : Nat} (h : siteServes s d = true) : (getSite s d).lost = false := by
  unfold siteServes at h
  simp only [Bool.and_eq_true, Bool.not_eq_true'] at h
  obtain ⟨⟨⟨_, hl⟩, _⟩, _⟩ := h
  exact hl

theorem exec_granuleCopyDone (time : Nat) {d g : Nat} {s : State} (hs : siteServes s d = true)
    (hc : (getSite s d).copying.contains g = true) :
    exec (.granuleCopyDone time d g) s = .next (retireGranule (modSite (advance s time) d (copied g)) d g 0) := by
  show execGranuleCopyDone time d g s = _
  unfold execGranuleCopyDone
  simp only [show siteServes (advance s time) d = true from hs,
    show (getSite (advance s time) d).copying.contains g = true from hc, Bool.and_self, if_true]
  rfl

theorem granuleCopyDone_remaps (time d g : Nat) (s : State) (hs : siteServes s d = true)
    (hc : (getSite s d).copying.contains g = true) (hg : (tget [] s.nvm.remaps d).contains g = false)
    (hn : (tget [] s.nvm.remaps d).length < 512) :
    ∃ t, exec (.granuleCopyDone time d g) s = .next t ∧ tget [] t.nvm.remaps d = tget [] s.nvm.remaps d ++ [g] ∧
      (∀ e, e ≠ d → tget [] t.nvm.remaps e = tget [] s.nvm.remaps e) ∧ (getSite t d).copying.contains g = false := by
  have hsite : getSite (modSite (advance s time) d (copied g)) d = copied g (getSite s d) := getSite_modSite _ _ _
  have hl : (getSite (modSite (advance s time) d (copied g)) d).lost = false := by
    rw [hsite, copied_lost]
    exact not_lost_of_siteServes hs
  have hnvm : (modSite (advance s time) d (copied g)).nvm = s.nvm := rfl
  obtain ⟨hr, hv⟩ := retireGranule_remaps 0 hl (hnvm ▸ hg) (hnvm ▸ hn)
  rw [hnvm] at hr
  refine ⟨_, exec_granuleCopyDone time hs hc, ?_, fun e he => ?_, ?_⟩
  · rw [hr, tget_tput_same]
  · rw [hr, tget_tput_ne _ _ _ he]
  · rw [getSite_of_sites hv, hsite]
    exact copied_not_copying g _

/-- Settles O42: each row changes the record of its site, and a read the record of the site that holds the unit. -/
theorem vellumUnitsAreReadAndRepaired : Obligations.VellumUnitsAreReadAndRepaired := by
  unfold Obligations.VellumUnitsAreReadAndRepaired
  refine ⟨fun d ch bank n s hs hc => ?_, fun time d u copyHeld s hs hp hu hl => ?_, fun time bits r s hs hu hr => ?_,
    fun d u s hs hw => ?_, granuleCopyDone_remaps⟩
  · exact ⟨_, exec_refresh d ch bank n s hs hc, getSite_modSite _ _ _, fun e he => getSite_modSite_ne _ _ he,
      modSite_only _ _ _⟩
  · exact ⟨_, exec_patrolScrub time d u copyHeld s hs hp hu hl, getSite_modSite _ _ _,
      fun e he => getSite_modSite_ne _ _ he, advance_modSite_only _ _ _ _⟩
  · have h : ReachesUnit s r := ⟨hs, hu, hr⟩
    exact ⟨fun ha => ⟨vellumRead_counts time r s h ha, vellumRead_corrects time bits r s h ha⟩, vellumRead_refuses time r s h⟩
  · exact ⟨_, exec_vellumWriteBack d u s hs hw, getSite_modSite _ _ _, fun e he => getSite_modSite_ne _ _ he, modSite_only _ _ _⟩

end Sys2Proof.Proofs

namespace Sys2Proof.Proofs

open Sys2Proof Sys2Proof.Machine Sys2Proof.Laws

/-! ## One tenant's record -/

/-- From `s` to `t` the record of tenant `n` becomes `v`, and every other tenant's stays. -/
structure TenantBecomes (n : Nat) (v : Tenant) (s t : State) : Prop where
  same : getTenant t n = v
  others : ∀ k, k ≠ n → getTenant t k = getTenant s k

theorem getTenant_of_tenants {s t : State} (h : t.serving.tenants = s.serving.tenants) (k : Nat) :
    getTenant t k = getTenant s k := by
  unfold getTenant
  rw [h]

@[simp] theorem getTenant_advance (s : State) (time k : Nat) : getTenant (advance s time) k = getTenant s k := rfl

theorem putTenant_becomes (s : State) (n : Nat) (v : Tenant) : TenantBecomes n v s (putTenant s n v) :=
  ⟨getTenant_putTenant s n v, fun _ hk => getTenant_putTenant_ne s v hk⟩

theorem TenantBecomes.trans {n : Nat} {v w : Tenant} {s t u : State} (h1 : TenantBecomes n v s t) (h2 : TenantBecomes n w t u) :
    TenantBecomes n w s u :=
  ⟨h2.same, fun k hk => (h2.others k hk).trans (h1.others k hk)⟩

/-- What leaves the table of the tenants alone may follow. -/
theorem TenantBecomes.then_tenants {n : Nat} {v : Tenant} {s t u : State} (h : TenantBecomes n v s t)
    (hu : u.serving.tenants = t.serving.tenants) : TenantBecomes n v s u :=
  ⟨(getTenant_of_tenants hu n).trans h.same, fun k hk => (getTenant_of_tenants hu k).trans (h.others k hk)⟩

/-- So may what leaves all of the serving state alone. -/
theorem TenantBecomes.then_serving {n : Nat} {v : Tenant} {s t u : State} (h : TenantBecomes n v s t)
    (hu : u.serving = t.serving) : TenantBecomes n v s u :=
  h.then_tenants (congrArg Serving.tenants hu)

/-! ## The release of an adapter version (R94, R217) -/

/-- Steps that each leave the table of the tenants alone leave it alone together. -/
theorem foldl_tenants {α : Type} {f : State → α → State} (hf : ∀ s x, (f s x).serving.tenants = s.serving.tenants)
    (l : List α) (s : State) : (l.foldl f s).serving.tenants = s.serving.tenants := by
  induction l generalizing s with
  | nil => rfl
  | cons x l ih => exact (ih (f s x)).trans (hf s x)

theorem queueClear_tenants (s : State) (k : ClearKind) : (queueClear s k).serving.tenants = s.serving.tenants := by
  unfold queueClear
  split
  · rfl
  · rfl

theorem releaseStore_tenants (s : State) (n : Nat) (l : List AdapterVer) :
    (releaseStore s n l).serving.tenants = s.serving.tenants := by
  unfold releaseStore
  split
  · rfl
  · exact queueClear_tenants _ _

/-- A cache line is given up, and is to be cleared (R94). -/
def giveUpLine (s : State) (l : Nat) : State :=
  queueClear { s with images := { s.images with lines := tput {} s.images.lines l {} } } (.adapterLine l)

theorem giveUpLine_tenants (s : State) (l : Nat) : (giveUpLine s l).serving.tenants = s.serving.tenants :=
  queueClear_tenants _ _

/-- The cache lines of a tenant's version are given up. -/
def giveUpLines (s : State) (n index : Nat) : State :=
  ((s.images.lines.filter (fun kv => kv.2.tenant == n && kv.2.version == index)).map (·.1)).foldl giveUpLine s

theorem giveUpLines_tenants (s : State) (n index : Nat) : (giveUpLines s n index).serving.tenants = s.serving.tenants :=
  foldl_tenants giveUpLine_tenants _ s

/-- The tenant without its version of a number. -/
def withoutVersion (t : Tenant) (index : Nat) : Tenant :=
  { t with versions := t.versions.filter (fun w => w.index != index) }

theorem dropVersion_eq (s : State) (n index : Nat) : dropVersion s n index =
    releaseStore (putTenant (giveUpLines s n index) n (withoutVersion (getTenant (giveUpLines s n index) n) index)) n
      ((getTenant (giveUpLines s n index) n).versions.filter (fun w => w.index == index)) := rfl

/-- A dropped version is gone from its tenant's record, in which nothing else changes. -/
theorem dropVersion_becomes (s : State) (n index : Nat) :
    TenantBecomes n (withoutVersion (getTenant s n) index) s (dropVersion s n index) := by
  have hlines := getTenant_of_tenants (giveUpLines_tenants s n index)
  rw [dropVersion_eq, hlines]
  have hput := putTenant_becomes (giveUpLines s n index) n (withoutVersion (getTenant s n) index)
  exact TenantBecomes.then_tenants ⟨hput.same, fun k hk => (hput.others k hk).trans (hlines k)⟩ (releaseStore_tenants _ _ _)

/-- The release of an old version touches no field of the tenant but its versions. -/
theorem releaseOld_becomes (s : State) (n : Nat) :
    ∃ l, TenantBecomes n { getTenant s n with versions := l } s (releaseOld s n) := by
  unfold releaseOld
  dsimp only
  split
  · exact ⟨_, dropVersion_becomes s n _⟩
  · exact ⟨_, rfl, fun _ _ => rfl⟩

theorem releaseOld_mailbox (s : State) (n : Nat) : (releaseOld s n).mailbox = s.mailbox :=
  (releaseOld_held (held_self [.serving, .images, .vellum] s) (by rfl)).only .mailbox (by decide)

theorem dropVersion_mailbox (s : State) (n index : Nat) : (dropVersion s n index).mailbox = s.mailbox :=
  (dropVersion_held (held_self [.serving, .images, .vellum] s) (by rfl)).only .mailbox (by decide)

/-! ## ADAPTER_LOAD and its end (R170, R338) -/

theorem adapterSite_advance (s : State) (time n units : Nat) : adapterSite (advance s time) n units = adapterSite s n units := rfl

/-- The number of a tenant's next version: that of an absent version of the model, or one that no present version has. -/
def nextIndex (t : Tenant) (modelId : Nat) : Nat :=
  match t.versions.find? (fun w => !w.present && w.modelId == modelId) with
  | some w => w.index
  | none => if (t.versions.filter (·.present)).any (fun w => w.index == 0) then 1 else 0

/-- The version that ADAPTER_LOAD gives a tenant, at a site and in some runs of its store. -/
def loadingVersion (t : Tenant) (image : AdapterImage) (d : Nat) (runs : List (Nat × Nat)) : AdapterVer :=
  { index := nextIndex t image.modelId, modelId := image.modelId, bytes := (image.tensors.map convertedBytes).sum,
    site := d, loading := true, extents := runs,
    layers := (adapterLayers image).map (fun x => (x.1, x.2.length / 64)),
    epochs := match t.versions.find? (fun w => !w.present && w.modelId == image.modelId) with
      | some w => w.epochs
      | none => [] }

/-- The tenant with that version, which takes the place of one of its number. -/
def withLoading (t : Tenant) (w : AdapterVer) : Tenant :=
  { t with versions := t.versions.filter (fun x => x.index != w.index) ++ [w] }

/-- The health records of the image's conversions (R114, R115). -/
def testConversions (s : State) (image : AdapterImage) : State :=
  (image.tensors.map (·.tensor)).eraseDups.foldl (fun s x =>
    let c := sumCounts ((image.tensors.filter (fun y => y.tensor == x)).map (fun y => (convertTensor y).2.2))
    if c = {} then s else testTensor s (2 ^ 64 - 1) x c) s

/-- A load that has its place in a store: the version, its bytes in its runs, and the health records of its conversions. -/
def adapterStored (s : State) (n : Nat) (image : AdapterImage) (d : Nat) (runs : List (Nat × Nat)) : State :=
  testConversions (writeRuns (putTenant s n (withLoading (getTenant s n) (loadingVersion (getTenant s n) image d runs))) d runs
    ((adapterLayers image).flatMap (·.2))) image

theorem exec_adapterLoad {h : Hdr} {n d : Nat} {runs : List (Nat × Nat)} {image : AdapterImage} {s : State}
    (ha : Accepted s h opAdapterLoad) (hn : n ≤ 0xFFFF) (hi : adapterOk image = true)
    (hr : (getTenant s n).registered = true) (hv : ((getTenant s n).versions.filter (·.present)).length < 2)
    (hd : adapterSite s n ((adapterLayers image).map (fun x => x.2.length / 64)).sum = some (d, runs)) :
    exec (.adapterLoad h n image) s =
      .next (startLater (adapterStored (advance s h.time) n image d runs) h opAdapterLoad n) := by
  show execAdapterLoad h n image s = _
  unfold execAdapterLoad
  dsimp only
  rw [runCommand_accepted ha (by simp [hn, hi]), getTenant_advance, if_neg (ne_false_of_eq_true hr),
    if_neg (Nat.not_le.mpr hv), adapterSite_advance, hd]
  rfl

theorem postEvent_serving (s : State) (func code detail : Nat) : (postEvent s func code detail).serving = s.serving :=
  (postEvent_held (held_self [.link, .mailbox] s) (by rfl)).only .serving (by decide)

theorem testTensor_tenants (s : State) (step tensor : Nat) (c : Counts) :
    (testTensor s step tensor c).serving.tenants = s.serving.tenants := by
  unfold testTensor
  extract_lets health mask exceeded opened record tested
  split
  · rw [postEvent_serving]
  · rfl

theorem testConversions_tenants (s : State) (image : AdapterImage) :
    (testConversions s image).serving.tenants = s.serving.tenants := by
  refine foldl_tenants (fun s x => ?_) _ s
  dsimp only
  split
  · rfl
  · exact testTensor_tenants _ _ _ _

theorem writeRuns_serving (s : State) (d : Nat) (runs : List (Nat × Nat)) (b : List Byte) :
    (writeRuns s d runs b).serving = s.serving :=
  (writeRuns_held (held_self [.vellum] s) (by rfl)).only .serving (by decide)

theorem adapterStored_becomes (s : State) (n : Nat) (image : AdapterImage) (d : Nat) (runs : List (Nat × Nat)) :
    TenantBecomes n (withLoading (getTenant s n) (loadingVersion (getTenant s n) image d runs)) s
      (adapterStored s n image d runs) :=
  ((putTenant_becomes s n _).then_serving (writeRuns_serving _ _ _ _)).then_tenants (testConversions_tenants _ _)

theorem adapterLoad_starts (h : Hdr) (n d : Nat) (runs : List (Nat × Nat)) (image : AdapterImage) (s : State)
    (ha : Accepted s h opAdapterLoad) (hn : n ≤ 0xFFFF) (hi : adapterOk image = true)
    (hr : (getTenant s n).registered = true) (hv : ((getTenant s n).versions.filter (·.present)).length < 2)
    (hd : adapterSite s n ((adapterLayers image).map (fun x => x.2.length / 64)).sum = some (d, runs)) :
    ∃ (t : State) (w : AdapterVer), exec (.adapterLoad h n image) s = .next t ∧
      (getTenant t n).versions = (getTenant s n).versions.filter (fun x => x.index != w.index) ++ [w] ∧
      w.loading = true ∧ w.modelId = image.modelId ∧ w.site = d ∧ w.extents = runs ∧
      (∀ k, k ≠ n → getTenant t k = getTenant s k) ∧ Started t h opAdapterLoad n := by
  have hset := (adapterStored_becomes (advance s h.time) n image d runs).then_serving
    (startLater_only _ h opAdapterLoad n .serving (by decide))
  exact ⟨_, loadingVersion (getTenant s n) image d runs, exec_adapterLoad ha hn hi hr hv hd,
    congrArg Tenant.versions hset.same, rfl, rfl, rfl, rfl, hset.others, startLater_started _ h opAdapterLoad n⟩

/-- The tenant whose version of a number is loaded. -/
def withLoaded (t : Tenant) (index : Nat) : Tenant :=
  { t with versions := t.versions.map (fun x => if x.index = index then { x with loading := false } else x) }

theorem exec_adapterLoadDone (time : Nat) {n : Nat} {w : AdapterVer} {s : State}
    (hw : (getTenant s n).versions.find? (·.loading) = some w) :
    exec (.adapterLoadDone time n) s = .next (completeStarted
      (putTenant (advance s time) n (withLoaded (getTenant s n) w.index)) 0x0506 n stSuccess w.index) := by
  show execAdapterLoadDone time n s = _
  unfold execAdapterLoadDone
  dsimp only
  rw [getTenant_advance, hw]
  rfl

theorem adapterLoadDone_ends (time n : Nat) (w : AdapterVer) (s : State)
    (hw : (getTenant s n).versions.find? (·.loading) = some w) :
    ∃ t, exec (.adapterLoadDone time n) s = .next t ∧
      (getTenant t n).versions =
        (getTenant s n).versions.map (fun x => if x.index = w.index then { x with loading := false } else x) ∧
      (∀ k, k ≠ n → getTenant t k = getTenant s k) ∧ Ended s t 0x0506 n stSuccess w.index := by
  obtain ⟨t, he, honly, hended⟩ := ends (exec_adapterLoadDone time hw) rfl (by decide)
  have hset := (putTenant_becomes (advance s time) n _).then_serving (honly .serving (by decide))
  exact ⟨t, he, congrArg Tenant.versions hset.same, hset.others, hended⟩

/-! ## ADAPTER_SWAP, ADAPTER_PIN and ADAPTER_UNLOAD (R171, R217) -/

/-- The tenant with a version made current at its next adapter epoch; the version records the epoch. -/
def withCurrent (t : Tenant) (version : Nat) (drain : Option Nat) : Tenant :=
  let e := (t.adapterEpoch + 1) % 65536
  { t with
    current := some version, adapterEpoch := e, adapterDrain := drain,
    versions := t.versions.map (fun w => if w.index = version then { w with epochs := w.epochs ++ [e] } else w) }

/-- The host time until which the tenant's partition holds its sessions on older adapter epochs. -/
def swapDrain (s : State) (t : Tenant) : Option Nat :=
  let p := getPartition s t.partition
  if p.drain then some (s.now + p.drainTimeout * 1000000000) else none

/-- The swap before the old version is let go. -/
def swapped (s : State) (n version : Nat) : State :=
  putTenant s n (withCurrent (getTenant s n) version (swapDrain s (getTenant s n)))

theorem swapped_becomes (s : State) (n version : Nat) :
    TenantBecomes n (withCurrent (getTenant s n) version (swapDrain s (getTenant s n))) s (swapped s n version) :=
  putTenant_becomes s n _

theorem adapterSwap_swaps (h : Hdr) (n version : Nat) (s : State) (ha : Accepted s h opAdapterSwap) (ht : OnTime s h)
    (hn : n ≤ 0xFFFF) (hr : (getTenant s n).registered = true)
    (hv : (getTenant s n).versions.any (fun w => w.index == version && !w.loading) = true) :
    ∃ t, exec (.adapterSwap h n version) s = .next t ∧ (getTenant t n).current = some version ∧
      (getTenant t n).adapterEpoch = ((getTenant s n).adapterEpoch + 1) % 65536 ∧
      (∀ k, k ≠ n → getTenant t k = getTenant s k) ∧
      Answered s t h stSuccess (((getTenant s n).adapterEpoch + 1) % 65536) [] := by
  obtain ⟨t, he, honly, hanswered⟩ := answers (c := .adapterSwap h n version)
    (v := releaseOld (swapped (advance s h.time) n version) n) (st := stSuccess)
    (r := ((getTenant s n).adapterEpoch + 1) % 65536) (d := []) rfl ha ht (by simp [hn])
    ((if_neg (ne_false_of_eq_true hr)).trans (if_neg (ne_false_of_eq_true hv))) (releaseOld_mailbox _ n)
  obtain ⟨l, hold⟩ := releaseOld_becomes (swapped (advance s h.time) n version) n
  have hset := ((swapped_becomes (advance s h.time) n version).trans hold).then_serving (honly .serving (by decide))
  rw [(swapped_becomes _ n version).same] at hset
  exact ⟨t, he, congrArg Tenant.current hset.same, congrArg Tenant.adapterEpoch hset.same, hset.others, hanswered⟩

theorem adapterPin_pins (h : Hdr) (n : Nat) (pin : Bool) (s : State) (ha : Accepted s h opAdapterPin) (ht : OnTime s h)
    (hn : n ≤ 0xFFFF) (hr : (getTenant s n).registered = true)
    (hp : pin = true → (s.serving.tenants.filter (fun kv => kv.2.pinned && kv.1 != n)).length < 32) :
    ∃ t, exec (.adapterPin h n pin) s = .next t ∧ getTenant t n = { getTenant s n with pinned := pin } ∧
      (∀ k, k ≠ n → getTenant t k = getTenant s k) ∧ Answered s t h stSuccess 0 [] := by
  have hroom : ¬ (pin && decide (32 ≤ (s.serving.tenants.filter (fun kv => kv.2.pinned && kv.1 != n)).length)) = true := by
    rw [Bool.and_eq_true, decide_eq_true_eq]
    exact fun hfull => Nat.not_le.mpr (hp hfull.1) hfull.2
  obtain ⟨t, he, honly, hanswered⟩ := answers (c := .adapterPin h n pin)
    (v := putTenant (advance s h.time) n { getTenant s n with pinned := pin }) (st := stSuccess) (r := 0) (d := []) rfl ha ht
    (by simp [hn]) ((if_neg (ne_false_of_eq_true hr)).trans (if_neg hroom)) rfl
  have hset := (putTenant_becomes (advance s h.time) n _).then_serving (honly .serving (by decide))
  exact ⟨t, he, hset.same, hset.others, hanswered⟩

theorem adapterUnload_frees (h : Hdr) (n version : Nat) (w : AdapterVer) (s : State) (ha : Accepted s h opAdapterUnload)
    (ht : OnTime s h) (hn : n ≤ 0xFFFF) (hw : (getTenant s n).versions.find? (fun w => w.index == version) = some w)
    (hc : (getTenant s n).current ≠ some version) (hb : versionBound s n w = false) (hl : w.loading = false) :
    ∃ t, exec (.adapterUnload h n version) s = .next t ∧
      (getTenant t n).versions = (getTenant s n).versions.filter (fun w => w.index != version) ∧
      (∀ k, k ≠ n → getTenant t k = getTenant s k) ∧ Answered s t h stSuccess 0 [] := by
  have hfree : ¬ ((getTenant s n).current = some version ∨ versionBound s n w = true ∨ w.loading = true) := by
    rintro (hcur | hbound | hload)
    · exact hc hcur
    · exact Bool.false_ne_true (hb.symm.trans hbound)
    · exact Bool.false_ne_true (hl.symm.trans hload)
  obtain ⟨t, he, honly, hanswered⟩ := answers (c := .adapterUnload h n version)
    (v := dropVersion (advance s h.time) n version) (st := stSuccess) (r := 0) (d := []) rfl ha ht (by simp [hn])
    (by dsimp only; rw [getTenant_advance, hw]; exact if_neg hfree) (dropVersion_mailbox _ n version)
  have hset := (dropVersion_becomes (advance s h.time) n version).then_serving (honly .serving (by decide))
  exact ⟨t, he, congrArg Tenant.versions hset.same, hset.others, hanswered⟩

/-- Settles O21: each clause is one adapter command, by what it writes of its tenant's record. -/
theorem adaptersLoadSwapAndUnload : Obligations.AdaptersLoadSwapAndUnload := by
  unfold Obligations.AdaptersLoadSwapAndUnload
  exact ⟨adapterLoad_starts, adapterLoadDone_ends, adapterSwap_swaps, adapterPin_pins, adapterUnload_frees⟩

end Sys2Proof.Proofs

namespace Sys2Proof.Proofs

open Sys2Proof Sys2Proof.Machine Sys2Proof.Laws

/-! ## What an operation keeps of the image slots (R197 to R199)

A view is some of a slot's fields. Most operations on a slot write a few fields of its record, and keep every view that does
not read those; what the images hold beside the slots (the epoch, the lines, what is exported, a switch or a swap) stays. -/

/-- The images without their slots. -/
def besideSlots (i : Images) : Images := { i with a := {}, b := {} }

/-- From `s` to `t` a view of both slots stays, and what the images hold beside the slots. -/
structure SlotsKeep {α : Type} (f : Slot → α) (s t : State) : Prop where
  beside : besideSlots t.images = besideSlots s.images
  view : ∀ n, f (getSlot t n) = f (getSlot s n)

/-- So they do, and of the two slots at most `n` changes. -/
structure SlotKeeps {α : Type} (n : Nat) (f : Slot → α) (s t : State) : Prop extends SlotsKeep f s t where
  others : ∀ k, (k = 0) ≠ (n = 0) → getSlot t k = getSlot s k

/-- The slot beside a slot is another one. -/
theorem other_ne (n : Nat) : (1 - n = 0) ≠ (n = 0) := by
  rw [Ne, eq_iff_iff]
  omega

theorem ne_other (n : Nat) : (n = 0) ≠ (1 - n = 0) := (other_ne n).symm

@[simp] theorem getSlot_advance (s : State) (time n : Nat) : getSlot (advance s time) n = getSlot s n := rfl

theorem getSlot_of_images {s t : State} (h : t.images = s.images) (n : Nat) : getSlot t n = getSlot s n := by
  unfold getSlot
  rw [h]

theorem getSlot_congr (s : State) {k n : Nat} (h : (k = 0) = (n = 0)) : getSlot s k = getSlot s n := by
  unfold getSlot
  simp only [h]

theorem putSlot_beside (s : State) (n : Nat) (v : Slot) : besideSlots (putSlot s n v).images = besideSlots s.images := by
  unfold putSlot
  split <;> rfl

section
variable {α : Type} {f : Slot → α} {n : Nat} {s t r : State}

theorem SlotsKeep.refl (s : State) : SlotsKeep f s s := ⟨rfl, fun _ => rfl⟩

theorem SlotsKeep.trans (h1 : SlotsKeep f s t) (h2 : SlotsKeep f t r) : SlotsKeep f s r :=
  ⟨h2.beside.trans h1.beside, fun k => (h2.view k).trans (h1.view k)⟩

theorem SlotsKeep.of_images (h : t.images = s.images) : SlotsKeep f s t :=
  ⟨congrArg besideSlots h, fun k => congrArg f (getSlot_of_images h k)⟩

theorem SlotsKeep.foldl {β : Type} {g : State → β → State} (hg : ∀ s x, SlotsKeep f s (g s x)) (l : List β) (s : State) :
    SlotsKeep f s (l.foldl g s) := by
  induction l generalizing s with
  | nil => exact .refl s
  | cons x l ih => exact (hg s x).trans (ih (g s x))

/-- A field of the images beside the slots, and so on, as it was. -/
theorem SlotsKeep.field {β : Type} (h : SlotsKeep f s t) (g : Images → β) (hg : ∀ i, g (besideSlots i) = g i := by intro; rfl) :
    g t.images = g s.images := by
  rw [← hg t.images, h.beside, hg]

theorem SlotKeeps.refl (s : State) : SlotKeeps n f s s := ⟨.refl s, fun _ _ => rfl⟩

theorem SlotKeeps.trans (h1 : SlotKeeps n f s t) (h2 : SlotKeeps n f t r) : SlotKeeps n f s r :=
  ⟨h1.toSlotsKeep.trans h2.toSlotsKeep, fun k hk => (h2.others k hk).trans (h1.others k hk)⟩

theorem SlotKeeps.ite {a b : State} {c : Prop} [Decidable c] (ha : SlotKeeps n f s a) (hb : SlotKeeps n f s b) :
    SlotKeeps n f s (if c then a else b) := by
  split
  · exact ha
  · exact hb

theorem SlotKeeps.of_images (h : t.images = s.images) : SlotKeeps n f s t :=
  ⟨.of_images h, fun k _ => getSlot_of_images h k⟩

theorem SlotKeeps.then_images (h : SlotKeeps n f s t) (hr : r.images = t.images) : SlotKeeps n f s r := h.trans (.of_images hr)

theorem SlotKeeps.after_images (h : SlotKeeps n f t r) (hs : t.images = s.images) : SlotKeeps n f s r :=
  (SlotKeeps.of_images hs).trans h

theorem SlotKeeps.foldl {β : Type} {g : State → β → State} (hg : ∀ s x, SlotKeeps n f s (g s x)) (l : List β) (s : State) :
    SlotKeeps n f s (l.foldl g s) := by
  induction l generalizing s with
  | nil => exact .refl s
  | cons x l ih => exact (hg s x).trans (ih (g s x))

/-- A write of a slot's record keeps a view that it does not change. -/
theorem putSlot_keeps {v : Slot} (h : f v = f (getSlot s n)) : SlotKeeps n f s (putSlot s n v) := by
  refine ⟨⟨putSlot_beside s n v, fun k => ?_⟩, fun k hk => getSlot_putSlot_ne s v hk⟩
  by_cases hk : (k = 0) = (n = 0)
  · rw [getSlot_congr _ hk, getSlot_congr _ hk, getSlot_putSlot, h]
  · rw [getSlot_putSlot_ne s v hk]

end

/-- Any write of a slot's record leaves the other slot and what is beside the slots. -/
theorem putSlot_noView (s : State) (n : Nat) (v : Slot) : SlotKeeps n (fun _ => ()) s (putSlot s n v) := putSlot_keeps rfl

/-! ### Cold-copy areas (R154, R443) and layers -/

/-- A view that the cold-copy areas are not in. -/
structure OffAreas {α : Type} (f : Slot → α) : Prop where
  areas : ∀ v l, f { v with areas := l } = f v

/-- A view that the layers' residency and cold-copy areas are not in. -/
structure OffLayers {α : Type} (f : Slot → α) : Prop extends OffAreas f where
  layers : ∀ v l, f { v with layers := l } = f v

section
variable {α : Type} {f : Slot → α}

theorem finishAreas_keeps (hf : OffAreas f) (s : State) (n : Nat) : SlotKeeps n f s (finishAreas s n) := by
  unfold finishAreas
  dsimp only
  split
  · exact .refl s
  · refine (putSlot_keeps (hf.areas _ _)).trans (SlotKeeps.foldl (fun s a => ?_) _ _)
    exact .of_images ((writeArea_held (held_self [.vellum] s) (by rfl)).only .images (by decide))

theorem moveAreas_keeps (hf : OffAreas f) (s : State) (n d : Nat) : SlotKeeps n f s (moveAreas s n d) := by
  refine SlotKeeps.foldl (fun s a => ?_) _ s
  dsimp only
  split
  · exact putSlot_keeps (hf.areas _ _)
  · exact putSlot_keeps (hf.areas _ _)

theorem startAreas_keeps (hf : OffAreas f) (s : State) (n : Nat) : SlotKeeps n f s (startAreas s n) := by
  unfold startAreas
  dsimp only
  split
  · exact .refl s
  · refine ((putSlot_keeps (hf.areas _ _)).trans (SlotKeeps.foldl (fun s d => ?_) _ _)).trans (finishAreas_keeps hf _ n)
    exact .ite (.refl s) (moveAreas_keeps hf s n d)

theorem swapLayer_keeps (hf : OffLayers f) (s : State) (n : Nat) (b : FolioBody) (l : Nat) :
    SlotKeeps n f s (swapLayer s n b l) := by
  unfold swapLayer
  split
  · exact .refl s
  · extract_lets s1 v
    have h1 : SlotKeeps n f s s1 := putSlot_keeps (hf.layers _ _)
    split
    · exact h1
    · extract_lets s2
      have h2 : SlotKeeps n f s1 s2 := putSlot_keeps (hf.areas _ _)
      refine (h1.trans h2).trans (.trans ?_ (finishAreas_keeps hf.toOffAreas _ n))
      exact .ite (.refl s2) (moveAreas_keeps hf.toOffAreas s2 n _)

end

/-! ### Residency (R199, R210, R212) -/

/-- A view that what is filled of a slot, or is still owed to it, is not in. -/
structure OffResidency {α : Type} (f : Slot → α) : Prop where
  resident : ∀ v p a b c l, f { v with permille := p, filled := a, streaming := b, reloadDue := c, owed := l } = f v
  streamDue : ∀ v d, f { v with streamDue := d } = f v

theorem OffResidency.owed {α : Type} {f : Slot → α} (hf : OffResidency f) (v : Slot) (l : List Variant) :
    f { v with owed := l } = f v := hf.resident v v.permille v.filled v.streaming v.reloadDue l

/-- The empty view: an operation on one slot keeps it, so the other slot stays. -/
theorem offResidency_noView : OffResidency (fun _ => ()) := ⟨fun _ _ _ _ _ _ => rfl, fun _ _ => rfl⟩

theorem setRoutes_images (s : State) (n : Nat) (b : FolioBody) : (setRoutes s n b).images = s.images := rfl

theorem fillClusters_images (s : State) (n : Nat) (b : FolioBody) (l : List ClusterPlan) :
    (l.foldl (fun s p => fillCluster s n (idleHalf (getIsland s p.unit) n) b p) s).images = s.images :=
  (foldl_held (fun _ _ h => fillCluster_held h (by rfl)) (held_self [.serving, .fabric] s)).only .images (by decide)

theorem moveTables_images (s : State) (n : Nat) (b : FolioBody) (l : List Variant) :
    (l.foldl (fun s w => moveTables s n b w) s).images = s.images :=
  (foldl_held (fun _ _ h => moveTables_held h (by rfl)) (held_self [.serving, .fabric] s)).only .images (by decide)

theorem refillSeats_images (s : State) (n : Nat) (at_ : Nat → Bool) : (refillSeats s n at_).images = s.images :=
  (refillSeats_held (held_self [.fabric] s) (by rfl)).only .images (by decide)

theorem startClusters_images (s : State) (n : Nat) (b : FolioBody) : (startClusters s n b).images = s.images :=
  (startClusters_held (held_self [.fabric] s) (by rfl)).only .images (by decide)

section
variable {α : Type} {f : Slot → α}

theorem nowResident_keeps (hf : OffResidency f) (s : State) (n : Nat) : SlotKeeps n f s (nowResident s n) :=
  putSlot_keeps (hf.resident _ _ _ _ _ _)

theorem standInAll_keeps (hf : ∀ v l, f { v with owed := l } = f v) (s : State) (n : Nat)
    (b : FolioBody) : SlotKeeps n f s (standInAll s n b) := by
  unfold standInAll
  exact .ite (putSlot_keeps (hf _ _)) (.of_images (moveTables_images _ _ _ _))

theorem fillPlacement_keeps (hf : OffResidency f) (s : State) (n : Nat) : SlotKeeps n f s (fillPlacement s n) := by
  unfold fillPlacement
  split
  · exact .refl s
  · exact ((SlotKeeps.of_images (fillClusters_images s n _ _)).trans (nowResident_keeps hf _ n)).trans (standInAll_keeps hf.owed _ n _)

theorem fillFootprint_keeps (hf : OffResidency f) (s : State) (n : Nat) : SlotKeeps n f s (fillFootprint s n) := by
  unfold fillFootprint
  split
  · exact .refl s
  · refine SlotKeeps.trans ?_ (nowResident_keeps hf _ n)
    exact .of_images (fillClusters_images (setRoutes s n _) n _ _)

theorem coFill_keeps (hf : OffResidency f) (s : State) (n : Nat) : SlotKeeps n f s (coFill s n) := by
  unfold coFill
  exact .ite (fillFootprint_keeps hf s n) (.refl s)

theorem streamSlot_keeps (hf : OffResidency f) (s : State) (n : Nat) : SlotKeeps n f s (streamSlot s n) := by
  unfold streamSlot
  dsimp only
  split
  · exact .refl s
  split
  · exact putSlot_keeps (hf.streamDue _ _)
  · refine (putSlot_keeps (hf.streamDue _ false)).trans ((SlotKeeps.of_images (setRoutes_images _ _ _)).trans
      (SlotKeeps.foldl (fun s p => ?_) _ _))
    refine .ite (.of_images ?_) (.refl s)
    exact (placeSet_held (putIsland_held (held_self [.fabric] s) (by rfl)) (by rfl)).only .images (by decide)

theorem reloadSlot_keeps (hf : OffResidency f) (s : State) (n : Nat) : SlotKeeps n f s (reloadSlot s n) := by
  unfold reloadSlot
  dsimp only
  split
  · exact .refl s
  split
  · exact .refl s
  split
  · exact putSlot_keeps (hf.resident _ _ _ _ _ _)
  split
  · exact fillFootprint_keeps hf s n
  split
  · refine SlotKeeps.trans ?_ (streamSlot_keeps hf _ n)
    exact (putSlot_keeps (hf.resident _ _ _ _ _ _)).trans (.of_images (startClusters_images _ _ _))
  split
  · refine SlotKeeps.then_images ?_ (refillSeats_images _ _ _)
    exact (fillPlacement_keeps hf (setRoutes s n _) n).after_images rfl
  · exact .refl s

theorem payOwed_keeps (hf : OffResidency f) (s : State) (n : Nat) : SlotKeeps n f s (payOwed s n) := by
  unfold payOwed
  extract_lets s1 v
  have h1 : SlotKeeps n f s s1 := .ite (streamSlot_keeps hf s n) (.refl s)
  refine h1.trans ?_
  split
  · exact reloadSlot_keeps hf s1 n
  split
  · split
    · exact .refl s1
    · exact (putSlot_keeps (hf.owed _ _)).trans (.of_images (moveTables_images _ _ _ _))
  · exact .refl s1

end

/-! ### The preparation of a failed cartridge's dies (R378, R447) -/

/-- A view that what leaves a die with its work is not in: chunks, cold copies, and the variants that stand in. -/
structure OffDies {α : Type} (f : Slot → α) : Prop extends OffAreas f where
  variants : ∀ v l o, f { v with inForce := l, owed := o } = f v
  missing : ∀ v l at_, f { v with missing := l, missingAt := at_ } = f v
  relocated : ∀ v l, f { v with relocated := l } = f v
  copies : ∀ v l, f { v with copies := l } = f v

section
variable {α : Type} {f : Slot → α}

theorem enforce_keeps (hf : OffDies f) (s : State) (n : Nat) (b : FolioBody) (l : List Variant) :
    SlotsKeep f s (enforce s n b l) := by
  unfold enforce
  dsimp only
  split
  · exact (putSlot_keeps (hf.variants _ _ _)).toSlotsKeep
  · exact (putSlot_keeps (hf.variants _ l _)).toSlotsKeep.trans (.of_images (moveTables_images _ _ _ _))

theorem bindPair_keeps (hf : OffDies f) (s : State) (c n : Nat) : SlotsKeep f s (bindPair s c n) := by
  unfold bindPair
  dsimp only
  split
  · exact enforce_keeps hf s n _ _
  · exact .refl s

theorem loseChunk_keeps (hf : OffDies f) (s : State) (n c : Nat) : SlotsKeep f s (loseChunk s n c) := by
  unfold loseChunk
  extract_lets v s1
  split
  · exact .refl s
  · have h1 : SlotKeeps n f s s1 := putSlot_keeps (hf.missing _ _ _)
    refine (h1.then_images ?_).toSlotsKeep
    exact (postEvent_held (held_self [.link, .mailbox] _) (by rfl)).only .images (by decide)

theorem wroteChunk_images (s : State) (n c : Nat) : (wroteChunk s n c).images = s.images :=
  (wroteChunk_held (held_self [.vellum] s) (by rfl)).only .images (by decide)

theorem moveChunks_keeps (hf : OffDies f) (s : State) (n d : Nat) : SlotsKeep f s (moveChunks s n d) := by
  unfold moveChunks
  dsimp only
  split
  · exact .refl s
  · refine SlotsKeep.foldl (fun s c => ?_) _ s
    split
    next e _ =>
      have hput : ∀ w, SlotKeeps n f w (putSlot w n { getSlot w n with relocated := tins (getSlot w n).relocated c e }) :=
        fun w => putSlot_keeps (hf.relocated _ _)
      refine SlotsKeep.trans ?_ (.of_images (wroteChunk_images _ _ _))
      exact ((hput (countReads s _ chunkUnits)).after_images (by rfl)).toSlotsKeep
    next => exact loseChunk_keeps hf s n c

theorem loseCopies_keeps (hf : OffDies f) (s : State) (d : Nat) : SlotsKeep f s (loseCopies s d) := by
  refine ⟨rfl, fun k => ?_⟩
  unfold getSlot
  split
  · exact hf.copies _ _
  · exact hf.copies _ _

/-- What leaves a site beside chunks and cold copies: pages of sessions and prefixes, and adapter versions. -/
theorem emptySite_keeps (hf : OffDies f) (s : State) (d : Nat) : SlotsKeep f s (emptySite s d) := by
  have hpages : ∀ (l : List Nat) (w : State), (l.foldl (fun s id =>
      ((getSession s id).pages.filter (fun q => pageSite q.2 == d)).foldl (fun s q => clearSessionPage s id q) s) w).images =
      w.images := fun l w =>
    (foldl_held (fun _ _ h => foldl_held (fun _ _ h => clearSessionPage_held h (by rfl)) h)
      (held_self [.serving, .vellum] w)).only .images (by decide)
  have hpfx : ∀ (l : List Nat) (w : State), (l.foldl (fun s x =>
      ((getPfx s x).pages.filter (fun p => pageSite p == d)).foldl (fun s p => clearPfxPage s x p) s) w).images = w.images :=
    fun l w => (foldl_held (fun _ _ h => foldl_held (fun _ _ h => clearPfxPage_held h (by rfl)) h)
      (held_self [.serving, .vellum] w)).only .images (by decide)
  have hversions : ∀ (l : List Nat) (w : State), (l.foldl (fun s t => moveVersions s d t) w).images = w.images := fun l w =>
    (foldl_held (fun _ _ h => moveVersions_held h (by rfl)) (held_self [.link, .mailbox, .serving, .vellum] w)).only
      .images (by decide)
  unfold emptySite
  extract_lets s1 ids s2 pf s3 s4 s5
  have h4 : SlotsKeep f s s4 := .of_images ((hversions _ _).trans ((hpfx _ _).trans ((hpages _ _).trans rfl)))
  have h5 : SlotsKeep f s4 s5 :=
    ((moveChunks_keeps hf s4 0 d).trans (moveChunks_keeps hf _ 1 d)).trans (loseCopies_keeps hf _ d)
  refine (h4.trans h5).trans ?_
  have hmove : SlotsKeep f s5 (moveAreas (moveAreas s5 0 d) 1 d) :=
    (moveAreas_keeps hf.toOffAreas s5 0 d).toSlotsKeep.trans (moveAreas_keeps hf.toOffAreas _ 1 d).toSlotsKeep
  exact (hmove.trans (finishAreas_keeps hf.toOffAreas _ 0).toSlotsKeep).trans (finishAreas_keeps hf.toOffAreas _ 1).toSlotsKeep

theorem startPrepare_keeps (hf : OffDies f) (s : State) (c : Nat) : SlotsKeep f s (startPrepare s c) := by
  unfold startPrepare
  extract_lets s1 board s2
  have h1 : SlotsKeep f s s1 := by
    refine ((bindPair_keeps hf s c 0).trans (bindPair_keeps hf _ c 1)).trans (.of_images ?_)
    exact (forfeitAll_held (held_self [.serving] _) (by rfl)).only .images (by decide)
  exact (h1.trans (.of_images (t := s2) rfl)).trans (SlotsKeep.foldl (emptySite_keeps hf) _ s2)

theorem prepareAllFailed_keeps (hf : OffDies f) (s : State) : SlotsKeep f s (prepareAllFailed s) := by
  refine SlotsKeep.foldl (fun s c => ?_) _ s
  unfold prepareFailed
  dsimp only
  split
  · exact startPrepare_keeps hf s c
  · exact .refl s

end

end Sys2Proof.Proofs

namespace Sys2Proof.Proofs

open Sys2Proof Sys2Proof.Machine Sys2Proof.Laws

/-! ## What the filling of a placement keeps (R149, R207, R210)

Clusters are cleared and written, headroom stands in, and prefixes are to be prefilled anew: no step is numbered by it, and no
island's gate begins or ends. -/

/-- From `s` to `t` the next step's number stays, and the gate of every island. -/
structure FillKept (s t : State) : Prop where
  nextStep : t.serving.nextStep = s.serving.nextStep
  gates : IslandsKeep Island.gate s t

namespace FillKept

theorem refl (s : State) : FillKept s s := ⟨rfl, IslandsKeep.refl s⟩

theorem trans {s t r : State} (h1 : FillKept s t) (h2 : FillKept t r) : FillKept s r :=
  ⟨h2.nextStep.trans h1.nextStep, h1.gates.trans h2.gates⟩

theorem of_fields {s t : State} (hs : t.serving.nextStep = s.serving.nextStep) (hi : t.fabric.islands = s.fabric.islands) :
    FillKept s t := ⟨hs, islandsKeep_of_islands hi⟩

theorem foldl {β : Type} {g : State → β → State} (hg : ∀ s x, FillKept s (g s x)) (l : List β) (s : State) :
    FillKept s (l.foldl g s) := by
  induction l generalizing s with
  | nil => exact refl s
  | cons x l ih => exact (hg s x).trans (ih (g s x))

theorem ite {s a b : State} {c : Prop} [Decidable c] (ha : FillKept s a) (hb : FillKept s b) : FillKept s (if c then a else b) := by
  split
  · exact ha
  · exact hb

theorem putIsland {s : State} {u : Nat} {v : Island} (h : v.gate = (getIsland s u).gate) : FillKept s (putIsland s u v) :=
  ⟨rfl, putIsland_keeps h⟩

theorem putTile (s : State) (u : Nat) (v : Tile) : FillKept s (putTile s u v) := of_fields rfl rfl

theorem putSlot (s : State) (n : Nat) (v : Slot) : FillKept s (putSlot s n v) := of_fields rfl rfl

end FillKept

theorem putHalf_gate (i : Island) (h : Nat) (v : Option (Nat × Bool)) : (putHalf i h v).gate = i.gate := by
  unfold putHalf
  split <;> rfl

theorem writeSet_fillKept (s : State) (n u v h : Nat) (b : FolioBody) (streaming : Bool) :
    FillKept s (writeSet s n u v h b streaming) :=
  (FillKept.foldl (fun s _ => (FillKept.putTile s _ _).trans (FillKept.putTile _ _ _)) _ s).trans
    (FillKept.putIsland (putHalf_gate _ _ _))

theorem placeSet_fillKept (s : State) (n u v h : Nat) (b : FolioBody) (streaming : Bool) :
    FillKept s (placeSet s n u v h b streaming) := by
  unfold placeSet
  exact .ite (.refl s) (writeSet_fillKept s n u v h b streaming)

theorem clearCluster_fillKept (s : State) (u : Nat) : FillKept s (clearCluster s u) :=
  (FillKept.of_fields (t := clearIdle
    { s with serving := { s.serving with clears := s.serving.clears.filter (fun k => !decide (k = .scratch u)) } } [u])
    (by rfl) (by rfl)).trans (.putIsland (by rfl))

theorem setRegions_fillKept (s : State) (p : ClusterPlan) : FillKept s (setRegions s p) := .of_fields (by rfl) (by rfl)

theorem setRoutes_fillKept (s : State) (n : Nat) (b : FolioBody) : FillKept s (setRoutes s n b) := .of_fields (by rfl) (by rfl)

theorem refillSeats_fillKept (s : State) (n : Nat) (at_ : Nat → Bool) : FillKept s (refillSeats s n at_) := by
  refine FillKept.foldl (fun s r => ?_) _ s
  split
  · exact .refl s
  · refine FillKept.foldl (fun s x => FillKept.foldl (fun s y => ?_) _ s) _ s
    exact .of_fields (by rfl) (by rfl)

theorem coverWith_fillKept (s : State) (n : Nat) (b : FolioBody) (c : ClusterPlan) (v : Nat) :
    FillKept s (coverWith s n b c v) := by
  unfold coverWith
  extract_lets u form s1 old typed fabric s2 s3 i mine waiting s4
  have hclear : FillKept s s1 := .ite (clearCluster_fillKept s v) (.refl s)
  have hfill : FillKept s1 s2 := by
    refine .ite (.refl s1) (((setRegions_fillKept s1 { c with unit := v }).trans ?_).trans (refillSeats_fillKept _ _ _))
    exact .of_fields (by rfl) (by rfl)
  have hlists : FillKept s2 s3 := writeSet_fillKept _ _ _ _ _ _ _
  have htables : FillKept s3 s4 := .putIsland (by rfl)
  exact (((hclear.trans hfill).trans hlists).trans htables).trans (.putIsland (by rfl))

theorem moveTables_fillKept (s : State) (n : Nat) (b : FolioBody) (w : Variant) : FillKept s (moveTables s n b w) := by
  refine FillKept.foldl (fun s p => ?_) _ s
  split
  · exact coverWith_fillKept s n b _ _
  · exact .refl s

theorem closeWindows_gates (s : State) (u row : Nat) : IslandsKeep Island.gate s (closeWindows s u row) :=
  (putIsland_keeps (by rfl)).trans (foldl_islandsKeep (fun s w => sendWindow_keeps (fun _ _ => rfl) s u w) _ _)

theorem closeRows_fillKept (s : State) (u addr n : Nat) : FillKept s (closeRows s u addr n) := by
  refine ⟨congrArg Serving.nextStep ((closeRows_held (held_self [.fabric] s) (by rfl)).only .serving (by decide)), ?_⟩
  refine foldl_islandsKeep (fun s w => ?_) _ s
  split
  · exact closeWindows_gates s u w.row
  · exact IslandsKeep.refl s

theorem setSram_fillKept (s : State) (b : FolioBody) (u : Nat) : FillKept s (setSram s b u) := by
  unfold setSram
  extract_lets mine s1 s2
  have hcount : FillKept s s1 := .putIsland (by rfl)
  have hclose : FillKept s1 s2 := .foldl (fun s x => .ite (.refl s) (closeRows_fillKept s u _ _)) _ s1
  exact (hcount.trans hclose).trans (.of_fields (by rfl) (by rfl))

theorem startTables_fillKept (s : State) (n : Nat) (p : ClusterPlan) : FillKept s (startTables s n p) := .putIsland (by rfl)

theorem takePart_fillKept (s : State) (n : Nat) (b : FolioBody) (p : ClusterPlan) : FillKept s (takePart s n b p) := by
  unfold takePart
  extract_lets s1
  have hclear : FillKept s s1 := .ite (clearCluster_fillKept s p.unit) (.refl s)
  exact ((hclear.trans (startTables_fillKept s1 n p)).trans (setRegions_fillKept _ p)).trans (setSram_fillKept _ b p.unit)

theorem fillCluster_fillKept (s : State) (n h : Nat) (b : FolioBody) (p : ClusterPlan) : FillKept s (fillCluster s n h b p) := by
  unfold fillCluster
  exact .ite ((takePart_fillKept s n b p).trans (placeSet_fillKept _ _ _ _ _ _ _)) (.refl s)

theorem standInAll_fillKept (s : State) (n : Nat) (b : FolioBody) : FillKept s (standInAll s n b) := by
  unfold standInAll
  exact .ite (.putSlot _ _ _) (.foldl (fun s w => moveTables_fillKept s n b w) _ s)

theorem fillPlacement_fillKept (s : State) (n : Nat) : FillKept s (fillPlacement s n) := by
  unfold fillPlacement
  split
  · exact .refl s
  · exact ((FillKept.foldl (fun s p => fillCluster_fillKept s n _ _ p) _ s).trans (.putSlot _ _ _)).trans
      (standInAll_fillKept _ n _)

theorem fillFootprint_fillKept (s : State) (n : Nat) : FillKept s (fillFootprint s n) := by
  unfold fillFootprint
  split
  · exact .refl s
  · exact ((setRoutes_fillKept s n _).trans (FillKept.foldl (fun s p => fillCluster_fillKept s n _ _ p) _ _)).trans
      (.putSlot _ _ _)

theorem coFill_fillKept (s : State) (n : Nat) : FillKept s (coFill s n) := by
  unfold coFill
  exact .ite (fillFootprint_fillKept s n) (.refl s)

theorem rewriteCluster_fillKept (s : State) (n : Nat) (b : FolioBody) (c : ClusterPlan) :
    FillKept s (rewriteCluster s n b c) := by
  unfold rewriteCluster
  exact .ite ((takePart_fillKept s n b c).trans (writeSet_fillKept _ _ _ _ _ _ _)) (.refl s)

theorem rewritePart_fillKept (s : State) (n : Nat) (b : FolioBody) (inForce : List Variant) (part : Nat) :
    FillKept s (rewritePart s n b inForce part) :=
  (FillKept.foldl (fun s c => rewriteCluster_fillKept s n b c) _ s).trans
    (FillKept.foldl (fun s (x : Nat × Nat) => moveTables_fillKept s n b { covers := [x.1], claims := [x.2] }) _ _)

/-! ### Activation: no step is numbered (R207, R216) -/

theorem foldl_nextStep {β : Type} {g : State → β → State} (hg : ∀ s x, (g s x).serving.nextStep = s.serving.nextStep)
    (l : List β) (s : State) : (l.foldl g s).serving.nextStep = s.serving.nextStep := by
  induction l generalizing s with
  | nil => rfl
  | cons x l ih => exact (ih (g s x)).trans (hg s x)

theorem freePage_nextStep (s : State) (p : Nat) : (freePage s p).serving.nextStep = s.serving.nextStep := by
  unfold freePage
  split
  · rfl
  · split <;> rfl

theorem uncharge_nextStep (s : State) (tenant units : Nat) : (uncharge s tenant units).serving.nextStep = s.serving.nextStep := by
  unfold uncharge
  dsimp only
  split <;> rfl

theorem discardRows_nextStep (s : State) (ref : RowRef) : (discardRows s ref).serving.nextStep = s.serving.nextStep :=
  (foldl_nextStep (fun s _ => uncharge_nextStep s _ _) _ _).trans rfl

theorem sweepPfx_nextStep (s : State) (x : Nat) : (sweepPfx s x).serving.nextStep = s.serving.nextStep := by
  unfold sweepPfx
  dsimp only
  split
  · rfl
  · exact (foldl_nextStep freePage_nextStep _ _).trans rfl

theorem rePrefixes_nextStep (s : State) (n : Nat) : (rePrefixes s n).serving.nextStep = s.serving.nextStep := by
  refine foldl_nextStep (fun s x => ?_) _ s
  extract_lets v toks s1 s2 s3
  have hcount : s1.serving.nextStep = s.serving.nextStep := by
    show (if sameLettering s v.slot n = true then s else countText s _ _).serving.nextStep = _
    split <;> rfl
  calc (sweepPfx s3 x).serving.nextStep
      _ = s2.serving.nextStep := sweepPfx_nextStep s3 x
      _ = s1.serving.nextStep := discardRows_nextStep s1 _
      _ = s.serving.nextStep := hcount

theorem startAreas_serving (s : State) (n : Nat) : (startAreas s n).serving = s.serving :=
  (startAreas_held (held_self [.images, .vellum] s) (by rfl)).only .serving (by decide)

theorem streamSlot_serving (s : State) (n : Nat) : (streamSlot s n).serving = s.serving :=
  (streamSlot_held (held_self [.images, .fabric] s) (by rfl)).only .serving (by decide)

theorem startDrains_nextStep (s : State) : (startDrains s).serving.nextStep = s.serving.nextStep := by
  unfold startDrains
  refine foldl_nextStep (fun s p => ?_) _ s
  dsimp only
  split <;> rfl

end Sys2Proof.Proofs

namespace Sys2Proof.Proofs

open Sys2Proof Sys2Proof.Machine Sys2Proof.Laws

theorem getSlot_putSlot_other (s : State) (n : Nat) (v : Slot) : getSlot (putSlot s n v) (1 - n) = getSlot s (1 - n) :=
  getSlot_putSlot_ne s v (other_ne n)

/-! ## FOLIO_LOAD (R200, R337) -/

/-- The operands of FOLIO_LOAD are in range, and a load from a peer brings no ranges. -/
theorem folioLoad_inRange {h : Hdr} {slot source : Nat} (hslot : slot < 2) (hsource : source < 2)
    (hlen : source = 1 → h.dataLen = 0) :
    (decide (2 ≤ slot) || decide (2 ≤ source) || (source == 1 && h.dataLen != 0)) = false := by
  rw [decide_eq_false (Nat.not_le.mpr hslot), decide_eq_false (Nat.not_le.mpr hsource), Bool.false_or, Bool.false_or]
  by_cases h1 : source = 1
  · simp [hlen h1]
  · simp [h1]

/-- A slot as FOLIO_LOAD leaves it when the header passes. -/
def startedLoad (s : State) (source peer : Nat) (f : FolioHead) : Slot :=
  { state := .loading, head := some f, copies := bSites.filter (siteTakes s),
    fromPeer := if source = 1 then some peer else none,
    pull := if source = 1 then some (f.generation, 0) else none, contentKey := openKey s f }

theorem folioLoad_starts (h : Hdr) (slot source peer : Nat) (f : FolioHead) (s : State) (ha : Accepted s h opFolioLoad)
    (hslot : slot < 2) (hsource : source < 2) (hlen : source = 1 → h.dataLen = 0) (he : (getSlot s slot).state = .empty)
    (hr : headRefusal s (slotCapacity s.vellum.layout slot) f = none) :
    ∃ t, exec (.folioLoad h slot source peer f) s = .next t ∧ getSlot t slot = startedLoad s source peer f ∧
      getSlot t (1 - slot) = getSlot s (1 - slot) ∧ Started t h opFolioLoad slot := by
  have hr' : headRefusal (advance s h.time) (slotCapacity (advance s h.time).vellum.layout slot) f = none := hr
  obtain ⟨t, hexec, honly, hstarted⟩ := starts (c := .folioLoad h slot source peer f)
    (v := putSlot (advance s h.time) slot (startedLoad s source peer f)) (arg := slot) rfl ha
    (folioLoad_inRange hslot hsource hlen) (by rw [getSlot_advance, if_neg (not_not.mpr he), hr']; rfl)
  have himages := honly .images (by decide)
  exact ⟨t, hexec, (getSlot_of_images himages slot).trans (getSlot_putSlot _ _ _),
    (getSlot_of_images himages _).trans (getSlot_putSlot_other _ _ _), hstarted⟩

theorem folioLoad_refuses (h : Hdr) (slot source peer : Nat) (f : FolioHead) (s : State) (ha : Accepted s h opFolioLoad)
    (hslot : slot < 2) (hsource : source < 2) (hlen : source = 1 → h.dataLen = 0) (he : (getSlot s slot).state = .empty)
    (r : Nat) (hr : headRefusal s (slotCapacity s.vellum.layout slot) f = some r) (ht : OnTime s h) :
    ∃ t, exec (.folioLoad h slot source peer f) s = .next t ∧ getSlot t slot = { refuse := r } ∧
      getSlot t (1 - slot) = getSlot s (1 - slot) ∧ Answered s t h (if r = 0x0E then 0x0502 else 0x0501) r [] := by
  have hr' : headRefusal (advance s h.time) (slotCapacity (advance s h.time).vellum.layout slot) f = some r := hr
  obtain ⟨t, hexec, honly, hanswered⟩ := answers (c := .folioLoad h slot source peer f)
    (v := putSlot (advance s h.time) slot { refuse := r }) (st := if r = 0x0E then 0x0502 else 0x0501) (r := r) (d := []) rfl ha ht
    (folioLoad_inRange hslot hsource hlen) (by rw [getSlot_advance, if_neg (not_not.mpr he), hr']; rfl) rfl
  have himages := honly .images (by decide)
  exact ⟨t, hexec, (getSlot_of_images himages slot).trans (getSlot_putSlot _ _ _),
    (getSlot_of_images himages _).trans (getSlot_putSlot_other _ _ _), hanswered⟩

/-! ## CHUNK_ARRIVAL (R201, R205) -/

/-- The site that a chunk belongs on holds it (R221). -/
def ownSiteHolds (s : State) (chunk : Nat) : Prop :=
  ¬ ((getSite s (chunkSite chunk)).lost = true ∨ (getSite s (chunkSite chunk)).emptied = true ∨
    (getSite s (chunkSite chunk)).untrained = true)

theorem storeChunk_own {s : State} {chunk : Nat} (h : ownSiteHolds s chunk) (slot : Nat) :
    storeChunk s slot chunk = some (wroteChunk s slot chunk) := if_neg h

/-- A slot with one more chunk verified. -/
def withVerified (v : Slot) (chunk : Nat) : Slot :=
  { v with verified := v.verified ++ [chunk], tries := tput 0 v.tries chunk 0 }

/-- A slot with one more failed fetch of a chunk. -/
def withRetry (v : Slot) (chunk : Nat) : Slot :=
  { v with tries := tput 0 v.tries chunk (tget 0 v.tries chunk + 1), retries := v.retries + 1 }

theorem takeChunk_stores {s : State} {chunk : Nat} {f : FolioHead} {data : List Byte} (slot : Nat)
    (hbytes : f.chunkBase + (chunk + 1) * 4194304 ≤ f.sourceBytes) (hsite : ownSiteHolds s chunk)
    (hleaf : f.tree[chunk]? = some (leafHash chunk data)) :
    takeChunk s slot chunk f data = putSlot (wroteChunk s slot chunk) slot (withVerified (getSlot s slot) chunk) := by
  unfold takeChunk
  rw [if_neg (Nat.not_lt.mpr hbytes), if_pos hleaf, storeChunk_own hsite]
  dsimp only
  rw [getSlot_of_images (wroteChunk_images s slot chunk)]
  rfl

theorem takeChunk_retries {s : State} {slot chunk : Nat} {f : FolioHead} {data : List Byte}
    (hbytes : f.chunkBase + (chunk + 1) * 4194304 ≤ f.sourceBytes) (hleaf : f.tree[chunk]? ≠ some (leafHash chunk data))
    (htries : tget 0 (getSlot s slot).tries chunk < 3) :
    takeChunk s slot chunk f data = putSlot s slot (withRetry (getSlot s slot) chunk) := by
  unfold takeChunk
  rw [if_neg (Nat.not_lt.mpr hbytes), if_neg hleaf]
  exact if_neg (by omega)

/-- A chunk that a load waits for, and that its puller's bank shows, is taken. -/
theorem exec_chunkArrival (time generation bank : Nat) {slot chunk : Nat} (data : List Byte) {f : FolioHead} {s : State}
    (hslot : slot < 2) (hhead : (getSlot s slot).head = some f) (hstate : (getSlot s slot).state = .loading)
    (hchunk : chunk < f.chunkCount) (hnew : (getSlot s slot).verified.contains chunk = false)
    (hpull : (getSlot s slot).pull.all (fun p => p.2 == chunkBank f chunk) = true) :
    exec (.chunkArrival time slot chunk ⟨data, generation, bank⟩) s =
      .next (takeChunk (advance s time) slot chunk f data) := by
  show execChunkArrival time slot chunk ⟨data, generation, bank⟩ s = _
  unfold execChunkArrival
  dsimp only
  rw [getSlot_advance, hhead]
  dsimp only
  rw [if_pos ⟨hslot, hstate, hchunk, hnew⟩]
  cases hp : (getSlot s slot).pull with
  | none => rfl
  | some p =>
    rw [hp, Option.all_some, beq_iff_eq] at hpull
    exact congrArg Host.Outcome.next (if_pos hpull.symm)

/-- What a chunk's arrival has to meet: a load that waits for the chunk, from a source that holds it, on a site that takes it. -/
structure Awaited (s : State) (slot chunk : Nat) (f : FolioHead) : Prop where
  exists_ : slot < 2
  head : (getSlot s slot).head = some f
  loading : (getSlot s slot).state = .loading
  inRange : chunk < f.chunkCount
  unverified : (getSlot s slot).verified.contains chunk = false
  sourced : f.chunkBase + (chunk + 1) * 4194304 ≤ f.sourceBytes
  shown : (getSlot s slot).pull.all (fun p => p.2 == chunkBank f chunk) = true
  site : ownSiteHolds s chunk

theorem chunkArrival_stores (time generation bank : Nat) {slot chunk : Nat} {data : List Byte} {f : FolioHead} {s : State}
    (hw : Awaited s slot chunk f) (hleaf : f.tree[chunk]? = some (leafHash chunk data)) :
    ∃ t, exec (.chunkArrival time slot chunk ⟨data, generation, bank⟩) s = .next t ∧
      getSlot t slot = withVerified (getSlot s slot) chunk ∧ Only [.now, .images, .vellum] s t ∧
      getSlot t (1 - slot) = getSlot s (1 - slot) := by
  have hwrote : Held [.now, .images, .vellum] s (wroteChunk (advance s time) slot chunk) :=
    wroteChunk_held (advance_held (held_self _ s) (by rfl)) (by rfl)
  have he := exec_chunkArrival time generation bank data hw.exists_ hw.head hw.loading hw.inRange hw.unverified hw.shown
  rw [takeChunk_stores (s := advance s time) slot hw.sourced hw.site hleaf] at he
  refine ⟨_, he, getSlot_putSlot _ _ _, (putSlot_held hwrote (by rfl)).only, ?_⟩
  rw [getSlot_putSlot_other, getSlot_of_images (wroteChunk_images _ _ _), getSlot_advance]

theorem chunkArrival_retries (time generation bank : Nat) {slot chunk : Nat} {data : List Byte} {f : FolioHead} {s : State}
    (hw : Awaited s slot chunk f) (hleaf : f.tree[chunk]? ≠ some (leafHash chunk data))
    (htries : tget 0 (getSlot s slot).tries chunk < 3) :
    ∃ t, exec (.chunkArrival time slot chunk ⟨data, generation, bank⟩) s = .next t ∧
      getSlot t slot = withRetry (getSlot s slot) chunk ∧ Only [.now, .images] s t ∧
      getSlot t (1 - slot) = getSlot s (1 - slot) := by
  have he := exec_chunkArrival time generation bank data hw.exists_ hw.head hw.loading hw.inRange hw.unverified hw.shown
  rw [takeChunk_retries (s := advance s time) hw.sourced hleaf htries] at he
  exact ⟨_, he, getSlot_putSlot _ _ _, (putSlot_held (advance_held (held_self _ s) (by rfl)) (by rfl)).only,
    getSlot_putSlot_other _ _ _⟩

/-! ## FOLIO_LOAD_COMPLETE (R184, R202) -/

theorem completeStarted_images (s : State) (opcode arg status result : Nat) :
    (completeStarted s opcode arg status result).images = s.images :=
  (completeStarted_held (held_self [.link, .mailbox, .power, .blotter, .mgmt] s) (by rfl)).only .images (by decide)

/-- A Folio without CO_PLACE is not filled while it stands READY (R212). -/
theorem coFill_eq_self {s : State} {n : Nat} {f : FolioHead} (hhead : (getSlot s n).head = some f)
    (hf : folioCoPlace f = false) : coFill s n = s := by
  have hno : coResident s n = false := by
    unfold coResident
    dsimp only
    rw [hhead]
    split
    · rename_i hg _ _ _
      cases hg
      simp [hf]
    · rfl
  unfold coFill
  rw [hno]
  exact if_neg (fun h => Bool.false_ne_true h.2)

/-- A slot as the end of a header's load leaves it. -/
def loadedSlot (s : State) (v : Slot) (f : FolioHead) (body : FolioBody) : Slot :=
  { v with
    state := .ready, head := some f, body := some body, stencils := body.stencils.foldl (fun t x => tins t x.1 x.2) [],
    layers := initialLayers body [], inForce := (fitVariants s body).getD [], degraded := false, pull := none }

theorem exec_folioLoadComplete (time : Nat) {slot : Nat} {body : FolioBody} {f : FolioHead} {s : State} (hslot : slot < 2)
    (hhead : (getSlot s slot).head = some f) (hstate : (getSlot s slot).state = .loading)
    (hall : f.chunkCount ≤ (getSlot s slot).verified.length) (hmissing : (getSlot s slot).missing = [])
    (hgen : (getSlot s slot).pull.all (fun p => p.1 == body.generation) = true) (hbody : bodyRefusal s f body = none)
    (hroom : folioPages body ≤ stencilSpace s) (hf : folioCoPlace f = false) :
    exec (.folioLoadComplete time slot body) s = .next (completeStarted
      (putSlot (advance s time) slot (loadedSlot s (getSlot s slot) f body)) 0x0501 slot stSuccess
      (loadResult 0 (getSlot s slot))) := by
  have hbody' : bodyRefusal (advance s time) f body = none := hbody
  have hroom' : ¬ stencilSpace (advance s time) < folioPages body := Nat.not_lt.mpr hroom
  have hhead' : (getSlot (completeStarted (putSlot (advance s time) slot (loadedSlot s (getSlot s slot) f body)) 0x0501 slot
      stSuccess (loadResult 0 (getSlot s slot))) slot).head = some f := by
    rw [getSlot_of_images (completeStarted_images _ _ _ _ _), getSlot_putSlot]
    rfl
  have hfill := coFill_eq_self hhead' hf
  show execFolioLoadComplete time slot body s = _
  unfold execFolioLoadComplete
  dsimp only
  rw [getSlot_advance, hhead]
  dsimp only
  rw [if_pos ⟨hslot, hstate, hall, by rw [hmissing]; rfl⟩]
  rw [if_pos, hbody']
  · dsimp only
    rw [if_neg hroom']
    exact congrArg Host.Outcome.next hfill
  · cases hp : (getSlot s slot).pull with
    | none => rfl
    | some p =>
      rw [hp, Option.all_some, beq_iff_eq] at hgen
      exact beq_iff_eq.mpr hgen.symm

theorem folioLoadComplete_readies (time slot : Nat) (body : FolioBody) (f : FolioHead) (s : State) (hslot : slot < 2)
    (hhead : (getSlot s slot).head = some f) (hstate : (getSlot s slot).state = .loading)
    (hall : f.chunkCount ≤ (getSlot s slot).verified.length) (hmissing : (getSlot s slot).missing = [])
    (hgen : (getSlot s slot).pull.all (fun p => p.1 == body.generation) = true) (hbody : bodyRefusal s f body = none)
    (hroom : folioPages body ≤ stencilSpace s) (hf : folioCoPlace f = false) :
    ∃ t, exec (.folioLoadComplete time slot body) s = .next t ∧ (getSlot t slot).state = .ready ∧
      (getSlot t slot).head = some f ∧ (getSlot t slot).body = some body ∧ (getSlot t slot).degraded = false ∧
      getSlot t (1 - slot) = getSlot s (1 - slot) ∧ Ended s t 0x0501 slot stSuccess (loadResult 0 (getSlot s slot)) := by
  obtain ⟨t, he, honly, hended⟩ := ends
    (exec_folioLoadComplete time hslot hhead hstate hall hmissing hgen hbody hroom hf) rfl (by decide)
  have himages := honly .images (by decide)
  have hset : getSlot t slot = loadedSlot s (getSlot s slot) f body :=
    (getSlot_of_images himages slot).trans (getSlot_putSlot _ _ _)
  exact ⟨t, he, congrArg Slot.state hset, congrArg Slot.head hset, congrArg Slot.body hset, congrArg Slot.degraded hset,
    (getSlot_of_images himages _).trans (getSlot_putSlot_other _ _ _), hended⟩

/-! ## FOLIO_UNLOAD (R224) -/

theorem dropHalves_images (s : State) (n : Nat) : (dropHalves s n).images = s.images :=
  (dropHalves_held (held_self [.serving, .fabric] s) (by rfl)).only .images (by decide)

theorem queueClear_images (s : State) (k : ClearKind) : (queueClear s k).images = s.images :=
  (queueClear_held (held_self [.serving] s) (by rfl)).only .images (by decide)

theorem queueClear_contains (s : State) (k : ClearKind) : (queueClear s k).serving.clears.contains k = true := by
  unfold queueClear
  split
  · assumption
  · simp

/-- A slot that is cleared stands LOADING without a header (log entry 13); what it has of relocated chunks stands until then. -/
theorem clearSlot_getSlot (s : State) (n reason : Nat) :
    getSlot (clearSlot s n reason) n = { state := .loading, refuse := reason, relocated := (getSlot s n).relocated } :=
  (getSlot_of_images (queueClear_images _ _) n).trans (getSlot_putSlot _ _ _)

theorem clearSlot_other (s : State) (n reason : Nat) : getSlot (clearSlot s n reason) (1 - n) = getSlot s (1 - n) := by
  have hexport : getSlot (if s.images.exported.slot = some n then endExport s else s) (1 - n) = getSlot s (1 - n) := by
    split <;> rfl
  exact (getSlot_of_images (queueClear_images _ _) _).trans
    ((getSlot_putSlot_other _ _ _).trans ((getSlot_of_images (dropHalves_images _ _) _).trans hexport))

theorem clearSlot_mailbox (s : State) (n reason : Nat) : (clearSlot s n reason).mailbox = s.mailbox :=
  (clearSlot_held (held_self [.serving, .images, .fabric] s) (by rfl)).only .mailbox (by decide)

/-- A command that is started stays so while the mailbox does. -/
theorem started_of_mailbox {t u : State} {h : Hdr} {op : Opcode} {arg : Nat} (hs : Started t h op arg)
    (hm : u.mailbox = t.mailbox) : Started u h op arg := by
  unfold Started at *
  rwa [hm]

theorem exec_folioUnload {h : Hdr} {slot : Nat} {s : State} (ha : Accepted s h opFolioUnload) (hslot : slot < 2)
    (hready : (getSlot s slot).state = .ready) :
    exec (.folioUnload h slot) s = .next
      (clearSlot (startLater (advance s h.time) h opFolioUnload slot) slot (getSlot s slot).refuse) := by
  have hload : isLoading (getSlot s slot) ≠ true := by
    unfold isLoading
    rw [hready]
    exact Bool.false_ne_true
  show execFolioUnload h slot s = _
  unfold execFolioUnload
  rw [runCommand_accepted ha (decide_eq_false (Nat.not_le.mpr hslot))]
  dsimp only
  rw [getSlot_advance, if_neg (fun hne => hne.1 hready), if_neg hload]

theorem folioUnload_clears (h : Hdr) (slot : Nat) (s : State) (ha : Accepted s h opFolioUnload) (hslot : slot < 2)
    (hready : (getSlot s slot).state = .ready) :
    ∃ t, exec (.folioUnload h slot) s = .next t ∧
      getSlot t slot =
        { state := .loading, refuse := (getSlot s slot).refuse, relocated := (getSlot s slot).relocated } ∧
      getSlot t (1 - slot) = getSlot s (1 - slot) ∧ t.serving.clears.contains (.slot slot) = true ∧
      Started t h opFolioUnload slot :=
  ⟨_, exec_folioUnload ha hslot hready, clearSlot_getSlot _ _ _, clearSlot_other _ _ _, queueClear_contains _ _,
    started_of_mailbox (startLater_started _ h opFolioUnload slot) (clearSlot_mailbox _ _ _)⟩

/-- Settles O17: FOLIO_LOAD by whether the header passes, CHUNK_ARRIVAL by whether the leaf matches, the load's end, and
the unload. -/
theorem foliosLoad : Obligations.FoliosLoad := by
  unfold Obligations.FoliosLoad
  refine ⟨fun h slot source peer f s ha hslot hsource hlen he =>
      ⟨folioLoad_starts h slot source peer f s ha hslot hsource hlen he,
        folioLoad_refuses h slot source peer f s ha hslot hsource hlen he⟩,
    fun time slot chunk generation bank data f s hslot hhead hstate hchunk hnew hbytes hshown hsite => ?_,
    folioLoadComplete_readies, folioUnload_clears⟩
  have hw : Awaited s slot chunk f := ⟨hslot, hhead, hstate, hchunk, hnew, hbytes, hshown, hsite⟩
  exact ⟨chunkArrival_stores time generation bank hw, chunkArrival_retries time generation bank hw⟩

end Sys2Proof.Proofs

namespace Sys2Proof.Proofs

open Sys2Proof Sys2Proof.Machine Sys2Proof.Laws

/-! ## Activation (R207, R216) -/

/-- The module at its next image epoch. -/
def epochRaised (s : State) : State := { s with images := { s.images with epoch := s.images.epoch + 1 } }

/-- A slot as its activation leaves it, but for its cold-copy areas. -/
def activatedSlot (s : State) (v : Slot) (b : FolioBody) : Slot :=
  { v with
    state := .active, epoch := s.images.epoch + 1, residencyEpoch := 0, layers := initialLayers b v.layers,
    inForce := (fitVariants s b).getD [], noVariant := (fitVariants s b).isNone }

theorem activateSlot_eq {s : State} {n : Nat} {b : FolioBody} (hb : (getSlot s n).body = some b) :
    activateSlot s n = rePrefixes (placementLoaded
      (startAreas (putSlot (epochRaised s) n (activatedSlot s (getSlot s n) b)) n)) n := by
  unfold activateSlot
  dsimp only
  split
  next hnone => exact absurd (hnone.symm.trans hb) nofun
  next b' hb' =>
    cases hb.symm.trans hb'
    rfl

/-- The state and the epoch of a slot. -/
def serviceView (v : Slot) : SlotState × Nat := (v.state, v.epoch)

/-- From `s` to `t` the slot has become ACTIVE at the next epoch: the other slot, the steps' numbers and the mailbox stay. -/
structure Activated (n : Nat) (s t : State) : Prop where
  state : (getSlot t n).state = .active
  epoch : (getSlot t n).epoch = s.images.epoch + 1
  moduleEpoch : t.images.epoch = s.images.epoch + 1
  other : getSlot t (1 - n) = getSlot s (1 - n)
  nextStep : t.serving.nextStep = s.serving.nextStep
  mailbox : t.mailbox = s.mailbox

theorem activateSlot_activated {s : State} {n : Nat} {b : FolioBody} (hb : (getSlot s n).body = some b) :
    Activated n s (activateSlot s n) := by
  let w := putSlot (epochRaised s) n (activatedSlot s (getSlot s n) b)
  have hareas : SlotKeeps n serviceView w (startAreas w n) := startAreas_keeps ⟨fun _ _ => rfl⟩ w n
  have hafter : Held [.serving, .vellum] (startAreas w n) (rePrefixes (placementLoaded (startAreas w n)) n) :=
    rePrefixes_held (placementLoaded_held (held_self _ _) (by rfl)) (by rfl)
  have hkeeps := hareas.then_images (hafter.only .images (by decide))
  have hview := (hkeeps.view n).trans (congrArg serviceView (getSlot_putSlot (epochRaised s) n _))
  have hmailbox := (hafter.only .mailbox (by decide)).trans
    ((startAreas_held (held_self [.images, .vellum] w) (by rfl)).only .mailbox (by decide))
  rw [activateSlot_eq hb]
  refine ⟨congrArg Prod.fst hview, congrArg Prod.snd hview, ?_, ?_, ?_, hmailbox⟩
  · exact (hkeeps.field Images.epoch).trans ((putSlot_noView _ _ _).field Images.epoch)
  · exact (hkeeps.others _ (other_ne n)).trans (getSlot_putSlot_other _ n _)
  · have hserving : (startAreas w n).serving.nextStep = s.serving.nextStep := congrArg Serving.nextStep (startAreas_serving w n)
    exact (rePrefixes_nextStep _ n).trans hserving

/-- What follows an activation and keeps the slot's state and epoch leaves it activated. -/
theorem Activated.then {n : Nat} {s t r : State} (h : Activated n s t) (hk : SlotKeeps n serviceView t r)
    (hn : r.serving.nextStep = t.serving.nextStep) (hm : r.mailbox = t.mailbox) : Activated n s r :=
  ⟨(congrArg Prod.fst (hk.view n)).trans h.state, (congrArg Prod.snd (hk.view n)).trans h.epoch,
    (hk.field Images.epoch).trans h.moduleEpoch, (hk.others _ (other_ne n)).trans h.other, hn.trans h.nextStep,
    hm.trans h.mailbox⟩

/-! ## IMAGE_SWITCH (R198, R207, R223) -/

/-- A switch waits while a firmware handover is due (R223, log entry 16). -/
theorem imageSwitch_waits {h : Hdr} {slot : Nat} {s : State} (ha : Accepted s h opImageSwitch) (hslot : slot < 2)
    (hready : (getSlot s slot).state = .ready) (hdue : s.fw.handover = true) :
    exec (.imageSwitch h slot) s = .next (advance s h.time) := by
  show execImageSwitch h slot s = _
  unfold execImageSwitch
  rw [runCommand_accepted ha (decide_eq_false (Nat.not_le.mpr hslot))]
  exact congrArg Host.Outcome.next ((if_neg (not_not.mpr hready)).trans (if_pos hdue))

/-- The slot is activated, and its fill is due. -/
def firstActivated (s : State) (slot : Nat) : State :=
  { activateSlot s slot with images := { (activateSlot s slot).images with activating := some slot, lines := [] } }

theorem imageSwitch_activates {h : Hdr} {slot : Nat} {b : FolioBody} {s : State} (ha : Accepted s h opImageSwitch)
    (hslot : slot < 2) (hready : (getSlot s slot).state = .ready) (hb : (getSlot s slot).body = some b)
    (hdue : s.fw.handover = false)
    (ho : (getSlot s (1 - slot)).state = .empty ∨ (getSlot s (1 - slot)).state = .loading ∨
      (getSlot s (1 - slot)).state = .ready) :
    ∃ t, exec (.imageSwitch h slot) s = .next t ∧ (getSlot t slot).state = .active ∧
      (getSlot t slot).epoch = s.images.epoch + 1 ∧ t.images.epoch = s.images.epoch + 1 ∧
      t.images.activating = some slot ∧ t.images.lines = [] ∧ getSlot t (1 - slot) = getSlot s (1 - slot) ∧
      Started t h opImageSwitch slot := by
  have hactive : (getSlot s (1 - slot)).state ≠ .active := by
    rcases ho with ho | ho | ho <;> simp [ho]
  have hfree : ¬ ((getSlot s (1 - slot)).state = .draining ∨ (getSlot s (1 - slot)).state = .compat ∨
      ((getSlot s (1 - slot)).state = .active ∧ (getSlot s (1 - slot)).permille < 1000)) := by
    rcases ho with ho | ho | ho <;> simp [ho]
  obtain ⟨t, he, honly, hstarted⟩ := starts (c := .imageSwitch h slot) (v := firstActivated (advance s h.time) slot)
    (arg := slot) rfl ha (decide_eq_false (Nat.not_le.mpr hslot))
    ((if_neg (not_not.mpr hready)).trans
      ((if_neg (ne_true_of_eq_false hdue)).trans ((if_neg hfree).trans (if_neg hactive))))
  have hact : Activated slot (advance s h.time) (activateSlot (advance s h.time) slot) := activateSlot_activated hb
  have himages := honly .images (by decide)
  have hslots : ∀ k, getSlot t k = getSlot (activateSlot (advance s h.time) slot) k :=
    getSlot_of_images (s := firstActivated (advance s h.time) slot) himages
  refine ⟨t, he, ?_, ?_, ?_, ?_, ?_, ?_, hstarted⟩
  · rw [hslots]; exact hact.state
  · rw [hslots]; exact hact.epoch
  · exact (congrArg Images.epoch himages).trans hact.moduleEpoch
  · exact congrArg Images.activating himages
  · exact congrArg Images.lines himages
  · rw [hslots]; exact hact.other

/-- The other slot is DRAINING, and the slot is activated. -/
def switched (s : State) (slot : Nat) : State :=
  activateSlot (putSlot s (1 - slot) { getSlot s (1 - slot) with state := .draining }) slot

/-- The slot stands in streaming form, and its migration is due (R210). -/
def migrationDue (s : State) (slot : Nat) : State :=
  let t := streamSlot (putSlot s slot { getSlot s slot with streaming := true }) slot
  { t with images := { t.images with switching := some (1 - slot, slot), migrating := false, migrated := [] } }

theorem migrationDue_activated {n : Nat} {s t : State} (h : Activated n s t) : Activated n s (migrationDue t n) := by
  have hput : SlotKeeps n serviceView t (putSlot t n { getSlot t n with streaming := true }) := putSlot_keeps rfl
  have hstream := h.then (hput.trans (streamSlot_keeps ⟨fun _ _ _ _ _ _ => rfl, fun _ _ => rfl⟩ _ n))
    (congrArg Serving.nextStep (streamSlot_serving _ n))
    ((streamSlot_held (held_self [.images, .fabric] _) (by rfl)).only .mailbox (by decide))
  exact ⟨hstream.state, hstream.epoch, hstream.moduleEpoch, hstream.other, hstream.nextStep, hstream.mailbox⟩

/-- The state in which a switch with an ACTIVE slot beside it is answered. -/
def switchDone (s : State) (slot : Nat) : State :=
  startDrains (if (getSlot s slot).permille = 1000 then switched s slot else migrationDue (switched s slot) slot)

theorem switchDone_activated {s : State} {slot : Nat} {b : FolioBody} (hb : (getSlot s slot).body = some b) :
    Activated slot (putSlot s (1 - slot) { getSlot s (1 - slot) with state := .draining }) (switchDone s slot) := by
  have hswitched : Activated slot (putSlot s (1 - slot) { getSlot s (1 - slot) with state := .draining }) (switched s slot) := by
    refine activateSlot_activated (b := b) ?_
    rw [getSlot_putSlot_ne _ _ (ne_other slot)]
    exact hb
  have hdrains : ∀ u, Held [.serving] u (startDrains u) := fun u => startDrains_held (held_self _ u) (by rfl)
  unfold switchDone
  split
  · exact hswitched.then (.of_images ((hdrains _).only .images (by decide))) (startDrains_nextStep _)
      ((hdrains _).only .mailbox (by decide))
  · exact (migrationDue_activated hswitched).then (.of_images ((hdrains _).only .images (by decide)))
      (startDrains_nextStep _) ((hdrains _).only .mailbox (by decide))

theorem imageSwitch_switches {h : Hdr} {slot : Nat} {b : FolioBody} {s : State} (ha : Accepted s h opImageSwitch)
    (hslot : slot < 2) (hready : (getSlot s slot).state = .ready) (hb : (getSlot s slot).body = some b)
    (hdue : s.fw.handover = false) (ho : (getSlot s (1 - slot)).state = .active)
    (hwhole : 1000 ≤ (getSlot s (1 - slot)).permille) (ht : OnTime s h) :
    ∃ t, exec (.imageSwitch h slot) s = .next t ∧ (getSlot t slot).state = .active ∧
      (getSlot t slot).epoch = s.images.epoch + 1 ∧ t.images.epoch = s.images.epoch + 1 ∧
      getSlot t (1 - slot) = { getSlot s (1 - slot) with state := .draining } ∧
      Answered s t h stSuccess (s.images.epoch + 1 + 2 ^ 64 * s.serving.nextStep) [] := by
  have hfree : ¬ ((getSlot s (1 - slot)).state = .draining ∨ (getSlot s (1 - slot)).state = .compat ∨
      ((getSlot s (1 - slot)).state = .active ∧ (getSlot s (1 - slot)).permille < 1000)) := by
    rw [ho]
    rintro (hd | hc | hp)
    · exact absurd hd (by decide)
    · exact absurd hc (by decide)
    · exact absurd hp.2 (Nat.not_lt.mpr hwhole)
  have hact := switchDone_activated (s := advance s h.time) (slot := slot) hb
  have hepoch : (putSlot (advance s h.time) (1 - slot) { getSlot s (1 - slot) with state := .draining }).images.epoch =
      s.images.epoch := (putSlot_noView _ _ _).field Images.epoch
  have hresult : switchResult (switchDone (advance s h.time) slot) slot =
      s.images.epoch + 1 + 2 ^ 64 * s.serving.nextStep := by
    unfold switchResult
    rw [hact.epoch, hact.nextStep, getSlot_advance, hepoch]
    rfl
  obtain ⟨t, he, honly, hanswered⟩ := answers (c := .imageSwitch h slot) (v := switchDone (advance s h.time) slot)
    (st := stSuccess) (r := switchResult (switchDone (advance s h.time) slot) slot) (d := []) rfl ha ht
    (decide_eq_false (Nat.not_le.mpr hslot))
    ((if_neg (not_not.mpr hready)).trans ((if_neg (ne_true_of_eq_false hdue)).trans ((if_neg hfree).trans (if_pos ho))))
    hact.mailbox
  have himages := honly .images (by decide)
  rw [hresult] at hanswered
  refine ⟨t, he, ?_, ?_, ?_, ?_, hanswered⟩
  · rw [getSlot_of_images himages]; exact hact.state
  · rw [getSlot_of_images himages, hact.epoch]; exact congrArg (· + 1) hepoch
  · exact ((congrArg Images.epoch himages).trans hact.moduleEpoch).trans (congrArg (· + 1) hepoch)
  · rw [getSlot_of_images himages, hact.other, getSlot_putSlot, getSlot_advance]

/-! ## FIRST_ACTIVATION_FILL (R190, R202) -/

/-- A slot that is resident; the variants in force are owed where a chunk of theirs is missing (R222). -/
def filledSlot (v : Slot) : Slot :=
  { v with
    permille := 1000, filled := true, streaming := false, reloadDue := false,
    owed := if sectionMissing v [3, 5] then v.inForce else [] }

theorem fillPlacement_getSlot {s : State} {n : Nat} {b : FolioBody} (hb : (getSlot s n).body = some b) :
    getSlot (fillPlacement s n) n = filledSlot (getSlot s n) := by
  unfold fillPlacement
  rw [hb]
  dsimp only
  generalize hw : b.clusters.foldl _ s = w
  have himages : w.images = s.images := by
    rw [← hw]
    exact fillClusters_images s n b b.clusters
  have hres : getSlot (nowResident w n) n =
      { getSlot s n with permille := 1000, filled := true, streaming := false, reloadDue := false, owed := [] } := by
    unfold nowResident
    rw [getSlot_putSlot, getSlot_of_images himages]
  have hmissing : sectionMissing (getSlot (nowResident w n) n) [3, 5] = sectionMissing (getSlot s n) [3, 5] := by
    rw [hres]
    rfl
  unfold standInAll filledSlot
  dsimp only
  rw [hmissing]
  split
  · rw [getSlot_putSlot, hres]
  · rw [getSlot_of_images (moveTables_images _ _ _ _), hres]

/-- The state in which a first activation's fill has ended. -/
def activationFilled (s : State) (n : Nat) (b : FolioBody) : State :=
  let t := fillPlacement (setRoutes s n b) n
  coFill { t with images := { t.images with activating := none } } (1 - n)

theorem activationFilled_mailbox (s : State) (n : Nat) (b : FolioBody) : (activationFilled s n b).mailbox = s.mailbox :=
  ((coFill_held (held_self [.serving, .images, .fabric] _) (by rfl)).only .mailbox (by decide)).trans
    ((fillPlacement_held (held_self [.serving, .images, .fabric] (setRoutes s n b)) (by rfl)).only .mailbox (by decide))

theorem activationFilled_nextStep (s : State) (n : Nat) (b : FolioBody) :
    (activationFilled s n b).serving.nextStep = s.serving.nextStep :=
  (coFill_fillKept _ _).nextStep.trans (fillPlacement_fillKept (setRoutes s n b) n).nextStep

theorem activationFilled_getSlot {s : State} {n : Nat} {b : FolioBody} (hb : (getSlot s n).body = some b) :
    getSlot (activationFilled s n b) n = filledSlot (getSlot s n) :=
  ((coFill_keeps offResidency_noView _ _).others n (ne_other n)).trans (fillPlacement_getSlot (s := setRoutes s n b) hb)

theorem activationFilled_activating (s : State) (n : Nat) (b : FolioBody) : (activationFilled s n b).images.activating = none :=
  (coFill_keeps offResidency_noView _ _).field Images.activating

theorem exec_firstActivationFill (time : Nat) {n : Nat} {b : FolioBody} {s : State} (hact : s.images.activating = some n)
    (hchunks : sectionMissing (getSlot s n) [1, 5, 6, 7] = false) (hb : (getSlot s n).body = some b) :
    exec (.firstActivationFill time false) s = .next (completeStarted (activationFilled (advance s time) n b) 0x0503 n stSuccess
      (switchResult (activationFilled (advance s time) n b) n)) := by
  have hact' : (advance s time).images.activating = some n := hact
  show execFirstActivationFill time false s = _
  unfold execFirstActivationFill
  dsimp only
  rw [hact']
  dsimp only
  rw [if_neg Bool.false_ne_true, getSlot_advance, if_neg (ne_true_of_eq_false hchunks), hb]
  rfl

theorem firstActivationFill_ends (time n : Nat) (s : State) (hact : s.images.activating = some n)
    (hchunks : sectionMissing (getSlot s n) [1, 5, 6, 7] = false) (hbody : (getSlot s n).body.isSome = true) :
    ∃ t, exec (.firstActivationFill time false) s = .next t ∧ t.images.activating = none ∧
      getSlot t n = filledSlot (getSlot s n) ∧
      Ended s t 0x0503 n stSuccess ((getSlot s n).epoch + 2 ^ 64 * s.serving.nextStep) := by
  obtain ⟨b, hb⟩ := Option.isSome_iff_exists.mp hbody
  have hslot := activationFilled_getSlot (s := advance s time) hb
  have hresult : switchResult (activationFilled (advance s time) n b) n = (getSlot s n).epoch + 2 ^ 64 * s.serving.nextStep := by
    unfold switchResult
    rw [hslot, activationFilled_nextStep]
    rfl
  obtain ⟨t, he, honly, hended⟩ := ends (exec_firstActivationFill time hact hchunks hb)
    (activationFilled_mailbox (advance s time) n b) (by decide)
  have himages := honly .images (by decide)
  rw [hresult] at hended
  exact ⟨t, he, (congrArg Images.activating himages).trans (activationFilled_activating _ _ _),
    (getSlot_of_images himages n).trans hslot, hended⟩

/-! ## The migration (R210, R213) -/

/-- Nothing of the old slot counts as resident, and the migration is under way. -/
def migrating (s : State) (old : Nat) : State :=
  let t := putSlot s old { getSlot s old with permille := 0, filled := false }
  { t with images := { t.images with migrating := true, migrated := [] } }

/-- The old slot's halves are freed, and the new slot's routes set. -/
def halvesFreed (s : State) (old new : Nat) : State :=
  match (getSlot (dropHalves s old) new).body with
  | some b => setRoutes (dropHalves s old) new b
  | none => dropHalves s old

theorem halvesFreed_images (s : State) (old new : Nat) : (halvesFreed s old new).images = s.images := by
  unfold halvesFreed
  split
  · exact dropHalves_images s old
  · exact dropHalves_images s old

theorem exec_migrationStart (time : Nat) {old new : Nat} {s : State} (hswitch : s.images.switching = some (old, new))
    (hidle : s.images.migrating = false) (hturns : turnsOn s old = 0) (hsteps : ∀ st ∈ s.serving.steps, st.slot ≠ old)
    (hdrain : drainHolds s old = false) (hchunks : sectionMissing (getSlot s new) [1, 5] = false) :
    exec (.migrationStart time) s = .next (migrating (halvesFreed (advance s time) old new) old) := by
  have hswitch' : (advance s time).images.switching = some (old, new) := hswitch
  have hsteps' : s.serving.steps.any (fun st => st.slot == old) = false := by
    rw [List.any_eq_false]
    exact fun st hst hold => hsteps st hst (beq_iff_eq.mp hold)
  have hready : ((advance s time).images.migrating || turnsOn (advance s time) old != 0 ||
      (advance s time).serving.steps.any (fun st => st.slot == old) || drainHolds (advance s time) old ||
      sectionMissing (getSlot (advance s time) new) [1, 5]) = false := by
    show (s.images.migrating || turnsOn s old != 0 || s.serving.steps.any (fun st => st.slot == old) || drainHolds s old ||
      sectionMissing (getSlot s new) [1, 5]) = false
    rw [hidle, hturns, hsteps', hdrain, hchunks]
    rfl
  show execMigrationStart time s = _
  unfold execMigrationStart
  dsimp only
  rw [hswitch']
  dsimp only
  rw [if_neg (ne_true_of_eq_false hready)]
  rfl

theorem migrationStart_starts (time old new : Nat) (s : State) (hswitch : s.images.switching = some (old, new))
    (hidle : s.images.migrating = false) (hturns : turnsOn s old = 0) (hsteps : ∀ st ∈ s.serving.steps, st.slot ≠ old)
    (hdrain : drainHolds s old = false) (hchunks : sectionMissing (getSlot s new) [1, 5] = false) :
    ∃ t, exec (.migrationStart time) s = .next t ∧ t.images.migrating = true ∧ t.images.migrated = [] ∧
      t.images.switching = some (old, new) ∧ getSlot t old = { getSlot s old with permille := 0, filled := false } := by
  have himages : (halvesFreed (advance s time) old new).images = s.images := halvesFreed_images _ _ _
  have hput : (putSlot (halvesFreed (advance s time) old new) old
      { getSlot (halvesFreed (advance s time) old new) old with permille := 0, filled := false }).images.switching =
      (halvesFreed (advance s time) old new).images.switching := (putSlot_noView _ _ _).field Images.switching
  refine ⟨_, exec_migrationStart time hswitch hidle hturns hsteps hdrain hchunks, rfl, rfl, ?_, ?_⟩
  · rw [himages] at hput
    exact hput.trans hswitch
  · refine (getSlot_putSlot (halvesFreed (advance s time) old new) old _).trans ?_
    rw [getSlot_of_images himages]

/-- An island has taken its part of the new placement, in resident form, and gives up the streaming form (R210). -/
def partWritten (s : State) (new unit : Nat) (load : DmaLoad) (b : FolioBody) : State :=
  match b.clusters.find? (fun p => p.unit == unit) with
  | some p =>
    let half := residentHalf (getIsland s unit) new
    let t := countLoad (fillCluster s new half b p) unit 16 [] load
    putIsland t unit (putHalf (getIsland t unit) (1 - half) none)
  | none => s

theorem partWritten_images (s : State) (new unit : Nat) (load : DmaLoad) (b : FolioBody) :
    (partWritten s new unit load b).images = s.images := by
  unfold partWritten
  split
  · exact (putIsland_held (countLoad_held (fillCluster_held (held_self [.serving, .fabric] s) (by rfl)) (by rfl)) (by rfl)).only
      .images (by decide)
  · rfl

/-- An island is counted among those that hold their part, and the share that is resident with it (R199, log entry 42). -/
def partCounted (s : State) (new : Nat) (f : FolioHead) (b : FolioBody) (m : List Nat) : State :=
  let t := putSlot s new { getSlot s new with permille := residentShare f b m }
  { t with images := { t.images with migrated := m } }

/-- The clusters that a migration to a placement has to write. -/
def liveFootprint (s : State) (b : FolioBody) : List Nat := (footprint b).filter (clusterGood s)

theorem exec_migrationPartDone (time : Nat) {unit old new : Nat} (load : DmaLoad) {f : FolioHead} {b : FolioBody} {s : State}
    (hswitch : s.images.switching = some (old, new)) (hhead : (getSlot s new).head = some f)
    (hb : (getSlot s new).body = some b) (hmigrating : s.images.migrating = true)
    (hlive : (liveFootprint s b).contains unit = true) (hnew : s.images.migrated.contains unit = false)
    (hnext : partNext s b unit = true) (hbetween : (getIsland s unit).desc = none)
    (hchunks : sectionMissing (getSlot s new) [1, 5] = false) :
    exec (.migrationPartDone time unit load) s = .next (
      if (liveFootprint s b).all (fun u => (s.images.migrated ++ [unit]).contains u) then
        endMigration (partWritten (advance s time) new unit load b) old new b
      else partCounted (partWritten (advance s time) new unit load b) new f b (s.images.migrated ++ [unit])) := by
  have hswitch' : (advance s time).images.switching = some (old, new) := hswitch
  have hdue : ((advance s time).images.migrating && ((footprint b).filter (clusterGood (advance s time))).contains unit &&
      !((advance s time).images.migrated.contains unit) && partNext (advance s time) b unit &&
      (getIsland (advance s time) unit).desc.isNone && !(sectionMissing (getSlot s new) [1, 5])) = true := by
    show (s.images.migrating && (liveFootprint s b).contains unit && !(s.images.migrated.contains unit) && partNext s b unit &&
      (getIsland s unit).desc.isNone && !(sectionMissing (getSlot s new) [1, 5])) = true
    rw [hmigrating, hlive, hnew, hnext, hbetween, hchunks]
    rfl
  have hmigrated : (partWritten (advance s time) new unit load b).images.migrated = s.images.migrated :=
    congrArg Images.migrated (partWritten_images _ _ _ _ _)
  show execMigrationPartDone time unit load s = _
  unfold execMigrationPartDone
  dsimp only
  rw [hswitch']
  dsimp only
  rw [getSlot_advance, hhead, hb]
  dsimp only
  rw [if_pos hdue, ← hmigrated]
  rfl

/-- Whether a slot is resident, and in streaming form. -/
def residencyView (v : Slot) : Nat × Bool := (v.permille, v.streaming)

theorem endMigration_images (s : State) {old new : Nat} (b : FolioBody) (hold : old = 1 - new) :
    (endMigration s old new b).images.switching = none ∧ (endMigration s old new b).images.migrating = false ∧
      (getSlot (endMigration s old new b) new).permille = 1000 ∧ (getSlot (endMigration s old new b) new).streaming = false := by
  subst hold
  unfold endMigration
  extract_lets images s1 s2 v s3
  have hres : residencyView (getSlot s1 new) = (1000, false) := congrArg residencyView (getSlot_putSlot _ new _)
  have h1 : s1.images.switching = none ∧ s1.images.migrating = false :=
    ⟨(putSlot_noView _ _ _).field Images.switching, (putSlot_noView _ _ _).field Images.migrating⟩
  have h2 : SlotsKeep residencyView s1 s2 := (standInAll_keeps (fun _ _ => rfl) s1 new b).toSlotsKeep
  have h3 : SlotKeeps (1 - new) (fun _ => ()) s2 s3 :=
    .ite (.refl s2) ((putSlot_noView _ _ _).trans (streamSlot_keeps offResidency_noView _ _))
  have h4 : SlotKeeps (1 - new) (fun _ => ()) s2 (coFill (notIdle s3) (1 - new)) :=
    (h3.then_images (r := notIdle s3) rfl).trans (coFill_keeps offResidency_noView _ _)
  have h5 := prepareAllFailed_keeps (f := residencyView)
    ⟨⟨fun _ _ => rfl⟩, fun _ _ _ => rfl, fun _ _ _ => rfl, fun _ _ => rfl, fun _ _ => rfl⟩ (coFill (notIdle s3) (1 - new))
  have hview := (h5.view new).trans ((congrArg residencyView (h4.others new (ne_other new))).trans ((h2.view new).trans hres))
  refine ⟨?_, ?_, congrArg Prod.fst hview, congrArg Prod.snd hview⟩
  · exact (h5.field Images.switching).trans ((h4.field Images.switching).trans ((h2.field Images.switching).trans h1.1))
  · exact (h5.field Images.migrating).trans ((h4.field Images.migrating).trans ((h2.field Images.migrating).trans h1.2))

theorem partCounted_images (s : State) (new : Nat) (f : FolioHead) (b : FolioBody) (m : List Nat) :
    (partCounted s new f b m).images.switching = s.images.switching ∧ (partCounted s new f b m).images.migrated = m ∧
      (getSlot (partCounted s new f b m) new).permille = residentShare f b m :=
  ⟨(putSlot_noView _ _ _).field Images.switching, rfl,
    congrArg Slot.permille (getSlot_putSlot s new { getSlot s new with permille := residentShare f b m })⟩

theorem migrationPartDone_counts (time unit old new : Nat) (load : DmaLoad) (f : FolioHead) (b : FolioBody) (s : State)
    (hswitch : s.images.switching = some (old, new)) (hold : old = 1 - new) (hhead : (getSlot s new).head = some f)
    (hb : (getSlot s new).body = some b) (hmigrating : s.images.migrating = true)
    (hlive : (liveFootprint s b).contains unit = true) (hnew : s.images.migrated.contains unit = false)
    (hnext : partNext s b unit = true) (hbetween : (getIsland s unit).desc = none)
    (hchunks : sectionMissing (getSlot s new) [1, 5] = false) :
    ∃ t, exec (.migrationPartDone time unit load) s = .next t ∧
      (if (liveFootprint s b).all (fun u => (s.images.migrated ++ [unit]).contains u) then
        t.images.switching = none ∧ t.images.migrating = false ∧ (getSlot t new).permille = 1000 ∧
          (getSlot t new).streaming = false
       else
        t.images.switching = some (old, new) ∧ t.images.migrated = s.images.migrated ++ [unit] ∧
          (getSlot t new).permille = residentShare f b (s.images.migrated ++ [unit])) := by
  refine ⟨_, exec_migrationPartDone time load hswitch hhead hb hmigrating hlive hnew hnext hbetween hchunks, ?_⟩
  split
  · exact endMigration_images _ b hold
  · obtain ⟨hs, hm, hp⟩ := partCounted_images (partWritten (advance s time) new unit load b) new f b (s.images.migrated ++ [unit])
    exact ⟨hs.trans ((congrArg Images.switching (partWritten_images _ _ _ _ _)).trans hswitch), hm, hp⟩

/-! ## SLOT_DRAINED (R198, R212) -/

/-- A drained slot is READY again; what follows keeps all of the slot but what is filled of it. -/
theorem exec_slotDrained (time : Nat) {slot : Nat} {s : State} (hslot : slot < 2) (hdrain : (getSlot s slot).state = .draining)
    (hturns : turnsOn s slot = 0) (hsessions : sessionsOn s slot = 0) {α : Type} {f : Slot → α} (hf : OffResidency f) :
    ∃ t, exec (.slotDrained time slot) s = .next t ∧
      SlotKeeps slot f (putSlot (advance s time) slot { getSlot s slot with state := .ready }) t := by
  show ∃ t, execSlotDrained time slot s = .next t ∧ _
  unfold execSlotDrained
  dsimp only
  rw [getSlot_advance, if_pos ⟨hslot, hdrain, hturns, hsessions⟩]
  refine ⟨_, rfl, ?_⟩
  refine .ite (.refl _) (SlotKeeps.trans (.of_images (dropHalves_images _ slot)) (SlotKeeps.trans ?_ (coFill_keeps hf _ slot)))
  exact putSlot_keeps (hf.resident _ _ _ _ _ _)

theorem slotDrained_readies (time slot : Nat) (s : State) (hslot : slot < 2) (hdrain : (getSlot s slot).state = .draining)
    (hturns : turnsOn s slot = 0) (hsessions : sessionsOn s slot = 0) :
    ∃ t, exec (.slotDrained time slot) s = .next t ∧ (getSlot t slot).state = .ready ∧
      (getSlot t slot).head = (getSlot s slot).head ∧ getSlot t (1 - slot) = getSlot s (1 - slot) := by
  obtain ⟨t, he, hk⟩ := exec_slotDrained time hslot hdrain hturns hsessions
    (f := fun v => (v.state, v.head)) ⟨fun _ _ _ _ _ _ => rfl, fun _ _ => rfl⟩
  have hview := (hk.view slot).trans (congrArg (fun v : Slot => (v.state, v.head)) (getSlot_putSlot _ slot _))
  exact ⟨t, he, congrArg Prod.fst hview, congrArg Prod.snd hview,
    (hk.others _ (other_ne slot)).trans (getSlot_putSlot_other _ _ _)⟩

/-- Settles O18: the switch by whether a handover is due and what stands in the other slot, then the fill, the migration's rows and
the end of draining. -/
theorem imagesSwitch : Obligations.ImagesSwitch := by
  unfold Obligations.ImagesSwitch
  exact ⟨fun h slot b s ha hslot hready hb =>
      ⟨imageSwitch_waits ha hslot hready, imageSwitch_activates ha hslot hready hb, imageSwitch_switches ha hslot hready hb⟩,
    firstActivationFill_ends, migrationStart_starts,
    fun time unit old new load f b s hswitch _ => migrationPartDone_counts time unit old new load f b s hswitch,
    slotDrained_readies⟩

end Sys2Proof.Proofs

namespace Sys2Proof.Proofs

open Sys2Proof Sys2Proof.Machine Sys2Proof.Laws

/-! ## FOLIO_EXPORT and FOLIO_EXPORT_END (R203, R206) -/

/-- A slot begins to be exported, with a new generation. -/
def exportBegun (s : State) (slot peer : Nat) : State :=
  { s with images := { s.images with exported := {
    slot := some slot, peer := peer, generation := s.images.exported.count + 1, count := s.images.exported.count + 1, bank := 0 } } }

theorem folioExport_begins (h : Hdr) (slot peer : Nat) (f : FolioHead) (s : State) (ha : Accepted s h opFolioExport)
    (ht : OnTime s h) (hslot : slot < 2) (hpeer : peer ≤ 0xFFFF) (hhead : (getSlot s slot).head = some f)
    (hloaded : (getSlot s slot).state = .ready ∨ (getSlot s slot).state = .active ∨ (getSlot s slot).state = .draining)
    (hwindow : s.link.exportEnable = true) (hmem : s.link.memSpace = true) (hwrap : folioWrapped f = false)
    (hwhole : (getSlot s slot).degraded = false) (hother : s.images.exported.slot ≠ some (1 - slot)) :
    ∃ t, exec (.folioExport h slot peer) s = .next t ∧
      t.images.exported =
        { slot := some slot, peer := peer, generation := s.images.exported.count + 1,
          count := s.images.exported.count + 1, bank := 0 } ∧
      getSlot t slot = getSlot s slot ∧
      Answered s t h stSuccess (s.images.exported.count + 1 + 2 ^ 32 * fileFrames f) [] := by
  have hin : (decide (2 ≤ slot) || decide (0xFFFF < peer)) = false := by
    rw [decide_eq_false (Nat.not_le.mpr hslot), decide_eq_false (Nat.not_lt.mpr hpeer)]
    rfl
  have hstands : ¬ ((getSlot s slot).state ≠ .ready ∧ (getSlot s slot).state ≠ .active ∧ (getSlot s slot).state ≠ .draining) := by
    rintro ⟨hr, ha, hd⟩
    exact hloaded.elim hr (fun h => h.elim ha hd)
  have hopen : ¬ (s.link.exportEnable = false ∨ s.link.memSpace = false ∨ folioWrapped f = true ∨
      (getSlot s slot).degraded = true ∨ s.images.exported.slot = some (1 - slot)) := by
    rw [hwindow, hmem, hwrap, hwhole]
    simp [hother]
  obtain ⟨t, he, honly, hanswered⟩ := answers (c := .folioExport h slot peer) (v := exportBegun (advance s h.time) slot peer)
    (st := stSuccess) (r := s.images.exported.count + 1 + 2 ^ 32 * fileFrames f) (d := []) rfl ha ht hin
    (by
      dsimp only
      rw [getSlot_advance, hhead]
      exact (if_neg hstands).trans (if_neg hopen)) rfl
  have himages := honly .images (by decide)
  exact ⟨t, he, congrArg Images.exported himages, getSlot_of_images himages slot, hanswered⟩

theorem folioExportEnd_ends (h : Hdr) (s : State) (ha : Accepted s h opFolioExportEnd) (ht : OnTime s h)
    (hexported : s.images.exported.slot.isSome = true) :
    ∃ t, exec (.folioExportEnd h) s = .next t ∧ t.images.exported = { count := s.images.exported.count } ∧
      Answered s t h stSuccess 0 [] := by
  have hsome : ¬ s.images.exported.slot.isNone = true := by
    rw [← Option.not_isSome, hexported]
    exact Bool.false_ne_true
  obtain ⟨t, he, honly, hanswered⟩ := answers (c := .folioExportEnd h) (v := endExport (advance s h.time))
    (st := stSuccess) (r := 0) (d := []) rfl ha ht rfl (if_neg hsome) rfl
  exact ⟨t, he, congrArg Images.exported (honly .images (by decide)), hanswered⟩

/-! ## COMPAT_SWAP (R218, R219) -/

/-- The range list of COMPAT_SWAP is aligned, and of a length that it takes (R337). -/
structure ListInRange (list : Nat × Nat) : Prop where
  aligned : list.1 % 4 = 0
  whole : list.2 % 16 = 0
  least : 16 ≤ list.2
  most : list.2 ≤ 65536

/-- A header whose range list is in range is as it was. -/
theorem header_of_listInRange (h : Hdr) {list : Nat × Nat} (hl : ListInRange list) :
    ({ h with dataBad := (h.dataBad || decide (list.1 % 4 ≠ 0) || decide (list.2 % 16 ≠ 0) || decide (list.2 < 16) ||
      decide (65536 < list.2)) } : Hdr) = h := by
  rw [decide_eq_false (not_not.mpr hl.aligned), decide_eq_false (not_not.mpr hl.whole),
    decide_eq_false (Nat.not_lt.mpr hl.least), decide_eq_false (Nat.not_lt.mpr hl.most)]
  simp only [Bool.or_false]

/-- The first ACTIVE slot. -/
theorem firstActive_eq {s : State} {n : Nat} (hn : n < 2) (hactive : (getSlot s n).state = .active)
    (hfirst : n = 1 → s.images.a.state ≠ .active) :
    (if s.images.a.state = .active then some 0 else if s.images.b.state = .active then some 1 else none) = some n := by
  obtain rfl | rfl : n = 0 ∨ n = 1 := by omega
  · exact if_pos hactive
  · exact (if_neg (hfirst rfl)).trans (if_pos hactive)

/-- What the module keeps of a swap that begins. -/
def swapRecord (s : State) (f g : FolioHead) (body b : FolioBody) (list : Nat × Nat) : Compat :=
  { head := f, body := body, oldHead := g, oldBody := b, oldList := list, inForce := (fitVariants s body).getD [],
    contentKey := openKey s f }

/-- The slot stands COMPAT at the next epoch, no longer exported, and the swap is under way. -/
def compatBegun (s : State) (n : Nat) (c : Compat) : State :=
  let t := putSlot (if s.images.exported.slot = some n then endExport s else s) n
    { getSlot s n with state := .compat, epoch := s.images.epoch + 1 }
  { t with images := { t.images with epoch := s.images.epoch + 1, compat := some c } }

theorem compatBegun_getSlot (s : State) (n : Nat) (c : Compat) :
    getSlot (compatBegun s n c) n = { getSlot s n with state := .compat, epoch := s.images.epoch + 1 } :=
  getSlot_putSlot (if s.images.exported.slot = some n then endExport s else s) n _

/-- The record of a swap does not depend on the slots or on what is exported. -/
theorem swapRecord_putSlot (s : State) (n : Nat) (v : Slot) (f g : FolioHead) (body b : FolioBody) (list : Nat × Nat) :
    swapRecord (putSlot (if s.images.exported.slot = some n then endExport s else s) n v) f g body b list =
      swapRecord s f g body b list := by
  split <;> rfl

/-- What COMPAT_SWAP asks of the slot that it swaps and of the new Folio, with its chunks. -/
structure Swappable (s : State) (n : Nat) (f g : FolioHead) (chunks : List (List Byte)) (body b : FolioBody) : Prop where
  inRange : n < 2
  active : (getSlot s n).state = .active
  first : n = 1 → s.images.a.state ≠ .active
  head : (getSlot s n).head = some g
  body_ : (getSlot s n).body = some b
  alone : (getSlot s (1 - n)).state ≠ .draining
  untimed : timedUnfinished s = false
  headPasses : headRefusal s (slotCapacity s.vellum.layout n) f = none
  compat : folioCompat f = true
  shape : f.shapeId = g.shapeId
  count : f.chunkCount = g.chunkCount
  bytes : f.chunkBase + f.chunkCount * 4194304 ≤ f.sourceBytes
  leaves : leavesOf chunks = f.tree.take f.chunkCount
  bodyPasses : bodyRefusal s f body = none

theorem exec_compatSwap {h : Hdr} {f g : FolioHead} {chunks : List (List Byte)} {list : Nat × Nat} {body b : FolioBody} {n : Nat}
    {s : State} (ha : Accepted s h opCompatSwap) (hl : ListInRange list) (hs : Swappable s n f g chunks body b) :
    ∃ w, exec (.compatSwap h ⟨f, chunks⟩ ⟨body, list⟩) s = .next (startLater w h opCompatSwap n) ∧
      w.images = (compatBegun (advance s h.time) n (swapRecord s f g body b list)).images := by
  have hfirst := firstActive_eq (s := advance s h.time) hs.inRange hs.active hs.first
  have hfree : ¬ ((getSlot (advance s h.time) (1 - n)).state = .draining ∨ timedUnfinished (advance s h.time) = true) :=
    fun hb => hb.elim hs.alone (ne_true_of_eq_false hs.untimed)
  have hpass : headRefusal (advance s h.time) (slotCapacity (advance s h.time).vellum.layout n) f = none := hs.headPasses
  have hshape : ¬ (folioCompat f = false ∨ f.shapeId ≠ g.shapeId ∨ f.chunkCount ≠ g.chunkCount) := by
    simp [hs.compat, hs.shape, hs.count]
  have hbody : bodyRefusal (advance s h.time) f body = none := hs.bodyPasses
  have hrecord := swapRecord_putSlot (advance s h.time) n
    { getSlot s n with state := .compat, epoch := s.images.epoch + 1 } f g body b list
  show ∃ w, execCompatSwap h ⟨f, chunks⟩ ⟨body, list⟩ s = _ ∧ _
  unfold execCompatSwap
  extract_lets list' body' h'
  have hh : h' = h := header_of_listInRange h hl
  rw [hh, runCommand_accepted ha rfl, hfirst]
  extract_lets refuseFor epoch
  dsimp -zeta only
  extract_lets v
  rw [show v.head = some g from hs.head, show v.body = some b from hs.body_]
  dsimp -zeta only
  rw [if_neg hfree, hpass]
  dsimp -zeta only
  rw [if_neg hshape, if_neg (Nat.not_lt.mpr hs.bytes), if_pos hs.leaves, show bodyRefusal (advance s h.time) f body' = none from hbody]
  refine ⟨_, rfl, ?_⟩
  show _ = (compatBegun (advance s h.time) n (swapRecord (advance s h.time) f g body b list)).images
  rw [← hrecord]
  rfl

theorem compatSwap_starts (h : Hdr) (f g : FolioHead) (chunks : List (List Byte)) (list : Nat × Nat) (body b : FolioBody) (n : Nat)
    (s : State) (ha : Accepted s h opCompatSwap) (hl : ListInRange list) (hs : Swappable s n f g chunks body b) :
    ∃ t, exec (.compatSwap h ⟨f, chunks⟩ ⟨body, list⟩) s = .next t ∧
      getSlot t n = { getSlot s n with state := .compat, epoch := s.images.epoch + 1 } ∧
      t.images.epoch = s.images.epoch + 1 ∧ t.images.compat = some (swapRecord s f g body b list) ∧
      Started t h opCompatSwap n := by
  obtain ⟨w, he, hw⟩ := exec_compatSwap ha hl hs
  have himages := (startLater_only w h opCompatSwap n .images (by decide)).trans hw
  exact ⟨_, he, (getSlot_of_images himages n).trans (compatBegun_getSlot _ _ _), congrArg Images.epoch himages,
    congrArg Images.compat himages, startLater_started w h opCompatSwap n⟩

/-! ## COMPAT_LAYER_REWRITE (R219) -/

/-- The next part of a swap is counted, and rewritten to the new image, with its layer's seats and cold copies. -/
def partRewritten (s : State) (n : Nat) (c : Compat) (layer : Nat) : State :=
  let t := { s with images := { s.images with compat := some { c with layersDone := c.layersDone ++ [layer] } } }
  rewritePart (swapLayer t n c.body layer) n c.body c.inForce layer

theorem partRewritten_keeps {α : Type} {f : Slot → α} (hf : OffLayers f) (s : State) (n : Nat) (c : Compat) (layer : Nat) :
    SlotKeeps n f { s with images := { s.images with compat := some { c with layersDone := c.layersDone ++ [layer] } } }
      (partRewritten s n c layer) :=
  (swapLayer_keeps hf _ n c.body layer).then_images
    ((rewritePart_held (held_self [.serving, .fabric] _) (by rfl)).only .images (by decide))

theorem partRewritten_held (s : State) (n : Nat) (c : Compat) (layer : Nat) :
    Held [.serving, .images, .vellum, .fabric]
      { s with images := { s.images with compat := some { c with layersDone := c.layersDone ++ [layer] } } }
      (partRewritten s n c layer) :=
  rewritePart_held (swapLayer_held (held_self _ _) (by rfl)) (by rfl)

/-- The rewriting of a part begins and ends no gate. -/
theorem partRewritten_gates (s : State) (n : Nat) (c : Compat) (layer : Nat) :
    IslandsKeep Island.gate s (partRewritten s n c layer) := by
  have hfabric := (swapLayer_held (held_self [.images, .vellum]
    { s with images := { s.images with compat := some { c with layersDone := c.layersDone ++ [layer] } } }) (by rfl)
    (n := n) (b := c.body) (l := layer)).only .fabric (by decide)
  exact (islandsKeep_of_islands (congrArg Fabric.islands hfabric)).trans
    (rewritePart_fillKept _ n c.body c.inForce layer).gates

/-- The slot as the end of a swap leaves it: the new image is ACTIVE in it. -/
def swappedSlot (v w : Slot) (c : Compat) : Slot :=
  { w with
    state := .active, head := some c.head, body := some c.body, contentKey := c.contentKey,
    residencyEpoch := v.residencyEpoch + 1, layers := initialLayers c.body w.layers,
    stencils := c.body.stencils.foldl (fun t x => tins t x.1 x.2) v.stencils, fromPeer := none, inForce := c.inForce }

/-- The new image stands ACTIVE in the slot, with its routes, and the swap is over. -/
def imageSwapped (s : State) (n : Nat) (v : Slot) (c : Compat) : State :=
  let t := putSlot s n (swappedSlot v (getSlot s n) c)
  placementLoaded (setRoutes { t with images := { t.images with compat := none } } n c.body)

/-- What waited for the swap goes on: islands of the last part, a CO_PLACE Folio beside it, and failed cartridges. -/
def swapReleased (s : State) (n : Nat) (us : List Nat) : State := prepareAllFailed (coFill (wakePart s us) (1 - n))

theorem exec_compatLayerRewrite (time : Nat) {layer : Nat} {c : Compat} {s : State} (hc : s.images.compat = some c)
    (hnext : (c.body.layers.map (·.layer) ++ [64])[c.layersDone.length]? = some layer)
    (hold : oldEpochIn s (compatSlot s) (partUnits c.body c.inForce layer) = false)
    (hmissing : (getSlot s (compatSlot s)).missing = []) :
    exec (.compatLayerRewrite time layer false) s = .next (
      let n := compatSlot s
      let t := partRewritten (advance s time) n c layer
      if layer = 64 then
        completeStarted (swapReleased (imageSwapped t n (getSlot s n) c) n (partUnits c.body c.inForce layer)) 0x0508 n stSuccess
          (2 ^ 32 * (getSlot s n).epoch)
      else wakePart t (partUnits c.body c.inForce layer)) := by
  have hc' : (advance s time).images.compat = some c := hc
  have hdue : (oldEpochIn (advance s time) (compatSlot (advance s time)) (partUnits c.body c.inForce layer) ||
      !((getSlot (advance s time) (compatSlot (advance s time))).missing.isEmpty)) = false := by
    show (oldEpochIn s (compatSlot s) (partUnits c.body c.inForce layer) ||
      !((getSlot s (compatSlot s)).missing.isEmpty)) = false
    rw [hold, hmissing]
    rfl
  show execCompatLayerRewrite time layer false s = _
  unfold execCompatLayerRewrite
  extract_lets t
  rw [show t.images.compat = some c from hc']
  exact congrArg Host.Outcome.next
    ((if_pos hnext).trans ((if_neg Bool.false_ne_true).trans (if_neg (ne_true_of_eq_false hdue))))

/-! ### What waited in a part (R219) -/

theorem wakeIsland_ungated {s : State} {u : Nat} (h : (getIsland s u).gate = none) : wakeIsland s u = s := by
  unfold wakeIsland
  dsimp only
  split
  · exact if_neg (by simp [h])
  · rfl

theorem resume_ungated {s : State} {u : Nat} (h : (getIsland s u).gate = none) (cycles : Nat) : resume s u cycles = s := by
  unfold resume
  dsimp only
  rw [h]
  split <;> rfl

/-- Where no island of a part is gated, nothing waits in it: free values are drawn, and no more. -/
theorem wakePart_ungated {us : List Nat} {s : State} (h : ∀ u ∈ us, (getIsland s u).gate = none) :
    Only [.free] s (wakePart s us) := by
  induction us generalizing s with
  | nil => exact Only.refl _ s
  | cons u us ih =>
    obtain ⟨hu, hus⟩ := List.forall_mem_cons.mp h
    have hstep : wakePart s (u :: us) = wakePart (drewFree s) us := by
      unfold wakePart
      rw [List.foldl_cons, wakeIsland_ungated hu, resume_ungated (s := drewFree s) hu]
    have hdrew : Only [.free] s (drewFree s) := (drewFree_held (held_self [.free] s) (by rfl)).only
    rw [hstep]
    exact Only.trans hdrew (ih (s := drewFree s) hus)

/-- With no failed cartridge there is nothing to prepare (R378). -/
theorem prepareAllFailed_eq_self {s : State} (h : ∀ k < 20, (getCart s k).phasesLost < 8) : prepareAllFailed s = s := by
  have hall : ∀ l : List Nat, (∀ k ∈ l, k < 20) → l.foldl prepareFailed s = s := by
    intro l
    induction l with
    | nil => exact fun _ => rfl
    | cons k l ih =>
      intro hl
      obtain ⟨hk, hl'⟩ := List.forall_mem_cons.mp hl
      have hsound : cartFailed (getCart s k) = false := decide_eq_false (Nat.not_le.mpr (h k hk))
      have hstep : prepareFailed s k = s := by
        unfold prepareFailed
        dsimp only
        rw [hsound]
        rfl
      rw [List.foldl_cons, hstep]
      exact ih hl'
  exact hall _ fun _ => List.mem_range.mp

theorem imageSwapped_mailbox (s : State) (n : Nat) (v : Slot) (c : Compat) : (imageSwapped s n v c).mailbox = s.mailbox := rfl

theorem swapReleased_mailbox {s : State} {n : Nat} {us : List Nat} (hgates : ∀ u ∈ us, (getIsland s u).gate = none)
    (hcarts : ∀ k < 20, (getCart s k).phasesLost < 8) : (swapReleased s n us).mailbox = s.mailbox := by
  have hwake := wakePart_ungated hgates
  have hfill : Held [.serving, .images, .fabric] (wakePart s us) (coFill (wakePart s us) (1 - n)) :=
    coFill_held (held_self _ _) (by rfl)
  have hboard := (hfill.only .board (by decide)).trans (hwake .board (by decide))
  have hcarts' : ∀ k < 20, (getCart (coFill (wakePart s us) (1 - n)) k).phasesLost < 8 := by
    unfold getCart at *
    rw [hboard]
    exact hcarts
  unfold swapReleased
  rw [prepareAllFailed_eq_self hcarts']
  exact (hfill.only .mailbox (by decide)).trans (hwake .mailbox (by decide))

/-- So the end of a swap says nothing to the host before its command's answer. -/
theorem swapEnd_mailbox {s : State} (n : Nat) (c : Compat) (v : Slot) (layer : Nat) {us : List Nat}
    (hgates : ∀ u ∈ us, (getIsland s u).gate = none) (hcarts : ∀ k < 20, (getCart s k).phasesLost < 8) :
    (swapReleased (imageSwapped (partRewritten s n c layer) n v c) n us).mailbox = s.mailbox := by
  have hheld := partRewritten_held s n c layer
  have hboard : (partRewritten s n c layer).board = s.board := hheld.only .board (by decide)
  have hmailbox : (partRewritten s n c layer).mailbox = s.mailbox := hheld.only .mailbox (by decide)
  have hgates' : ∀ u ∈ us, (getIsland (imageSwapped (partRewritten s n c layer) n v c) u).gate = none := fun u hu =>
    (partRewritten_gates s n c layer u).trans (hgates u hu)
  have hcarts' : ∀ k < 20, (getCart (imageSwapped (partRewritten s n c layer) n v c) k).phasesLost < 8 := fun k hk => by
    show (tget {} (partRewritten s n c layer).board.cartridges k).phasesLost < 8
    rw [hboard]
    exact hcarts k hk
  rw [swapReleased_mailbox hgates' hcarts', imageSwapped_mailbox, hmailbox]

/-! ### The end of the swap -/

/-- What a slot serves: its state, its image, the image's content key, and its epoch. -/
def imageView (v : Slot) : SlotState × Option FolioHead × Option FolioBody × Option (BitVec 256) × Nat :=
  (v.state, v.head, v.body, v.contentKey, v.epoch)

theorem fields_of_imageView {v w : Slot} (h : imageView v = imageView w) :
    v.state = w.state ∧ v.head = w.head ∧ v.body = w.body ∧ v.contentKey = w.contentKey ∧ v.epoch = w.epoch := by
  simpa only [imageView, Prod.mk.injEq] using h

theorem wakePart_images (s : State) (us : List Nat) : (wakePart s us).images = s.images :=
  (wakePart_held (held_self [.free, .link, .mailbox, .serving, .fabric, .blotter, .mgmt] s) (by rfl)).only .images (by decide)

/-- What goes on after the swap, and its answer, keep the image of the slot and what is beside the slots. -/
theorem swapAnswered_image (s : State) (n : Nat) (us : List Nat) (result : Nat) :
    imageView (getSlot (completeStarted (swapReleased s n us) 0x0508 n stSuccess result) n) = imageView (getSlot s n) ∧
      (completeStarted (swapReleased s n us) 0x0508 n stSuccess result).images.compat = s.images.compat := by
  have hfill : SlotKeeps (1 - n) (fun _ => ()) s (coFill (wakePart s us) (1 - n)) :=
    (SlotKeeps.of_images (wakePart_images s us)).trans (coFill_keeps offResidency_noView _ _)
  have hprepare := prepareAllFailed_keeps (f := imageView)
    ⟨⟨fun _ _ => rfl⟩, fun _ _ _ => rfl, fun _ _ _ => rfl, fun _ _ => rfl, fun _ _ => rfl⟩ (coFill (wakePart s us) (1 - n))
  rw [getSlot_of_images (completeStarted_images _ _ _ _ _), completeStarted_images]
  unfold swapReleased
  exact ⟨(hprepare.view n).trans (congrArg imageView (hfill.others n (ne_other n))),
    (hprepare.field Images.compat).trans (hfill.field Images.compat)⟩

theorem imageSwapped_getSlot (s : State) (n : Nat) (v : Slot) (c : Compat) :
    getSlot (imageSwapped s n v c) n = swappedSlot v (getSlot s n) c := getSlot_putSlot s n _

theorem compatLayerRewrite_rewrites (time layer : Nat) (c : Compat) (s : State) (hc : s.images.compat = some c)
    (hnext : (c.body.layers.map (·.layer) ++ [64])[c.layersDone.length]? = some layer)
    (hold : oldEpochIn s (compatSlot s) (partUnits c.body c.inForce layer) = false)
    (hmissing : (getSlot s (compatSlot s)).missing = []) :
    ∃ t, exec (.compatLayerRewrite time layer false) s = .next t ∧
      (layer ≠ 64 → t.images.compat = some { c with layersDone := c.layersDone ++ [layer] } ∧
        getSlot t (1 - compatSlot s) = getSlot s (1 - compatSlot s)) ∧
      (layer = 64 → t.images.compat = none ∧ (getSlot t (compatSlot s)).state = .active ∧
        (getSlot t (compatSlot s)).head = some c.head ∧ (getSlot t (compatSlot s)).body = some c.body ∧
        (getSlot t (compatSlot s)).contentKey = c.contentKey ∧
        (getSlot t (compatSlot s)).epoch = (getSlot s (compatSlot s)).epoch ∧
        ((∀ u ∈ partUnits c.body c.inForce 64, (getIsland s u).gate = none) → (∀ k < 20, (getCart s k).phasesLost < 8) →
          Ended s t 0x0508 (compatSlot s) stSuccess (2 ^ 32 * (getSlot s (compatSlot s)).epoch))) := by
  have he := exec_compatLayerRewrite time hc hnext hold hmissing
  generalize compatSlot s = n at he ⊢
  have hkeeps : SlotKeeps n Slot.epoch _ (partRewritten (advance s time) n c layer) :=
    partRewritten_keeps ⟨⟨fun _ _ => rfl⟩, fun _ _ => rfl⟩ (advance s time) n c layer
  by_cases hlayer : layer = 64
  · subst hlayer
    rw [if_pos rfl] at he
    obtain ⟨hview, hcompat⟩ := swapAnswered_image (imageSwapped (partRewritten (advance s time) n c 64) n (getSlot s n) c) n
      (partUnits c.body c.inForce 64) (2 ^ 32 * (getSlot s n).epoch)
    obtain ⟨hstate, hhead, hbody, hkey, hepoch⟩ := fields_of_imageView (hview.trans (congrArg imageView
      (imageSwapped_getSlot (partRewritten (advance s time) n c 64) n (getSlot s n) c)))
    refine ⟨_, he, fun hne => absurd rfl hne, fun _ => ⟨hcompat, hstate, hhead, hbody, hkey, hepoch.trans (hkeeps.view n),
      fun hgates hcarts => ?_⟩⟩
    exact completeStarted_ended (swapEnd_mailbox (s := advance s time) n c (getSlot s n) 64 hgates hcarts) _ _ _ _ (by decide)
  · rw [if_neg hlayer] at he
    have himages := wakePart_images (partRewritten (advance s time) n c layer) (partUnits c.body c.inForce layer)
    exact ⟨_, he, fun _ => ⟨(congrArg Images.compat himages).trans (hkeeps.field Images.compat),
      (getSlot_of_images himages _).trans (hkeeps.others _ (other_ne n))⟩, fun h => absurd h hlayer⟩

/-- Settles O19: FOLIO_EXPORT and FOLIO_EXPORT_END; a swap begins on the first ACTIVE slot, and its parts follow in order, part 64 last. -/
theorem exportAndCompatSwap : Obligations.ExportAndCompatSwap := by
  unfold Obligations.ExportAndCompatSwap
  exact ⟨folioExport_begins, folioExportEnd_ends,
    fun h f g chunks list body b n s ha hn hal hwh hle hmo hac hfi hhd hbo hno hun hhp hco hsh hct hby hlv hbp =>
      compatSwap_starts h f g chunks list body b n s ha ⟨hal, hwh, hle, hmo⟩
        ⟨hn, hac, hfi, hhd, hbo, hno, hun, hhp, hco, hsh, hct, hby, hlv, hbp⟩,
    compatLayerRewrite_rewrites⟩

end Sys2Proof.Proofs

namespace Sys2Proof.Proofs

open Sys2Proof Sys2Proof.Machine Sys2Proof.Laws

/-! ## CHUNK_REFETCH (R220 to R222) -/

/-- A slot to which a lost chunk has come back, at its new place. -/
def chunkBack (v : Slot) (chunk : Nat) (d : Nat × Nat) : Slot :=
  let missing := v.missing.filter (fun c => c != chunk)
  { v with
    relocated := tins v.relocated chunk d, missing := missing, refetched := v.refetched + 1, tries := tput 0 v.tries chunk 0,
    degraded := v.degraded && !missing.isEmpty, hostConfirmed := v.hostConfirmed && !missing.isEmpty }

/-- The chunk is written at its place, and what waited for it goes on: cold copies, owed lists, a CO_PLACE Folio. -/
def chunkPlaced (s : State) (slot chunk : Nat) (d : Nat × Nat) : State :=
  coFill (coFill (payOwed (finishAreas (wroteChunk (putSlot s slot (chunkBack (getSlot s slot) chunk d)) slot chunk) slot) slot) 0) 1

/-- What a slot misses, where its relocated chunks are, and how many have come back. -/
def chunksView (v : Slot) : List Nat × Table (Nat × Nat) × Nat := (v.missing, v.relocated, v.refetched)

theorem chunkPlaced_view (s : State) (slot chunk : Nat) (d : Nat × Nat) :
    chunksView (getSlot (chunkPlaced s slot chunk d) slot) = chunksView (chunkBack (getSlot s slot) chunk d) := by
  have hresidency : OffResidency chunksView := ⟨fun _ _ _ _ _ _ => rfl, fun _ _ => rfl⟩
  let w := wroteChunk (putSlot s slot (chunkBack (getSlot s slot) chunk d)) slot chunk
  have hw : getSlot w slot = chunkBack (getSlot s slot) chunk d :=
    (getSlot_of_images (wroteChunk_images _ _ _) slot).trans (getSlot_putSlot _ _ _)
  have hpaid : SlotsKeep chunksView w (payOwed (finishAreas w slot) slot) :=
    ((finishAreas_keeps ⟨fun _ _ => rfl⟩ w slot).trans (payOwed_keeps hresidency _ slot)).toSlotsKeep
  have hfilled := (hpaid.trans (coFill_keeps hresidency _ 0).toSlotsKeep).trans (coFill_keeps hresidency _ 1).toSlotsKeep
  exact (hfilled.view slot).trans (congrArg chunksView hw)

theorem chunkPlaced_held {s z : State} (h : Held [.now, .serving, .images, .vellum, .fabric] z s) (slot chunk : Nat)
    (d : Nat × Nat) : Held [.now, .serving, .images, .vellum, .fabric] z (chunkPlaced s slot chunk d) :=
  coFill_held (coFill_held (payOwed_held (finishAreas_held (wroteChunk_held (putSlot_held h (by rfl)) (by rfl)) (by rfl))
    (by rfl)) (by rfl)) (by rfl)

theorem exec_chunkRefetch_match (time : Nat) {slot chunk : Nat} {data : List Byte} {d : Nat × Nat} {s : State} (hslot : slot < 2)
    (hnext : nextMissing (getSlot s slot) = some chunk)
    (hleaf : (getSlot s slot).head.bind (fun f => f.tree[chunk]?) = some (leafHash chunk data))
    (hsite : relocationSite s = some d) :
    exec (.chunkRefetch time slot chunk data) s = .next (chunkPlaced (advance s time) slot chunk d) := by
  show execChunkRefetch time slot chunk data s = _
  unfold execChunkRefetch
  extract_lets t v
  rw [if_pos (show slot < 2 ∧ nextMissing v = some chunk from ⟨hslot, hnext⟩),
    if_pos (show v.head.bind (fun f => f.tree[chunk]?) = _ from hleaf), show relocationSite t = some d from hsite]
  rfl

/-- A slot with one more failed fetch of a missing chunk. -/
def withFailedFetch (v : Slot) (chunk n : Nat) : Slot :=
  { v with tries := tput 0 v.tries chunk n, retries := if n % 4 = 0 then v.retries else v.retries + 1 }

theorem exec_chunkRefetch_mismatch (time : Nat) {slot chunk : Nat} {data : List Byte} {s : State} (hslot : slot < 2)
    (hnext : nextMissing (getSlot s slot) = some chunk)
    (hleaf : (getSlot s slot).head.bind (fun f => f.tree[chunk]?) ≠ some (leafHash chunk data)) :
    exec (.chunkRefetch time slot chunk data) s = .next (putSlot (advance s time) slot
      (withFailedFetch (getSlot s slot) chunk ((nextTry (getSlot s slot) chunk).getD 0))) := by
  show execChunkRefetch time slot chunk data s = _
  exact congrArg Host.Outcome.next ((if_pos ⟨hslot, hnext⟩).trans (if_neg hleaf))

theorem chunkRefetch_places (time slot chunk : Nat) (data : List Byte) (s : State) (hslot : slot < 2)
    (hnext : nextMissing (getSlot s slot) = some chunk) (d : Nat × Nat)
    (hleaf : (getSlot s slot).head.bind (fun f => f.tree[chunk]?) = some (leafHash chunk data))
    (hsite : relocationSite s = some d) :
    ∃ t, exec (.chunkRefetch time slot chunk data) s = .next t ∧
      (getSlot t slot).missing = (getSlot s slot).missing.filter (fun c => c != chunk) ∧
      (getSlot t slot).relocated = tins (getSlot s slot).relocated chunk d ∧
      (getSlot t slot).refetched = (getSlot s slot).refetched + 1 ∧
      Only [.now, .serving, .images, .vellum, .fabric] s t := by
  have hview := chunkPlaced_view (advance s time) slot chunk d
  simp only [chunksView, Prod.mk.injEq] at hview
  obtain ⟨hmissing, hrelocated, hrefetched⟩ := hview
  exact ⟨_, exec_chunkRefetch_match time hslot hnext hleaf hsite, hmissing, hrelocated, hrefetched,
    (chunkPlaced_held (advance_held (held_self _ s) (by rfl)) slot chunk d).only⟩

theorem chunkRefetch_fails (time slot chunk : Nat) (data : List Byte) (s : State) (hslot : slot < 2)
    (hnext : nextMissing (getSlot s slot) = some chunk)
    (hleaf : (getSlot s slot).head.bind (fun f => f.tree[chunk]?) ≠ some (leafHash chunk data)) :
    ∃ t, exec (.chunkRefetch time slot chunk data) s = .next t ∧ (getSlot t slot).missing = (getSlot s slot).missing ∧
      tget 0 (getSlot t slot).tries chunk = (nextTry (getSlot s slot) chunk).getD 0 ∧ Only [.now, .images] s t := by
  refine ⟨_, exec_chunkRefetch_mismatch time hslot hnext hleaf, ?_, ?_,
    (putSlot_held (advance_held (held_self _ s) (by rfl)) (by rfl)).only⟩
  · rw [getSlot_putSlot]
    rfl
  · rw [getSlot_putSlot]
    exact tget_tput_same _ _ _ _

/-! ## REFETCH_TIMEOUT and REFETCH_SOURCE (R220, R222, R337) -/

/-- A slot without a chunk for 60 s is DEGRADED, and that is reported (R222). -/
def degradedNoted (s : State) (slot c : Nat) : State :=
  note (putSlot s slot { getSlot s slot with degraded := true }) 0x0602 4 0xFFFF c slot

theorem exec_refetchTimeout {time slot c : Nat} {rest : List Nat} {s : State} (hslot : slot < 2)
    (hmissing : (getSlot s slot).missing = c :: rest) (hwhole : (getSlot s slot).degraded = false)
    (hdue : (getSlot s slot).missingAt + 60000000000 ≤ max s.now time) :
    exec (.refetchTimeout time slot) s = .next (
      if (degradedNoted (advance s time) slot c).images.exported.slot = some slot then
        endExport (degradedNoted (advance s time) slot c)
      else degradedNoted (advance s time) slot c) := by
  show execRefetchTimeout time slot s = _
  unfold execRefetchTimeout
  extract_lets t v
  split
  next hnone => exact nomatch hnone.symm.trans hmissing
  next c' _ hc =>
    cases hc.symm.trans hmissing
    exact congrArg Host.Outcome.next (if_pos ⟨hslot, hwhole, hdue⟩)

theorem refetchTimeout_degrades (time slot c : Nat) (rest : List Nat) (s : State) (hslot : slot < 2)
    (hmissing : (getSlot s slot).missing = c :: rest) (hwhole : (getSlot s slot).degraded = false)
    (hdue : (getSlot s slot).missingAt + 60000000000 ≤ max s.now time) :
    ∃ t, exec (.refetchTimeout time slot) s = .next t ∧ getSlot t slot = { getSlot s slot with degraded := true } ∧
      (s.images.exported.slot = some slot → t.images.exported.slot = none) ∧
      Only [.link, .mailbox, .blotter, .mgmt, .now, .images] s t := by
  let w := degradedNoted (advance s time) slot c
  have hnoted : Held [.link, .mailbox, .blotter, .mgmt, .now, .images] s w :=
    note_held (putSlot_held (advance_held (held_self _ s) (by rfl)) (by rfl)) (by rfl)
  have himages : w.images = (putSlot (advance s time) slot { getSlot s slot with degraded := true }).images :=
    note_only _ _ _ _ _ _ .images (by decide)
  have hslot' : getSlot w slot = { getSlot s slot with degraded := true } :=
    (getSlot_of_images himages slot).trans (getSlot_putSlot _ _ _)
  have hexported : w.images.exported = s.images.exported :=
    (congrArg Images.exported himages).trans ((putSlot_noView (advance s time) slot _).field Images.exported)
  refine ⟨_, exec_refetchTimeout hslot hmissing hwhole hdue, ?_⟩
  show getSlot (if w.images.exported.slot = some slot then endExport w else w) slot = _ ∧
    (_ → (if w.images.exported.slot = some slot then endExport w else w).images.exported.slot = none) ∧
    Only _ s (if w.images.exported.slot = some slot then endExport w else w)
  split
  · exact ⟨hslot', fun _ => rfl, (endExport_held hnoted (by rfl)).only⟩
  next hother => exact ⟨hslot', fun hs => absurd ((congrArg Export.slot hexported).trans hs) hother, hnoted.only⟩

/-- A slot whose source is withdrawn (0), named (1) or confirmed (2): a named or confirmed one is tried anew (log entry 43). -/
def withSource (v : Slot) (kind peer : Nat) : Slot :=
  match kind with
  | 0 => { v with peer := none }
  | 1 => { v with peer := some peer, tries := [] }
  | _ => { v with hostConfirmed := true, tries := v.tries.map (fun x => (x.1, min x.2 4)) }

theorem refetchSource_sets (h : Hdr) (slot kind peer : Nat) (f : FolioHead) (s : State) (ha : Accepted s h opRefetchSource)
    (ht : OnTime s h) (hslot : slot < 2) (hkind : kind < 3) (hfull : (getSlot s slot).state ≠ .empty)
    (hhead : (getSlot s slot).head = some f) (hwrap : kind = 1 → folioWrapped f = false) :
    ∃ t, exec (.refetchSource h slot kind peer) s = .next t ∧ getSlot t slot = withSource (getSlot s slot) kind peer ∧
      Answered s t h stSuccess 0 [] := by
  have hin : (decide (2 ≤ slot) || decide (3 ≤ kind)) = false := by
    rw [decide_eq_false (Nat.not_le.mpr hslot), decide_eq_false (Nat.not_le.mpr hkind)]
    rfl
  obtain ⟨t, he, honly, hanswered⟩ := answers (c := .refetchSource h slot kind peer)
    (v := putSlot (advance s h.time) slot (withSource (getSlot s slot) kind peer)) (st := stSuccess) (r := 0) (d := []) rfl ha ht hin
    (by
      refine (if_neg ?_).trans rfl
      rintro (hempty | ⟨hpeer, hwrapped⟩)
      · exact hfull hempty
      · rw [getSlot_advance, hhead] at hwrapped
        exact Bool.false_ne_true ((hwrap hpeer).symm.trans hwrapped)) rfl
  exact ⟨t, he, (getSlot_of_images (honly .images (by decide)) slot).trans (getSlot_putSlot _ _ _), hanswered⟩

/-! ## ARITH_MODE_SET (R122) -/

/-- With no session open no Timed turn holds the mode, and with no step in flight it binds at once (log entry 20). -/
theorem arithModeSet_sets (h : Hdr) (slot mode : Nat) (f : FolioHead) (s : State) (ha : Accepted s h opArithModeSet)
    (ht : OnTime s h) (hslot : slot < 2) (hmode : mode < 2) (hfull : (getSlot s slot).state ≠ .empty)
    (hloaded : (getSlot s slot).state ≠ .loading) (hhead : (getSlot s slot).head = some f)
    (hlists : mode = 1 → folioReference f = true) (hsessions : s.serving.sessions = []) (hsteps : s.serving.steps = []) :
    ∃ t, exec (.arithModeSet h slot mode) s = .next t ∧
      getSlot t slot = { getSlot s slot with reference := mode == 1, modeFrom := none } ∧
      Answered s t h stSuccess (2 ^ 64 * s.serving.nextStep) [] := by
  have hin : (decide (2 ≤ slot) || decide (2 ≤ mode)) = false := by
    rw [decide_eq_false (Nat.not_le.mpr hslot), decide_eq_false (Nat.not_le.mpr hmode)]
    rfl
  have hidle : (advance s h.time).serving.steps.isEmpty = true := List.isEmpty_iff.mpr hsteps
  obtain ⟨t, he, honly, hanswered⟩ := answers (c := .arithModeSet h slot mode)
    (v := putSlot (advance s h.time) slot { getSlot s slot with reference := mode == 1, modeFrom := none }) (st := stSuccess)
    (r := 2 ^ 64 * s.serving.nextStep) (d := []) rfl ha ht hin
    (by
      refine (if_neg (not_or.mpr ⟨hfull, hloaded⟩)).trans ((if_neg ?_).trans ?_)
      · rintro (⟨hone, hno⟩ | htimed)
        · rw [getSlot_advance, hhead] at hno
          exact Bool.false_ne_true (hno.symm.trans (hlists hone))
        · rw [show (advance s h.time).serving.sessions = [] from hsessions] at htimed
          exact Bool.false_ne_true htimed
      · dsimp only
        rw [if_pos hidle]
        rfl) rfl
  exact ⟨t, he, (getSlot_of_images (honly .images (by decide)) slot).trans (getSlot_putSlot _ _ _), hanswered⟩

/-! ## EXPERT_PIN (R168) -/

/-- One expert of a layer with a pin. -/
def withPin (expert pin : Nat) (x : Expert × Nat) : Expert := if x.2 = expert then { x.1 with pin := pin } else x.1

/-- A layer with one expert pinned. -/
def pinnedLayer (expert pin : Nat) (r : LayerRes) : LayerRes := { r with experts := r.experts.zipIdx.map (withPin expert pin) }

theorem pinnedLayer_getElem? (expert pin : Nat) (r : LayerRes) (j : Nat) :
    (pinnedLayer expert pin r).experts[j]? = r.experts[j]?.map (fun x => withPin expert pin (x, j)) := by
  unfold pinnedLayer
  simp only [List.getElem?_map, List.getElem?_zipIdx, Option.map_map, Function.comp_def, Nat.zero_add]

theorem pinnedLayer_same {expert : Nat} (pin : Nat) {r : LayerRes} (h : expert < r.experts.length) :
    (pinnedLayer expert pin r).experts[expert]?.map (·.pin) = some pin := by
  rw [pinnedLayer_getElem?, List.getElem?_eq_getElem h]
  simp [withPin]

theorem pinnedLayer_others {expert j : Nat} (pin : Nat) (r : LayerRes) (h : j ≠ expert) :
    (pinnedLayer expert pin r).experts[j]? = r.experts[j]? := by
  rw [pinnedLayer_getElem?]
  simp [withPin, h]

/-- What is found after an update is the update of what was found, where the update does not change whether it is looked for. -/
theorem find?_modWhere {α : Type} {p : α → Bool} {f : α → α} (hf : ∀ x, p (f x) = p x) (l : List α) :
    (modWhere p f l).find? p = (l.find? p).map f := by
  unfold modWhere
  have hp : (p ∘ fun x => if p x = true then f x else x) = p := funext fun x => by
    rw [Function.comp_apply]
    split
    · exact hf x
    · rfl
  rw [List.find?_map, hp]
  cases h : l.find? p with
  | none => rfl
  | some x => exact congrArg some (if_pos (List.find?_some h))

theorem modLayer_find? (s : State) (n l : Nat) {f : LayerRes → LayerRes} (hf : ∀ r, (f r).layer = r.layer) :
    (getSlot (modLayer s n l f) n).layers.find? (fun r => r.layer == l) =
      ((getSlot s n).layers.find? (fun r => r.layer == l)).map f := by
  unfold modLayer
  dsimp only
  rw [getSlot_putSlot]
  exact find?_modWhere (fun r => congrArg (· == l) (hf r)) _

/-- What EXPERT_PIN has to meet: a layer of a READY or ACTIVE slot, an expert of it, and fewer others than may have the pin. -/
structure Pinnable (s : State) (slot layer expert pin : Nat) (r : LayerRes) : Prop where
  slot_ : slot < 2
  layer_ : layer < 64
  expert_ : expert < 128
  pin_ : pin < 3
  known : (getSlot s slot).state = .ready ∨ (getSlot s slot).state = .active
  found : (getSlot s slot).layers.find? (fun r => r.layer == layer) = some r
  there : expert < r.experts.length
  hot : pin = 1 → (r.experts.zipIdx.filter (fun x => x.1.pin == 1 && x.2 != expert)).length < (r.experts.filter (·.hot)).length
  cold : pin = 2 → (r.experts.zipIdx.filter (fun x => x.1.pin == 2 && x.2 != expert)).length < 40

theorem Pinnable.inRange {s : State} {slot layer expert pin : Nat} {r : LayerRes} (hp : Pinnable s slot layer expert pin r) :
    (decide (2 ≤ slot) || decide (64 ≤ layer) || decide (128 ≤ expert) || decide (3 ≤ pin) ||
      ((decide ((getSlot s slot).state = .ready) || decide ((getSlot s slot).state = .active)) &&
        !((getSlot s slot).layers.any (fun r => r.layer == layer && decide (expert < r.experts.length))))) = false := by
  have hthere : (getSlot s slot).layers.any (fun r => r.layer == layer && decide (expert < r.experts.length)) = true := by
    have hlayer := List.find?_some hp.found
    rw [List.any_eq_true]
    exact ⟨r, List.mem_of_find?_eq_some hp.found, Bool.and_eq_true_iff.mpr ⟨hlayer, decide_eq_true hp.there⟩⟩
  rw [decide_eq_false (Nat.not_le.mpr hp.slot_), decide_eq_false (Nat.not_le.mpr hp.layer_),
    decide_eq_false (Nat.not_le.mpr hp.expert_), decide_eq_false (Nat.not_le.mpr hp.pin_), hthere, Bool.not_true, Bool.and_false]
  rfl

theorem expertPin_pins {h : Hdr} {slot layer expert pin : Nat} {r : LayerRes} {s : State} (ha : Accepted s h opExpertPin)
    (ht : OnTime s h) (hp : Pinnable s slot layer expert pin r) :
    ∃ t, exec (.expertPin h slot layer expert pin) s = .next t ∧
      (getSlot t slot).layers.find? (fun r => r.layer == layer) = some (pinnedLayer expert pin r) ∧
      Answered s t h stSuccess 0 [] := by
  have hknown : ¬ (decide ((getSlot s slot).state = .ready) || decide ((getSlot s slot).state = .active)) = false := by
    rw [Bool.not_eq_false, Bool.or_eq_true, decide_eq_true_eq, decide_eq_true_eq]
    exact hp.known
  have hroom : ¬ ((pin = 1 ∧ (r.experts.filter (·.hot)).length ≤
      (r.experts.zipIdx.filter (fun x => x.1.pin == 1 && x.2 != expert)).length) ∨
      (pin = 2 ∧ 40 ≤ (r.experts.zipIdx.filter (fun x => x.1.pin == 2 && x.2 != expert)).length)) := by
    rintro (⟨hone, hfull⟩ | ⟨htwo, hfull⟩)
    · exact absurd (hp.hot hone) (Nat.not_lt.mpr hfull)
    · exact absurd (hp.cold htwo) (Nat.not_lt.mpr hfull)
  obtain ⟨t, he, honly, hanswered⟩ := answers (c := .expertPin h slot layer expert pin)
    (v := modLayer (advance s h.time) slot layer (pinnedLayer expert pin)) (st := stSuccess) (r := 0) (d := []) rfl ha ht
    hp.inRange (by
      dsimp only
      rw [hp.found]
      exact (if_neg hknown).trans (if_neg hroom)) rfl
  refine ⟨t, he, ?_, hanswered⟩
  rw [getSlot_of_images (honly .images (by decide)), modLayer_find? (f := pinnedLayer expert pin) _ _ _ (fun _ => rfl),
    getSlot_advance, hp.found]
  rfl

/-! ## STENCIL_LOAD (R184) -/

/-- A slot with a stencil under an id. -/
def withStencil (v : Slot) (id : Nat) (st : Stencil) : Slot :=
  { v with stencils := tins (v.stencils.filter (fun kv => kv.1 != id)) id st }

theorem stencilLoad_loads (h : Hdr) (slot id : Nat) (st : Stencil) (b : FolioBody) (s : State) (ha : Accepted s h opStencilLoad)
    (ht : OnTime s h) (hslot : slot < 2) (hid : id < 1024) (hb : (getSlot s slot).body = some b)
    (hunused : (getSlot s slot).stencils.find? (fun kv => kv.1 == id) = none) (hok : stencilOk b.lettering st = true)
    (hroom : stencilPages st b.lettering.vocab.length ≤ stencilSpace s) :
    ∃ t, exec (.stencilLoad h slot id (some st)) s = .next t ∧ getSlot t slot = withStencil (getSlot s slot) id st ∧
      Answered s t h stSuccess st.states.length [] := by
  have hin : (decide (2 ≤ slot) || decide (1024 ≤ id)) = false := by
    rw [decide_eq_false (Nat.not_le.mpr hslot), decide_eq_false (Nat.not_le.mpr hid)]
    rfl
  have hunused' : (getSlot (advance s h.time) slot).stencils.find? (fun kv => kv.1 == id) = none := hunused
  obtain ⟨t, he, honly, hanswered⟩ := answers (c := .stencilLoad h slot id (some st))
    (v := putSlot (advance s h.time) slot (withStencil (getSlot s slot) id st)) (st := stSuccess) (r := st.states.length) (d := [])
    rfl ha ht hin (by
      dsimp only
      split
      next hnone => exact nomatch hnone.symm.trans hb
      next b' hb' =>
        cases hb'.symm.trans hb
        rw [hunused']
        refine (if_neg (ne_false_of_eq_true hok)).trans ((if_neg Bool.false_ne_true).trans ((if_neg ?_).trans rfl))
        exact Nat.not_lt.mpr hroom) rfl
  exact ⟨t, he, (getSlot_of_images (honly .images (by decide)) slot).trans (getSlot_putSlot _ _ _), hanswered⟩

/-- Settles O20: a refetch by whether the chunk matches its leaf, then the rows that degrade a slot, name a source, set a mode,
pin an expert and load a stencil. -/
theorem chunksModesPinsStencils : Obligations.ChunksModesPinsStencils := by
  unfold Obligations.ChunksModesPinsStencils
  refine ⟨fun time slot chunk data s hslot hnext =>
      ⟨chunkRefetch_places time slot chunk data s hslot hnext, chunkRefetch_fails time slot chunk data s hslot hnext⟩,
    refetchTimeout_degrades, fun h slot kind peer f s ha ht hslot hkind hfull hhead hwrap => ?_, arithModeSet_sets,
    fun h slot layer expert pin r s ha ht hslot hlayer hexpert hpin hknown hfound hthere hhot hcold => ?_, stencilLoad_loads⟩
  · obtain ⟨t, he, hset, hanswered⟩ := refetchSource_sets h slot kind peer f s ha ht hslot hkind hfull hhead hwrap
    refine ⟨t, he, fun hk => ?_, fun hk => ?_, fun hk => ?_, hanswered⟩ <;> subst hk <;> exact hset
  · have hp : Pinnable s slot layer expert pin r := ⟨hslot, hlayer, hexpert, hpin, hknown, hfound, hthere, hhot, hcold⟩
    obtain ⟨t, he, hset, hanswered⟩ := expertPin_pins ha ht hp
    exact ⟨t, _, he, hset, pinnedLayer_same pin hthere, fun j hj => pinnedLayer_others pin r hj, hanswered⟩

end Sys2Proof.Proofs

namespace Sys2Proof.Proofs

open Sys2Proof Sys2Proof.Machine Sys2Proof.Laws

/-! ## One session's record -/

/-- From `s` to `t` the record of session `id` becomes `v`, and every other session's stays. -/
structure SessionBecomes (id : Nat) (v : Session) (s t : State) : Prop where
  same : getSession t id = v
  others : ∀ k, k ≠ id → getSession t k = getSession s k

theorem getSession_of_sessions {s t : State} (h : t.serving.sessions = s.serving.sessions) (k : Nat) :
    getSession t k = getSession s k := by
  unfold getSession
  rw [h]

@[simp] theorem getSession_advance (s : State) (time k : Nat) : getSession (advance s time) k = getSession s k := rfl

theorem putSession_becomes (s : State) (id : Nat) (v : Session) : SessionBecomes id v s (putSession s id v) :=
  ⟨getSession_putSession s id v, fun _ hk => getSession_putSession_ne s v hk⟩

/-- What leaves the table of the sessions alone may come first. -/
theorem SessionBecomes.of_sessions {id : Nat} {v : Session} {s s' t : State} (h : SessionBecomes id v s' t)
    (hs : s'.serving.sessions = s.serving.sessions) : SessionBecomes id v s t :=
  ⟨h.same, fun k hk => (h.others k hk).trans (getSession_of_sessions hs k)⟩

/-- What leaves the serving state alone may follow. -/
theorem SessionBecomes.then_serving {id : Nat} {v : Session} {s t u : State} (h : SessionBecomes id v s t)
    (hu : u.serving = t.serving) : SessionBecomes id v s u :=
  have hu := getSession_of_sessions (congrArg Serving.sessions hu)
  ⟨(hu id).trans h.same, fun k hk => (hu k).trans (h.others k hk)⟩

/-! ## Commands that name a session (R310) -/

/-- A command that names a session has its own effect while no turn of the session is being ended, even when its answer has
to wait. -/
theorem runSession_starts {s : State} {h : Hdr} {op : Opcode} {id : Nat} {invalid : Bool} {body : State → State}
    (ha : AcceptedVf s h op) (hn : turnEnds (advance s h.time) h id = false) (hi : invalid = false) :
    runSession s h op id invalid body = body (advance s h.time) := by
  obtain ⟨⟨hstart, hstatus⟩, hconfigured, hserves⟩ := ha
  have hconfigured' : (getPartition (advance s h.time) (h.func - 1)).configured = true := hconfigured
  have hserves' : ¬ ((getPartition (advance s h.time) (h.func - 1)).isSealed = true ∧
    (advance s h.time).trust.isUnsealed = true) := hserves
  unfold runSession runNamed
  simp only [hstart, hstatus, hn, hi, hconfigured', Bool.not_false, Bool.and_true, if_true, Bool.false_eq_true,
    Bool.true_eq_false, if_false, if_neg hserves']

/-- One whose own effect goes on leaves the parts of `v` but the mailbox, and stays under way. -/
theorem startsSession {s v : State} {h : Hdr} {op : Opcode} {c : Instr} {id arg : Nat} {invalid : Bool} {body : State → State}
    (he : exec c s = .next (runSession s h op id invalid body)) (ha : AcceptedVf s h op)
    (hn : turnEnds (advance s h.time) h id = false) (hi : invalid = false)
    (hb : body (advance s h.time) = startLater v h op arg) :
    ∃ t, exec c s = .next t ∧ Only [.mailbox] v t ∧ Started t h op arg := by
  rw [runSession_starts ha hn hi, hb] at he
  exact ⟨_, he, startLater_only _ _ _ _, startLater_started _ _ _ _⟩

/-! ## Commands under way on an object -/

theorem findStarted_of_mailbox {s t : State} (h : t.mailbox = s.mailbox) (opcode arg : Nat) :
    findStarted t opcode arg = findStarted s opcode arg := by
  unfold findStarted
  rw [h]

theorem completeStarted_of_none {s : State} {opcode arg : Nat} (h : findStarted s opcode arg = none) (st r : Nat) :
    completeStarted s opcode arg st r = s := by
  unfold completeStarted
  rw [h]

/-- With neither a park nor an unpark of the session under way, an answer waits for none. -/
theorem parksFrom_of_findStarted_none {s : State} {id : Nat} (hpark : findStarted s 0x0306 id = none)
    (hunpark : findStarted s 0x0307 id = none) (func qp : Nat) : s.mailbox.fetched.any (parksFrom func qp id) = false := by
  rw [List.any_eq_false]
  intro f hf hwaits
  have hpark' := List.find?_eq_none.mp hpark f hf
  have hunpark' := List.find?_eq_none.mp hunpark f hf
  simp only [parksFrom, Bool.and_eq_true, Bool.or_eq_true, beq_iff_eq] at hpark' hunpark' hwaits
  obtain ⟨⟨⟨⟨⟨hstarted, hopen⟩, _⟩, _⟩, harg⟩, hop | hop⟩ := hwaits
  · exact hpark' ⟨⟨⟨hstarted, hopen⟩, hop⟩, harg⟩
  · exact hunpark' ⟨⟨⟨hstarted, hopen⟩, hop⟩, harg⟩

theorem cutPark_of_none {s : State} {id : Nat} (hpark : findStarted s 0x0306 id = none)
    (hunpark : findStarted s 0x0307 id = none) : cutPark s id = s := by
  unfold cutPark
  rw [completeStarted_of_none hpark, completeStarted_of_none hunpark]

theorem cutPark_serving (s : State) (id : Nat) : (cutPark s id).serving = s.serving :=
  (cutPark_held (held_self [.link, .mailbox, .power, .blotter, .mgmt] s) (by rfl)).only .serving (by decide)

/-! ## SESSION_OPEN (R233, R333) -/

/-- The record of a session that is opened in a partition that is not Sealed. -/
def openedSession (s : State) (h : Hdr) (tenant : Nat) (seed : BitVec 256) : Session :=
  { state := .idle, tenant := tenant, partition := h.func - 1, slot := (activeSlot s).getD 0,
    epoch := if (activeSlot s).isSome then (getSlot s ((activeSlot s).getD 0)).epoch else 0,
    adapterEpoch := (getTenant s tenant).adapterEpoch, seed := seed }

theorem sessionOpen_opens {h : Hdr} {n id : Nat} {seed : BitVec 256} {s : State} (ha : AcceptedVf s h opSessionOpen)
    (ht : OnTime s h) (hn : n ≤ 0xFFFF) (hclear : (getPartition s (h.func - 1)).isSealed = false)
    (hmine : myTenant s h n = true) (hroom : openCount s (h.func - 1) < (getPartition s (h.func - 1)).sessionsMax)
    (hfree : freeSession s = some id) :
    ∃ t, exec (.sessionOpen h n seed) s = .next t ∧ SessionBecomes id (openedSession s h n seed) s t ∧
      Answered s t h stSuccess id [] := by
  have hclear' : (getPartition (advance s h.time) (h.func - 1)).isSealed = false := hclear
  have hfree' : freeSession (advance s h.time) = some id := hfree
  obtain ⟨t, he, honly, hanswered⟩ := answersVf (c := .sessionOpen h n seed)
    (v := putSession (advance s h.time) id (openedSession s h n seed)) (st := stSuccess) (r := id) (d := []) rfl ha ht
    (by rw [hclear, decide_eq_false (Nat.not_lt.mpr hn)]; rfl)
    (by
      refine (if_neg (ne_false_of_eq_true hmine)).trans ((if_neg (Nat.not_le.mpr hroom)).trans ?_)
      dsimp only
      rw [hfree', hclear']
      rfl) rfl
  have hset := (putSession_becomes (advance s h.time) id _).then_serving (honly .serving (by decide))
  exact ⟨t, he, hset.of_sessions rfl, hanswered⟩

/-! ## SESSION_PARK and SESSION_UNPARK (R237, R239) -/

/-- A session with pages that starts to park is PARKING, with park slots for its pages. -/
theorem startPark_becomes {s : State} {id : Nat} (hpages : (getSession s id).pages ≠ []) :
    ∃ slots, SessionBecomes id { getSession s id with state := .parking, outbound := slots } s (startPark s id) := by
  obtain ⟨q, rest, hq⟩ := List.exists_cons_of_ne_nil hpages
  unfold startPark
  extract_lets v p slots s1 ids
  have hids : ids = q.2 :: rest.map (·.2) := congrArg (List.map (·.2)) hq
  rw [hids]
  exact ⟨slots, (putSession_becomes _ id _).of_sessions rfl⟩

theorem sessionPark_parks {h : Hdr} {id : Nat} {s : State} (ha : AcceptedVf s h opSessionPark) (hid : id < 262144)
    (hends : turnEnds (advance s h.time) h id = false) (hopen : openIn s id (h.func - 1) = true)
    (hidle : (getSession s id).state = .idle) (hturn : (getSession s id).turn = none)
    (hcan : canPark s (getSession s id) = true) (hpages : (getSession s id).pages ≠ []) :
    ∃ t slots, exec (.sessionPark h id) s = .next t ∧
      SessionBecomes id { getSession s id with state := .parking, outbound := slots } s t ∧ Started t h opSessionPark id := by
  obtain ⟨slots, hparks⟩ := startPark_becomes (s := advance s h.time) hpages
  obtain ⟨t, he, honly, hstarted⟩ := startsSession (c := .sessionPark h id) (v := startPark (advance s h.time) id) (arg := id)
    rfl ha hends (decide_eq_false (Nat.not_le.mpr hid))
    (by
      refine (if_neg (ne_false_of_eq_true hopen)).trans ((if_neg ?_).trans
        ((if_neg (ne_false_of_eq_true hcan)).trans (if_neg ?_)))
      · rintro (hbusy | hengaged)
        · exact hbusy hidle
        · unfold engaged at hengaged
          rw [getSession_advance, hturn] at hengaged
          exact Bool.false_ne_true hengaged
      · rw [List.isEmpty_iff]
        exact hpages)
  exact ⟨t, slots, he, (hparks.then_serving (honly .serving (by decide))).of_sessions rfl, hstarted⟩

theorem sessionUnpark_starts {h : Hdr} {id : Nat} {s : State} (ha : AcceptedVf s h opSessionUnpark) (hid : id < 262144)
    (hends : turnEnds (advance s h.time) h id = false) (hopen : openIn s id (h.func - 1) = true)
    (hparked : (getSession s id).state = .parked) (hroom : (getSession s id).parked.length ≤ freePages s - reservedPages s)
    (hpages : (getSession s id).parked ≠ []) :
    ∃ t, exec (.sessionUnpark h id) s = .next t ∧ SessionBecomes id { getSession s id with state := .unparking } s t ∧
      Started t h opSessionUnpark id := by
  obtain ⟨t, he, honly, hstarted⟩ := startsSession (c := .sessionUnpark h id) (v := startUnpark (advance s h.time) id)
    (arg := id) rfl ha hends (decide_eq_false (Nat.not_le.mpr hid))
    (by
      refine (if_neg (ne_false_of_eq_true hopen)).trans ((if_neg (not_not_intro hparked)).trans
        ((if_neg (Nat.not_lt.mpr hroom)).trans (if_neg ?_)))
      rw [List.isEmpty_iff]
      exact hpages)
  have hset := (putSession_becomes (advance s h.time) id _).then_serving (honly .serving (by decide))
  exact ⟨t, he, hset.of_sessions rfl, hstarted⟩

/-! ## The release of a session (R141, R157, R217) -/

/-- Steps that each leave a view of the state alone leave it alone together. -/
theorem foldl_view {α β : Type} (view : State → β) {f : State → α → State} (hf : ∀ s x, view (f s x) = view s) (l : List α)
    (s : State) : view (l.foldl f s) = view s := by
  induction l generalizing s with
  | nil => rfl
  | cons x l ih => exact (ih (f s x)).trans (hf s x)

theorem queueClear_sessions (s : State) (k : ClearKind) : (queueClear s k).serving.sessions = s.serving.sessions := by
  unfold queueClear
  split
  · rfl
  · rfl

theorem releaseStore_sessions (s : State) (n : Nat) (l : List AdapterVer) :
    (releaseStore s n l).serving.sessions = s.serving.sessions := by
  unfold releaseStore
  split
  · rfl
  · exact queueClear_sessions _ _

theorem giveUpLines_sessions (s : State) (n index : Nat) : (giveUpLines s n index).serving.sessions = s.serving.sessions :=
  foldl_view (·.serving.sessions) (f := giveUpLine) (fun _ _ => queueClear_sessions _ _) _ s

/-- The release of an old adapter version changes no session. -/
theorem releaseOld_sessions (s : State) (n : Nat) : (releaseOld s n).serving.sessions = s.serving.sessions := by
  unfold releaseOld
  dsimp only
  split
  · rw [dropVersion_eq, releaseStore_sessions]
    exact giveUpLines_sessions s n _
  · rfl

theorem freePage_sessions (s : State) (p : Nat) : (freePage s p).serving.sessions = s.serving.sessions := by
  unfold freePage
  split
  · rfl
  · split <;> rfl

theorem sweepPfx_sessions (s : State) (x : Nat) : (sweepPfx s x).serving.sessions = s.serving.sessions := by
  unfold sweepPfx
  dsimp only
  split
  · rfl
  · exact foldl_view (·.serving.sessions) freePage_sessions _ _

theorem sweepPfx_mailbox (s : State) (x : Nat) : (sweepPfx s x).mailbox = s.mailbox :=
  (sweepPfx_held (held_self [.serving, .vellum] s) (by rfl)).only .mailbox (by decide)

/-- The release leaves the id free, with no record of the session. -/
theorem releaseSession_getSession (s : State) (id : Nat) : getSession (releaseSession s id) id = {} := by
  unfold releaseSession
  extract_lets s1 v s2 s3 p s4 s5 trust s6 s7
  have hgone : getSession s7 id = {} :=
    (getSession_of_sessions (releaseOld_sessions _ _) id).trans (getSession_putSession _ _ _)
  split
  · exact (getSession_of_sessions (sweepPfx_sessions _ _) id).trans hgone
  · exact hgone

/-- An entry ends without an answer when no registration waits for it. -/
theorem endPfx_mailbox {s : State} {x : Nat} (hx : findStarted s 0x0308 x = none) : (endPfx s x).mailbox = s.mailbox := by
  unfold endPfx
  extract_lets s1
  have hkept : (releasePfx s1 x).mailbox = s.mailbox :=
    (releasePfx_held (unqueue_held (discardRows_held (held_self [.serving, .vellum] s) (by rfl)) (by rfl)) (by rfl)).only
      .mailbox (by decide)
  rw [completeStarted_of_none ((findStarted_of_mailbox hkept _ _).trans hx), hkept]

theorem dropReader_mailbox {s : State} {x : Nat} (hx : findStarted s 0x0308 x = none) :
    (dropReader s x).mailbox = s.mailbox := by
  unfold dropReader
  dsimp only
  split
  · exact endPfx_mailbox (s := putPfx s x _) hx
  · rfl

/-- It leaves the mailbox alone when no park or unpark of the session and no registration that it reads is under way. -/
theorem releaseSession_mailbox {s : State} {id : Nat} (hpark : findStarted s 0x0306 id = none)
    (hunpark : findStarted s 0x0307 id = none)
    (hpfx : ∀ x, (getSession s id).pfx = some x → findStarted s 0x0308 x = none) :
    (releaseSession s id).mailbox = s.mailbox := by
  unfold releaseSession
  rw [cutPark_of_none hpark hunpark]
  extract_lets s1 v s2 s3 p s4 s5 trust s6 s7
  have hpages : s2.mailbox = s.mailbox :=
    (freePagesOf_held (clearExtents_held (held_self [.serving, .vellum] s) (by rfl)) (by rfl)).only .mailbox (by decide)
  have hreader : s3.mailbox = s.mailbox := by
    show (match v.pfx with | some x => dropReader s2 x | none => s2).mailbox = _
    split
    next x hx => exact (dropReader_mailbox ((findStarted_of_mailbox hpages _ _).trans (hpfx x hx))).trans hpages
    next => exact hpages
  have hdraft : s5.mailbox = s4.mailbox :=
    (setDraft_held (held_self [.serving, .vellum] s4) (by rfl)).only .mailbox (by decide)
  have hold : s7.mailbox = s.mailbox := (releaseOld_mailbox _ _).trans (hdraft.trans hreader)
  split
  · exact (sweepPfx_mailbox _ _).trans hold
  · exact hold

/-! ## SESSION_CLOSE (R157, R333) -/

/-- The session that a SESSION_CLOSE has marked CLOSING, its exchanges over and its park or unpark cut off. -/
def closingSession (s : State) (id : Nat) : State :=
  let s := modSession s id (fun v => { v with state := .closing })
  cutPark { s with trust := { s.trust with exchanges := s.trust.exchanges.filter (fun e => e.session != id) } } id

theorem closingSession_getSession (s : State) (id : Nat) :
    getSession (closingSession s id) id = { getSession s id with state := .closing } :=
  (getSession_of_sessions (congrArg Serving.sessions (cutPark_serving _ _)) id).trans (getSession_putSession _ _ _)

theorem closingSession_inStep (s : State) (id : Nat) : inStep (closingSession s id) id = inStep s id := by
  unfold inStep
  rw [show (closingSession s id).serving = _ from cutPark_serving _ _]
  rfl

theorem closingSession_mailbox {s : State} {id : Nat} (hpark : findStarted s 0x0306 id = none)
    (hunpark : findStarted s 0x0307 id = none) : (closingSession s id).mailbox = s.mailbox := by
  unfold closingSession
  extract_lets s1 trust
  refine (congrArg State.mailbox (cutPark_of_none ?_ ?_)).trans rfl
  · exact hpark
  · exact hunpark

theorem exec_sessionClose {h : Hdr} {id : Nat} {s : State} (ha : AcceptedVf s h opSessionClose) (hid : id < 262144)
    (hends : turnEnds (advance s h.time) h id = false) (hopen : openIn s id (h.func - 1) = true)
    (hturn : (getSession s id).turn = none) (hstep : inStep s id = false) :
    exec (.sessionClose h id) s = .next (answerFor (releaseSession (closingSession (advance s h.time) id) id) h opSessionClose id
      stSuccess 0) := by
  have hclosing := closingSession_getSession (advance s h.time) id
  have hgoes : (getSession (closingSession (advance s h.time) id) id).state = .closing ∧
      (getSession (closingSession (advance s h.time) id) id).turn.isNone ∧
      inStep (closingSession (advance s h.time) id) id = false := by
    refine ⟨congrArg Session.state hclosing, ?_, (closingSession_inStep _ _).trans hstep⟩
    rw [hclosing, getSession_advance, hturn]
    rfl
  have hnone : ¬ (getSession (advance s h.time) id).turn.isSome = true := by
    rw [getSession_advance, hturn]
    exact Bool.false_ne_true
  have hfinish : finishClose (closingSession (advance s h.time) id) id =
    releaseSession (closingSession (advance s h.time) id) id := if_pos hgoes
  show execSessionClose h id s = _
  unfold execSessionClose
  rw [runSession_starts ha hends (decide_eq_false (Nat.not_le.mpr hid)), ← hfinish]
  exact congrArg Host.Outcome.next ((if_neg (ne_false_of_eq_true hopen)).trans (if_neg hnone))

theorem answerFor_serving (s : State) (h : Hdr) (op : Opcode) (id st r : Nat) :
    (answerFor s h op id st r).serving = s.serving :=
  (answerFor_held (held_self [.link, .mailbox, .blotter, .mgmt] s) (by rfl)).only .serving (by decide)

theorem sessionClose_frees {h : Hdr} {id : Nat} {s : State} (ha : AcceptedVf s h opSessionClose) (ht : OnTime s h)
    (hid : id < 262144) (hends : turnEnds (advance s h.time) h id = false) (hopen : openIn s id (h.func - 1) = true)
    (hturn : (getSession s id).turn = none) (hstep : inStep s id = false) :
    ∃ t, exec (.sessionClose h id) s = .next t ∧ (getSession t id).state = .free ∧
      (findStarted s 0x0306 id = none → findStarted s 0x0307 id = none →
        (∀ x, (getSession s id).pfx = some x → findStarted s 0x0308 x = none) → Answered s t h stSuccess 0 []) := by
  refine ⟨_, exec_sessionClose ha hid hends hopen hturn hstep, ?_, fun hpark hunpark hpfx => ?_⟩
  · rw [getSession_of_sessions (congrArg Serving.sessions (answerFor_serving _ _ _ _ _ _)), releaseSession_getSession]
  · have hclosing : (closingSession (advance s h.time) id).mailbox = s.mailbox := closingSession_mailbox hpark hunpark
    have hfound := findStarted_of_mailbox hclosing
    have hreleased : (releaseSession (closingSession (advance s h.time) id) id).mailbox = s.mailbox :=
      (releaseSession_mailbox ((hfound _ _).trans hpark) ((hfound _ _).trans hunpark) (fun x hx =>
        (hfound _ _).trans (hpfx x (by rwa [closingSession_getSession] at hx)))).trans hclosing
    rw [answerFor_complete ⟨hends, parksFrom_of_findStarted_none hpark hunpark _ _⟩ hreleased]
    exact complete_answered ht hreleased _ _ _

/-- Settles O14: each clause is one session command, by what it makes of the session's record. -/
theorem sessionsOpenCloseAndPark : Obligations.SessionsOpenCloseAndPark := by
  unfold Obligations.SessionsOpenCloseAndPark
  refine ⟨fun h n id seed s ha ht hn hclear hmine hroom hfree => ?_,
    fun h id s ha ht hid hends hopen hturn hstep => sessionClose_frees ha ht hid hends hopen hturn hstep,
    fun h id s ha hid hends hopen hidle hturn hcan hpages => ?_,
    fun h id s ha hid hends hopen hparked hroom hpages => ?_⟩
  · obtain ⟨t, he, hset, hanswered⟩ := sessionOpen_opens ha ht hn hclear hmine hroom hfree
    refine ⟨t, he, ?_, ?_, ?_, ?_, ?_, hset.others, hanswered⟩ <;> rw [hset.same] <;> rfl
  · obtain ⟨t, slots, he, hset, hstarted⟩ := sessionPark_parks ha hid hends hopen hidle hturn hcan hpages
    exact ⟨t, he, by rw [hset.same], by rw [hset.same], hset.others, hstarted⟩
  · obtain ⟨t, he, hset, hstarted⟩ := sessionUnpark_starts ha hid hends hopen hparked hroom hpages
    exact ⟨t, he, hset.same, hset.others, hstarted⟩

end Sys2Proof.Proofs

namespace Sys2Proof.Proofs

open Sys2Proof Sys2Proof.Machine Sys2Proof.Laws

/-! ## One entry of the table of prefixes -/

/-- From `s` to `t` entry `x` of the table becomes `v`, and every other stays. -/
structure PfxBecomes (x : Nat) (v : Pfx) (s t : State) : Prop where
  same : getPfx t x = v
  others : ∀ k, k ≠ x → getPfx t k = getPfx s k

theorem getPfx_of_prefixes {s t : State} (h : t.serving.prefixes = s.serving.prefixes) (k : Nat) : getPfx t k = getPfx s k := by
  unfold getPfx
  rw [h]

theorem putPfx_becomes (s : State) (x : Nat) (v : Pfx) : PfxBecomes x v s (putPfx s x v) :=
  ⟨getPfx_putPfx s x v, fun _ hk => getPfx_putPfx_ne s v hk⟩

/-- What leaves the table of the prefixes alone may come first. -/
theorem PfxBecomes.of_prefixes {x : Nat} {v : Pfx} {s s' t : State} (h : PfxBecomes x v s' t)
    (hs : s'.serving.prefixes = s.serving.prefixes) : PfxBecomes x v s t :=
  ⟨h.same, fun k hk => (h.others k hk).trans (getPfx_of_prefixes hs k)⟩

/-- What leaves it alone may follow. -/
theorem PfxBecomes.then_prefixes {x : Nat} {v : Pfx} {s t u : State} (h : PfxBecomes x v s t)
    (hu : u.serving.prefixes = t.serving.prefixes) : PfxBecomes x v s u :=
  ⟨(getPfx_of_prefixes hu x).trans h.same, fun k hk => (getPfx_of_prefixes hu k).trans (h.others k hk)⟩

/-! ## PREFIX_REGISTER and PREFIX_RELEASE (R240, R241) -/

/-- The entry of a plain prompt that is registered on a slot by a function whose partition is not Sealed. -/
def registeredPfx (s : State) (h : Hdr) (tenant handle slot : Nat) (alwaysRead : Bool) (segs : List Segment) : Pfx :=
  { state := .prefilling, handle := handle, tenant := tenant, length := (idsOf s slot segs).length, partition := h.func - 1,
    alwaysRead := alwaysRead, slot := slot, epoch := (getSlot s slot).epoch, tokens := idsOf s slot segs }

/-- A tenant in whose queue a prefill has joined. -/
def withQueued (t : Tenant) (x : Nat) : Tenant := { t with queue := t.queue ++ [.pfx x] }

/-- The registration of a plain prompt: its text is counted, the entry is written and the prefill queued. -/
def prefixRegistered (s : State) (h : Hdr) (tenant handle slot x : Nat) (alwaysRead : Bool) (segs : List Segment) : State :=
  putTenant (putPfx (countPrompt s slot (.plain segs)) x (registeredPfx s h tenant handle slot alwaysRead segs)) tenant
    (withQueued (getTenant s tenant) x)

theorem prefixRegistered_pfx (s : State) (h : Hdr) (n handle m x : Nat) (ar : Bool) (segs : List Segment) :
    PfxBecomes x (registeredPfx s h n handle m ar segs) s (prefixRegistered s h n handle m x ar segs) :=
  ((putPfx_becomes (countPrompt s m (.plain segs)) x (registeredPfx s h n handle m ar segs)).then_prefixes
    (u := prefixRegistered s h n handle m x ar segs) rfl).of_prefixes rfl

theorem prefixRegistered_tenant (s : State) (h : Hdr) (n handle m x : Nat) (ar : Bool) (segs : List Segment) :
    TenantBecomes n (withQueued (getTenant s n) x) s (prefixRegistered s h n handle m x ar segs) :=
  ⟨getTenant_putTenant _ n _, fun _ hk => getTenant_putTenant_ne _ _ hk⟩

/-- What a PREFIX_REGISTER of a plain prompt has to meet, with the ACTIVE slot and the index that it gets. -/
structure Registrable (s : State) (h : Hdr) (tenant handle slot x : Nat) (segs : List Segment) : Prop where
  tenant_ : tenant ≤ 0xFFFF
  bytes : segBytes segs ≤ 4194304
  nonempty : promptShape (.plain segs) ≠ 0
  shape : promptShape (.plain segs) ≤ 2097151
  clear : (getPartition s (h.func - 1)).isSealed = false
  mine : myTenant s h tenant = true
  active : activeSlot s = some slot
  unused : findPfx s tenant handle = none
  index : freePfx s = some x
  room : (promptShape (.plain segs) + 127) / 128 ≤ availablePages s none

theorem Registrable.of_advance {s : State} {h : Hdr} {tenant handle slot x : Nat} {segs : List Segment}
    (hr : Registrable s h tenant handle slot x segs) (time : Nat) :
    Registrable (advance s time) h tenant handle slot x segs :=
  ⟨hr.tenant_, hr.bytes, hr.nonempty, hr.shape, hr.clear, hr.mine, hr.active, hr.unused, hr.index, hr.room⟩

theorem prefixRegister_registers {h : Hdr} {n handle m x : Nat} (ar : Bool) {segs : List Segment} {s : State}
    (ha : AcceptedVf s h opPrefixRegister) (hr : Registrable s h n handle m x segs) :
    ∃ t, exec (.prefixRegister h n ar handle (.plain segs)) s = .next t ∧
      PfxBecomes x (registeredPfx s h n handle m ar segs) s t ∧ TenantBecomes n (withQueued (getTenant s n) x) s t ∧
      Started t h opPrefixRegister x := by
  have hread : asRead (getPartition s (h.func - 1)).isSealed (.plain segs) = .plain segs := by
    rw [hr.clear]
    rfl
  have hr' := hr.of_advance h.time
  obtain ⟨t, he, honly, hstarted⟩ := startsVf (c := .prefixRegister h n ar handle (.plain segs))
    (v := prefixRegistered (advance s h.time) h n handle m x ar segs) (arg := x) rfl ha
    (by
      rw [hread]
      dsimp only
      rw [decide_eq_false (Nat.not_lt.mpr hr.tenant_), decide_eq_false (Nat.not_lt.mpr hr.bytes), decide_eq_false hr.nonempty]
      rfl)
    (by
      rw [hread]
      refine (if_neg (ne_false_of_eq_true hr'.mine)).trans ?_
      rw [hr'.active]
      dsimp only
      rw [hr'.unused, hr'.index]
      refine (if_neg Bool.false_ne_true).trans ((if_neg (Nat.not_lt.mpr hr'.shape)).trans
        ((if_neg (Nat.not_lt.mpr hr'.room)).trans ((if_neg (ne_false_of_eq_true rfl)).trans ?_)))
      rw [hr'.clear]
      rfl)
  have hserving := honly .serving (by decide)
  have hset := (prefixRegistered_pfx (advance s h.time) h n handle m x ar segs).then_prefixes (congrArg Serving.prefixes hserving)
  have hqueue := (prefixRegistered_tenant (advance s h.time) h n handle m x ar segs).then_serving hserving
  exact ⟨t, he, hset.of_prefixes rfl, ⟨hqueue.same, hqueue.others⟩, hstarted⟩

theorem prefixRelease_marks {h : Hdr} {n handle x : Nat} {s : State} (ha : AcceptedVf s h opPrefixRelease) (ht : OnTime s h)
    (hn : n ≤ 0xFFFF) (hmine : myTenant s h n = true) (hfound : findPfx s n handle = some x)
    (hread : (getPfx s x).readers ≠ 0) :
    ∃ t, exec (.prefixRelease h n handle) s = .next t ∧ PfxBecomes x { getPfx s x with state := .releasing } s t ∧
      Answered s t h stSuccess (getPfx s x).readers [] := by
  have hfound' : findPfx (advance s h.time) n handle = some x := hfound
  have hread' : (getPfx (advance s h.time) x).readers ≠ 0 := hread
  obtain ⟨t, he, honly, hanswered⟩ := answersVf (c := .prefixRelease h n handle)
    (v := putPfx (advance s h.time) x { getPfx s x with state := .releasing }) (st := stSuccess) (r := (getPfx s x).readers)
    (d := []) rfl ha ht (decide_eq_false (Nat.not_lt.mpr hn))
    (by
      refine (if_neg (ne_false_of_eq_true hmine)).trans ?_
      dsimp only
      rw [hfound']
      dsimp only
      rw [if_neg hread']
      rfl) rfl
  have hset := (putPfx_becomes (advance s h.time) x _).then_prefixes (congrArg Serving.prefixes (honly .serving (by decide)))
  exact ⟨t, he, hset.of_prefixes rfl, hanswered⟩

/-- Settles O15: a registration by the entry and the queue that it writes, a release by the entry that it marks. -/
theorem prefixesRegisterAndRelease : Obligations.PrefixesRegisterAndRelease := by
  unfold Obligations.PrefixesRegisterAndRelease
  refine ⟨fun h n handle m x ar segs s ha hn hbytes hne hshape hclear hmine hactive hunused hindex hroom => ?_,
    fun h n handle x s ha ht hn hmine hfound hread => ?_⟩
  · obtain ⟨t, he, hset, hqueue, hstarted⟩ := prefixRegister_registers ar ha
      ⟨hn, hbytes, hne, hshape, hclear, hmine, hactive, hunused, hindex, hroom⟩
    refine ⟨t, he, ?_, ?_, ?_, ?_, ?_, congrArg Tenant.queue hqueue.same, hset.others, hstarted⟩ <;> rw [hset.same] <;> rfl
  · obtain ⟨t, he, hset, hanswered⟩ := prefixRelease_marks ha ht hn hmine hfound hread
    exact ⟨t, he, hset.same, hset.others, hanswered⟩

end Sys2Proof.Proofs

namespace Sys2Proof.Proofs

open Sys2Proof Sys2Proof.Machine Sys2Proof.Laws

/-! ## Deadlines (R250, R251) -/

theorem deadlineOf_timed {u : Turn} (hu : u.timed = true) (k : Nat) :
    deadlineOf u k = some (u.tAcc + u.ttft * 1000 + (k - 1) * (u.itb * 1000)) := by
  unfold deadlineOf
  rw [if_pos hu]

theorem deadlineOf_untimed {u : Turn} (hu : u.timed = false) (k : Nat) :
    deadlineOf u k = if u.ops.deadline = 0 then none else some u.ops.deadline := by
  unfold deadlineOf
  rw [if_neg (ne_true_of_eq_false hu)]

theorem deadlineOf_timed_succ {u : Turn} (hu : u.timed = true) (k : Nat) :
    deadlineOf u (k + 2) = (deadlineOf u (k + 1)).map (fun d => d + u.itb * 1000) := by
  rw [deadlineOf_timed hu, deadlineOf_timed hu, Option.map_some, Nat.add_assoc (_ + _), ← Nat.succ_mul]
  rfl

theorem lateNow_iff {s : State} {u : Turn} {k : Nat} :
    lateNow s u k = true ↔ ∃ d, deadlineOf u k = some d ∧ d / 4 < s.now / 4 := by
  unfold lateNow
  split
  next d hd => simp [hd]
  next hd => simp [hd]

/-! ## What the delivery of a token leaves of its turn (R233, R235) -/

/-- The turn of session `id` is the same in two states. -/
def TurnKept (id : Nat) (s t : State) : Prop := (getSession t id).turn = (getSession s id).turn

namespace TurnKept

variable {id : Nat}

theorem refl (s : State) : TurnKept id s s := rfl

theorem trans {s t u : State} (h1 : TurnKept id s t) (h2 : TurnKept id t u) : TurnKept id s u := Eq.trans h2 h1

theorem of_serving {s t : State} (h : t.serving = s.serving) : TurnKept id s t :=
  congrArg Session.turn (getSession_of_sessions (congrArg Serving.sessions h) id)

theorem putSession {s : State} {v : Session} (h : v.turn = (getSession s id).turn) : TurnKept id s (putSession s id v) :=
  (congrArg Session.turn (getSession_putSession s id v)).trans h

theorem foldl {α : Type} {f : State → α → State} (hf : ∀ s x, TurnKept id s (f s x)) (l : List α) (s : State) :
    TurnKept id s (l.foldl f s) :=
  foldl_view (fun s => (getSession s id).turn) hf l s

end TurnKept

theorem giveExtent_turnKept (s : State) (id : Nat) (o : Option Nat) : TurnKept id s (giveExtent s id o) := by
  cases o with
  | none => exact .refl s
  | some e => exact .putSession rfl

theorem addExtent_turnKept (s : State) (id : Nat) : TurnKept id s (addExtent s id) := giveExtent_turnKept s id _

theorem clearExtents_serving (s : State) (l : List Nat) : (clearExtents s l).serving = s.serving :=
  (clearExtents_held (held_self [.vellum] s) (by rfl)).only .serving (by decide)

theorem writeHistory_serving (s : State) (id k : Nat) : (writeHistory s id k).serving = s.serving :=
  (writeHistory_held (held_self [.vellum] s) (by rfl)).only .serving (by decide)

/-- A history that is written anew leaves the session's turn alone. -/
theorem setHistory_turnKept (s : State) (id : Nat) (l : List Nat) : TurnKept id s (setHistory s id l) := by
  unfold setHistory
  extract_lets v same need s1 s2
  have hset : TurnKept id s s1 :=
    TurnKept.trans (.of_serving (clearExtents_serving s _)) (.putSession (congrArg Session.turn
      (getSession_of_sessions (congrArg Serving.sessions (clearExtents_serving s (v.extents.drop need))) id)).symm)
  have hgrown : TurnKept id s s2 := hset.trans (.foldl (fun s _ => addExtent_turnKept s id) _ _)
  split
  · exact hgrown
  · exact hgrown.trans (.foldl (fun s k => .of_serving (writeHistory_serving s id k)) _ _)

theorem notePending_turnKept (s : State) (id : Nat) : TurnKept id s (notePending s id) := by
  unfold notePending
  extract_lets v
  split
  · split
    · exact .trans (.putSession (v := { v with pending := true }) rfl) (setHistory_turnKept _ id _)
    · exact .refl s
  · exact .refl s

/-- The charge of a token is its tenant's, so it leaves the turn alone too. -/
theorem chargeAndNote_turnKept (s : State) (id tenant units : Nat) :
    TurnKept id s (notePending (charge s tenant units) id) :=
  TurnKept.trans (t := charge s tenant units) rfl (notePending_turnKept _ id)

theorem chargeAndNote_mailbox (s : State) (id tenant units : Nat) :
    (notePending (charge s tenant units) id).mailbox = s.mailbox :=
  (notePending_held (charge_held (held_self [.serving, .vellum] s) (by rfl)) (by rfl)).only .mailbox (by decide)

/-! ## TS_RECORD_WRITE of a token's record (R251, R253, R268) -/

theorem stopPoint_none {u : Turn} (hlate : u.lateStop = false) (hstop : u.stopAfter = none) (lates : List Nat) :
    stopPoint u lates = none := by
  unfold stopPoint
  rw [hstop, hlate]
  rfl

/-- The issue of a token's record writes it to the ring, LATE or not, then charges the token; a turn without the late policy STOP
gets no stop. -/
theorem issueDue_token {s : State} {id : Nat} {u : Turn} (hu : (getSession s id).turn = some u) (hlate : u.lateStop = false)
    (hstop : u.stopAfter = none) (x : Nat) (sp : Bool) :
    ∃ vec v w, issueDue s id (.token x sp) =
        notePending (charge (putSession (wantVector (putQueue s u.func u.qp (pushTs (getQueue s u.func u.qp)
          (.token (stamp s) id u.delivered x sp (lateNow s u (u.delivered + 1))))) u.func vec) id v)
          (getSession s id).tenant 256) id ∧
      v.turn = some w ∧ w.stopAfter = none := by
  unfold issueDue
  extract_lets v
  have hv : v.turn = some u := hu
  rw [hv]
  have hflag : (!(((List.range 1).map (fun i => u.delivered + 1 + i)).filter (lateNow s u)).isEmpty) =
      lateNow s u (u.delivered + 1) := by
    show (!([u.delivered + 1].filter (lateNow s u)).isEmpty) = _
    rw [List.filter_singleton]
    cases lateNow s u (u.delivered + 1) <;> rfl
  rw [← hflag]
  exact ⟨_, _, _, rfl, rfl, stopPoint_none hlate hstop _⟩

theorem issueDue_token_getQueue {s : State} {id : Nat} {u : Turn} (hu : (getSession s id).turn = some u)
    (hlate : u.lateStop = false) (hstop : u.stopAfter = none) (x : Nat) (sp : Bool) :
    getQueue (issueDue s id (.token x sp)) u.func u.qp = pushTs (getQueue s u.func u.qp)
        (.token (stamp s) id u.delivered x sp (lateNow s u (u.delivered + 1))) ∧
      ∃ w, (getSession (issueDue s id (.token x sp)) id).turn = some w ∧ w.stopAfter = none := by
  obtain ⟨vec, v, w, hissue, hv, hw⟩ := issueDue_token hu hlate hstop x sp
  rw [hissue]
  refine ⟨?_, w, ?_, hw⟩
  · unfold getQueue
    rw [chargeAndNote_mailbox, putSession_mailbox, wantVector_mailbox]
    exact getQueue_putQueue s u.func u.qp _
  · rw [chargeAndNote_turnKept, getSession_putSession, hv]

/-- A turn that no late token stops goes on. -/
theorem lateStop_of_stopAfter_none {s : State} {id : Nat} {u : Turn} (hu : (getSession s id).turn = some u)
    (hstop : u.stopAfter = none) : lateStop s id = s := by
  unfold lateStop
  rw [hu]
  dsimp only
  rw [hstop]

/-- The first due record of a turn is issued where its pair is enabled, nothing waits ahead of it and the ring has space. -/
theorem pump_issues {s : State} {id : Nat} {u : Turn} {d : Due} {rest : List Due} (hu : (getSession s id).turn = some u)
    (hdue : u.due = d :: rest) (hheld : submitHeld s id = false) (hactive : (getQueue s u.func u.qp).active = true)
    (henable : (getQueue s u.func u.qp).enable = true) (hempty : (getQueue s u.func u.qp).holding = [])
    (hfits : tsFits (getQueue s u.func u.qp) (dueUnits d) = true) :
    pump s id = issueDue (modTurn s id (fun t => { t with due := rest })) id d := by
  unfold pump
  rw [hu]
  dsimp only
  rw [hdue]
  refine (if_neg (ne_true_of_eq_false hheld)).trans (if_pos ?_)
  rw [hactive, henable, hempty, hfits]
  rfl

theorem modTurn_getSession {s : State} {id : Nat} {u : Turn} (hu : (getSession s id).turn = some u) (f : Turn → Turn) :
    (getSession (modTurn s id f) id).turn = some (f u) := by
  unfold modTurn modSession
  rw [getSession_putSession]
  exact congrArg (Option.map f) hu

theorem tsRecordWrite_writes (time : Nat) {k x : Nat} {sp : Bool} {u : Turn} {rest : List Due} {s : State}
    (hu : (getSession s k).turn = some u) (hdue : u.due = .token x sp :: rest) (hlate : u.lateStop = false)
    (hstop : u.stopAfter = none) (hheld : submitHeld s k = false) (hactive : (getQueue s u.func u.qp).active = true)
    (henable : (getQueue s u.func u.qp).enable = true) (hempty : (getQueue s u.func u.qp).holding = [])
    (hfits : tsFits (getQueue s u.func u.qp) 1 = true) :
    ∃ t, exec (.tsRecordWrite time k) s = .next t ∧ getQueue t u.func u.qp = pushTs (getQueue s u.func u.qp)
      (.token (stamp (advance s time)) k u.delivered x sp (lateNow (advance s time) u (u.delivered + 1))) := by
  have hpump := pump_issues (s := advance s time) hu hdue hheld hactive henable hempty hfits
  have hpopped := modTurn_getSession (s := advance s time) hu (fun t => { t with due := rest })
  obtain ⟨hqueue, w, hw, hgoes⟩ := issueDue_token_getQueue hpopped hlate hstop x sp
  refine ⟨_, ?_, hqueue⟩
  show execTsRecordWrite time k s = _
  unfold execTsRecordWrite
  rw [hpump, lateStop_of_stopAfter_none hw hgoes]

/-- Settles O56: the two kinds of turn by the definition of a deadline, the record by what the issue of a token writes. -/
theorem deadlinesAndLateTokens : Obligations.DeadlinesAndLateTokens := by
  unfold Obligations.DeadlinesAndLateTokens
  refine ⟨fun u k hu => ⟨?_, deadlineOf_timed_succ hu k⟩, fun u j k hu => ⟨?_, fun hd => ?_⟩,
    fun time k x sp u rest s hu hdue hlate hstop hheld hactive henable hempty hfits => ?_⟩
  · rw [deadlineOf_timed hu, Nat.sub_self, Nat.zero_mul, Nat.add_zero]
  · rw [deadlineOf_untimed hu, deadlineOf_untimed hu]
  · rw [deadlineOf_untimed hu, if_neg hd]
  · obtain ⟨t, he, hqueue⟩ := tsRecordWrite_writes time hu hdue hlate hstop hheld hactive henable hempty hfits
    exact ⟨t, _, he, hqueue, lateNow_iff⟩

end Sys2Proof.Proofs

namespace Sys2Proof.Proofs

open Sys2Proof Sys2Proof.Machine Sys2Proof.Laws

/-! ## Host time (R284) -/

theorem exec_now_le {c : Instr} {s t : State} (ht : exec c s = .next t) : s.now ≤ t.now := (exec_held s c t ht).time

/-- A step runs the front command with the rest of the queue behind it, which leaves the time; an empty queue leaves all. -/
theorem step_now_le {s t : State} (ht : step s = .next t) : s.now ≤ t.now := by
  unfold step at ht
  split at ht
  · cases ht
    exact Nat.le_refl _
  · next c rest _ => exact exec_now_le (s := s.withPending rest) ht

/-- Settles O4: from the laws of the commands' meanings, of which each carries the time along. -/
theorem hostTimeNeverFalls : Obligations.HostTimeNeverFalls := by
  unfold Obligations.HostTimeNeverFalls
  exact fun c s t => ⟨exec_now_le, step_now_le⟩

end Sys2Proof.Proofs

namespace Sys2Proof.Proofs

open Sys2Proof Sys2Proof.Machine Sys2Proof.Laws

/-! ## What answers, reports and the end of turns keep of the host's side

Completions, events and reports write queues, backlogs and the vectors that a function wants. What is bound, the state of each
function's interface and the time measurement are none of theirs. -/

/-- From `s` to `t` the bindings, the state of every function's interface and the time measurement stay. -/
structure HostKept (s t : State) : Prop where
  bindings : t.mailbox.bindings = s.mailbox.bindings
  tdi : ∀ f, (getFn t f).tdi = (getFn s f).tdi
  ptm : t.link.ptm = s.link.ptm

namespace HostKept

theorem refl (s : State) : HostKept s s := ⟨rfl, fun _ => rfl, rfl⟩

theorem trans {s t u : State} (h1 : HostKept s t) (h2 : HostKept t u) : HostKept s u :=
  ⟨h2.bindings.trans h1.bindings, fun f => (h2.tdi f).trans (h1.tdi f), h2.ptm.trans h1.ptm⟩

/-- What leaves the mailbox and the link alone keeps them. -/
theorem of_only {ps : List Part} {s t : State} (h : Only ps s t) (hm : Part.mailbox ∉ ps := by decide)
    (hl : Part.link ∉ ps := by decide) : HostKept s t := by
  have hmailbox : t.mailbox = s.mailbox := h .mailbox hm
  have hlink : t.link = s.link := h .link hl
  refine ⟨congrArg Mailbox.bindings hmailbox, fun f => ?_, congrArg Link.ptm hlink⟩
  unfold getFn
  rw [hlink]

theorem ite {c : Prop} [Decidable c] {s a b : State} (ha : HostKept s a) (hb : HostKept s b) :
    HostKept s (if c then a else b) := by
  split
  · exact ha
  · exact hb

theorem foldl {α : Type} {f : State → α → State} (hf : ∀ s x, HostKept s (f s x)) (l : List α) (s : State) :
    HostKept s (l.foldl f s) := by
  induction l generalizing s with
  | nil => exact refl s
  | cons x l ih => exact (hf s x).trans (ih (f s x))

theorem putFn {s : State} {k : Nat} {v : Fn} (h : v.tdi = (getFn s k).tdi) : HostKept s (putFn s k v) := by
  refine ⟨rfl, fun f => ?_, rfl⟩
  by_cases hf : f = k
  · rw [hf, getFn_putFn, h]
  · rw [getFn_putFn_ne s v hf]

theorem putQueue (s : State) (func qp : Nat) (q : Queue) : HostKept s (putQueue s func qp q) := ⟨rfl, fun _ => rfl, rfl⟩

theorem putPartition (s : State) (n : Nat) (p : Partition) : HostKept s (putPartition s n p) := ⟨rfl, fun _ => rfl, rfl⟩

end HostKept

theorem wantVector_hostKept (s : State) (func vec : Nat) : HostKept s (wantVector s func vec) :=
  .ite (.refl s) (.putFn rfl)

theorem raiseCause_hostKept (s : State) (code : Nat) : HostKept s (raiseCause s code) := by
  have hraised : HostKept s { s with link := { s.link with eventCause := s.link.eventCause ||| causeBit code } } :=
    ⟨rfl, fun _ => rfl, rfl⟩
  exact .ite hraised (hraised.trans (wantVector_hostKept _ _ _))

theorem backlogAdd_hostKept (s : State) (func : Nat) (e : Event) : HostKept s (backlogAdd s func e) :=
  .ite ⟨rfl, fun _ => rfl, rfl⟩ (.ite ⟨rfl, fun _ => rfl, rfl⟩ ⟨rfl, fun _ => rfl, rfl⟩)

theorem postEvent_hostKept (s : State) (func code detail : Nat) : HostKept s (postEvent s func code detail) := by
  unfold postEvent
  extract_lets s1 q e
  have hcause : HostKept s s1 := .ite (raiseCause_hostKept s code) (.refl s)
  exact hcause.trans (.ite ((HostKept.putQueue s1 _ _ _).trans (wantVector_hostKept _ _ _)) (backlogAdd_hostKept _ _ _))

theorem reportPlain_hostKept (s : State) (r : Report) : HostKept s (reportPlain s r) :=
  .of_only (reportPlain_held (held_self [.blotter, .mgmt] s) (by rfl)).only

theorem fatalReached_hostKept (s : State) : HostKept s (fatalReached s) :=
  (raiseCause_hostKept s 4).trans (wantVector_hostKept _ _ _)

theorem reportFatal_hostKept (s : State) (r : Report) (active : Bool) : HostKept s (reportFatal s r active) := by
  have hblotter : ∀ (b : Blotter) (m : Mgmt), HostKept s { s with blotter := b, mgmt := m } :=
    fun _ _ => ⟨rfl, fun _ => rfl, rfl⟩
  unfold reportFatal
  extract_lets same bump r1 e s1
  exact .ite ((hblotter _ _).trans (fatalReached_hostKept _)) (.ite ((hblotter _ _).trans (fatalReached_hostKept _))
    ((hblotter _ _).trans ((postEvent_hostKept _ _ _ _).trans (wantVector_hostKept _ _ _))))

theorem report_hostKept (s : State) (r : Report) : HostKept s (report s r) :=
  .ite (reportFatal_hostKept s r true) (reportPlain_hostKept s r)

theorem note_hostKept (s : State) (code cls source address aux : Nat) : HostKept s (note s code cls source address aux) :=
  report_hostKept s _

theorem deliverCq_hostKept (s : State) (func qp : Nat) (e : CqEntry) : HostKept s (deliverCq s func qp e) :=
  .ite (.refl s) (.ite ((HostKept.putQueue s _ _ _).trans (wantVector_hostKept _ _ _)) (.ite (.putQueue s _ _ _) (.refl s)))

theorem dropFetched_hostKept (s : State) (func qp cid : Nat) : HostKept s (dropFetched s func qp cid) :=
  ⟨rfl, fun _ => rfl, rfl⟩

theorem completeAt_hostKept (s : State) (func qp cid status result : Nat) (data : List Byte) :
    HostKept s (completeAt s func qp cid status result data) := by
  unfold completeAt
  extract_lets mine late muted opcode s1 q
  have hlate : HostKept s s1 := .ite (note_hostKept s _ _ _ _ _) (.refl s)
  exact hlate.trans (.ite (dropFetched_hostKept _ _ _ _) ((dropFetched_hostKept _ _ _ _).trans (deliverCq_hostKept _ _ _ _)))

theorem releaseAnswers_hostKept (s : State) (func qp session : Nat) : HostKept s (releaseAnswers s func qp session) :=
  .foldl (fun s f => by
    split
    · exact completeAt_hostKept s _ _ _ _ _ _
    · exact .refl s) _ s

theorem notIdle_hostKept (s : State) : HostKept s (notIdle s) := ⟨rfl, fun _ => rfl, rfl⟩

theorem completeStarted_hostKept (s : State) (opcode arg status result : Nat) :
    HostKept s (completeStarted s opcode arg status result) := by
  unfold completeStarted
  split
  · have hended : ∀ f : Fetched, HostKept s (notIdle (completeAt s f.func f.qp f.cid status result [])) :=
      fun f => (completeAt_hostKept s _ _ _ _ _ _).trans (notIdle_hostKept _)
    exact .ite ((hended _).trans (releaseAnswers_hostKept _ _ _ _)) (hended _)
  · exact .refl s

/-! ### The end of turns and sessions -/

theorem endPfx_hostKept (s : State) (x : Nat) : HostKept s (endPfx s x) := by
  have hfreed : HostKept s (releasePfx (unqueue (discardRows s (.pfx x)) (getPfx s x).tenant (.pfx x)) x) :=
    .of_only (releasePfx_held (unqueue_held (discardRows_held (held_self [.serving, .vellum] s) (by rfl)) (by rfl)) (by rfl)).only
  exact hfreed.trans (completeStarted_hostKept _ _ _ _ _)

theorem dropReader_hostKept (s : State) (x : Nat) : HostKept s (dropReader s x) := by
  have hread : HostKept s (putPfx s x { getPfx s x with readers := (getPfx s x).readers - 1 }) := ⟨rfl, fun _ => rfl, rfl⟩
  exact .ite (hread.trans (endPfx_hostKept _ x)) hread

theorem freePagesOf_hostKept (s : State) (l : List Nat) : HostKept s (freePagesOf s l) :=
  .of_only (freePagesOf_held (held_self [.serving, .vellum] s) (by rfl)).only

theorem releaseOld_hostKept (s : State) (tenant : Nat) : HostKept s (releaseOld s tenant) :=
  .of_only (releaseOld_held (held_self [.serving, .images, .vellum] s) (by rfl)).only

theorem leaveTurn_hostKept (s : State) (t : Turn) : HostKept s (leaveTurn s t) := by
  unfold leaveTurn
  split
  · exact (dropReader_hostKept s _).trans (freePagesOf_hostKept _ _)
  · exact freePagesOf_hostKept s _

theorem cutPark_hostKept (s : State) (id : Nat) : HostKept s (cutPark s id) :=
  (completeStarted_hostKept s _ _ _ _).trans (completeStarted_hostKept _ _ _ _ _)

theorem releaseSession_hostKept (s : State) (id : Nat) : HostKept s (releaseSession s id) := by
  unfold releaseSession
  extract_lets s1 v s2 s3 p s4 s5 trust s6 s7
  have hpages : HostKept s s2 := (cutPark_hostKept s id).trans
    ((HostKept.of_only (clearExtents_held (held_self [.vellum] s1) (by rfl)).only).trans (freePagesOf_hostKept _ _))
  have hreader : HostKept s2 s3 := by
    show HostKept s2 (match v.pfx with | some x => dropReader s2 x | none => s2)
    split
    · exact dropReader_hostKept s2 _
    · exact .refl s2
  have hdraft : HostKept s4 s5 := .of_only (setDraft_held (held_self [.serving, .vellum] s4) (by rfl)).only
  have hold : HostKept s5 s7 := HostKept.trans (t := putSession s6 id {}) ⟨rfl, fun _ => rfl, rfl⟩ (releaseOld_hostKept _ _)
  have hall : HostKept s s7 := 
    hpages.trans (hreader.trans (HostKept.trans (t := s4) ⟨rfl, fun _ => rfl, rfl⟩ (hdraft.trans hold)))
  split
  · exact hall.trans (.of_only (sweepPfx_held (held_self [.serving, .vellum] s7) (by rfl)).only)
  · exact hall

theorem finishClose_hostKept (s : State) (id : Nat) : HostKept s (finishClose s id) :=
  .ite (releaseSession_hostKept s id) (.refl s)

theorem closeTurn_hostKept (s : State) (id : Nat) : HostKept s (closeTurn s id) := by
  unfold closeTurn
  extract_lets v0
  split
  · exact .refl s
  · extract_lets o s1 v s2 s3 k s4 s5 broken s6 s7
    have hleft : HostKept s s2 := HostKept.trans (t := s1) (leaveTurn_hostKept s _) ⟨rfl, fun _ => rfl, rfl⟩
    have hhistory : HostKept s2 s3 := .of_only (setHistory_held (held_self [.serving, .vellum] s2) (by rfl)).only
    have hfault : HostKept s3 s5 := .ite ((postEvent_hostKept s3 _ _ _).trans (report_hostKept _ _)) (.refl s3)
    have hanswered : HostKept s5 s7 := (completeStarted_hostKept s5 _ _ _ _).trans (completeStarted_hostKept _ _ _ _ _)
    exact hleft.trans (hhistory.trans (hfault.trans (hanswered.trans
      ((finishClose_hostKept s7 id).trans ((releaseOld_hostKept _ _).trans (notIdle_hostKept _))))))

theorem dropTurn_hostKept (s : State) (id : Nat) : HostKept s (dropTurn s id) := by
  unfold dropTurn
  extract_lets v
  split
  · exact .refl s
  · extract_lets s1
    have hgone : HostKept s s1 := HostKept.trans
      (.of_only (unqueue_held (discardRows_held (held_self [.serving] s) (by rfl)) (by rfl)).only) (.putQueue _ _ _ _)
    exact hgone.trans (HostKept.trans (t := modTurn s1 id _) ⟨rfl, fun _ => rfl, rfl⟩ (closeTurn_hostKept _ id))

theorem dropTurns_hostKept (s : State) (p : Session → Bool) : HostKept s (dropTurns s p) :=
  .foldl dropTurn_hostKept _ s


/-! ### The clearing of a partition and the reset of a function (R257, R292) -/

theorem clearPartition_hostKept (s : State) (n : Nat) : HostKept s (clearPartition s n) := by
  unfold clearPartition
  extract_lets s1 s2 pf s3 ts s4 p s5
  have hsessions : HostKept s s2 := (dropTurns_hostKept s _).trans (.foldl (fun s id =>
    HostKept.trans (t := modSession s id _) ⟨rfl, fun _ => rfl, rfl⟩ (finishClose_hostKept _ id)) _ s1)
  have hprefixes : HostKept s2 s3 := .foldl (fun s x => .of_only
    (releasePfx_held (unqueue_held (discardRows_held (held_self [.serving, .vellum] s) (by rfl)) (by rfl)) (by rfl)).only) _ s2
  have htenants : HostKept s3 s4 := .foldl (fun s x => .of_only
    (releaseAdapters_held (held_self [.serving, .images, .vellum] s) (by rfl)).only) _ s3
  have hparks : HostKept s4 s5 := .putPartition s4 n _
  have hcleared : HostKept s s5 := hsessions.trans (hprefixes.trans (htenants.trans hparks))
  exact .ite (hcleared.trans (.of_only (queueClear_held (held_self [.serving] s5) (by rfl)).only)) hcleared

theorem discardHeld_hostKept (s : State) (func : Nat) : HostKept s (discardHeld s func) := by
  unfold discardHeld
  extract_lets s1
  exact HostKept.trans (t := s1) (.foldl (fun s qp => .putQueue s _ _ _) _ s) ⟨rfl, fun _ => rfl, rfl⟩

theorem resetQueue_hostKept (s : State) (func qp : Nat) (hold : Bool) : HostKept s (resetQueue s func qp hold) :=
  .putQueue s _ _ _

/-- The reset of a function's registers keeps its interface's state (R297). -/
theorem resetFn_hostKept (s : State) (func : Nat) (hold : Bool) : HostKept s (resetFn s func hold) := by
  unfold resetFn
  extract_lets s1 f
  exact HostKept.trans (t := s1) (.foldl (fun s qp => resetQueue_hostKept s func qp hold) _ s) (.putFn rfl)

/-- A function as the reset of its registers leaves it. -/
theorem resetFn_getFn (s : State) (func : Nat) (hold : Bool) :
    ∃ f : Fn, getFn (resetFn s func hold) func =
      { tdi := f.tdi, ideSecure := f.ideSecure, ideKeys := f.ideKeys, rrs := f.rrs, d3hot := f.d3hot } :=
  ⟨_, getFn_putFn _ func _⟩

/-- Whether a start is under way is the board's. -/
theorem starting_of_board {s t : State} (h : t.board = s.board) : starting t = starting s := by
  unfold starting
  rw [h]

/-- A virtual function just before its reset sets its interface's state: the partition cleared, the registers reset. -/
def flrCleared (s : State) (func : Nat) : State := resetFn (discardHeld (clearPartition s (func - 1)) func) func false

theorem flrCleared_hostKept (s : State) (func : Nat) : HostKept s (flrCleared s func) :=
  (clearPartition_hostKept s _).trans ((discardHeld_hostKept _ func).trans (resetFn_hostKept _ func false))

theorem flrCleared_board (s : State) (func : Nat) : (flrCleared s func).board = s.board :=
  (resetFn_held (discardHeld_held (clearPartition_held
    (held_self [.link, .mailbox, .serving, .images, .vellum, .power, .blotter, .mgmt, .trust] s) (by rfl)) (by rfl)) (by rfl)).only
    .board (by decide)

/-- The function after its reset (R292): it answers with RRS unless a start is under way, and keeps of its interface an ERROR
alone. -/
theorem flrVf_getFn (s : State) (func : Nat) :
    getFn (flrVf s func) func = { getFn (flrCleared s func) func with
      rrs := !starting s, tdi := if (getFn s func).tdi = .error then .error else .unlocked } := by
  rw [← starting_of_board (flrCleared_board s func), ← (flrCleared_hostKept s func).tdi func]
  exact getFn_putFn _ func _

theorem flrVf_bindings (s : State) (func : Nat) :
    (flrVf s func).mailbox.bindings = tput {} s.mailbox.bindings func {} := by
  rw [← (flrCleared_hostKept s func).bindings]
  rfl

theorem flrVf_binding (s : State) (func f : Nat) :
    tget ({} : Binding) (flrVf s func).mailbox.bindings f =
      if f = func then {} else tget {} s.mailbox.bindings f := by
  rw [flrVf_bindings, tget_tput]

/-- Each function that is reset is unbound, and the others keep their bindings. -/
theorem foldl_flrVf_binding (l : List Nat) (s : State) (f : Nat) :
    tget ({} : Binding) (l.foldl flrVf s).mailbox.bindings f = if f ∈ l then {} else tget {} s.mailbox.bindings f := by
  induction l generalizing s with
  | nil => rfl
  | cons x l ih =>
    rw [List.foldl_cons, ih, flrVf_binding]
    by_cases hl : f ∈ l
    · rw [if_pos hl, if_pos (List.mem_cons_of_mem x hl)]
    · rw [if_neg hl]
      exact if_congr (by simp [hl]) rfl rfl

/-- An interface that enters ERROR stays there through the reset of its function (R288, R297). -/
theorem tdiError_tdi (s : State) (func : Nat) : (getFn (tdiError s func) func).tdi = .error := by
  have herror : (getFn (putFn s func { getFn s func with tdi := .error }) func).tdi = .error := by rw [getFn_putFn]
  unfold tdiError
  rw [flrVf_getFn]
  exact if_pos herror

end Sys2Proof.Proofs

namespace Sys2Proof.Proofs

open Sys2Proof Sys2Proof.Machine Sys2Proof.Laws

/-! ## Precision time measurement (R284 to R286) -/

theorem setPtm_only (s : State) (p : Ptm) : Only [.link] s (setPtm s p) := setLink_only s _

theorem ptmEnable_starts (time : Nat) (s : State) (hup : s.link.up = true) (hoff : s.link.ptm.enabled = false) :
    ∃ t, exec (.ptmEnable time) s = .next t ∧
      t.link.ptm = { s.link.ptm with enabled := true, agree := 0, lapsed := false, lastGood := max s.now time } ∧
      Only [.now, .link] s t := by
  have hstarts : ((advance s time).link.up && !(advance s time).link.ptm.enabled) = true := by
    rw [advance_link, hup, hoff]
    rfl
  exact ⟨_, congrArg Host.Outcome.next (if_pos hstarts), rfl, only_append (advance_only s time) (setPtm_only _ _)⟩

theorem ptmDisable_clears (time : Nat) (s : State) :
    ∃ t, exec (.ptmDisable time) s = .next t ∧
      t.link.ptm = { s.link.ptm with enabled := false, lock := false, lapsed := false, agree := 0 } ∧
      Only [.now, .link] s t :=
  ⟨_, rfl, rfl, only_append (advance_only s time) (setPtm_only _ _)⟩

theorem ptmExchange_fails (time : Nat) (off : Int) (s : State) (hon : s.link.ptm.enabled = true) :
    ∃ t, exec (.ptmExchange time off false) s = .next t ∧ t.link.ptm = { s.link.ptm with agree := 0 } ∧
      t.now = max s.now time :=
  ⟨_, congrArg Host.Outcome.next ((if_neg (ne_false_of_eq_true hon)).trans (if_pos rfl)), rfl, rfl⟩

/-- The exchanges in a row that agree, with a good one of this offset (R284, log entry 38). -/
def agreeNext (p : Ptm) (off : Int) : Nat :=
  if p.agree = 0 ∨ 200 < (off - p.lastOffset).natAbs then 1
  else if p.agree = 1 ∨ (off - p.priorOffset).natAbs ≤ 200 then p.agree + 1 else 2

/-- The measurement after a good exchange. -/
def exchanged (p : Ptm) (off : Int) (now : Nat) : Ptm :=
  { p with
    agree := agreeNext p off, lastOffset := off, priorOffset := p.lastOffset, lastGood := now, lapsed := false,
    lock := p.lock || decide (3 ≤ agreeNext p off), slew := if off.natAbs ≤ 10000 then off else 0 }

/-- The state after a good exchange: a small offset is left to the slew, a larger one steps host time (R285). -/
def ptmStepped (s : State) (off : Int) : State :=
  if off.natAbs ≤ 10000 then s
  else
    let s := postEvent s 0 6 (signedField 64 off)
    { s with now := max s.now ((s.now : Int) + off).toNat }

theorem exec_ptmExchange (time : Nat) (off : Int) {s : State} (hon : s.link.ptm.enabled = true) :
    exec (.ptmExchange time off true) s =
      .next (ptmStepped (setPtm (advance s time) (exchanged s.link.ptm off (max s.now time))) off) := by
  have hagree : agreeNext s.link.ptm off =
      if s.link.ptm.agree = 0 ∨ decide ((off - s.link.ptm.lastOffset).natAbs ≤ 200) = false then 1
      else if s.link.ptm.agree = 1 ∨ decide ((off - s.link.ptm.priorOffset).natAbs ≤ 200) = true then s.link.ptm.agree + 1
      else 2 := by
    simp [agreeNext]
  show execPtmExchange time off true s = _
  unfold exchanged
  rw [hagree]
  exact congrArg Host.Outcome.next ((if_neg (ne_false_of_eq_true hon)).trans (if_neg (ne_false_of_eq_true rfl)))

theorem postEvent_now (s : State) (func code detail : Nat) : (postEvent s func code detail).now = s.now :=
  (postEvent_held (held_self [.link, .mailbox] s) (by rfl)).only .now (by decide)

theorem ptmStepped_ptm (s : State) (off : Int) : (ptmStepped s off).link.ptm = s.link.ptm := by
  unfold ptmStepped
  split
  · rfl
  · exact (postEvent_hostKept s _ _ _).ptm

theorem ptmStepped_now (s : State) (off : Int) :
    (ptmStepped s off).now = if off.natAbs ≤ 10000 then s.now else max s.now ((s.now : Int) + off).toNat := by
  unfold ptmStepped
  split
  · rfl
  · dsimp only
    rw [postEvent_now]

theorem ptmExchange_counts (time : Nat) (off : Int) (s : State) (hon : s.link.ptm.enabled = true) :
    ∃ t, exec (.ptmExchange time off true) s = .next t ∧ t.link.ptm = exchanged s.link.ptm off (max s.now time) ∧
      t.now = if off.natAbs ≤ 10000 then max s.now time
        else max (max s.now time) ((max s.now time : Nat) + off : Int).toNat :=
  ⟨_, exec_ptmExchange time off hon, ptmStepped_ptm _ _, ptmStepped_now _ _⟩

/-- A measurement whose last good exchange is 100 ms ago lapses. -/
theorem exec_ptmLapse (time : Nat) {s : State} (hon : s.link.ptm.enabled = true) (hnew : s.link.ptm.lapsed = false)
    (hlast : s.link.ptm.lastGood + 100000000 ≤ max s.now time) :
    exec (.ptmLapse time) s = .next (forfeitAll (postEvent (setPtm (advance s time)
      { s.link.ptm with lock := false, lapsed := true, agree := 0 }) 0 7 s.link.ptm.lastGood) 4) := by
  have hlast' : s.link.ptm.lastGood + 100000000 ≤ (advance s time).now := hlast
  show execPtmLapse time s = _
  unfold execPtmLapse
  dsimp only
  rw [advance_link, hon, hnew, decide_eq_true hlast']
  exact congrArg Host.Outcome.next (if_pos rfl)

theorem ptmLapse_clears (time : Nat) (s : State) (hon : s.link.ptm.enabled = true) (hnew : s.link.ptm.lapsed = false)
    (hlast : s.link.ptm.lastGood + 100000000 ≤ max s.now time) :
    ∃ t, exec (.ptmLapse time) s = .next t ∧ t.link.ptm = { s.link.ptm with lock := false, lapsed := true, agree := 0 } :=
  ⟨_, exec_ptmLapse time hon hnew hlast, (postEvent_hostKept _ 0 7 _).ptm⟩

/-- Settles O34: the exchange by whether it is good, and its correction by whether the offset is slewed or stepped. -/
theorem ptmLocksAndLapses : Obligations.PtmLocksAndLapses := by
  unfold Obligations.PtmLocksAndLapses
  refine ⟨ptmEnable_starts, ptmDisable_clears, fun time off s hon => ⟨ptmExchange_fails time off s hon, ?_⟩, ptmLapse_clears⟩
  obtain ⟨t, he, hptm, hnow⟩ := ptmExchange_counts time off s hon
  refine ⟨t, he, ?_, ?_, ?_, ?_, ?_, ?_, hnow⟩ <;> rw [hptm]
  · rfl
  · rfl
  · show (s.link.ptm.lock || decide (3 ≤ agreeNext s.link.ptm off)) = true ↔ _
    rw [Bool.or_eq_true, decide_eq_true_eq]
    rfl
  · rfl
  · rfl
  · rfl

end Sys2Proof.Proofs

namespace Sys2Proof.Proofs

open Sys2Proof Sys2Proof.Machine Sys2Proof.Laws

/-! ## Reports of the units (R430 to R432) -/

theorem setBlotter_only (s : State) (v : Blotter) : Only [.blotter] s { s with blotter := v } := fun p hp => by
  cases p with
  | blotter => exact absurd (List.mem_singleton_self _) hp
  | _ => rfl

/-- The intake with one more report to be written. -/
def intakeTaken (s : State) : State :=
  { s with blotter := { s.blotter with busyUntil := max s.now s.blotter.busyUntil + 250 } }

/-- A report that is not fatal is written as it is while the intake has room and nothing is coalesced. -/
theorem report_writes {s : State} {r : Report} (hcls : r.cls ≠ 6) (hroom : intakeHeld s.blotter s.now < 768)
    (hapart : s.blotter.coalescing = false) : report s r = writeEntry (intakeTaken s) (mkEntry s r false) := by
  have hcoalesced : ¬ (768 ≤ intakeHeld s.blotter s.now ∨
      (s.blotter.coalescing = true ∧ 256 < intakeHeld s.blotter s.now)) := by
    rw [hapart]
    rintro (hfull | ⟨hco, -⟩)
    · exact absurd hroom (Nat.not_lt.mpr hfull)
    · exact Bool.false_ne_true hco
  have hlost : ¬ 1024 ≤ intakeHeld s.blotter s.now := by omega
  exact (if_neg hcls).trans ((if_neg hlost).trans (if_neg hcoalesced))

/-- The reserve with one more fatal entry, that the sideband is to send. -/
def reserved (s : State) (e : Entry) : State :=
  { s with
    blotter := { s.blotter with reserve := s.blotter.reserve ++ [e], next := s.blotter.next + 1 },
    mgmt := { s.mgmt with toSend := s.mgmt.toSend ++ [e] } }

/-- A fatal report of a source and code that the reserve does not have goes to the reserve, with its event. -/
theorem report_reserves {s : State} {r : Report} (hcls : r.cls = 6)
    (hnew : s.blotter.reserve.any (fun k => k.report.source == r.source && k.report.code == r.code) = false)
    (hroom : s.blotter.reserve.length < 63) :
    report s r = wantVector (postEvent (reserved s (mkEntry s r true)) 0 4 s.blotter.next) 0 3 := by
  have hlast : (if s.blotter.reserve.length = 63 then { r with source := 0xFFFF } else r) = r := if_neg (Nat.ne_of_lt hroom)
  refine (if_pos hcls).trans ?_
  unfold reportFatal
  dsimp only
  rw [hlast]
  exact (if_neg (ne_true_of_eq_false hnew)).trans (if_neg (by omega))

theorem postEvent_blotter (s : State) (func code detail : Nat) : (postEvent s func code detail).blotter = s.blotter :=
  (postEvent_held (held_self [.link, .mailbox] s) (by rfl)).only .blotter (by decide)

theorem exec_blotterReport (time : Nat) {r : Report} {s : State} (hruns : governorRuns s = true)
    (hcode : (codeClasses r.code).contains r.cls = true) :
    exec (.blotterReport time r) s = .next (report (advance s time) r) := by
  have hruns' : governorRuns (advance s time) = true := hruns
  exact congrArg Host.Outcome.next (if_pos (Bool.and_eq_true_iff.mpr ⟨hruns', hcode⟩))

theorem blotterReport_writes (time : Nat) {r : Report} {s : State} (hruns : governorRuns s = true)
    (hcode : (codeClasses r.code).contains r.cls = true) (hcls : r.cls ≠ 6)
    (hroom : intakeHeld s.blotter (max s.now time) < 768) (hapart : s.blotter.coalescing = false) :
    ∃ t, exec (.blotterReport time r) s = .next t ∧
      t.blotter.ring = keepRing (s.blotter.ring ++ [mkEntry (advance s time) r false]) ∧
      t.blotter.next = s.blotter.next + 1 ∧ Only [.now, .blotter, .mgmt] s t := by
  have he : exec (.blotterReport time r) s =
      .next (writeEntry (intakeTaken (advance s time)) (mkEntry (advance s time) r false)) :=
    (exec_blotterReport time hruns hcode).trans (congrArg Host.Outcome.next (report_writes hcls hroom hapart))
  exact ⟨_, he, rfl, rfl, only_append (advance_only s time) (Only.trans (Only.mono (setBlotter_only _ _) (by decide))
    (writeEntry_held (held_self [.blotter, .mgmt] _) (by rfl)).only)⟩

theorem blotterReport_reserves (time : Nat) {r : Report} {s : State} (hruns : governorRuns s = true)
    (hcode : (codeClasses r.code).contains r.cls = true) (hcls : r.cls = 6)
    (hnew : s.blotter.reserve.any (fun k => k.report.source == r.source && k.report.code == r.code) = false)
    (hroom : s.blotter.reserve.length < 63) :
    ∃ t, exec (.blotterReport time r) s = .next t ∧
      t.blotter.reserve = s.blotter.reserve ++ [mkEntry (advance s time) r true] ∧
      t.blotter.next = s.blotter.next + 1 ∧ t.blotter.ring = s.blotter.ring := by
  have he : exec (.blotterReport time r) s = .next (wantVector (postEvent (reserved (advance s time)
      (mkEntry (advance s time) r true)) 0 4 s.blotter.next) 0 3) :=
    (exec_blotterReport time hruns hcode).trans (congrArg Host.Outcome.next (report_reserves hcls hnew hroom))
  have hblotter := (wantVector_only (postEvent (reserved (advance s time) (mkEntry (advance s time) r true)) 0 4 s.blotter.next)
    0 3 .blotter (by decide)).trans (postEvent_blotter _ _ _ _)
  exact ⟨_, he, (congrArg Blotter.reserve hblotter).trans rfl, (congrArg Blotter.next hblotter).trans rfl,
    (congrArg Blotter.ring hblotter).trans rfl⟩

/-! ## COALESCE_FLUSH (R433) -/

/-- Of the blotter, flushing keys writes the ring and takes an INDEX for each. -/
theorem foldl_flushKey_blotter (l : List Entry) (s : State) :
    ∃ ring, (l.foldl flushKey s).blotter = { s.blotter with ring := ring, next := s.blotter.next + l.length } := by
  induction l generalizing s with
  | nil => exact ⟨_, rfl⟩
  | cons k l ih =>
    obtain ⟨ring, hring⟩ := ih (flushKey s k)
    refine ⟨ring, hring.trans ?_⟩
    rw [List.length_cons, Nat.add_comm l.length, ← Nat.add_assoc]
    rfl

theorem foldl_flushKey_only (l : List Entry) (s : State) : Only [.blotter, .mgmt] s (l.foldl flushKey s) :=
  (foldl_held (fun _ _ h => writeEntry_held h (by rfl)) (held_self _ s)).only

/-- Every key written and freed; coalescing goes on while the intake holds more than 256 reports. -/
def keysFlushed (s : State) : State :=
  let t := s.blotter.keys.foldl flushKey { s with blotter := { s.blotter with keys := [] } }
  { t with blotter := { t.blotter with coalescing := decide (256 < intakeHeld t.blotter t.now) } }

theorem keysFlushed_only (s : State) : Only [.blotter, .mgmt] s (keysFlushed s) :=
  Only.trans (Only.mono (setBlotter_only s _) (by decide))
    (Only.trans (foldl_flushKey_only _ _) (Only.mono (setBlotter_only _ _) (by decide)))

theorem keysFlushed_blotter (s : State) :
    ∃ ring, (keysFlushed s).blotter = { s.blotter with
      keys := [], ring := ring, next := s.blotter.next + s.blotter.keys.length,
      coalescing := decide (256 < intakeHeld s.blotter s.now) } := by
  have hnow := foldl_flushKey_only s.blotter.keys { s with blotter := { s.blotter with keys := [] } } .now (by decide)
  obtain ⟨ring, hring⟩ := foldl_flushKey_blotter s.blotter.keys { s with blotter := { s.blotter with keys := [] } }
  refine ⟨ring, ?_⟩
  unfold keysFlushed
  dsimp only
  rw [hring, show State.now _ = _ from hnow]
  rfl

theorem coalesceFlush_flushes (time : Nat) (s : State) (hco : s.blotter.coalescing = true) :
    ∃ t, exec (.coalesceFlush time) s = .next t ∧ t.blotter.keys = [] ∧
      t.blotter.next = s.blotter.next + s.blotter.keys.length ∧
      (t.blotter.coalescing = true ↔ 256 < intakeHeld s.blotter (max s.now time)) ∧ Only [.now, .blotter, .mgmt] s t := by
  have hco' : (advance s time).blotter.coalescing = true := hco
  have he : exec (.coalesceFlush time) s = .next (keysFlushed (advance s time)) := congrArg Host.Outcome.next (if_pos hco')
  obtain ⟨ring, hring⟩ := keysFlushed_blotter (advance s time)
  refine ⟨_, he, congrArg Blotter.keys hring, congrArg Blotter.next hring, ?_, ?_⟩
  · rw [hring]
    exact decide_eq_true_iff
  · exact only_append (advance_only s time) (keysFlushed_only _)

/-! ## COMPLETION_TIMEOUT (R278) -/

theorem completionTimeout_endsLoad (time slot : Nat) (s : State) (hslot : slot < 2) (hload : isLoading (getSlot s slot) = true) :
    ∃ t, exec (.completionTimeout time (.folio slot)) s = .next t ∧
      getSlot t slot = { state := .loading, refuse := 0x0E, relocated := (getSlot s slot).relocated } ∧
      getSlot t (1 - slot) = getSlot s (1 - slot) := by
  have hload' : isLoading (getSlot (aerError (advance s time) 14) slot) = true := hload
  refine ⟨_, congrArg Host.Outcome.next (if_pos ⟨hslot, hload'⟩), ?_, ?_⟩
  · refine (clearSlot_getSlot _ _ _).trans ?_
    rw [getSlot_of_images (completeStarted_images _ _ _ _ _)]
    rfl
  · exact (clearSlot_other _ _ _).trans (getSlot_of_images (completeStarted_images _ _ _ _ _) _)

/-- An event that waits in the backlog writes no queue. -/
theorem backlogAdd_getQueue (s : State) (f : Nat) (e : Event) (func qp : Nat) :
    getQueue (backlogAdd s f e) func qp = getQueue s func qp := by
  unfold backlogAdd
  dsimp only
  split
  · rfl
  · split <;> rfl

/-- A queue pair's own event writes no more of its queue than the CQ. -/
theorem postPairEvent_stopped (s : State) (func qp : Nat) (e : Event) :
    (getQueue (postPairEvent s func qp e) func qp).stopped = (getQueue s func qp).stopped := by
  unfold postPairEvent
  dsimp only
  split
  · unfold writeEvent
    dsimp only
    rw [wantVector_getQueue, getQueue_putQueue]
    rfl
  · rw [backlogAdd_getQueue]

theorem queueError_stopped (s : State) (func qp cause : Nat) :
    (getQueue (queueError s func qp cause) func qp).stopped = true := by
  unfold queueError
  extract_lets q s1 s2
  have hnoted : (note s2 0x0502 3 0x4010 (func * 256 + qp) cause).mailbox = s2.mailbox :=
    (reportPlain_held (held_self [.blotter, .mgmt] s2) (by rfl)).only .mailbox (by decide)
  have hqueue : getQueue (note s2 0x0502 3 0x4010 (func * 256 + qp) cause) func qp = getQueue s2 func qp := by
    unfold getQueue
    rw [hnoted]
  rw [hqueue, postPairEvent_stopped, getQueue_putQueue]

theorem completionTimeout_stopsPair (time func qp : Nat) (s : State) (hactive : (getQueue s func qp).active = true)
    (henable : (getQueue s func qp).enable = true) (hruns : (getQueue s func qp).stopped = false)
    (hwork : (getQueue s func qp).sqHead ≠ (getQueue s func qp).sqTail) :
    ∃ t, exec (.completionTimeout time (.descriptor func qp)) s = .next t ∧ (getQueue t func qp).stopped = true := by
  have hfetches : ((getQueue s func qp).active && (getQueue s func qp).enable && !(getQueue s func qp).stopped &&
      decide ((getQueue s func qp).sqHead ≠ (getQueue s func qp).sqTail)) = true := by
    rw [hactive, henable, hruns, decide_eq_true hwork]
    rfl
  exact ⟨_, congrArg Host.Outcome.next (if_pos hfetches), queueError_stopped _ _ _ _⟩

/-- The page is LIVE again, and nothing more of the session goes out. -/
structure ParkUndone (k p : Nat) (t : State) : Prop where
  page : (getPage t p).state = .live
  outbound : (getSession t k).outbound = []

theorem ParkUndone.modSession {k p : Nat} {t : State} (h : ParkUndone k p t) {f : Session → Session}
    (hf : ∀ v, (f v).outbound = v.outbound) : ParkUndone k p (modSession t k f) := by
  refine ⟨h.page, ?_⟩
  unfold Machine.modSession
  rw [getSession_putSession, hf, h.outbound]

theorem ParkUndone.completeStarted {k p : Nat} {t : State} (h : ParkUndone k p t) (opcode arg st r : Nat) :
    ParkUndone k p (completeStarted t opcode arg st r) := by
  have honly := (completeStarted_held (held_self [.link, .mailbox, .power, .blotter, .mgmt] t) (by rfl)
    (opcode := opcode) (arg := arg) (status := st) (result := r)).only
  have hvellum : (Machine.completeStarted t opcode arg st r).vellum = t.vellum := honly .vellum (by decide)
  refine ⟨?_, ?_⟩
  · unfold getPage
    rw [hvellum]
    exact h.page
  · rw [getSession_of_sessions (congrArg Serving.sessions (honly .serving (by decide))), h.outbound]

/-- A park whose page is not confirmed is undone (R237). -/
theorem parkUnconfirmed_undoes {s : State} {k l p slot : Nat} {rest : List (Nat × Nat)} {more : List Nat}
    (hpages : (getSession s k).pages = (l, p) :: rest) (hout : (getSession s k).outbound = slot :: more)
    (hpage : (getPage s p).state = .outbound) : ParkUndone k p (parkUnconfirmed s k) := by
  unfold parkUnconfirmed
  extract_lets v
  split
  · next hp ho =>
    cases hp.symm.trans hpages
    cases ho.symm.trans hout
    rw [if_neg (fun h => h hpage)]
    extract_lets page s1 s2 s3 s4 auto s5
    have hforfeit : Only [.serving] s3 s4 := by
      show Only [.serving] s3 (if engaged v then forfeitOne s3 k 5 else s3)
      split
      · exact (forfeitOne_held (held_self _ s3) (by rfl)).only
      · exact Only.refl _ s3
    have hslots : Only [.serving] s1 s2 := (releaseSlots_held (held_self _ s1) (by rfl)).only
    have hvellum : s4.vellum = s1.vellum :=
      (hforfeit .vellum (by decide)).trans ((report_only s2 _ .vellum (by decide)).trans (hslots .vellum (by decide)))
    have hlive : (getPage s4 p).state = .live := by
      unfold getPage
      rw [hvellum]
      exact congrArg Page.state (getPage_putPage s p _)
    have hundone : ParkUndone k p s5 := ⟨hlive, congrArg Session.outbound (getSession_putSession s4 k _)⟩
    split
    · apply ParkUndone.completeStarted
      apply ParkUndone.modSession hundone
      exact fun _ => rfl
    · apply ParkUndone.modSession hundone
      exact fun _ => rfl
  · next hnone => exact absurd hout (hnone _ _ _ _ _ hpages)

theorem completionTimeout_undoesPark (time k l p slot : Nat) (rest : List (Nat × Nat)) (more : List Nat) (s : State)
    (hpages : (getSession s k).pages = (l, p) :: rest) (hout : (getSession s k).outbound = slot :: more)
    (hpage : (getPage s p).state = .outbound) :
    ∃ t, exec (.completionTimeout time (.park k)) s = .next t ∧ (getPage t p).state = .live ∧
      (getSession t k).outbound = [] := by
  have hundone := parkUnconfirmed_undoes (s := aerError (advance s time) 14) hpages hout hpage
  exact ⟨_, rfl, hundone.page, hundone.outbound⟩

/-- Settles O32: a report by where it goes, the flush by what it writes, and the time-out by what was being read. -/
theorem reportsReachTheBlotter : Obligations.ReportsReachTheBlotter := by
  unfold Obligations.ReportsReachTheBlotter
  exact ⟨fun time r s hruns hcode => ⟨blotterReport_writes time hruns hcode, blotterReport_reserves time hruns hcode⟩,
    coalesceFlush_flushes, completionTimeout_endsLoad, completionTimeout_stopsPair, completionTimeout_undoesPark⟩

end Sys2Proof.Proofs

namespace Sys2Proof.Proofs

open Sys2Proof Sys2Proof.Machine Sys2Proof.Laws

/-! ## EVENT_CAUSE_CLEAR and EXPORT_ENABLE (R280, R318) -/

theorem not_unreachable {s : State} {f : Nat} (hr : reachable s f = true) (time : Nat) :
    ¬ reachable (advance s time) f = false := by
  rw [show reachable (advance s time) f = reachable s f from rfl, hr]
  decide

/-- The written bits of EVENT_CAUSE cleared. -/
def causesCleared (s : State) (bits : BitVec 5) : State :=
  { s with link := { s.link with eventCause := s.link.eventCause &&& ~~~ bits } }

theorem eventCauseClear_clears (time bits : Nat) (s : State) (hr : reachable s 0 = true) :
    ∃ t, exec (.eventCauseClear time bits) s = .next t ∧
      t.link.eventCause = s.link.eventCause &&& ~~~ (BitVec.ofNat 5 bits) ∧
      ((BitVec.ofNat 5 bits).getLsbD 2 = true → ∀ w ∈ t.blotter.warnings, w.acked = true ∧ w.ended = false) ∧
      ((BitVec.ofNat 5 bits).getLsbD 2 = false → t.blotter = s.blotter) := by
  have hr' : reachable (advance s time) 0 = true := hr
  have he : exec (.eventCauseClear time bits) s = .next (if (BitVec.ofNat 5 bits).getLsbD 2
      then ackWarnings (causesCleared (advance s time) (BitVec.ofNat 5 bits))
      else causesCleared (advance s time) (BitVec.ofNat 5 bits)) := congrArg Host.Outcome.next (if_pos hr')
  refine ⟨_, he, ?_⟩
  cases (BitVec.ofNat 5 bits).getLsbD 2 with
  | true => exact ⟨rfl, fun _ w hw => mem_ackWarnings hw, nofun⟩
  | false => exact ⟨rfl, nofun, fun _ => rfl⟩

theorem exportEnable_sets (time : Nat) (v : Bool) (s : State) (hr : reachable s 0 = true) :
    ∃ t, exec (.exportEnable time v) s = .next t ∧ t.link = { s.link with exportEnable := v } ∧
      (v = true → t.images = s.images) ∧ (v = false → t.images.exported = { count := s.images.exported.count }) := by
  have hr' : reachable (advance s time) 0 = true := hr
  refine ⟨_, congrArg Host.Outcome.next (if_pos hr'), ?_⟩
  cases v with
  | true => exact ⟨rfl, fun _ => rfl, nofun⟩
  | false => exact ⟨rfl, nofun, fun _ => rfl⟩

/-! ## HOST_TIME_READ (R280, R282) -/

/-- The state after a read of BAR0 that returned `v`. -/
def barRead (s : State) (v : Nat) : State := { s with link := { s.link with timeRead := v } }

theorem barRead_only (s : State) (v : Nat) : Only [.link] s (barRead s v) := setLink_only s _

/-- The high half of HOST_TIME latched for a function. -/
def timeLatched (s : State) (f : Nat) : State := putFn s f { getFn s f with timeHigh := stamp s / 2 ^ 32 }

theorem timeLatched_only (s : State) (f : Nat) : Only [.link] s (timeLatched s f) := setLink_only s _

/-- What a read of a size returns: a word, or two. -/
def barWords (s : State) (f o size : Nat) : Nat := readBar0 s f o + (if size = 8 then 2 ^ 32 * readBar0 s f (o + 4) else 0)

theorem readBar0_timeHigh (s : State) (f : Nat) : readBar0 s f (timeOffset f + 4) = (getFn s f).timeHigh := by
  unfold readBar0 timeOffset
  split
  · next hf =>
    rw [hf]
    rfl
  · rfl

/-- A read of HOST_TIME is of the stamp: 8 bytes are the low half joined to the half that this read latches. -/
theorem barWords_timeLatched (s : State) (f size : Nat) :
    barWords (timeLatched s f) f (timeOffset f) size = if size = 8 then stamp s else stamp s % 2 ^ 32 := by
  have hhigh : readBar0 (timeLatched s f) f (timeOffset f + 4) = stamp s / 2 ^ 32 := by
    rw [readBar0_timeHigh]
    exact congrArg Fn.timeHigh (getFn_putFn s f _)
  unfold barWords
  rw [readBar0_timeOffset, hhigh]
  split
  · exact Nat.mod_add_div _ _
  · rfl

theorem exec_hostTimeRead (time : Nat) {f o size : Nat} {s : State} (hr : reachable s f = true)
    (haligned : (size = 4 ∨ size = 8) ∧ o % size = 0) :
    exec (.hostTimeRead time ⟨f, ⟨o, size⟩⟩) s =
      .next (barRead (if o = timeOffset f then timeLatched (advance s time) f else advance s time)
        (barWords (if o = timeOffset f then timeLatched (advance s time) f else advance s time) f o size)) :=
  congrArg Host.Outcome.next ((if_neg (not_unreachable hr time)).trans (if_pos haligned))

theorem hostTimeRead_returns (time f o size : Nat) (s : State) (hr : reachable s f = true)
    (haligned : (size = 4 ∨ size = 8) ∧ o % size = 0) :
    ∃ t, exec (.hostTimeRead time ⟨f, ⟨o, size⟩⟩) s = .next t ∧ Only [.now, .link] s t ∧
      (o = timeOffset f →
        t.link.timeRead = (if size = 8 then stamp (advance s time) else stamp (advance s time) % 2 ^ 32) ∧
        getFn t f = { getFn s f with timeHigh := stamp (advance s time) / 2 ^ 32 } ∧ (∀ g, g ≠ f → getFn t g = getFn s g)) ∧
      (o ≠ timeOffset f → t.link.fns = s.link.fns ∧ t.link.timeRead = readBar0 (advance s time) f o +
        (if size = 8 then 2 ^ 32 * readBar0 (advance s time) f (o + 4) else 0)) := by
  have he := exec_hostTimeRead time hr haligned
  by_cases ho : o = timeOffset f
  · subst ho
    rw [if_pos rfl, barWords_timeLatched] at he
    refine ⟨_, he, ?_, fun _ => ⟨rfl, getFn_putFn _ f _, fun g hg => getFn_putFn_ne _ _ hg⟩, fun hne => absurd rfl hne⟩
    exact only_append (advance_only s time) (Only.trans (timeLatched_only _ f) (barRead_only _ _))
  · rw [if_neg ho] at he
    exact ⟨_, he, only_append (advance_only s time) (barRead_only _ _), fun h => absurd h ho, fun _ => ⟨rfl, rfl⟩⟩

theorem hostTimeRead_faults (time f o size : Nat) (s : State) (hr : reachable s f = true)
    (hmis : ¬ ((size = 4 ∨ size = 8) ∧ o % size = 0)) :
    exec (.hostTimeRead time ⟨f, ⟨o, size⟩⟩) s =
      .next (accessFault { advance s time with link := { s.link with timeRead := 0 } } o f) :=
  congrArg Host.Outcome.next ((if_neg (not_unreachable hr time)).trans (if_neg hmis))

/-! ## REGISTER_WRITE (R282, R288) -/

/-- An access of the host that leaves the function's interface alone: on the physical function, with the BARs where they were
locked, or while the interface is neither locked nor running. -/
def BarsStand (s : State) (f : Nat) (c : HostSet) : Prop :=
  f = 0 ∨ (getFn s f).barPlace = c.place ∨ ((getFn s f).tdi ≠ .locked ∧ (getFn s f).tdi ≠ .run)

theorem lockedTouch_of_unlocked {s : State} {f : Nat} (h : (getFn s f).tdi ≠ .locked ∧ (getFn s f).tdi ≠ .run) :
    lockedTouch s f = s :=
  if_neg (fun hlocked => hlocked.2.elim h.1 h.2)

/-- Then what the host has set changes no function and no queue. -/
theorem takeHostSet_stands {s : State} {f : Nat} {c : HostSet} (h : BarsStand s f c) :
    (takeHostSet s f c).link.fns = s.link.fns ∧ (takeHostSet s f c).mailbox = s.mailbox := by
  unfold takeHostSet
  split
  · exact ⟨rfl, rfl⟩
  · next hf =>
    split
    · exact ⟨rfl, rfl⟩
    · next hmoved =>
      rw [lockedTouch_of_unlocked ((h.resolve_left hf).resolve_left hmoved)]
      exact ⟨rfl, rfl⟩

theorem exec_registerWrite4 (time : Nat) {f offset : Nat} (v : Nat) (c : HostSet) {s : State} (hr : reachable s f = true)
    (ho : offset % 4 = 0) :
    exec (.registerWrite ⟨time, c⟩ f offset 4 v) s =
      .next (write4 (takeHostSet (advance s time) f c) f offset (v % 2 ^ 32)) :=
  congrArg Host.Outcome.next ((if_neg (not_unreachable hr time)).trans (if_pos ⟨rfl, ho⟩))

theorem exec_registerWrite8 (time : Nat) {f offset : Nat} (v : Nat) (c : HostSet) {s : State} (hr : reachable s f = true)
    (ho : offset % 8 = 0) :
    exec (.registerWrite ⟨time, c⟩ f offset 8 v) s =
      .next (write8 (takeHostSet (advance s time) f c) f offset (v % 2 ^ 64)) :=
  congrArg Host.Outcome.next ((if_neg (not_unreachable hr time)).trans
    ((if_neg (fun h => absurd h.1 (by decide))).trans (if_pos ⟨rfl, ho⟩)))

/-! ### The 64-bit registers -/

theorem wideGet_congr {s t : State} (hf : t.link.fns = s.link.fns) (hm : t.mailbox = s.mailbox) (f : Nat) (w : Wide) :
    wideGet t f w = wideGet s f w := by
  unfold wideGet getQueue getFn
  rw [hf, hm]

theorem blockedWide_of_mailbox {s t : State} (hm : t.mailbox = s.mailbox) (f : Nat) (w : Wide) :
    blockedWide t f w = blockedWide s f w := by
  unfold blockedWide getQueue
  rw [hm]

/-- A register reads what it was set to, a BASE in units of 4 KiB (R9). -/
theorem wideGet_wideSet (s : State) (f v : Nat) (w : Wide) :
    wideGet (wideSet s f w v) f w = if w = .token then v else v / 4096 * 4096 := by
  cases w with
  | sqBase qp => exact congrArg Queue.sqBase (getQueue_putQueue s f qp _)
  | cqBase qp => exact congrArg Queue.cqBase (getQueue_putQueue s f qp _)
  | tsBase qp => exact congrArg Queue.tsBase (getQueue_putQueue s f qp _)
  | token => exact congrArg Fn.tokenReg (getFn_putFn s f _)

/-- The low halves that are held are beside the registers. -/
theorem wideGet_putHeld (s : State) (f : Nat) (held : Table Nat) (w : Wide) :
    wideGet (putFn s f { getFn s f with held := held }) f w = wideGet s f w := by
  cases w with
  | token => exact (congrArg Fn.tokenReg (getFn_putFn s f _)).trans rfl
  | _ => rfl

theorem write8_wide {s : State} {f offset : Nat} {w : Wide} (v : Nat) (hw : wideAt f offset = some w)
    (hopen : blockedWide s f w = false) :
    wideGet (write8 s f offset v) f w = if w = .token then v else v / 4096 * 4096 := by
  unfold write8
  rw [hw]
  dsimp only
  rw [if_neg (ne_true_of_eq_false hopen), wideGet_putHeld, wideGet_wideSet]

theorem write4_wide {s : State} {f offset : Nat} {w : Wide} (v : Nat) (hw : wideAt f offset = some w)
    (hopen : blockedWide s f w = false) :
    tget 0 (getFn (write4 s f offset v) f).held offset = v + 1 ∧ wideGet (write4 s f offset v) f w = wideGet s f w := by
  unfold write4
  dsimp only
  rw [hw]
  dsimp only
  rw [if_neg (ne_true_of_eq_false hopen), wideGet_putHeld, getFn_putFn]
  exact ⟨tget_tput_same (0 : Nat) _ offset (v + 1), rfl⟩

theorem registerWrite_wide (time f offset v : Nat) (c : HostSet) (w : Wide) (s : State) (hr : reachable s f = true)
    (ho : offset % 8 = 0) (hc : BarsStand s f c) (hw : wideAt f offset = some w) (hopen : blockedWide s f w = false)
    (hv : v < 2 ^ 64) :
    (∃ t, exec (.registerWrite ⟨time, c⟩ f offset 8 v) s = .next t ∧
        wideGet t f w = (if w = .token then v else v / 4096 * 4096)) ∧
      (∃ t, exec (.registerWrite ⟨time, c⟩ f offset 4 v) s = .next t ∧
        tget 0 (getFn t f).held offset = v % 2 ^ 32 + 1 ∧ wideGet t f w = wideGet s f w) := by
  obtain ⟨hfns, hmailbox⟩ := takeHostSet_stands (s := advance s time) (c := c) hc
  have hopen' := (blockedWide_of_mailbox hmailbox f w).trans hopen
  obtain ⟨hheld, hkept⟩ := write4_wide (v % 2 ^ 32) hw hopen'
  refine ⟨⟨_, exec_registerWrite8 time v c hr ho, ?_⟩,
    ⟨_, exec_registerWrite4 time v c hr (by omega), hheld, hkept.trans (wideGet_congr hfns hmailbox f w)⟩⟩
  rw [write8_wide _ hw hopen', Nat.mod_eq_of_lt hv]

/-! ### SIZES -/

theorem write4Pair_sizes {s : State} {f qp : Nat} (v : Nat) (hf : f ≠ 0) (hoff : (getQueue s f qp).enable = false) :
    getQueue (write4Pair s f qp 0x18 v) f qp =
      { getQueue s f qp with sqLog2 := v % 256, cqLog2 := v / 256 % 256, tsLog2 := v / 65536 % 256 } := by
  unfold write4Pair
  dsimp only
  rw [if_pos rfl, if_neg (ne_true_of_eq_false hoff), getQueue_putQueue, if_neg hf]

theorem registerWrite_takesSizes (time qp f v : Nat) (c : HostSet) (s : State) (hr : reachable s f = true) (hf : f ≠ 0)
    (hq : qp < 8) (hoff : (getQueue s f qp).enable = false) (hc : BarsStand s f c) :
    ∃ t, exec (.registerWrite ⟨time, c⟩ f (0x118 + 0x40 * qp) 4 v) s = .next t ∧
      getQueue t f qp = { getQueue s f qp with
        sqLog2 := v % 256, cqLog2 := v / 256 % 256, tsLog2 := v / 65536 % 256 } := by
  obtain ⟨-, hmailbox⟩ := takeHostSet_stands (s := advance s time) (c := c) hc
  have hqueue : getQueue (takeHostSet (advance s time) f c) f qp = getQueue s f qp := by
    unfold getQueue
    rw [hmailbox]
    rfl
  have hsq : v % 2 ^ 32 % 256 = v % 256 := by omega
  have hcq : v % 2 ^ 32 / 256 % 256 = v / 256 % 256 := by omega
  have hts : v % 2 ^ 32 / 65536 % 256 = v / 65536 % 256 := by omega
  refine ⟨_, exec_registerWrite4 time v c hr (by omega), ?_⟩
  rw [write4_sizes _ _ hf hq, write4Pair_sizes _ hf (by rw [hqueue]; exact hoff), hqueue, hsq, hcq, hts]

/-! ### A write to an interface in ERROR keeps it there -/

theorem accessFault_hostKept (s : State) (address func : Nat) : HostKept s (accessFault s address func) :=
  note_hostKept s _ _ _ _ _

theorem lockedTouch_of_error {s : State} {f : Nat} (h : (getFn s f).tdi = .error) : lockedTouch s f = s :=
  lockedTouch_of_unlocked (by rw [h]; decide)

theorem wideSet_hostKept (s : State) (f : Nat) (w : Wide) (v : Nat) : HostKept s (wideSet s f w v) := by
  cases w with
  | token => exact .putFn rfl
  | _ => exact .putQueue s _ _ _

theorem write4Pair_hostKept (s : State) (f qp reg v : Nat) : HostKept s (write4Pair s f qp reg v) :=
  .ite (.ite (accessFault_hostKept s _ _) (.putQueue s _ _ _)) (.ite (.refl s) (.putQueue s _ _ _))

theorem write4_hostKept {s : State} {f : Nat} (h : (getFn s f).tdi = .error) (offset v : Nat) :
    HostKept s (write4 s f offset v) := by
  unfold write4
  extract_lets v0
  split
  · exact .ite (accessFault_hostKept s _ _) (.putFn rfl)
  · split
    · exact .ite (accessFault_hostKept s _ _) ((wideSet_hostKept s _ _ _).trans (.putFn rfl))
    · have hmsix : ∀ tbl, HostKept s (lockedTouch (putFn s f { getFn s f with msixTable := tbl }) f) := fun tbl => by
        rw [lockedTouch_of_error (by rw [getFn_putFn]; exact h)]
        exact .putFn rfl
      exact .ite (.ite (.refl s) (hmsix _)) (.ite (.ite (write4Pair_hostKept s _ _ _ _) (.refl s))
        (.ite (write4Pair_hostKept s _ _ _ _) (.refl s)))

theorem write8_hostKept {s : State} {f : Nat} (h : (getFn s f).tdi = .error) (offset v : Nat) :
    HostKept s (write8 s f offset v) := by
  unfold write8
  split
  · exact .ite (accessFault_hostKept s _ _) ((wideSet_hostKept s _ _ _).trans (.putFn rfl))
  · have hlow := write4_hostKept h offset (v % 2 ^ 32)
    exact hlow.trans (write4_hostKept ((hlow.tdi f).trans h) _ _)

/-- A locked or running interface whose BARs have moved enters ERROR with the access. -/
theorem takeHostSet_moved {s : State} {f : Nat} {c : HostSet} (hf : f ≠ 0) (hmoved : (getFn s f).barPlace ≠ c.place)
    (hlocked : (getFn s f).tdi = .locked ∨ (getFn s f).tdi = .run) : takeHostSet s f c = tdiError s f :=
  (if_neg hf).trans ((if_neg hmoved).trans (if_pos ⟨hf, hlocked⟩))

theorem registerWrite_errs (time f offset size v : Nat) (c : HostSet) (s : State) (hr : reachable s f = true) (hf : f ≠ 0)
    (hmoved : (getFn s f).barPlace ≠ c.place) (hlocked : (getFn s f).tdi = .locked ∨ (getFn s f).tdi = .run) :
    ∃ t, exec (.registerWrite ⟨time, c⟩ f offset size v) s = .next t ∧ (getFn t f).tdi = .error := by
  have herror : (getFn (takeHostSet (advance s time) f c) f).tdi = .error := by
    rw [takeHostSet_moved (s := advance s time) hf hmoved hlocked, tdiError_tdi]
  have hwritten : HostKept (takeHostSet (advance s time) f c)
      (if size = 4 ∧ offset % 4 = 0 then write4 (takeHostSet (advance s time) f c) f offset (v % 2 ^ 32)
      else if size = 8 ∧ offset % 8 = 0 then write8 (takeHostSet (advance s time) f c) f offset (v % 2 ^ 64)
      else accessFault (takeHostSet (advance s time) f c) offset f) :=
    .ite (write4_hostKept herror _ _) (.ite (write8_hostKept herror _ _) (accessFault_hostKept _ _ _))
  exact ⟨_, congrArg Host.Outcome.next (if_neg (not_unreachable hr time)), (hwritten.tdi f).trans herror⟩

/-! ## BANK_WRITE and EXPORT_WINDOW_READ (R203, R289) -/

theorem setImages_only (s : State) (v : Images) : Only [.images] s { s with images := v } := fun p hp => by
  cases p with
  | images => exact absurd (List.mem_singleton_self _) hp
  | _ => rfl

theorem bankWrite_moves (peer v n : Nat) (f : FolioHead) (s : State) (hslot : s.images.exported.slot = some n)
    (hhead : (getSlot s n).head = some f) (hpeer : s.images.exported.peer = peer) (hv : v < fileBanks f) :
    ∃ t, exec (.bankWrite peer (controlFrame + 0x32) 2 v) s = .next t ∧
      t.images = { s.images with exported := { s.images.exported with bank := v } } ∧ Only [.images] s t := by
  have hfile : s.images.exported.slot.bind (fun n => (getSlot s n).head) = some f := by
    rw [hslot]
    exact hhead
  have he : exec (.bankWrite peer (controlFrame + 0x32) 2 v) s =
      .next { s with images := { s.images with exported := { s.images.exported with bank := v } } } := by
    show execBankWrite peer (controlFrame + 0x32) 2 v s = _
    unfold execBankWrite
    dsimp only
    rw [hfile]
    exact congrArg Host.Outcome.next (if_pos ⟨hpeer.symm, rfl, rfl, hv⟩)
  exact ⟨_, he, rfl, setImages_only s _⟩

/-- The state after a read of the window. -/
def windowShown (s : State) (r : WindowRead) : State := { s with link := { s.link with windowRead := r } }

theorem exportWindowRead_shows (time peer offset : Nat) (s : State) (ho : controlFrame ≤ offset) :
    ∃ t, exec (.exportWindowRead time peer offset) s = .next t ∧
      t.link.windowRead = .control (leNat (((exportBytes (advance s time)).drop ((offset - controlFrame) / 4 * 4)).take 4)) ∧
      Only [.now, .link] s t :=
  ⟨_, congrArg Host.Outcome.next (if_pos ho), rfl, only_append (advance_only s time) (setLink_only _ _)⟩

/-- The byte of the file that an offset of the window is of, in the bank that the peer chose. -/
def fileByte (s : State) (offset : Nat) : Nat :=
  (s.images.exported.bank * 16383 + offset / 4194304) * 4194304 + offset % 4194304

theorem exec_exportWindowRead_file (time : Nat) {peer offset n : Nat} {f : FolioHead} {s : State} (ho : offset < controlFrame)
    (hslot : s.images.exported.slot = some n) (hhead : (getSlot s n).head = some f) (hpeer : s.images.exported.peer = peer)
    (hthere : fileMissing s n f (fileByte s offset) = false) :
    exec (.exportWindowRead time peer offset) s = .next (windowShown (advance s time)
      (if fileByte s offset < fileFrames f * 4194304 then .file n (fileByte s offset) else .zero)) := by
  have hfile : s.images.exported.slot.bind (fun n => (getSlot s n).head.map (fun h => (n, h))) = some (n, f) := by
    rw [hslot]
    exact congrArg (Option.map (fun h => (n, h))) hhead
  have hthere' : ¬ fileMissing (advance s time) n f (fileByte s offset) = true := ne_true_of_eq_false hthere
  have hshown : windowShown (advance s time) (if fileByte s offset < fileFrames f * 4194304 then .file n (fileByte s offset)
      else .zero) = if fileByte s offset < fileFrames f * 4194304 then windowShown (advance s time) (.file n (fileByte s offset))
      else windowShown (advance s time) .zero := apply_ite _ _ _ _
  have hfile' : (advance s time).images.exported.slot.bind
      (fun n => (getSlot (advance s time) n).head.map (fun h => (n, h))) = some (n, f) := hfile
  show execExportWindowRead time peer offset s = _
  unfold execExportWindowRead
  dsimp only
  rw [hfile', hshown]
  exact congrArg Host.Outcome.next ((if_neg (Nat.not_le.mpr ho)).trans ((if_pos hpeer.symm).trans (if_neg hthere')))

/-- Settles O37: each register and the window by the access that reaches it. -/
theorem registersAndTheWindow : Obligations.RegistersAndTheWindow := by
  unfold Obligations.RegistersAndTheWindow
  refine ⟨eventCauseClear_clears, exportEnable_sets,
    fun time f o size s hr => ⟨fun hsize ho => hostTimeRead_returns time f o size s hr ⟨hsize, ho⟩,
      hostTimeRead_faults time f o size s hr⟩,
    registerWrite_wide, fun time qp f v c s hr hf hq hoff hc => ?_, registerWrite_errs, bankWrite_moves,
    fun time peer offset s => ⟨exportWindowRead_shows time peer offset s, fun n f ho hslot hhead hpeer hthere => ?_⟩⟩
  · exact registerWrite_takesSizes time qp f v c s hr hf hq hoff (.inr hc)
  · exact ⟨_, exec_exportWindowRead_file time ho hslot hhead hpeer hthere, rfl⟩

end Sys2Proof.Proofs

namespace Sys2Proof.Proofs

open Sys2Proof Sys2Proof.Machine Sys2Proof.Laws

/-! ## Resets of the link (R277, R291, R419) -/

/-- A table whose entries are all changed by one function, which keeps the default. -/
theorem tget_map {α : Type} {d : α} {f : α → α} (hf : f d = d) (t : Table α) (k : Nat) :
    tget d (t.map (fun kv => (kv.1, f kv.2))) k = f (tget d t k) := by
  induction t with
  | nil => exact hf.symm
  | cons kv t ih =>
    show (if kv.1 = k then f kv.2 else tget d (t.map (fun kv => (kv.1, f kv.2))) k) = f (if kv.1 = k then kv.2 else tget d t k)
    split
    · rfl
    · exact ih

/-- Every binding that is bound waits for its token after a reset of the link (R321). -/
def awaitToken (b : Binding) : Binding := { b with waiting := b.bound }

theorem linkReset_bindings (s : State) :
    ∃ b : Table Binding, (linkReset s).mailbox.bindings = b.map (fun kv => (kv.1, awaitToken kv.2)) := ⟨_, rfl⟩

theorem linkReset_waiting (s : State) (f : Nat) (hbound : (tget ({} : Binding) (linkReset s).mailbox.bindings f).bound = true) :
    (tget ({} : Binding) (linkReset s).mailbox.bindings f).waiting = true := by
  obtain ⟨b, hb⟩ := linkReset_bindings s
  rw [hb, tget_map (f := awaitToken) rfl] at hbound ⊢
  exact hbound

theorem linkReset_board (s : State) : (linkReset s).board = s.board :=
  (linkReset_held (held_self [.link, .mailbox, .serving, .images] s) (by rfl)).only .board (by decide)

theorem perstNAssert_resets (time : Nat) (s : State) :
    ∃ t, exec (.perstNAssert time) s = .next t ∧ t.board.perstHigh = false ∧ t.link.up = false ∧ t.link.rrs = true ∧
      t.link.vfEnable = false ∧ t.link.eventCause = 0 ∧ t.link.exportEnable = false ∧ t.link.ptm.lock = false ∧
      t.images.exported.slot = none :=
  ⟨_, rfl, congrArg Board.perstHigh (linkReset_board _), rfl, rfl, rfl, rfl, rfl, rfl, rfl⟩

theorem linkDown_resets (time : Nat) (s : State) :
    ∃ t, exec (.linkDown time) s = .next t ∧ t.board.perstHigh = s.board.perstHigh ∧ t.link.up = false ∧
      t.link.rrs = true ∧ t.link.vfEnable = false ∧ t.link.eventCause = 0 ∧ t.link.exportEnable = false ∧
      t.images.exported.slot = none ∧
      ∀ f, (tget ({} : Binding) t.mailbox.bindings f).bound = true →
        (tget ({} : Binding) t.mailbox.bindings f).waiting = true :=
  ⟨_, rfl, congrArg Board.perstHigh (linkReset_board _), rfl, rfl, rfl, rfl, rfl, rfl, linkReset_waiting _⟩

/-! ## Training (R277, R419) -/

theorem setBoard_only (s : State) (v : Board) : Only [.board] s { s with board := v } := fun p hp => by
  cases p with
  | board => exact absurd (List.mem_singleton_self _) hp
  | _ => rfl

/-- PERST_N and REFCLK as they come to stand: the board's, so that the start's phase and the straps stay. -/
def clocked (s : State) (perst clock : Bool) : State :=
  { s with board := { s.board with perstHigh := perst, refclk := clock } }

theorem perstNDeassert_trains (time : Nat) (s : State) (hp : portUp s = true) :
    ∃ t, exec (.perstNDeassert ⟨time, true⟩) s = .next t ∧ t.board.perstHigh = true ∧ t.board.refclk = true ∧
      t.link.up = true ∧ t.link.width = 16 ∧ t.link.rate = topRate s ∧ t.link.rrs = false := by
  have hup : (portUp (clocked (advance s time) true true) && true) = true := (Bool.and_true _).trans hp
  exact ⟨trainLink (clocked (advance s time) true true), congrArg Host.Outcome.next (if_pos hup),
    rfl, rfl, rfl, rfl, rfl, rfl⟩

theorem perstNDeassert_waitsForClock (time : Nat) (s : State) :
    ∃ t, exec (.perstNDeassert ⟨time, false⟩) s = .next t ∧ t.board = { s.board with perstHigh := true, refclk := false } ∧
      Only [.now, .board] s t := by
  have hdown : ¬ (portUp (clocked (advance s time) true false) && false) = true := by
    rw [Bool.and_false]
    exact Bool.false_ne_true
  exact ⟨clocked (advance s time) true false, congrArg Host.Outcome.next (if_neg hdown), rfl,
    only_append (advance_only s time) (setBoard_only _ _)⟩

theorem linkUp_trains (time : Nat) (s : State) (hp : portUp s = true) (hhigh : s.board.perstHigh = true)
    (hdown : s.link.up = false) :
    ∃ t, exec (.linkUp ⟨time, true⟩) s = .next t ∧ t.link.up = true ∧ t.link.width = 16 ∧ t.link.rate = topRate s ∧
      t.link.rrs = false := by
  have hp' : portUp (clocked (advance s time) s.board.perstHigh true) = true := hp
  have hup : (portUp (clocked (advance s time) s.board.perstHigh true) && s.board.perstHigh && true && !s.link.up) = true := by
    rw [hp', hhigh, hdown]
    rfl
  exact ⟨trainLink (clocked (advance s time) s.board.perstHigh true), congrArg Host.Outcome.next (if_pos hup),
    rfl, rfl, rfl, rfl⟩

theorem mapSessions_only (s : State) (f : Nat → Session → Session) : Only [.serving] s (mapSessions s f) :=
  (mapSessions_held (held_self _ s) (by rfl)).only

theorem linkRetrain_sets (time w r : Nat) (s : State) (hup : s.link.up = true) (ht : trainable s w r = true) :
    ∃ t, exec (.linkRetrain time w r) s = .next t ∧ t.link = { s.link with width := w, rate := r } ∧
      Only [.now, .link, .serving] s t := by
  have hup' : ((advance s time).link.up && trainable (advance s time) w r) = true := Bool.and_eq_true_iff.mpr ⟨hup, ht⟩
  exact ⟨_, congrArg Host.Outcome.next (if_pos hup'), rfl, only_append (only_append (advance_only s time)
    (setLink_only _ { s.link with width := w, rate := r })) (mapSessions_only _ _)⟩

/-! ## Resets and power states of functions (R279, R292, R293) -/

theorem vfFlr_resets (time f : Nat) (s : State) (hf : f ≠ 0) (hr : reachable s f = true) :
    ∃ t, exec (.vfFlr time f) s = .next t ∧ (getFn t f).rrs = !starting s ∧ (getFn t f).tokenReg = 0 ∧
      (getFn t f).held = [] ∧ (getFn t f).msixTable = [] ∧ (getFn t f).msixWanted = [] ∧
      ((getFn t f).tdi = .unlocked ∨ (getFn t f).tdi = .error) ∧ tget ({} : Binding) t.mailbox.bindings f = {} := by
  have hr' : (f != 0 && reachable (advance s time) f) = true := by
    rw [show reachable (advance s time) f = reachable s f from rfl, hr, Bool.and_true]
    exact bne_iff_ne.mpr hf
  have he : exec (.vfFlr time f) s = .next (flrVf (advance s time) f) := congrArg Host.Outcome.next (if_pos hr')
  obtain ⟨v, hv⟩ := resetFn_getFn (discardHeld (clearPartition (advance s time) (f - 1)) f) f false
  have hfn := flrVf_getFn (advance s time) f
  rw [show getFn (flrCleared (advance s time) f) f = _ from hv] at hfn
  refine ⟨_, he, ?_⟩
  rw [hfn, flrVf_binding, if_pos rfl]
  refine ⟨rfl, rfl, rfl, rfl, rfl, ?_, rfl⟩
  dsimp only
  split
  · exact .inr rfl
  · exact .inl rfl

theorem endExport_hostKept (s : State) : HostKept s (endExport s) := ⟨rfl, fun _ => rfl, rfl⟩

theorem vfEnable_hostKept (s : State) (v : Bool) : HostKept s { s with link := { s.link with vfEnable := v } } :=
  ⟨rfl, fun _ => rfl, rfl⟩

/-- The resets of every virtual function, enabled or not, unbind each (R324). -/
theorem foldl_flrVf_all_binding (s : State) {f : Nat} (h0 : f ≠ 0) (hf : f ≤ 16) :
    tget ({} : Binding) (((List.range 16).map (· + 1)).foldl flrVf s).mailbox.bindings f = {} := by
  have hmem : f ∈ (List.range 16).map (· + 1) := List.mem_map.mpr ⟨f - 1, List.mem_range.mpr (by omega), by omega⟩
  rw [foldl_flrVf_binding, if_pos hmem]

/-- The reset of the physical function unbinds it with them (R293). -/
theorem flrPf_binding (s : State) {f : Nat} (hf : f ≤ 16) : tget ({} : Binding) (flrPf s).mailbox.bindings f = {} := by
  have hvfs := fun h0 : f ≠ 0 => foldl_flrVf_all_binding s h0 hf
  unfold flrPf
  generalize ((List.range 16).map (· + 1)).foldl flrVf s = s1 at hvfs ⊢
  extract_lets sv link s2 s3 s4
  have hkept : HostKept s1 s4 := (vfEnable_hostKept s1 false).trans ((discardHeld_hostKept s2 0).trans
    ((resetFn_hostKept _ 0 false).trans (endExport_hostKept s3)))
  show tget {} (tput {} s4.mailbox.bindings 0 {}) f = {}
  rw [tget_tput]
  split
  · rfl
  · next h0 =>
    rw [hkept.bindings]
    exact hvfs h0

theorem pfFlr_resets (time : Nat) (s : State) (hup : s.link.up = true) :
    ∃ t, exec (.pfFlr time) s = .next t ∧ t.link.vfEnable = false ∧ t.link.exportEnable = false ∧ t.link.eventCause = 0 ∧
      t.images.exported.slot = none ∧ ∀ f, f ≤ 16 → tget ({} : Binding) t.mailbox.bindings f = {} := by
  have hup' : (advance s time).link.up = true := hup
  exact ⟨flrPf (advance s time), congrArg Host.Outcome.next (if_pos hup'), rfl, rfl, rfl, rfl, fun _ hf => flrPf_binding _ hf⟩

theorem vfEnableClear_clears (time : Nat) (s : State) :
    ∃ t, exec (.vfEnableClear time) s = .next t ∧ t.link.vfEnable = false := by
  refine ⟨clearVfs (advance s time), rfl, ?_⟩
  unfold clearVfs
  split
  · rfl
  · next hoff => exact Bool.eq_false_iff.mpr hoff

/-- A function as VF_ENABLE_SET finds it anew: reset, and bound only where its binding waits for its token (R279, R321). -/
def enabledAnew (s : State) (f : Nat) : State :=
  let s := resetFn s f true
  if (tget {} s.mailbox.bindings f).waiting then s
  else { s with mailbox := { s.mailbox with bindings := tput {} s.mailbox.bindings f {} } }

/-- VF Enable, NumVFs and the serving state, which a function that is enabled anew leaves alone. -/
def vfsAndServing (s : State) : Bool × Nat × Serving := (s.link.vfEnable, s.link.numVfs, s.serving)

theorem resetFn_vfsAndServing (s : State) (f : Nat) (hold : Bool) : vfsAndServing (resetFn s f hold) = vfsAndServing s :=
  foldl_view vfsAndServing (f := fun s qp => resetQueue s f qp hold) (fun _ _ => rfl) (pairsOf f) s

theorem enabledAnew_vfsAndServing (s : State) (f : Nat) : vfsAndServing (enabledAnew s f) = vfsAndServing s := by
  unfold enabledAnew
  dsimp only
  split
  · exact resetFn_vfsAndServing s f true
  · exact resetFn_vfsAndServing s f true

theorem vfEnableSet_enables (n : Nat) (s : State) (hup : s.link.up = true) (hoff : s.link.vfEnable = false) (hn : n ≤ 16) :
    ∃ t, exec (.vfEnableSet n) s = .next t ∧ t.link.vfEnable = true ∧ t.link.numVfs = n ∧ t.serving = s.serving := by
  have hmay : (s.link.up && !s.link.vfEnable && decide (n ≤ 16)) = true := by
    rw [hup, hoff]
    exact decide_eq_true hn
  have he : exec (.vfEnableSet n) s = .next (((List.range n).map (· + 1)).foldl enabledAnew
    { s with link := { s.link with numVfs := n, vfEnable := true } }) := congrArg Host.Outcome.next (if_pos hmay)
  have hkept := foldl_view vfsAndServing enabledAnew_vfsAndServing ((List.range n).map (· + 1))
    { s with link := { s.link with numVfs := n, vfEnable := true } }
  exact ⟨_, he, congrArg (·.1) hkept, congrArg (·.2.1) hkept, congrArg (·.2.2) hkept⟩

/-- A power-state row of a function that the host reaches writes that function alone. -/
theorem putFn_writes {c : Instr} {s : State} {f : Nat} (time : Nat) {v : Fn} (hr : reachable s f = true)
    (he : exec c s = .next (if reachable (advance s time) f then putFn (advance s time) f v else advance s time)) :
    ∃ t, exec c s = .next t ∧ getFn t f = v ∧ (∀ g, g ≠ f → getFn t g = getFn s g) ∧ Only [.now, .link] s t := by
  have hr' : reachable (advance s time) f = true := hr
  rw [if_pos hr'] at he
  exact ⟨_, he, getFn_putFn _ f v, fun g hg => getFn_putFn_ne _ v hg,
    only_append (advance_only s time) (putFn_held (held_self [.link] _) (by rfl)).only⟩

/-- Settles O33: each row of the link by the reset, the training or the write of a function that it is. -/
theorem linkResetsAndFunctions : Obligations.LinkResetsAndFunctions := by
  unfold Obligations.LinkResetsAndFunctions
  exact ⟨fun time s => ⟨perstNAssert_resets time s, linkDown_resets time s⟩,
    fun time s hp => ⟨perstNDeassert_trains time s hp, perstNDeassert_waitsForClock time s, linkUp_trains time s hp⟩,
    linkRetrain_sets, vfFlr_resets, pfFlr_resets, vfEnableClear_clears, vfEnableSet_enables,
    fun time f s hr => ⟨putFn_writes time hr rfl, putFn_writes time hr rfl⟩⟩

end Sys2Proof.Proofs

namespace Sys2Proof.Proofs

open Sys2Proof Sys2Proof.Machine Sys2Proof.Laws

/-! ## The queue of commands -/

/-- Settles O1: the queue with the front command taken off is the rest, and no more of the state is read. -/
theorem stepRunsCommandAtFront : Obligations.StepRunsCommandAtFront := by
  unfold Obligations.StepRunsCommandAtFront
  exact fun c l s => ⟨rfl, rfl⟩

/-! ## Little-endian numbers and the fields of a record (R8) -/

theorem leBytes_length (n v : Nat) : (leBytes n v).length = n := by
  induction n generalizing v with
  | zero => rfl
  | succ n ih => exact congrArg Nat.succ (ih (v / 256))

theorem leBytes_drop (a n v : Nat) : (leBytes (a + n) v).drop a = leBytes n (v / 256 ^ a) := by
  induction a generalizing v with
  | zero => rw [Nat.zero_add, Nat.pow_zero, Nat.div_one, List.drop_zero]
  | succ a ih =>
    rw [Nat.add_right_comm]
    show (leBytes (a + n) (v / 256)).drop a = _
    rw [ih, Nat.div_div_eq_div_mul, ← Nat.pow_succ']

theorem leBytes_take (k n v : Nat) : (leBytes (k + n) v).take k = leBytes k v := by
  induction k generalizing v with
  | zero => rfl
  | succ k ih =>
    rw [Nat.add_right_comm]
    exact congrArg (BitVec.ofNat 8 (v % 256) :: ·) (ih (v / 256))

theorem leNat_leBytes (n v : Nat) : leNat (leBytes n v) = v % 256 ^ n := by
  induction n generalizing v with
  | zero => exact (Nat.mod_one v).symm
  | succ n ih =>
    show (BitVec.ofNat 8 (v % 256)).toNat + 256 * leNat (leBytes n (v / 256)) = _
    rw [ih, Nat.pow_succ', Nat.mod_mul, BitVec.toNat_ofNat, Nat.mod_mod]

/-- Bits that the fields of a record take. -/
def fieldsWidth (fs : List (Nat × Nat)) : Nat := (fs.map (·.1)).sum

theorem packFields_concat (fs : List (Nat × Nat)) (w v : Nat) :
    packFields (fs ++ [(w, v)]) = packFields fs * 2 ^ w + v % 2 ^ w := List.foldl_concat ..

theorem packFields_single (w v : Nat) : packFields [(w, v)] = v % 2 ^ w := by
  rw [← List.nil_append [(w, v)], packFields_concat]
  show 0 * 2 ^ w + _ = _
  rw [Nat.zero_mul, Nat.zero_add]

theorem fieldsWidth_concat (fs : List (Nat × Nat)) (w v : Nat) : fieldsWidth (fs ++ [(w, v)]) = fieldsWidth fs + w := by
  simp [fieldsWidth]

theorem packFields_append (fs gs : List (Nat × Nat)) :
    packFields (fs ++ gs) = packFields fs * 2 ^ fieldsWidth gs + packFields gs := by
  induction gs using List.reverseRecOn with
  | nil => rw [List.append_nil]; exact (Nat.mul_one _).symm
  | append_singleton gs g ih =>
    rw [← List.append_assoc, packFields_concat, ih, packFields_concat, fieldsWidth_concat, Nat.pow_add]
    ring

theorem packFields_lt (fs : List (Nat × Nat)) : packFields fs < 2 ^ fieldsWidth fs := by
  induction fs using List.reverseRecOn with
  | nil => exact Nat.one_pos
  | append_singleton fs f ih =>
    rw [packFields_concat, fieldsWidth_concat, Nat.pow_add]
    calc packFields fs * 2 ^ f.1 + f.2 % 2 ^ f.1
        < packFields fs * 2 ^ f.1 + 2 ^ f.1 := Nat.add_lt_add_left (Nat.mod_lt _ (Nat.two_pow_pos _)) _
      _ = (packFields fs + 1) * 2 ^ f.1 := (Nat.succ_mul _ _).symm
      _ ≤ 2 ^ fieldsWidth fs * 2 ^ f.1 := Nat.mul_le_mul_right _ ih

/-- Fields in the middle of a record stand above those that are listed after them. -/
theorem packFields_middle (fs ms gs : List (Nat × Nat)) :
    packFields (fs ++ ms ++ gs) / 2 ^ fieldsWidth gs % 2 ^ fieldsWidth ms = packFields ms := by
  rw [packFields_append, packFields_append, Nat.add_comm, Nat.add_mul_div_right _ _ (Nat.two_pow_pos _),
    Nat.div_eq_of_lt (packFields_lt gs), Nat.zero_add, Nat.mul_add_mod_self_right, Nat.mod_eq_of_lt (packFields_lt ms)]

/-- The bytes of a record from `a` on, `k` of them, hold the fields that stand there. -/
theorem leNat_bytes_of_fields (fs ms gs : List (Nat × Nat)) {a k r : Nat} (hlow : fieldsWidth gs = 8 * a)
    (hmid : fieldsWidth ms = 8 * k) :
    leNat (((leBytes (a + (k + r)) (packFields (fs ++ ms ++ gs))).drop a).take k) = packFields ms := by
  rw [leBytes_drop, leBytes_take, leNat_leBytes, ← packFields_middle fs ms gs, hlow, hmid, Nat.pow_mul, Nat.pow_mul]

/-! ## The completion entry (R306) -/

/-- The fields of a completion entry, from its highest bit down. -/
def cqFields (e : CqEntry) : List (Nat × Nat) :=
  [(128, e.result), (64, e.time), (8, 0), (5, 0), (1, bit e.late), (1, bit e.event), (1, bit e.phase), (16, e.status),
    (16, e.sqHead), (16, e.cid)]

theorem cqBytes_eq (e : CqEntry) : cqBytes e = leBytes 32 (packFields (cqFields e)) := rfl

/-- The bytes from `a` on, `k` of them, hold the `j` fields from the `i`th on, when the widths of the fields say so. -/
theorem leNat_cqBytes (e : CqEntry) (i j a k : Nat) (hlow : fieldsWidth ((cqFields e).drop (i + j)) = 8 * a)
    (hmid : fieldsWidth (((cqFields e).drop i).take j) = 8 * k) (hfit : a + k ≤ 32) :
    leNat (((cqBytes e).drop a).take k) = packFields (((cqFields e).drop i).take j) := by
  have hsplit : (cqFields e).take i ++ ((cqFields e).drop i).take j ++ (cqFields e).drop (i + j) = cqFields e := by
    rw [← List.drop_drop, List.append_assoc, List.take_append_drop, List.take_append_drop]
  obtain ⟨r, hr⟩ := Nat.exists_eq_add_of_le hfit
  have hbytes := leNat_bytes_of_fields ((cqFields e).take i) _ _ (r := r) hlow hmid
  rwa [hsplit, ← Nat.add_assoc, ← hr] at hbytes

/-- A single field of whole bytes. -/
theorem leNat_cqBytes_field (e : CqEntry) (i a k : Nat) {w v : Nat} (hfield : ((cqFields e).drop i).take 1 = [(w, v)])
    (hlow : fieldsWidth ((cqFields e).drop (i + 1)) = 8 * a) (hw : w = 8 * k) (hfit : a + k ≤ 32) :
    leNat (((cqBytes e).drop a).take k) = v % 2 ^ w := by
  rw [leNat_cqBytes e i 1 a k hlow (by rw [hfield]; exact hw) hfit, hfield, packFields_single]

/-- The flags of byte 6 with the reserved bits above them. -/
theorem packFields_flags (late event phase : Bool) :
    packFields [(5, 0), (1, bit late), (1, bit event), (1, bit phase)] = bit phase + 2 * bit event + 4 * bit late := by
  cases late <;> cases event <;> cases phase <;> rfl

/-- Settles O52: each field of the entry is its bytes, those that stand below it being the fields listed after it. -/
theorem completionEntryLayout : Obligations.CompletionEntryLayout := by
  unfold Obligations.CompletionEntryLayout
  intro e
  have hlength : (cqBytes e).length = 32 := leBytes_length 32 _
  have hhigh : ((cqBytes e).drop 16).take 16 = (cqBytes e).drop 16 :=
    List.take_of_length_le (by rw [List.length_drop, hlength])
  refine ⟨hlength, leNat_cqBytes_field e 9 0 2 rfl rfl rfl (by decide), leNat_cqBytes_field e 8 2 2 rfl rfl rfl (by decide),
    leNat_cqBytes_field e 7 4 2 rfl rfl rfl (by decide), ?_, leNat_cqBytes_field e 2 7 1 rfl rfl rfl (by decide),
    leNat_cqBytes_field e 1 8 8 rfl rfl rfl (by decide), ?_⟩
  · exact (leNat_cqBytes e 3 4 6 1 rfl rfl (by decide)).trans (packFields_flags e.late e.event e.phase)
  · rw [← hhigh]
    exact leNat_cqBytes_field e 0 16 16 rfl rfl rfl (by decide)

end Sys2Proof.Proofs

namespace Sys2Proof.Proofs

open Sys2Proof Sys2Proof.Machine Sys2Proof.Laws

/-! ## EVENT_CAUSE and the acknowledgement of warnings (R318) -/

theorem wantVector_eventCause (s : State) (func vec : Nat) : (wantVector s func vec).link.eventCause = s.link.eventCause := by
  unfold wantVector
  dsimp only
  split <;> rfl

theorem raiseCause_eventCause (s : State) (code : Nat) :
    (raiseCause s code).link.eventCause = s.link.eventCause ||| causeBit code := by
  unfold raiseCause
  dsimp only
  split
  · rfl
  · exact wantVector_eventCause _ _ _

theorem backlogAdd_only (s : State) (func : Nat) (e : Event) : Only [.mailbox] s (backlogAdd s func e) :=
  (backlogAdd_held (held_self _ s) (by rfl)).only

theorem postEvent_eventCause (s : State) (code detail : Nat) :
    (postEvent s 0 code detail).link.eventCause = s.link.eventCause ||| causeBit code := by
  unfold postEvent
  extract_lets s1 q e
  have hcause : s1.link.eventCause = s.link.eventCause ||| causeBit code := raiseCause_eventCause s code
  split
  · rw [wantVector_eventCause, putQueue_link, hcause]
  · have hlink : (backlogAdd s1 0 e).link = s1.link := backlogAdd_only s1 0 e .link (by decide)
    rw [hlink, hcause]

/-- After an acknowledgement the warnings whose condition goes on are pending, acknowledged. -/
theorem ackWarnings_warnings (s : State) : (ackWarnings s).blotter.warnings =
    (s.blotter.warnings.filter (fun w => !w.ended)).map (fun w => { w with acked := true }) := List.filter_map

/-- No warning stays pending when the condition of each has ended, so ALERT_N is released. -/
theorem pinAlertN_ackWarnings {s : State} (h : ∀ w ∈ s.blotter.warnings, w.ended = true) : pinAlertN (ackWarnings s) = false := by
  have hnone : s.blotter.warnings.filter (fun w => !w.ended) = [] :=
    List.filter_eq_nil_iff.mpr fun w hw => by rw [h w hw]; decide
  unfold pinAlertN
  rw [ackWarnings_warnings, hnone]
  exact Bool.and_false _

theorem exec_eventCauseClear (time bits : Nat) {s : State} (hr : reachable s 0 = true) :
    exec (.eventCauseClear time bits) s = .next (if (BitVec.ofNat 5 bits).getLsbD 2
      then ackWarnings (causesCleared (advance s time) (BitVec.ofNat 5 bits))
      else causesCleared (advance s time) (BitVec.ofNat 5 bits)) := by
  have hr' : reachable (advance s time) 0 = true := hr
  exact congrArg Host.Outcome.next (if_pos hr')

/-- Settles O54: the event by the cause that it raises, the clear by whether it writes GOVERNOR. -/
theorem eventsAndAcknowledgement : Obligations.EventsAndAcknowledgement := by
  unfold Obligations.EventsAndAcknowledgement
  refine ⟨postEvent_eventCause, fun time bits s hr hgovernor => ?_, fun time bits s hr hgovernor => ?_⟩
  · refine ⟨_, (exec_eventCauseClear time bits hr).trans (congrArg Host.Outcome.next (if_pos hgovernor)), ?_, rfl, ?_⟩
    · exact ackWarnings_warnings _
    · exact fun hended => pinAlertN_ackWarnings (s := causesCleared (advance s time) _) hended
  · exact ⟨_, (exec_eventCauseClear time bits hr).trans (congrArg Host.Outcome.next (if_neg (ne_true_of_eq_false hgovernor))),
      rfl, rfl, rfl⟩

end Sys2Proof.Proofs

namespace Sys2Proof.Proofs

open Sys2Proof Sys2Proof.Machine Sys2Proof.Laws

/-! ## Doorbells (R301, R303) -/

theorem putQueue_only (s : State) (f qp : Nat) (q : Queue) : Only [.mailbox] s (putQueue s f qp q) := fun p hp => by
  cases p with
  | mailbox => exact absurd (List.mem_singleton_self _) hp
  | _ => rfl

theorem getQueue_of_mailbox {s t : State} (h : t.mailbox = s.mailbox) (f qp : Nat) : getQueue t f qp = getQueue s f qp := by
  unfold getQueue
  rw [h]

/-- A command that writes one queue pair and the time changes no more. -/
theorem movesPair {c : Instr} {s : State} {time f qp : Nat} {q : Queue}
    (he : exec c s = .next (putQueue (advance s time) f qp q)) :
    ∃ t, exec c s = .next t ∧ getQueue t f qp = q ∧ (∀ g r, qkey g r ≠ qkey f qp → getQueue t g r = getQueue s g r) ∧
      Only [.now, .mailbox] s t :=
  ⟨_, he, getQueue_putQueue _ f qp q, fun _ _ hne => getQueue_putQueue_ne _ q hne,
    only_append (advance_only s time) (putQueue_only _ f qp q)⟩

/-- A doorbell write to an enabled pair takes effect at its time too. -/
theorem doorbell_enabled {s : State} {f qp : Nat} (hok : doorbellOk s f qp = true) (henable : (getQueue s f qp).enable = true)
    (time : Nat) : (doorbellOk (advance s time) f qp && (getQueue (advance s time) f qp).enable) = true :=
  Bool.and_eq_true_iff.mpr ⟨hok, henable⟩

theorem sqTail_moves (time f qp v : Nat) (s : State) (hok : doorbellOk s f qp = true) (henable : (getQueue s f qp).enable = true)
    (hin : v % 65536 < 2 ^ (getQueue s f qp).sqLog2)
    (hroom : ringDist (2 ^ (getQueue s f qp).sqLog2) (getQueue s f qp).sqHead (getQueue s f qp).sqTail +
      ringDist (2 ^ (getQueue s f qp).sqLog2) (getQueue s f qp).sqTail (v % 65536) ≤ 2 ^ (getQueue s f qp).sqLog2 - 1) :
    ∃ t, exec (.sqTail time f qp v) s = .next t ∧ getQueue t f qp = { getQueue s f qp with sqTail := v % 65536 } ∧
      (∀ g r, qkey g r ≠ qkey f qp → getQueue t g r = getQueue s g r) ∧ Only [.now, .mailbox] s t := by
  have hvalid := not_or.mpr ⟨Nat.not_le.mpr hin, Nat.not_lt.mpr hroom⟩
  exact movesPair (congrArg Host.Outcome.next ((if_pos (doorbell_enabled hok henable time)).trans (if_neg hvalid)))

/-- What an entry of the CQ leaves of a queue pair, a doorbell error leaves of the pair that it stops. -/
theorem queueError_view {α : Type} (view : Queue → α) (hview : ∀ q e, view (pushCq q e) = view q) (s : State)
    (f qp cause : Nat) :
    view (getQueue (queueError s f qp cause) f qp) = view { getQueue s f qp with stopped := true } := by
  have hevent : ∀ (s : State) (e : Event), view (getQueue (postPairEvent s f qp e) f qp) = view (getQueue s f qp) := by
    intro s e
    unfold postPairEvent
    dsimp only
    split
    · unfold writeEvent
      dsimp only
      rw [wantVector_getQueue, getQueue_putQueue, hview]
    · rw [backlogAdd_getQueue]
  unfold queueError
  extract_lets q s1 s2
  have hnoted : (note s2 0x0502 3 0x4010 (f * 256 + qp) cause).mailbox = s2.mailbox :=
    (reportPlain_held (held_self [.blotter, .mgmt] s2) (by rfl)).only .mailbox (by decide)
  rw [getQueue_of_mailbox hnoted, hevent, getQueue_putQueue]

theorem sqTail_stops (time f qp v : Nat) (s : State) (hok : doorbellOk s f qp = true) (henable : (getQueue s f qp).enable = true)
    (hout : 2 ^ (getQueue s f qp).sqLog2 ≤ v % 65536) :
    ∃ t, exec (.sqTail time f qp v) s = .next t ∧ (getQueue t f qp).stopped = true ∧
      (getQueue t f qp).sqTail = (getQueue s f qp).sqTail :=
  ⟨_, congrArg Host.Outcome.next ((if_pos (doorbell_enabled hok henable time)).trans (if_pos (Or.inl hout))),
    queueError_stopped _ _ _ _, queueError_view (·.sqTail) (fun _ _ => rfl) _ _ _ _⟩

/-- Held completions are written to their pair's queue; a signal of its vector is the link's. -/
theorem flushHeld_getQueue (s : State) (f qp : Nat) :
    getQueue (flushHeld s f qp) f qp = pushHeld (getQueue s f qp).heldCq.length (stamp s) (getQueue s f qp) := by
  unfold flushHeld
  dsimp only
  split
  · rw [wantVector_getQueue, getQueue_putQueue]
  · rw [getQueue_putQueue]

theorem flushHeld_other (s : State) {f qp g r : Nat} (hne : qkey g r ≠ qkey f qp) :
    getQueue (flushHeld s f qp) g r = getQueue s g r := by
  unfold flushHeld
  dsimp only
  split
  · rw [wantVector_getQueue, getQueue_putQueue_ne _ _ hne]
  · rw [getQueue_putQueue_ne _ _ hne]

theorem cqHead_frees (time f qp v : Nat) (s : State) (hok : doorbellOk s f qp = true)
    (hin : v % 65536 < 2 ^ (getQueue s f qp).cqLog2)
    (hwritten : ringDist (2 ^ (getQueue s f qp).cqLog2) (getQueue s f qp).cqHead (v % 65536) ≤
      ringDist (2 ^ (getQueue s f qp).cqLog2) (getQueue s f qp).cqHead (getQueue s f qp).cqIndex) :
    ∃ t, exec (.cqHead time f qp v) s = .next t ∧
      getQueue t f qp = pushHeld (getQueue s f qp).heldCq.length (stamp (advance s time)) { getQueue s f qp with
        cq := (getQueue s f qp).cq.drop (ringDist (2 ^ (getQueue s f qp).cqLog2) (getQueue s f qp).cqHead (v % 65536)),
        cqHead := v % 65536 } ∧
      (∀ g r, qkey g r ≠ qkey f qp → getQueue t g r = getQueue s g r) ∧ Only [.now, .mailbox, .link] s t := by
  have hok' : doorbellOk (advance s time) f qp = true := hok
  have hvalid := not_or.mpr ⟨Nat.not_le.mpr hin, Nat.not_lt.mpr hwritten⟩
  refine ⟨_, congrArg Host.Outcome.next ((if_pos hok').trans (if_neg hvalid)), ?_, fun g r hne => ?_, ?_⟩
  · refine (flushHeld_getQueue _ f qp).trans ?_
    rw [getQueue_putQueue]
    rfl
  · exact (flushHeld_other _ hne).trans (getQueue_putQueue_ne _ _ hne)
  · exact Only.mono (only_append (advance_only s time) (only_append (putQueue_only _ f qp _)
      (flushHeld_held (held_self [.mailbox, .link] _) (by rfl)).only)) (by decide)

theorem tsHead_frees (time f qp v : Nat) (s : State) (hok : doorbellOk s f qp = true) (hf : f ≠ 0)
    (hin : v % 1048576 < 2 ^ (getQueue s f qp).tsLog2)
    (hwritten : ringDist (2 ^ (getQueue s f qp).tsLog2) (getQueue s f qp).tsHead (v % 1048576) ≤
      ringDist (2 ^ (getQueue s f qp).tsLog2) (getQueue s f qp).tsHead (getQueue s f qp).tsIndex) :
    ∃ t, exec (.tsHead time f qp v) s = .next t ∧
      getQueue t f qp = { getQueue s f qp with
        ts := consumeUnits (ringDist (2 ^ (getQueue s f qp).tsLog2) (getQueue s f qp).tsHead (v % 1048576)) (getQueue s f qp).ts,
        tsHead := v % 1048576 } ∧
      (∀ g r, qkey g r ≠ qkey f qp → getQueue t g r = getQueue s g r) ∧ Only [.now, .mailbox] s t := by
  have hok' : (doorbellOk (advance s time) f qp && f != 0) = true := Bool.and_eq_true_iff.mpr ⟨hok, bne_iff_ne.mpr hf⟩
  have hvalid := not_or.mpr ⟨Nat.not_le.mpr hin, Nat.not_lt.mpr hwritten⟩
  exact movesPair (congrArg Host.Outcome.next ((if_pos hok').trans (if_neg hvalid)))

/-! ## Enabling (R300, R320, R321) -/

/-- A pair as its activation leaves it: every index 0, every phase 1, its rings empty. -/
def activated (q : Queue) : Queue :=
  { q with
    enable := true, active := true, stopped := false, sqTail := 0, sqHead := 0, cqIndex := 0, cqHead := 0, cqPhase := true,
    cq := [], tsIndex := 0, tsHead := 0, tsPhase := true, ts := [], resume := false }

theorem activate_of_fresh {s : State} {f qp : Nat} (hfresh : (getQueue s f qp).resume = false) :
    activate s f qp = putQueue s f qp (activated (getQueue s f qp)) := if_neg (ne_true_of_eq_false hfresh)

/-- A function is bound, and its binding waits for no token. -/
def Bound (s : State) (f : Nat) : Prop :=
  (tget ({} : Binding) s.mailbox.bindings f).bound = true ∧ (tget ({} : Binding) s.mailbox.bindings f).waiting = false

theorem bindFresh_bound (s : State) (f : Nat) : Bound (bindFresh s f) f := by
  have hnew : tget ({} : Binding) (bindFresh s f).mailbox.bindings f = { bound := true, token := freshToken s } :=
    tget_tput_same ({} : Binding) s.mailbox.bindings f { bound := true, token := freshToken s }
  unfold Bound
  rw [hnew]
  exact ⟨rfl, rfl⟩

/-- QUEUE_ENABLE of an inactive pair with good sizes binds the function where it is not bound, and activates the pair. -/
theorem exec_queueEnable (time f qp : Nat) (s : State) (hr : reachable s f = true) (hactive : (getQueue s f qp).active = false)
    (henable : (getQueue s f qp).enable = false) (hsizes : sizesOk f (getQueue s f qp) = true)
    (htoken : if (tget ({} : Binding) s.mailbox.bindings f).waiting
      then (getFn s f).tokenReg = (tget ({} : Binding) s.mailbox.bindings f).token
      else (tget ({} : Binding) s.mailbox.bindings f).bound = true ∨ (getFn s f).tokenReg = 0) :
    ∃ u, exec (.queueEnable time f qp) s = .next (activate u f qp) ∧ Bound u f ∧ getQueue u f qp = getQueue s f qp := by
  have hmay : ¬ (reachable (advance s time) f = false ∨ (getQueue (advance s time) f qp).active = true ∨
      (getQueue (advance s time) f qp).enable = true) := by
    rintro (h | h | h)
    · exact not_unreachable hr time h
    · exact ne_true_of_eq_false hactive h
    · exact ne_true_of_eq_false henable h
  have hsizes' : ¬ sizesOk f (getQueue (advance s time) f qp) = false := ne_false_of_eq_true hsizes
  show ∃ u, execQueueEnable time f qp s = .next (activate u f qp) ∧ _
  unfold execQueueEnable
  extract_lets s1 q b tok
  have htoken' : if b.waiting then tok = b.token else b.bound = true ∨ tok = 0 := htoken
  rw [if_neg hmay, if_neg hsizes']
  by_cases hwaits : b.waiting = true
  · rw [if_pos hwaits] at htoken'
    refine ⟨bindFresh s1 f, ?_, bindFresh_bound s1 f, rfl⟩
    rw [if_neg (by rw [hwaits]; simp), if_pos hwaits, if_pos htoken']
  · rw [if_neg hwaits] at htoken'
    by_cases hbound : b.bound = true
    · refine ⟨s1, ?_, ⟨hbound, Bool.eq_false_of_not_eq_true hwaits⟩, rfl⟩
      rw [if_pos (by simp [hbound, hwaits])]
    · refine ⟨bindFresh s1 f, ?_, bindFresh_bound s1 f, rfl⟩
      rw [if_neg (by simp [hbound]), if_neg hwaits, if_pos (htoken'.resolve_left hbound)]

theorem queueEnable_activates (time f qp : Nat) (b : Binding) (s : State) (hr : reachable s f = true)
    (hactive : (getQueue s f qp).active = false) (henable : (getQueue s f qp).enable = false)
    (hfresh : (getQueue s f qp).resume = false) (hsizes : sizesOk f (getQueue s f qp) = true)
    (hb : tget {} s.mailbox.bindings f = b)
    (htoken : if b.waiting then (getFn s f).tokenReg = b.token else b.bound = true ∨ (getFn s f).tokenReg = 0) :
    ∃ t, exec (.queueEnable time f qp) s = .next t ∧ getQueue t f qp = activated (getQueue s f qp) ∧ Bound t f := by
  subst hb
  obtain ⟨u, he, hbound, hqueue⟩ := exec_queueEnable time f qp s hr hactive henable hsizes htoken
  rw [activate_of_fresh (by rw [hqueue]; exact hfresh), hqueue] at he
  exact ⟨_, he, getQueue_putQueue u f qp _, hbound⟩

/-! ## Disabling (R314) -/

theorem dropTurns_of_none {s : State} {p : Session → Bool}
    (h : ∀ kv ∈ s.serving.sessions, (kv.2.turn.isSome && p kv.2) = false) : dropTurns s p = s := by
  have hnone : sessionIds s (fun v => v.turn.isSome && p v) = [] := by
    unfold sessionIds
    rw [List.filter_eq_nil_iff.mpr fun kv hkv => ne_true_of_eq_false (h kv hkv)]
    rfl
  unfold dropTurns
  rw [hnone]
  rfl

/-- The session's turn was submitted by the pair. -/
def turnOf (f qp : Nat) (v : Session) : Bool := match v.turn with | some u => u.func == f && u.qp == qp | none => false

theorem turnOf_eq_false {f qp : Nat} {v : Session} (h : ∀ u, v.turn = some u → ¬ (u.func = f ∧ u.qp = qp)) :
    turnOf f qp v = false := by
  unfold turnOf
  split
  · next u hu => simpa using h u hu
  · rfl

/-- The pair as its disabling begins. -/
def disabledPair (s : State) (f qp : Nat) : State :=
  putQueue s f qp { getQueue s f qp with enable := false, disabledAt := s.now }

/-- What the pair holds is dropped, and its commands run on unheard. -/
def heldDropped (f qp : Nat) (s : State) : State :=
  muteFetched (putQueue s f qp { getQueue s f qp with holding := [], heldCq := [] }) f qp

theorem exec_queueDisable (time f qp : Nat) {s : State} (hr : reachable s f = true) (henable : (getQueue s f qp).enable = true)
    (hnone : ∀ kv ∈ s.serving.sessions, ∀ u, kv.2.turn = some u → ¬ (u.func = f ∧ u.qp = qp)) :
    exec (.queueDisable time f qp) s = .next (heldDropped f qp (disabledPair (advance s time) f qp)) := by
  have hmay : (reachable (advance s time) f && (getQueue (advance s time) f qp).enable) = true :=
    Bool.and_eq_true_iff.mpr ⟨hr, henable⟩
  have hkept : dropTurns (disabledPair (advance s time) f qp) (turnOf f qp) = disabledPair (advance s time) f qp :=
    dropTurns_of_none fun kv hkv => by rw [turnOf_eq_false (hnone kv hkv), Bool.and_false]
  exact congrArg Host.Outcome.next ((if_pos hmay).trans (congrArg (heldDropped f qp) hkept))

theorem queueDisable_drops (time f qp : Nat) (s : State) (hr : reachable s f = true) (henable : (getQueue s f qp).enable = true)
    (hnone : ∀ kv ∈ s.serving.sessions, ∀ u, kv.2.turn = some u → ¬ (u.func = f ∧ u.qp = qp)) :
    ∃ t, exec (.queueDisable time f qp) s = .next t ∧
      getQueue t f qp = { getQueue s f qp with enable := false, disabledAt := max s.now time, holding := [], heldCq := [] } ∧
      (∀ g r, qkey g r ≠ qkey f qp → getQueue t g r = getQueue s g r) := by
  refine ⟨_, exec_queueDisable time f qp hr henable hnone, ?_, fun g r hne => ?_⟩
  · refine (getQueue_putQueue _ f qp _).trans ?_
    unfold disabledPair
    rw [getQueue_putQueue]
    rfl
  · exact (getQueue_putQueue_ne _ _ hne).trans (getQueue_putQueue_ne _ _ hne)

theorem queueDrained_falls (time f qp : Nat) (s : State) (hactive : (getQueue s f qp).active = true)
    (henable : (getQueue s f qp).enable = false)
    (hdone : (∀ x ∈ s.mailbox.fetched, ¬ (x.func = f ∧ x.qp % 8 = qp)) ∨
      (f ≠ 0 ∧ (getQueue s f qp).disabledAt + 50000000 ≤ max s.now time)) :
    ∃ t, exec (.queueDrained time f qp) s = .next t ∧
      getQueue t f qp = { getQueue s f qp with active := false, stopped := false } ∧
      (∀ g r, qkey g r ≠ qkey f qp → getQueue t g r = getQueue s g r) ∧ Only [.now, .mailbox] s t := by
  have hdone' : (!(s.mailbox.fetched.any (fun x => x.func == f && x.qp % 8 == qp)) ||
      (f != 0 && decide ((getQueue s f qp).disabledAt + 50000000 ≤ max s.now time))) = true := by
    simpa [List.any_eq_false] using hdone
  have hmay : ((getQueue s f qp).active && !(getQueue s f qp).enable &&
      (!(s.mailbox.fetched.any (fun x => x.func == f && x.qp % 8 == qp)) ||
        (f != 0 && decide ((getQueue s f qp).disabledAt + 50000000 ≤ max s.now time)))) = true := by
    rw [hdone', hactive, henable]
    rfl
  exact movesPair (congrArg Host.Outcome.next (if_pos hmay))

/-- Settles O36: each doorbell by the index that it moves, then the activation of a pair, its disabling and its drain. -/
theorem doorbellsMoveTheRings : Obligations.DoorbellsMoveTheRings := by
  unfold Obligations.DoorbellsMoveTheRings
  refine ⟨fun time f qp v s hok henable => ⟨sqTail_moves time f qp v s hok henable, sqTail_stops time f qp v s hok henable⟩,
    cqHead_frees, tsHead_frees, fun time f qp b s hr hactive henable hfresh hsizes hb htoken => ?_, queueDisable_drops,
    queueDrained_falls⟩
  obtain ⟨t, he, hqueue, hbound, hwaits⟩ :=
    queueEnable_activates time f qp b s hr hactive henable hfresh hsizes hb htoken
  refine ⟨t, he, ?_⟩
  rw [hqueue]
  exact ⟨rfl, rfl, rfl, rfl, rfl, rfl, rfl, rfl, rfl, rfl, hbound, hwaits⟩

end Sys2Proof.Proofs

namespace Sys2Proof.Proofs

open Sys2Proof Sys2Proof.Machine Sys2Proof.Laws

/-! ## Fetching and time-outs (R304, R308, R312) -/

theorem setMailbox_only (s : State) (v : Mailbox) : Only [.mailbox] s { s with mailbox := v } := fun p hp => by
  cases p with
  | mailbox => exact absurd (List.mem_singleton_self _) hp
  | _ => rfl

/-- The command of a fetched descriptor (R304). -/
def fetchedOf (now f qp : Nat) (d : List Byte) : Fetched :=
  { func := f, qp := qp, cid := leNat ((d.drop 2).take 2), opcode := leNat (d.take 2),
    fence := decide ((d.getD 4 0#8).toNat % 2 = 1),
    deadline := if leNat ((d.drop 6).take 2) = 0 then 0 else now + leNat ((d.drop 6).take 2) * 1000000 }

/-- The state with one more command fetched. -/
def withFetched (s : State) (x : Fetched) : State := { s with mailbox := { s.mailbox with fetched := s.mailbox.fetched ++ [x] } }

theorem descriptorFetch_takes (time f qp : Nat) (d : List Byte) (s : State) (hactive : (getQueue s f qp).active = true)
    (henable : (getQueue s f qp).enable = true) (hruns : (getQueue s f qp).stopped = false) (hup : s.link.up = true)
    (hawake : f = 0 ∨ isDeep s.power.state = false) (hd0 : (getFn s f).d3hot = false) (hopen : sealedBlocked s f = false)
    (hwork : (getQueue s f qp).sqHead ≠ (getQueue s f qp).sqTail) (hwindow : fetchWindow s f qp = true)
    (hheader : headerStatus s f qp d = none) :
    ∃ t x, exec (.descriptorFetch time f qp d true) s = .next t ∧ t.mailbox.fetched = s.mailbox.fetched ++ [x] ∧
      x.func = f ∧ x.qp = qp ∧ x.cid = leNat ((d.drop 2).take 2) ∧ x.opcode = leNat (d.take 2) ∧ x.started = false ∧
      getQueue t f qp = { getQueue s f qp with
        sqHead := ((getQueue s f qp).sqHead + 1) % 2 ^ (getQueue s f qp).sqLog2 } ∧ Only [.now, .mailbox] s t := by
  have hmay : ((getQueue s f qp).active && (getQueue s f qp).enable && !(getQueue s f qp).stopped && s.link.up &&
      (f == 0 || !(isDeep s.power.state)) && !(getFn s f).d3hot && !sealedBlocked s f &&
      decide ((getQueue s f qp).sqHead ≠ (getQueue s f qp).sqTail) && fetchWindow s f qp) = true := by
    simp [hactive, henable, hruns, hup, hawake, hd0, hopen, hwork, hwindow]
  have he : exec (.descriptorFetch time f qp d true) s = .next (withFetched (putQueue (advance s time) f qp { getQueue s f qp with
      sqHead := ((getQueue s f qp).sqHead + 1) % 2 ^ (getQueue s f qp).sqLog2 }) (fetchedOf (max s.now time) f qp d)) := by
    refine congrArg Host.Outcome.next ((if_pos hmay).trans ((if_pos rfl).trans ?_))
    extract_lets cid s1
    have hheader' : headerStatus s1 f qp d = none := hheader
    rw [hheader']
    rfl
  exact ⟨_, _, he, rfl, rfl, rfl, rfl, rfl, rfl, getQueue_putQueue (advance s time) f qp _,
    only_append (advance_only s time) (Only.trans (putQueue_only _ f qp _) (setMailbox_only _ _))⟩

theorem withdraw_mailbox (s : State) (x : Fetched) : (withdraw s x).mailbox = s.mailbox := by
  unfold withdraw
  split
  · rfl
  · split
    · rfl
    · split
      · rfl
      · split <;> rfl

/-- A command whose time-out fell in the cycle of its completion. -/
def flaggedLate (x : Fetched) : Fetched := { x with lateFlag := true }

/-- The state with the command of a pair and CID marked late. -/
def markedLate (s : State) (f qp cid : Nat) : State :=
  let l := modWhere (fun x => x.func == f && x.qp == qp && x.cid == cid) flaggedLate s.mailbox.fetched
  { s with mailbox := { s.mailbox with fetched := l } }

theorem exec_commandTimeout {time f qp cid : Nat} {x : Fetched} {s : State}
    (hx : s.mailbox.fetched.find? (fun x => x.func == f && x.qp == qp && x.cid == cid) = some x) (hset : x.deadline ≠ 0)
    (hdue : x.deadline ≤ max s.now time) (hnew : x.started = false) (sameCycle : Bool) :
    exec (.commandTimeout time f qp cid sameCycle) s = .next (if sameCycle then markedLate (advance s time) f qp cid
      else completeAt (withdraw (advance s time) x) f qp cid stTimedOut 0 []) := by
  have hout : ¬ (x.deadline = 0 ∨ (advance s time).now < x.deadline ∨ (x.started && !x.waits) = true) := by
    rintro (h | h | h)
    · exact hset h
    · exact Nat.not_lt.mpr hdue h
    · simp [hnew] at h
  show execCommandTimeout time f qp cid sameCycle s = _
  unfold execCommandTimeout
  extract_lets s1 mine
  have hx' : s1.mailbox.fetched.find? mine = some x := hx
  rw [hx']
  dsimp only
  rw [if_neg hout]
  rfl

theorem commandTimeout_answers (time f qp cid : Nat) (x : Fetched) (s : State)
    (hx : s.mailbox.fetched.find? (fun x => x.func == f && x.qp == qp && x.cid == cid) = some x) (hset : x.deadline ≠ 0)
    (hdue : x.deadline ≤ max s.now time) (hnew : x.started = false)
    (hontime : OnTime s { time := time, func := f, qp := qp, cid := cid }) :
    ∃ t, exec (.commandTimeout time f qp cid false) s = .next t ∧
      Answered s t { time := time, func := f, qp := qp, cid := cid } stTimedOut 0 [] :=
  ⟨_, exec_commandTimeout hx hset hdue hnew false, complete_answered hontime (withdraw_mailbox (advance s time) x) _ _ _⟩

theorem commandTimeout_marks (time f qp cid : Nat) (x : Fetched) (s : State)
    (hx : s.mailbox.fetched.find? (fun x => x.func == f && x.qp == qp && x.cid == cid) = some x) (hset : x.deadline ≠ 0)
    (hdue : x.deadline ≤ max s.now time) (hnew : x.started = false) :
    ∃ t, exec (.commandTimeout time f qp cid true) s = .next t ∧
      (∃ y ∈ t.mailbox.fetched, y = { x with lateFlag := true }) ∧ Only [.now, .mailbox] s t := by
  refine ⟨_, exec_commandTimeout hx hset hdue hnew true, ⟨_, ?_, rfl⟩,
    only_append (advance_only s time) (setMailbox_only (advance s time) _)⟩
  exact List.mem_map.mpr ⟨x, List.mem_of_find?_eq_some hx, if_pos (List.find?_some hx)⟩

/-! ## Waiting events (R317) -/

theorem writeEvent_mailbox (s : State) (f : Nat) (e : Event) : (writeEvent s f e).mailbox =
    (putQueue s f e.qp (pushCq (getQueue s f e.qp) (eventEntry (getQueue s f e.qp) (stamp s) e))).mailbox :=
  wantVector_mailbox _ _ _

/-- The state with another backlog of a function. -/
def withBacklog (s : State) (f : Nat) (l : List Event) : State :=
  { s with mailbox := { s.mailbox with backlog := tput [] s.mailbox.backlog f l } }

theorem withBacklog_backlog (s : State) (f : Nat) (l : List Event) : tget [] (withBacklog s f l).mailbox.backlog f = l :=
  tget_tput_same ([] : List Event) s.mailbox.backlog f l

/-- With nothing waiting and nothing lost no event is written. -/
theorem postWaiting_of_none {s : State} {f : Nat} (hnone : tget [] s.mailbox.backlog f = [])
    (hlost : tget 0 s.mailbox.overflow f = 0) (n : Nat) : postWaiting f n s = s := by
  cases n with
  | zero => rfl
  | succ n =>
    unfold postWaiting
    rw [hnone, hlost]
    exact if_neg (by simp)

theorem postWaiting_of_one {s : State} {f : Nat} {e : Event} (hroom : eventRoom s f e.qp = true)
    (hone : tget [] s.mailbox.backlog f = [e]) (hlost : tget 0 s.mailbox.overflow f = 0) (n : Nat) :
    postWaiting f (n + 1) s = withBacklog (writeEvent s f e) f [] := by
  have hfirst : takeFirst (fun e => eventRoom s f e.qp) [e] = some (e, []) := if_pos hroom
  have hnone : tget [] (withBacklog (writeEvent s f e) f []).mailbox.backlog f = [] := withBacklog_backlog _ f []
  have hkept : tget 0 (withBacklog (writeEvent s f e) f []).mailbox.overflow f = 0 := by
    show tget 0 (writeEvent s f e).mailbox.overflow f = 0
    rw [writeEvent_mailbox]
    exact hlost
  unfold postWaiting
  rw [hone, hfirst]
  exact postWaiting_of_none hnone hkept n

theorem eventBacklogPost_writes (time f : Nat) (e : Event) (s : State) (hroom : eventRoom s f e.qp = true)
    (hone : tget [] s.mailbox.backlog f = [e]) (hlost : tget 0 s.mailbox.overflow f = 0) :
    ∃ t, exec (.eventBacklogPost time f) s = .next t ∧ tget [] t.mailbox.backlog f = [] ∧
      getQueue t f e.qp = pushCq (getQueue s f e.qp) (eventEntry (getQueue s f e.qp) (stamp (advance s time)) e) := by
  refine ⟨_, congrArg Host.Outcome.next (postWaiting_of_one (s := advance s time) hroom hone hlost _),
    withBacklog_backlog _ f [], ?_⟩
  exact (getQueue_of_mailbox (writeEvent_mailbox (advance s time) f e) f e.qp).trans (getQueue_putQueue _ f e.qp _)

/-! ## Messages (R283, R311) -/

/-- A function with what the host has in its MSI-X capability. -/
def withMsixCtl (v : Fn) (c : MsixCtl) : Fn := { v with msixEnable := c.enable, msixMaskAll := c.maskAll }

/-- A function whose message of a vector is held as pending. -/
def msixHeld (v : Fn) (vector : Nat) : Fn :=
  { v with
    msixWanted := v.msixWanted.filter (fun w => w != vector),
    msixPending := if v.msixPending.contains vector then v.msixPending else v.msixPending ++ [vector] }

/-- A function whose message of a vector is sent: the vector's next one waits for 1 µs. -/
def msixSent (v : Fn) (vector now : Nat) : Fn :=
  { v with
    msixWanted := v.msixWanted.filter (fun w => w != vector), msixPending := v.msixPending.filter (fun w => w != vector),
    msixSentAt := tput 0 v.msixSentAt vector (now + 1000) }

theorem contains_filter_ne (l : List Nat) (v : Nat) : (l.filter (fun w => w != v)).contains v = false := by simp

theorem msixHeld_pending (v : Fn) (vector : Nat) : (msixHeld v vector).msixPending.contains vector = true := by
  unfold msixHeld
  dsimp only
  split
  · assumption
  · simp

/-- The state once MSIX_SEND has taken over what the host has in the capability. -/
def msixTaken (s : State) (time f : Nat) (c : MsixCtl) : State := putFn (advance s time) f (withMsixCtl (getFn s f) c)

theorem exec_msixSend (time f v : Nat) (c : MsixCtl) (s : State) :
    exec (.msixSend ⟨time, c⟩ f v) s = .next (
      if c.enable && ((getFn s f).msixWanted.contains v || (getFn s f).msixPending.contains v) then
        if c.maskAll || msixMasked (getFn s f) v then
          putFn (msixTaken s time f c) f (msixHeld (withMsixCtl (getFn s f) c) v)
        else if max s.now time < tget 0 (getFn s f).msixSentAt v then msixTaken s time f c
        else putFn (msixTaken s time f c) f (msixSent (withMsixCtl (getFn s f) c) v (max s.now time))
      else msixTaken s time f c) := by
  show execMsixSend ⟨time, c⟩ f v s = _
  unfold execMsixSend
  dsimp only
  rw [getFn_putFn]
  rfl

theorem msixSend_sends (time f v : Nat) (c : MsixCtl) (s : State) :
    (c.enable = false → ∃ t, exec (.msixSend ⟨time, c⟩ f v) s = .next t ∧
      getFn t f = { getFn s f with msixEnable := false, msixMaskAll := c.maskAll } ∧ Only [.now, .link] s t) ∧
    (c.enable = true → (getFn s f).msixWanted.contains v = true ∨ (getFn s f).msixPending.contains v = true →
      (c.maskAll = true ∨ msixMasked (getFn s f) v = true → ∃ t, exec (.msixSend ⟨time, c⟩ f v) s = .next t ∧
        (getFn t f).msixPending.contains v = true ∧ (getFn t f).msixWanted.contains v = false ∧
        (getFn t f).msixSentAt = (getFn s f).msixSentAt) ∧
      (c.maskAll = false → msixMasked (getFn s f) v = false → tget 0 (getFn s f).msixSentAt v ≤ max s.now time →
        ∃ t, exec (.msixSend ⟨time, c⟩ f v) s = .next t ∧ (getFn t f).msixPending.contains v = false ∧
          (getFn t f).msixWanted.contains v = false ∧ tget 0 (getFn t f).msixSentAt v = max s.now time + 1000)) := by
  have hdue : c.enable = true → (getFn s f).msixWanted.contains v = true ∨ (getFn s f).msixPending.contains v = true →
      (c.enable && ((getFn s f).msixWanted.contains v || (getFn s f).msixPending.contains v)) = true :=
    fun hon hwanted => Bool.and_eq_true_iff.mpr ⟨hon, Bool.or_eq_true_iff.mpr hwanted⟩
  refine ⟨fun hoff => ?_, fun hon hwanted => ⟨fun hmasked => ?_, fun hall hmask hgap => ?_⟩⟩
  · refine ⟨_, (exec_msixSend time f v c s).trans (congrArg Host.Outcome.next (if_neg (by simp [hoff]))), ?_,
      only_append (advance_only s time) (setLink_only _ _)⟩
    rw [← hoff]
    exact getFn_putFn (advance s time) f _
  · refine ⟨_, (exec_msixSend time f v c s).trans (congrArg Host.Outcome.next ((if_pos (hdue hon hwanted)).trans
      (if_pos (Bool.or_eq_true_iff.mpr hmasked)))), ?_⟩
    rw [getFn_putFn]
    exact ⟨msixHeld_pending _ v, contains_filter_ne _ v, rfl⟩
  · refine ⟨_, (exec_msixSend time f v c s).trans (congrArg Host.Outcome.next ((if_pos (hdue hon hwanted)).trans
      ((if_neg (by simp [hall, hmask])).trans (if_neg (Nat.not_lt.mpr hgap))))), ?_⟩
    rw [getFn_putFn]
    exact ⟨contains_filter_ne _ v, contains_filter_ne _ v, tget_tput_same 0 (getFn s f).msixSentAt v (max s.now time + 1000)⟩

/-! ## Bindings (R322) -/

theorem bindingExpiry_drops (time f d : Nat) (s : State) (hdrop : (tget ({} : Binding) s.mailbox.bindings f).dropAt = some d)
    (hwaits : (tget ({} : Binding) s.mailbox.bindings f).waiting = true) (hdue : d ≤ max s.now time) :
    ∃ t, exec (.bindingExpiry time f) s = .next t ∧ tget ({} : Binding) t.mailbox.bindings f = {} := by
  have he : exec (.bindingExpiry time f) s = .next (dropBinding (advance s time) f) := by
    show execBindingExpiry time f s = _
    unfold execBindingExpiry
    extract_lets s1 b
    have hdrop' : b.dropAt = some d := hdrop
    rw [hdrop']
    exact congrArg Host.Outcome.next (if_pos (Bool.and_eq_true_iff.mpr ⟨hwaits, decide_eq_true hdue⟩))
  exact ⟨_, he, tget_tput_same ({} : Binding) _ f {}⟩

end Sys2Proof.Proofs

namespace Sys2Proof.Proofs

open Sys2Proof Sys2Proof.Machine Sys2Proof.Laws

/-! ## What the delivery of a record leaves of the other sessions -/

theorem giveExtent_otherSession (s : State) {id j : Nat} (hj : j ≠ id) (o : Option Nat) :
    getSession (giveExtent s id o) j = getSession s j := by
  cases o with
  | none => rfl
  | some e => exact getSession_putSession_ne s _ hj

theorem setHistory_otherSession (s : State) {id j : Nat} (hj : j ≠ id) (l : List Nat) :
    getSession (setHistory s id l) j = getSession s j := by
  unfold setHistory
  extract_lets v same need s1 s2
  have hset : getSession s1 j = getSession s j := (getSession_putSession_ne _ _ hj).trans
    (getSession_of_sessions (congrArg Serving.sessions (clearExtents_serving s _)) j)
  have hgrown : getSession s2 j = getSession s j :=
    (foldl_view (getSession · j) (fun _ _ => giveExtent_otherSession _ hj _) _ _).trans hset
  split
  · exact hgrown
  · exact (foldl_view (getSession · j) (fun s k =>
      getSession_of_sessions (congrArg Serving.sessions (writeHistory_serving s id k)) j) _ _).trans hgrown

theorem notePending_otherSession (s : State) {id j : Nat} (hj : j ≠ id) :
    getSession (notePending s id) j = getSession s j := by
  unfold notePending
  extract_lets v
  split
  · split
    · exact (setHistory_otherSession _ hj _).trans (getSession_putSession_ne s _ hj)
    · rfl
  · rfl

/-! ## The issue of a record (R251, R268) -/

/-- From `s` to `t` a due record of session `id`'s turn `u` is written to the turn's ring and its tokens are counted; no other
queue and no other session changes, and the turn goes on. -/
structure Issued (id : Nat) (u : Turn) (d : Due) (s t : State) : Prop where
  queue : ∃ r, getQueue t u.func u.qp = pushTs (getQueue s u.func u.qp) r
  queues : ∀ f qp, qkey f qp ≠ qkey u.func u.qp → getQueue t f qp = getQueue s f qp
  turn : ∃ w, (getSession t id).turn = some w ∧ w.due = u.due ∧ w.delivered = u.delivered + dueTokens d ∧ w.stopAfter = none ∧
    w.ending = u.ending
  sessions : ∀ j, j ≠ id → getSession t j = getSession s j

/-- The charge of a record's tokens leaves the issue as it was. -/
theorem Issued.charged {id : Nat} {u : Turn} {d : Due} {s t : State} (h : Issued id u d s t) (tenant units : Nat) :
    Issued id u d s (notePending (charge t tenant units) id) where
  queue := by
    rw [getQueue_of_mailbox (chargeAndNote_mailbox t id tenant units)]
    exact h.queue
  queues f qp hne := (getQueue_of_mailbox (chargeAndNote_mailbox t id tenant units) f qp).trans (h.queues f qp hne)
  turn := by
    rw [chargeAndNote_turnKept]
    exact h.turn
  sessions j hj := (notePending_otherSession _ hj).trans (h.sessions j hj)

theorem issueDue_issued {s : State} {id : Nat} {u : Turn} {d : Due} (hu : (getSession s id).turn = some u)
    (hlate : u.lateStop = false) (hstop : u.stopAfter = none) (hgoes : ∀ r, d ≠ .fin r) : Issued id u d s (issueDue s id d) := by
  have hrecorded : ∀ (r : Rec) (vec : Nat) (v : Session) (w : Turn), v.turn = some w → w.due = u.due →
      w.delivered = u.delivered + dueTokens d → w.stopAfter = none → w.ending = u.ending →
      Issued id u d s (putSession (wantVector (putQueue s u.func u.qp (pushTs (getQueue s u.func u.qp) r)) u.func vec) id v) := by
    intro r vec v w hv hdue hcount hgo hend
    refine ⟨⟨r, ?_⟩, fun f qp hne => ?_, ⟨w, ?_, hdue, hcount, hgo, hend⟩, fun j hj => ?_⟩
    · exact (wantVector_getQueue _ _ _ _ _).trans (getQueue_putQueue s u.func u.qp _)
    · exact (wantVector_getQueue _ _ _ _ _).trans (getQueue_putQueue_ne s _ hne)
    · rw [getSession_putSession, hv]
    · rw [getSession_putSession_ne _ _ hj]
      exact getSession_of_sessions (congrArg Serving.sessions (wantVector_only _ _ _ .serving (by decide))) j
  unfold issueDue
  extract_lets v n
  split
  · next hidle => cases hidle.symm.trans hu
  · next t ht =>
    cases ht.symm.trans hu
    extract_lets lates faults q r s1 w s2 s3
    have h2 : Issued id u d s s2 := hrecorded _ _ _ w rfl rfl rfl (stopPoint_none hlate hstop _) rfl
    have h3 : Issued id u d s s3 := by
      show Issued id u d s (if n = 0 then s2 else notePending (charge s2 v.tenant (256 * n)) id)
      split
      · exact h2
      · exact h2.charged _ _
    cases d with
    | fin reason => exact absurd rfl (hgoes reason)
    | token x sp => exact h3
    | text n b => exact h3
    | sealedText n text reason => exact h3

theorem exec_tsRecordWrite_issued (time : Nat) {k : Nat} {u : Turn} {d : Due} {rest : List Due} {s : State}
    (hu : (getSession s k).turn = some u) (hdue : u.due = d :: rest) (hlate : u.lateStop = false)
    (hstop : u.stopAfter = none) (hheld : submitHeld s k = false) (hgoes : ∀ r, d ≠ .fin r)
    (hactive : (getQueue s u.func u.qp).active = true) (henable : (getQueue s u.func u.qp).enable = true)
    (hempty : (getQueue s u.func u.qp).holding = []) (hfits : tsFits (getQueue s u.func u.qp) (dueUnits d) = true) :
    ∃ t, exec (.tsRecordWrite time k) s = .next t ∧
      Issued k { u with due := rest } d (modTurn (advance s time) k (fun t => { t with due := rest })) t := by
  have hpump := pump_issues (s := advance s time) hu hdue hheld hactive henable hempty hfits
  have hpopped := modTurn_getSession (s := advance s time) hu (fun t => { t with due := rest })
  have hissued := issueDue_issued hpopped hlate hstop hgoes
  obtain ⟨w, hw, -, -, hgo, -⟩ := hissued.turn
  refine ⟨_, ?_, hissued⟩
  show execTsRecordWrite time k s = _
  unfold execTsRecordWrite
  rw [hpump, lateStop_of_stopAfter_none hw hgo]

theorem tsRecordWrite_issues (time k : Nat) (u : Turn) (d : Due) (rest : List Due) (s : State)
    (hu : (getSession s k).turn = some u) (hdue : u.due = d :: rest) (hlate : u.lateStop = false)
    (hstop : u.stopAfter = none) (hheld : submitHeld s k = false) (hgoes : ∀ r, d ≠ .fin r)
    (hactive : (getQueue s u.func u.qp).active = true) (henable : (getQueue s u.func u.qp).enable = true)
    (hempty : (getQueue s u.func u.qp).holding = []) (hfits : tsFits (getQueue s u.func u.qp) (dueUnits d) = true) :
    ∃ t r v, exec (.tsRecordWrite time k) s = .next t ∧ getQueue t u.func u.qp = pushTs (getQueue s u.func u.qp) r ∧
      (getSession t k).turn = some v ∧ v.due = rest ∧ v.delivered = u.delivered + dueTokens d := by
  obtain ⟨t, he, hissued⟩ :=
    exec_tsRecordWrite_issued time hu hdue hlate hstop hheld hgoes hactive henable hempty hfits
  obtain ⟨r, hqueue⟩ := hissued.queue
  obtain ⟨v, hv, hrest, hcount, -, -⟩ := hissued.turn
  exact ⟨t, r, v, he, hqueue, hv, hrest, hcount⟩

/-! ## HOLDING_BUFFER_DRAIN (R268) -/

theorem getQueue_of_qkey (s : State) {f qp g r : Nat} (h : qkey f qp = qkey g r) : getQueue s f qp = getQueue s g r := by
  unfold getQueue
  rw [h]

/-- A record that is written waits no longer, nor does any other. -/
theorem pushTs_holding (q : Queue) (r : Rec) : (pushTs q r).holding = q.holding := by
  unfold pushTs
  dsimp only
  split <;> rfl

/-- An issue fills no holding buffer. -/
theorem Issued.holding_nil {id f qp : Nat} {u : Turn} {d : Due} {s t : State} (h : Issued id u d s t)
    (hempty : (getQueue s f qp).holding = []) : (getQueue t f qp).holding = [] := by
  by_cases hkey : qkey f qp = qkey u.func u.qp
  · obtain ⟨r, hr⟩ := h.queue
    rw [getQueue_of_qkey t hkey, hr, pushTs_holding, ← getQueue_of_qkey s hkey, hempty]
  · rw [h.queues f qp hkey, hempty]

/-- An issue ends no turn. -/
theorem Issued.ending_none {id : Nat} {u : Turn} {d : Due} {s t : State} (h : Issued id u d s t)
    (hgo : ∀ j w, (getSession s j).turn = some w → w.ending = none) (hu : (getSession s id).turn = some u) :
    ∀ j w, (getSession t j).turn = some w → w.ending = none := by
  intro j v hv
  by_cases hj : j = id
  · obtain ⟨w, hw, -, -, -, hend⟩ := h.turn
    subst hj
    cases hw.symm.trans hv
    exact hend.trans (hgo j u hu)
  · rw [h.sessions j hj] at hv
    exact hgo j v hv

theorem drainHolding_of_empty {s : State} {f qp : Nat} (h : (getQueue s f qp).holding = []) (n : Nat) :
    drainHolding n s f qp = s := by
  cases n with
  | zero => rfl
  | succ n =>
    unfold drainHolding
    dsimp only
    rw [h]

/-- The state with nothing left in a pair's holding buffer. -/
def bufferEmptied (s : State) (f qp : Nat) : State := putQueue s f qp { getQueue s f qp with holding := [] }

/-- The one record that waits is issued where the ring has space. -/
theorem drainAll_of_one {s : State} {f qp k : Nat} {d : Due} (hone : (getQueue s f qp).holding = [(k, d)])
    (hactive : (getQueue s f qp).active = true) (henable : (getQueue s f qp).enable = true)
    (hfits : tsFits (getQueue s f qp) (dueUnits d) = true) :
    drainAll s f qp = drainHolding 4 (lateStop (issueDue (bufferEmptied s f qp) k d) k) f qp := by
  unfold drainAll
  rw [hone]
  show drainHolding (4 + 1) s f qp = _
  rw [drainHolding, hone]
  dsimp only
  rw [if_pos (by rw [hactive, henable, hfits]; rfl)]
  rfl

/-- What follows the drain for a turn of the pair: one that ends writes what the full buffer kept back (R268). -/
def pumpEnding (s : State) (id : Nat) : State :=
  match (getSession s id).turn with
  | some u => if u.ending.isSome then pumpAll u.due.length s id else s
  | none => s

theorem pumpEnding_of_none {s : State} {id : Nat} (h : ∀ w, (getSession s id).turn = some w → w.ending = none) :
    pumpEnding s id = s := by
  unfold pumpEnding
  split
  · next u hu => exact if_neg (by rw [h u hu]; decide)
  · rfl

theorem exec_holdingBufferDrain (time f qp : Nat) (s : State) : exec (.holdingBufferDrain time f qp) s =
    .next ((turnsOfPair (drainAll (advance s time) f qp) f qp).foldl pumpEnding (drainAll (advance s time) f qp)) := rfl

theorem holdingBufferDrain_issues (time f qp k : Nat) (d : Due) (u : Turn) (s : State)
    (hone : (getQueue s f qp).holding = [(k, d)]) (hactive : (getQueue s f qp).active = true)
    (henable : (getQueue s f qp).enable = true) (hfits : tsFits (getQueue s f qp) (dueUnits d) = true)
    (hu : (getSession s k).turn = some u) (hgoes : ∀ r, d ≠ .fin r)
    (hnone : ∀ j w, (getSession s j).turn = some w → w.lateStop = false ∧ w.stopAfter = none ∧ w.ending = none) :
    ∃ t v, exec (.holdingBufferDrain time f qp) s = .next t ∧ (getSession t k).turn = some v ∧
      v.delivered = u.delivered + dueTokens d ∧ (qkey u.func u.qp = qkey f qp → (getQueue t f qp).holding = []) := by
  obtain ⟨hlate, hstop, -⟩ := hnone k u hu
  have hends : ∀ j w, (getSession s j).turn = some w → w.ending = none := by
    intro j w hw
    obtain ⟨-, -, hend⟩ := hnone j w hw
    exact hend
  have hissued := issueDue_issued (s := bufferEmptied (advance s time) f qp) hu hlate hstop hgoes
  obtain ⟨w, hw, -, hcount, hgo, -⟩ := hissued.turn
  have hempty := hissued.holding_nil (congrArg Queue.holding (getQueue_putQueue _ f qp _))
  have hnoEnd := hissued.ending_none hends hu
  refine ⟨_, w, ?_, hw, hcount, fun _ => hempty⟩
  rw [exec_holdingBufferDrain, drainAll_of_one (s := advance s time) hone hactive henable hfits,
    lateStop_of_stopAfter_none hw hgo, drainHolding_of_empty hempty]
  exact congrArg Host.Outcome.next (List.foldl_fixed' (fun j => pumpEnding_of_none (hnoEnd j)) _)

/-- Settles O38: each row by the branch of its meaning that its clause describes. -/
theorem fetchesTimeoutsAndRecords : Obligations.FetchesTimeoutsAndRecords := by
  unfold Obligations.FetchesTimeoutsAndRecords
  exact ⟨descriptorFetch_takes, fun time f qp cid x s hx hset hdue hnew =>
      ⟨commandTimeout_answers time f qp cid x s hx hset hdue hnew, commandTimeout_marks time f qp cid x s hx hset hdue hnew⟩,
    eventBacklogPost_writes, msixSend_sends, tsRecordWrite_issues, holdingBufferDrain_issues, bindingExpiry_drops⟩

end Sys2Proof.Proofs

namespace Sys2Proof.Proofs

open Sys2Proof Sys2Proof.Machine Sys2Proof.Laws

/-! ## Frames of the commands, and the state at reset -/

/-- Settles O3: from the laws of the commands' meanings, of which each lists the parts that its meaning may change. -/
theorem commandFrames : Obligations.CommandFrames := by
  unfold Obligations.CommandFrames
  exact fun c s t ht => only_of_outHeld (exec_held s c) ht

/-- Settles O6: every store of a fixed size is empty after reset, and the registers of the governor stand at their limits. -/
theorem resetIsSound : Obligations.ResetIsSound := by
  unfold Obligations.ResetIsSound
  exact {
    vellum := rfl
    sram := rfl
    nvm := ⟨Nat.zero_le _, .nil, nofun, Nat.zero_le _⟩
    power := ⟨by decide, by decide, by decide, by decide⟩
    thermal := ⟨by decide, rfl⟩
    blotter := ⟨Nat.zero_le _, Nat.zero_le _, Nat.zero_le _⟩
    events := Nat.zero_le _
    trust := ⟨rfl, Nat.zero_le _⟩ }

end Sys2Proof.Proofs

namespace Sys2Proof.Proofs

open Sys2Proof Sys2Proof.Machine Sys2Proof.Laws

/-! ## The blotter entry (R432) -/

/-- A field of a record stands above those that are listed after it. -/
theorem packFields_field {fs : List (Nat × Nat)} {ws : List Nat} (hws : fs.map (·.1) = ws) (i w v low : Nat)
    (hfield : (fs.drop i).take 1 = [(w, v)]) (hlow : (ws.drop (i + 1)).sum = low) :
    packFields fs / 2 ^ low % 2 ^ w = v % 2 ^ w := by
  have hsplit : fs.take i ++ [(w, v)] ++ fs.drop (i + 1) = fs := by
    rw [← hfield, ← List.drop_drop, List.append_assoc, List.take_append_drop, List.take_append_drop]
  have hwidth : fieldsWidth (fs.drop (i + 1)) = low := by
    rw [← hlow, ← hws, ← List.map_drop]
    rfl
  have hmid := packFields_middle (fs.take i) [(w, v)] (fs.drop (i + 1))
  rw [hsplit, hwidth, packFields_single] at hmid
  exact hmid

/-- The first field of a record has nothing above it. -/
theorem packFields_first (w v : Nat) (fs : List (Nat × Nat)) {low : Nat} (hlow : fieldsWidth fs = low) :
    packFields ((w, v) :: fs) / 2 ^ low = v % 2 ^ w := by
  rw [← List.singleton_append, packFields_append, packFields_single, hlow, Nat.add_comm,
    Nat.add_mul_div_right _ _ (Nat.two_pow_pos _), Nat.div_eq_of_lt (hlow ▸ packFields_lt fs), Nat.zero_add]

/-- A field of one bit is that bit of the record. -/
theorem packFields_testBit {fs : List (Nat × Nat)} {ws : List Nat} (hws : fs.map (·.1) = ws) (i low : Nat) (b : Bool)
    (hfield : (fs.drop i).take 1 = [(1, bit b)]) (hlow : (ws.drop (i + 1)).sum = low) : (packFields fs).testBit low = b := by
  have hbit := packFields_field hws i 1 (bit b) low hfield hlow
  rw [Nat.pow_one] at hbit
  rw [Nat.testBit_eq_decide_div_mod_eq, hbit]
  cases b <;> rfl

/-- The widths of a blotter entry's fields, from the highest bit down. -/
def entryWidths : List Nat := [32, 64, 64, 16, 16, 16, 4, 1, 1, 1, 1, 40, 64, 32, 16, 8, 8, 64, 64]

/-- The fields of a blotter entry below INDEX, from the highest bit down. -/
def entryTail (e : Entry) : List (Nat × Nat) :=
  [(64, e.firstTime), (64, e.lastTime), (16, e.count), (16, e.report.code), (16, e.report.source),
    (4, e.report.cls), (1, bit e.coalesced), (1, bit e.uptime), (1, bit e.active), (1, bit e.stop.isSome), (40, 0),
    (64, e.report.step.getD (ones 64)), (32, e.report.session.getD (ones 32)), (16, e.report.tenant),
    (8, e.report.partition.getD 0xFF), (8, 0), (64, e.report.address), (64, e.report.aux)]

theorem entryNat_eq (e : Entry) : entryNat e = packFields ((32, e.index) :: entryTail e) := rfl

theorem entryFields_widths (e : Entry) : ((32, e.index) :: entryTail e).map (·.1) = entryWidths := rfl

theorem fieldsWidth_entryTail (e : Entry) : fieldsWidth (entryTail e) = 480 :=
  show (entryWidths.tail).sum = 480 by decide

/-- A field that may be absent reads the value that stands for its absence. -/
theorem getD_mod (o : Option Nat) (w absent : Nat) (habsent : absent < 2 ^ w) :
    o.getD absent % 2 ^ w = (match o with | some n => n % 2 ^ w | none => absent) := by
  cases o with
  | none => exact Nat.mod_eq_of_lt habsent
  | some n => rfl

/-- Settles O51: each field is the bits above those of the fields listed after it. -/
theorem blotterEntryLayout : Obligations.BlotterEntryLayout := by
  unfold Obligations.BlotterEntryLayout
  intro e
  have hlt := packFields_lt ((32, e.index) :: entryTail e)
  have hfirst := packFields_first 32 e.index (entryTail e) (fieldsWidth_entryTail e)
  have hfield := packFields_field (entryFields_widths e)
  have hflag := packFields_testBit (entryFields_widths e)
  rw [show fieldsWidth ((32, e.index) :: entryTail e) = 512 from congrArg (32 + ·) (fieldsWidth_entryTail e)] at hlt
  rw [← entryNat_eq] at hlt hfirst hfield hflag
  refine ⟨hlt, hfirst, hfield 1 64 _ 416 rfl (by decide),
    hfield 2 64 _ 352 rfl (by decide), hfield 3 16 _ 336 rfl (by decide), hfield 4 16 _ 320 rfl (by decide),
    hfield 5 16 _ 304 rfl (by decide), hfield 6 4 _ 300 rfl (by decide), hflag 7 299 _ rfl (by decide),
    hflag 8 298 _ rfl (by decide), hflag 9 297 _ rfl (by decide), hflag 10 296 _ rfl (by decide),
    hfield 11 40 _ 256 rfl (by decide), (hfield 12 64 _ 192 rfl (by decide)).trans ?_,
    (hfield 13 32 _ 160 rfl (by decide)).trans ?_, hfield 14 16 _ 144 rfl (by decide),
    (hfield 15 8 _ 136 rfl (by decide)).trans ?_, hfield 16 8 _ 128 rfl (by decide), hfield 17 64 _ 64 rfl (by decide), ?_⟩
  · exact getD_mod _ 64 _ (by decide)
  · exact getD_mod _ 32 _ (by decide)
  · exact getD_mod _ 8 _ (by decide)
  · have haux := hfield 18 64 e.report.aux 0 rfl (by decide)
    rwa [Nat.pow_zero, Nat.div_one] at haux

/-! ## The stop record (R412, R413) -/

/-- The bits that read wrong since the record was written are inverted in its word. -/
theorem stopNat_flip (r : StopRecord) (f : Nat) : stopNat { r with flip := f } = stopNat { r with flip := 0 } ^^^ (f % 2 ^ 512) := by
  unfold stopNat
  rw [Nat.zero_mod, Nat.xor_zero]

/-- A stop record as it was written. -/
def writtenRecord : StopRecord :=
  { seq := 0, hostTime := 0, uptimeMs := 0, type := 0, also := 0, unit := 0, temp := 0, tempA := 0, tempB := 0, sensors := 0,
    inlet := 0, outlet := 0, flow := 0, flowStale := false, power := 0, allowance := 0, coolingCap := 0, feedAV := 0, feedBV := 0 }

/-- The same record after the lowest bit of its SEQ went wrong. -/
def damagedRecord : StopRecord := { writtenRecord with flip := 2 ^ 480 }

/-- The two words differ in bit 480. -/
theorem damagedRecord_testBit : (stopNat damagedRecord).testBit 480 = !(stopNat writtenRecord).testBit 480 := by
  have hword := stopNat_flip writtenRecord (2 ^ 480)
  rw [Nat.mod_eq_of_lt (Nat.pow_lt_pow_right (by decide) (by decide))] at hword
  rw [show stopNat damagedRecord = _ from hword, Nat.testBit_xor, Nat.testBit_two_pow_self, Bool.xor_true]
  rfl

/-- Refutes O53: a damaged record is read as it stands (R413, `StopRecord.flip`), so a record whose flipped bit is the lowest of
bits [511:480] reads another SEQ there than the one that it was given. -/
theorem not_recordsKeepTheirSizes : ¬ Obligations.RecordsKeepTheirSizes := by
  unfold Obligations.RecordsKeepTheirSizes
  rintro ⟨-, -, -, hstop⟩
  obtain ⟨-, hwritten, -⟩ := hstop writtenRecord
  obtain ⟨-, hdamaged, -⟩ := hstop damagedRecord
  have hbits := damagedRecord_testBit
  rw [Nat.testBit_eq_decide_div_mod_eq, Nat.testBit_eq_decide_div_mod_eq, hwritten, hdamaged] at hbits
  exact absurd hbits (by decide)

end Sys2Proof.Proofs

namespace Sys2Proof.Proofs

open Sys2Proof Sys2Proof.Machine Sys2Proof.Laws

/-! ## IDENTIFY (R330) -/

/-- Settles O7: the effect is the answer, at the command's own time. -/
theorem identifyAnswersItsPage : Obligations.IdentifyAnswersItsPage := by
  unfold Obligations.IdentifyAnswersItsPage
  intro h s ha ht
  obtain ⟨t, he, ho, hans⟩ := answers (c := .identify h) (v := advance s h.time) rfl ha ht rfl rfl rfl
  exact ⟨t, he, ho .now (by decide), hans⟩

/-! ## VELLUM_LAYOUT (R137, R331) -/

/-- The layout that stands: the default one is not kept in the non-volatile memory. -/
def layoutTaken (s : State) (d : Bool) (l : Layout) : State :=
  { s with nvm := { s.nvm with layout := if d then none else some l }, vellum := { s.vellum with layout := l } }

/-- With both slots EMPTY and no session open, the layout is judged by its limits alone. -/
theorem exec_vellumLayout {h : Hdr} {d : Bool} {l : Layout} {s : State} (ha : Accepted s h opVellumLayout)
    (hd : d = true → h.dataLen = 0) (hslotA : s.images.a.state = .empty) (hslotB : s.images.b.state = .empty)
    (hfree : ∀ kv ∈ s.serving.sessions, kv.2.state = .free) :
    exec (.vellumLayout h d l) s = .next (match layoutBreak (if d then {} else l) with
      | some n => complete (advance s h.time) h 0x0101 n []
      | none => done (layoutTaken (advance s h.time) d (if d then {} else l)) h 0) := by
  have hinvalid : (d && h.dataLen != 0) = false := by
    cases d with
    | false => rfl
    | true => simp [hd rfl]
  have hclosed : (s.serving.sessions.any fun kv => decide (kv.2.state ≠ .free)) = false := by
    simpa using hfree
  show execVellumLayout h d l s = _
  unfold execVellumLayout
  rw [runCommand_accepted ha hinvalid]
  simp only [advance_images, advance_serving, hslotA, hslotB, hclosed, ne_eq, not_true, Bool.false_eq_true, or_self, if_false]
  rfl

/-- Settles O9: a layout within the limits is taken, and one that breaks a limit is answered with its number. -/
theorem vellumLayoutTakes : Obligations.VellumLayoutTakes := by
  unfold Obligations.VellumLayoutTakes
  intro h d l s ha ht hd hslotA hslotB hfree
  have he := exec_vellumLayout (l := l) ha hd hslotA hslotB hfree
  refine ⟨fun hnone => ?_, fun n hsome => ?_⟩
  · simp only [hnone] at he
    have ho := complete_only ht (v := layoutTaken (advance s h.time) d (if d then {} else l)) rfl stSuccess 0 []
    exact ⟨_, he, ho .vellum (by decide), ho .nvm (by decide),
      complete_answered (v := layoutTaken (advance s h.time) d (if d then {} else l)) ht rfl _ _ _⟩
  · simp only [hsome] at he
    have ho := complete_only ht (v := advance s h.time) rfl 0x0101 n []
    exact ⟨_, he, ho .vellum (by decide), ho .nvm (by decide), complete_answered (v := advance s h.time) ht rfl _ _ _⟩

/-! ## FAULT_ACK (R434) -/

/-- What the search for the lowest INDEX keeps of an entry. -/
def lowerIndex (m : Option Nat) (e : Entry) : Option Nat :=
  match m with
  | some x => some (min x e.index)
  | none => some e.index

theorem foldl_lowerIndex_some (l : List Entry) (x : Nat) :
    l.foldl lowerIndex (some x) = some ((l.map (·.index)).foldl min x) := by
  induction l generalizing x with
  | nil => rfl
  | cons e l ih => exact ih (min x e.index)

theorem oldestActive_eq (s : State) : oldestActive s = ((s.blotter.reserve.filter (·.active)).map (·.index)).min? := by
  show (s.blotter.reserve.filter (·.active)).foldl lowerIndex none = _
  cases s.blotter.reserve.filter (·.active) with
  | nil => rfl
  | cons e l => exact foldl_lowerIndex_some l e.index

theorem oldestActive_none {s : State} (h : ∀ e ∈ s.blotter.reserve, e.active = false) : oldestActive s = none := by
  have hnone : s.blotter.reserve.filter (·.active) = [] := List.filter_eq_nil_iff.mpr fun e he => by simp [h e he]
  rw [oldestActive_eq, hnone]
  rfl

theorem oldestActive_some {s : State} {n : Nat} (hn : ∃ e ∈ s.blotter.reserve, e.active = true ∧ e.index = n)
    (hlow : ∀ e ∈ s.blotter.reserve, e.active = true → n ≤ e.index) : oldestActive s = some n := by
  rw [oldestActive_eq, List.min?_eq_some_iff]
  obtain ⟨e, he, hactive, rfl⟩ := hn
  refine ⟨List.mem_map_of_mem (List.mem_filter.mpr ⟨he, hactive⟩), fun b hb => ?_⟩
  obtain ⟨e', he', rfl⟩ := List.mem_map.mp hb
  obtain ⟨hmem, hact⟩ := List.mem_filter.mp he'
  exact hlow e' hmem hact

/-- The reserve has moved to the general ring. -/
def reserveMoved (s : State) : State :=
  { s with blotter := { s.blotter with ring := keepRing (s.blotter.ring ++ s.blotter.reserve), reserve := [] } }

theorem exec_faultAck {h : Hdr} {s : State} (ha : Accepted s h opFaultAck) :
    exec (.faultAck h) s = .next (match oldestActive s with
      | some x => complete (advance s h.time) h stWrongState x []
      | none => done (reserveMoved (advance s h.time)) h 0xFFFFFFFF) := by
  show execFaultAck h s = _
  unfold execFaultAck
  rw [runCommand_accepted ha rfl]
  rfl

theorem pinFaultN_of_reserve_nil {s : State} (h : s.blotter.reserve = []) :
    pinFaultN s = (s.board.outputsHeld && s.board.faultHold) := by
  unfold pinFaultN
  rw [h, List.isEmpty_nil, Bool.not_true, Bool.or_false]

/-- Settles O11: by whether an ACTIVE entry stands in the reserve. -/
theorem faultAckReleasesThePin : Obligations.FaultAckReleasesThePin := by
  unfold Obligations.FaultAckReleasesThePin
  intro h s ha ht
  have he := exec_faultAck ha
  refine ⟨fun hidle => ?_, fun n hn hlow => ?_⟩
  · simp only [oldestActive_none hidle] at he
    have ho := complete_only ht (v := reserveMoved (advance s h.time)) rfl stSuccess 0xFFFFFFFF []
    have hblotter := ho .blotter (by decide)
    have hboard := ho .board (by decide)
    refine ⟨_, he, hblotter, ?_, complete_answered (v := reserveMoved (advance s h.time)) ht rfl _ _ _⟩
    refine (pinFaultN_of_reserve_nil (congrArg Blotter.reserve hblotter)).trans ?_
    exact congrArg (fun b : Board => b.outputsHeld && b.faultHold) hboard
  · simp only [oldestActive_some hn hlow] at he
    have ho := complete_only ht (v := advance s h.time) rfl stWrongState n []
    exact ⟨_, he, ho .blotter (by decide), complete_answered (v := advance s h.time) ht rfl _ _ _⟩

/-! ## Tenants and their reservoirs (R229 to R231, R333) -/

/-- A tenant's record in its table becomes `v` and an answer follows: every other tenant stays. -/
theorem answersTenant {c : Instr} {h : Hdr} {op : Opcode} {s w : State} {invalid : Bool} {body : State → State} {n r : Nat}
    {v : Tenant} (he : exec c s = .next (runVf s h op invalid body)) (ha : AcceptedVf s h op) (ht : OnTime s h)
    (hi : invalid = false) (hb : body (advance s h.time) = done w h r) (hw : w.mailbox = s.mailbox)
    (hbecomes : TenantBecomes n v (advance s h.time) w) :
    ∃ t, exec c s = .next t ∧ getTenant t n = v ∧ (∀ k, k ≠ n → getTenant t k = getTenant s k) ∧
      Answered s t h stSuccess r [] := by
  obtain ⟨t, ht', ho, hans⟩ := answersVf he ha ht hi hb hw
  obtain ⟨hsame, hothers⟩ := hbecomes.then_serving (ho .serving (by decide))
  exact ⟨t, ht', hsame, hothers, hans⟩

theorem tenantRegister_fills {h : Hdr} {n rate depth : Nat} {s : State} (ha : AcceptedVf s h opTenantRegister)
    (ht : OnTime s h) (hlo : 1 ≤ n) (hhi : n ≤ 0xFFFF) (hdepth : 1 ≤ depth) (hnew : (getTenant s n).registered = false)
    (hroom : (s.serving.tenants.filter (fun kv => kv.2.registered)).length < 4096) :
    ∃ t, exec (.tenantRegister h n rate depth) s = .next t ∧
      getTenant t n =
        { registered := true, partition := h.func - 1, level := (depth * 256 : Nat), levelAt := max s.now h.time,
          rate := rate, depth := depth } ∧
      (∀ k, k ≠ n → getTenant t k = getTenant s k) ∧ Answered s t h stSuccess 0 [] := by
  refine answersTenant rfl ha ht ?_ (w := putTenant (advance s h.time) n _) ?_ rfl (putTenant_becomes (advance s h.time) n _)
  · simp; omega
  · simp only [getTenant_advance, hnew, advance_serving, Bool.false_eq_true, if_false]
    exact if_neg (Nat.not_le.mpr hroom)

/-- The reservoir of RESERVOIR_SET: refilled, then the chosen fields, the level within the depth. -/
def reservoirSet (now : Nat) (r d w : Bool) (rate depth weight : Nat) (t : Tenant) : Tenant :=
  { refill now t with
    rate := if r then rate else t.rate, depth := if d then depth else t.depth, weight := if w then weight else t.weight,
    level := min ((if d then depth else t.depth) * 256 : Nat) (refill now t).level }

theorem reservoirSet_sets {h : Hdr} {n : Nat} {r d w : Bool} {rate depth weight : Nat} {s : State}
    (ha : AcceptedVf s h opReservoirSet) (ht : OnTime s h) (hn : n ≤ 0xFFFF) (hd : d = true → 1 ≤ depth)
    (hw : w = true → weight ≤ 255) (hmine : myTenant s h n = true) :
    ∃ t, exec (.reservoirSet h n r d w rate depth weight) s = .next t ∧
      getTenant t n = reservoirSet (max s.now h.time) r d w rate depth weight (getTenant s n) ∧
      (∀ k, k ≠ n → getTenant t k = getTenant s k) ∧ Answered s t h stSuccess (signedField 64
        (reservoirSet (max s.now h.time) r d w rate depth weight (getTenant s n)).level) [] := by
  refine answersTenant rfl ha ht ?_ (w := putTenant (advance s h.time) n _) ?_ rfl (putTenant_becomes (advance s h.time) n _)
  · cases d <;> cases w <;> simp_all <;> omega
  · have hmine' : myTenant (advance s h.time) h n = true := hmine
    rw [hmine', if_neg (by decide)]
    rfl

/-- With no adapter versions and no lines, there is nothing to release but the record of the versions. -/
theorem releaseAdapters_of_none {s : State} {n : Nat} (hversions : (getTenant s n).versions = []) (hlines : s.images.lines = []) :
    releaseAdapters s n = putTenant s n { getTenant s n with versions := [], current := none } := by
  unfold releaseAdapters releaseStore
  simp only [hlines, List.filter_nil, List.map_nil, List.foldl_nil, hversions, List.isEmpty_nil, if_true]

theorem tenantDeregister_empties {h : Hdr} {n : Nat} {s : State} (ha : AcceptedVf s h opTenantDeregister) (ht : OnTime s h)
    (hn : n ≤ 0xFFFF) (hmine : myTenant s h n = true) (hbusy : tenantBusy s n = false)
    (hversions : (getTenant s n).versions = []) (hlines : s.images.lines = []) (hclear : tenantClearing s n = false) :
    ∃ t, exec (.tenantDeregister h n) s = .next t ∧ getTenant t n = {} ∧
      (∀ k, k ≠ n → getTenant t k = getTenant s k) ∧ Answered s t h stSuccess 0 [] := by
  have hbecomes := (putTenant_becomes (advance s h.time) n
    { getTenant (advance s h.time) n with versions := [], current := none }).trans (putTenant_becomes _ n {})
  refine answersTenant rfl ha ht ?_ (w := putTenant (putTenant (advance s h.time) n _) n {}) ?_ rfl hbecomes
  · simpa using hn
  · have hmine' : myTenant (advance s h.time) h n = true := hmine
    have hbusy' : tenantBusy (advance s h.time) n = false := hbusy
    simp only [hmine', hbusy', Bool.true_eq_false, Bool.false_eq_true, if_false]
    rw [releaseAdapters_of_none (s := advance s h.time) hversions hlines]
    exact if_neg (Bool.eq_false_iff.mp hclear)

/-- Settles O13: each command writes the tenant's own record, and is answered. -/
theorem tenantsAndReservoirs : Obligations.TenantsAndReservoirs := by
  unfold Obligations.TenantsAndReservoirs
  refine ⟨fun h n rate depth s ha ht hlo hhi hdepth hnew hroom => tenantRegister_fills ha ht hlo hhi hdepth hnew hroom,
    fun h n r d w rate depth weight s ha ht hn hd hw hmine => ?_,
    fun h n s ha ht hn hmine hbusy hversions hlines hclear =>
      tenantDeregister_empties ha ht hn hmine hbusy hversions hlines hclear⟩
  obtain ⟨t, he, htenant, hothers, hans⟩ :=
    reservoirSet_sets (r := r) (rate := rate) ha ht hn hd hw hmine
  exact ⟨t, he, by rw [htenant]; rfl, by rw [htenant]; rfl, by rw [htenant]; rfl, by rw [htenant]; rfl, hothers,
    by rw [htenant]; exact hans⟩

end Sys2Proof.Proofs

namespace Sys2Proof.Proofs

open Sys2Proof Sys2Proof.Machine Sys2Proof.Laws

/-! ## Attestation, publishers, the log and the certificates (R340, R354 to R357) -/

theorem setTrust_only (s : State) (v : Trust) : Only [.trust] s { s with trust := v } := fun p hp => by
  cases p with
  | trust => exact absurd (List.mem_singleton_self _) hp
  | _ => rfl

theorem attest_reports {h : Hdr} (nonce : BitVec 256) {s : State} (ha : Accepted s h opAttest) (ht : OnTime s h)
    (hsealed : s.trust.isUnsealed = false) :
    ∃ t, exec (.attest h nonce) s = .next t ∧ t.trust = s.trust ∧
      Answered s t h stSuccess 39120 (fitEntries 39120 h.dataLen
        (attestBody (advance s h.time) h.func nonce ++ (keyBytes 4 s.free 384 ++ keyBytes 5 s.free 35664))) := by
  obtain ⟨t, he, ho, hans⟩ := answers (c := .attest h nonce) (v := drewFree (advance s h.time)) rfl ha ht rfl
    (if_neg (Bool.eq_false_iff.mp hsealed)) rfl
  exact ⟨t, he, ho .trust (by decide), hans⟩

/-- The publishers' list as a command leaves it. -/
def publishersSet (s : State) (l : List (Nat × Digest)) : State := { s with nvm := { s.nvm with publishers := l } }

theorem publisherRegister_adds {h : Hdr} {p : Nat} {d : Digest} {s : State} (ha : Accepted s h opPublisherRegister)
    (ht : OnTime s h) (hp : p < 2 ^ 32) (hnew : s.nvm.publishers.any (fun q => q.1 == p) = false)
    (hroom : s.nvm.publishers.length < 64) :
    ∃ t, exec (.publisherRegister h p d) s = .next t ∧
      t.nvm = { s.nvm with publishers := s.nvm.publishers ++ [(p, d)] } ∧ t.trust = (extend s 6 7 p 0 d).trust ∧
      Answered s t h stSuccess 0 [] := by
  obtain ⟨t, he, ho, hans⟩ := answers (c := .publisherRegister h p d)
    (v := extend (publishersSet (advance s h.time) (s.nvm.publishers ++ [(p, d)])) 6 7 p 0 d) rfl ha ht
    (decide_eq_false (Nat.not_le.mpr hp))
    ((if_neg (Bool.eq_false_iff.mp hnew)).trans (if_neg (Nat.not_le.mpr hroom))) rfl
  exact ⟨t, he, ho .nvm (by decide), ho .trust (by decide), hans⟩

theorem publisherRevoke_removes {h : Hdr} {p : Nat} {x : Nat × Digest} {s : State} (ha : Accepted s h opPublisherRevoke)
    (ht : OnTime s h) (hfind : s.nvm.publishers.find? (fun q => q.1 == p) = some x) (hslotA : carries s.images.a p = false)
    (hslotB : carries s.images.b p = false) :
    ∃ t, exec (.publisherRevoke h p) s = .next t ∧
      t.nvm = { s.nvm with publishers := s.nvm.publishers.filter (fun q => q.1 != p) } ∧
      t.trust = (extend s 6 8 p 0 x.2).trust ∧ Answered s t h stSuccess 0 [] := by
  obtain ⟨t, he, ho, hans⟩ := answers (c := .publisherRevoke h p)
    (v := extend (publishersSet (advance s h.time) (s.nvm.publishers.filter (fun q => q.1 != p))) 6 8 p 0 x.2) rfl ha ht rfl
    (by simp only [advance_nvm, advance_images, hfind, hslotA, hslotB, Bool.or_self, Bool.false_eq_true, if_false]; rfl) rfl
  exact ⟨t, he, ho .nvm (by decide), ho .trust (by decide), hans⟩

theorem measurementLogRead_answers {h : Hdr} {s : State} (ha : Accepted s h opMeasurementLogRead) (ht : OnTime s h) :
    ∃ t, exec (.measurementLogRead h) s = .next t ∧ t.trust = s.trust ∧
      Answered s t h stSuccess (64 * s.trust.log.length) (fitEntries 64 h.dataLen (s.trust.log.flatMap logBytes)) := by
  obtain ⟨t, he, ho, hans⟩ := answers (c := .measurementLogRead h) (v := advance s h.time) rfl ha ht rfl rfl rfl
  exact ⟨t, he, ho .trust (by decide), hans⟩

theorem certRead_answers {h : Hdr} {key : Nat} {s : State} (ha : Accepted s h opCertRead) (ht : OnTime s h) (hkey : key ≤ 1)
    (hsealed : s.trust.isUnsealed = false) (hstage : s.trust.stageOne = false) :
    ∃ t, exec (.certRead h key) s = .next t ∧ t.trust = s.trust ∧
      Answered s t h stSuccess (chainBytes s key).length
        (fitEntries (chainBytes s key).length h.dataLen (chainBytes s key)) := by
  obtain ⟨t, he, ho, hans⟩ := answers (c := .certRead h key) (v := advance s h.time) (st := stSuccess)
    (r := (chainBytes s key).length) (d := fitEntries (chainBytes s key).length h.dataLen (chainBytes s key)) rfl ha ht
    (decide_eq_false (Nat.not_lt.mpr hkey))
    (by simp only [advance_trust, hsealed, hstage, Bool.false_and, Bool.false_eq_true, if_false]; rfl) rfl
  exact ⟨t, he, ho .trust (by decide), hans⟩

/-- Settles O29: each command's effect and its answer. -/
theorem attestationAndPublishers : Obligations.AttestationAndPublishers := by
  unfold Obligations.AttestationAndPublishers
  exact ⟨fun _ nonce _ ha ht hsealed => attest_reports nonce ha ht hsealed,
    fun _ _ _ _ ha ht hp hnew hroom => publisherRegister_adds ha ht hp hnew hroom,
    fun _ _ _ _ ha ht hfind hslotA hslotB => publisherRevoke_removes ha ht hfind hslotA hslotB,
    fun _ _ ha ht => measurementLogRead_answers ha ht,
    fun _ _ _ ha ht hkey hsealed hstage => certRead_answers ha ht hkey hsealed hstage⟩

end Sys2Proof.Proofs

namespace Sys2Proof.Proofs

open Sys2Proof Sys2Proof.Machine Sys2Proof.Laws

/-! ## A break of the seal, and a history that lies in a Sealed page

SEAL_BREAK clears the pages of the Sealed partitions before it zeroes the wrapped slots. The turns that hold a wrapped slot end then, a
token that is due goes out first, and with it the turn's pending input enters the session's history. The statement asks nothing of the
session's extents, so an extent may name units past the history region, in a Sealed page that has been cleared already. -/

/-- The turn of a session that is not Sealed, on slot A: its token 7 is due, and goes out before the turn ends. -/
def strayTurn : Turn :=
  { ops := { session := 0, tenant := 0, maxTokens := 1, prompt := .plain [] }, func := 1, qp := 0, timed := false, phase := .decode,
    epoch := 0, slot := 0, adapterEpoch := 0, lateStop := false, input := 7, sampled := 1, due := [.token 7 false] }

/-- The wrapped image in slot A. -/
def wrappedHead : FolioHead :=
  { flags := 1, chunkCount := 0, treeNodes := 0, chunkBase := 0, publisher := 0, colPublisher := 0, sourceBytes := 0 }

/-- The mesh is armed, page 16 is Sealed, and the one extent of session 0 names the units of page 16. -/
def strayExtentState : State :=
  { board := { phase := .serving, railsUp := true }
    trust := { meshArmed := true }
    images := { a := { state := .active, head := some wrappedHead } }
    serving := { sessions := [(0, { state := .turn, extents := [192937984], turn := some strayTurn })] }
    mailbox := { queues := [(8, { active := true, enable := true, tsLog2 := 4 })] }
    vellum := { pages := [(16, { isSealed := true })] } }

/-- After the break the first byte of the Sealed page is the input token's. -/
theorem strayExtent_writes_sealedPage :
    mget (nextOf (exec (.sealBreak 0) strayExtentState) strayExtentState).vellum.mem (pageBase 16) = 7#8 := by
  decide +kernel

/-- Refutes O30: in `strayExtentState` SEAL_BREAK leaves a byte of a Sealed page that is not zero. The statement would have to ask that
the extents of every session lie in the history region. -/
theorem not_keysAndTheSeal : ¬ Obligations.KeysAndTheSeal := by
  unfold Obligations.KeysAndTheSeal
  rintro ⟨-, -, -, -, hbreak⟩
  obtain ⟨t, ht, -, -, -, -, -, -, hzero⟩ := hbreak 0 strayExtentState (by decide) rfl rfl
  obtain rfl : nextOf (exec (.sealBreak 0) strayExtentState) strayExtentState = t := by rw [ht]; rfl
  have hbyte := hzero (16, { isSealed := true }) (List.mem_singleton.mpr rfl) rfl (pageBase 16) le_rfl (Nat.lt_add_of_pos_right (by decide))
  rw [strayExtent_writes_sealedPage] at hbyte
  exact absurd hbyte (by decide)

end Sys2Proof.Proofs

namespace Sys2Proof.Proofs

open Sys2Proof Sys2Proof.Machine Sys2Proof.Laws

/-! ## Die currents, LDO segments, ceilings and droops -/

theorem setPower_only (s : State) (v : Power) : Only [.power] s { s with power := v } := fun p hp => by
  cases p with
  | power => exact absurd (List.mem_singleton_self _) hp
  | _ => rfl

/-- Above its limit a die skips one more eighth, where it skips none or the last change is 10 µs old (R377). -/
theorem dieCurrentCheck_skips_more {s : State} {time d amps : Nat} (hd : d < 40) (hrun : governorRuns s = true)
    (hover : dieLimit s d < amps) (hfree : tget 0 s.power.dieSkip d = 0 ∨ tget 0 s.power.dieChanged d + 10000 ≤ max s.now time) :
    exec (.dieCurrentCheck time d amps) s = .next { advance s time with
      power := { s.power with
        dieSkip := tput 0 s.power.dieSkip d (min 7 (tget 0 s.power.dieSkip d + 1))
        dieChanged := tput 0 s.power.dieChanged d (max s.now time)
        dieQuiet := tput 0 s.power.dieQuiet d 0 } } := by
  refine congrArg Host.Outcome.next ((if_pos ⟨hd, hrun⟩).trans ?_)
  exact (if_pos (show dieLimit (advance s time) d < amps from hover)).trans (if_pos hfree)

theorem retireSoon_nvm (s : State) (u : Nat) (fence : Bool) : (retireSoon s u fence).nvm = s.nvm :=
  (retireSoon_held (held_self [.link, .mailbox, .serving, .images, .vellum, .fabric, .power, .blotter, .mgmt, .trust, .map] s)
    (by rfl)).only .nvm (by decide)

theorem fenceCluster_nvm (s : State) (u cause : Nat) : (fenceCluster s u cause).nvm = s.nvm :=
  (fenceCluster_held (held_self [.link, .mailbox, .serving, .images, .vellum, .fabric, .power, .blotter, .mgmt, .trust, .map] s)
    (by rfl)).only .nvm (by decide)

/-- A failed segment is counted, and what its loss does to the cluster keeps the count. -/
theorem ldoSegmentFail_counts {s : State} {time u : Nat} (hu : isCluster u = true) (hrun : governorRuns s = true)
    (hlit : (getIsland s u).dark = false) :
    ∃ t, exec (.ldoSegmentFail time u) s = .next t ∧
      t.nvm.segments = tput 0 s.nvm.segments u (tget 0 s.nvm.segments u + 1) ∧
      (2 ≤ tget 0 s.nvm.segments u → (getIsland t u).dark = true) := by
  let n := tget 0 s.nvm.segments u + 1
  let counted : State := { advance s time with nvm := { s.nvm with segments := tput 0 s.nvm.segments u n } }
  let noted := mapChanged (note counted 0x0303 (if 3 ≤ n then 4 else 2) u 0 n)
  have hnoted : noted.nvm = counted.nvm := note_only _ _ _ _ _ _ .nvm (by decide)
  have hexec : exec (.ldoSegmentFail time u) s = .next (if n = 2 then retireSoon noted u false
      else if 3 ≤ n then putIsland (fenceCluster noted u (lastIndex noted)) u
        { getIsland (fenceCluster noted u (lastIndex noted)) u with dark := true, enableSince := none, enabledSegments := 0 }
      else noted) := by
    change execLdoSegmentFail time u s = _
    unfold execLdoSegmentFail
    exact congrArg _ (if_pos (by rw [hu, show governorRuns (advance s time) = true from hrun,
      show (getIsland (advance s time) u).dark = false from hlit]; rfl))
  refine ⟨_, hexec, ?_, fun hthird => ?_⟩
  · split_ifs
    · rw [retireSoon_nvm, hnoted]
    · rw [putIsland_nvm, fenceCluster_nvm, hnoted]
    · rw [hnoted]
  · rw [if_neg (by omega), if_pos (by omega), getIsland_putIsland]

/-- A need above the fused voltage lowers the cluster's ceiling by one bin (R381). -/
theorem ceilingCheck_lowers {s : State} {time u code : Nat} (hu : isCluster u = true) (hrun : governorRuns s = true)
    (hneed : Config.fusedVoltage u (tget 0 s.nvm.ceilings u) < code) (hbin : tget 0 s.nvm.ceilings u < 5) :
    ∃ t, exec (.ceilingCheck time u code) s = .next t ∧
      t.nvm.ceilings = tput 0 s.nvm.ceilings u (tget 0 s.nvm.ceilings u + 1) := by
  let c := tget 0 s.nvm.ceilings u
  let lowered : State := { advance s time with nvm := { s.nvm with ceilings := tput 0 s.nvm.ceilings u (c + 1) } }
  let noted := mapChanged (note lowered 0x0304 2 u 0 (c + 1))
  have hnoted : noted.nvm = lowered.nvm := note_only _ _ _ _ _ _ .nvm (by decide)
  have hexec : exec (.ceilingCheck time u code) s = .next (if c + 1 = 2 then retireSoon noted u true else noted) := by
    change execCeilingCheck time u code s = _
    unfold execCeilingCheck
    exact congrArg _ (if_pos (by rw [hu, show governorRuns (advance s time) = true from hrun]; simp [hneed, hbin]))
  refine ⟨_, hexec, ?_⟩
  split_ifs
  · rw [retireSoon_nvm, hnoted]
  · rw [hnoted]

/-- The islands of a state are kept when its fabric is. -/
theorem getIsland_of_fabric {s t : State} (h : t.fabric = s.fabric) (u : Nat) : getIsland t u = getIsland s u := by
  unfold getIsland
  rw [h]

/-- A report of a droop leaves the clock skipping, or on a second one within 1 s at the lower bin (R382). -/
theorem droopReport_throttles {s : State} {time u : Nat} (hu : isCluster u = true) (hrun : governorRuns s = true)
    (hdue : (getIsland s u).droopDue = true) :
    ∃ t, exec (.droopReport time u) s = .next t ∧
      getIsland t u =
        let recent := (getIsland s u).droops.filter (fun x => decide (max s.now time < x + 3600000000000))
        let again := recent.any (fun x => decide (max s.now time ≤ x + 1000000000))
        { getIsland s u with droopDue := false, droops := recent ++ [max s.now time], droopSkip := !again, droopBin := again } := by
  refine ⟨_, congrArg Host.Outcome.next (if_pos (by
    rw [hu, show governorRuns (advance s time) = true from hrun, show (getIsland (advance s time) u).droopDue = true from hdue]; rfl)), ?_⟩
  dsimp only
  split
  · rw [getIsland_of_fabric (note_fabric _ _ _ _ _ _), getIsland_putIsland]
    rfl
  · rw [getIsland_putIsland]
    rfl

theorem droopTrip_stretches {s : State} {u cycles : Nat} (hu : isCluster u = true) :
    ∃ t, exec (.droopTrip u cycles) s = .next t ∧
      getIsland t u =
        { getIsland s u with
          net := { (getIsland s u).net with droopStretches := sat 32 ((getIsland s u).net.droopStretches + 1) },
          droopDue := (getIsland s u).droopDue || decide (64 < cycles) } ∧
      (∀ v, v ≠ u → getIsland t v = getIsland s v) ∧ Only [.fabric] s t := by
  refine ⟨_, congrArg Host.Outcome.next (if_pos hu), ?_, fun v hv => ?_,
    Only.trans (putIsland_only s _ _) (putIsland_only _ _ _)⟩
  · rw [getIsland_putIsland, getIsland_modNet]
  · rw [getIsland_putIsland_ne _ _ hv, getIsland_modNet_ne _ _ hv]

theorem droopThrottleEnd_ends {s : State} {time u x : Nat} (hlast : (getIsland s u).droops.getLast? = some x)
    (hspan : x + (if (getIsland s u).droopBin then 100000000 else 1000000) ≤ max s.now time) :
    exec (.droopThrottleEnd time u) s =
      .next (putIsland (advance s time) u { getIsland s u with droopSkip := false, droopBin := false }) := by
  change execDroopThrottleEnd time u s = _
  unfold execDroopThrottleEnd
  simp only [show (getIsland (advance s time) u).droops.getLast? = some x from hlast]
  exact congrArg Host.Outcome.next (if_pos hspan)

/-- Settles O25: each event's row is one branch, and the reports that it makes touch neither the counts nor the islands. -/
theorem dieLimitsSegmentsAndDroops : Obligations.DieLimitsSegmentsAndDroops := by
  unfold Obligations.DieLimitsSegmentsAndDroops
  refine ⟨fun time d amps s hd hrun hover hfree => ⟨_, dieCurrentCheck_skips_more hd hrun hover hfree, ?_⟩,
    fun time u s hu hrun hlit => ?_, fun time u code s hu hrun hneed hbin => ?_, fun u cycles s hu => droopTrip_stretches hu,
    fun time u s hu hrun hdue => ?_, fun time u x s hlast hspan => ⟨_, droopThrottleEnd_ends hlast hspan, ?_⟩⟩
  · exact ⟨tget_tput_same _ _ _ _, tget_tput_same _ _ _ _, fun e he => tget_tput_ne _ _ _ he,
      only_append (advance_only s time) (setPower_only _ _)⟩
  · obtain ⟨t, ht, hcount, hdark⟩ := ldoSegmentFail_counts (time := time) hu hrun hlit
    refine ⟨t, ht, ?_, hdark, fun v hv => ?_⟩
    · rw [hcount, tget_tput_same]
    · rw [hcount, tget_tput_ne _ _ _ hv]
  · obtain ⟨t, ht, hlower⟩ := ceilingCheck_lowers (time := time) hu hrun hneed hbin
    refine ⟨t, ht, ?_, fun v hv => ?_⟩
    · rw [hlower, tget_tput_same]
    · rw [hlower, tget_tput_ne _ _ _ hv]
  · obtain ⟨t, ht, hisland⟩ := droopReport_throttles (time := time) hu hrun hdue
    refine ⟨t, ht, ?_⟩
    rw [hisland]
    refine ⟨rfl, ?_, rfl, rfl⟩
    simp [and_assoc]
  · exact ⟨getIsland_putIsland _ _ _, only_append (advance_only s time) (putIsland_only _ _ _)⟩

end Sys2Proof.Proofs

namespace Sys2Proof.Proofs

open Sys2Proof Sys2Proof.Machine Sys2Proof.Laws

/-! ## Inrush (R383) -/

theorem mkUnit_cluster_injective (d : Nat) : Function.Injective (fun c => mkUnit d c 0) := by
  intro a b hab
  have hsum : d * 1024 + a * 16 + 0 = d * 1024 + b * 16 + 0 := hab
  omega

theorem waitingClusters_nodup (s : State) (d : Nat) : (waitingClusters s d).Nodup :=
  (List.nodup_range.map (mkUnit_cluster_injective d)).filter _

theorem getIsland_enableSegment_ne (s : State) {u v : Nat} (h : v ≠ u) : getIsland (enableSegment s u) v = getIsland s v := by
  unfold enableSegment
  dsimp only
  split
  · exact getIsland_putIsland_ne _ _ h
  · exact getIsland_putIsland_ne _ _ h

/-- One more segment of the cluster is on; with the last good one it waits no more and is not parked. -/
theorem enableSegment_enables (s : State) (u : Nat) :
    (getIsland (enableSegment s u) u).enabledSegments = (getIsland s u).enabledSegments + 1 ∧
      (8 - tget 0 s.nvm.segments u ≤ (getIsland s u).enabledSegments + 1 →
        (getIsland (enableSegment s u) u).enableSince = none ∧ (getIsland (enableSegment s u) u).parked = false) := by
  unfold enableSegment
  dsimp only
  split
  · next hlast =>
    rw [getIsland_putIsland]
    exact ⟨rfl, fun _ => ⟨rfl, rfl⟩⟩
  · next hmore =>
    rw [getIsland_putIsland]
    exact ⟨rfl, fun hlast => absurd hlast hmore⟩

/-- The clusters that are not on the list of those that wait keep their segments. -/
theorem getIsland_admitEnables_notMem {lim u : Nat} {l : List Nat} (h : u ∉ l) (amps : Nat) (s : State) :
    getIsland (admitEnables lim l amps s) u = getIsland s u := by
  induction l generalizing amps s with
  | nil => rfl
  | cons v l ih =>
    obtain ⟨hv, hl⟩ := not_or.mp (fun hmem => h (List.mem_cons.mpr hmem))
    unfold admitEnables
    split
    · rw [ih hl, getIsland_enableSegment_ne s hv]
    · rfl

theorem endInrushSkip_fabric (s : State) (d : Nat) : (endInrushSkip s d).fabric = s.fabric :=
  (endInrushSkip_held (held_self [.power] s) (by rfl)).only .fabric (by decide)

/-- The first cluster that waits is admitted alone: the slot's list names it once. -/
theorem inrushSlot_enables {s : State} {time d amps u : Nat} {rest : List Nat} (hwait : waitingClusters s d = u :: rest)
    (hroom : amps + 8 ≤ dieLimit s d) :
    ∃ t, exec (.inrushSlot time d amps) s = .next t ∧ getIsland t u = getIsland (enableSegment (advance s time) u) u := by
  have hexec : exec (.inrushSlot time d amps) s =
      .next (endInrushSkip (admitEnables (dieLimit s d) (waitingClusters s d) amps (advance s time)) d) := rfl
  have hnodup := waitingClusters_nodup s d
  rw [hwait] at hexec hnodup
  refine ⟨_, hexec, ?_⟩
  rw [getIsland_of_fabric (endInrushSkip_fabric _ _), admitEnables, if_pos hroom]
  exact getIsland_admitEnables_notMem (List.nodup_cons.mp hnodup).1 _ _

theorem inrushSlot_only {s t : State} {time d amps : Nat} (ht : exec (.inrushSlot time d amps) s = .next t) :
    Only [.now, .fabric, .power] s t :=
  only_of_outHeld (execInrushSlot_held (held_self [.now, .fabric, .power] s) (by rfl)) ht

/-- An enable that has waited 200 µs makes its die skip. -/
theorem inrushWaitExpiry_skips {s : State} {time d u x : Nat} (hu : u ∈ waitingClusters s d)
    (hx : (getIsland s u).enableSince = some x) (hold : x + 200000 ≤ max s.now time) (hnew : s.power.inrushSkip.contains d = false) :
    exec (.inrushWaitExpiry time d) s =
      .next { advance s time with power := { s.power with inrushSkip := s.power.inrushSkip ++ [d] } } := by
  refine congrArg Host.Outcome.next (if_pos ?_)
  have hany : ((waitingClusters (advance s time) d).any (fun u => match (getIsland (advance s time) u).enableSince with
      | some x => decide (x + 200000 ≤ (advance s time).now)
      | none => false)) = true := by
    refine List.any_eq_true.mpr ⟨u, hu, ?_⟩
    rw [show (getIsland (advance s time) u).enableSince = some x from hx]
    exact decide_eq_true hold
  rw [advance_power, hnew, Bool.not_false, Bool.and_true]
  exact hany

/-! ## The allowance and the power states (R384 to R392) -/

/-- Of the governor's registers, CAP_UNREACHABLE alone follows the judgement. -/
theorem judgeReach_power (s : State) : ∃ b, (judgeReach s).power = { s.power with unreachable := b } := by
  have hwarn : ∀ (v : State) (c u : Nat), (warn v c u).power = v.power := fun v c u =>
    (warn_held (held_self [.board, .link, .mailbox, .blotter] v) (by rfl)).only .power (by decide)
  have hnote : ∀ (v : State) (a b c d e : Nat), (note v a b c d e).power = v.power := fun v a b c d e =>
    note_only v a b c d e .power (by decide)
  unfold judgeReach
  dsimp only
  generalize (if isDeep s.power.state then deepPower s else pMin s) = p
  split
  · split
    · exact ⟨s.power.unreachable, rfl⟩
    · exact ⟨true, by rw [hnote, hwarn]⟩
  · split
    · exact ⟨false, rfl⟩
    · exact ⟨s.power.unreachable, rfl⟩

theorem rampAllowance_power (s : State) :
    (rampAllowance s).power =
      { s.power with allowance := (rampAllowance s).power.allowance, rampedAt := (rampAllowance s).power.rampedAt } := rfl

theorem dropAllowance_power (s : State) (before : Nat) :
    (dropAllowance s before).power = { s.power with allowance := (dropAllowance s before).power.allowance } := by
  unfold dropAllowance
  split <;> rfl

theorem choosePoint_power (s : State) : (choosePoint s).power = { s.power with point := (choosePoint s).power.point } := rfl

theorem allowanceRamp_takes (s : State) (time a b : Nat) :
    ∃ t, exec (.allowanceRamp time a b) s = .next t ∧ t.power.mean1ms = a ∧ t.power.mean10ms = b ∧
      t.power.hostCap = s.power.hostCap ∧ t.power.boundCap = s.power.boundCap := by
  refine ⟨_, rfl, ?_⟩
  dsimp only
  split
  · obtain ⟨reach, hreach⟩ := judgeReach_power _
    rw [hreach, rampAllowance_power]
    exact ⟨rfl, rfl, rfl, rfl⟩
  · exact ⟨rfl, rfl, rfl, rfl⟩

theorem powerStateEntry_times {s : State} {time : Nat} (hidle : isIdle s = true) (hserving : s.board.phase = .serving)
    (hnone : s.power.idleSince = none) :
    exec (.powerStateEntry time) s =
      .next { advance s time with power := { s.power with idleSince := some (max s.now time) } } := by
  have hcond : (isIdle (advance s time) && decide ((advance s time).board.phase = .serving)) = true :=
    (Bool.and_eq_true _ _).mpr ⟨hidle, decide_eq_true hserving⟩
  refine congrArg Host.Outcome.next ((if_pos hcond).trans ?_)
  simp only [advance_power, hnone]
  rfl

theorem powerStateEntry_descends {s : State} {time x : Nat} (hidle : isIdle s = true) (hserving : s.board.phase = .serving)
    (hsome : s.power.idleSince = some x) (hdeep : powerCode s.power.state < powerCode s.power.selected)
    (hstill : s.power.descending = false) (hlong : x + max 100000 (10 * wakeBound s.power.selected) ≤ max s.now time) :
    exec (.powerStateEntry time) s =
      .next { advance s time with power := { s.power with descending := true, moved := 0 } } := by
  have hcond : (isIdle (advance s time) && decide ((advance s time).board.phase = .serving)) = true :=
    (Bool.and_eq_true _ _).mpr ⟨hidle, decide_eq_true hserving⟩
  refine congrArg Host.Outcome.next ((if_pos hcond).trans ?_)
  simp only [advance_power, hsome]
  exact if_pos ⟨hdeep, hstill, hlong⟩

/-- The units that a descent moves are no part of the governor. -/
theorem moveUnit_power (s : State) (p : PowerState) (i : Nat) : (moveUnit s p i).power = s.power :=
  (moveUnit_held (held_self [.vellum, .fabric] s) (by rfl)).only .power (by decide)

theorem clearFabric_power (s : State) : (clearFabric s).power = s.power :=
  (clearFabric_held (held_self [.images, .vellum, .fabric] s) (by rfl)).only .power (by decide)

theorem wrapStore_power (s : State) : (wrapStore s).power = s.power := rfl

theorem dropSramClears_power (s : State) : (dropSramClears s).power = s.power := rfl

/-- A reached state is shown, and its descent goes on until it is the selected one. -/
theorem reachState_power (s : State) (p : PowerState) :
    (reachState s p).power.state = p ∧ (reachState s p).power.moved = 0 ∧
      (reachState s p).power.descending = decide (p ≠ s.power.selected) := by
  unfold reachState
  dsimp only
  obtain ⟨reach, hreach⟩ := judgeReach_power _
  rw [hreach, dropAllowance_power]
  refine ⟨rfl, rfl, ?_⟩
  split_ifs
  all_goals simp only [dropSramClears_power, clearFabric_power, wrapStore_power]

theorem descentMove_moves {s : State} {time : Nat} (hdown : s.power.descending = true) (hidle : isIdle s = true)
    (hdeep : powerCode s.power.state < powerCode s.power.selected) :
    ∃ t, exec (.powerStateDescentMove time) s = .next t ∧
      (if unitsOf (deeper s.power.state) ≤ s.power.moved + 1 then
        t.power.state = deeper s.power.state ∧ t.power.moved = 0 ∧
          (t.power.descending = true ↔ deeper s.power.state ≠ s.power.selected)
       else t.power = { s.power with moved := s.power.moved + 1 }) := by
  have hmoved := moveUnit_power (advance s time) (deeper s.power.state) s.power.moved
  have hcond : ((advance s time).power.descending && isIdle (advance s time)) = true :=
    (Bool.and_eq_true _ _).mpr ⟨hdown, hidle⟩
  refine ⟨_, congrArg Host.Outcome.next ((if_neg (Nat.not_le.mpr hdeep)).trans (if_pos hcond)), ?_⟩
  simp only [advance_power, hmoved]
  by_cases hlast : unitsOf (deeper s.power.state) ≤ s.power.moved + 1
  · rw [if_pos hlast, if_pos hlast]
    obtain ⟨hstate, hzero, hmore⟩ := reachState_power (moveUnit (advance s time) (deeper s.power.state) s.power.moved) (deeper s.power.state)
    rw [hmoved] at hmore
    refine ⟨hstate, hzero, ?_⟩
    rw [hmore]
    exact decide_eq_true_iff
  · rw [if_neg hlast, if_neg hlast]

/-! ## The wake (R390, R392, R393) -/

/-- The module is ACTIVE, and no descent is under way. -/
def Awake (s : State) : Prop := s.power.state = .active ∧ s.power.descending = false ∧ s.power.moved = 0

theorem Awake.of_power {s t : State} (hs : Awake s) (h : t.power = s.power) : Awake t := by
  unfold Awake
  rw [h]
  exact hs

/-- The clocks of a live slot's good clusters start again. -/
def startClocks (s : State) (n : Nat) : State :=
  match (getSlot s n).body with
  | some b => if slotLive (getSlot s n) then
      b.clusters.foldl (fun s p => if clusterGood s p.unit && !(getIsland s p.unit).parked then
        putIsland s p.unit { getIsland s p.unit with running := true } else s) s
    else s
  | none => s

theorem startClocks_power (s : State) (n : Nat) : (startClocks s n).power = s.power := by
  unfold startClocks
  split
  · split
    · exact foldl_view State.power (fun s p => by split <;> rfl) _ s
    · rfl
  · rfl

theorem reloadSlots_power (s : State) : (reloadSlots s).power = s.power :=
  (reloadSlots_held (held_self [.serving, .images, .fabric] s) (by rfl)).only .power (by decide)

theorem inrushAll_power (s : State) : (inrushAll s).power = s.power :=
  (inrushAll_held (held_self [.fabric] s) (by rfl)).only .power (by decide)

/-- A wake from the state of code `c` ends the refresh of the sites and shows ACTIVE. -/
def wokenUp (c : Nat) (s : State) : State :=
  let sites := tmap {} (fun _ v => ({ v with selfRefresh := false, controllerOff := false } : Site)) s.vellum.sites
  let s := { s with vellum := { s.vellum with sites := sites } }
  let s := if 4 ≤ c then restoreStore s else s
  { s with power := { s.power with state := .active, descending := false, moved := 0, idleSince := none } }

theorem wokenUp_awake (c : Nat) (s : State) : Awake (wokenUp c s) := ⟨rfl, rfl, rfl⟩

/-- What a wake from the state of code `c` brings up, once the module is ACTIVE. -/
def bringUp (c : Nat) (s : State) : State :=
  let s := if 4 ≤ c then reloadSlots (dropSramClears (clearFabric s)) else if 2 ≤ c then startClocks (startClocks s 0) 1 else s
  if 3 ≤ c then inrushAll s else s

theorem bringUp_power (c : Nat) (s : State) : (bringUp c s).power = s.power := by
  unfold bringUp
  split_ifs
  all_goals simp only [inrushAll_power, reloadSlots_power, dropSramClears_power, clearFabric_power, startClocks_power]

theorem bringUp_awake (c : Nat) {s : State} (h : Awake s) : Awake (bringUp c s) := h.of_power (bringUp_power c s)

theorem wakeStep_awake {s : State} (h : Awake s) : Awake (wakeStep s) := h

theorem judgeReach_awake {s : State} (h : Awake s) : Awake (judgeReach s) := by
  obtain ⟨reach, hreach⟩ := judgeReach_power s
  unfold Awake
  rw [hreach]
  exact h

theorem choosePoint_awake {s : State} (h : Awake s) : Awake (choosePoint s) := h

theorem exec_wake {s : State} {time : Nat} {w : WakeTrigger}
    (hwakes : ¬ ((reached (advance s time) = .active ∧ (advance s time).power.descending = false) ∨
      triggered (advance s time) w = false)) :
    exec (.wake time w) s =
      let c := powerCode (reached (advance s time))
      let up := bringUp c (wokenUp c (advance s time))
      .next (choosePoint (judgeReach (if 2 ≤ c then wakeStep up else up))) :=
  congrArg Host.Outcome.next (if_neg hwakes)

/-- From every state but a still ACTIVE one, a trigger that is present leads to ACTIVE. -/
theorem wake_awakes {s : State} {time : Nat} {w : WakeTrigger} (hdeep : s.power.state ≠ .active ∨ s.power.descending = true)
    (htrigger : triggered s w = true) : ∃ t, exec (.wake time w) s = .next t ∧ Awake t := by
  have hwakes : ¬ ((reached (advance s time) = .active ∧ (advance s time).power.descending = false) ∨
      triggered (advance s time) w = false) := by
    rintro (⟨hactive, hstill⟩ | hfalse)
    · have hstill' : s.power.descending = false := hstill
      have hreached : reached (advance s time) = s.power.state := by simp [reached, hstill']
      exact hdeep.elim (fun h => h (hreached.symm.trans hactive)) (fun h => by simp [hstill'] at h)
    · exact absurd (htrigger.symm.trans hfalse) (by decide)
  have hup := fun c => bringUp_awake c (wokenUp_awake c (advance s time))
  refine ⟨_, exec_wake hwakes, choosePoint_awake (judgeReach_awake ?_)⟩
  split
  · exact wakeStep_awake (hup _)
  · exact hup _

/-! ## The energy counters (R394) -/

/-- What holds of every value that is put into a table holds of the value that a key reads, where the key is among those written or
read such a value before. -/
theorem tget_foldl_tput_of {α β : Type} [DecidableEq α] {d : α} {P : α → Prop} (key : β → Nat) (val : β → α)
    (hval : ∀ x, P (val x)) (l : List β) (acc : Table α) (k : Nat) (h : P (tget d acc k) ∨ ∃ x ∈ l, key x = k) :
    P (tget d (l.foldl (fun acc x => tput d acc (key x) (val x)) acc) k) := by
  induction l generalizing acc with
  | nil => exact h.resolve_right (fun ⟨_, hx, _⟩ => List.not_mem_nil hx)
  | cons y l ih =>
    refine ih _ ?_
    rw [tget_tput]
    by_cases hk : k = key y
    · rw [if_pos hk]
      exact .inl (hval y)
    · rw [if_neg hk]
      refine h.imp_right fun ⟨x, hx, hkey⟩ => ⟨x, ?_, hkey⟩
      exact (List.mem_cons.mp hx).resolve_left fun heq => hk (heq ▸ hkey.symm)

/-- A table holds a key's value, or the key reads the default. -/
theorem tget_default_or_mem {α : Type} (d : α) (t : Table α) (k : Nat) : tget d t k = d ∨ ∃ v, (k, v) ∈ t := by
  induction t with
  | nil => exact .inl rfl
  | cons kv t ih =>
    by_cases hk : kv.1 = k
    · exact .inr ⟨kv.2, hk ▸ List.mem_cons_self⟩
    · refine ih.imp (fun h => ?_) (fun ⟨v, hv⟩ => ⟨v, List.mem_cons_of_mem _ hv⟩)
      exact (if_neg hk).trans h

theorem tget_tmap_of {α : Type} [DecidableEq α] {d : α} {P : α → Prop} (f : Nat → α → α) (hf : ∀ k v, P (f k v)) (hd : P d)
    (t : Table α) (k : Nat) : P (tget d (tmap d f t) k) :=
  tget_foldl_tput_of (fun kv : Nat × α => kv.1) (fun kv => f kv.1 kv.2) (fun kv => hf kv.1 kv.2) t t k
    ((tget_default_or_mem d t k).imp (fun h => by rwa [h]) (fun ⟨v, hv⟩ => ⟨(k, v), hv, rfl⟩))

theorem baseEnergySplit_empties (s : State) (time mj : Nat) :
    ∃ t, exec (.baseEnergySplit time mj) s = .next t ∧ (∀ k, (getTenant t k).energySecond = 0) ∧
      ((∀ kv ∈ s.serving.tenants, kv.2.energySecond = 0) → ∀ p, getPartition t p = getPartition s p) ∧
      Only [.now, .serving] s t := by
  refine ⟨_, rfl, fun k => ?_, fun hnone p => ?_, only_of_outHeld (execBaseEnergySplit_held (held_self [.now, .serving] s) (by rfl)) rfl⟩
  · exact tget_tmap_of (P := fun v : Tenant => v.energySecond = 0) (fun _ v => { v with energySecond := 0 }) (fun _ _ => rfl) rfl _ k
  · have hempty : s.serving.tenants.filter (fun kv => decide (0 < kv.2.energySecond)) = [] :=
      List.filter_eq_nil_iff.mpr fun kv hkv => by simp [hnone kv hkv]
    unfold getPartition
    simp only [advance_serving, hempty, List.foldl_nil]

/-- Settles O26: the rows of inrush, of the allowance, of the descent and the wake, and of the energy of the second. -/
theorem inrushAllowanceStatesEnergy : Obligations.InrushAllowanceStatesEnergy := by
  unfold Obligations.InrushAllowanceStatesEnergy
  refine ⟨fun time d amps u rest s hwait hroom => ?_, fun time d u x s hu hx hold hnew =>
      ⟨_, inrushWaitExpiry_skips hu hx hold hnew, rfl⟩, fun time a b s => allowanceRamp_takes s time a b,
    fun time s hidle hserving => ?_, fun time s hdown hidle hdeep => descentMove_moves hdown hidle hdeep,
    fun time w s hdeep htrigger => wake_awakes hdeep htrigger, fun time mj s => baseEnergySplit_empties s time mj⟩
  · obtain ⟨t, ht, hisland⟩ := inrushSlot_enables (time := time) hwait hroom
    obtain ⟨hcount, hlast⟩ := enableSegment_enables (advance s time) u
    rw [← hisland] at hcount hlast
    exact ⟨t, ht, hcount, hlast, inrushSlot_only ht⟩
  · obtain ⟨t, ht⟩ : ∃ t, exec (.powerStateEntry time) s = .next t := ⟨_, rfl⟩
    refine ⟨t, ht, fun hnone => ?_, fun x hsome hdeep hstill hlong => ?_⟩
    · rw [powerStateEntry_times hidle hserving hnone] at ht
      cases ht
      rfl
    · rw [powerStateEntry_descends hidle hserving hsome hdeep hstill hlong] at ht
      cases ht
      rfl

end Sys2Proof.Proofs

namespace Sys2Proof.Proofs

open Sys2Proof Sys2Proof.Machine Sys2Proof.Laws

/-! ## Tables in canonical form -/

theorem twfFrom_key_le {α : Type} [DecidableEq α] {d : α} {lo : Nat} {t : Table α} (h : twfFrom d lo t = true) :
    ∀ kv ∈ t, lo ≤ kv.1 := by
  induction t generalizing lo with
  | nil => exact fun _ hkv => absurd hkv List.not_mem_nil
  | cons e t ih =>
    obtain ⟨k, v⟩ := e
    simp only [twfFrom, Bool.and_eq_true, decide_eq_true_eq] at h
    obtain ⟨⟨hk, -⟩, ht⟩ := h
    intro kv hkv
    rcases List.mem_cons.mp hkv with rfl | hmem
    · exact hk
    · exact Nat.le_trans hk (Nat.le_of_succ_le (ih ht kv hmem))

theorem twfFrom_nodup {α : Type} [DecidableEq α] {d : α} {lo : Nat} {t : Table α} (h : twfFrom d lo t = true) :
    (t.map (·.1)).Nodup := by
  induction t generalizing lo with
  | nil => exact List.nodup_nil
  | cons e t ih =>
    obtain ⟨k, v⟩ := e
    simp only [twfFrom, Bool.and_eq_true, decide_eq_true_eq] at h
    obtain ⟨-, ht⟩ := h
    refine List.nodup_cons.mpr ⟨fun hmem => ?_, ih ht⟩
    obtain ⟨kv, hkv, hkey⟩ := List.mem_map.mp hmem
    have hkey' : kv.1 = k := hkey
    have hlow := twfFrom_key_le ht kv hkv
    omega

/-- A table in canonical form lists each key once. -/
theorem twf_nodup {α : Type} [DecidableEq α] {d : α} {t : Table α} (h : twf d t = true) : (t.map (·.1)).Nodup := twfFrom_nodup h

/-- An entry of a table that lists each key once is what its key reads. -/
theorem tget_of_mem {α : Type} {d : α} {t : Table α} (hkeys : (t.map (·.1)).Nodup) {kv : Nat × α} (hkv : kv ∈ t) :
    tget d t kv.1 = kv.2 := by
  induction t with
  | nil => exact absurd hkv List.not_mem_nil
  | cons e t ih =>
    obtain ⟨hnew, hrest⟩ := List.nodup_cons.mp hkeys
    rcases List.mem_cons.mp hkv with rfl | hmem
    · exact if_pos rfl
    · have hne : e.1 ≠ kv.1 := fun heq => hnew (List.mem_map.mpr ⟨kv, hmem, heq.symm⟩)
      exact (if_neg hne).trans (ih hrest hmem)

/-! ## What a step keeps of every sensor pair -/

/-- A view of every sensor pair is the same in two states. -/
def PairsKeep {β : Type} (f : Pair → β) (s t : State) : Prop := ∀ v, f (getPair t v) = f (getPair s v)

section
variable {β : Type} {f : Pair → β} {s t u : State}

theorem PairsKeep.refl (s : State) : PairsKeep f s s := fun _ => rfl

theorem PairsKeep.trans (h1 : PairsKeep f s t) (h2 : PairsKeep f t u) : PairsKeep f s u := fun v => (h2 v).trans (h1 v)

theorem PairsKeep.of_thermal (h : t.thermal = s.thermal) : PairsKeep f s t := fun v => by
  unfold getPair
  rw [h]

theorem putPair_keeps {n : Nat} {p : Pair} (h : f p = f (getPair s n)) : PairsKeep f s (putPair s n p) := fun v => by
  by_cases hv : v = n
  · rw [hv, getPair_putPair, h]
  · rw [getPair_putPair_ne _ _ hv]

/-- A pair is written, and what follows leaves the sensors alone. -/
theorem putPair_then_keeps {n : Nat} {p : Pair} (ht : t.thermal = (putPair s n p).thermal) (h : f p = f (getPair s n)) :
    PairsKeep f s t := (putPair_keeps h).trans (PairsKeep.of_thermal ht)

theorem foldl_pairsKeep {α : Type} {g : State → α → State} (hg : ∀ s x, PairsKeep f s (g s x)) (l : List α) (s : State) :
    PairsKeep f s (l.foldl g s) := by
  induction l generalizing s with
  | nil => exact PairsKeep.refl s
  | cons x l ih => exact (hg s x).trans (ih (g s x))

end

theorem note_thermal (s : State) (code cls source address aux : Nat) : (note s code cls source address aux).thermal = s.thermal :=
  note_only s code cls source address aux .thermal (by decide)

theorem warn_thermal (s : State) (cause unit : Nat) : (warn s cause unit).thermal = s.thermal :=
  (warn_held (held_self [.board, .link, .mailbox, .blotter] s) (by rfl)).only .thermal (by decide)

theorem endWarning_thermal (s : State) (cause unit : Nat) : (endWarning s cause unit).thermal = s.thermal := rfl

/-- The values that a sample brings. -/
def sampled (p : Pair) : Int × Int × Int × Int := (p.a, p.b, p.rawA, p.rawB)

/-- The values, with the count of the samples at 115 °C. -/
def sampledHot (p : Pair) : (Int × Int × Int × Int) × Nat := (sampled p, p.hot)

theorem PairsKeep.sampled_of_hot {s t : State} (h : PairsKeep sampledHot s t) : PairsKeep sampled s t :=
  fun v => congrArg Prod.fst (h v)

/-! ## Judging a sample set -/

theorem judgeFlag_keeps (s : State) (u : Nat) : PairsKeep sampledHot s (judgeFlag s u) := by
  unfold judgeFlag
  dsimp only
  split_ifs
  · exact PairsKeep.refl s
  · exact putPair_keeps rfl
  · exact putPair_then_keeps (note_thermal _ _ _ _ _ _) rfl
  · exact putPair_keeps rfl
  · exact PairsKeep.refl s

theorem judgeFlag_twf {s : State} (u : Nat) (h : twf {} s.thermal.pairs = true) : twf {} (judgeFlag s u).thermal.pairs = true := by
  unfold judgeFlag
  dsimp only
  split_ifs
  · exact h
  · exact twf_tput _ _ h
  · rw [note_thermal]
    exact twf_tput _ _ h
  · exact twf_tput _ _ h
  · exact h

theorem foldl_judgeFlag_twf (l : List Nat) {s : State} (h : twf {} s.thermal.pairs = true) :
    twf {} (l.foldl judgeFlag s).thermal.pairs = true := by
  induction l generalizing s with
  | nil => exact h
  | cons u l ih => exact ih (judgeFlag_twf u h)

theorem judgeWarning_keeps (s : State) (u : Nat) : PairsKeep sampled s (judgeWarning s u) := by
  unfold judgeWarning
  dsimp only
  split_ifs
  · exact putPair_then_keeps ((note_thermal _ _ _ _ _ _).trans (warn_thermal _ _ _)) rfl
  · exact putPair_then_keeps (endWarning_thermal _ _ _) rfl
  · exact PairsKeep.refl s

theorem judgeThrottle_keeps (s : State) (u : Nat) (old : Int) : PairsKeep sampled s (judgeThrottle s u old) := by
  unfold judgeThrottle
  dsimp only
  split
  · split
    · exact putPair_then_keeps (note_thermal _ _ _ _ _ _) rfl
    · exact PairsKeep.refl s
  · exact putPair_keeps rfl

theorem countHot_keeps (s : State) (u : Nat) : PairsKeep sampled s (countHot s u) := putPair_keeps rfl

theorem foldl_countHot_twf (l : List Nat) {s : State} (h : twf {} s.thermal.pairs = true) :
    twf {} (l.foldl countHot s).thermal.pairs = true := by
  induction l generalizing s with
  | nil => exact h
  | cons u l ih => exact ih (s := countHot s u) (twf_tput _ _ h)

theorem countHot_hot_le {s : State} {u : Nat} (h : (getPair s u).hot = 0) : (getPair (countHot s u) u).hot ≤ 1 := by
  unfold countHot modPair
  rw [getPair_putPair]
  dsimp only
  split
  · rw [h]
  · exact Nat.zero_le 1

/-- Counting each unit once, from 0, counts no unit to 2. -/
theorem foldl_countHot_le (l : List Nat) {s : State} (hnodup : l.Nodup) (hcold : ∀ v ∈ l, (getPair s v).hot = 0)
    (hone : ∀ v, (getPair s v).hot ≤ 1) (v : Nat) : (getPair (l.foldl countHot s) v).hot ≤ 1 := by
  induction l generalizing s with
  | nil => exact hone v
  | cons u l ih =>
    obtain ⟨hnew, hrest⟩ := List.nodup_cons.mp hnodup
    have hothers : ∀ w, w ≠ u → getPair (countHot s u) w = getPair s w := fun w hw => getPair_putPair_ne _ _ hw
    refine ih hrest (fun w hw => ?_) (fun w => ?_)
    · rw [hothers w (ne_of_mem_of_not_mem hw hnew)]
      exact hcold w (List.mem_cons_of_mem _ hw)
    · by_cases hw : w = u
      · rw [hw]
        exact countHot_hot_le (hcold u List.mem_cons_self)
      · rw [hothers w hw]
        exact hone w

/-- A second sample in a row at 115 °C confirms a shutdown: with none, there is no shutdown. -/
theorem confirming_nil {s : State} (hwf : twf {} s.thermal.pairs = true) (hone : ∀ v, (getPair s v).hot ≤ 1) : confirming s = [] := by
  unfold confirming
  rw [List.map_eq_nil_iff, List.filter_eq_nil_iff]
  intro kv hkv
  have hhot : kv.2.hot ≤ 1 := by
    have h := hone kv.1
    unfold getPair at h
    rwa [tget_of_mem (twf_nodup hwf) hkv] at h
  simp only [Bool.and_eq_true, decide_eq_true_eq, not_and]
  omega

/-- A pair that did not jump takes both values. -/
theorem takeReading_takes {s : State} {u : Nat} {a b : Int} (hpair : hasPair u = true) (hread : sensorsRead s u = true)
    (ha : jumped (getPair s u).rawA a (getPair s u).rawB b = false) (hb : jumped (getPair s u).rawB b (getPair s u).rawA a = false) :
    takeReading s (u, a, b) = putPair s u { getPair s u with a := a, b := b, rawA := a, rawB := b } := by
  unfold takeReading
  simp only [hpair, hread, ha, hb, Bool.and_self, if_true, Bool.and_false, Bool.false_and, Bool.false_eq_true, if_false]

/-- The state in which a sample set that holds one reading has been flagged, before it is counted. -/
def flaggedSample (s : State) (u : Nat) (a b : Int) : State :=
  let taken := takeReading s (u, a, b)
  let flagged := (taken.thermal.pairs.map (·.1)).foldl judgeFlag taken
  { flagged with thermal := { flagged.thermal with inlet := protReading flagged coldInlet, outlet := protReading flagged coldOutlet } }

/-- The units whose sensors are read in a sample. -/
def readUnits (s : State) : List Nat := (s.thermal.pairs.map (·.1)).filter (fun u => isSensed u && sensorsRead s u)

/-- A flagged sample after its units at 115 °C are counted. -/
def countedSample (s : State) : State := (readUnits s).foldl countHot s

/-- The warnings and throttles of the units of a flagged sample, by the readings of the sample before. -/
def judgedSample (before s : State) : State :=
  (readUnits s).foldl (fun t v => judgeThrottle (judgeWarning t v) v (protReading before v)) (countedSample s)

theorem judgedSample_keeps (before s : State) : PairsKeep sampled s (judgedSample before s) :=
  (foldl_pairsKeep countHot_keeps (readUnits s) s).trans
    (foldl_pairsKeep (fun t v => (judgeWarning_keeps t v).trans (judgeThrottle_keeps _ v (protReading before v))) (readUnits s) _)

/-- A sample that confirms no shutdown ends with the warnings and throttles of the units read. -/
theorem exec_sensorSample {s : State} {time u : Nat} {a b : Int} {also : SameSample} (hrun : governorRuns s = true)
    (hnone : confirming (countedSample (flaggedSample (advance s time) u a b)) = []) :
    exec (.sensorSample time [(u, a, b)] also) s =
      .next (judgedSample (advance s time) (flaggedSample (advance s time) u a b)) := by
  refine congrArg Host.Outcome.next ((if_pos (show governorRuns (advance s time) = true from hrun)).trans ?_)
  have hhottest : hottestOf (countedSample (flaggedSample (advance s time) u a b))
      (confirming (countedSample (flaggedSample (advance s time) u a b))) = none := by
    rw [hnone]
    rfl
  unfold countedSample flaggedSample readUnits at hhottest
  dsimp only [List.foldl_cons, List.foldl_nil] at hhottest ⊢
  rw [hhottest]
  rfl

theorem flaggedSample_keeps (s : State) (u : Nat) (a b : Int) : PairsKeep sampledHot (takeReading s (u, a, b)) (flaggedSample s u a b) :=
  (foldl_pairsKeep judgeFlag_keeps _ _).trans (fun _ => rfl)

/-- A sample of one pair that did not jump, with no unit at 115 °C before it, takes the values and confirms no shutdown. -/
theorem sensorSample_takes {s : State} {time u : Nat} {a b : Int} (also : SameSample) (hrun : governorRuns s = true)
    (hpair : hasPair u = true) (hread : sensorsRead s u = true) (hsound : ThermalSound s.thermal) (hcold : ∀ v, (getPair s v).hot = 0)
    (ha : jumped (getPair s u).rawA a (getPair s u).rawB b = false) (hb : jumped (getPair s u).rawB b (getPair s u).rawA a = false) :
    ∃ t, exec (.sensorSample time [(u, a, b)] also) s = .next t ∧ sampled (getPair t u) = (a, b, a, b) ∧
      ∀ v, v ≠ u → sampled (getPair t v) = sampled (getPair s v) := by
  have htake := takeReading_takes (s := advance s time) hpair hread ha hb
  have hflag := flaggedSample_keeps (advance s time) u a b
  rw [htake] at hflag
  have hwf : twf {} (flaggedSample (advance s time) u a b).thermal.pairs = true := by
    have htaken : twf {} (takeReading (advance s time) (u, a, b)).thermal.pairs = true := by
      rw [htake]
      exact twf_tput _ _ hsound.2
    exact foldl_judgeFlag_twf _ htaken
  have hzero : ∀ v, (getPair (flaggedSample (advance s time) u a b) v).hot = 0 := fun v => by
    have hhot := congrArg Prod.snd (hflag v)
    refine Eq.trans hhot ?_
    by_cases hv : v = u
    · rw [hv, getPair_putPair]
      exact hcold u
    · rw [getPair_putPair_ne _ _ hv]
      exact hcold v
  have hnodup : (readUnits (flaggedSample (advance s time) u a b)).Nodup := (twf_nodup hwf).filter _
  have hnone := confirming_nil (foldl_countHot_twf _ hwf)
    (foldl_countHot_le _ hnodup (fun v _ => hzero v) (fun v => (hzero v).trans_le (Nat.zero_le 1)))
  have hjudge := hflag.sampled_of_hot.trans (judgedSample_keeps (advance s time) _)
  refine ⟨_, exec_sensorSample hrun hnone, ?_, fun v hv => ?_⟩
  · rw [hjudge u, getPair_putPair]
    rfl
  · rw [hjudge v, getPair_putPair_ne _ _ hv]
    rfl

/-! ## Envelopes (R399) -/

/-- What the envelope check leaves of a pair that it does not fail. -/
def kept (p : Pair) : Int × Int × Bool × Bool := (p.a, p.b, p.failedA, p.failedB)

/-- With fewer than nine misses before it, the check of a pair fails no sensor. -/
theorem checkEnvelope_counts {s : State} {u : Nat} (h : (getPair s u).missA < 9 ∧ (getPair s u).missB < 9) :
    ∃ m n, checkEnvelope s u = putPair s u { getPair s u with missA := m, missB := n } := by
  obtain ⟨hA, hB⟩ := h
  have hA' : decide (10 ≤ (getPair s u).missA + 1) = false := decide_eq_false (by omega)
  have hB' : decide (10 ≤ (getPair s u).missB + 1) = false := decide_eq_false (by omega)
  unfold checkEnvelope
  simp only [hA', hB', Bool.and_false, Bool.false_eq_true, if_false]
  exact ⟨_, _, rfl⟩

theorem foldl_checkEnvelope (l : List Nat) {s : State} (hnodup : l.Nodup)
    (hfew : ∀ v ∈ l, (getPair s v).missA < 9 ∧ (getPair s v).missB < 9) :
    PairsKeep kept s (l.foldl checkEnvelope s) ∧ Only [.thermal] s (l.foldl checkEnvelope s) := by
  induction l generalizing s with
  | nil => exact ⟨PairsKeep.refl s, Only.refl _ s⟩
  | cons u l ih =>
    obtain ⟨hnew, hrest⟩ := List.nodup_cons.mp hnodup
    obtain ⟨m, n, hcheck⟩ := checkEnvelope_counts (hfew u List.mem_cons_self)
    have honly : Only [.thermal] s (checkEnvelope s u) := by
      rw [hcheck]
      exact (putPair_held (held_self [.thermal] s) (by rfl)).only
    have hkeep : PairsKeep kept s (checkEnvelope s u) := by
      rw [hcheck]
      exact putPair_keeps rfl
    obtain ⟨hpairs, hothers⟩ := ih (s := checkEnvelope s u) hrest fun v hv => by
      rw [hcheck, getPair_putPair_ne _ _ (ne_of_mem_of_not_mem hv hnew)]
      exact hfew v (List.mem_cons_of_mem _ hv)
    exact ⟨hkeep.trans hpairs, Only.trans honly hothers⟩

theorem sensorEnvelopeCheck_keeps {s : State} {time : Nat} (hrun : governorRuns s = true) (hsound : ThermalSound s.thermal)
    (hfew : ∀ v, (getPair s v).missA < 9 ∧ (getPair s v).missB < 9) :
    ∃ t, exec (.sensorEnvelopeCheck time) s = .next t ∧ Only [.now, .thermal] s t ∧ PairsKeep kept s t := by
  obtain ⟨hpairs, honly⟩ := foldl_checkEnvelope (s := advance s time)
    ((s.thermal.pairs.map (·.1)).filter (sensorsRead (advance s time))) ((twf_nodup hsound.2).filter _) (fun v _ => hfew v)
  exact ⟨_, congrArg Host.Outcome.next (if_pos (show governorRuns (advance s time) = true from hrun)),
    only_append (advance_only s time) honly, hpairs⟩

/-! ## Flags, throttle stages and the backup comparator (R398, R403, R405) -/

theorem sensorFlagClear_clears {s : State} {time u x : Nat} (hclose : (getPair s u).closeSince = some x)
    (hflag : (getPair s u).flagged = true) (hlong : x + 10000000000 ≤ max s.now time) :
    exec (.sensorFlagClear time u) s =
      .next (putPair (advance s time) u { getPair s u with flagged := false, closeSince := none }) := by
  change execSensorFlagClear time u s = _
  unfold execSensorFlagClear
  simp only [show (getPair (advance s time) u).closeSince = some x from hclose]
  exact congrArg Host.Outcome.next (if_pos ⟨hflag, hlong⟩)

theorem throttleDeepen_deepens {s : State} {time u : Nat} (hrun : governorRuns s = true) (hcan : canThrottle s u = true)
    (hon : 1 ≤ (getPair s u).stage) (hmore : (getPair s u).stage < 7) (hhot : 420 ≤ protReading s u)
    (hlong : (getPair s u).stageAt + 100000 ≤ max s.now time) :
    exec (.throttleDeepen time u) s =
      .next (note (putPair (advance s time) u { getPair s u with stage := (getPair s u).stage + 1, stageAt := max s.now time })
        0x0403 2 u 0 ((getPair s u).stage + 1)) := by
  refine congrArg Host.Outcome.next (if_pos ?_)
  simp only [Bool.and_eq_true, decide_eq_true_eq]
  exact ⟨⟨⟨⟨⟨hrun, hcan⟩, hon⟩, hmore⟩, hhot⟩, hlong⟩

theorem throttleRelease_releases {s : State} {time u x : Nat} (hcool : (getPair s u).coolSince = some x)
    (hrun : governorRuns s = true) (hon : 1 ≤ (getPair s u).stage) (hlong : x + 1000000 ≤ max s.now time) :
    exec (.throttleRelease time u) s =
      .next (putPair (advance s time) u { getPair s u with
        stage := (getPair s u).stage - 1, coolSince := if (getPair s u).stage = 1 then none else some (max s.now time) }) := by
  change execThrottleRelease time u s = _
  unfold execThrottleRelease
  simp only [show (getPair (advance s time) u).coolSince = some x from hcool]
  refine congrArg Host.Outcome.next (if_pos ?_)
  simp only [Bool.and_eq_true, decide_eq_true_eq]
  exact ⟨⟨hrun, hon⟩, hlong⟩

/-- Everything volatile is lost, and THERMTRIP_N and FAULT_N are held. -/
theorem backupComparatorTrip_stops {s : State} {time u : Nat} {onB : Bool} {a b : Int} {also : SameSample}
    (hrails : s.board.railsUp = true) (hsensed : isSensed u = true)
    (hgood : (if onB then (getPair s u).failedB else (getPair s u).failedA) = false) (hhot : 480 ≤ (if onB then b else a))
    (hread : sensorsRead s u = true) :
    ∃ v t, exec (.backupComparatorTrip time u onB a ⟨b, also⟩) s = .next t ∧
      t = { holdFault (loseAll v .stopped) true with board := { (holdFault (loseAll v .stopped) true).board with thermtrip := true } } := by
  refine ⟨_, _, congrArg Host.Outcome.next (if_pos ?_), rfl⟩
  simp only [Bool.and_eq_true, Bool.not_eq_true', decide_eq_true_eq]
  exact ⟨⟨⟨⟨hrails, hsensed⟩, hgood⟩, hhot⟩, hread⟩

/-- Settles O27: a sample set of one reading by its passes in turn, the other rows by their one branch. -/
theorem sensorsAndThrottles : Obligations.SensorsAndThrottles := by
  unfold Obligations.SensorsAndThrottles
  refine ⟨fun time u a b also s hrun hpair hread hsound hcold ha hb => ?_, fun time s hrun hsound hfew => ?_,
    fun time u x s hclose hflag hlong => ⟨_, sensorFlagClear_clears hclose hflag hlong, getPair_putPair _ _ _, ?_⟩,
    fun time u s hrun hcan hon hmore hhot hlong => ⟨_, throttleDeepen_deepens hrun hcan hon hmore hhot hlong, ?_⟩,
    fun time u x s hcool hrun hon hlong => ⟨_, throttleRelease_releases hcool hrun hon hlong, ?_⟩,
    fun time u onB a b also s hrails hsensed hgood hhot hread => ?_⟩
  · obtain ⟨t, ht, hvalues, hothers⟩ := sensorSample_takes (time := time) also hrun hpair hread hsound hcold ha hb
    obtain ⟨hva, hvb, hra, hrb⟩ : _ ∧ _ ∧ _ ∧ _ := by simpa only [sampled, Prod.mk.injEq] using hvalues
    refine ⟨t, ht, hva, hvb, hra, hrb, fun v hv => ?_⟩
    exact ⟨congrArg (·.1) (hothers v hv), congrArg (·.2.1) (hothers v hv)⟩
  · obtain ⟨t, ht, honly, hpairs⟩ := sensorEnvelopeCheck_keeps (time := time) hrun hsound hfew
    refine ⟨t, ht, honly, fun v => ?_⟩
    simpa only [kept, Prod.mk.injEq] using hpairs v
  · exact only_append (advance_only s time) (putPair_held (held_self [.thermal] _) (by rfl)).only
  · refine (PairsKeep.of_thermal (f := id) (note_thermal _ _ _ _ _ _) u).trans ?_
    exact getPair_putPair _ _ _
  · rw [getPair_putPair]
    exact ⟨rfl, rfl, only_append (advance_only s time) (putPair_held (held_self [.thermal] _) (by rfl)).only⟩
  · obtain ⟨v, t, ht, rfl⟩ := backupComparatorTrip_stops (time := time) (also := also) hrails hsensed hgood hhot hread
    exact ⟨_, ht, rfl, rfl, rfl, rfl, rfl, rfl, rfl, rfl⟩

end Sys2Proof.Proofs

namespace Sys2Proof.Proofs

open Sys2Proof Sys2Proof.Machine Sys2Proof.Laws

/-! ## ADMIN_RESET (R324, R426) -/

theorem done_nvm (s : State) (h : Hdr) (r : Nat) : (done s h r).nvm = s.nvm :=
  (done_held (held_self [.link, .mailbox, .blotter, .mgmt] s) (by rfl)).only .nvm (by decide)

theorem done_board (s : State) (h : Hdr) (r : Nat) : (done s h r).board = s.board :=
  (done_held (held_self [.link, .mailbox, .blotter, .mgmt] s) (by rfl)).only .board (by decide)

/-- What an admin reset completes first, then does. -/
theorem exec_adminReset {h : Hdr} {s : State} (halt : Bool) (ha : Accepted s h opAdminReset) :
    exec (.adminReset h halt) s = .next (if halt then haltModule (done (advance s h.time) h 0)
      else setPhase (resetModule (done (advance s h.time) h 0)) (resetPhase s.board.phase)) := by
  rw [show resetPhase s.board.phase = resetPhase (done (advance s h.time) h 0).board.phase by rw [done_board]; rfl]
  exact congrArg Host.Outcome.next (runCommand_accepted ha rfl)

/-- The unfinished commands and the bindings of the mailbox. -/
def commandsAndBindings (s : State) : List Fetched × Table Binding := (s.mailbox.fetched, s.mailbox.bindings)

theorem resetFn_commandsAndBindings (s : State) (f : Nat) (hold : Bool) :
    commandsAndBindings (resetFn s f hold) = commandsAndBindings s := by
  have hpairs := foldl_view commandsAndBindings (f := fun s qp => resetQueue s f qp hold) (fun _ _ => rfl) (pairsOf f) s
  exact hpairs

theorem resetMailbox_empties (s : State) : (resetMailbox s).mailbox.fetched = [] ∧ (resetMailbox s).mailbox.bindings = [] := by
  have hfns := foldl_view commandsAndBindings (fun s f => resetFn_commandsAndBindings s f false) (List.range 17)
    { s with mailbox := {} }
  exact ⟨congrArg Prod.fst hfns, congrArg Prod.snd hfns⟩

theorem resetModule_nvm (s : State) : (resetModule s).nvm = s.nvm :=
  (resetModule_held (held_self [.free, .board, .link, .mailbox, .serving, .images, .vellum, .fabric, .power, .thermal, .blotter,
    .mgmt, .trust, .fw] s) (by rfl)).only .nvm (by decide)

/-- The module before its mailbox and its governor are reset: turns, steps and loads have ended, and the window for the slots is closed. -/
def stoppedModule (s : State) : State :=
  dropSramClears (clearFabric (endExport (emptyLoading (emptyLoading (revertCompat (abandonSteps (dropTurns s (fun _ => true)))) 0) 1)))

/-- The mailbox and the governor are reset, and the loads of adapters end. -/
def resetLayers (s : State) : State :=
  ((resetGovernor (resetMailbox s)).serving.tenants.map (·.1)).foldl dropLoading (resetGovernor (resetMailbox s))

/-- What else a reset of the module clears. -/
def clearedModule (s : State) : State :=
  let sites := tmap {} (fun _ v => resetSite v) s.vellum.sites
  { s with
    serving := { s.serving with health := [], lettering := {} },
    images := { s.images with a := normalMode s.images.a, b := normalMode s.images.b },
    vellum := { s.vellum with sites := sites },
    link := { s.link with rrs := true, eventCause := 0, exportEnable := false },
    fw := { s.fw with staging := none, handover := false, pldm := false },
    board := { s.board with modReady := false, preparing := [] } }

theorem clearedModule_mailbox (s : State) : (clearedModule s).mailbox = s.mailbox := rfl

theorem clearedModule_power (s : State) : (clearedModule s).power = s.power := rfl

theorem clearedModule_sets (s : State) : (clearedModule s).link.eventCause = 0 ∧ (clearedModule s).link.exportEnable = false ∧
    (clearedModule s).link.rrs = true ∧ (clearedModule s).fw.handover = false ∧ (clearedModule s).fw.staging = none ∧
    (clearedModule s).board.modReady = false := ⟨rfl, rfl, rfl, rfl, rfl, rfl⟩

theorem resetModule_eq (s : State) : resetModule s = clearedModule (resetLayers (stoppedModule s)) := by
  unfold resetModule clearedModule resetLayers stoppedModule
  rfl

theorem resetLayers_only (s : State) : Only [.serving, .vellum] (resetGovernor (resetMailbox s)) (resetLayers s) :=
  (foldl_held (fun v _ h => dropLoading_held h (by rfl)) (held_self [.serving, .vellum] (resetGovernor (resetMailbox s)))).only

theorem resetLayers_mailbox (s : State) : (resetLayers s).mailbox = (resetMailbox s).mailbox := resetLayers_only s .mailbox (by decide)

theorem resetLayers_power (s : State) : (resetLayers s).power = (resetGovernor (resetMailbox s)).power :=
  resetLayers_only s .power (by decide)

theorem resetModule_mailbox (s : State) : (resetModule s).mailbox = (resetMailbox (stoppedModule s)).mailbox := by
  rw [resetModule_eq, clearedModule_mailbox, resetLayers_mailbox]

theorem resetModule_power (s : State) : (resetModule s).power = (resetGovernor (resetMailbox (stoppedModule s))).power := by
  rw [resetModule_eq, clearedModule_power, resetLayers_power]

theorem resetGovernor_power (s : State) : (resetGovernor s).power.boundCap = (resetGovernor s).power.hostCap ∧
    (resetGovernor s).power.point = 6 ∧ (resetGovernor s).power.state = .active := ⟨rfl, rfl, rfl⟩

theorem haltModule_loses (s : State) : (haltModule s).board.phase = .halted ∧ (haltModule s).board.modReady = false ∧
    (haltModule s).vellum = {} ∧ (haltModule s).images = {} ∧ (haltModule s).serving = {} ∧ (haltModule s).blotter = {} ∧
    (haltModule s).fabric = {} ∧ (haltModule s).mailbox.fetched = [] ∧ (haltModule s).nvm = s.nvm :=
  ⟨rfl, rfl, rfl, rfl, rfl, rfl, rfl, rfl, rfl⟩

/-- Settles O8: the reset of the module, and the halt, part by part. -/
theorem adminResetRestarts : Obligations.AdminResetRestarts := by
  unfold Obligations.AdminResetRestarts
  intro h s ha
  have hnvm : (done (advance s h.time) h 0).nvm = s.nvm := done_nvm (advance s h.time) h 0
  refine ⟨⟨_, exec_adminReset false ha, ?_⟩, ⟨_, exec_adminReset true ha, ?_⟩⟩
  · rw [if_neg (by decide)]
    generalize done (advance s h.time) h 0 = v at hnvm ⊢
    obtain ⟨hfetched, hbindings⟩ := resetMailbox_empties (stoppedModule v)
    obtain ⟨hcap, hpoint, hstate⟩ := resetGovernor_power (resetMailbox (stoppedModule v))
    obtain ⟨hcause, hexport, hrrs, hhandover, hstaging, hready⟩ := clearedModule_sets (resetLayers (stoppedModule v))
    rw [← resetModule_eq] at hcause hexport hrrs hhandover hstaging hready
    rw [← resetModule_mailbox] at hfetched hbindings
    rw [← resetModule_power] at hcap hpoint hstate
    unfold setPhase
    dsimp only
    exact ⟨rfl, hready, hfetched, hbindings, hcause, hexport, hrrs, hcap, hpoint, hstate, hhandover, hstaging,
      (resetModule_nvm v).trans hnvm⟩
  · rw [if_pos rfl, ← hnvm]
    exact haltModule_loses _

end Sys2Proof.Proofs

namespace Sys2Proof.Proofs

open Sys2Proof Sys2Proof.Machine Sys2Proof.Laws

/-! ## What a report leaves of the link: whether it is up -/

/-- The link is up in both states, or in neither. -/
def UpKept (s t : State) : Prop := t.link.up = s.link.up

namespace UpKept

theorem of_link {s t : State} (h : t.link = s.link) : UpKept s t := congrArg Link.up h

theorem trans {s t u : State} (h1 : UpKept s t) (h2 : UpKept t u) : UpKept s u := Eq.trans h2 h1

theorem ite {c : Prop} [Decidable c] {s a b : State} (ha : UpKept s a) (hb : UpKept s b) : UpKept s (if c then a else b) := by
  split
  · exact ha
  · exact hb

theorem foldl {α : Type} {f : State → α → State} (hf : ∀ s x, UpKept s (f s x)) (l : List α) (s : State) :
    UpKept s (l.foldl f s) := foldl_view (fun s : State => s.link.up) hf l s

end UpKept

theorem wantVector_upKept (s : State) (func vec : Nat) : UpKept s (wantVector s func vec) := .ite (.of_link rfl) rfl

theorem raiseCause_upKept (s : State) (code : Nat) : UpKept s (raiseCause s code) := by
  have hraised : UpKept s { s with link := { s.link with eventCause := s.link.eventCause ||| causeBit code } } := rfl
  exact .ite hraised (hraised.trans (wantVector_upKept _ _ _))

theorem backlogAdd_upKept (s : State) (func : Nat) (e : Event) : UpKept s (backlogAdd s func e) :=
  .ite (.of_link rfl) (.ite (.of_link rfl) (.of_link rfl))

theorem postEvent_upKept (s : State) (func code detail : Nat) : UpKept s (postEvent s func code detail) := by
  unfold postEvent
  extract_lets s1 q e
  have hcause : UpKept s s1 := .ite (raiseCause_upKept s code) (.of_link rfl)
  have hqueue : ∀ v, UpKept s1 (putQueue s1 func 0 v) := fun _ => .of_link rfl
  exact hcause.trans (.ite ((hqueue _).trans (wantVector_upKept _ _ _)) (backlogAdd_upKept _ _ _))

theorem fatalReached_upKept (s : State) : UpKept s (fatalReached s) := (raiseCause_upKept s 4).trans (wantVector_upKept _ _ _)

theorem reportPlain_upKept (s : State) (r : Report) : UpKept s (reportPlain s r) :=
  .of_link ((reportPlain_held (held_self [.blotter, .mgmt] s) (by rfl)).only .link (by decide))

theorem reportFatal_upKept (s : State) (r : Report) (active : Bool) : UpKept s (reportFatal s r active) := by
  have hblotter : ∀ (b : Blotter) (m : Mgmt), UpKept s { s with blotter := b, mgmt := m } := fun _ _ => .of_link rfl
  unfold reportFatal
  extract_lets same bump r1 e s1
  exact .ite ((hblotter _ _).trans (fatalReached_upKept _)) (.ite ((hblotter _ _).trans (fatalReached_upKept _))
    ((hblotter _ _).trans ((postEvent_upKept _ _ _ _).trans (wantVector_upKept _ _ _))))

theorem note_upKept (s : State) (code cls source address aux : Nat) : UpKept s (note s code cls source address aux) :=
  .ite (reportFatal_upKept s _ true) (reportPlain_upKept s _)

theorem warn_upKept (s : State) (cause unit : Nat) : UpKept s (warn s cause unit) := by
  have hwarned : ∀ (b : Blotter) (d : Board), UpKept s { s with blotter := b, board := d } := fun _ _ => .of_link rfl
  exact .ite (.of_link rfl) ((hwarned _ _).trans ((postEvent_upKept _ _ _ _).trans (wantVector_upKept _ _ _)))

theorem writeStopEntry_upKept (s : State) (r : StopRecord) : UpKept s (writeStopEntry s r) := by
  have hblotter : ∀ (b : Blotter) (m : Mgmt), UpKept s { s with blotter := b, mgmt := m } := fun _ _ => .of_link rfl
  exact (hblotter _ _).trans ((postEvent_upKept _ _ _ _).trans (wantVector_upKept _ _ _))

theorem reportStops_upKept (s : State) : UpKept s (reportStops s) :=
  (UpKept.foldl writeStopEntry_upKept (s.nvm.stopRecords.filter (fun r => !r.reported)) s).trans (.of_link rfl)

theorem reportStraps_upKept (s : State) : UpKept s (reportStraps s) := by
  have hnvm : UpKept s { s with nvm := { s.nvm with strapWarning := false } } := .of_link rfl
  exact .ite (hnvm.trans (note_upKept _ _ _ _ _ _)) (.of_link rfl)

theorem warnFeed_upKept (s : State) (feed volts : Nat) : UpKept s (warnFeed s feed volts) :=
  .ite ((warn_upKept _ _ _).trans (note_upKept _ _ _ _ _ _)) (.of_link rfl)

theorem warnFeeds_upKept (s : State) : UpKept s (warnFeeds s) := by
  unfold warnFeeds
  extract_lets one
  have hone : ∀ (v : State) (i : Nat), UpKept v (one v i) := fun v i => .ite (warnFeed_upKept _ _ _) (.of_link rfl)
  exact (hone s 0).trans (hone _ 1)

theorem reportPhases_upKept (s : State) : UpKept s (reportPhases s) :=
  .foldl (fun _ _ => .ite ((warn_upKept _ _ _).trans (note_upKept _ _ _ _ _ _)) (.of_link rfl)) _ s

/-! ## What a report leaves of the board: all but the SMBus alert -/

/-- Of the board, at most the SMBus alert differs. -/
def OnlyAlert (s t : State) : Prop := t.board = { s.board with smbAlert := t.board.smbAlert }

namespace OnlyAlert

theorem of_board {s t : State} (h : t.board = s.board) : OnlyAlert s t := by
  unfold OnlyAlert
  rw [h]

theorem trans {s t u : State} (h1 : OnlyAlert s t) (h2 : OnlyAlert t u) : OnlyAlert s u := by
  unfold OnlyAlert at *
  rw [h2, h1]

theorem ite {c : Prop} [Decidable c] {s a b : State} (ha : OnlyAlert s a) (hb : OnlyAlert s b) : OnlyAlert s (if c then a else b) := by
  split
  · exact ha
  · exact hb

theorem foldl {α : Type} {f : State → α → State} (hf : ∀ s x, OnlyAlert s (f s x)) (l : List α) (s : State) :
    OnlyAlert s (l.foldl f s) := by
  induction l generalizing s with
  | nil => exact of_board rfl
  | cons x l ih => exact (hf s x).trans (ih (f s x))

end OnlyAlert

theorem warnFeeds_onlyAlert (s : State) : OnlyAlert s (warnFeeds s) := by
  unfold warnFeeds
  extract_lets one
  have hone : ∀ (v : State) (i : Nat), OnlyAlert v (one v i) := fun v i => .ite (warnFeed_board _ _ _) (.of_board rfl)
  exact (hone s 0).trans (hone _ 1)

theorem reportPhases_onlyAlert (s : State) : OnlyAlert s (reportPhases s) :=
  .foldl (fun v _ => .ite (OnlyAlert.trans (warn_board v _ _) (.of_board (note_board _ _ _ _ _ _))) (.of_board rfl)) _ s

/-! ## The rails (R417) -/

/-- A step that changes the cartridge that it is given, by a function of its record, run over a list that names each once. -/
theorem getCart_foldl {f : Nat → Cartridge → Cartridge} {g : State → Nat → State}
    (hsame : ∀ s c, getCart (g s c) c = f c (getCart s c)) (hother : ∀ s c d, d ≠ c → getCart (g s c) d = getCart s d)
    {l : List Nat} (hnodup : l.Nodup) (s : State) {c : Nat} (hc : c ∈ l) : getCart (l.foldl g s) c = f c (getCart s c) := by
  have hkeep : ∀ (l : List Nat) (s : State), c ∉ l → getCart (l.foldl g s) c = getCart s c := by
    intro l
    induction l with
    | nil => exact fun _ _ => rfl
    | cons x l ih =>
      intro s hnot
      obtain ⟨hx, hl⟩ := not_or.mp (fun hmem => hnot (List.mem_cons.mpr hmem))
      exact (ih (g s x) hl).trans (hother s x c hx)
  induction l generalizing s with
  | nil => exact absurd hc List.not_mem_nil
  | cons x l ih =>
    obtain ⟨hnew, hrest⟩ := List.nodup_cons.mp hnodup
    rcases List.mem_cons.mp hc with rfl | hmem
    · exact (hkeep l (g s c) hnew).trans (hsame s c)
    · exact (ih hrest (g s x) hmem).trans (congrArg (f c) (hother s x c (ne_of_mem_of_not_mem hmem hnew)))

/-- A cartridge whose rails rise where it is present. -/
def raised (v : Cartridge) : Cartridge :=
  if v.present then { v with powered := true, lamp := usedLamp v } else { v with powered := false, lamp := .off }

theorem raised_powered (v : Cartridge) : (raised v).powered = v.present := by
  unfold raised
  split
  · next h => exact h.symm
  · next h => exact (Bool.eq_false_iff.mpr h).symm

theorem getCart_raiseCart (s : State) (c : Nat) : getCart (raiseCart s c) c = raised (getCart s c) := getCart_putCart _ _ _

/-- The fields of the board that the waves of the rails set before the cartridges rise. -/
def railFields (s : State) : Phase × Bool × Bool × Bool := (s.board.phase, s.board.railsUp, s.board.computeRails, s.board.faultHold)

/-- The rails rise, before the cartridges do. -/
def wavesState (s : State) : State :=
  { s with board := { s.board with phase := .rails, faultHold := false, feedWaited := false, railsUp := true, computeRails := true } }

theorem exec_railWaves {s : State} {time : Nat} (hwait : s.board.phase = .waiting) (hflow : s.board.flowOk = true)
    (hfeed : feedOn s = true) :
    exec (.railWaves time) s = .next ((List.range 20).foldl raiseCart (wavesState (advance s time))) :=
  congrArg Host.Outcome.next (if_pos ⟨hwait, hflow, hfeed⟩)

theorem foldl_raiseCart_railFields (l : List Nat) (s : State) : railFields (l.foldl raiseCart s) = railFields s :=
  foldl_view railFields (f := raiseCart) (fun _ _ => rfl) l s

theorem foldl_raiseCart_powered (s : State) {c : Nat} (hc : c < 20) :
    (getCart ((List.range 20).foldl raiseCart s) c).powered = (getCart s c).present := by
  rw [getCart_foldl (f := fun _ => raised) getCart_raiseCart (fun s c d hd => getCart_putCart_ne _ _ hd) List.nodup_range s
    (List.mem_range.mpr hc), raised_powered]

/-! ## Boot (R345, R352, R353, R417) -/

/-- The state of a boot once the root is derived and the mesh monitor armed, before a bank is picked. -/
def rootedState (time : Nat) (refclk : Bool) (bad : List (Nat × Nat)) (g : RootIn) (rom : Digest) (p r : FlashBank) (s : State) : State :=
  let s := damageStops (advance s time) bad
  let ok := rootOk s g
  let whole := ok && !s.trust.isUnsealed
  let held := whole || (ok && s.trust.stageOne)
  let tr := if held then holdRoot s.trust (deriveRoot s.nvm.helper g) else dropRoot s.trust
  { s with
    trust := { tr with isUnsealed := !whole, meshArmed := true, stageOne := held && s.trust.stageOne, rom := rom },
    board := { s.board with refclk := refclk },
    fw := { s.fw with primary := p.scribe.version, recovery := r.scribe.version } }

section
variable (time : Nat) (refclk : Bool) (bad : List (Nat × Nat)) (g : RootIn) (rom : Digest) (p r : FlashBank) (s : State)

theorem pickBank_rootedState : pickBank (rootedState time refclk bad g rom p r s) p r = pickBank s p r := rfl

/-- The root is held when it passes its check, on a sealed module or after the first stage of a repair (R353). -/
theorem rootedState_root : (rootedState time refclk bad g rom p r s).trust.root =
    if rootOk s g && (!s.trust.isUnsealed || s.trust.stageOne) then some (deriveRoot s.nvm.helper g) else none := by
  have hok : rootOk (damageStops (advance s time) bad) g = rootOk s g := rfl
  unfold rootedState
  dsimp only
  rw [hok, ← Bool.and_or_distrib_left, apply_ite Trust.root]
  rfl

theorem exec_boot (hrails : s.board.phase = .rails) :
    exec (.boot ⟨time, (refclk, bad)⟩ g rom p r) s = .next (match pickBank s p r with
      | some (b, rec) => bootFrom (rootedState time refclk bad g rom p r s) rom b rec
      | none => holdFault (setPhase (rootedState time refclk bad g rom p r s) .recoveryHold) true) :=
  congrArg Host.Outcome.next (if_pos hrails)

end

/-- The part of the trust side that the measurements of a boot leave alone. -/
def sealView (s : State) : Option (BitVec 256) × Bool × Bool := (s.trust.root, s.trust.meshArmed, s.trust.isUnsealed)

theorem extend_sealView (s : State) (register kind version svn : Nat) (digest : Digest) :
    sealView (extend s register kind version svn digest) = sealView s := rfl

theorem measureBoot_sealView (s : State) (rom : Digest) (b : FlashBank) (recovery : Bool) :
    sealView (measureBoot s rom b recovery) = sealView s := by
  unfold measureBoot
  simp only [extend_sealView]

theorem raiseFloors_only (l : List FwImage) (s : State) : Only [.nvm] s (l.foldl raiseFloor s) :=
  (foldl_held (fun _ _ h => raiseFloor_held h (by rfl)) (held_self [.nvm] s)).only

theorem measureBoot_only (s : State) (rom : Digest) (b : FlashBank) (recovery : Bool) :
    Only [.trust] s (measureBoot s rom b recovery) := (measureBoot_held (held_self [.trust] s) (by rfl)).only

/-- The measured images of a bank, with the security floor raised to theirs. -/
def measuredState (s : State) (rom : Digest) (b : FlashBank) (recovery : Bool) : State :=
  [b.stage1, b.scribe, b.governor, b.housekeeping].foldl raiseFloor (measureBoot s rom b recovery)

/-- The runtime firmware of a bank runs. -/
def runningState (s : State) (rom : Digest) (b : FlashBank) (recovery : Bool) : State :=
  let s := measuredState s rom b recovery
  { s with
    board := { s.board with phase := .booted, faultHold := false },
    fw := { s.fw with running := b.scribe.version },
    trust := { s.trust with recoveryBank := recovery } }

/-- What lies behind a start is reported. -/
def reportedState (s : State) : State := reportPhases (warnFeeds (reportStraps (reportStops s)))

theorem bootFrom_eq (s : State) (rom : Digest) (b : FlashBank) (recovery : Bool) :
    bootFrom s rom b recovery =
      if (reportedState (runningState s rom b recovery)).board.perstHigh && (reportedState (runningState s rom b recovery)).board.refclk
      then trainLink (reportedState (runningState s rom b recovery)) else reportedState (runningState s rom b recovery) := rfl

theorem reportedState_only (s : State) : Only [.nvm, .board, .link, .mailbox, .blotter, .mgmt] s (reportedState s) :=
  (reportPhases_held (warnFeeds_held (reportStraps_held (reportStops_held
    (held_self [.nvm, .board, .link, .mailbox, .blotter, .mgmt] s) (by rfl)) (by rfl)) (by rfl)) (by rfl)).only

theorem reportedState_upKept (s : State) : UpKept s (reportedState s) :=
  (((reportStops_upKept s).trans (reportStraps_upKept _)).trans (warnFeeds_upKept _)).trans (reportPhases_upKept _)

theorem reportedState_onlyAlert (s : State) : OnlyAlert s (reportedState s) := by
  have hstops : (reportStops s).board = s.board :=
    (reportStops_held (held_self [.nvm, .link, .mailbox, .blotter, .mgmt] s) (by rfl)).only .board (by decide)
  have hstraps : (reportStraps (reportStops s)).board = (reportStops s).board :=
    (reportStraps_held (held_self [.nvm, .link, .mailbox, .blotter, .mgmt] (reportStops s)) (by rfl)).only .board (by decide)
  exact ((OnlyAlert.of_board (hstraps.trans hstops)).trans (warnFeeds_onlyAlert _)).trans (reportPhases_onlyAlert _)

theorem trainLink_only (s : State) : Only [.link, .mailbox] s (trainLink s) :=
  (trainLink_held (held_self [.link, .mailbox] s) (by rfl)).only

theorem trainLink_up (s : State) : (trainLink s).link.up = true := rfl

/-- The measurements leave the board and the link. -/
theorem measuredState_board (s : State) (rom : Digest) (b : FlashBank) (recovery : Bool) :
    (measuredState s rom b recovery).board = s.board ∧ (measuredState s rom b recovery).link = s.link ∧
      (measuredState s rom b recovery).trust = (measureBoot s rom b recovery).trust := by
  have hfloor := raiseFloors_only [b.stage1, b.scribe, b.governor, b.housekeeping] (measureBoot s rom b recovery)
  have hmeasure := measureBoot_only s rom b recovery
  exact ⟨(hfloor .board (by decide)).trans (hmeasure .board (by decide)), (hfloor .link (by decide)).trans (hmeasure .link (by decide)),
    hfloor .trust (by decide)⟩

/-- A bank that verifies runs: what the boot sets, and what it leaves. -/
structure BootedFrom (s : State) (b : FlashBank) (recovery : Bool) (t : State) : Prop where
  phase : t.board.phase = .booted
  faultHold : t.board.faultHold = false
  refclk : t.board.refclk = s.board.refclk
  running : t.fw.running = b.scribe.version
  bank : t.trust.recoveryBank = recovery
  sealing : sealView t = sealView s
  trained : s.board.perstHigh = true → s.board.refclk = true → t.link.up = true
  untrained : s.board.refclk = false → t.link.up = s.link.up

theorem reportedState_booted (s : State) (rom : Digest) (b : FlashBank) (recovery : Bool) :
    let t := reportedState (runningState s rom b recovery)
    t.board.phase = .booted ∧ t.board.faultHold = false ∧ t.board.refclk = s.board.refclk ∧ t.board.perstHigh = s.board.perstHigh ∧
      t.fw.running = b.scribe.version ∧ t.trust.recoveryBank = recovery ∧ sealView t = sealView s ∧ t.link.up = s.link.up := by
  obtain ⟨hboard, hlink, htrust⟩ := measuredState_board s rom b recovery
  have honly := reportedState_only (runningState s rom b recovery)
  have halert := reportedState_onlyAlert (runningState s rom b recovery)
  have hfw : (reportedState (runningState s rom b recovery)).fw = (runningState s rom b recovery).fw := honly .fw (by decide)
  have htr : (reportedState (runningState s rom b recovery)).trust = (runningState s rom b recovery).trust := honly .trust (by decide)
  have hrun : (runningState s rom b recovery).board = { s.board with phase := .booted, faultHold := false } := by
    rw [← hboard]
    rfl
  unfold OnlyAlert at halert
  rw [hrun] at halert
  dsimp only
  refine ⟨by rw [halert], by rw [halert], by rw [halert], by rw [halert], by rw [hfw]; rfl, by rw [htr]; rfl, ?_, ?_⟩
  · unfold sealView
    rw [htr]
    refine Eq.trans ?_ (measureBoot_sealView s rom b recovery)
    unfold sealView
    rw [← htrust]
    rfl
  · exact Eq.trans (reportedState_upKept (runningState s rom b recovery)) (congrArg Link.up hlink)

theorem bootFrom_boots (s : State) (rom : Digest) (b : FlashBank) (recovery : Bool) :
    BootedFrom s b recovery (bootFrom s rom b recovery) := by
  obtain ⟨hphase, hfault, hrefclk, hperst, hrunning, hbank, hseal, hup⟩ := reportedState_booted s rom b recovery
  rw [bootFrom_eq]
  generalize reportedState (runningState s rom b recovery) = v at *
  rw [hperst, hrefclk]
  split
  · next htrain =>
    have honly := trainLink_only v
    have hboard : (trainLink v).board = v.board := honly .board (by decide)
    have hfw : (trainLink v).fw = v.fw := honly .fw (by decide)
    have htrust : (trainLink v).trust = v.trust := honly .trust (by decide)
    have hclock := (Bool.and_eq_true _ _).mp htrain
    exact {
      phase := by rw [hboard, hphase]
      faultHold := by rw [hboard, hfault]
      refclk := by rw [hboard, hrefclk]
      running := by rw [hfw, hrunning]
      bank := by rw [htrust, hbank]
      sealing := by rw [← hseal]; unfold sealView; rw [htrust]
      trained := fun _ _ => trainLink_up v
      untrained := fun hoff => absurd (hclock.2.symm.trans hoff) (by decide) }
  · next hidle =>
    exact {
      phase := hphase
      faultHold := hfault
      refclk := hrefclk
      running := hrunning
      bank := hbank
      sealing := hseal
      trained := fun hp hr => absurd ((Bool.and_eq_true _ _).mpr ⟨hp, hr⟩) hidle
      untrained := fun _ => hup }

/-! ## Self-test (R420, R421) -/

/-- A failed cartridge comes to the start without rails; the S-die's own cannot. -/
def rested (c : Nat) (v : Cartridge) : Cartridge :=
  if c != 8 && v.present && cartFailed v then { v with lamp := .amber, powered := false } else v

/-- What `restFailed` does with one cartridge. -/
def restCart (s : State) (c : Nat) : State :=
  let v := getCart s c
  if c != 8 && v.present && cartFailed v then putCart s c { v with lamp := .amber, powered := false } else s

theorem restFailed_eq (s : State) : restFailed s = (List.range 20).foldl restCart s := rfl

theorem getCart_restCart (s : State) (c : Nat) : getCart (restCart s c) c = rested c (getCart s c) := by
  unfold restCart rested
  dsimp only
  split
  · exact getCart_putCart _ _ _
  · rfl

theorem getCart_restCart_ne (s : State) (c d : Nat) (hd : d ≠ c) : getCart (restCart s c) d = getCart s d := by
  unfold restCart
  dsimp only
  split
  · exact getCart_putCart_ne _ _ hd
  · rfl

theorem restFailed_map (s : State) : (restFailed s).map = s.map :=
  foldl_view State.map (f := restCart) (fun v c => by unfold restCart; dsimp only; split <;> rfl) _ s

theorem rested_unpowered {c : Nat} {v : Cartridge} (hc : c ≠ 8) (hfailed : cartFailed (rested c v) = true)
    (hpresent : (rested c v).present = true) : (rested c v).powered = false := by
  unfold rested at *
  split
  · rfl
  · next hstays =>
    rw [if_neg hstays] at hfailed hpresent
    exact absurd (by simp [hc, hfailed, hpresent]) hstays

theorem applySelfTest_board (s : State) (r : SelfTestResult) : (applySelfTest s r).board = s.board :=
  (applySelfTest_held (held_self [.nvm, .link, .mailbox, .fabric, .thermal, .blotter, .mgmt, .map] s) (by rfl)).only .board (by decide)

/-- Self-test clears the refusal, records its time, and leaves the dark dies and the bad blocks. -/
theorem applySelfTest_map (s : State) (r : SelfTestResult) :
    (applySelfTest s r).map.refused = false ∧ (applySelfTest s r).map.cause = 0 ∧ (applySelfTest s r).map.ms = r.ms ∧
      (applySelfTest s r).map.darkDies = s.map.darkDies := by
  refine ⟨rfl, rfl, rfl, ?_⟩
  have hclusters : ∀ (l : List Nat) (v : State), (l.foldl (judgeCluster r.failedClusters) v).map = v.map :=
    fun l v => foldl_view State.map (f := judgeCluster r.failedClusters) (fun _ _ => rfl) l v
  have hsegments : (r.badSegments.foldl foundSegments (markSensors s)).map = (markSensors s).map :=
    foldl_view State.map (fun v x =>
      (foundSegments_held (held_self [.nvm, .link, .mailbox, .blotter, .mgmt] v) (by rfl)).only .map (by decide)) _ _
  have hsensors : (markSensors s).map = s.map := (markSensors_held (held_self [.thermal] s) (by rfl)).only .map (by decide)
  unfold applySelfTest
  dsimp only
  rw [hclusters]
  exact congrArg GoodMap.darkDies (Eq.trans hsegments hsensors)

/-- The module at the start of self-test: the dark dies and the bad blocks are known, failed cartridges are without rails. -/
def testState (s : State) (time : Nat) (r : SelfTestResult) : State :=
  restFailed { advance s time with map := { s.map with darkDies := darkAtStart s, badBlocks := r.failedBlocks } }

theorem exec_selfTest_booted {s : State} {time : Nat} {r : SelfTestResult} (h : s.board.phase = .booted) :
    exec (.selfTest time r) s = .next (if refuseCause (applySelfTest (testState s time r) r) r = 0
      then setPhase (applySelfTest (testState s time r) r) .tested
      else refuseStart (applySelfTest (testState s time r) r) (refuseCause (applySelfTest (testState s time r) r) r)) := by
  change execSelfTest time r s = _
  unfold execSelfTest
  simp only [advance_board, h]
  rfl

theorem refuseStart_refuses (s : State) (cause : Nat) : (refuseStart s cause).board.phase = .refused ∧
    (refuseStart s cause).map.refused = true ∧ (refuseStart s cause).map.cause = cause := by
  unfold refuseStart
  dsimp only
  rw [note_board, note_map]
  exact ⟨rfl, rfl, rfl⟩

theorem testState_map (s : State) (time : Nat) (r : SelfTestResult) : (testState s time r).map.darkDies = darkAtStart s := by
  unfold testState
  rw [restFailed_map]

theorem getCart_testState {s : State} (time : Nat) (r : SelfTestResult) {c : Nat} (hc : c < 20) :
    getCart (testState s time r) c = rested c (getCart s c) := by
  unfold testState
  rw [restFailed_eq, getCart_foldl getCart_restCart getCart_restCart_ne List.nodup_range _ (List.mem_range.mpr hc)]
  rfl

theorem getCart_applySelfTest (s : State) (r : SelfTestResult) (c : Nat) : getCart (applySelfTest s r) c = getCart s c := by
  unfold getCart
  rw [applySelfTest_board]

theorem selfTest_goes_on {s : State} {time : Nat} {r : SelfTestResult} (hbooted : s.board.phase = .booted)
    (hclean : refuseCause (applySelfTest (testState s time r) r) r = 0) :
    ∃ t, exec (.selfTest time r) s = .next t ∧ t.board.phase = .tested ∧ t.map.refused = false ∧ t.map.cause = 0 ∧
      t.map.ms = r.ms ∧ t.map.darkDies = darkAtStart s ∧
      ∀ c, c < 20 → c ≠ 8 → cartFailed (getCart t c) = true → (getCart t c).present = true → (getCart t c).powered = false := by
  have hexec := exec_selfTest_booted (time := time) (r := r) hbooted
  rw [if_pos hclean] at hexec
  obtain ⟨hrefused, hcause, hms, hdark⟩ := applySelfTest_map (testState s time r) r
  rw [testState_map] at hdark
  have hcarts := fun c hc => (getCart_applySelfTest (testState s time r) r c).trans (getCart_testState time r hc)
  generalize applySelfTest (testState s time r) r = v at *
  refine ⟨_, hexec, rfl, hrefused, hcause, hms, hdark, fun c hc h8 => ?_⟩
  rw [show getCart (setPhase v .tested) c = rested c (getCart s c) from hcarts c hc]
  exact rested_unpowered h8

/-- A failed spine block refuses the start with cause 1, before anything else that refuses it. -/
theorem selfTest_refuses {s : State} {time : Nat} {r : SelfTestResult} (hbooted : s.board.phase = .booted)
    (hblocks : r.failedBlocks ≠ []) :
    ∃ t, exec (.selfTest time r) s = .next t ∧ t.board.phase = .refused ∧ t.map.refused = true ∧ t.map.cause = 1 := by
  have hcause : refuseCause (applySelfTest (testState s time r) r) r = 1 :=
    if_pos (List.isEmpty_eq_false_iff.mpr hblocks)
  have hexec := exec_selfTest_booted (time := time) (r := r) hbooted
  rw [hcause, if_neg (by decide)] at hexec
  exact ⟨_, hexec, refuseStart_refuses _ 1⟩

theorem prepareAllFailed_power (s : State) : (prepareAllFailed s).power = s.power :=
  (prepareAllFailed_held (held_self [.board, .link, .mailbox, .serving, .images, .vellum, .fabric] s) (by rfl)).only .power (by decide)

theorem prepareAllFailed_thermal (s : State) : (prepareAllFailed s).thermal = s.thermal :=
  (prepareAllFailed_held (held_self [.board, .link, .mailbox, .serving, .images, .vellum, .fabric] s) (by rfl)).only .thermal (by decide)

theorem endRrs_power (s : State) : (endRrs s).power = s.power := rfl

/-- The end of an admin reset brings service back, with the cooling cap and the allowance of a start. -/
theorem endAdminReset_serves (s : State) (r : SelfTestResult) :
    (endAdminReset s r).board.phase = .serving ∧ (endAdminReset s r).board.modReady = true ∧
      (endAdminReset s r).thermal.coolingCap = 18500 ∧ (endAdminReset s r).power.allowance = 7000 := by
  unfold endAdminReset
  extract_lets s1 s2 s3
  have hboard := prepareAllFailed_onlyPreparing
    { s3 with board := { s3.board with phase := .serving, modReady := true }, thermal := { s3.thermal with coolingCap := 18500 } }
  unfold OnlyPreparing at hboard
  rw [hboard, prepareAllFailed_thermal, prepareAllFailed_power]
  exact ⟨rfl, rfl, rfl, rfl⟩

theorem selfTest_ends_reset {s : State} {time : Nat} {r : SelfTestResult} (hreset : s.board.phase = .resetting) :
    exec (.selfTest time r) s = .next (endAdminReset (advance s time) r) := by
  change execSelfTest time r s = _
  unfold execSelfTest
  simp only [advance_board, hreset]

/-! ## The training of the vellum (R428) -/

/-- With every failed cartridge unpowered there is none to prepare. -/
theorem prepareAllFailed_of_unpowered {s : State} (h : ∀ c, c < 20 → cartFailed (getCart s c) = true → (getCart s c).powered = false) :
    prepareAllFailed s = s := by
  have hone : ∀ c, c < 20 → prepareFailed s c = s := fun c hc => by
    unfold prepareFailed
    dsimp only
    rw [if_neg]
    intro hcond
    simp only [Bool.and_eq_true] at hcond
    obtain ⟨⟨⟨⟨⟨⟨hfailed, -⟩, hpowered⟩, -⟩, -⟩, -⟩, -⟩ := hcond
    exact absurd (hpowered.symm.trans (h c hc hfailed)) (by decide)
  have hall : ∀ l : List Nat, (∀ c ∈ l, c < 20) → l.foldl prepareFailed s = s := by
    intro l
    induction l with
    | nil => exact fun _ => rfl
    | cons c l ih =>
      intro hl
      rw [List.foldl_cons, hone c (hl c List.mem_cons_self)]
      exact ih fun d hd => hl d (List.mem_cons_of_mem _ hd)
  exact hall _ fun c hc => List.mem_range.mp hc

/-- The pages after training: those that the NVM lists are retired. -/
def trainedPages (s : State) : Table Page :=
  (s.nvm.retiredPages.filter (fun p => decide (p < (s.nvm.layout.getD {}).kvPages))).foldl
    (fun t p => tput {} t p ({ state := .retired } : Page)) []

/-- The sites after training: those that failed it, or lie in a dark die, are out. -/
def trainedSites (s : State) (bad : List Nat) : Table Site :=
  (((bad ++ s.map.darkDies).filter (fun d => decide (d < 40))).eraseDups).foldl
    (fun t d => tput {} t d ({ untrained := true } : Site))
    (((List.range 40).filter (channelsDead s)).foldl (fun t d => tput {} t d ({ lost := true } : Site)) [])

theorem trainedPages_state (s : State) (p : Nat) :
    (tget ({} : Page) (trainedPages s) p).state = .free ∨ (tget ({} : Page) (trainedPages s) p).state = .retired :=
  tget_foldl_tput_of (P := fun v : Page => v.state = .free ∨ v.state = .retired) id (fun _ => { state := .retired })
    (fun _ => .inr rfl) _ [] p (.inl (.inl rfl))

theorem trainedSites_untrained {s : State} {bad : List Nat} {d : Nat} (hd : d ∈ bad) (hsite : d < 40) :
    (tget ({} : Site) (trainedSites s bad) d).untrained = true := by
  have hout : d ∈ ((bad ++ s.map.darkDies).filter (fun d => decide (d < 40))).eraseDups := by
    rw [List.mem_eraseDups, List.mem_filter]
    exact ⟨List.mem_append_left _ hd, decide_eq_true hsite⟩
  exact tget_foldl_tput_of (P := fun v : Site => v.untrained = true) id (fun _ => { untrained := true })
    (fun _ => rfl) _ _ d (.inr ⟨d, hout, rfl⟩)

/-- The vellum trained, and the module in service. -/
def trainedState (s : State) (bad : List Nat) : State :=
  let s := { s with vellum := { layout := s.nvm.layout.getD {}, pages := trainedPages s, sites := trainedSites s bad } }
  wakeStep { s with
    map := { s.map with goodSites := countGoodSites s },
    board := { s.board with trained := true, phase := .serving, modReady := true } }

theorem exec_vellumTraining {s : State} {time : Nat} {bad : List Nat} (htested : s.board.phase = .tested) :
    exec (.vellumTraining time bad) s = .next (if bad.contains sDie || channelsDead s sDie then refuseStart (advance s time) 2
      else prepareAllFailed (trainedState (advance s time) bad)) :=
  congrArg Host.Outcome.next (if_pos htested)

/-- Settles O41: each step of the start by what it sets, and by what the reports that follow leave. -/
theorem startReachesService : Obligations.StartReachesService := by
  unfold Obligations.StartReachesService
  refine ⟨fun time s hwait hflow hfeed => ?_, fun time refclk bad g rom p r s hrails => ⟨fun b rec hpick => ?_, fun hpick => ?_⟩,
    fun time r s => ⟨fun hbooted => ⟨selfTest_goes_on hbooted, selfTest_refuses hbooted⟩, fun hreset => ?_⟩,
    fun time bad s htested => ⟨fun hgood halive hoff => ?_, fun hbad => ?_⟩⟩
  · have hfields := foldl_raiseCart_railFields (List.range 20) (wavesState (advance s time))
    obtain ⟨hphase, hrails, hcompute, hfault⟩ : _ ∧ _ ∧ _ ∧ _ := by simpa only [railFields, Prod.mk.injEq] using hfields
    exact ⟨_, exec_railWaves hwait hflow hfeed, hphase, hrails, hcompute, hfault,
      fun c hc => foldl_raiseCart_powered (wavesState (advance s time)) hc⟩
  · have hexec := exec_boot time refclk bad g rom p r s hrails
    simp only [hpick] at hexec
    have hboot := bootFrom_boots (rootedState time refclk bad g rom p r s) rom b rec
    have hroot := (congrArg (·.1) hboot.sealing).trans (rootedState_root time refclk bad g rom p r s)
    have hmesh : _ = (rootedState time refclk bad g rom p r s).trust.meshArmed := congrArg (·.2.1) hboot.sealing
    have hunsealed : _ = (rootedState time refclk bad g rom p r s).trust.isUnsealed := congrArg (·.2.2) hboot.sealing
    exact ⟨_, hexec, hboot.refclk, hroot, hboot.phase, hboot.faultHold, hboot.running, hboot.bank, hmesh, hunsealed, hboot.trained,
      hboot.untrained⟩
  · have hexec := exec_boot time refclk bad g rom p r s hrails
    simp only [hpick] at hexec
    exact ⟨_, hexec, rfl, rootedState_root time refclk bad g rom p r s, rfl, rfl, rfl⟩
  · exact ⟨_, selfTest_ends_reset hreset, endAdminReset_serves _ r⟩
  · have hexec := exec_vellumTraining (time := time) (bad := bad) htested
    rw [hgood, halive, if_neg (by decide), prepareAllFailed_of_unpowered (s := trainedState (advance s time) bad) hoff] at hexec
    exact ⟨_, hexec, rfl, rfl, rfl, fun _ => rfl, rfl, fun d hd hsite => trainedSites_untrained (s := advance s time) hd hsite,
      trainedPages_state (advance s time), rfl⟩
  · have hexec := exec_vellumTraining (time := time) (bad := bad) htested
    rw [if_pos ((Bool.or_eq_true _ _).mpr hbad)] at hexec
    obtain ⟨hphase, -, hcause⟩ := refuseStart_refuses (advance s time) 2
    exact ⟨_, hexec, hphase, hcause⟩

end Sys2Proof.Proofs

namespace Sys2Proof.Proofs

open Sys2Proof Sys2Proof.Machine Sys2Proof.Laws

/-! ## What keeps the latency tolerance and the state selected against it

At a step boundary the tolerance that is due takes effect before clusters leave service. What follows ends turns, and so completes
commands, which ends the time of idleness: of the governor it changes nothing else. -/

/-- The tolerance in force, the state selected against it, and the tolerance that is due. -/
def tolerances (s : State) : Nat × PowerState × Option Nat := (s.power.tolerance, s.power.selected, s.power.tolDue)

def TolKept (s t : State) : Prop := tolerances t = tolerances s

namespace TolKept

theorem refl (s : State) : TolKept s s := rfl

theorem trans {s t u : State} (h1 : TolKept s t) (h2 : TolKept t u) : TolKept s u := Eq.trans h2 h1

theorem of_power {s t : State} (h : t.power = s.power) : TolKept s t := by
  unfold TolKept tolerances
  rw [h]

/-- What leaves the governor alone keeps them. -/
theorem of_only {ps : List Part} {s t : State} (h : Only ps s t) (hp : Part.power ∉ ps := by decide) : TolKept s t :=
  of_power (h .power hp)

theorem ite {c : Prop} [Decidable c] {s a b : State} (ha : TolKept s a) (hb : TolKept s b) : TolKept s (if c then a else b) := by
  split
  · exact ha
  · exact hb

theorem foldl {α : Type} {f : State → α → State} (hf : ∀ s x, TolKept s (f s x)) (l : List α) (s : State) :
    TolKept s (l.foldl f s) := foldl_view tolerances hf l s

end TolKept

theorem notIdle_tolKept (s : State) : TolKept s (notIdle s) := rfl

theorem completeAt_tolKept (s : State) (func qp cid status result : Nat) (data : List Byte) :
    TolKept s (completeAt s func qp cid status result data) :=
  .of_only (completeAt_held (held_self [.link, .mailbox, .blotter, .mgmt] s) (by rfl)).only

theorem releaseAnswers_tolKept (s : State) (func qp session : Nat) : TolKept s (releaseAnswers s func qp session) :=
  .of_only (releaseAnswers_held (held_self [.link, .mailbox, .blotter, .mgmt] s) (by rfl)).only

theorem completeStarted_tolKept (s : State) (opcode arg status result : Nat) :
    TolKept s (completeStarted s opcode arg status result) := by
  unfold completeStarted
  split
  · have hended : ∀ f : Fetched, TolKept s (notIdle (completeAt s f.func f.qp f.cid status result [])) :=
      fun f => (completeAt_tolKept s _ _ _ _ _ _).trans (notIdle_tolKept _)
    exact .ite ((hended _).trans (releaseAnswers_tolKept _ _ _ _)) (hended _)
  · exact .refl s

/-! ### The end of turns and sessions -/

theorem endPfx_tolKept (s : State) (x : Nat) : TolKept s (endPfx s x) := by
  have hfreed : TolKept s (releasePfx (unqueue (discardRows s (.pfx x)) (getPfx s x).tenant (.pfx x)) x) :=
    .of_only (releasePfx_held (unqueue_held (discardRows_held (held_self [.serving, .vellum] s) (by rfl)) (by rfl)) (by rfl)).only
  exact hfreed.trans (completeStarted_tolKept _ _ _ _ _)

theorem dropReader_tolKept (s : State) (x : Nat) : TolKept s (dropReader s x) := by
  have hread : TolKept s (putPfx s x { getPfx s x with readers := (getPfx s x).readers - 1 }) := .of_power rfl
  exact .ite (hread.trans (endPfx_tolKept _ x)) hread

theorem freePagesOf_tolKept (s : State) (l : List Nat) : TolKept s (freePagesOf s l) :=
  .of_only (freePagesOf_held (held_self [.serving, .vellum] s) (by rfl)).only

theorem releaseOld_tolKept (s : State) (tenant : Nat) : TolKept s (releaseOld s tenant) :=
  .of_only (releaseOld_held (held_self [.serving, .images, .vellum] s) (by rfl)).only

theorem leaveTurn_tolKept (s : State) (t : Turn) : TolKept s (leaveTurn s t) := by
  unfold leaveTurn
  split
  · exact (dropReader_tolKept s _).trans (freePagesOf_tolKept _ _)
  · exact freePagesOf_tolKept s _

theorem cutPark_tolKept (s : State) (id : Nat) : TolKept s (cutPark s id) :=
  (completeStarted_tolKept s _ _ _ _).trans (completeStarted_tolKept _ _ _ _ _)

theorem releaseSession_tolKept (s : State) (id : Nat) : TolKept s (releaseSession s id) := by
  unfold releaseSession
  extract_lets s1 v s2 s3 p s4 s5 trust s6 s7
  have hpages : TolKept s s2 := (cutPark_tolKept s id).trans
    ((TolKept.of_only (clearExtents_held (held_self [.vellum] s1) (by rfl)).only).trans (freePagesOf_tolKept _ _))
  have hreader : TolKept s2 s3 := by
    show TolKept s2 (match v.pfx with | some x => dropReader s2 x | none => s2)
    split
    · exact dropReader_tolKept s2 _
    · exact .refl s2
  have hdraft : TolKept s4 s5 := .of_only (setDraft_held (held_self [.serving, .vellum] s4) (by rfl)).only
  have hold : TolKept s5 s7 := TolKept.trans (t := putSession s6 id {}) (.of_power rfl) (releaseOld_tolKept _ _)
  have hall : TolKept s s7 := hpages.trans (hreader.trans (TolKept.trans (t := s4) (.of_power rfl) (hdraft.trans hold)))
  split
  · exact hall.trans (.of_only (sweepPfx_held (held_self [.serving, .vellum] s7) (by rfl)).only)
  · exact hall

theorem finishClose_tolKept (s : State) (id : Nat) : TolKept s (finishClose s id) :=
  .ite (releaseSession_tolKept s id) (.refl s)

theorem closeTurn_tolKept (s : State) (id : Nat) : TolKept s (closeTurn s id) := by
  unfold closeTurn
  extract_lets v0
  split
  · exact .refl s
  · extract_lets o s1 v s2 s3 k s4 s5 broken s6 s7
    have hleft : TolKept s s2 := TolKept.trans (t := s1) (leaveTurn_tolKept s _) (.of_power rfl)
    have hhistory : TolKept s2 s3 := .of_only (setHistory_held (held_self [.serving, .vellum] s2) (by rfl)).only
    have hevent : TolKept s3 s4 := .of_only (postEvent_held (held_self [.link, .mailbox] s3) (by rfl)).only
    have hfault : TolKept s3 s5 := .ite (hevent.trans (.of_only (report_only s4 _))) (.refl s3)
    have hanswered : TolKept s5 s7 := (completeStarted_tolKept s5 _ _ _ _).trans (completeStarted_tolKept _ _ _ _ _)
    exact hleft.trans (hhistory.trans (hfault.trans (hanswered.trans
      ((finishClose_tolKept s7 id).trans ((releaseOld_tolKept _ _).trans (notIdle_tolKept _))))))

/-! ### What is due of a turn that ends -/

theorem issueDue_tolKept (s : State) (id : Nat) (d : Due) : TolKept s (issueDue s id d) := by
  unfold issueDue
  extract_lets v n
  split
  · exact .refl s
  · extract_lets lates faults q r s1 t' s2 s3
    have hsignal : TolKept s s1 := TolKept.trans (t := putQueue s _ _ (pushTs q r)) (.of_power rfl)
      (.of_only (wantVector_only _ _ _))
    have hsession : TolKept s1 s2 := .of_power rfl
    have hcharge : TolKept s2 s3 := .ite (.refl s2)
      (.of_only (notePending_held (charge_held (held_self [.serving, .vellum] s2) (by rfl)) (by rfl)).only)
    have hissued := hsignal.trans (hsession.trans hcharge)
    split
    · exact hissued.trans (closeTurn_tolKept s3 id)
    · exact hissued

theorem forfeitOne_tolKept (s : State) (id code : Nat) : TolKept s (forfeitOne s id code) :=
  .of_only (forfeitOne_held (held_self [.serving] s) (by rfl)).only

theorem modTurn_tolKept (s : State) (id : Nat) (f : Turn → Turn) : TolKept s (modTurn s id f) :=
  .of_only (modTurn_held (held_self [.serving] s) (by rfl)).only

theorem pump_tolKept (s : State) (id : Nat) : TolKept s (pump s id) := by
  unfold pump
  split
  · exact .refl s
  · split
    · exact .refl s
    · next d rest hdue =>
      extract_lets q popped s1 s2
      have hpopped : TolKept s popped := modTurn_tolKept s id _
      have hforfeit : TolKept s s1 := .ite (hpopped.trans (forfeitOne_tolKept _ _ _)) hpopped
      have hheld : TolKept s s2 := hforfeit.trans (.of_power rfl)
      refine .ite (.refl s) (.ite (hpopped.trans (issueDue_tolKept popped id d)) (.ite (.ite (hheld.trans (.of_power rfl))
        (.ite (forfeitOne_tolKept s _ _) (.refl s))) ?_))
      split
      · exact hpopped.trans (closeTurn_tolKept popped id)
      · exact hpopped

theorem pumpAll_tolKept (n : Nat) (s : State) (id : Nat) : TolKept s (pumpAll n s id) := by
  induction n generalizing s with
  | zero => exact .refl s
  | succ n ih => exact (pump_tolKept s id).trans (ih _)

theorem endTurn_tolKept (s : State) (id reason : Nat) : TolKept s (endTurn s id reason) := by
  unfold endTurn
  extract_lets v
  split
  · exact .refl s
  · extract_lets s1 due s2
    have hrows : TolKept s s1 :=
      .of_only (unqueue_held (discardRows_held (countFlush_held (held_self [.serving] s) (by rfl)) (by rfl)) (by rfl)).only
    exact .ite (.refl s) (hrows.trans ((modTurn_tolKept s1 id _).trans (pumpAll_tolKept _ _ id)))

theorem endTurns_tolKept (s : State) (p : Session → Bool) (reason : Nat) : TolKept s (endTurns s p reason) :=
  .foldl (fun s id => endTurn_tolKept s id reason) _ s

/-! ### Clusters that leave service at a boundary -/

theorem note_tolKept (s : State) (code cls source address aux : Nat) : TolKept s (note s code cls source address aux) :=
  .of_only (note_only s code cls source address aux)

theorem putSlot_tolKept (s : State) (n : Nat) (v : Slot) : TolKept s (putSlot s n v) := .of_power rfl

theorem noVariant_tolKept (s : State) (n unit : Nat) : TolKept s (noVariant s n unit) :=
  (note_tolKept s _ _ _ _ _).trans ((putSlot_tolKept _ _ _).trans (endTurns_tolKept _ _ _))

theorem coverSlot_tolKept (s : State) (n unit : Nat) (lost : List Nat) : TolKept s (coverSlot s n unit lost) := by
  unfold coverSlot
  extract_lets v
  split
  · exact .refl s
  · split
    · exact noVariant_tolKept s n unit
    · exact .of_only (enforce_held (held_self [.serving, .images, .fabric] s) (by rfl)).only

theorem coverLoss_tolKept (s : State) (unit : Nat) (lost : List Nat) : TolKept s (coverLoss s unit lost) :=
  (coverSlot_tolKept s 0 unit lost).trans (coverSlot_tolKept _ 1 unit lost)

theorem forfeitAll_tolKept (s : State) (code : Nat) : TolKept s (forfeitAll s code) :=
  .of_only (forfeitAll_held (held_self [.serving] s) (by rfl)).only

theorem retireCluster_tolKept (s : State) (u : Nat) (fence : Bool) : TolKept s (retireCluster s u fence) := by
  unfold retireCluster
  extract_lets i s1 s2
  have hnote : TolKept s s1 := .ite (note_tolKept s _ _ _ _ _) (.refl s)
  have hisland : TolKept s1 s2 := .of_power rfl
  exact .ite (.refl s) (hnote.trans (hisland.trans ((forfeitAll_tolKept s2 6).trans
    (TolKept.trans (t := mapChanged (forfeitAll s2 6)) (.of_power rfl) (coverLoss_tolKept _ _ _)))))

theorem retireDue_tolKept (s : State) : TolKept s (retireDue s) := by
  have hqueue : TolKept s { s with power := { s.power with retiring := [] } } := rfl
  exact hqueue.trans (.foldl (fun s (p : Nat × Bool) => retireCluster_tolKept s p.1 p.2) _ _)

theorem choosePoint_tolKept (s : State) : TolKept s (choosePoint s) := rfl

theorem takePoint_tolKept (s : State) : TolKept s (takePoint s) := by
  unfold takePoint
  extract_lets s1
  have hpoint : TolKept s s1 := choosePoint_tolKept s
  have hidle : TolKept s1 (clearIdle s1 (parkableClusters s1)) :=
    .of_only (clearIdle_held (held_self [.fabric] s1) (by rfl)).only
  refine .ite (hpoint.trans (hidle.trans (.foldl (fun v u => TolKept.of_power (t := putIsland v u _) rfl) _ _))) ?_
  split
  · exact hpoint
  · have hlast : TolKept s1 { s1 with power := { s1.power with point := 14 } } := rfl
    exact hpoint.trans (hlast.trans (.foldl (fun s u => .of_only (startInrush_held (held_self [.fabric] s) (by rfl)).only) _ _))

/-! ### A cap that binds -/

theorem judgeReach_tolKept (s : State) : TolKept s (judgeReach s) := by
  obtain ⟨reach, hreach⟩ := judgeReach_power s
  unfold TolKept tolerances
  rw [hreach]

theorem dropAllowance_tolKept (s : State) (before : Nat) : TolKept s (dropAllowance s before) := by
  unfold TolKept tolerances
  rw [dropAllowance_power]

theorem bindCap_tolKept (s : State) : TolKept s (bindCap s) := by
  unfold bindCap
  extract_lets before p s1 s2
  have hcap : TolKept s s1 := rfl
  have hreach : TolKept s s2 := hcap.trans ((dropAllowance_tolKept s1 before).trans (judgeReach_tolKept _))
  exact .ite (hreach.trans (forfeitAll_tolKept s2 1)) hreach

theorem bindDue_tolKept (s : State) : TolKept s (bindDue s) :=
  .ite ((bindCap_tolKept s).trans (completeStarted_tolKept _ _ _ _ _)) (.refl s)

/-! ## The selection of a state (R339, R391) -/

/-- No state with a wake bound within the tolerance is deeper than the one selected. -/
theorem selectState_deepest (ns : Nat) (p : PowerState) (h : wakeBound p ≤ ns) : powerCode p ≤ powerCode (selectState ns) := by
  unfold selectState
  split_ifs
  all_goals cases p <;> simp only [wakeBound, powerCode] at * <;> omega

theorem selectState_within (ns : Nat) : wakeBound (selectState ns) ≤ ns := by
  unfold selectState
  split_ifs
  all_goals simp only [wakeBound]
  all_goals omega

/-- The state once a tolerance that was due is selected against, before the command ends. -/
def tolerated (s : State) (ns : Nat) : State :=
  { s with power := { s.power with tolerance := ns, selected := selectState ns, tolDue := none } }

theorem toleranceDue_of_some {s : State} {ns : Nat} (h : s.power.tolDue = some ns) :
    toleranceDue s = completeStarted (tolerated s ns) 0x0603 0 stSuccess
      (powerCode (selectState ns) + 2 ^ 32 * (wakeBound (selectState ns) / 1000)) := by
  unfold toleranceDue
  rw [h]
  rfl

theorem toleranceDue_selects {s : State} {ns : Nat} (h : s.power.tolDue = some ns) :
    tolerances (toleranceDue s) = (ns, selectState ns, none) := by
  rw [toleranceDue_of_some h]
  exact completeStarted_tolKept (tolerated s ns) _ _ _ _

/-- A tolerance that is due takes effect at the next step boundary. -/
theorem stepBoundary_selects {s : State} {ns : Nat} (h : s.power.tolDue = some ns) :
    tolerances (stepBoundary s) = (ns, selectState ns, none) := by
  have hdue : (bindDue s).power.tolDue = some ns := (congrArg (·.2.2) (bindDue_tolKept s)).trans h
  have hrest : TolKept (toleranceDue (bindDue s)) (stepBoundary s) := (retireDue_tolKept _).trans (takePoint_tolKept _)
  exact Eq.trans hrest (toleranceDue_selects hdue)

/-- The command waits for the boundary, with its tolerance due. -/
def toleranceWaits (s : State) (h : Hdr) (ns : Nat) : State :=
  startLater { advance s h.time with power := { s.power with tolDue := some ns } } h opLatencyToleranceSet 0

theorem exec_latencyToleranceSet {h : Hdr} {ns : Nat} {s : State} (ha : Accepted s h opLatencyToleranceSet)
    (hprep : s.board.preparing = []) (hswitch : 3 ≤ powerCode (selectState ns) → s.images.switching = none) :
    exec (.latencyToleranceSet h ns) s =
      .next (if s.serving.steps.isEmpty then toleranceDue (toleranceWaits s h ns) else toleranceWaits s h ns) := by
  have hfree : ¬ (3 ≤ powerCode (selectState ns) ∧ (advance s h.time).images.switching.isSome = true) := by
    rintro ⟨hdeep, hmoving⟩
    rw [advance_images, hswitch hdeep] at hmoving
    exact absurd hmoving (by decide)
  have hready : ¬ (advance s h.time).board.preparing.isEmpty = false := by
    rw [advance_board, hprep]
    decide
  exact congrArg Host.Outcome.next ((runCommand_accepted ha rfl).trans ((if_neg hready).trans (if_neg hfree)))

theorem powerRead_answers {h : Hdr} {s : State} (ha : Accepted s h opPowerRead) (ht : OnTime s h) :
    ∃ t, exec (.powerRead h) s = .next t ∧ t.power = s.power ∧
      Answered s t h stSuccess
        (s.power.mean1ms % 2 ^ 32 + 2 ^ 32 * min s.power.boundCap s.thermal.coolingCap +
          2 ^ 64 * powerCode s.power.state +
          2 ^ 80 * ((s.serving.tenants.filter (fun kv => kv.2.registered)).length % 65536))
        (wholeEntries h.dataLen (powerEntries s)) := by
  obtain ⟨t, he, honly, hans⟩ := answers (c := .powerRead h) (v := advance s h.time) rfl ha ht rfl rfl rfl
  exact ⟨t, he, honly .power (by decide), hans⟩

/-- Settles O23: the tolerance is due from the command on, and the next boundary, or the same instant, selects against it. -/
theorem powerStatesAreSelectedAndRead : Obligations.PowerStatesAreSelectedAndRead := by
  unfold Obligations.PowerStatesAreSelectedAndRead
  refine ⟨fun h ns s ha hprep hswitch => ?_, fun h s ha ht => powerRead_answers ha ht⟩
  have hexec := exec_latencyToleranceSet ha hprep hswitch
  refine ⟨fun hbusy => ?_, fun hidle => ?_, fun time hcap hdue => ?_, selectState_deepest ns, selectState_within ns⟩
  · rw [if_neg (by simpa using hbusy)] at hexec
    exact ⟨_, hexec, startLater_only _ h opLatencyToleranceSet 0 .power (by decide), startLater_started _ h _ 0⟩
  · rw [if_pos (by simp [hidle])] at hexec
    have hselected := toleranceDue_selects (s := toleranceWaits s h ns) (ns := ns) rfl
    obtain ⟨htol, hsel, hnone⟩ : _ ∧ _ ∧ _ := by simpa only [tolerances, Prod.mk.injEq] using hselected
    refine ⟨toleranceWaits s h ns, _, hexec, startLater_started _ h _ 0, htol, hsel, hnone, ?_⟩
    rw [toleranceDue_of_some (s := toleranceWaits s h ns) (ns := ns) rfl]
    exact completeStarted_ended (v := tolerated (toleranceWaits s h ns) ns) rfl _ _ _ _ (by decide)
  · have hselected := stepBoundary_selects (s := advance s time) hdue
    obtain ⟨htol, hsel, hnone⟩ : _ ∧ _ ∧ _ := by simpa only [tolerances, Prod.mk.injEq] using hselected
    exact ⟨_, congrArg Host.Outcome.next (if_pos hcap), htol, hsel, hnone⟩

end Sys2Proof.Proofs
